-- ==== Sys2Proof/Word.lean ====
section
/-! DEFINITION. The words of the machine and the fixed sets of names that instructions and state share. -/

namespace Sys2Proof

/-- A byte of memory. -/
abbrev Byte := BitVec 8
/-- A 32-bit parcel (R215). -/
abbrev Parcel := BitVec 32
/-- A 64-bit scalar register. -/
abbrev Word := BitVec 64
/-- A register field of an instruction (R219). -/
abbrev RegF := BitVec 5

/-- The four issue clusters of a context (R30). -/
inductive Cl where
  | C | A | V | M
deriving DecidableEq, Repr

/-- The cluster's code in records, masks and the save frame: C, A, V, M = 0 .. 3 (R395). -/
def Cl.code : Cl → Nat
  | .C => 0 | .A => 1 | .V => 2 | .M => 3

/-- The cluster of a code, reduced to two bits. -/
def Cl.ofCode : Nat → Cl
  | 0 => .C | 1 => .A | 2 => .V | _ => .M

/-- The bit of a cluster in a cluster mask: bit 3 is C down to bit 0 M (R234). -/
def Cl.maskBit : Cl → Nat
  | .C => 3 | .A => 2 | .V => 1 | .M => 0

/-- The clusters in the order C, A, V, M. -/
def Cl.all : List Cl := [.C, .A, .V, .M]

/-- An agent that executes instructions: a cluster of the context in a slot, or a supervisor core (R134). -/
inductive Agent where
  | cluster (slot : Nat) (c : Cl)
  | sup (core : Nat)
deriving DecidableEq, Repr

/-- The three ways of writing by which a register reaches its field map (R390): who writes. -/
inductive Writer where
  | distaff
  | supervisor (core : Nat)
  | hostPort (port : Nat)
deriving DecidableEq, Repr

end Sys2Proof
end

