-- ==== Sys2Proof/Syntax.lean ====
section
/-! DEFINITION. The instructions and events of the opcode table: one constructor per row. -/

namespace Sys2Proof

/-- The GUARD field: NEG and GSEL (R217). -/
structure Guard where
  neg : Bool
  sel : BitVec 3
deriving DecidableEq, Repr

/-- The second parcel of a 64-bit V-cluster instruction of majors 0x21 .. 0x26 (R224). -/
structure VMods where
  vc : RegF
  ovr : BitVec 5
  mask : BitVec 4
  z : Bool
  rm : BitVec 3
  qa : Bool
  qb : Bool
  qd : Bool
  qc : Bool
  imm : BitVec 10
deriving DecidableEq, Repr

/-- The modifiers of a short form: second parcel 0x003C_0000 (R226). -/
def VMods.short : VMods :=
  { vc := 0, ovr := 0, mask := 15, z := false, rm := 0, qa := false, qb := false, qd := false, qc := false, imm := 0 }

/-- A physical address, and the port of the link by which an access of it comes (R378, R381). -/
structure PortAddr where
  port : Nat
  addr : Nat
deriving DecidableEq, Repr

/-- The instructions and events of spec/opcode_table.json, one constructor per row.
Guards are GUARD of R217, register fields are named as the formats of R219 name them; the rows of engines, hosts and
controllers carry the data that the event brings. -/
inductive Instr where
  | add (g : Guard) (d a b : RegF)  -- ADD, R247
  | sub (g : Guard) (d a b : RegF)  -- SUB, R247
  | and (g : Guard) (d a b : RegF)  -- AND, R247
  | or (g : Guard) (d a b : RegF)  -- OR, R247
  | xor (g : Guard) (d a b : RegF)  -- XOR, R247
  | andn (g : Guard) (d a b : RegF)  -- ANDN, R247
  | shl (g : Guard) (d a b : RegF)  -- SHL, R247
  | shr (g : Guard) (d a b : RegF)  -- SHR, R247
  | sra (g : Guard) (d a b : RegF)  -- SRA, R247
  | ror (g : Guard) (d a b : RegF)  -- ROR, R247
  | min (g : Guard) (d a b : RegF)  -- MIN, R247
  | max (g : Guard) (d a b : RegF)  -- MAX, R247
  | minu (g : Guard) (d a b : RegF)  -- MINU, R247
  | maxu (g : Guard) (d a b : RegF)  -- MAXU, R247
  | clz (g : Guard) (d a : RegF)  -- CLZ, R247
  | ctz (g : Guard) (d a : RegF)  -- CTZ, R247
  | popc (g : Guard) (d a : RegF)  -- POPC, R247
  | adds (g : Guard) (d a b : RegF)  -- ADDS, R247
  | subs (g : Guard) (d a b : RegF)  -- SUBS, R247
  | shls (g : Guard) (d a b : RegF)  -- SHLS, R247
  | addi (g : Guard) (d a : RegF) (imm : BitVec 11)  -- ADDI, R248
  | andi (g : Guard) (d a : RegF) (imm : BitVec 11)  -- ANDI, R248
  | ori (g : Guard) (d a : RegF) (imm : BitVec 11)  -- ORI, R248
  | xori (g : Guard) (d a : RegF) (imm : BitVec 11)  -- XORI, R248
  | shli (g : Guard) (d a : RegF) (n : BitVec 6)  -- SHLI, R248
  | shri (g : Guard) (d a : RegF) (n : BitVec 6)  -- SHRI, R248
  | srai (g : Guard) (d a : RegF) (n : BitVec 6)  -- SRAI, R248
  | rori (g : Guard) (d a : RegF) (n : BitVec 6)  -- RORI, R248
  | mul (g : Guard) (d a b : RegF)  -- MUL, R249
  | mulh (g : Guard) (d a b : RegF)  -- MULH, R249
  | mulhu (g : Guard) (d a b : RegF)  -- MULHU, R249
  | div (g : Guard) (d a b : RegF)  -- DIV, R249
  | divu (g : Guard) (d a b : RegF)  -- DIVU, R249
  | rem (g : Guard) (d a b : RegF)  -- REM, R249
  | remu (g : Guard) (d a b : RegF)  -- REMU, R249
  | muls (g : Guard) (d a b : RegF)  -- MULS, R249
  | bextu (g : Guard) (d a : RegF) (lsb width1 : BitVec 6)  -- BEXTU, R251
  | bext (g : Guard) (d a : RegF) (lsb width1 : BitVec 6)  -- BEXT, R251
  | bins (g : Guard) (d a : RegF) (lsb width1 : BitVec 6)  -- BINS, R251
  | limmh (g : Guard) (d : RegF) (imm : BitVec 16)  -- LIMMH, R250
  | limm (g : Guard) (d : RegF) (imm : BitVec 48)  -- LIMM, R250
  | cmp (g : Guard) (gt gf : BitVec 3) (a b : RegF) (cond : BitVec 4)  -- CMP, R252
  | fcmp (g : Guard) (gt gf : BitVec 3) (a b : RegF) (cond : BitVec 4)  -- FCMP, R252
  | cmpi (g : Guard) (gt gf : BitVec 3) (a : RegF) (imm : BitVec 32) (cond : BitVec 4)  -- CMPI, R252
  | sel (g : Guard) (d a b : RegF) (neg : Bool) (p : BitVec 3)  -- SEL, R253
  | br (g : Guard) (disp : BitVec 21)  -- BR, R254
  | brl (g : Guard) (disp : BitVec 21)  -- BRL, R254
  | jr (g : Guard) (a : RegF)  -- JR, R254
  | jrl (g : Guard) (d a : RegF)  -- JRL, R254
  | loop (g : Guard) (c : RegF) (disp : BitVec 16)  -- LOOP, R255
  | ldb (g : Guard) (d a : RegF) (off : BitVec 8)  -- LDB, R257
  | ldbu (g : Guard) (d a : RegF) (off : BitVec 8)  -- LDBU, R257
  | ldh (g : Guard) (d a : RegF) (off : BitVec 8)  -- LDH, R257
  | ldhu (g : Guard) (d a : RegF) (off : BitVec 8)  -- LDHU, R257
  | ldw (g : Guard) (d a : RegF) (off : BitVec 8)  -- LDW, R257
  | ldwu (g : Guard) (d a : RegF) (off : BitVec 8)  -- LDWU, R257
  | ldd (g : Guard) (d a : RegF) (off : BitVec 8)  -- LDD, R257
  | stb (g : Guard) (d a : RegF) (off : BitVec 8)  -- STB, R257
  | sth (g : Guard) (d a : RegF) (off : BitVec 8)  -- STH, R257
  | stw (g : Guard) (d a : RegF) (off : BitVec 8)  -- STW, R257
  | std (g : Guard) (d a : RegF) (off : BitVec 8)  -- STD, R257
  | amoswap (g : Guard) (d a b : RegF) (ord : BitVec 2) (scope : BitVec 3) (w : Bool)  -- AMOSWAP, R260
  | amoadd (g : Guard) (d a b : RegF) (ord : BitVec 2) (scope : BitVec 3) (w : Bool)  -- AMOADD, R260
  | amoand (g : Guard) (d a b : RegF) (ord : BitVec 2) (scope : BitVec 3) (w : Bool)  -- AMOAND, R260
  | amoor (g : Guard) (d a b : RegF) (ord : BitVec 2) (scope : BitVec 3) (w : Bool)  -- AMOOR, R260
  | amoxor (g : Guard) (d a b : RegF) (ord : BitVec 2) (scope : BitVec 3) (w : Bool)  -- AMOXOR, R260
  | amomin (g : Guard) (d a b : RegF) (ord : BitVec 2) (scope : BitVec 3) (w : Bool)  -- AMOMIN, R260
  | amomax (g : Guard) (d a b : RegF) (ord : BitVec 2) (scope : BitVec 3) (w : Bool)  -- AMOMAX, R260
  | amominu (g : Guard) (d a b : RegF) (ord : BitVec 2) (scope : BitVec 3) (w : Bool)  -- AMOMINU, R260
  | amomaxu (g : Guard) (d a b : RegF) (ord : BitVec 2) (scope : BitVec 3) (w : Bool)  -- AMOMAXU, R260
  | cas (g : Guard) (d a b : RegF) (ord : BitVec 2) (scope : BitVec 3) (w : Bool)  -- CAS, R260
  | ldacq (g : Guard) (d a : RegF) (scope : BitVec 3)  -- LDACQ, R259
  | ldacqw (g : Guard) (d a : RegF) (scope : BitVec 3)  -- LDACQW, R259
  | strel (g : Guard) (d a : RegF) (scope : BitVec 3)  -- STREL, R259
  | strelw (g : Guard) (d a : RegF) (scope : BitVec 3)  -- STRELW, R259
  | fence (g : Guard) (scope : BitVec 3)  -- FENCE, R259
  | fadd (g : Guard) (d a b : RegF)  -- FADD, R256
  | fsub (g : Guard) (d a b : RegF)  -- FSUB, R256
  | fmul (g : Guard) (d a b : RegF)  -- FMUL, R256
  | fma (g : Guard) (d a b : RegF)  -- FMA, R256
  | fmin (g : Guard) (d a b : RegF)  -- FMIN, R256
  | fmax (g : Guard) (d a b : RegF)  -- FMAX, R256
  | fcvtf (g : Guard) (d a : RegF)  -- FCVTF, R256
  | fcvtfu (g : Guard) (d a : RegF)  -- FCVTFU, R256
  | fcvti (g : Guard) (d a : RegF)  -- FCVTI, R256
  | fcvtiu (g : Guard) (d a : RegF)  -- FCVTIU, R256
  | fabs (g : Guard) (d a : RegF)  -- FABS, R256
  | fneg (g : Guard) (d a : RegF)  -- FNEG, R256
  | qpush (g : Guard) (d : RegF) (q : BitVec 4)  -- QPUSH, R271
  | qpushu (g : Guard) (d : RegF) (q : BitVec 4)  -- QPUSHU, R271
  | qpushf (g : Guard) (d : RegF) (q : BitVec 4)  -- QPUSHF, R271
  | qpops (g : Guard) (d : RegF) (q : BitVec 4)  -- QPOPS, R271
  | qpeek (g : Guard) (d : RegF) (q : BitVec 4)  -- QPEEK, R271
  | qstat (g : Guard) (d : RegF) (q : BitVec 4)  -- QSTAT, R272
  | qclose (g : Guard) (q : BitVec 4)  -- QCLOSE, R273
  | csrr (g : Guard) (d : RegF) (csr : BitVec 10)  -- CSRR, R351
  | csrw (g : Guard) (a : RegF) (csr : BitVec 10)  -- CSRW, R351
  | end_ (g : Guard)  -- END, R345
  | yield (g : Guard)  -- YIELD, R345
  | bar (g : Guard)  -- BAR, R47
  | rdv (g : Guard) (mask : BitVec 4) (tag : BitVec 4)  -- RDV, R32
  | cfork (g : Guard) (mask : BitVec 4) (a b : RegF)  -- CFORK, R31
  | cforkLong (g : Guard) (mask : BitVec 4) (a b c : RegF)  -- CFORK_LONG, R31
  | sigwait (g : Guard) (scope : BitVec 3) (cond : BitVec 2) (a b : RegF)  -- SIGWAIT, R346
  | sigset (g : Guard) (scope : BitVec 3) (a b : RegF)  -- SIGSET, R347
  | getts (g : Guard) (d : RegF)  -- GETTS, R355
  | trap (g : Guard) (code : BitVec 10)  -- TRAP, R357
  | taskq (g : Guard) (d a b : RegF)  -- TASKQ, R348
  | shpost (g : Guard) (scope : BitVec 3) (a b : RegF)  -- SHPOST, R349
  | wid (g : Guard) (d : RegF) (j : BitVec 5)  -- WID, R350
  | svret (g : Guard)  -- SVRET, R358
  | rsave (g : Guard) (a : RegF)  -- RSAVE, R358
  | rrest (g : Guard) (a : RegF)  -- RREST, R358
  | tlbi (g : Guard) (a : RegF) (kind : BitVec 5)  -- TLBI, R359
  | ltld (g : Guard) (set : BitVec 2) (a : RegF)  -- LTLD, R96
  | recode (g : Guard) (d a : RegF)  -- RECODE, R360
  | hint (payload : BitVec 25)  -- HINT, R239
  | hintLong (payload : BitVec 25) (second : BitVec 32)  -- HINT_LONG, R239
  | vldq (g : Guard) (q a : RegF)  -- VLDQ, R265
  | vldsq (g : Guard) (q a b : RegF)  -- VLDSQ, R265
  | vldxq (g : Guard) (q a qi : RegF)  -- VLDXQ, R265
  | vstq (g : Guard) (q a : RegF)  -- VSTQ, R269
  | vstsq (g : Guard) (q a b : RegF)  -- VSTSQ, R269
  | vstxq (g : Guard) (q a qi : RegF)  -- VSTXQ, R269
  | setvlAccess (g : Guard) (d a fmt : RegF)  -- SETVL_ACCESS, R264
  | sbind (g : Guard) (q a : RegF)  -- SBIND, R275
  | sunbind (g : Guard) (q : RegF)  -- SUNBIND, R279
  | copy (g : Guard) (len dst src : RegF) (cq : BitVec 2) (cb : BitVec 3) (scope : BitVec 3) (sx sv : RegF) (dsp ssp : Bool)  -- COPY, R280
  | copyt (g : Guard) (len dst src : RegF) (cq : BitVec 2) (cb : BitVec 3) (scope : BitVec 3) (sx sv sh : RegF) (dsp ssp : Bool)  -- COPYT, R282
  | cwait (g : Guard) (cb a b : RegF)  -- CWAIT, R285
  | ctest (g : Guard) (d a b : RegF) (cb : BitVec 3)  -- CTEST, R285
  | cclr (g : Guard) (cb a b : RegF)  -- CCLR, R285
  | qfence (g : Guard) (cqs : BitVec 4) (qs : BitVec 16)  -- QFENCE, R286
  | tagrd (g : Guard) (d a : RegF)  -- TAGRD, R287
  | tagset (g : Guard) (a b : RegF)  -- TAGSET, R288
  | pfl2 (g : Guard) (a b : RegF)  -- PFL2, R289
  | setvl (g : Guard) (d a fmt : RegF)  -- SETVL, R297
  | setvcap (g : Guard) (d n : RegF)  -- SETVCAP, R113
  | cbtld (g : Guard) (a : RegF)  -- CBTLD, R298
  | vtagr (g : Guard) (d a : RegF)  -- VTAGR, R297
  | vtagw (g : Guard) (d a : RegF)  -- VTAGW, R299
  | qpopv (g : Guard) (d q : RegF)  -- QPOPV, R300
  | vld (g : Guard) (d a : RegF) (sp : Bool)  -- VLD, R302
  | vldLong (g : Guard) (d a : RegF) (sp : Bool) (m : VMods)  -- VLD_LONG, R302
  | vst (g : Guard) (d a : RegF) (sp : Bool)  -- VST, R304
  | vstLong (g : Guard) (d a : RegF) (sp : Bool) (m : VMods)  -- VST_LONG, R304
  | vldx (g : Guard) (d a b : RegF) (ls sp : Bool)  -- VLDX, R302
  | vldxLong (g : Guard) (d a b : RegF) (ls sp : Bool) (m : VMods)  -- VLDX_LONG, R302
  | vstx (g : Guard) (d a b : RegF) (ls sp : Bool)  -- VSTX, R304
  | vstxLong (g : Guard) (d a b : RegF) (ls sp : Bool) (m : VMods)  -- VSTX_LONG, R304
  | vadd (g : Guard) (d a b : RegF)  -- VADD, R305
  | vaddLong (g : Guard) (d a b : RegF) (m : VMods)  -- VADD_LONG, R305
  | vsub (g : Guard) (d a b : RegF)  -- VSUB, R305
  | vsubLong (g : Guard) (d a b : RegF) (m : VMods)  -- VSUB_LONG, R305
  | vmul (g : Guard) (d a b : RegF)  -- VMUL, R305
  | vmulLong (g : Guard) (d a b : RegF) (m : VMods)  -- VMUL_LONG, R305
  | vmin (g : Guard) (d a b : RegF)  -- VMIN, R305
  | vminLong (g : Guard) (d a b : RegF) (m : VMods)  -- VMIN_LONG, R305
  | vmax (g : Guard) (d a b : RegF)  -- VMAX, R305
  | vmaxLong (g : Guard) (d a b : RegF) (m : VMods)  -- VMAX_LONG, R305
  | vabs (g : Guard) (d a : RegF)  -- VABS, R305
  | vabsLong (g : Guard) (d a : RegF) (m : VMods)  -- VABS_LONG, R305
  | vneg (g : Guard) (d a : RegF)  -- VNEG, R305
  | vnegLong (g : Guard) (d a : RegF) (m : VMods)  -- VNEG_LONG, R305
  | vfma (g : Guard) (d a b : RegF) (m : VMods)  -- VFMA, R305
  | vfms (g : Guard) (d a b : RegF) (m : VMods)  -- VFMS, R305
  | vnfma (g : Guard) (d a b : RegF) (m : VMods)  -- VNFMA, R305
  | vand (g : Guard) (d a b : RegF)  -- VAND, R307
  | vandLong (g : Guard) (d a b : RegF) (m : VMods)  -- VAND_LONG, R307
  | vor (g : Guard) (d a b : RegF)  -- VOR, R307
  | vorLong (g : Guard) (d a b : RegF) (m : VMods)  -- VOR_LONG, R307
  | vxor (g : Guard) (d a b : RegF)  -- VXOR, R307
  | vxorLong (g : Guard) (d a b : RegF) (m : VMods)  -- VXOR_LONG, R307
  | vshl (g : Guard) (d a b : RegF)  -- VSHL, R307
  | vshlLong (g : Guard) (d a b : RegF) (m : VMods)  -- VSHL_LONG, R307
  | vshr (g : Guard) (d a b : RegF)  -- VSHR, R307
  | vshrLong (g : Guard) (d a b : RegF) (m : VMods)  -- VSHR_LONG, R307
  | vsra (g : Guard) (d a b : RegF)  -- VSRA, R307
  | vsraLong (g : Guard) (d a b : RegF) (m : VMods)  -- VSRA_LONG, R307
  | vcmp (g : Guard) (d a b : RegF) (m : VMods)  -- VCMP, R308
  | vsel (g : Guard) (d a b : RegF) (m : VMods)  -- VSEL, R309
  | vmov (g : Guard) (d a : RegF)  -- VMOV, R309
  | vmovLong (g : Guard) (d a : RegF) (m : VMods)  -- VMOV_LONG, R309
  | vsplat (g : Guard) (d a : RegF)  -- VSPLAT, R309
  | vsplatLong (g : Guard) (d a : RegF) (m : VMods)  -- VSPLAT_LONG, R309
  | vextr (g : Guard) (d a b : RegF)  -- VEXTR, R309
  | vextrLong (g : Guard) (d a b : RegF) (m : VMods)  -- VEXTR_LONG, R309
  | vcvt (g : Guard) (d a : RegF) (m : VMods)  -- VCVT, R310
  | vscale (g : Guard) (d a : RegF)  -- VSCALE, R311
  | vscaleLong (g : Guard) (d a : RegF) (m : VMods)  -- VSCALE_LONG, R311
  | vexp2 (g : Guard) (d a : RegF)  -- VEXP2, R306
  | vexp2Long (g : Guard) (d a : RegF) (m : VMods)  -- VEXP2_LONG, R306
  | vlog2 (g : Guard) (d a : RegF)  -- VLOG2, R306
  | vlog2Long (g : Guard) (d a : RegF) (m : VMods)  -- VLOG2_LONG, R306
  | vrcp (g : Guard) (d a : RegF)  -- VRCP, R306
  | vrcpLong (g : Guard) (d a : RegF) (m : VMods)  -- VRCP_LONG, R306
  | vrsq (g : Guard) (d a : RegF)  -- VRSQ, R306
  | vrsqLong (g : Guard) (d a : RegF) (m : VMods)  -- VRSQ_LONG, R306
  | vssmx (g : Guard) (d a b : RegF) (m : VMods)  -- VSSMX, R312
  | vredsum (g : Guard) (d a : RegF)  -- VREDSUM, R313
  | vredsumLong (g : Guard) (d a : RegF) (m : VMods)  -- VREDSUM_LONG, R313
  | vredmax (g : Guard) (d a : RegF)  -- VREDMAX, R313
  | vredmaxLong (g : Guard) (d a : RegF) (m : VMods)  -- VREDMAX_LONG, R313
  | vredmin (g : Guard) (d a : RegF)  -- VREDMIN, R313
  | vredminLong (g : Guard) (d a : RegF) (m : VMods)  -- VREDMIN_LONG, R313
  | vscan (g : Guard) (d a : RegF)  -- VSCAN, R314
  | vscanLong (g : Guard) (d a : RegF) (m : VMods)  -- VSCAN_LONG, R314
  | vperm (g : Guard) (d a b : RegF)  -- VPERM, R315
  | vpermLong (g : Guard) (d a b : RegF) (m : VMods)  -- VPERM_LONG, R315
  | vslide (g : Guard) (d a : RegF) (m : VMods)  -- VSLIDE, R315
  | vcompress (g : Guard) (d a : RegF) (m : VMods)  -- VCOMPRESS, R315
  | vexpand (g : Guard) (d a : RegF) (m : VMods)  -- VEXPAND, R315
  | kand (g : Guard) (d a b : RegF)  -- KAND, R316
  | kandLong (g : Guard) (d a b : RegF) (m : VMods)  -- KAND_LONG, R316
  | kor (g : Guard) (d a b : RegF)  -- KOR, R316
  | korLong (g : Guard) (d a b : RegF) (m : VMods)  -- KOR_LONG, R316
  | kxor (g : Guard) (d a b : RegF)  -- KXOR, R316
  | kxorLong (g : Guard) (d a b : RegF) (m : VMods)  -- KXOR_LONG, R316
  | kandn (g : Guard) (d a b : RegF)  -- KANDN, R316
  | kandnLong (g : Guard) (d a b : RegF) (m : VMods)  -- KANDN_LONG, R316
  | knot (g : Guard) (d a : RegF)  -- KNOT, R316
  | knotLong (g : Guard) (d a : RegF) (m : VMods)  -- KNOT_LONG, R316
  | kmov (g : Guard) (d a : RegF)  -- KMOV, R316
  | kmovLong (g : Guard) (d a : RegF) (m : VMods)  -- KMOV_LONG, R316
  | kfirst (g : Guard) (d a : RegF)  -- KFIRST, R316
  | kfirstLong (g : Guard) (d a : RegF) (m : VMods)  -- KFIRST_LONG, R316
  | kpop (g : Guard) (d a : RegF)  -- KPOP, R316
  | kpopLong (g : Guard) (d a : RegF) (m : VMods)  -- KPOP_LONG, R316
  | reel (g : Guard) (n1 : BitVec 6) (a : RegF)  -- REEL, R317
  | reelx (g : Guard) (n1 : BitVec 6) (a b : RegF)  -- REELX, R318
  | convoy (n2 : BitVec 3) (u0 u1 u2 u3 u4 u5 : BitVec 3)  -- CONVOY, R228
  | mclaim (g : Guard) (d n : RegF)  -- MCLAIM, R327
  | mclaimElastic (g : Guard) (d n : RegF)  -- MCLAIM_ELASTIC, R327
  | mrel (g : Guard) (d : RegF)  -- MREL, R327
  | mzero (g : Guard) (d : RegF)  -- MZERO, R327
  | mrank (g : Guard) (d a : RegF)  -- MRANK, R327
  | mtr (g : Guard) (d a : RegF)  -- MTR, R337
  | mdense (g : Guard) (d a : RegF)  -- MDENSE, R337
  | mld (g : Guard) (d a b : RegF)  -- MLD, R328
  | mldSparse (g : Guard) (d a b rc : RegF) (mode : BitVec 2)  -- MLD_SPARSE, R329
  | mldf (g : Guard) (d a b : RegF)  -- MLDF, R330
  | mst (g : Guard) (d a b : RegF)  -- MST, R331
  | mstf (g : Guard) (d a b : RegF)  -- MSTF, R330
  | mma (g : Guard) (d a b : RegF)  -- MMA, R332
  | msld (g : Guard) (d a b : RegF) (n : BitVec 6)  -- MSLD, R334
  | mlmul (g : Guard) (d a b : RegF)  -- MLMUL, R101
  | mladd (g : Guard) (d a b rc re : RegF) (mode : BitVec 2)  -- MLADD, R336
  | mlrc (g : Guard) (d a : RegF)  -- MLRC, R104
  | azero (g : Guard) (d : RegF)  -- AZERO, R339
  | ald (g : Guard) (d a b : RegF)  -- ALD, R339
  | ast (g : Guard) (d a b : RegF)  -- AST, R339
  | acvt (g : Guard) (d a : RegF) (fmt : RegF) (blk : BitVec 2) (rm : BitVec 3) (qd : Bool)  -- ACVT, R340
  | pageWalk (asd va : Nat)  -- PAGE_WALK, R423
  | atsTranslationCompletion (pasid va size pa : Nat) (read write : Bool)  -- ATS_TRANSLATION_COMPLETION, R458
  | priResponse (pasid va : Nat) (code : BitVec 2)  -- PRI_RESPONSE, R424
  | pageRequestTimeout (pasid va : Nat)  -- PAGE_REQUEST_TIMEOUT, R424
  | atsInvalidate (pasid va size : Nat)  -- ATS_INVALIDATE, R426
  | hostOwnership (line : Nat)  -- HOST_OWNERSHIP, R427
  | backInvalidationTimeout (line sent : Nat)  -- BACK_INVALIDATION_TIMEOUT, R427
  | hostMemAccess (pa : PortAddr) (len : Nat) (write : Bool) (data : List Byte)  -- HOST_MEM_ACCESS, R476
  | peerAccess (peer : Nat) (pa : PortAddr) (len : Nat) (write : Bool) (data tags : List Byte)  -- PEER_ACCESS, R158
  | lportPost (port n : Nat) (value : Word)  -- LPORT_POST, R376
  | hostRecodePort (port : Nat) (record : List Byte)  -- HOST_RECODE_PORT, R360
  | hostDecryptionPort (port : Nat) (record : List Byte)  -- HOST_DECRYPTION_PORT, R382
  | decryptionJobComplete  -- DECRYPTION_JOB_COMPLETE, R382
  | keySlotWrite (slot : Nat) (key : BitVec 256)  -- KEY_SLOT_WRITE, R382
  | pstateRequest (req : BitVec 3)  -- PSTATE_REQUEST, R383
  | pstateTransitionDone  -- PSTATE_TRANSITION_DONE, R383
  | pwrcapWrite (value : Word)  -- PWRCAP_WRITE, R384
  | powerSample (avg10us avg1ms : Nat)  -- POWER_SAMPLE, R384
  | powerTrip  -- POWER_TRIP, R467
  | thermalLimit (source : Nat) (temp : Nat)  -- THERMAL_LIMIT, R471
  | thermalStepDown  -- THERMAL_STEP_DOWN, R471
  | thermalStepUp  -- THERMAL_STEP_UP, R471
  | thermalTrip (temp : Nat)  -- THERMAL_TRIP, R467
  | hbmTempHot (stack temp : Nat)  -- HBM_TEMP_HOT, R387
  | bobbinPark (bobbin : Nat)  -- BOBBIN_PARK, R385
  | parkComplete (bobbin : Nat)  -- PARK_COMPLETE, R385
  | parkAbandon (bobbin : Nat)  -- PARK_ABANDON, R472
  | bobbinUnpark (bobbin : Nat)  -- BOBBIN_UNPARK, R385
  | unparkComplete (bobbin : Nat) (passed : Bool)  -- UNPARK_COMPLETE, R385
  | predctlClr (w : Writer) (value : Word)  -- PREDCTL_CLR, R201
  | expqSubmit (core : Nat) (value : Word)  -- EXPQ_SUBMIT, R437
  | exportJobComplete  -- EXPORT_JOB_COMPLETE, R438
  | bankcfgWrite (slot : Nat) (value : Word)  -- BANKCFG_WRITE, R111
  | qcfgWrite (slot q : Nat) (value : Word)  -- QCFG_WRITE, R356
  | registerWrite (w : Writer) (offset size : Nat) (value : Word)  -- REGISTER_WRITE, R5
  | msixUnmask (port vector : Nat)  -- MSIX_UNMASK, R377
  | moduleReset  -- MODULE_RESET, R389
  | lifeCycleChange (lcs : BitVec 2)  -- LIFE_CYCLE_CHANGE, R391
  | linkReplay (port : Nat)  -- LINK_REPLAY, R468
  | linkReplayThreshold (port : Nat)  -- LINK_REPLAY_THRESHOLD, R467
  | linkDown (port : Nat) (inFlight : List Nat)  -- LINK_DOWN, R469
  | linkTrained (port : Nat)  -- LINK_TRAINED, R469
  | distaffRestart  -- DISTAFF_RESTART, R473
  | distaffWatchdog  -- DISTAFF_WATCHDOG, R473
  | uncontainedError (src : Nat) (cause : Nat)  -- UNCONTAINED_ERROR, R404
  | taskTake (queue : Nat)  -- TASK_TAKE, R171
  | waitConditionRecheck (task : Nat) (k : Nat)  -- WAIT_CONDITION_RECHECK, R168
  | hankAdmit (task : Nat)  -- HANK_ADMIT, R174
  | stagingCopy (task : Nat) (wid : Word) (region lines : Nat)  -- STAGING_COPY, R177
  | stagingLanded (task : Nat) (wid : Word)  -- STAGING_LANDED, R180
  | stagingWindow (bobbin : Nat)  -- STAGING_WINDOW, R178
  | slotReserve (task : Nat) (wid : Word)  -- SLOT_RESERVE, R179
  | hankDispatch (task : Nat) (wid : Word)  -- HANK_DISPATCH, R183
  | hankEnd (slot : Nat)  -- HANK_END, R29
  | preempt (task : Nat) (wid : Word)  -- PREEMPT, R187
  | saveComplete (slot : Nat)  -- SAVE_COMPLETE, R188
  | resume (task : Nat) (wid : Word)  -- RESUME, R194
  | hankAgeing (task : Nat) (wid : Word)  -- HANK_AGEING, R48
  | issueStarvation (slot : Nat) (c : Cl)  -- ISSUE_STARVATION, R41
  | shapeLearn (task d : Nat)  -- SHAPE_LEARN, R210
  | shapeTimeout (task d : Nat)  -- SHAPE_TIMEOUT, R443
  | hankWatchdog (slot : Nat)  -- HANK_WATCHDOG, R405
  | eventWatchdog (core : Nat)  -- EVENT_WATCHDOG, R405
  | supervisorEventTake (bobbin : Nat)  -- SUPERVISOR_EVENT_TAKE, R401
  | queueSpaceWake (slot : Nat) (c : Cl)  -- QUEUE_SPACE_WAKE, R36
  | queueEntryWake (slot : Nat) (c : Cl)  -- QUEUE_ENTRY_WAKE, R36
  | queueEntryPlaced (slot q : Nat)  -- QUEUE_ENTRY_PLACED, R267
  | elementGroupArrival (slot v group : Nat)  -- ELEMENT_GROUP_ARRIVAL, R115
  | barrierComplete (slot : Nat)  -- BARRIER_COMPLETE, R47
  | rendezvousComplete (slot : Nat)  -- RENDEZVOUS_COMPLETE, R32
  | sigwaitRetest (slot : Nat) (c : Cl)  -- SIGWAIT_RETEST, R346
  | copyCommandStart (slot cq : Nat)  -- COPY_COMMAND_START, R280
  | completionBitSet (slot cq chunk : Nat)  -- COMPLETION_BIT_SET, R284
  | copyCommandComplete (slot cq : Nat)  -- COPY_COMMAND_COMPLETE, R150
  | qfenceComplete (slot : Nat)  -- QFENCE_COMPLETE, R151
  | streamRefill (slot q : Nat)  -- STREAM_REFILL, R276
  | recodeLineRewrite (stack : Nat)  -- RECODE_LINE_REWRITE, R70
  | recodeJobComplete  -- RECODE_JOB_COMPLETE, R360
  | modulePowerOff  -- MODULE_POWER_OFF, R12
  | hbmStackCooled (stack temp : Nat)  -- HBM_STACK_COOLED, R471
  | backInvalidationResponse (line : Nat) (data : List Byte)  -- BACK_INVALIDATION_RESPONSE, R427
  | priEnableWrite (port : Nat) (enable : Bool)  -- PRI_ENABLE_WRITE, R424
  | loadDataReturn (a : Agent) (k : Nat)  -- LOAD_DATA_RETURN, R33
  | spdmMeasurementRequest (port : Nat) (nonce : Word)  -- SPDM_MEASUREMENT_REQUEST, R391
deriving DecidableEq, Repr

end Sys2Proof
end

