-- ==== Sys2Proof/Config.lean ====
section
/-! DEFINITION. Constants of the implementation and the values that the manual leaves open: opaque functions without a
body, so that nothing in Lean can evaluate them. -/

namespace Sys2Proof

/-- An error in a storage structure (R393). -/
inductive Upset where
  /-- A corrected error of a bobbin's structures, or of the Creel's (R394). -/
  | corrected (bobbin : Option Nat)
  /-- Bits of an ECC block flip (R72). -/
  | block (pa bits : Nat)
  /-- An uncorrectable error of the line that an L1 or L2 place holds. -/
  | cached (l1 : Bool) (place : Nat)
  /-- An uncorrectable error in the banks, registers, tiles or save buffers of a context. -/
  | context (slot : Nat)
  /-- An uncorrectable error in a Provisional Line Buffer entry. -/
  | held (bobbin i : Nat)
  /-- A parity error of a predictor entry. -/
  | predictor (i : Nat)
  /-- An uncorrectable error in an array whose owner is lost: L2 tags of a bobbin, or the Creel's queues. -/
  | array (bobbin : Option Nat)
  /-- A line of the second tier or of host memory whose reads return poisoned data from now on, or no longer (R431). -/
  | outside (pa : Nat) (poisoned : Bool)
deriving DecidableEq, Repr

/-- What happens beside instructions and the rows of the opcode table: no program names it, and its time is not
architectural. -/
inductive Happening where
  | upset (u : Upset)
  /-- A cluster performs a vector instruction, or convoy member `j`, up to element group `g` (R188, R191). -/
  | groups (a : Agent) (j g : Nat)
  /-- A cluster's oldest issued store is performed (R138). -/
  | perform (a : Agent)
  /-- A line enters an empty place of an L1 way or an L2 slice, or leaves it (R118, R119). -/
  | fill (l1 : Bool) (place line : Nat)
  | evict (l1 : Bool) (place : Nat)
  /-- A TLB or a walk cache drops an entry (R125). -/
  | dropTranslation (i : Nat)
  | dropWalk (bobbin i : Nat)
  /-- The Distaff sets a protected range, or removes it (R382). -/
  | protect (i base len : Nat)
  /-- An element group of a queue's last entry, whose load is still to land, arrives (R267). -/
  | landQueue (slot q group : Nat)
  /-- An engine begins to unfold the pages of one frame, or moves the next line of a page that it unfolds (R133). -/
  | unfold (asd : Nat) (vas : List Nat)
  | moveNext (i : Nat)
deriving DecidableEq, Repr

/-- A turn: which agent moves next. `run` lets an agent issue its next packet; with `late` set, the result of a load
lands only with a later LOAD_DATA_RETURN or ELEMENT_GROUP_ARRIVAL (R33, R115), and a store is performed only later (R138).
`event` is a row of the opcode table that an engine, a controller, a host or the board performs. -/
inductive Turn where
  | run (a : Agent) (late : Bool)
  | event (i : Instr)
  | happen (h : Happening)
deriving DecidableEq, Repr

/-- FREE VALUE: the turn taken at step `n` when State names none (R34, R41, R134: how agents interleave is not
architectural). -/
opaque Config.freeTurn (n : Nat) : Option Turn

/-- FREE VALUE: the nanoseconds that pass during step `n` (R4, R355). -/
opaque Config.elapsedNs (n : Nat) : Nat

/-- FREE VALUE: the measurement of the Distaff firmware in an SPDM report (R391). -/
opaque Config.firmwareMeasurement (n : Nat) : BitVec 256

/-- FREE VALUE: the FP32 value that stands for a whole VQ2 index where an instruction needs one value of it. No rule gives
an index of eight weights one value (R54, R60; log entry 13). -/
opaque Config.vq2Value (idx : Nat) : BitVec 32

/-- FREE VALUE: the index to which a value is quantised where an instruction re-encodes VQ2 elements; the arguments are the
value's kind and sign, significand and exponent. The device has no quantiser (R310; log entry 13). -/
opaque Config.vq2Code (kind m : Nat) (e : Int) : BitVec 16

/-- FREE VALUE: what CSRR of a control register that only a context has reads on a supervisor core, at step `n`. No rule
gives a core these registers (R235, R352; log entry 14). -/
opaque Config.coreCsr (n csr : Nat) : BitVec 64

/-- FREE VALUE: the FP32 value that stands for an element of format NONE where a stream operator needs one. No rule gives such
an element a value (R51, R278; log entry 13). -/
opaque Config.noneValue (code : Nat) : BitVec 32

/-- FREE VALUE: physical address of the frame into which the recoding engine folds pages at step `n` (R133 names no place from
which the frame comes; log entry 15). -/
opaque Config.plyFrame (n : Nat) : Nat

/-- FREE VALUE: physical address of the frame to which page `i` of a folded group is unfolded, at step `n` (R133 names no place from
which the frames come; log entry 15). -/
opaque Config.unfoldFrame (n i : Nat) : Nat

/-- FREE VALUE: physical address of the HBM4 frame to which the Carding Unit moves a page at step `n` (R120, R177 name no place from
which the frame comes; log entry 45). -/
opaque Config.promoteFrame (n : Nat) : Nat

/-- FREE VALUE: what a save leaves in byte `a` of a block that it writes, where no section of the frame has that byte; the save
runs at step `n` (R189, R451: saves write whole blocks; log entry 16). -/
opaque Config.frameByte (n a : Nat) : BitVec 8

end Sys2Proof
end

