-- ==== Sys2Proof/Machine/Flags.lean ====
section
/-! DEFINITION. The sticky flags of a context (R85) and the ways of raising them. -/

namespace Sys2Proof.Machine

/-- FLAGS[9:0] (R85). -/
abbrev Flags := BitVec 10

/-- No flag. -/
def Flags.none : Flags := 0
/-- Inexact. -/
def Flags.nx : Flags := 0x001
/-- Underflow. -/
def Flags.uf : Flags := 0x002
/-- Overflow. -/
def Flags.of : Flags := 0x004
/-- Division by zero. -/
def Flags.dz : Flags := 0x008
/-- Invalid operation. -/
def Flags.nv : Flags := 0x010
/-- A NaN block scale was decoded (R54). -/
def Flags.scn : Flags := 0x020
/-- A narrowing or integer operation saturated. -/
def Flags.sat : Flags := 0x040
/-- A permute index was out of range. -/
def Flags.xr : Flags := 0x080
/-- A store demoted its data. -/
def Flags.dmt : Flags := 0x100
/-- A poisoned block was zero-substituted. -/
def Flags.pzs : Flags := 0x200

/-- A flag raised when a condition holds. -/
def Flags.when (c : Bool) (f : Flags) : Flags := if c then f else 0

/-- The OR of a list of flags (R86). -/
def Flags.all (l : List Flags) : Flags := l.foldl (· ||| ·) 0

/-- A computation that raises flags: its flags are the OR of those of every step (R86). -/
abbrev Flagged (α : Type) := StateM Flags α

/-- Raises flags. -/
def Flagged.raise (f : Flags) : Flagged Unit := fun s => ((), s ||| f)

/-- Takes a value and its flags. -/
def Flagged.of {α : Type} (x : α × Flags) : Flagged α := fun s => (x.1, s ||| x.2)

/-- Runs a computation from no flags. -/
def Flagged.go {α : Type} (m : Flagged α) : α × Flags := m.run 0

end Sys2Proof.Machine
end

