-- ==== Sys2Proof/Machine/Store.lean ====
section
/-! DEFINITION. Sparse maps from numbers to values: a list of key and value pairs in one canonical form
(keys strictly rising, no entry equal to the default), so that equal maps are equal lists. -/

namespace Sys2Proof.Machine

/-- A sparse map. The value of every unlisted key is a default that each operation is given. -/
abbrev SMap (α : Type) := List (Nat × α)

/-- The value at key `i`, the default `d` where no entry names it. -/
def SMap.get {α : Type} (d : α) : SMap α → Nat → α
  | [], _ => d
  | (k, v) :: t, i => if k = i then v else SMap.get d t i

/-- Puts an entry before the first entry of a larger key. -/
def SMap.insertSorted {α : Type} (i : Nat) (v : α) : SMap α → SMap α
  | [] => [(i, v)]
  | (k, w) :: t => if i < k then (i, v) :: (k, w) :: t else (k, w) :: SMap.insertSorted i v t

/-- Removes every entry of key `i`. -/
def SMap.erase {α : Type} : SMap α → Nat → SMap α
  | [], _ => []
  | (k, w) :: t, i => if k = i then SMap.erase t i else (k, w) :: SMap.erase t i

/-- Writes value `v` at key `i`; writing the default removes the entry. -/
def SMap.set {α : Type} [DecidableEq α] (d : α) (m : SMap α) (i : Nat) (v : α) : SMap α :=
  if v = d then SMap.erase m i else SMap.insertSorted i v (SMap.erase m i)

/-- The map with entry `(i, f i)` for every `i` of `lo .. lo + n − 1` whose value is not the default. -/
def SMap.tabulateFrom {α : Type} [DecidableEq α] (d : α) (f : Nat → α) : Nat → Nat → SMap α
  | _, 0 => []
  | lo, n + 1 =>
    let v := f lo
    if v = d then SMap.tabulateFrom d f (lo + 1) n else (lo, v) :: SMap.tabulateFrom d f (lo + 1) n

/-- The map whose value at `i < n` is `f i` and elsewhere the default. -/
def SMap.tabulate {α : Type} [DecidableEq α] (d : α) (n : Nat) (f : Nat → α) : SMap α :=
  SMap.tabulateFrom d f 0 n

/-- Writes `f i` at every key `i` of `lo .. lo + n − 1`, and keeps the other entries. -/
def SMap.setRange {α : Type} [DecidableEq α] (d : α) (m : SMap α) (lo n : Nat) (f : Nat → α) : SMap α :=
  (m.filter fun p => p.1 < lo) ++ SMap.tabulateFrom d f lo n ++ (m.filter fun p => lo + n ≤ p.1)

/-- Applies `f` to the value at key `i`. -/
def SMap.modify {α : Type} [DecidableEq α] (d : α) (m : SMap α) (i : Nat) (f : α → α) : SMap α :=
  SMap.set d m i (f (SMap.get d m i))

/-- Writes the values of a list at consecutive keys from `i` on. -/
def SMap.setList {α : Type} [DecidableEq α] (d : α) : SMap α → Nat → List α → SMap α
  | m, _, [] => m
  | m, i, v :: vs => SMap.setList d (SMap.set d m i v) (i + 1) vs

/-- The values at `n` consecutive keys from `i` on. -/
def SMap.getList {α : Type} (d : α) (m : SMap α) (i : Nat) : Nat → List α
  | 0 => []
  | n + 1 => SMap.get d m i :: SMap.getList d m (i + 1) n

/-- Every key of the map is at least `lo` and the keys rise strictly. -/
def SMap.rising {α : Type} : Nat → SMap α → Bool
  | _, [] => true
  | lo, (k, _) :: t => decide (lo ≤ k) && SMap.rising (k + 1) t

/-- The canonical form: keys strictly rising, no entry equal to the default. -/
def SMap.wf {α : Type} [DecidableEq α] (d : α) (m : SMap α) : Bool :=
  SMap.rising 0 m && m.all fun p => decide (p.2 ≠ d)

/-- The canonical form of a memory: addresses strictly rising, no entry equal to what an unlisted address reads as, 0. -/
def Memory.wf (m : SMap Byte) : Bool := SMap.wf 0 m

end Sys2Proof.Machine
end

