-- ==== Sys2Proof/Machine/Num.lean ====
section
/-! DEFINITION. Number formats, decoding, rounding, block scales and the special functions (R50 .. R60, R79 .. R94). -/

namespace Sys2Proof.Machine

/-- A format code (R50). -/
abbrev Fmt := BitVec 5

namespace Fmt
def none : Fmt := 0x00
def fp64 : Fmt := 0x01
def fp32 : Fmt := 0x02
def bf16 : Fmt := 0x03
def fp16 : Fmt := 0x04
def e5m2 : Fmt := 0x05
def e4m3 : Fmt := 0x06
def e2m1 : Fmt := 0x07
def int8 : Fmt := 0x08
def int4 : Fmt := 0x09
def vq2 : Fmt := 0x0A
def i64 : Fmt := 0x10
def i32 : Fmt := 0x11
def i16 : Fmt := 0x12
def i8 : Fmt := 0x13
def u64 : Fmt := 0x14
def u32 : Fmt := 0x15
def u16 : Fmt := 0x16
def u8 : Fmt := 0x17
end Fmt

/-- The code is allocated (R50). -/
def Fmt.allocated (f : Fmt) : Bool := f.toNat ≤ 0x0A || (0x10 ≤ f.toNat && f.toNat ≤ 0x17)

/-- Bits of one element (R50); 8 for a reserved code, which no instruction reaches. -/
def Fmt.width (f : Fmt) : Nat :=
  match f.toNat with
  | 0x01 | 0x10 | 0x14 => 64
  | 0x02 | 0x11 | 0x15 => 32
  | 0x03 | 0x04 | 0x0A | 0x12 | 0x16 => 16
  | 0x07 | 0x09 => 4
  | _ => 8

/-- A real format (R50): FP64 .. VQ2. -/
def Fmt.isReal (f : Fmt) : Bool := 0x01 ≤ f.toNat && f.toNat ≤ 0x0A

/-- An integer format (R50): I64 .. U8. -/
def Fmt.isInt (f : Fmt) : Bool := 0x10 ≤ f.toNat && f.toNat ≤ 0x17

/-- A block-scaled format (R50): E5M2 .. VQ2. -/
def Fmt.isScaled (f : Fmt) : Bool := 0x05 ≤ f.toNat && f.toNat ≤ 0x0A

/-- A signed integer format. -/
def Fmt.isSignedInt (f : Fmt) : Bool := 0x10 ≤ f.toNat && f.toNat ≤ 0x13

/-- An exact value: NaN, an infinity, or (−1)^neg × m × 2^e with a signed zero. -/
inductive Val where
  | nan
  | inf (neg : Bool)
  | fin (neg : Bool) (m : Nat) (e : Int)
deriving DecidableEq, Repr

/-- Bits in the binary form of `n`. -/
def bitLen (n : Nat) : Nat := if n = 0 then 0 else Nat.log2 n + 1

/-- n × 2^k for k ≥ 0, and ⌊n ÷ 2^(−k)⌋ otherwise. -/
def shiftZ (n : Nat) (k : Int) : Nat := if 0 ≤ k then n <<< k.toNat else n >>> (-k).toNat

/-- Compares m₁ × 2^e₁ with m₂ × 2^e₂. -/
def magCmp (m1 : Nat) (e1 : Int) (m2 : Nat) (e2 : Int) : Ordering :=
  let e := min e1 e2
  compare (m1 <<< (e1 - e).toNat) (m2 <<< (e2 - e).toNat)

/-- An integer as an exact value. -/
def Val.ofInt (n : Int) : Val := .fin (decide (n < 0)) n.natAbs 0

/-- +0. -/
def Val.zero : Val := .fin false 0 0

/-- The value is ±0. -/
def Val.isZero : Val → Bool
  | .fin _ m _ => m == 0
  | _ => false

/-- The value is NaN. -/
def Val.isNan : Val → Bool
  | .nan => true
  | _ => false

/-- The sign of a value; false for NaN. -/
def Val.sign : Val → Bool
  | .nan => false
  | .inf s => s
  | .fin s _ _ => s

/-- The value with its sign inverted; NaN stays NaN. -/
def Val.neg : Val → Val
  | .nan => .nan
  | .inf s => .inf (!s)
  | .fin s m e => .fin (!s) m e

/-- The magnitude. -/
def Val.abs : Val → Val
  | .nan => .nan
  | .inf _ => .inf false
  | .fin _ m e => .fin false m e

/-- A finite value times 2^k. -/
def Val.scale (k : Int) : Val → Val
  | .fin s m e => .fin s m (e + k)
  | v => v

/-- A floating-point layout (R52). `nan` is 0 for formats without NaN, 1 for E4M3's single NaN, 2 for IEEE. -/
structure Layout where
  exp : Nat
  frac : Nat
  bias : Int
  nanKind : Nat
deriving DecidableEq, Repr

/-- The layout of a floating-point format (R52). -/
def Layout.of (f : Fmt) : Layout :=
  match f.toNat with
  | 0x01 => { exp := 11, frac := 52, bias := 1023, nanKind := 2 }
  | 0x02 => { exp := 8, frac := 23, bias := 127, nanKind := 2 }
  | 0x03 => { exp := 8, frac := 7, bias := 127, nanKind := 2 }
  | 0x04 => { exp := 5, frac := 10, bias := 15, nanKind := 2 }
  | 0x05 => { exp := 5, frac := 2, bias := 15, nanKind := 2 }
  | 0x06 => { exp := 4, frac := 3, bias := 7, nanKind := 1 }
  | _ => { exp := 2, frac := 1, bias := 1, nanKind := 0 }

/-- A floating-point format: FP64 .. E2M1. -/
def Fmt.isFloat (f : Fmt) : Bool := 0x01 ≤ f.toNat && f.toNat ≤ 0x07

/-- The value of a code in a floating-point layout (R52). -/
def Layout.decode (l : Layout) (c : Nat) : Val :=
  let f := c % 2 ^ l.frac
  let e := (c >>> l.frac) % 2 ^ l.exp
  let s := (c >>> (l.frac + l.exp)) % 2 == 1
  if l.nanKind == 2 && e == 2 ^ l.exp - 1 then (if f == 0 then .inf s else .nan)
  else if l.nanKind == 1 && e == 2 ^ l.exp - 1 && f == 2 ^ l.frac - 1 then .nan
  else if e == 0 then .fin s f (1 - l.bias - l.frac)
  else .fin s (f + 2 ^ l.frac) (e - l.bias - l.frac)

/-- The signed integer of an n-bit two's-complement code. -/
def toSigned (n c : Nat) : Int :=
  let c := c % 2 ^ n
  if c < 2 ^ (n - 1) then c else (c : Int) - 2 ^ n

/-- The n-bit code of an integer, modulo 2^n (Wrap). -/
def wrapCode (n : Nat) (x : Int) : Nat := (x % (2 ^ n : Int)).toNat

/-- The least value of an integer format, INT8 or INT4. -/
def Fmt.minInt (f : Fmt) : Int :=
  if f.isSignedInt || f == Fmt.int8 || f == Fmt.int4 then -(2 ^ (f.width - 1)) else 0

/-- The greatest value of an integer format, INT8 or INT4. -/
def Fmt.maxInt (f : Fmt) : Int :=
  if f.isSignedInt || f == Fmt.int8 || f == Fmt.int4 then 2 ^ (f.width - 1) - 1 else 2 ^ f.width - 1

/-- The element's own value (R52, R54), before its block's scale. A NONE element has no value, and no rule decodes one; a
VQ2 index as one value is a free value (log entry 13). -/
def Fmt.own (f : Fmt) (c : Nat) : Val :=
  if f.isFloat then (Layout.of f).decode c
  else if f == Fmt.vq2 then (Layout.of Fmt.fp32).decode (Config.vq2Value (c % 65536)).toNat
  else if f.isSignedInt || f == Fmt.int8 || f == Fmt.int4 then Val.ofInt (toSigned f.width c)
  else Val.ofInt (c % 2 ^ f.width : Nat)

/-- Decode(e, F, E) (R53, R54): the exact value under a block scale, for formats other than VQ2 and NONE. -/
def decodeElem (f : Fmt) (c : Word) (e : Byte) : Val :=
  if f.isScaled then
    if e.toNat == 0xFF then .nan else (f.own c.toNat).scale (e.toNat - 127)
  else f.own c.toNat

/-- The parity of the low n bits. -/
def parity (n c : Nat) : Bool := (List.range n).foldl (fun p i => p != c.testBit i) false

/-- Weight j of a VQ2 index under a Codebook Table entry and a scale (R60). -/
def vq2Weight (ent : BitVec 32) (idx : Nat) (j : Nat) (e : Byte) : Val :=
  if e.toNat == 0xFF then .nan
  else
    let m := (ent.toNat >>> (4 * j)) % 16
    let s := if j < 7 then idx.testBit (8 + j) else parity 8 (idx >>> 8)
    if m == 0 then Val.zero else .fin s m (-2 + (e.toNat - 127))

/-- Rounding modes (R79). -/
inductive Rm where
  | rne | rtz | rdn | rup
deriving DecidableEq, Repr

/-- The rounding of a 3-bit code: 4 (error feedback) rounds each element with RNE (R79, R83). -/
def Rm.ofCode : Nat → Rm
  | 1 => .rtz | 2 => .rdn | 3 => .rup | _ => .rne

/-- m × 2^k rounded to an integer under a mode. -/
def roundMag (rm : Rm) (neg : Bool) (m : Nat) (k : Int) : Nat :=
  if 0 ≤ k then m <<< k.toNat
  else
    let d := (-k).toNat
    let q := m >>> d
    let r := m - (q <<< d)
    let up := match rm with
      | .rne => decide (2 ^ d < 2 * r) || (2 * r == 2 ^ d && q % 2 == 1)
      | .rtz => false
      | .rdn => neg && r != 0
      | .rup => !neg && r != 0
    if up then q + 1 else q

/-- The canonical NaN's code (R52). -/
def Layout.nanCode (l : Layout) : Nat :=
  if l.nanKind == 2 then (2 ^ l.exp - 1) * 2 ^ l.frac + 2 ^ (l.frac - 1)
  else if l.nanKind == 1 then 2 ^ (l.exp + l.frac) - 1
  else 0

/-- The code of the largest finite magnitude (R52). -/
def Layout.maxCode (l : Layout) : Nat :=
  if l.nanKind == 2 then (2 ^ l.exp - 1) * 2 ^ l.frac - 1
  else if l.nanKind == 1 then 2 ^ (l.exp + l.frac) - 2
  else 2 ^ (l.exp + l.frac) - 1

/-- The sign bit's place. -/
def Layout.signed (l : Layout) (neg : Bool) (c : Nat) : Nat := if neg then c + 2 ^ (l.exp + l.frac) else c

/-- RoundTo for a floating-point format (R80, R81): the code and its flags. -/
def Layout.round (l : Layout) (rm : Rm) (x : Val) : Nat × Flags :=
  match x with
  | .nan => if l.nanKind == 0 then (0, Flags.nv) else (l.nanCode, 0)
  | .inf s => if l.nanKind == 2 then (l.signed s ((2 ^ l.exp - 1) * 2 ^ l.frac), 0) else (l.signed s l.maxCode, Flags.sat)
  | .fin s m e =>
    if m == 0 then (l.signed s 0, 0)
    else
      let top : Int := (bitLen m : Int) - 1 + e
      let emin : Int := 1 - l.bias
      let q : Int := max top emin - l.frac
      let n := roundMag rm s m (e - q)
      let nx := magCmp n q m e != Ordering.eq
      let big := (l.decode l.maxCode)
      let tooBig := match big with
        | .fin _ bm be => magCmp n q bm be == Ordering.gt
        | _ => false
      if tooBig then
        if l.nanKind == 2 then
          let toInf := match rm with
            | .rne => true
            | .rtz => false
            | .rdn => s
            | .rup => !s
          (l.signed s (if toInf then (2 ^ l.exp - 1) * 2 ^ l.frac else l.maxCode), Flags.of ||| Flags.nx)
        else (l.signed s l.maxCode, Flags.of ||| Flags.nx ||| Flags.sat)
      else
        -- tininess after rounding: the result with an unbounded exponent lies below 2^emin
        let q' : Int := top - l.frac
        let n' := roundMag rm s m (e - q')
        let tiny := magCmp n' q' 1 emin == Ordering.lt
        let flags := Flags.when nx Flags.nx ||| Flags.when (nx && tiny) Flags.uf
        let code :=
          if n < 2 ^ l.frac then n
          else if n < 2 ^ (l.frac + 1) then ((q + l.frac + l.bias).toNat) * 2 ^ l.frac + (n - 2 ^ l.frac)
          else ((q + 1 + l.frac + l.bias).toNat) * 2 ^ l.frac
        (l.signed s code, flags)

/-- A finite value rounded to an integer, with NX when it was not one. -/
def roundInt (rm : Rm) (s : Bool) (m : Nat) (e : Int) : Int × Flags :=
  let n := roundMag rm s m e
  ((if s then -(n : Int) else n), Flags.when (magCmp n 0 m e != Ordering.eq) Flags.nx)

/-- RoundTo for an integer format, INT8 and INT4 (R81, R82). -/
def Fmt.roundToInt (f : Fmt) (rm : Rm) (x : Val) : Nat × Flags :=
  let sat : Flags := if f.isInt then Flags.nv ||| Flags.sat else Flags.sat
  match x with
  | .nan => (0, Flags.nv)
  | .inf s => (wrapCode f.width (if s then f.minInt else f.maxInt), sat)
  | .fin s m e =>
    let (n, fl) := roundInt rm s m e
    if n < f.minInt then (wrapCode f.width f.minInt, fl ||| sat)
    else if f.maxInt < n then (wrapCode f.width f.maxInt, fl ||| sat)
    else (wrapCode f.width n, fl)

/-- The index that a value takes in VQ2: a free value (log entry 13). -/
def Val.toVq2 : Val → Nat
  | .nan => (Config.vq2Code 0 0 0).toNat
  | .inf s => (Config.vq2Code (2 + s.toNat) 0 0).toNat
  | .fin s m e => (Config.vq2Code (4 + s.toNat) m e).toNat

/-- RoundTo(x, F, m) (R80 .. R82): the element's code and the flags raised. -/
def roundTo (f : Fmt) (rm : Rm) (x : Val) : Word × Flags :=
  let (c, fl) := if f.isFloat then (Layout.of f).round rm x else if f == Fmt.vq2 then (x.toVq2, 0) else f.roundToInt rm x
  (BitVec.ofNat 64 c, fl)

/-- CanonNaN(F) (R52). -/
def canonNan (f : Fmt) : Word := BitVec.ofNat 64 (Layout.of f).nanCode

/-- The exact sum, with the sign of an exact zero under the mode (R80); NV for infinities of both signs. -/
def Val.add (rm : Rm) : Val → Val → Val × Flags
  | .nan, _ => (.nan, 0)
  | _, .nan => (.nan, 0)
  | .inf s, .inf t => if s == t then (.inf s, 0) else (.nan, Flags.nv)
  | .inf s, _ => (.inf s, 0)
  | _, .inf t => (.inf t, 0)
  | .fin s m e, .fin t n f =>
    let x := min e f
    let a : Int := (if s then -1 else 1) * (m <<< (e - x).toNat : Nat)
    let b : Int := (if t then -1 else 1) * (n <<< (f - x).toNat : Nat)
    let c := a + b
    if c == 0 then
      if m == 0 && n == 0 && s == t then (.fin s 0 0, 0) else (.fin (rm == .rdn) 0 0, 0)
    else (.fin (decide (c < 0)) c.natAbs x, 0)

/-- The exact product; NV for 0 × ∞. -/
def Val.mul : Val → Val → Val × Flags
  | .nan, _ => (.nan, 0)
  | _, .nan => (.nan, 0)
  | .inf s, .inf t => (.inf (s != t), 0)
  | .inf s, .fin t n _ => if n == 0 then (.nan, Flags.nv) else (.inf (s != t), 0)
  | .fin s m _, .inf t => if m == 0 then (.nan, Flags.nv) else (.inf (s != t), 0)
  | .fin s m e, .fin t n f => (.fin (s != t) (m * n) (e + f), 0)

/-- The exact a × b + c; NV from the product only when the addend is no NaN (log entry 10). -/
def Val.fma (rm : Rm) (a b c : Val) : Val × Flags :=
  let (p, f) := Val.mul a b
  if c.isNan then (.nan, 0)
  else
    let (r, g) := Val.add rm p c
    (r, f ||| g)

/-- Orders two values that are no NaN; −0 equals +0. -/
def Val.cmp : Val → Val → Ordering
  | .inf s, .inf t => if s == t then .eq else if s then .lt else .gt
  | .inf s, _ => if s then .lt else .gt
  | _, .inf t => if t then .gt else .lt
  | .fin s m e, .fin t n f =>
    if m == 0 && n == 0 then .eq
    else if s && !t then (if m == 0 then magCmp 0 0 n f else .lt)
    else if !s && t then (if n == 0 then magCmp m e 0 0 else .gt)
    else if s then magCmp n f m e
    else magCmp m e n f
  | _, _ => .eq

/-- FMin (R84): the other operand when one is NaN; −0 lies below +0. -/
def Val.fmin (a b : Val) : Val :=
  if a.isNan then b else if b.isNan then a
  else match Val.cmp a b with
    | .lt => a
    | .gt => b
    | .eq => if a.sign then a else b

/-- FMax (R84). -/
def Val.fmax (a b : Val) : Val :=
  if a.isNan then b else if b.isNan then a
  else match Val.cmp a b with
    | .lt => b
    | .gt => a
    | .eq => if a.sign then b else a

/-- ⌊√n⌋ for n < 4^k, digit by digit. -/
def isqrtAux (n : Nat) : Nat → Nat → Nat
  | 0, r => r
  | k + 1, r =>
    let c := r + 2 ^ k
    isqrtAux n k (if c * c ≤ n then c else r)

/-- ⌊√n⌋. -/
def isqrt (n : Nat) : Nat := isqrtAux n (bitLen n / 2 + 1) 0

/-- A value with the same rounding as m × 2^e + d, 0 ≤ d < 2^e, in every format of fewer bits than m: an extra low bit
says whether d is not 0. -/
def stickyVal (neg : Bool) (m : Nat) (e : Int) (inexact : Bool) : Val :=
  .fin neg (2 * m + (if inexact then 1 else 0)) (e - 1)

/-- The quotient of two values, as precise as every rounding to FP32 needs (Div32, R103, R104). -/
def Val.div : Val → Val → Val × Flags
  | .nan, _ => (.nan, 0)
  | _, .nan => (.nan, 0)
  | .inf _, .inf _ => (.nan, Flags.nv)
  | .inf s, .fin t _ _ => (.inf (s != t), 0)
  | .fin s _ _, .inf t => (.fin (s != t) 0 0, 0)
  | .fin s m e, .fin t n f =>
    if n == 0 then (if m == 0 then (.nan, Flags.nv) else (.inf (s != t), Flags.dz))
    else if m == 0 then (.fin (s != t) 0 0, 0)
    else
      let k := 64 + bitLen n
      let q := (m <<< k) / n
      (stickyVal (s != t) q (e - f - k) ((m <<< k) % n != 0), 0)

/-- The square root, as precise as every rounding to FP32 needs (Sqrt32). -/
def Val.sqrt : Val → Val × Flags
  | .nan => (.nan, 0)
  | .inf s => if s then (.nan, Flags.nv) else (.inf false, 0)
  | .fin s m e =>
    if m == 0 then (.fin s 0 0, 0)
    else if s then (.nan, Flags.nv)
    else
      let m' := if e % 2 == 0 then m else 2 * m
      let e' := if e % 2 == 0 then e else e - 1
      let n := m' <<< 128
      let r := isqrt n
      (stickyVal false r (e' / 2 - 64) (r * r != n), 0)

/-- Bits of the fixed-point fractions in which 2^x and log₂ x are computed (log entry 11). -/
def funcBits : Nat := 256

/-- ⌊ln 2 × 2^funcBits⌋ up to its last bits: Σ 1 ÷ (n 2^n). -/
def ln2Fixed : Nat := (List.range 270).foldl (fun a i => a + ((2 ^ funcBits) >>> (i + 1)) / (i + 1)) 0

/-- e^(y ÷ 2^funcBits) × 2^funcBits for 0 ≤ y < 2^funcBits: the exponential series. -/
def expFixedAux (y : Nat) : Nat → Nat → Nat → Nat → Nat
  | 0, _, _, acc => acc
  | k + 1, i, t, acc =>
    let t' := ((t * y) >>> funcBits) / i
    expFixedAux y k (i + 1) t' (acc + t')

/-- 2^f × 2^funcBits for f = y ÷ 2^funcBits in 0 .. 1. -/
def exp2Fixed (y : Nat) : Nat :=
  expFixedAux ((y * ln2Fixed) >>> funcBits) 70 1 (2 ^ funcBits) (2 ^ funcBits)

/-- 2^x of an FP32 value, as precise as every rounding to FP32 needs (R93). -/
def Val.exp2 : Val → Val × Flags
  | .nan => (.nan, 0)
  | .inf s => if s then (Val.zero, 0) else (.inf false, 0)
  | .fin s m e =>
    if m == 0 then (.fin false 1 0, 0)
    else if magCmp m e 1 12 == Ordering.gt then
      -- beyond every finite FP32 result, and below every non-zero one
      (if s then .fin false 1 (-4096) else .fin false 1 4096, 0)
    else
      let n : Int := (if s then -1 else 1) * (shiftZ m (e + funcBits) : Nat)
      let i := n / (2 ^ funcBits : Int)
      let f := (n % (2 ^ funcBits : Int)).toNat
      if f == 0 then (.fin false 1 i, 0)
      else (stickyVal false (exp2Fixed f) (i - funcBits) true, 0)

/-- The series of the inverse hyperbolic tangent: Σ z^(2k+1) ÷ (2k+1) in fixed point. -/
def atanhAux (z2 : Nat) : Nat → Nat → Nat → Nat → Nat
  | 0, _, _, acc => acc
  | k + 1, i, t, acc =>
    let t' := (t * z2) >>> funcBits
    atanhAux z2 k (i + 2) t' (acc + t' / i)

/-- log₂(g) × 2^funcBits for g = m ÷ 2^k in 1 .. 2. -/
def log2Fixed (m k : Nat) : Nat :=
  let one := 2 ^ k
  let z := ((m - one) <<< funcBits) / (m + one)
  let z2 := (z * z) >>> funcBits
  ((2 * atanhAux z2 100 3 z z) <<< funcBits) / ln2Fixed

/-- log₂ x of an FP32 value, as precise as every rounding to FP32 needs (R93). -/
def Val.log2 : Val → Val × Flags
  | .nan => (.nan, 0)
  | .inf s => if s then (.nan, Flags.nv) else (.inf false, 0)
  | .fin s m e =>
    if m == 0 then (.inf true, Flags.dz)
    else if s then (.nan, Flags.nv)
    else
      let k := bitLen m - 1
      let i : Int := e + k
      if m == 2 ^ k then (Val.ofInt i, 0)
      else
        let n : Int := i * 2 ^ funcBits + (log2Fixed m k : Nat)
        (stickyVal (decide (n < 0)) n.natAbs (-(funcBits : Int)) true, 0)

/-- 1 ÷ x (R93). -/
def Val.rcp : Val → Val × Flags
  | .nan => (.nan, 0)
  | .inf s => (.fin s 0 0, 0)
  | .fin s m e => if m == 0 then (.inf s, Flags.dz) else Val.div (.fin false 1 0) (.fin s m e)

/-- 1 ÷ √x (R93). -/
def Val.rsq : Val → Val × Flags
  | .nan => (.nan, 0)
  | .inf s => if s then (.nan, Flags.nv) else (Val.zero, 0)
  | .fin s m e =>
    if m == 0 then (.inf s, Flags.dz)
    else if s then (.nan, Flags.nv)
    else
      let m' := if e % 2 == 0 then m else 2 * m
      let e' := if e % 2 == 0 then e else e - 1
      let k := 64 + bitLen m'
      let r := isqrt (2 ^ (2 * k) / m')
      (stickyVal false r (-(e' / 2) - k) (r * r * m' != 2 ^ (2 * k)), 0)

/-- An FP32 code. -/
abbrev F32 := BitVec 32

/-- The value of an FP32 code. -/
def F32.val (x : F32) : Val := (Layout.of Fmt.fp32).decode x.toNat

/-- Rn(x) (R79): RoundTo(x, FP32, RNE). -/
def rn (x : Val) : F32 × Flags :=
  let (c, f) := (Layout.of Fmt.fp32).round .rne x
  (BitVec.ofNat 32 c, f)

/-- Rn of a computation that may raise flags of its own. -/
def rnOf (x : Val × Flags) : F32 × Flags :=
  let (c, f) := rn x.1
  (c, f ||| x.2)

/-- The FP32 sum, rounded once. -/
def f32Add (x y : F32) : F32 × Flags := rnOf (Val.add .rne x.val y.val)
/-- The FP32 difference. -/
def f32Sub (x y : F32) : F32 × Flags := rnOf (Val.add .rne x.val y.val.neg)
/-- The FP32 product. -/
def f32Mul (x y : F32) : F32 × Flags := rnOf (Val.mul x.val y.val)
/-- FMA32 (R100). -/
def f32Fma (x y z : F32) : F32 × Flags := rnOf (Val.fma .rne x.val y.val z.val)
/-- Div32 (R103). -/
def f32Div (x y : F32) : F32 × Flags := rnOf (Val.div x.val y.val)
/-- Sqrt32 (R103). -/
def f32Sqrt (x : F32) : F32 × Flags := rnOf (Val.sqrt x.val)

/-- Largest(F) of R87 as significand and exponent. -/
def Fmt.largest (f : Fmt) : Nat × Int :=
  match f.toNat with
  | 0x05 => (7, 13)
  | 0x06 => (7, 6)
  | 0x07 => (3, 1)
  | 0x08 => (127, 0)
  | 0x09 => (7, 0)
  | _ => (7, -2)

/-- The larger of two magnitudes, the second finite or ignored. -/
def amaxStep (a : Nat × Int) (v : Val) : Nat × Int :=
  match v with
  | .fin _ m e => if magCmp a.1 a.2 m e == Ordering.lt then (m, e) else a
  | _ => a

/-- ChooseScale(v, F) (R87). -/
def chooseScale (f : Fmt) (vs : List Val) : Byte :=
  if vs.any Val.isNan then 0xFF
  else
    let (m, e) := vs.foldl amaxStep (0, 0)
    if m == 0 then 127
    else
      let (lm, lq) := f.largest
      let e0 : Int := e + 127 + bitLen m - (lq + bitLen lm)
      let ok := magCmp m (e + 127 - e0) lm lq != Ordering.gt
      let e1 := if ok then e0 else e0 + 1
      if e1 < 0 then 0 else if 254 < e1 then 254 else BitVec.ofNat 8 e1.toNat

/-- One element of a block re-encoded under its scale (R87): code 0 under scale 0xFF. -/
def encodeUnder (f : Fmt) (rm : Rm) (e : Byte) (v : Val) : Word × Flags :=
  if f.isScaled then
    if e.toNat == 0xFF then (0, 0) else roundTo f rm (v.scale (127 - e.toNat))
  else roundTo f rm v

/-- One element through the error-feedback chain (R83): the code, the next residual and the flags. -/
def encodeEf (f : Fmt) (e : Byte) (v : Val) (res : F32) : Word × F32 × Flags :=
  let t := (Val.add .rne v res.val).1
  if f.isScaled && e.toNat == 0xFF then (0, 0, 0)
  else
    let (c, fl) := encodeUnder f .rne e t
    let y := decodeElem f c e
    let sat := fl &&& (Flags.sat ||| Flags.of) != 0
    let res' : F32 := match y with
      | .fin .. => if sat then 0 else (rn (Val.add .rne t y.neg).1).1
      | _ => 0
    (c, res', fl)

end Sys2Proof.Machine
end

