-- ==== Sys2Proof/Machine/State.lean ====
section
/-! DEFINITION. The state of the IX-960 module as plain data, the reasons a step can stop, and the state after reset. -/

namespace Sys2Proof.Machine

/-- Why the machine stops. -/
inductive Fault where
  /-- Raised by `step` when the main rails are lost (R12): no part holds state or answers. Safe: nothing runs. -/
  | unpowered
deriving DecidableEq, Repr

/-- Why an instruction is refused. -/
inductive Refusal where
  /-- Raised by `exec` for an instruction that has no meaning in the model yet. Safe: the run stops. -/
  | notModelled (mnemonic : String)
deriving DecidableEq, Repr

/-- What a waiting cluster waits for (R30, R206, R420). -/
inductive WaitFor where
  /-- A push that finds too little space in queue `q` (R36). -/
  | queueSpace (q : Nat)
  /-- A pop from the empty queue `q` (R36). -/
  | queueEntry (q : Nat)
  /-- An RDV with set and tag (R32). -/
  | rdv (set tag : BitVec 4)
  /-- A BAR of generation `gen` (R47). -/
  | bar (gen : Nat)
  /-- A SIGWAIT whose test failed on the line of this physical address (R346). -/
  | signal (pa : Nat)
  /-- A CWAIT whose bits are not all set (R285). -/
  | chunks
  /-- A CFORK with clusters still to be started (R31). -/
  | fork
  /-- A COPY, COPYT or QFENCE into a full copy queue (R280, R286). -/
  | copySpace
  /-- An SBIND whose queue still holds entries (R275). -/
  | bindEmpty (q : Nat)
  /-- A line in TRANSIT (R68). -/
  | transit (pa : Nat)
  /-- A memory cause that the hardware resolves, 0x0105 or 0x0109 (R420), and the access kind as INFO[18:16] holds it (R422). -/
  | memory (cause : BitVec 32) (asd va kind : Nat)
  /-- A line that the host owns, by its physical address, cause 0x010A (R420, R427); then as above. -/
  | host (pa asd va kind : Nat)
  /-- A scratchpad range that a copy command or a staging copy of the context still has to touch (R153, R154). -/
  | scratch
  /-- No free entry in the Provisional Line Buffer (R207). -/
  | plbSpace
  /-- An action that waits while the hank is provisional (R206). -/
  | provisional
  /-- A register, tile or accumulator whose load has issued and not yet returned (R33, R116). -/
  | load
  /-- A change of a bank's mode that waits for a copy command (R110). -/
  | bank
deriving DecidableEq, Repr

/-- Whether a cluster runs (R30). -/
inductive Run where
  | idle | running | waiting
deriving DecidableEq, Repr

/-- A register tag (R63) or the tag part of a queue entry's descriptor (R65). -/
structure VTag where
  fmt : BitVec 5
  vsum : BitVec 3
  blk : BitVec 2
deriving DecidableEq, Repr

/-- Elements with their tag: the content of a vector register, a queue entry or a tile. The code of element `i` stands
in `elems` at `i`, the scale slot of granule `g` in `scales` at `g` (default 0x7F). -/
structure Strip where
  tag : VTag
  elems : SMap Word
  scales : SMap Byte
deriving DecidableEq, Repr

/-- A vector register: its strip and the element groups whose arrival bit is clear (R57, R63, R115). -/
structure VReg where
  strip : Strip
  missing : List Nat
deriving DecidableEq, Repr

/-- The tag of a vector register at dispatch: FP32, VALID, BLK 0 (R40). -/
def VTag.initial : VTag := { fmt := 0x02, vsum := 0, blk := 0 }
/-- Zeros with the tag at dispatch. -/
def Strip.initial : Strip := { tag := .initial, elems := [], scales := [] }
/-- A vector register at dispatch (R40). -/
def VReg.initial : VReg := { strip := .initial, missing := [] }

/-- A load that has issued and whose result has not landed (R33). -/
inductive Pend where
  /-- Scalar register `r` of the cluster takes `v`. -/
  | scalar (r : Nat) (v : Word)
  /-- Vector register `r` takes the element groups of `x` one by one. -/
  | vector (r : Nat) (x : Strip)
  /-- The last entry of queue `q` takes its element groups one by one (R267). -/
  | queue (q : Nat)
deriving DecidableEq, Repr

/-- A convoy that has issued (R228 .. R230): the members' parcels and the member executed next. -/
structure Convoy where
  members : List (Parcel × Parcel)
  next : Nat
deriving DecidableEq, Repr

/-- The reel's state (R192, R317, R318). -/
structure Reel where
  rpc : Word
  long : Bool
  body : List Parcel
  pos : Nat
  trips : Word
  elem : Word
deriving DecidableEq, Repr

/-- A page's attributes (R126). -/
structure Par where
  typed : Bool
  slotw : Nat
  dpol : BitVec 2
  dtgt : BitVec 5
  ppol : Bool
  rcod : Bool
  ply : BitVec 2
  expf : BitVec 5
deriving DecidableEq, Repr

/-- A structure that caches translations (R125): a spindle's TLB or a bobbin's second-level TLB. -/
inductive TlbUnit where
  | spindle (n : Nat) | bobbin (n : Nat)
deriving DecidableEq, Repr

/-- A cached translation (R125, R423, R458) and the TLB that holds it. -/
structure TlbEntry where
  unit : TlbUnit
  asd : Nat
  pasid : Nat
  va : Nat
  size : Nat
  pa : Nat
  /-- Physical address of the leaf entry; 0 for an ATS result. -/
  leaf : Nat
  r : Bool
  w : Bool
  x : Bool
  u : Bool
  /-- D of a leaf; of an ATS result: the host has refused write to a request that asked for it (R458). -/
  d : Bool
  mig : Bool
  pslot : Nat
  /-- The page shares its frame with the pages of the other ply slots (R132). -/
  folded : Bool
  ats : Bool
  par : Par
deriving DecidableEq, Repr

/-- A line tag: descriptor and scale field (R67). -/
structure LineTag where
  desc : BitVec 16
  sc : BitVec 32
deriving DecidableEq, Repr

/-- The tag of a wiped line (R67, R74). -/
def LineTag.wiped : LineTag := { desc := 0x0040, sc := 0x7F7F7F7F }

/-- A non-leaf entry that a walk cache holds (R125): the address space, the level of the table that the entry lies in, the
virtual addresses that it covers, counted in units of that level, and the entry. -/
structure WalkEntry where
  asd : Nat
  level : Nat
  idx : Nat
  entry : Word
deriving DecidableEq, Repr

/-- A store that an instruction has issued and that is still to be performed (R138, R139): the page, and the line as the
instruction leaves it with the bytes that it wrote. -/
structure LateStore where
  va : Nat
  pa : Nat
  host : Bool
  entry : TlbEntry
  tag : LineTag
  bytes : SMap Byte
  mask : SMap Bool
deriving DecidableEq, Repr

/-- One issue cluster (R30, R40, R191). -/
structure Cluster where
  run : Run
  pc : Word
  /-- Scalar registers; s0 reads zero. -/
  s : SMap Word
  /-- Predicates g0 .. g6; g7 reads 1. -/
  g : BitVec 8
  vl : Word
  efc : BitVec 32
  wait : Option WaitFor
  /-- CST bit 4: the waiting instruction has made its first effect (R479). -/
  firstEffect : Bool
  /-- The clusters that a waiting CFORK has started (R191). -/
  started : BitVec 4
  /-- START0 .. START5 (R191). -/
  start : SMap (BitVec 16)
  /-- CST bit 2: the restart packet is a convoy (R191). -/
  atConvoy : Bool
  convoy : Option Convoy
  reel : Option Reel
  pend : List Pend
  /-- The packet of the load that is still to land, where pre-emption can restart the cluster at it (R188, R433). -/
  loadPc : Option Word
  /-- The executing instruction starts at this element: the groups below its START are written (R191). It stops before
  element `hi`, where one is named (R188). -/
  lo : Nat
  hi : Option Nat
  /-- Stores issued and not performed, oldest first (R138), and whether the executing instruction's stores join them. -/
  stores : List LateStore
  late : Bool
  /-- YIELD is in force until the cluster's next packet issues (R345). -/
  yielded : Bool
deriving DecidableEq, Repr

/-- A cluster of a free slot, and of a context at dispatch before its entry point is written (R40). -/
def Cluster.initial : Cluster :=
  { run := .idle, pc := 0, s := [], g := 0, vl := 0, efc := 0, wait := none, firstEffect := false, started := 0
    start := [], atConvoy := false, convoy := none, reel := none, pend := []
    loadPc := none, lo := 0, hi := none, stores := [], late := false, yielded := false }

/-- A queue entry (R35, R65). A scalar entry holds its value as element 0. -/
structure QEntry where
  scal : Bool
  eos : Bool
  count : Nat
  strip : Strip
  present : SMap Bool
  missing : List Nat
  /-- Held by an instruction stopped part-way (R449). -/
  inUse : Bool
deriving DecidableEq, Repr

/-- A stream binding: the descriptor copied at SBIND (R275) and where the pattern stands (R193, R276). -/
structure Stream where
  base : Word
  s0 : Word
  s1 : Word
  s2 : Word
  n0 : BitVec 32
  n1 : BitVec 32
  n2 : BitVec 32
  slen : BitVec 16
  sflg : Byte
  ops : List Byte
  parm : Byte
  pk : Byte
  lo : BitVec 32
  hi : BitVec 32
  i0 : BitVec 32
  i1 : BitVec 32
  i2 : BitVec 32
  exh : Bool
  flt : Bool
deriving DecidableEq, Repr

/-- What a queue load asks for: the base, whether places count element positions or bytes, whether the access is contiguous, the place
of each element, none for an absent one, and the step at which the load issued (R265, R267). -/
structure LoadReq where
  base : Word
  byPos : Bool
  contig : Bool
  places : List (Option Int)
  load : Nat
deriving DecidableEq, Repr

/-- A tagged queue (R35 .. R37, R167, R356). -/
structure Queue where
  prod : BitVec 3
  cons : BitVec 3
  first : BitVec 6
  nb : BitVec 4
  closed : Bool
  entries : List QEntry
  /-- Entries of queue loads that have issued and wait for space (R267). -/
  unplaced : List QEntry
  /-- The request behind each of them. -/
  requests : List LoadReq
  stream : Option Stream
deriving DecidableEq, Repr

/-- A queue without banks (R167). -/
def Queue.initial : Queue :=
  { prod := 0, cons := 0, first := 0, nb := 0, closed := false, entries := [], unplaced := [], requests := [], stream := none }

/-- A copy command (R280 .. R284). -/
structure CopyCmd where
  pc : Word
  dst : Word
  src : Word
  len : Nat
  cb : Nat
  scope : BitVec 3
  /-- The signal word's address and value, when one is named. -/
  signal : Option (Word × Word)
  dstSp : Bool
  srcSp : Bool
  /-- Row count, source stride and destination stride of COPYT; one row for COPY. -/
  rows : Nat
  sstr : Int
  dstr : Int
  started : Bool
  /-- The 512-byte chunks of the destination span not yet performed. -/
  chunks : List Nat
  /-- Virtual addresses of the lines zero-substituted so far (R281). -/
  zeroed : List Nat
  /-- The command raises PZS when it completes (R281). -/
  pzs : Bool
  stalled : Bool
  /-- The chunk at which a fault stopped the command, retried first (R434). -/
  stopChunk : Option Nat
deriving DecidableEq, Repr

/-- An entry of a copy queue: a command, or a QFENCE mark with its number (R151). -/
inductive CopyEntry where
  | cmd (c : CopyCmd)
  | fence (id : Nat)
deriving DecidableEq, Repr

/-- A QFENCE in force: its number, the copy queues and the stream units it names (R151, R286), and those stream units that
stood at a stopped strip when it was placed. -/
structure Fence where
  id : Nat
  cqs : BitVec 4
  qs : BitVec 16
  owed : BitVec 16
deriving DecidableEq, Repr

/-- The kind of a matrix name (R319). -/
inductive TileKind where
  | unbound | dense | factor
deriving DecidableEq, Repr

/-- A matrix name and its content (R319 .. R322). A pair holds column c of U at 64c + row and column c of V at
64(n + c) + row (R330). -/
structure Tile where
  kind : TileKind
  elas : Bool
  ncl : Nat
  rank : Nat
  fmt : BitVec 5
  /-- Quota slots held, ascending (R321, R324). -/
  held : List Nat
  elems : SMap Word
  scales : SMap Byte
deriving DecidableEq, Repr

/-- An unbound name (R319). -/
def Tile.unbound : Tile :=
  { kind := .unbound, elas := false, ncl := 0, rank := 0, fmt := 0, held := [], elems := [], scales := [] }

/-- The kind of an accumulator (R338). -/
inductive AccKind where
  | free | fp32 | i32
deriving DecidableEq, Repr

/-- An accumulator: 4,096 words and a kind (R338). -/
structure Acc where
  kind : AccKind
  words : SMap (BitVec 32)
deriving DecidableEq, Repr

/-- An accumulator at dispatch (R338). -/
def Acc.initial : Acc := { kind := .free, words := [] }

/-- A 64-byte fault or event record (R395). -/
structure Rec where
  ts : Nat
  src : Nat
  cls : Nat
  cause : BitVec 32
  task : Nat
  hwid : Word
  pc : Word
  addr : Word
  info : Word
deriving DecidableEq, Repr

/-- Which engine raised an event on the context's behalf (R401). -/
inductive EventSource where
  | cluster | copyQueue (cq : Nat) | stream (q : Nat) | staging (region : Nat) | codebook
deriving DecidableEq, Repr

/-- A supervisor event of a context (R401). -/
structure Event where
  record : Rec
  source : EventSource
  core : Option Nat
  takenAt : Nat
deriving DecidableEq, Repr

/-- What a provisional hank's context holds back until its confirmation (R445). -/
inductive Held where
  | record (r : Rec)
  | fatal (r : Rec)
deriving DecidableEq, Repr

/-- One context slot with the hank bound to it (R27, R40, R190). -/
structure Ctx where
  /-- Physical address of the task record and hank WID; none in a free slot. -/
  hank : Option (Nat × Word)
  asd : Nat
  c : Cluster
  a : Cluster
  v : Cluster
  m : Cluster
  wid : SMap Word
  hord : BitVec 56
  mord : BitVec 7
  prio : BitVec 3
  aged : Bool
  flags : BitVec 10
  vcap : Nat
  tol : BitVec 33
  rkcap : BitVec 7
  latsel : BitVec 2
  pzr : BitVec 2
  /-- The hank has made its first record of cause 0x0121 (R354, PZR 1). -/
  pzrDone : Bool
  bankNo : BitVec 6
  bankMode : BitVec 2
  bankStat : BitVec 2
  vregs : SMap VReg
  masks : SMap (SMap Bool)
  /-- The Codebook Table; none stands for the default table (R61, R62). -/
  cbt : Option (List (BitVec 32))
  queues : SMap Queue
  cb : SMap (SMap Bool)
  cq : SMap (List CopyEntry)
  fences : List Fence
  tiles : SMap Tile
  accs : SMap Acc
  tosq : Nat
  barCount : Nat
  event : Option Event
  /-- Engine faults that wait for the outstanding event to end (R401). -/
  waiting : List Event
  provisional : Bool
  held : List Held
  /-- The class 4 record of a terminated hank that still waits for its started copy commands (R403 step 3). -/
  dying : Option Rec
  /-- The Codebook Table is still to be read (R183, R441): no cluster issues. -/
  cbtPending : Bool
  /-- Requests of queue loads that a resumed hank makes again before its A cluster goes on, with their queues (R194, R267). -/
  reissue : List (Nat × LoadReq)
deriving DecidableEq, Repr

/-- Block metadata and the bit errors that the block's storage holds (R71 .. R73). -/
structure Block where
  pm : Bool
  wiped : Bool
  errors : Nat
deriving DecidableEq, Repr

/-- A wiped block (R74). -/
def Block.initial : Block := { pm := false, wiped := true, errors := 0 }

/-- The mode of an SRAM bank and, outside CACHE, the slot (0 or 1) of the spindle that owns it (R108). -/
inductive Bank where
  | cache | scratch (slot : Nat) | fifo (slot : Nat) | vreg (slot : Nat)
deriving DecidableEq, Repr

/-- An entry of a Provisional Line Buffer (R207): the hank, the line's virtual address, its tag and data, and the bytes
that the hank wrote. -/
structure PlbEntry where
  task : Nat
  wid : Word
  asd : Nat
  va : Nat
  tag : LineTag
  bytes : SMap Byte
  mask : SMap Bool
deriving DecidableEq, Repr

/-- A line that an L1 way or an L2 slice holds: its line number and whether it is dirty (R118, R119). Its bytes and tag are those
of `State.mem` and `State.tags`, since the caches are coherent (R21). -/
structure CacheLine where
  line : Nat
  dirty : Bool
deriving DecidableEq, Repr

/-- A page on its way to another frame: from the second tier to HBM4 (R120, R177), with the hank whose region it is of, or out of a
folded frame (R133), from its ply slot; its address space and leaf entry, where it lies and goes, its size, and the lines moved so
far. -/
structure PageMove where
  hank : Option (Nat × Word)
  factor : Nat
  pslot : Nat
  asd : Nat
  va : Nat
  size : Nat
  leaf : Nat
  src : Nat
  dst : Nat
  next : Nat
deriving DecidableEq, Repr

/-- An answer that the device has given to a read from outside: a host's or a peer's, the address, the bytes, the tag bytes that go
with them on a fabric link, and the CXL poison indication (R378, R381, R476). -/
structure OutAnswer where
  peer : Bool
  addr : Nat
  data : List Byte
  tags : List Byte
  poison : Bool
deriving DecidableEq, Repr

/-- An outstanding page request (R423, R424). -/
structure PageReq where
  pasid : Nat
  va : Nat
  since : Nat
  /-- Answered with Success: the next ATS answer decides (R420, 0x0110). -/
  granted : Bool
  /-- Sent to the host; a request above the 512 that may be outstanding waits (R423). -/
  sent : Bool
deriving DecidableEq, Repr

/-- The state of a hank (R185, R209). -/
inductive HankState where
  | pending | admitted | reserved | ready | running | ending | ended | saving | suspended
  | cancelled | squashed | failed
deriving DecidableEq, Repr

/-- A hank that has left the pool of hanks not yet admitted (R174, R185). -/
structure Hank where
  task : Nat
  wid : Word
  ord : Nat
  member : Nat
  state : HankState
  bobbin : Nat
  slot : Option Nat
  prov : Bool
  /-- Lines landed per region, and regions ended or cancelled, which count as landed (R180, R441). -/
  landed : SMap Nat
  ended : SMap Bool
  /-- A SCRATCH region's staging fault that the context raises first (R441). -/
  stageFault : Option (Nat × Nat × BitVec 32)
  cls : Nat
  aged : Bool
  suspendedAt : Nat
  /-- Milliseconds of the present wait by which the class has risen (R48). -/
  agedMs : Nat
  /-- Victims have been taken for this READY hank: the slots that they leave are its own (R49, R187). -/
  claim : Bool
  resumedAt : Nat
  seq : Nat
  dispSeq : Nat
  frame : Option Nat
  /-- Time in RUNNING before `resumedAt`, in ns (R405). -/
  runNs : Nat
  /-- What a suspended provisional hank still holds back (R445). -/
  held : List Held
  /-- The hank has made its first record of cause 0x0121 (R354, PZR 1). -/
  pzrDone : Bool
  /-- The requests of a suspended hank's queue loads whose entries waited for space in their queues (R267). -/
  unplaced : SMap (List LoadReq)
  /-- The barrier generations for which the clusters of a suspended hank wait, by cluster code (R47, R479). -/
  barGens : SMap Nat
  /-- The numbers of the VREG banks that a suspended hank owned (R194). -/
  vregBanks : List Nat
  /-- Lines whose staging has been cancelled, by region and line number (R426, R436). -/
  dropped : List (Nat × Nat)
  /-- Lines whose leaf entry supervisor code has invalidated or moved since the last TLBI of their page, by region and line number
  (R436). -/
  doomed : List (Nat × Nat)
  /-- L2 and PROMOTE regions that a fault has ended while the hank was provisional (R211, R442). -/
  stgabn : Nat
deriving DecidableEq, Repr

/-- A shape descriptor (R170). -/
structure Shape where
  va : Nat
  lvl : Nat
  floor : Nat
  cap : Nat
deriving DecidableEq, Repr

/-- A wait condition (R168). -/
structure WaitCond where
  va : Nat
  op : Nat
  v : Word
deriving DecidableEq, Repr

/-- A region of a working set (R169). -/
structure Region where
  va : Word
  hstr : Word
  lines : Nat
  tgt : Nat
  req : Bool
  acc : Nat
  spri : Nat
  soff : Nat
deriving DecidableEq, Repr

/-- A task record as the Task Front has read it (R163 .. R170). -/
structure TaskRec where
  site : Nat
  mode : SMap Nat
  skein : Nat
  bind : Nat
  width : SMap Nat
  extent : SMap Nat
  marg : SMap Nat
  asd : Nat
  param : Word
  code : Word
  entry : SMap Nat
  nscr : Nat
  nfifo : Nat
  tosq : Nat
  cbtp : Nat
  regions : List Region
  qseed : SMap (BitVec 16)
  waits : List WaitCond
  shapes : SMap (Option Shape)
deriving DecidableEq, Repr

/-- A task that the Task Front has taken from its ring (R162, R171, R202). -/
structure Task where
  pa : Nat
  queue : Nat
  body : TaskRec
  takenAt : Nat
  met : SMap Bool
  /-- Physical addresses of the shape words at the ring read (R199). -/
  shapePa : SMap Nat
  learnt : SMap (Option Nat)
  predicted : SMap Nat
  /-- Descriptors that a post has settled and whose acts of R210 are still to be performed. -/
  toAct : SMap Bool
  /-- Hank ordinals below this one have been admitted or passed over (R174). -/
  next : Nat
  dispatched : Bool
  /-- HEAD may advance past the task's entry (R162). -/
  released : Bool
  /-- HEAD has advanced past it. -/
  passed : Bool
  failed : Bool
  done : Bool
deriving DecidableEq, Repr

/-- An entry of the predictor (R201). -/
structure Pred where
  tag : Nat
  h0 : List Nat
  h1 : List Nat
deriving DecidableEq, Repr

/-- An emptied predictor entry (R201). -/
def Pred.initial : Pred := { tag := 0, h0 := [], h1 := [] }

/-- A supervisor core (R401, R402). -/
structure SupCore where
  busy : Bool
  /-- The core's program counter, registers, predicates and waiting. -/
  cl : Cluster
  target : Option Nat
  withdrawn : Bool
  takenAt : Nat
  /-- Physical address of the event record. -/
  record : Nat
deriving DecidableEq, Repr

/-- An idle core (R401). -/
def SupCore.initial : SupCore :=
  { busy := false, cl := .initial, target := none, withdrawn := false, takenAt := 0, record := 0 }

/-- A recode job (R131, R360) and how far it has come. -/
structure RecJob where
  asd : Nat
  va : Nat
  lines : Nat
  fmt : BitVec 5
  rtz : Bool
  ply : Bool
  cmpl : Nat
  fromHost : Bool
  next : Nat
  rewritten : Nat
  skipped : Nat
  refused : Nat
  freed : Nat
  /-- When the engine first met the line owned by the host (R427). -/
  stuckSince : Option Nat
  /-- A line that stands in TRANSIT: its physical line number and the tag and data to write (R70). -/
  transit : Option (Nat × LineTag × List Byte)
  /-- A fold in progress: the frame and the next line to copy (R133). -/
  fold : Option (Nat × Nat)
deriving DecidableEq, Repr

/-- An export job (R437, R438). -/
structure ExpJob where
  asd : Nat
  va : Nat
  dst : Nat
  pages : Nat
  tagged : Bool
  cmpl : Nat
deriving DecidableEq, Repr

/-- A decryption job (R382). -/
structure DecJob where
  src : Nat
  dst : Nat
  len : Nat
  key : Nat
  iv : List Byte
  tag : List Byte
  cmpl : Nat
deriving DecidableEq, Repr

/-- The Creel registers of R390 that hold values of their own. -/
structure Creel where
  lqcfg : SMap Word
  lqptr : SMap Word
  stgbud : SMap Word
  savepool : Word
  spconf : Word
  spcanc : Word
  spsqsh : Word
  sptail : Word
  wdcfg : Word
  pricfg : Word
  spcfg : Word
  expqStat : BitVec 2
  lnkcfg : Word
  flim : BitVec 3
  trip : Bool
  dieTemp : Byte
  bobfail : Byte
  crelce : Word
  bindrec : SMap Word
  svvec : SMap Word
  svring : SMap Word
  hbmce : SMap Word
  bobce : SMap Word
  stgabn : SMap Word
  lnkUp : SMap Bool
  lnkRply : SMap (BitVec 32)
  tallow : SMap Byte
  fwtab : SMap Word
  lperr : Word
  hrcstat : BitVec 2
  dcstat : BitVec 2
  pstateReq : BitVec 3
  pstateCur : BitVec 3
  pstateBusy : Bool
  /-- The state that the transition in progress leads to (R383). -/
  pstateTgt : BitVec 3
  pwrMeas : BitVec 16
  pwrCapErr : Bool
  pwrCap : BitVec 9
  parkReq : Byte
  parked : Byte
  parkBusy : Byte
  ready : Bool
  lcs : BitVec 2
  hbmTemp : SMap Byte
  hbmHot : SMap Bool
  step : Byte
  bobcfg : SMap Word
deriving DecidableEq, Repr

/-- A measurement report (R391): the requester's nonce, the measurement of the firmware, the fuses and the life-cycle state. -/
structure Report where
  nonce : Word
  firmware : BitVec 256
  fuses : List Word
  lcs : BitVec 2
deriving DecidableEq, Repr

/-- A host port: its error queue (R398), its MSI-X table (R377) and the messages it has sent. -/
structure Port where
  eqcfg : Word
  eqTail : BitVec 32
  eqHead : BitVec 32
  eqLost : BitVec 32
  /-- Vectors that are not masked. -/
  unmasked : SMap Bool
  pending : SMap Bool
  /-- Address, data and control words of the MSI-X table. -/
  table : SMap (BitVec 32)
  sent : List Nat
  /-- Measurement reports sent (R391). -/
  reports : List Report
deriving DecidableEq, Repr

/-- A host port after reset (R377, R398). -/
def Port.initial : Port :=
  { eqcfg := 0, eqTail := 0, eqHead := 0, eqLost := 0, unmasked := [], pending := [], table := [], sent := [], reports := [] }

/-- Staging's account in one bobbin (R175, R178). -/
structure Staging where
  /-- Lines charged to the L2 budget per hank, and per task for regions of HSTR 0. -/
  shared : List (Nat × Nat × Nat)
  /-- Bytes that staging has moved in the current window. -/
  moved : Nat
deriving DecidableEq, Repr

/-- A bobbin's staging account at reset. -/
def Staging.initial : Staging := { shared := [], moved := 0 }

/-- What ends the accesses that wait for the host: a denied translation of a range of a PASID (R424, R458), or a line that the host
has not given back (R427). -/
inductive Denial where
  | page (pasid va size : Nat) (cause : BitVec 32)
  | line (n : Nat)
deriving DecidableEq, Repr

/-- The whole module. -/
structure State where
  powered : Bool
  timeNs : Nat
  mem : List Host.Cell
  tags : SMap LineTag
  blocks : SMap Block
  hostOwned : SMap Bool
  /-- When the home sent its back-invalidation snoop for a line, plus 1 (R427). -/
  snoops : SMap Nat
  /-- Lines outside HBM4 whose reads return poisoned data (R431). -/
  extPoison : SMap Bool
  /-- Writes by physical address that wait for their line to leave TRANSIT or to come back from the host (R427, R476): source,
  address and bytes. -/
  physWaits : List (Nat × Nat × List Byte)
  /-- Lines in L1, by spindle × 65,536 + bank × 1,024 + set (R118). -/
  l1 : SMap (Option CacheLine)
  /-- Lines in L2, by bobbin × 2²¹ + slice × 32,768 + way × 2,048 + set (R119). -/
  l2 : SMap (Option CacheLine)
  tlb : List TlbEntry
  /-- The walk caches, by bobbin (R125). -/
  walkCache : SMap (List WalkEntry)
  /-- Pages that the Carding Unit is moving (R120, R177). -/
  moves : List PageMove
  /-- Answers given to reads of hosts and peers, oldest first. -/
  answers : List OutAnswer
  pageReqs : List PageReq
  priEnable : Bool
  priFailed : Bool
  /-- Working lane groups of a spindle that are retired (R14, R44). -/
  retired : SMap (List Nat)
  banks : SMap Bank
  spm : SMap Byte
  plb : SMap (List PlbEntry)
  staging : SMap Staging
  ctxs : SMap Ctx
  fenceNo : Nat
  /-- Lattice sets that LTLD has loaded; an unlisted set is standard set 0 (R96). -/
  lattice : SMap (Option (List Byte))
  creel : Creel
  ports : SMap Port
  tasks : List Task
  hanks : List Hank
  /-- Numbers that order admissions and dispatches (R178, R187). -/
  admitNo : Nat
  dispNo : Nat
  /-- The queue whose turn it is, per class, and tasks it has had in this turn (R174). -/
  turnOf : SMap (Nat × Nat)
  predictor : SMap Pred
  sup : SMap SupCore
  framesUsed : List Nat
  recJobs : List RecJob
  expJobs : List ExpJob
  decJobs : List DecJob
  keys : SMap (Option (BitVec 256))
  ranges : List (Nat × Nat)
  /-- What is on its way to the waiting engines (R424, R427, R458); none between steps. -/
  deny : Option Denial
  /-- Replays counted in the current second, and when it began, per link port (R467, R468). -/
  replays : SMap (Nat × Nat)
  distaffRestarts : List Nat
  distaffServed : Nat
  /-- The limit that the die temperature forces, the temperatures of the eight sensors, and when the limit last changed (R471). -/
  dieLim : BitVec 3
  dieTemps : SMap Nat
  limitSince : Nat
  /-- When the die fell below 100 °C, and the stacks that force P7 (R471). -/
  coolSince : Nat
  hotStacks : List Nat
  /-- The forced limit of a power overshoot is in force (R470). -/
  overshoot : Bool
  /-- When step 3 of a bobbin's park began (R385). -/
  parkSince : SMap (Option Nat)
  cur : Agent
  turns : List Turn
  stepNo : Nat
deriving DecidableEq, Repr

/-- A free context slot: every register as R40 gives it at dispatch. -/
def Ctx.free : Ctx :=
  { hank := none, asd := 0, c := .initial, a := .initial, v := .initial, m := .initial, wid := [], hord := 0, mord := 0
    prio := 0, aged := false, flags := 0, vcap := 1, tol := 0, rkcap := 64, latsel := 0, pzr := 0, pzrDone := false
    bankNo := 0, bankMode := 0, bankStat := 0, vregs := [], masks := [], cbt := none, queues := [], cb := [], cq := []
    fences := [], tiles := [], accs := [], tosq := 0, barCount := 0, event := none, waiting := []
    provisional := false, held := [], dying := none, cbtPending := false, reissue := [] }

/-- LQCFGn after reset: WEIGHT 1 (R160). -/
def Creel.lqcfgReset : Word := 0x0010000000000000
/-- STGBUDn after reset: MAXADM 240, FLOOR 10, L2PCT 50 (R175). -/
def Creel.stgbudReset : Word := 0x0000000000F00A32
/-- TALLOW after reset (R386). -/
def Creel.tallowReset : Byte := 128
/-- BOBCFGn: the lowest 60 physical spindles enabled (R10, R13; the fuses, log entry 4). -/
def Creel.bobcfgReset : Word := 0x0FFFFFFFFFFFFFFF

/-- The registers of R390 at their Reset values; MODID.STEP and MODSTAT.LCS come from fuses (log entry 4). -/
def Creel.initial : Creel :=
  { lqcfg := [], lqptr := [], stgbud := [], savepool := 0, spconf := 0, spcanc := 0, spsqsh := 0, sptail := 0
    wdcfg := 10, pricfg := 0x00010064, spcfg := 1000, expqStat := 0, lnkcfg := 1000, flim := 0, trip := false
    dieTemp := 0, bobfail := 0, crelce := 0, bindrec := [], svvec := [], svring := [], hbmce := [], bobce := []
    stgabn := [], lnkUp := [], lnkRply := [], tallow := [], fwtab := [], lperr := 0, hrcstat := 0, dcstat := 0
    pstateReq := 0, pstateCur := 0, pstateBusy := false, pstateTgt := 0, pwrMeas := 0, pwrCapErr := false, pwrCap := 360
    parkReq := 0, parked := 0, parkBusy := 0, ready := true, lcs := 1, hbmTemp := [], hbmHot := [], step := 0
    bobcfg := [] }

/-- The module right after reset (R389 with READY set): memories wiped, registers at their Reset values, no task. -/
def State.reset : State :=
  { powered := true, timeNs := 0, mem := [], tags := [], blocks := [], hostOwned := [], snoops := [], extPoison := [], physWaits := []
    l1 := [], l2 := [], tlb := [], walkCache := [], moves := [], answers := [], pageReqs := []
    priEnable := true, priFailed := false, retired := [], banks := [], spm := [], plb := [], staging := [], ctxs := []
    fenceNo := 0, lattice := [], creel := .initial, ports := [], tasks := [], hanks := [], admitNo := 0
    dispNo := 0, turnOf := [], predictor := [], sup := [], framesUsed := [], recJobs := [], expJobs := [], decJobs := []
    keys := [], ranges := [], deny := none, replays := [], distaffRestarts := [], distaffServed := 0, dieLim := 0, dieTemps := [], limitSince := 0, coolSince := 0, hotStacks := []
    overshoot := false, parkSince := [], cur := .cluster 0 .C, turns := [], stepNo := 0 }

end Sys2Proof.Machine
end

