-- ==== Sys2Proof/Machine/Lattice.lean ====
section
/-! DEFINITION. The format lattice (R95 .. R99). -/

namespace Sys2Proof.Machine

/-- The action of a lattice entry (R95). -/
inductive Act where
  | forbidden | compute | demote
deriving DecidableEq, Repr

/-- A decoded lattice entry (R95). -/
structure LatEntry where
  act : Act
  rsel : Bool
  cf : Fmt
deriving DecidableEq, Repr

/-- Decodes an entry; ACT 3, which no set holds, reads as forbidden (R96). -/
def LatEntry.ofByte (b : Byte) : LatEntry :=
  { act := match (b.extractLsb' 6 2).toNat with
      | 1 => .compute
      | 2 => .demote
      | _ => .forbidden
    rsel := b.getLsbD 5
    cf := b.extractLsb' 0 5 }

/-- Standard set 0, real formats: rows A and columns B from FP64 to VQ2 (R99). -/
def Lattice.realRows : List (List Byte) :=
  [ [0x41, 0x41, 0x41, 0x41, 0x41, 0x41, 0x41, 0x41, 0x41, 0x41],
    [0x41, 0x42, 0x42, 0x42, 0x42, 0x42, 0x42, 0x42, 0x42, 0x42],
    [0x41, 0x42, 0x43, 0x42, 0x43, 0x43, 0x43, 0x43, 0x43, 0x43],
    [0x41, 0x42, 0x42, 0x44, 0x44, 0x44, 0x44, 0x44, 0x44, 0x44],
    [0x41, 0x42, 0x43, 0x44, 0x45, 0xA3, 0xA3, 0xA3, 0xA3, 0xA3],
    [0x41, 0x42, 0x43, 0x44, 0xA3, 0x46, 0xA3, 0xA3, 0xA3, 0xA3],
    [0x41, 0x42, 0x43, 0x44, 0xA3, 0xA3, 0x47, 0xA3, 0xA3, 0xA3],
    [0x41, 0x42, 0x43, 0x44, 0xA3, 0xA3, 0xA3, 0x48, 0xA3, 0xA3],
    [0x41, 0x42, 0x43, 0x44, 0xA3, 0xA3, 0xA3, 0xA3, 0x49, 0xA3],
    [0x41, 0x42, 0x43, 0x44, 0xA3, 0xA3, 0xA3, 0xA3, 0xA3, 0x00] ]

/-- Standard set 0, integer formats: rows A and columns B from I64 to U8 (R99). -/
def Lattice.intRows : List (List Byte) :=
  [ [0x50, 0x50, 0x50, 0x50, 0x50, 0x50, 0x50, 0x50],
    [0x50, 0x51, 0x51, 0x51, 0x50, 0x50, 0x50, 0x50],
    [0x50, 0x51, 0x52, 0x52, 0x50, 0x50, 0x51, 0x51],
    [0x50, 0x51, 0x52, 0x53, 0x50, 0x50, 0x51, 0x52],
    [0x50, 0x50, 0x50, 0x50, 0x54, 0x54, 0x54, 0x54],
    [0x50, 0x50, 0x50, 0x50, 0x54, 0x55, 0x55, 0x55],
    [0x50, 0x50, 0x51, 0x51, 0x54, 0x55, 0x56, 0x56],
    [0x50, 0x50, 0x51, 0x52, 0x54, 0x55, 0x56, 0x57] ]

/-- The standard set's entry for a pair of formats (R99). -/
def Lattice.standard (a b : Fmt) : Byte :=
  if a.isReal && b.isReal then (Lattice.realRows.getD (a.toNat - 1) []).getD (b.toNat - 1) 0
  else if a.isInt && b.isInt then (Lattice.intRows.getD (a.toNat - 16) []).getD (b.toNat - 16) 0
  else 0

/-- The entry of a set: byte 32 × A + B (R96); a set that LTLD has not loaded is the standard set. -/
def Lattice.entry (set : Option (List Byte)) (a b : Fmt) : LatEntry :=
  .ofByte (match set with
    | none => Lattice.standard a b
    | some l => l.getD (32 * a.toNat + b.toNat) 0)

/-- LTLD accepts byte `k` of a set (R96). -/
def Lattice.entryOk (k : Nat) (b : Byte) : Bool :=
  let fa : Fmt := BitVec.ofNat 5 (k / 32)
  let fb : Fmt := BitVec.ofNat 5 k
  let cf : Fmt := b.extractLsb' 0 5
  let act := (b.extractLsb' 6 2).toNat
  let known (f : Fmt) := f.allocated && f != Fmt.none
  act != 3 && (act == 0 || known cf) && ((known fa && known fb) || b == 0)

/-- LTLD accepts a whole set (R96). -/
def Lattice.setOk (l : List Byte) : Bool := l.length == 1024 && l.zipIdx.all fun p => Lattice.entryOk p.2 p.1

/-- The result format of an entry for operand formats `a` and `b`: CF, or with RSEL the narrower operand's, and A's on
equal widths (R95). -/
def LatEntry.result (e : LatEntry) (a b : Fmt) : Fmt :=
  if e.rsel then (if b.width < a.width then b else a) else e.cf

end Sys2Proof.Machine
end

