-- ==== Sys2Proof/WellFormed.lean ====
section
/-! DEFINITION. The checks that a legal encoding passes (R218 to R239, R411), on instructions: which clusters have the
instruction, and what its fields may hold. -/

namespace Sys2Proof

/-- Where an instruction is decoded: a cluster of a compute context, or a supervisor core (R232). -/
inductive Site where
  | cl (c : Cl)
  | sup
deriving DecidableEq, Repr

/-- A format code that R50 allocates (R51). -/
def fmtAllocated (f : BitVec 5) : Bool := f.toNat ≤ 0x0A || (0x10 ≤ f.toNat && f.toNat ≤ 0x17)

/-- A block-scaled format code (R50). -/
def fmtScaled (f : BitVec 5) : Bool := 0x05 ≤ f.toNat && f.toNat ≤ 0x0A

/-- A control-register number of R352. -/
def csrAllocated (n : BitVec 10) : Bool :=
  n.toNat ≤ 13 || (16 ≤ n.toNat && n.toNat ≤ 21) || (32 ≤ n.toNat && n.toNat ≤ 47)

/-- A failed check of reason `r` of R411 counts against an instruction. -/
abbrev Check := Nat × Bool

/-- Scopes 6 and 7 are reserved (R135). -/
def ckScope (s : BitVec 3) : Check := (7, decide (s.toNat < 6))
/-- A queue (R218). -/
def ckQ (r : RegF) : Check := (6, decide (r.toNat < 16))
/-- A mask (R218). -/
def ckK (r : RegF) : Check := (6, decide (r.toNat < 12))
/-- A mask, or 31 to discard the result (R308). -/
def ckKx (r : RegF) : Check := (6, r.toNat < 12 || r.toNat == 31)
/-- A matrix name (R218). -/
def ckM (r : RegF) : Check := (6, decide (r.toNat < 16))
/-- An accumulator (R218). -/
def ckA (r : RegF) : Check := (6, decide (r.toNat < 8))
/-- A completion bitmap (R218). -/
def ckCb (r : RegF) : Check := (6, decide (r.toNat < 8))
/-- A format code (R51). -/
def ckFmt (f : BitVec 5) : Check := (7, fmtAllocated f)
/-- A target format and block code of a conversion (R227, R310, R340). -/
def ckConv (f : BitVec 5) (blk : BitVec 2) : Check :=
  (7, fmtAllocated f && f != 0 && blk != 3 && (blk == 0 || fmtScaled f))

/-- What stands in a register field of a 64-bit V instruction: a vector operand, another operand, or nothing. -/
inductive VOpd where
  | vec | other | unused
deriving DecidableEq, Repr

/-- What a minor of majors 0x21 to 0x26 makes of the second parcel's fields (R224, R237). -/
structure VUse where
  vd : VOpd
  va : VOpd
  vb : VOpd
  vc : VOpd
  poly : Bool
  /-- OVR is read although the minor is not polymorphic: VSPLAT. -/
  ovrRead : Bool
  /-- RM 4 is accepted (R79). -/
  ef : Bool
  /-- The bits of IMM that the minor uses. -/
  imm : BitVec 10
  /-- MASK must be 15 (R237, major 0x26). -/
  mask15 : Bool
  /-- Z must be 0 (R301). -/
  noZ : Bool

/-- A minor with operands vd, va, vb that is not polymorphic. -/
def VUse.plain : VUse :=
  { vd := .vec, va := .vec, vb := .vec, vc := .unused, poly := false, ovrRead := false, ef := false, imm := 0
    mask15 := false, noZ := false }

/-- A polymorphic minor with operands vd, va, vb. -/
def VUse.polym : VUse := { VUse.plain with poly := true, imm := 1 }

/-- A queue may stand in the field when its QBITS bit is set: only in a vector operand's, and only q0 to q15 (R224). -/
def ckQbit (bit : Bool) (o : VOpd) (r : RegF) : List Check :=
  [(5, !bit || o == .vec), (6, !bit || decide (r.toNat < 16))]

/-- The checks of the second parcel (R224, R79, R237). -/
def VUse.checks (u : VUse) (d a b : RegF) (m : VMods) : List Check :=
  [ (5, u.poly || u.ovrRead || m.ovr == 0), (7, fmtAllocated m.ovr),
    (6, m.mask.toNat < 12 || m.mask == 15), (5, !(m.mask == 15 && m.z)), (5, !u.mask15 || m.mask == 15), (5, !u.noZ || !m.z),
    (7, m.rm.toNat < 4 || (u.ef && m.rm.toNat == 4)),
    (5, !(u.vc == .unused) || m.vc == 0), (5, m.imm &&& ~~~u.imm == 0) ]
  ++ ckQbit m.qa u.va a ++ ckQbit m.qb u.vb b ++ ckQbit m.qd u.vd d ++ ckQbit m.qc u.vc m.vc

/-- Loads of major 0x21 (R301): a scratchpad load names no queue. -/
def VUse.load (sp indexed : Bool) : VUse :=
  { VUse.plain with vd := if sp then .other else .vec, va := .other, vb := if indexed then .vec else .unused }

/-- Stores of major 0x21 (R301): QBITS, OVR and Z are zero. -/
def VUse.store : VUse :=
  { VUse.plain with vd := .other, va := .other, vb := .other, ef := true, noZ := true }

/-- Lane-sliced indexing is legal only in the scratchpad (R301). -/
def ckLs (ls sp : Bool) : Check := (3, !ls || sp)

/-- A cluster mask names this cluster. -/
def maskNames (site : Site) (m : BitVec 4) : Bool :=
  match site with
  | .cl c => m.getLsbD c.maskBit
  | .sup => false

/-- The clusters that a mask names, in the order C, A, V, M (R234). -/
def maskClusters (m : BitVec 4) : List Cl := Cl.all.filter fun c => m.getLsbD c.maskBit

/-- The checks of an instruction's fields at a site (R411, reasons 3, 5, 6 and 7). -/
def Instr.checks (site : Site) : Instr → List Check
  | .bextu _ _ _ l w | .bext _ _ _ l w | .bins _ _ _ l w => [(7, decide (l.toNat + w.toNat + 1 ≤ 64))]
  | .cmp _ _ _ _ _ c | .cmpi _ _ _ _ _ c => [(7, decide (c.toNat < 8))]
  | .fcmp _ _ _ _ _ c => [(7, 8 ≤ c.toNat && c.toNat < 13)]
  | .amoswap _ _ _ _ _ s _ | .amoadd _ _ _ _ _ s _ | .amoand _ _ _ _ _ s _ | .amoor _ _ _ _ _ s _
  | .amoxor _ _ _ _ _ s _ | .amomin _ _ _ _ _ s _ | .amomax _ _ _ _ _ s _ | .amominu _ _ _ _ _ s _
  | .amomaxu _ _ _ _ _ s _ | .cas _ _ _ _ _ s _ => [ckScope s]
  | .ldacq _ _ _ s | .ldacqw _ _ _ s | .strel _ _ _ s | .strelw _ _ _ s | .fence _ s => [ckScope s]
  | .csrr _ _ n | .csrw _ _ n => [(7, csrAllocated n)]
  | .rdv _ m _ => [(7, maskNames site m)]
  | .cfork _ m _ _ => [(7, !maskNames site m && m != 0 && decide ((maskClusters m).length ≤ 2))]
  | .cforkLong _ m _ _ _ => [(7, !maskNames site m && m != 0 && decide ((maskClusters m).length ≤ 3))]
  | .sigwait _ s _ _ _ | .sigset _ s _ _ | .shpost _ s _ _ => [ckScope s]
  | .wid _ _ j => [(7, decide (j.toNat < 6))]
  | .tlbi _ _ k => [(7, decide (k.toNat < 3))]
  | .vldq _ q _ | .vldsq _ q _ _ | .vstq _ q _ | .vstsq _ q _ _ | .sbind _ q _ | .sunbind _ q => [ckQ q]
  | .vldxq _ q _ qi | .vstxq _ q _ qi => [ckQ q, ckQ qi]
  | .setvlAccess _ _ _ f | .setvl _ _ _ f => [ckFmt f]
  | .copy _ _ _ _ _ _ s _ _ _ _ => [ckScope s]
  | .copyt _ _ _ _ _ _ s _ _ _ _ _ => [ckScope s]
  | .cwait _ cb _ _ | .cclr _ cb _ _ => [ckCb cb]
  | .qfence _ c q => [(7, !(c == 0 && q == 0))]
  | .setvcap _ _ n => [(7, n == 1 || n == 2 || n == 4 || n == 8)]
  | .qpopv _ _ q => [ckQ q]
  | .vldx _ _ _ _ ls sp | .vstx _ _ _ _ ls sp => [ckLs ls sp]
  | .vldLong _ d a sp m => (VUse.load sp false).checks d a 0 m
  | .vldxLong _ d a b ls sp m => ckLs ls sp :: (VUse.load sp true).checks d a b m
  | .vstLong _ d a _ m => VUse.store.checks d a 0 m
  | .vstxLong _ d a b ls sp m => ckLs ls sp :: VUse.store.checks d a b m
  | .vaddLong _ d a b m | .vsubLong _ d a b m | .vmulLong _ d a b m | .vminLong _ d a b m | .vmaxLong _ d a b m =>
    VUse.polym.checks d a b m
  | .vabsLong _ d a m | .vnegLong _ d a m | .vexp2Long _ d a m | .vlog2Long _ d a m | .vrcpLong _ d a m
  | .vrsqLong _ d a m => { VUse.polym with vb := .unused }.checks d a 0 m
  | .vfma _ d a b m | .vfms _ d a b m | .vnfma _ d a b m => { VUse.polym with vc := .vec }.checks d a b m
  | .vandLong _ d a b m | .vorLong _ d a b m | .vxorLong _ d a b m | .vshlLong _ d a b m | .vshrLong _ d a b m
  | .vsraLong _ d a b m | .vpermLong _ d a b m => VUse.plain.checks d a b m
  | .vcmp _ d a b m =>
    [ckKx d, ckKx m.vc, (7, decide ((m.imm.extractLsb' 0 4).toNat < 8))]
      ++ { VUse.plain with vd := .other, vc := .other, imm := 0xF }.checks d a b m
  | .vsel _ d a b m => ckK m.vc :: { VUse.plain with vc := .other }.checks d a b m
  | .vmovLong _ d a m | .vscanLong _ d a m => { VUse.plain with vb := .unused }.checks d a 0 m
  | .vsplatLong _ d a m => { VUse.plain with va := .other, vb := .unused, ovrRead := true }.checks d a 0 m
  | .vextrLong _ d a b m => { VUse.plain with vd := .other, vb := .other }.checks d a b m
  | .vcvt _ d a m =>
    ckConv (m.imm.extractLsb' 0 5) (m.imm.extractLsb' 5 2)
      :: { VUse.plain with vb := .unused, ef := true, imm := 0x7F }.checks d a 0 m
  | .vscaleLong _ d a m =>
    (7, m.imm.extractLsb' 5 2 != 3) :: { VUse.plain with vb := .unused, imm := 0x60 }.checks d a 0 m
  | .vssmx _ d a b m => { VUse.plain with vb := .other, vc := .other }.checks d a b m
  | .vredsumLong _ d a m | .vredmaxLong _ d a m | .vredminLong _ d a m =>
    { VUse.plain with vd := .other, vb := .unused }.checks d a 0 m
  | .vslide _ d a m => { VUse.plain with vb := .unused, imm := 0x3FF }.checks d a 0 m
  | .vcompress _ d a m | .vexpand _ d a m =>
    ckK m.vc :: { VUse.plain with vb := .unused, vc := .other }.checks d a 0 m
  | .kand _ d a b | .kor _ d a b | .kxor _ d a b | .kandn _ d a b => [ckK d, ckK a, ckK b]
  | .kandLong _ d a b m | .korLong _ d a b m | .kxorLong _ d a b m | .kandnLong _ d a b m =>
    [ckK d, ckK a, ckK b] ++ { VUse.plain with vd := .other, va := .other, vb := .other, mask15 := true }.checks d a b m
  | .knot _ d a | .kmov _ d a => [ckK d, ckK a]
  | .knotLong _ d a m | .kmovLong _ d a m =>
    [ckK d, ckK a] ++ { VUse.plain with vd := .other, va := .other, vb := .unused, mask15 := true }.checks d a 0 m
  | .kfirst _ _ a | .kpop _ _ a => [ckK a]
  | .kfirstLong _ d a m =>
    ckK a :: { VUse.plain with vd := .other, va := .other, vb := .unused, mask15 := true }.checks d a 0 m
  | .kpopLong _ d a m =>
    ckK a :: { VUse.plain with vd := .other, va := .other, vb := .unused, mask15 := true, imm := 1 }.checks d a 0 m
  | .mclaim _ d n | .mclaimElastic _ d n => [ckM d, (7, 1 ≤ n.toNat && n.toNat ≤ 16)]
  | .mrel _ d | .mzero _ d => [ckM d]
  | .mrank _ _ a => [ckM a]
  | .mtr _ d a | .mdense _ d a | .mlrc _ d a => [ckM d, ckM a]
  | .mld _ d _ _ | .mldf _ d _ _ | .mst _ d _ _ | .mstf _ d _ _ => [ckM d]
  | .mldSparse _ d _ _ rc mode => [ckM d, (7, mode != 3), (5, !(mode == 0) || rc == 0)]
  | .mma _ d a b => [ckA d, ckM a, ckM b]
  | .msld _ d a b n => [ckA d, ckM a, ckM b, (7, n != 0)]
  | .mlmul _ d a b => [ckM d, ckM a, ckM b]
  | .mladd _ d a b _ _ mode => [ckM d, ckM a, ckM b, (7, decide (mode.toNat < 2))]
  | .azero _ d | .ald _ d _ _ | .ast _ d _ _ => [ckA d]
  | .acvt _ d a f blk rm _ => [ckM d, ckA a, ckConv f blk, (7, decide (rm.toNat < 5))]
  | _ => []

/-- Where an instruction is allocated (R232 to R239). -/
inductive Home where
  /-- In every cluster and on supervisor cores. -/
  | common
  /-- In every cluster only: majors 0x15 and 0x1E and minors 0 to 6 of 0x17. -/
  | compute
  | privileged
  | access | vector | matrix
  /-- An event of an engine, a controller, a host or the board: it has no encoding. -/
  | event
deriving DecidableEq, Repr

/-- The home of an instruction. -/
def Instr.home : Instr → Home
  | .add .. | .sub .. | .and .. | .or .. | .xor .. | .andn .. | .shl .. | .shr .. | .sra .. | .ror .. | .min .. | .max ..
  | .minu .. | .maxu .. | .clz .. | .ctz .. | .popc .. | .adds .. | .subs .. | .shls .. | .addi .. | .andi .. | .ori ..
  | .xori .. | .shli .. | .shri .. | .srai .. | .rori .. | .mul .. | .mulh .. | .mulhu .. | .div .. | .divu .. | .rem ..
  | .remu .. | .muls .. | .bextu .. | .bext .. | .bins .. | .limmh .. | .limm .. | .cmp .. | .fcmp .. | .cmpi .. | .sel ..
  | .br .. | .brl .. | .jr .. | .jrl .. | .loop .. | .ldb .. | .ldbu .. | .ldh .. | .ldhu .. | .ldw .. | .ldwu .. | .ldd ..
  | .stb .. | .sth .. | .stw .. | .std .. | .amoswap .. | .amoadd .. | .amoand .. | .amoor .. | .amoxor .. | .amomin ..
  | .amomax .. | .amominu .. | .amomaxu .. | .cas .. | .ldacq .. | .ldacqw .. | .strel .. | .strelw .. | .fence ..
  | .fadd .. | .fsub .. | .fmul .. | .fma .. | .fmin .. | .fmax .. | .fcvtf .. | .fcvtfu .. | .fcvti .. | .fcvtiu ..
  | .fabs .. | .fneg .. | .csrr .. | .csrw .. | .getts .. | .trap .. | .hint .. | .hintLong .. => .common
  | .qpush .. | .qpushu .. | .qpushf .. | .qpops .. | .qpeek .. | .qstat .. | .qclose .. | .end_ .. | .yield .. | .bar ..
  | .rdv .. | .cfork .. | .cforkLong .. | .sigwait .. | .sigset .. | .taskq .. | .shpost .. | .wid .. => .compute
  | .svret .. | .rsave .. | .rrest .. | .tlbi .. | .ltld .. | .recode .. => .privileged
  | .vldq .. | .vldsq .. | .vldxq .. | .vstq .. | .vstsq .. | .vstxq .. | .setvlAccess .. | .sbind .. | .sunbind ..
  | .copy .. | .copyt .. | .cwait .. | .ctest .. | .cclr .. | .qfence .. | .tagrd .. | .tagset .. | .pfl2 .. => .access
  | .setvl .. | .setvcap .. | .cbtld .. | .vtagr .. | .vtagw .. | .qpopv .. | .vld .. | .vldLong .. | .vst .. | .vstLong ..
  | .vldx .. | .vldxLong .. | .vstx .. | .vstxLong .. | .vadd .. | .vaddLong .. | .vsub .. | .vsubLong .. | .vmul ..
  | .vmulLong .. | .vmin .. | .vminLong .. | .vmax .. | .vmaxLong .. | .vabs .. | .vabsLong .. | .vneg .. | .vnegLong ..
  | .vfma .. | .vfms .. | .vnfma .. | .vand .. | .vandLong .. | .vor .. | .vorLong .. | .vxor .. | .vxorLong .. | .vshl ..
  | .vshlLong .. | .vshr .. | .vshrLong .. | .vsra .. | .vsraLong .. | .vcmp .. | .vsel .. | .vmov .. | .vmovLong ..
  | .vsplat .. | .vsplatLong .. | .vextr .. | .vextrLong .. | .vcvt .. | .vscale .. | .vscaleLong .. | .vexp2 ..
  | .vexp2Long .. | .vlog2 .. | .vlog2Long .. | .vrcp .. | .vrcpLong .. | .vrsq .. | .vrsqLong .. | .vssmx .. | .vredsum ..
  | .vredsumLong .. | .vredmax .. | .vredmaxLong .. | .vredmin .. | .vredminLong .. | .vscan .. | .vscanLong .. | .vperm ..
  | .vpermLong .. | .vslide .. | .vcompress .. | .vexpand .. | .kand .. | .kandLong .. | .kor .. | .korLong .. | .kxor ..
  | .kxorLong .. | .kandn .. | .kandnLong .. | .knot .. | .knotLong .. | .kmov .. | .kmovLong .. | .kfirst ..
  | .kfirstLong .. | .kpop .. | .kpopLong .. | .reel .. | .reelx .. | .convoy .. => .vector
  | .mclaim .. | .mclaimElastic .. | .mrel .. | .mzero .. | .mrank .. | .mtr .. | .mdense .. | .mld .. | .mldSparse ..
  | .mldf .. | .mst .. | .mstf .. | .mma .. | .msld .. | .mlmul .. | .mladd .. | .mlrc .. | .azero .. | .ald .. | .ast ..
  | .acvt .. => .matrix
  | _ => .event

/-- The site decodes instructions of this home (R232, R235). -/
def Home.legalAt : Home → Site → Bool
  | .common, _ => true
  | .compute, .cl _ => true
  | .privileged, .sup => true
  | .access, .cl .A => true
  | .vector, .cl .V => true
  | .matrix, .cl .M => true
  | _, _ => false

/-- The instruction is a legal encoding at the site. -/
def Instr.wf (site : Site) (i : Instr) : Bool :=
  i.home.legalAt site && (i.checks site).all fun c => c.2

end Sys2Proof
end

