-- ==== Sys2Proof/Machine/Acc.lean ====
section
/-! DEFINITION. Accessors of contexts, clusters, registers and predicates: the one home of every register (R27, R40). -/

namespace Sys2Proof.Machine

/-- The context in a slot. -/
def State.ctx (s : State) (k : Nat) : Ctx := s.ctxs.get .free k
/-- Replaces the context in a slot. -/
def State.setCtx (s : State) (k : Nat) (x : Ctx) : State := { s with ctxs := s.ctxs.set .free k x }
/-- Applies a function to the context in a slot. -/
def State.modCtx (s : State) (k : Nat) (f : Ctx → Ctx) : State := s.setCtx k (f (s.ctx k))

/-- A cluster of a context. -/
def Ctx.cl (x : Ctx) : Cl → Cluster
  | .C => x.c | .A => x.a | .V => x.v | .M => x.m
/-- Replaces a cluster of a context. -/
def Ctx.setCl (x : Ctx) (c : Cl) (y : Cluster) : Ctx :=
  match c with
  | .C => { x with c := y }
  | .A => { x with a := y }
  | .V => { x with v := y }
  | .M => { x with m := y }
/-- Applies a function to a cluster of a context. -/
def Ctx.modCl (x : Ctx) (c : Cl) (f : Cluster → Cluster) : Ctx := x.setCl c (f (x.cl c))
/-- Applies a function to every cluster of a context. -/
def Ctx.modAll (x : Ctx) (f : Cluster → Cluster) : Ctx := { x with c := f x.c, a := f x.a, v := f x.v, m := f x.m }

/-- A supervisor core. -/
def State.core (s : State) (n : Nat) : SupCore := s.sup.get .initial n
/-- Replaces a supervisor core. -/
def State.setCore (s : State) (n : Nat) (x : SupCore) : State := { s with sup := s.sup.set .initial n x }

/-- The cluster of an agent; a supervisor core has one of its own. -/
def State.clusterOf (s : State) : Agent → Cluster
  | .cluster k c => (s.ctx k).cl c
  | .sup n => (s.core n).cl
/-- Applies a function to the cluster of an agent. -/
def State.modCluster (s : State) (a : Agent) (f : Cluster → Cluster) : State :=
  match a with
  | .cluster k c => s.modCtx k fun x => x.modCl c f
  | .sup n => s.setCore n { s.core n with cl := f (s.core n).cl }

/-- The executing cluster. -/
def State.me (s : State) : Cluster := s.clusterOf s.cur
/-- Applies a function to the executing cluster. -/
def State.modMe (s : State) (f : Cluster → Cluster) : State := s.modCluster s.cur f

/-- The slot of an agent; none for a supervisor core. -/
def agentSlot : Agent → Option Nat
  | .cluster k _ => some k
  | .sup _ => none
/-- The slot of the executing context; 0 on a supervisor core, which uses no context. -/
def State.slot (s : State) : Nat := (agentSlot s.cur).getD 0
/-- The executing cluster's letter; C on a supervisor core (R232). -/
def State.cl (s : State) : Cl :=
  match s.cur with
  | .cluster _ c => c
  | .sup _ => .C
/-- The executing agent is a supervisor core. -/
def State.isSup (s : State) : Bool := (agentSlot s.cur).isNone
/-- The site at which the executing agent decodes (R232). -/
def State.site (s : State) : Site :=
  match s.cur with
  | .cluster _ c => .cl c
  | .sup _ => .sup
/-- The executing context. -/
def State.myCtx (s : State) : Ctx := s.ctx s.slot
/-- Applies a function to the executing context. -/
def State.modMyCtx (s : State) (f : Ctx → Ctx) : State := s.modCtx s.slot f

/-- A scalar register; s0 reads zero (R40). -/
def Cluster.readS (x : Cluster) (r : RegF) : Word := if r = 0 then 0 else x.s.get 0 r.toNat
/-- Writes a scalar register; a write to s0 is discarded (R40, R245). -/
def Cluster.writeS (x : Cluster) (r : RegF) (v : Word) : Cluster :=
  if r = 0 then x else { x with s := x.s.set 0 r.toNat v }
/-- A predicate; g7 reads 1 (R40). -/
def Cluster.readG (x : Cluster) (p : BitVec 3) : Bool := p == 7 || x.g.getLsbD p.toNat
/-- Writes a predicate; a write to g7 is discarded (R40, R222). -/
def Cluster.writeG (x : Cluster) (p : BitVec 3) (v : Bool) : Cluster :=
  if p = 7 then x
  else { x with g := if v then x.g ||| (1#8 <<< p.toNat) else x.g &&& ~~~(1#8 <<< p.toNat) }

/-- A scalar register of the executing cluster. -/
def State.readS (s : State) (r : RegF) : Word := s.me.readS r
/-- Writes a scalar register of the executing cluster. -/
def State.writeS (s : State) (r : RegF) (v : Word) : State := s.modMe fun x => x.writeS r v
/-- A predicate of the executing cluster. -/
def State.readG (s : State) (p : BitVec 3) : Bool := s.me.readG p
/-- Writes a predicate of the executing cluster. -/
def State.writeG (s : State) (p : BitVec 3) (v : Bool) : State := s.modMe fun x => x.writeG p v

/-- The guard's value: g(GSEL) xor NEG (R217). -/
def State.guardTrue (s : State) (g : Guard) : Bool := (s.readG g.sel) != g.neg

/-- ORs flags into the executing context's FLAGS (R85); a supervisor core has no FLAGS. -/
def State.orFlags (s : State) (f : Flags) : State :=
  if s.isSup then s else s.modMyCtx fun x => { x with flags := x.flags ||| f }

/-- The bobbin of a context slot (R9). -/
def bobbinOf (slot : Nat) : Nat := slot / 120
/-- The device spindle of a context slot (R9). -/
def spindleOf (slot : Nat) : Nat := slot / 2
/-- The slot of the spindle's other context. -/
def otherSlot (slot : Nat) : Nat := if slot % 2 = 0 then slot + 1 else slot - 1
/-- The bobbin of a supervisor core: four cores to a bobbin (R134). -/
def coreBobbin (core : Nat) : Nat := core / 4

/-- Working lane groups of a context's spindle, ascending (R14, R44). -/
def State.lanes (s : State) (slot : Nat) : List Nat :=
  (List.range 8).filter fun i => !(s.retired.get [] (spindleOf slot)).contains i
/-- The number of working lane groups (R44). -/
def State.laneCount (s : State) (slot : Nat) : Nat := (s.lanes slot).length

/-- VLMAX of an element width at a capacity with W working lane groups (R58, R114). -/
def vlmaxOf (width vcap lanes : Nat) : Nat := 256 * (128 * vcap * lanes / 8) / width

end Sys2Proof.Machine
end

