-- ==== Sys2Proof/Machine/Caches.lean ====
section
/-! DEFINITION. The caches: lines that the L1 of a spindle and the L2 of a bobbin hold, and which of them are dirty (R118, R119).
The bytes and tags of a line stand in memory's fields, since the caches are coherent (R21). -/

namespace Sys2Proof.Machine

/-- The spindle of an L1 place, and the bank whose way it is (R118). -/
def l1Spindle (place : Nat) : Nat := place / 65536
/-- The bank of an L1 place (R118). -/
def l1Bank (place : Nat) : Nat := place / 1024 % 64
/-- The bobbin of an L1 place (R9). -/
def l1Bobbin (place : Nat) : Nat := bobbinOf (2 * l1Spindle place)
/-- The bobbin of an L2 place (R119). -/
def l2Bobbin (place : Nat) : Nat := place / 2 ^ 21

/-- A place holds the line. -/
def holdsLine (line : Nat) (x : Option CacheLine) : Bool := x.any fun c => c.line == line

/-- The L1 of a spindle holds a line. -/
def State.inL1 (s : State) (spindle line : Nat) : Bool := s.l1.any fun p => l1Spindle p.1 == spindle && holdsLine line p.2
/-- The L2 of a bobbin holds a line. -/
def State.inL2 (s : State) (bobbin line : Nat) : Bool := s.l2.any fun p => l2Bobbin p.1 == bobbin && holdsLine line p.2

/-- A context of a spindle writes a line (R118, R119): its copy in the spindle's L1, or in the bobbin's L2, becomes dirty, and
every other L1 and L2 loses its copy. -/
def State.cacheWrite (s : State) (spindle line : Nat) : State :=
  let one := s.inL1 spindle line
  let dirty (x : Option CacheLine) : Option CacheLine := if holdsLine line x then some { line := line, dirty := true } else x
  { s with
    l1 := (s.l1.filter fun p => l1Spindle p.1 == spindle || !holdsLine line p.2).map fun p => (p.1, dirty p.2)
    l2 := (s.l2.filter fun p => l2Bobbin p.1 == bobbinOf (2 * spindle) || !holdsLine line p.2).map fun p =>
      (p.1, if one then p.2 else dirty p.2) }

/-- A line is recalled from every L1 and L2, dirty copies written back (R118, R427). -/
def State.recall (s : State) (line : Nat) : State :=
  { s with l1 := s.l1.filter fun p => !holdsLine line p.2, l2 := s.l2.filter fun p => !holdsLine line p.2 }

/-- The ways of banks leave L1, dirty lines written back to L2 (R110, R118). -/
def State.dropWays (s : State) (spindle : Nat) (banks : List Nat) : State :=
  let gone (p : Nat × Option CacheLine) : Bool := l1Spindle p.1 == spindle && banks.contains (l1Bank p.1)
  let lost := (s.l1.filter gone).filterMap fun p => p.2.bind fun c => if c.dirty then some c.line else none
  { s with
    l1 := s.l1.filter fun p => !gone p
    l2 := s.l2.map fun p => (p.1, p.2.map fun c =>
      if l2Bobbin p.1 == bobbinOf (2 * spindle) && lost.contains c.line then { c with dirty := true } else c) }

/-- A bobbin's L1 and L2 are written back and emptied, as before it parks (R119, R385). -/
def State.dropCaches (s : State) (bobbin : Nat) : State :=
  { s with l1 := s.l1.filter fun p => l1Bobbin p.1 != bobbin, l2 := s.l2.filter fun p => l2Bobbin p.1 != bobbin }

/-- A line leaves an L1 way, written back to L2 where it is dirty (R118). -/
def State.evictL1 (s : State) (place : Nat) : State :=
  match s.l1.get none place with
  | none => s
  | some c =>
    { s with
      l1 := s.l1.filter fun p => p.1 != place
      l2 := if c.dirty then s.l2.map fun p =>
          (p.1, if l2Bobbin p.1 == l1Bobbin place && holdsLine c.line p.2 then some { c with dirty := true } else p.2)
        else s.l2 }

/-- A line leaves an L2 slice and every L1 of its bobbin, written back where it is dirty (R118, R119). -/
def State.evictL2 (s : State) (place : Nat) : State :=
  match s.l2.get none place with
  | none => s
  | some c =>
    { s with
      l1 := s.l1.filter fun p => !(l1Bobbin p.1 == l2Bobbin place && holdsLine c.line p.2)
      l2 := s.l2.filter fun p => p.1 != place }

/-- The place of a cache that holds something, and what it holds. -/
def State.cachedAt (s : State) (l1 : Bool) (place : Nat) : Option CacheLine := if l1 then s.l1.get none place else s.l2.get none place

/-- A line enters an empty L2 place; a dirty copy in another bobbin is written back (R119). -/
def State.fillL2 (s : State) (place line : Nat) : State :=
  if (s.l2.get none place).isSome || s.inL2 (l2Bobbin place) line || decide (8 ≤ l2Bobbin place) then s
  else
    let clean (p : Nat × Option CacheLine) : Nat × Option CacheLine := (p.1, p.2.map fun c => if c.line = line then { c with dirty := false } else c)
    { s with l1 := s.l1.map clean, l2 := SMap.set none (s.l2.map clean) place (some { line := line, dirty := false }) }

/-- A line that the bobbin's L2 holds enters an empty L1 place (R118). -/
def State.fillL1 (s : State) (place line : Nat) : State :=
  if (s.l1.get none place).isSome || s.inL1 (l1Spindle place) line || !s.inL2 (l1Bobbin place) line then s
  else { s with l1 := s.l1.set none place (some { line := line, dirty := false }) }

end Sys2Proof.Machine
end

