-- ==== Sys2Proof/Machine/Blocks.lean ====
section
/-! DEFINITION. Blocks of elements under one scale: decoding strips and forming the blocks of a register, a queue entry or
a tile (R53 .. R59, R64, R87, R292 .. R295). -/

namespace Sys2Proof.Machine

/-- Elements of one 256-bit granule (R58). -/
def Fmt.perGranule (f : Fmt) : Nat := 256 / f.width

/-- The granule of element `i` (R58). -/
def Fmt.granule (f : Fmt) (i : Nat) : Nat := i * f.width / 256

/-- A tag's format. -/
abbrev VTag.f (t : VTag) : Fmt := t.fmt

/-- VALID (R63). -/
def vsValid : BitVec 3 := 0
/-- ZERO (R63). -/
def vsZero : BitVec 3 := 1
/-- VACANT, of queue entries (R65). -/
def vsVacant : BitVec 3 := 2
/-- SOMEPOISON (R63). -/
def vsPoison : BitVec 3 := 4

/-- Element `i`'s code. -/
def Strip.code (x : Strip) (i : Nat) : Word := x.elems.get 0 i
/-- The scale of element `i`'s block. -/
def Strip.scale (x : Strip) (i : Nat) : Byte := x.scales.get 0x7F (x.tag.f.granule i)
/-- Element `i`'s exact value, for formats other than NONE and VQ2 (R54). -/
def Strip.val (x : Strip) (i : Nat) : Val := decodeElem x.tag.fmt (x.code i) (x.scale i)
/-- Decoding element `i` raises SCN (R54). -/
def Strip.scn (x : Strip) (i : Nat) : Flags :=
  Flags.when ((x.tag.f).isScaled && (x.scale i) == 0xFF) Flags.scn

/-- The element groups of elements 0 .. n − 1 (R44). -/
def groupsOf (fmt : Fmt) (n : Nat) : List Nat := List.range ((n * fmt.width + 2047) / 2048)

/-- Elements of one element group of 256 bytes (R44). -/
def perGroup (fmt : Fmt) : Nat := 2048 / fmt.width

/-- The strip `x` with the element groups `gs` taken from `y`. -/
def Strip.withGroups (x y : Strip) (gs : List Nat) : Strip :=
  let f : Fmt := x.tag.fmt
  gs.foldl (fun t g =>
    { t with elems := t.elems.setRange 0 (g * perGroup f) (perGroup f) y.code
             scales := t.scales.setRange 0x7F (8 * g) 8 fun i => y.scales.get 0x7F i }) x

/-- An element of a block that is being formed: its exact value, and whether the instruction writes it. Elements that it
does not write are kept or zeroed: they raise no flag (R59, R86, R292). -/
structure BElem where
  val : Val
  live : Bool

/-- Encodes the elements of one block under scale `e`: the codes, the flags of the written ones and the chain value of
error feedback (R59, R83, R87). Elements that the instruction does not write take the mode `krm`. -/
def encodeWith (f : Fmt) (rm krm : Rm) (ef : Bool) (e : Byte) : List BElem → F32 → List Word × Flags × F32
  | [], res => ([], 0, res)
  | x :: t, res =>
    let (c, fl, res') :=
      if x.live then
        if ef then
          let (c, r, fl) := encodeEf f e x.val res
          (c, fl, r)
        else
          let (c, fl) := encodeUnder f rm e x.val
          (c, fl, res)
      else ((encodeUnder f krm e x.val).1, 0, res)
    let (cs, fls, res'') := encodeWith f rm krm ef e t res'
    (c :: cs, fl ||| fls, res'')

/-- One block, with the scale that ChooseScale gives over all its values; 0x7F for an unscaled format (R55, R87). -/
def encodeBlock (f : Fmt) (rm krm : Rm) (ef : Bool) (l : List BElem) (res : F32) : List Word × Byte × Flags × F32 :=
  let e := if f.isScaled then chooseScale f (l.map BElem.val) else 0x7F
  let (cs, fl, r) := encodeWith f rm krm ef e l res
  (cs, e, fl, r)

/-- What an instruction puts at one place of its destination. -/
inductive Put where
  /-- An exact value, to be encoded in the destination's format. -/
  | value (v : Val)
  /-- A code of the destination's own format under a scale: a moved element. -/
  | move (c : Word) (e : Byte)
  /-- A zero that the instruction supplies (R295). -/
  | supplied
  /-- A masked-off element that becomes zero (R292). -/
  | zeroed
  /-- A place without an element: an element that a queue entry lacks (R65), or one at or above VL whose format changes
  (R293). It holds zero. -/
  | absent
  /-- A masked-off or tail element that keeps its value (R292, R293). -/
  | kept

/-- An element that the instruction writes. -/
def Put.live : Put → Bool
  | .value _ | .move .. | .supplied => true
  | .zeroed | .absent | .kept => false

/-- The place holds a moved element or a zero beside moved elements (R295). -/
def Put.placed : Put → Bool
  | .move .. | .supplied | .absent => true
  | .value _ | .zeroed | .kept => false

/-- The place keeps its element. -/
def Put.keeps : Put → Bool
  | .kept => true
  | _ => false

/-- The state of a destination whose blocks are being formed. -/
structure Form where
  elems : SMap Word
  scales : SMap Byte
  flags : Flags
  res : F32

/-- How the blocks of a destination are formed: its format, BLK and rounding, its old content, and what is put at each
place. -/
structure Plan where
  fmt : Fmt
  blk : Nat
  rm : Rm
  ef : Bool
  old : Strip
  put : Nat → Put

/-- Elements of one block. -/
def Plan.per (p : Plan) : Nat := if p.fmt.isScaled then p.fmt.perGranule <<< p.blk else p.fmt.perGranule

/-- The kept element's value: exact, from its old block (R59), or 0 where either format is NONE. -/
def Plan.oldVal (p : Plan) (i : Nat) : Val :=
  if p.old.tag.fmt == Fmt.none || p.fmt == Fmt.none then Val.zero else p.old.val i

/-- The element's exact value. -/
def Plan.val (p : Plan) (i : Nat) : Val :=
  match p.put i with
  | .value v => v
  | .move c e => decodeElem p.fmt c e
  | .supplied | .zeroed | .absent => Val.zero
  | .kept => p.oldVal i

/-- The code and scale that the element has already in the destination's format, where it is moved or kept in it. -/
def Plan.raw (p : Plan) (i : Nat) : Option (Word × Option Byte) :=
  match p.put i with
  | .value _ => none
  | .move c e => some (c, some e)
  | .supplied | .zeroed | .absent => some (0, none)
  | .kept => if p.old.tag.fmt == p.fmt then some (p.old.code i, some (p.old.scale i)) else none

/-- The one scale that every element of the list with a scale carries, when they all agree. -/
def commonScale : List (Option Byte) → Option (Option Byte)
  | [] => some none
  | none :: t => commonScale t
  | some e :: t =>
    match commonScale t with
    | none => none
    | some none => some (some e)
    | some (some e') => if e = e' then some (some e) else none

/-- The elements of a block may stay as they are: each is moved in the destination's format or a zero beside moved ones (R295), or
the instruction writes none of them; and the scales agree (R57). A block that mixes written and kept or masked-off elements
takes a scale anew (R59). -/
def Plan.copies (p : Plan) (is : List Nat) : Option Byte :=
  let raws := is.map p.raw
  if raws.all Option.isSome && ((is.all fun i => (p.put i).placed) || is.all fun i => (p.put i).keeps) then
    match commonScale (raws.map fun r => (r.getD (0, none)).2) with
    | none => none
    | some none => some 0x7F
    | some (some e) => some e
  else none

/-- Forms the block of elements `is` whose first granule is `g` (R59, R87, R295); an unscaled format copies moved and
kept elements and rounds the others. -/
def Plan.block (p : Plan) (g : Nat) (is : List Nat) (st : Form) : Form :=
  match (if p.fmt.isScaled then p.copies is else none) with
  | some e =>
    { st with
      elems := st.elems.setList 0 (is.headD 0) (is.map fun i => ((p.raw i).getD (0, none)).1)
      scales := st.scales.setRange 0x7F g (2 ^ p.blk) fun _ => e }
  | none =>
    if p.fmt.isScaled then
      let scn : Flags := Flags.all (is.map fun i => match p.put i with
        | .move _ e => Flags.when (e == 0xFF) Flags.scn
        | _ => 0)
      let moved := is.any fun i => match p.put i with
        | .move .. => true
        | _ => false
      let (cs, e, fl, r) := encodeBlock p.fmt (if moved then .rne else p.rm)
        (if is.any fun i => (p.put i).live then .rne else p.rm) p.ef
        (is.map fun i => { val := p.val i, live := (p.put i).live }) st.res
      { elems := st.elems.setList 0 (is.headD 0) cs
        scales := st.scales.setRange 0x7F g (2 ^ p.blk) fun _ => e
        flags := st.flags ||| fl ||| scn, res := r }
    else
      is.foldl (fun st i =>
        match p.raw i with
        | some (c, _) => { st with elems := st.elems.set 0 i c, scales := st.scales.set 0x7F (p.fmt.granule i) 0x7F }
        | none =>
          let (cs, _, fl, r) := encodeBlock p.fmt p.rm p.rm p.ef [{ val := p.val i, live := (p.put i).live }] st.res
          { elems := st.elems.set 0 i (cs.headD 0), scales := st.scales.set 0x7F (p.fmt.granule i) 0x7F
            flags := st.flags ||| fl, res := r }) st

/-- Forms every block that holds an element below `n`, of a destination of `cap` elements, in ascending order. -/
def Plan.run (p : Plan) (n cap : Nat) (res : F32) : Form :=
  let per := p.per
  let same := p.old.tag.fmt == p.fmt
  let start : Form :=
    { elems := if same then p.old.elems else [], scales := if same then p.old.scales else [], flags := 0, res := res }
  (List.range ((n + per - 1) / per)).foldl
    (fun st b => p.block (b * per * p.fmt.width / 256) ((List.range' (b * per) per).filter (· < cap)) st) start

end Sys2Proof.Machine
end

