-- ==== Sys2Proof/Machine/Lines.lean ====
section
/-! DEFINITION. The 128-byte line: its tag and class (R67 .. R69), its elements under a page's attributes (R75 .. R78,
R127), typed and untyped vector stores (R129, R130, R430) and raw stores (R258, R476). -/

namespace Sys2Proof.Machine

/-- A line: its tag and its 128 bytes. -/
structure Line where
  tag : LineTag
  bytes : SMap Byte
deriving DecidableEq, Repr

/-- FMT of a descriptor (R67). -/
def LineTag.fmt (t : LineTag) : Fmt := t.desc.extractLsb' 0 5
/-- VCLS (R67). -/
def LineTag.vcls (t : LineTag) : Nat := (t.desc.extractLsb' 5 3).toNat
/-- BLK (R67). -/
def LineTag.blk (t : LineTag) : Nat := (t.desc.extractLsb' 8 2).toNat
/-- The scale slot of sector `i` (R67). -/
def LineTag.slot (t : LineTag) (i : Nat) : Byte := t.sc.extractLsb' (8 * i) 8

/-- A descriptor of format, class and block code. -/
def descOf (f : Fmt) (vcls blk : Nat) : BitVec 16 :=
  (0 : BitVec 6) ++ BitVec.ofNat 2 blk ++ BitVec.ofNat 3 vcls ++ f

/-- The same descriptor with another class. -/
def LineTag.withClass (t : LineTag) (vcls : Nat) : LineTag :=
  { t with desc := (t.desc.extractLsb' 8 8) ++ BitVec.ofNat 3 vcls ++ t.fmt }

/-- The tag that R127 gives every line of an untyped page. -/
def LineTag.untyped (expf : Fmt) : LineTag := { desc := descOf expf 0 0, sc := 0x7F7F7F7F }

/-- The slot width in bytes (R126). -/
def Par.w (p : Par) : Nat := 2 ^ p.slotw
/-- The ply factor (R126). -/
def Par.factor (p : Par) : Nat := 2 ^ p.ply.toNat

/-- Sectors that a line of element width `n` occupies at slot width `w` (R76). -/
def sectorsOf (n w : Nat) : Nat := if 2 * w ≤ n then n / (2 * w) else 1

/-- A line of slot width `w` holds the format (R76, R77). -/
def slotHolds (f : Fmt) (w : Nat) : Bool := f.width ≤ 8 * w && (!f.isScaled || 2 * w ≤ f.width)

/-- The descriptor makes the line behave as INVALID (R69), at slot width `w` on a typed page. -/
def LineTag.bad (t : LineTag) (typed : Bool) (w : Nat) : Bool :=
  !t.fmt.allocated || t.blk == 3 || (t.blk != 0 && !t.fmt.isScaled) || t.desc.extractLsb' 10 6 != 0
    || (typed && (!slotHolds t.fmt w || sectorsOf t.fmt.width w < 2 ^ t.blk))

/-- How an access sees a line (R68, R69). -/
inductive LCls where
  | valid | zero | vacant | transit | poison | invalid
deriving DecidableEq, Repr

/-- The class of a tag; R69 holds whatever VCLS says. -/
def LineTag.cls (t : LineTag) (typed : Bool) (w : Nat) : LCls :=
  if t.bad typed w then .invalid
  else match t.vcls with
    | 0 => .valid
    | 1 => .zero
    | 2 => .vacant
    | 3 => .transit
    | 4 => .poison
    | _ => .invalid

/-- The tag as its readers see it on a typed page: the slot of a sector that holds no element, and every slot of an unscaled
format, reads 0x7F (R55, R67); a block's slots are copies of its first one (R57). R69's descriptors stand as stored (R287). -/
def LineTag.norm (t : LineTag) (w : Nat) : LineTag :=
  if t.bad true w then t
  else
    let slot (i : Nat) : BitVec 8 :=
      if t.fmt.isScaled && i < sectorsOf t.fmt.width w then t.slot (i / 2 ^ t.blk * 2 ^ t.blk) else 0x7F
    { t with sc := slot 3 ++ slot 2 ++ slot 1 ++ slot 0 }

/-- Byte `i` of a line. -/
def Line.byte (l : Line) (i : Nat) : Byte := l.bytes.get 0 i

/-- The number of a list of bytes, little-endian. -/
def leNat : List Byte → Nat
  | [] => 0
  | b :: t => b.toNat + 256 * leNat t

/-- The low `n` bytes of a number, little-endian. -/
def leBytes : Nat → Nat → List Byte
  | 0, _ => []
  | n + 1, x => BitVec.ofNat 8 x :: leBytes n (x / 256)

/-- The `n` bits of packed data from bit `k` on, `n` of 4 or a multiple of 8 (R58, R75). -/
def bitsAt (bytes : SMap Byte) (n k : Nat) : Nat :=
  if n = 4 then ((bytes.get 0 (k / 8)).toNat >>> (k % 8)) % 16 else leNat (bytes.getList 0 (k / 8) (n / 8))

/-- Writes `n` bits of packed data at bit `k`. -/
def setBitsAt (bytes : SMap Byte) (n k c : Nat) : SMap Byte :=
  if n = 4 then
    let b := (bytes.get 0 (k / 8)).toNat
    bytes.set 0 (k / 8) (BitVec.ofNat 8 (if k % 8 = 0 then b / 16 * 16 + c % 16 else b % 16 + c % 16 * 16))
  else bytes.setList 0 (k / 8) (leBytes (n / 8) c)

/-- Packed element `k` of format `f`. -/
def Line.elem (l : Line) (f : Fmt) (k : Nat) : Word := BitVec.ofNat 64 (bitsAt l.bytes f.width (k * f.width))

/-- The scale of the sector that holds packed bit `bit`: the slot of its block's first sector (R57, R67); 0x7F for an
unscaled format. -/
def Line.scaleOf (l : Line) (f : Fmt) (bit : Nat) : Byte :=
  if f.isScaled then l.tag.slot (bit / 256 / 2 ^ l.tag.blk * 2 ^ l.tag.blk) else 0x7F

/-- The scale of packed element `k`. -/
def Line.scaleAt (l : Line) (f : Fmt) (k : Nat) : Byte := l.scaleOf f (k * f.width)

/-- Why a line cannot be read or written. -/
inductive LineErr where
  /-- A line cause of R420. -/
  | cause (c : BitVec 32)
  /-- TRANSIT: the access waits (R70). -/
  | transit
  /-- The format-slot mismatch trap for the format (R129). -/
  | slot (f : Fmt)
  /-- Illegal operand, reason 0x06, late (R475). -/
  | none6 (f : Fmt)
deriving DecidableEq, Repr

/-- An element as a typed access reads it. -/
structure Got where
  fmt : Fmt
  blk : Nat
  code : Word
  scale : Byte
  /-- From a ZERO or VACANT line (R64). -/
  zero : Bool
  /-- From a zero-substituted POISON line (R429). -/
  poison : Bool
deriving DecidableEq, Repr

/-- A zero-substituted element (R429). -/
def Got.poisoned : Got := { fmt := Fmt.none, blk := 0, code := 0, scale := 0x7F, zero := false, poison := true }

/-- A typed read of the element at byte `off` of a line, in the byte's upper nibble with `nib` (R68, R75, R127). The tag is
the page's, by R127 and R430. -/
def Line.read (l : Line) (typed : Bool) (w : Nat) (ppol : Bool) (off : Nat) (nib : Bool) : Except LineErr Got :=
  match l.tag.cls typed w with
  | .transit => .error .transit
  | .invalid => .error (.cause 0x0107)
  | .poison => if ppol then .ok .poisoned else .error (.cause 0x0108)
  | .zero | .vacant =>
    .ok { fmt := l.tag.fmt, blk := l.tag.blk, code := 0, scale := 0x7F, zero := true, poison := false }
  | .valid =>
    let f := l.tag.fmt
    let bit := if typed then off / w * f.width else off * 8 + (if nib then 4 else 0)
    .ok { fmt := f, blk := l.tag.blk, code := BitVec.ofNat 64 (bitsAt l.bytes f.width bit), scale := l.scaleOf f bit
          zero := false, poison := false }

/-- The bytes of a line as raw accesses see them: on a typed page the unoccupied sectors read as zero (R78). -/
def Line.packed (l : Line) (typed : Bool) (w : Nat) : SMap Byte :=
  if typed then l.bytes.filter fun p => p.1 < 32 * sectorsOf l.tag.fmt.width w else l.bytes

/-- A raw read of `n` bytes of a line (R78, R258): zeros of a ZERO or VACANT line; the flag says that poison gave zeros. -/
def Line.readRaw (l : Line) (typed : Bool) (w : Nat) (ppol : Bool) (off n : Nat) : Except LineErr (Nat × Bool) :=
  match l.tag.cls typed w with
  | .transit => .error .transit
  | .invalid => .error (.cause 0x0107)
  | .poison => if ppol then .ok (0, true) else .error (.cause 0x0108)
  | .zero | .vacant => .ok (0, false)
  | .valid => .ok (leNat ((l.packed typed w).getList 0 off n), false)

/-- Writes bytes over a line's. -/
def Line.put (l : Line) (off : Nat) (data : List Byte) : Line := { l with bytes := l.bytes.setList 0 off data }

/-- The tag after a store has made a line VALID: a typed page's line keeps FMT, BLK and scales (R258); an untyped page's
POISON line takes the tag of R127 (R430). -/
def Line.validTag (l : Line) (typed : Bool) : LineTag := if typed then l.tag.withClass 0 else .untyped l.tag.fmt

/-- A raw store of bytes (R68, R258): the new line, and whether poison was zero-substituted. -/
def Line.storeRaw (l : Line) (typed : Bool) (w : Nat) (ppol : Bool) (expf : Fmt) (off : Nat) (data : List Byte) :
    Except LineErr (Line × Bool) :=
  match l.tag.cls typed w with
  | .transit => .error .transit
  | .invalid => .error (.cause 0x0107)
  | .valid => .ok (l.put off data, false)
  | .zero | .vacant => .ok (({ tag := l.tag.withClass 0, bytes := [] } : Line).put off data, false)
  | .poison =>
    if ppol || data.length == 128 then
      .ok (({ tag := if typed then l.tag.withClass 0 else .untyped expf, bytes := [] } : Line).put off data, ppol)
    else .error (.cause 0x0108)

/-- A store by an agent without a Page Attribute Record (R476): none is a dropped partial write to a POISON line. -/
def Line.storePhys (l : Line) (off : Nat) (data : List Byte) : Option Line :=
  match l.tag.vcls with
  | 1 | 2 => some (({ l with tag := l.tag.withClass 0 } : Line).put off data)
  | 4 => if data.length == 128 then some (({ l with tag := l.tag.withClass 0 } : Line).put off data) else none
  | _ => some (l.put off data)

/-- An element that a store writes: its code and scale, and the register block from which it comes. -/
structure SElem where
  code : Word
  scale : Byte
  block : Nat
deriving DecidableEq, Repr

/-- What a vector store leaves of one line. -/
structure Stored where
  line : Line
  flags : Flags

/-- A value that the error-feedback chain narrows: its place in the line, format, block scale and value (R83, R304). -/
structure EfElem where
  k : Nat
  fmt : Fmt
  scale : Byte
  val : Val

/-- The code and flags that the error-feedback chain has given to place `k`. -/
def efCode (given : List (Nat × Word × Flags)) (k : Nat) : Word × Flags :=
  ((given.find? fun x => x.1 == k).map Prod.snd).getD (0, 0)

/-- The codes of one block under its scale: of the elements that the store writes, by rounding or, under error feedback,
as the chain has given them; of the others, under RNE without flags (R83, R86, R87, R130). -/
def encodeStored (f : Fmt) (rm : Rm) (ef : Bool) (given : List (Nat × Word × Flags)) (e : Byte) (l : List (Nat × BElem)) :
    List Word × Flags :=
  let r := l.map fun p =>
    if p.2.live then (if ef then efCode given p.1 else encodeUnder f rm e p.2.val)
    else ((encodeUnder f .rne e p.2.val).1, 0)
  (r.map Prod.fst, Flags.all (r.map Prod.snd))

/-- The rounding mode of a demotion (R126, R304): DPOL 3 is the store's own mode, whose code 4 is error feedback. -/
def demoteMode (dpol : BitVec 2) (rm : Nat) : Rm × Bool :=
  match dpol.toNat with
  | 2 => (.rtz, false)
  | 3 => (Rm.ofCode rm, rm == 4)
  | _ => (.rne, false)

/-- A class that a store cannot write (R68): the cause, or none. -/
def LCls.storeErr (c : LCls) (ppol whole : Bool) : Option LineErr :=
  match c with
  | .transit => some .transit
  | .invalid => some (.cause 0x0107)
  | .poison => if ppol || whole then none else some (.cause 0x0108)
  | _ => none

/-- A vector store to a line of an untyped page: every element is converted to EXPF under scale 0x7F (R127, R430), but for
a VQ2 index that already stands under it. `ws` gives the elements by place in the line, counted in elements of EXPF. -/
def Line.storeUntyped (l : Line) (par : Par) (fmt : Fmt) (rm : Nat) (given : List (Nat × Word × Flags))
    (ws : List (Nat × SElem)) : Except LineErr Stored :=
  let s : Fmt := par.expf
  let n := s.width
  let cls := l.tag.cls false 1
  match cls.storeErr par.ppol (decide (1024 ≤ ws.length * n)) with
  | some e => .error e
  | none =>
    if (s == Fmt.none) != (fmt == Fmt.none) then .error (.none6 fmt)
    else
      let narrows := decide (n < fmt.width)
      let (m, ef) := if narrows then demoteMode par.dpol rm else (.rne, false)
      let start : Line := if cls == .poison then { tag := .untyped s, bytes := [] } else l
      let (bytes, fl) := ws.foldl (fun (st : SMap Byte × Flags) (x : Nat × SElem) =>
          if s == fmt && (!fmt.isScaled || (fmt == Fmt.vq2 && x.2.scale == (0x7F : Byte))) then (setBitsAt st.1 n (x.1 * n) x.2.code.toNat, st.2)
          else
            let v : BElem := { val := decodeElem fmt x.2.code x.2.scale, live := true }
            let (cs, f2) := encodeStored s m ef given (0x7F : Byte) [(x.1, v)]
            let scn := Flags.when (fmt.isScaled && x.2.scale == (0xFF : Byte)) Flags.scn
            (setBitsAt st.1 n (x.1 * n) (cs.headD 0).toNat, st.2 ||| f2 ||| scn)) (start.bytes, 0)
      .ok { line := { start with bytes := bytes }
            flags := fl ||| Flags.when (narrows && !ws.isEmpty) Flags.dmt
              ||| Flags.when (cls == .poison && par.ppol) Flags.pzs }

/-- The elements of an untyped store that error feedback narrows. -/
def Par.efUntyped (par : Par) (fmt : Fmt) (rm : Nat) (ws : List (Nat × SElem)) : List EfElem :=
  if decide ((Fmt.width par.expf) < fmt.width) && (demoteMode par.dpol rm).2 then
    ws.map fun x => { k := x.1, fmt := par.expf, scale := 0x7F, val := decodeElem fmt x.2.code x.2.scale }
  else []

/-- The stored format of a typed store, and whether the store demotes (R129). -/
def Par.target (par : Par) (fmt : Fmt) : Fmt × Bool :=
  if par.dpol != 0 && (Fmt.width par.dtgt) < fmt.width then (par.dtgt, true) else (fmt, false)

/-- The element of place `k` among those that a store writes. -/
def putAt (ws : List (Nat × SElem)) (k : Nat) : Option SElem := (ws.find? fun x => x.1 == k).map Prod.snd

/-- The one register block, and its scale, from which every element of the line block comes (R129). -/
def oneBlock (xs : List (Option SElem)) : Option Byte :=
  match xs.headD none with
  | none => none
  | some x => if xs.all fun y => y.elim false fun y => y.block == x.block && y.scale == x.scale then some x.scale else none

/-- How a typed store re-encodes a line: the stored format, whether it demotes, the line's block code, the elements of a
block, and the line's old elements, kept unless the store is whole or the line held none (R129, R130). -/
structure StorePlan where
  fmt : Fmt
  demote : Bool
  blk : Nat
  per : Nat
  slots : Nat
  kept : Bool
  /-- The format and content of the store. -/
  src : Fmt
  ws : List (Nat × SElem)

/-- The plan of a typed store of format `fmt` and block code `blk`. -/
def Line.storePlan (l : Line) (par : Par) (fmt : Fmt) (blk : Nat) (ws : List (Nat × SElem)) : StorePlan :=
  let slots := 128 / par.w
  let (s, demote) := par.target fmt
  let lblk := if s.isScaled then min blk (Nat.log2 (sectorsOf s.width par.w)) else 0
  { fmt := s, demote := demote, blk := lblk, per := if s.isScaled then s.perGranule <<< lblk else slots, slots := slots
    kept := l.tag.cls true par.w == .valid && decide (ws.length < slots), src := fmt, ws := ws }

/-- The exact value that place `k` is to hold. -/
def Line.planVal (l : Line) (p : StorePlan) (k : Nat) : BElem :=
  let old := l.tag.fmt
  match putAt p.ws k with
  | some x => { val := if p.fmt == Fmt.none then Val.zero else decodeElem p.src x.code x.scale, live := true }
  | none =>
    { val := if p.kept && p.fmt != Fmt.none then decodeElem old (l.elem old k) (l.scaleAt old k) else Val.zero, live := false }

/-- The places of block `b`. -/
def StorePlan.block (p : StorePlan) (b : Nat) : List Nat := List.range' (b * p.per) (min p.per (p.slots - b * p.per))
/-- The number of blocks of the line. -/
def StorePlan.blocks (p : StorePlan) : Nat := (p.slots + p.per - 1) / p.per

/-- The elements of a typed store that error feedback narrows. -/
def Line.efTyped (l : Line) (par : Par) (p : StorePlan) (rm : Nat) : List EfElem :=
  if p.demote && (demoteMode par.dpol rm).2 then
    (List.range p.blocks).flatMap fun b =>
      let is := p.block b
      let e := if p.fmt.isScaled then chooseScale p.fmt (is.map fun k => (l.planVal p k).val) else (0x7F : Byte)
      is.filterMap fun k =>
        let v := l.planVal p k
        if v.live then some { k := k, fmt := p.fmt, scale := e, val := v.val } else none
  else []

/-- A vector store to a line of a typed page (R129, R130): `ws` gives the elements by slot number. -/
def Line.storeTyped (l : Line) (par : Par) (fmt : Fmt) (blk : Nat) (rm : Nat) (given : List (Nat × Word × Flags))
    (ws : List (Nat × SElem)) : Except LineErr Stored :=
  let w := par.w
  let p := l.storePlan par fmt blk ws
  let cls := l.tag.cls true w
  let s := p.fmt
  match cls.storeErr par.ppol (decide (p.slots ≤ ws.length)) with
  | some e => .error e
  | none =>
    let old := l.tag.fmt
    if !p.demote && !slotHolds s w then .error (.slot s)
    else if (s == Fmt.none) != (fmt == Fmt.none) || (p.kept && (s == Fmt.none) != (old == Fmt.none)) then .error (.none6 fmt)
    else
      let occ := sectorsOf s.width w
      let (m, ef) := if p.demote then demoteMode par.dpol rm else (.rne, false)
      let scn (is : List Nat) : Flags := Flags.all (is.map fun k => Flags.when ((putAt ws k).elim false fun x =>
        fmt.isScaled && x.scale == 0xFF) Flags.scn)
      let codeAt (k : Nat) : Option Word := match putAt ws k with
        | some x => if p.demote then none else some x.code
        | none => if p.kept then (if old == s then some (l.elem old k) else none) else some 0
      let block (st : Form) (b : Nat) : Form :=
        let is := p.block b
        if s.isScaled then
          match (if p.demote then none else oneBlock (is.map (putAt ws))) with
          | some e =>
            { st with elems := st.elems.setList 0 (b * p.per) (is.map fun k => (codeAt k).getD 0)
                      scales := st.scales.setRange 0x7F (b * 2 ^ p.blk) (2 ^ p.blk) fun _ => e }
          | none =>
            let e := chooseScale s (is.map fun k => (l.planVal p k).val)
            let (cs, fl) := encodeStored s m ef given e (is.map fun k => (k, l.planVal p k))
            { st with elems := st.elems.setList 0 (b * p.per) cs
                      scales := st.scales.setRange 0x7F (b * 2 ^ p.blk) (2 ^ p.blk) fun _ => e
                      flags := st.flags ||| fl ||| scn is }
        else
          is.foldl (fun st k => match codeAt k with
            | some c => { st with elems := st.elems.set 0 k c }
            | none =>
              let (cs, fl) := encodeStored s m ef given 0x7F [(k, l.planVal p k)]
              { st with elems := st.elems.set 0 k (cs.headD 0), flags := st.flags ||| fl ||| scn [k] }) st
      let f := (List.range p.blocks).foldl block { elems := [], scales := [], flags := 0, res := 0 }
      let bytes := (List.range p.slots).foldl (fun b k => setBitsAt b s.width (k * s.width) (f.elems.get 0 k).toNat) []
      let slot (i : Nat) : BitVec 8 := if i < occ && s.isScaled then f.scales.get 0x7F i else 0x7F
      let narrowed := p.kept && decide (s.width < old.width)
      .ok { line := { tag := { desc := descOf s 0 p.blk, sc := slot 3 ++ slot 2 ++ slot 1 ++ slot 0 }, bytes := bytes }
            flags := f.flags ||| Flags.when (p.demote || narrowed) Flags.dmt
              ||| Flags.when (cls == .poison && par.ppol) Flags.pzs }

/-- The mask of a held line records bytes of the element of place `k` as written by the hank (R157, R207). -/
def heldElem (mask : SMap Bool) (n k : Nat) : Bool :=
  (List.range' (k * n / 8) (max 1 (n / 8))).any fun i => mask.get false i

/-- The line as the merge of a held entry into it (R157): the bytes of an untyped page; the elements of a typed one, by R129 and
R130 under RNE. A line in TRANSIT stays as it is, and who reads or confirms waits for it. A line that R68, R77 or R475 keeps a
store from writing stays as it is too (DESIGN CHOICE, log entry 33). -/
def Line.merge (l : Line) (par : Par) (typed : Bool) (e : PlbEntry) : Line :=
  if l.tag.cls typed par.w == .transit then l
  else if e.mask.length == 128 then { tag := e.tag, bytes := e.bytes }
  else if typed then
    let h : Line := { tag := e.tag, bytes := e.bytes }
    let f := e.tag.fmt
    let per := if f.isScaled then f.perGranule <<< e.tag.blk else 1
    let ws := (List.range (128 / par.w)).filterMap fun k =>
      if heldElem e.mask f.width k then
        some (k, ({ code := h.elem f k, scale := h.scaleAt f k, block := k / per } : SElem))
      else none
    match l.storeTyped { par with dpol := if par.dpol = 0 then 0 else 1 } f e.tag.blk 0 [] ws with
    | .ok s => s.line
    | .error _ => l
  else
    let cls := l.tag.cls false 1
    match cls.storeErr par.ppol false with
    | some _ => l
    | none =>
      let start : Line := if cls == .poison then { tag := .untyped par.expf, bytes := [] } else l
      { start with bytes := e.mask.foldl (fun b p => if p.2 then b.set 0 p.1 (e.bytes.get 0 p.1) else b) start.bytes }

end Sys2Proof.Machine
end

