-- ==== Sys2Proof/Machine/Phys.lean ====
section
/-! DEFINITION. Physical memory: the regions of R106, lines with their tags, ECC blocks (R71 .. R74), fault records and
messages to the host (R377, R395, R398). -/

namespace Sys2Proof.Machine

/-- The regions of the physical map (R106); `peer` is a peer's memory under its own key (R380). -/
inductive PRegion where
  | hbm | creel | tier (n : Nat) | host | fabric (d : Nat) | peer (n : Nat) | outside
deriving DecidableEq, Repr

/-- First address of the Creel registers (R106). -/
def creelBase : Nat := 0x00F000000000
/-- First address of the host region (R106). -/
def hostBase : Nat := 0x1000000000000
/-- First address of the fabric windows (R106). -/
def fabricBase : Nat := 0x8000000000000
/-- The size of a second-tier window (R106). -/
def tierWindow : Nat := 0x010000000000
/-- The size of a window's tag region, which is not mapped for data: 24 bytes for each 512 (R121). -/
def tierTags : Nat := tierWindow / 512 * 24

/-- FWTAB entry `d` has V set (R380). -/
def State.fabricOpen (s : State) (d : Nat) : Bool := (s.creel.fwtab.get 0 d).getLsbD 63

/-- The size of a fabric window (R106). -/
def fabricWindow : Nat := 0x040000000000
/-- First key of the peers' memories, in State's memory: behind every 64-bit number. -/
def peerBase : Nat := 0x20000000000000000

/-- The region of a physical address (R106); a closed fabric window is unmapped (R380). -/
def State.region (s : State) (pa : Nat) : PRegion :=
  if pa < 0x006000000000 then .hbm
  else if creelBase ≤ pa ∧ pa < 0x010000000000 then .creel
  else if 0x100000000000 ≤ pa ∧ pa < 0x100000000000 + 10 * tierWindow then
    let n := (pa - 0x100000000000) / tierWindow
    if (pa - 0x100000000000) % tierWindow < tierWindow - tierTags then .tier n else .outside
  else if hostBase ≤ pa ∧ pa < 0x2000000000000 then .host
  else if fabricBase ≤ pa ∧ pa < fabricBase + 512 * fabricWindow then
    let d := (pa - fabricBase) / fabricWindow
    if s.fabricOpen d then .fabric d else .outside
  else if peerBase ≤ pa ∧ pa < peerBase + 512 * fabricWindow then .peer ((pa - peerBase) / fabricWindow)
  else .outside

/-- Where the memory of a physical address stands: an address of an open fabric window is an address of the peer that FWTAB
names, whichever window names it (R380). -/
def State.homeOf (s : State) (pa : Nat) : Nat :=
  match s.region pa with
  | .fabric d => peerBase + ((s.creel.fwtab.get 0 d).extractLsb' 16 9).toNat * fabricWindow + (pa - fabricBase) % fabricWindow
  | _ => pa

/-- The region holds lines with tags of their own (R67, R121, R381). -/
def PRegion.tagged : PRegion → Bool
  | .hbm | .tier _ | .fabric _ | .peer _ => true
  | .creel | .host | .outside => false

/-- A byte of memory; an unlisted address reads 0 (R74; log entry 5). -/
def State.byteAt (s : State) (pa : Nat) : Byte := SMap.get 0 s.mem pa

/-- Writes bytes at consecutive physical addresses. -/
def State.setBytes (s : State) (pa : Nat) (data : List Byte) : State := { s with mem := SMap.setList 0 s.mem pa data }

/-- The bytes at `n` consecutive physical addresses. -/
def State.bytesAt (s : State) (pa n : Nat) : List Byte := SMap.getList 0 s.mem pa n

/-- The little-endian number of `n` bytes. -/
def State.natAt (s : State) (pa n : Nat) : Nat := leNat (s.bytesAt pa n)

/-- The stored tag of the line at a physical address. -/
def State.tagAt (s : State) (pa : Nat) : LineTag := s.tags.get .wiped (pa / 128)
/-- Writes the stored tag of a line. -/
def State.setTag (s : State) (pa : Nat) (t : LineTag) : State := { s with tags := s.tags.set .wiped (pa / 128) t }
/-- The ECC block of a physical address. -/
def State.blockAt (s : State) (pa : Nat) : Block := s.blocks.get .initial (pa / 512)
/-- Writes the metadata of an ECC block. -/
def State.setBlock (s : State) (pa : Nat) (b : Block) : State := { s with blocks := s.blocks.set .initial (pa / 512) b }

/-- The line at a physical address, as stored. -/
def State.lineAt (s : State) (pa : Nat) : Line :=
  { tag := s.tagAt pa, bytes := SMap.tabulate 0 128 fun i => s.byteAt (pa / 128 * 128 + i) }

/-- PM clears when no line of the block is POISON (R73, R430). -/
def State.clearPm (s : State) (pa : Nat) : State :=
  let b := s.blockAt pa
  let p := pa / 512 * 512
  if b.pm && (List.range 4).all fun i => (s.tagAt (p + 128 * i)).vcls != 4 then s.setBlock pa { b with pm := false } else s

/-- Writes a line with its tag as one event (R70); the block is no longer wiped (R71), and its parity is recomputed (R72). A line
outside HBM4 reads without poison again (R431). -/
def State.putLine (s : State) (pa : Nat) (l : Line) : State :=
  let p := pa / 128 * 128
  let s1 := { s with mem := SMap.setRange 0 s.mem p 128 fun a => l.bytes.get 0 (a - p)
                     extPoison := s.extPoison.filter fun q => q.1 != pa / 128 }
  let s2 := s1.setTag pa l.tag
  (s2.setBlock pa { s2.blockAt pa with wiped := false, errors := 0 }).clearPm pa

/-- The bytes of a record (R395); the last word is SEQ or DISP. -/
def Rec.bytes (r : Rec) (last : Nat) : List Byte :=
  leBytes 8 r.ts ++ leBytes 2 r.src ++ leBytes 1 r.cls ++ [0] ++ leBytes 4 r.cause.toNat ++ leBytes 8 r.task
    ++ leBytes 8 r.hwid.toNat ++ leBytes 8 r.pc.toNat ++ leBytes 8 r.addr.toNat ++ leBytes 8 r.info.toNat ++ leBytes 8 last

/-- A host port. -/
def State.port (s : State) (n : Nat) : Port := s.ports.get .initial n
/-- Applies a function to a host port. -/
def State.modPort (s : State) (n : Nat) (f : Port → Port) : State := { s with ports := s.ports.modify .initial n f }

/-- Raises an MSI-X message at one port: sent where the vector is unmasked, pending otherwise (R377). -/
def Port.message (p : Port) (v : Nat) : Port :=
  if p.unmasked.get false v then { p with sent := p.sent ++ [v] } else { p with pending := p.pending.set false v true }

/-- The link of a port is up (R469). -/
def State.linkUp (s : State) (n : Nat) : Bool := s.creel.lnkUp.get false n

/-- A message raised at a port whose link is up or down: a port that is down sends nothing (R377, R469). -/
def Port.raise (p : Port) (up : Bool) (v : Nat) : Port :=
  if up || !p.unmasked.get false v then p.message v else p

/-- Raises an MSI-X message at every host port (R377). -/
def State.message (s : State) (v : Nat) : State :=
  (s.modPort 0 fun p => p.raise (s.linkUp 0) v).modPort 1 fun p => p.raise (s.linkUp 1) v

/-- Writes a record into the error queue of a port whose link is up, and sends vector 0 (R398, R469). -/
def State.reportPort (s : State) (n : Nat) (r : Rec) : State :=
  let p := s.port n
  if !p.eqcfg.getLsbD 63 || !s.linkUp n then s
  else
    let size := 2 ^ ((p.eqcfg.extractLsb' 0 4).toNat + 6)
    if (p.eqTail - p.eqHead).toNat = size - 1 ∧ r.cls ≠ 5 then s.modPort n fun p => { p with eqLost := p.eqLost + 1 }
    else
      -- R106 maps 48 bits of host addresses: a record for a ring above them is lost (log entry 60)
      let slot := (p.eqcfg.extractLsb' 12 40).toNat * 4096 + p.eqTail.toNat % size * 64
      let s1 := if slot < 2 ^ 48 then s.setBytes (hostBase + slot) (r.bytes p.eqTail.toNat) else s
      s1.modPort n fun p => Port.message { p with eqTail := p.eqTail + 1 } 0

/-- Writes a record into every enabled error queue (R398). -/
def State.report (s : State) (r : Rec) : State := (s.reportPort 0 r).reportPort 1 r

/-- A record about no task (R400). -/
def State.recOf (s : State) (src cls : Nat) (cause : BitVec 32) (addr info : Nat) : Rec :=
  { ts := s.timeNs, src := src, cls := cls, cause := cause, task := 0, hwid := 0, pc := 0, addr := BitVec.ofNat 64 addr
    info := BitVec.ofNat 64 info }

/-- The HBM4 stack of a physical address (R106). -/
def stackOf (pa : Nat) : Nat := pa / 4096 % 8

/-- Adds one to a saturating field of a word. -/
def satAdd (w : Word) (lo n : Nat) : Word :=
  let x := (w >>> lo).toNat % 2 ^ n
  if x = 2 ^ n - 1 then w else w + (1#64 <<< lo)

/-- The tag that R73 writes. -/
def LineTag.poisoned : LineTag := { desc := descOf Fmt.none 4 0, sc := 0x7F7F7F7F }

/-- A line becomes POISON (R73, R393, R431): in HBM4 with the poison mark of its block; a host line's reads return poisoned data. -/
def State.poisonLine (s : State) (pa : Nat) : State :=
  let p := pa / 128 * 128
  match s.region pa with
  | .host => { s with extPoison := s.extPoison.set false (pa / 128) true }
  | .creel | .outside => s
  | g =>
    let s1 := (s.putLine p { tag := .poisoned, bytes := [] })
    if g == .hbm then s1.setBlock pa { s1.blockAt pa with pm := true } else s1

/-- An expander reports the read of a line poisoned (R431): the line's tag is written as R73 writes it, and the tier port makes a
record under cause 0x0123. -/
def State.scrubTier (s : State) (n pa : Nat) : State :=
  if s.extPoison.get false (pa / 128) then
    (s.setTag pa .poisoned).report (s.recOf (0x650 + n) 3 0x0123 (pa / 128 * 128) 0)
  else s

/-- What the read of a block does before it completes. In HBM4 (R72, R73, R432) a corrected block is counted, an
uncorrectable one is rewritten as POISON and recorded under cause 0x0120; for the second tier see `scrubTier`. -/
def State.scrub (s : State) (pa : Nat) : State :=
  match s.region pa with
  | .tier n => s.scrubTier n pa
  | .hbm =>
  let b := s.blockAt pa
  if b.errors = 0 then s
  else
    let st := stackOf pa
    let ce := s.creel.hbmce.get 0 st
    if b.errors ≤ 19 then
      let m := (ce >>> 32).toNat % 65536
      let ce1 := satAdd ce 0 32
      let ce2 := if m < b.errors then ce1 - (BitVec.ofNat 64 m <<< 32) + (BitVec.ofNat 64 b.errors <<< 32) else ce1
      { s with creel := { s.creel with hbmce := s.creel.hbmce.set 0 st ce2 } }
    else
      let p := pa / 512 * 512
      let s1 := { s with creel := { s.creel with hbmce := s.creel.hbmce.set 0 st (satAdd ce 48 16) } }
      let s2 := (List.range 4).foldl (fun t i => t.setTag (p + 128 * i) .poisoned) s1
      let s3 := { s2 with mem := SMap.setRange 0 s2.mem p 512 fun _ => 0 }
      (s3.setBlock pa { pm := true, wiped := false, errors := 0 }).report (s3.recOf (0x620 + st) 3 0x0120 p 0)
  | _ => s

/-- A waiter's line is the one at `pa`. -/
def WaitFor.onLine (w : Option WaitFor) (pa : Nat) : Bool :=
  match w with
  | some (.signal a) => a / 128 == pa / 128
  | _ => false

/-- Sets a waiting cluster running, so that it executes its instruction again (R30). -/
def Cluster.wake (x : Cluster) : Cluster := if x.run = .waiting then { x with run := .running } else x

/-- Wakes the cluster where a condition on what it waits for holds. -/
def Cluster.wakeIf (f : Option WaitFor → Bool) (x : Cluster) : Cluster := if f x.wait then x.wake else x

/-- Wakes every waiting cluster whose condition holds. -/
def State.wakeAll (s : State) (f : Option WaitFor → Bool) : State :=
  { s with ctxs := s.ctxs.map fun p => (p.1, p.2.modAll (Cluster.wakeIf f)) }

/-- Wakes the SIGWAIT waiters on a line (R346, R347). -/
def State.wakeLine (s : State) (pa : Nat) : State := s.wakeAll fun w => WaitFor.onLine w pa

/-- The line is owned by the host (R427). -/
def State.ownedByHost (s : State) (pa : Nat) : Bool := s.hostOwned.get false (pa / 128)

/-- A write by physical address to the line waits: for the recoding engine that holds it in TRANSIT, for the host that owns it
(R427, R476), or behind another one. -/
def State.physHeld (s : State) (pa : Nat) : Bool :=
  ((s.region pa).tagged && (s.tagAt pa).vcls == 3) || s.ownedByHost pa || s.physWaits.any fun w => w.2.1 / 128 == pa / 128

/-- A read by physical address waits for a line of the range: it is in TRANSIT (R172, R476) or owned by the host (R427). -/
def State.physHeldRange (s : State) (pa n : Nat) : Bool :=
  (List.range ((pa % 128 + n + 127) / 128)).any fun i =>
    let a := pa + 128 * i
    ((s.region a).tagged && (s.tagAt a).vcls == 3) || s.ownedByHost a

/-- A link leads to the memory at a physical address (R469). -/
def State.linked (s : State) (pa : Nat) : Bool :=
  let up (n : Nat) := s.creel.lnkUp.get false n
  match s.region pa with
  | .tier n => up (16 + n)
  | .host => up 0 || up 1
  | .fabric d => (List.range 16).any fun p => (s.creel.fwtab.get 0 d).getLsbD p && up (32 + p)
  | _ => true

/-- Bytes written by physical address by an agent without a Page Attribute Record, one line (R476): a partial write to a
POISON line is dropped with a record under cause 0x0125. -/
def State.physWriteLine (s : State) (src pa : Nat) (data : List Byte) : State :=
  match s.region pa with
  | .host => s.setBytes pa data
  | .creel | .outside => s
  | _ =>
    let s1 := s.scrub pa
    match (s1.lineAt pa).storePhys (pa % 128) data with
    | some l => s1.putLine pa l
    -- kind 1, a write (R422)
    | none => s1.report (s1.recOf src 3 0x0125 pa (2 ^ 16))

/-- A write of one line is performed, or waits for it (R427, R476); copies in the caches are recalled (R21). -/
def State.physWriteOne (s : State) (src pa : Nat) (data : List Byte) : State :=
  if s.physHeld pa then { s with physWaits := s.physWaits ++ [(src, pa, data)] }
  else ((s.physWriteLine src pa data).recall (pa / 128)).wakeLine pa

/-- Writes bytes by physical address, line by line, and wakes waiters on the lines (R347, R476). -/
def State.physWriteAux (src : Nat) : Nat → State → Nat → List Byte → State
  | 0, s, _, _ => s
  | _, s, _, [] => s
  | fuel + 1, s, pa, data =>
    let n := 128 - pa % 128
    State.physWriteAux src fuel (s.physWriteOne src pa (data.take n)) (pa + n) (data.drop n)

/-- Writes bytes by physical address (R476), on behalf of source `src`. -/
def State.physWrite (s : State) (src pa : Nat) (data : List Byte) : State :=
  State.physWriteAux src (data.length + 1) s (s.homeOf pa) data

/-- The writes that waited for a line are performed, in order, once it is free (R427, R476). -/
def State.flushPhys (s : State) (pa : Nat) : State :=
  let mine := s.physWaits.filter fun w => w.2.1 / 128 == pa / 128
  mine.foldl (fun t w => t.physWriteOne w.1 w.2.1 w.2.2) { s with physWaits := s.physWaits.filter fun w => w.2.1 / 128 != pa / 128 }

/-- A byte read by physical address returns the stored byte (R476). -/
def State.physRead (s : State) (pa n : Nat) : List Byte := s.bytesAt pa n

/-- A line of the range is POISON or stands in TRANSIT. -/
def State.physClass (s : State) (pa n c : Nat) : Bool :=
  (List.range ((pa % 128 + n + 127) / 128)).any fun i =>
    let a := pa + 128 * i
    (s.region a).tagged && (s.tagAt a).vcls == c

end Sys2Proof.Machine
end

