-- ==== Sys2Proof/Machine/Hanks.lean ====
section
/-! DEFINITION. How a task is cut into hanks (R22 .. R26), which of them are launched and firm (R204), and the look-up of
hanks and tasks. -/

namespace Sys2Proof.Machine

/-- Width of level `j` (R165). -/
def TaskRec.w (t : TaskRec) (j : Nat) : Nat := t.width.get 0 j
/-- Extent of level `j` (R22). -/
def TaskRec.ext (t : TaskRec) (j : Nat) : Nat := t.extent.get 0 j
/-- First WID bit of level `j` (R22). -/
def TaskRec.shift (t : TaskRec) (j : Nat) : Nat := ((List.range j).map t.w).sum
/-- The levels at or above `lo`, from the highest down. -/
def levelsFrom (lo : Nat) : List Nat := (List.range' lo (6 - lo)).reverse
/-- The number of hanks H (R23). -/
def TaskRec.hankCount (t : TaskRec) : Nat := ((levelsFrom t.bind).map t.ext).prod
/-- The skein size S (R25). -/
def TaskRec.skeinSize (t : TaskRec) : Nat := ((List.range' t.bind (t.skein - t.bind)).map t.ext).prod

/-- The fields of a hank ordinal, of the levels given from the highest down (R24). -/
def fieldsOf (ext : Nat → Nat) : List Nat → Nat → List Nat
  | [], _ => []
  | _ :: t, h =>
    let below := (t.map ext).prod
    h / below :: fieldsOf ext t (h % below)

/-- The value of field `j` of the hank with ordinal `h`; 0 below the bind level (R26). -/
def TaskRec.field (t : TaskRec) (h j : Nat) : Nat :=
  let ls := levelsFrom t.bind
  (((ls.zip (fieldsOf t.ext ls h)).find? fun p => p.1 == j).map Prod.snd).getD 0

/-- The hank WID of an ordinal (R23, R24). -/
def TaskRec.hankWid (t : TaskRec) (h : Nat) : Word :=
  BitVec.ofNat 64 (((levelsFrom t.bind).map fun j => t.field h j * 2 ^ t.shift j).sum)

/-- The used shape descriptor `d` (R170). -/
def TaskRec.shape (t : TaskRec) (d : Nat) : Option Shape := t.shapes.get none d
/-- The level that a shape descriptor names. -/
def Shape.level (x : Shape) : Nat := x.lvl - 1
/-- The effective extent of a posted extent (R200). -/
def Shape.effective (x : Shape) (v : Nat) : Nat := min (max v x.floor) x.cap

/-- The learnt effective extent of descriptor `d`. -/
def Task.learntOf (t : Task) (d : Nat) : Option Nat := t.learnt.get none d
/-- The bound X_d (R204). -/
def Task.boundOf (t : Task) (d : Nat) : Nat := (t.learntOf d).getD (t.predicted.get 0 d)
/-- The used descriptor that names level `j`. -/
def Task.descOf (t : Task) (j : Nat) : Option (Nat × Shape) :=
  [0, 1].findSome? fun d => match t.body.shape d with
    | some x => if x.level = j then some (d, x) else none
    | none => none
/-- Fields of level `j` of launched hanks lie below this bound (R204). -/
def Task.bound (t : Task) (j : Nat) : Nat :=
  match t.descOf j with
  | some (d, _) => t.boundOf d
  | none => t.body.ext j

/-- Every used descriptor has been learnt. -/
def Task.allLearnt (t : Task) : Bool := [0, 1].all fun d => (t.body.shape d).isNone || (t.learntOf d).isSome

/-- A hank is firm (R204). -/
def Task.firm (t : Task) (h : Nat) : Bool :=
  [0, 1].all fun d => match t.body.shape d with
    | none => true
    | some x =>
      let f := t.body.field h x.level
      decide (f < x.floor) || (t.learntOf d).elim false fun te => decide (f < te)

/-- Digits with their bounds: the least tuple not below the given one with every digit below its bound. -/
def leastWithin : List (Nat × Nat) → Option (List Nat)
  | [] => some []
  | (d, b) :: t =>
    if b ≤ d then none
    else match leastWithin t with
      | some r => some (d :: r)
      | none => if d + 1 < b && t.all fun p => decide (0 < p.2) then some ((d + 1) :: t.map fun _ => 0) else none

/-- The number of tuples not below the given one with every digit below its bound. -/
def countWithin : List (Nat × Nat) → Nat
  | [] => 1
  | (d, b) :: t => (b - (d + 1)) * (t.map Prod.snd).prod + if d < b then countWithin t else 0

/-- The digits of ordinal `h`, each with its launch bound. -/
def Task.digits (t : Task) (bound : Nat → Nat) (h : Nat) : List (Nat × Nat) :=
  let ls := levelsFrom t.body.bind
  (fieldsOf t.body.ext ls h).zip (ls.map bound)

/-- The ordinal of a list of fields. -/
def ordinalOf (ext : Nat → Nat) : List Nat → List Nat → Nat
  | _ :: ls, f :: fs => f * (ls.map ext).prod + ordinalOf ext ls fs
  | _, _ => 0

/-- The next launched hank at or after ordinal `t.next` (R204). -/
def Task.nextLaunched (t : Task) : Option Nat :=
  if t.body.hankCount ≤ t.next then none
  else (leastWithin (t.digits t.bound t.next)).map fun fs => ordinalOf t.body.ext (levelsFrom t.body.bind) fs

/-- Launched hanks of the task that are still in PENDING, under bounds given by level. -/
def Task.pendingCount (t : Task) (bound : Nat → Nat) : Nat :=
  if t.body.hankCount ≤ t.next then 0 else countWithin (t.digits bound t.next)

/-- R205: the hank waits for an extent that has not been learnt. -/
def Task.heldBack (t : Task) (h : Nat) : Bool :=
  [0, 1].any fun d => match t.body.shape d with
    | none => false
    | some x => (t.learntOf d).isNone && (List.range' (x.level + 1) (5 - x.level)).any fun j => t.body.field h j != 0

/-- The hank with a task and a WID. -/
def State.findHank (s : State) (task : Nat) (wid : Word) : Option Hank := s.hanks.find? fun h => h.task == task && h.wid == wid
/-- Applies a function to a hank. -/
def State.modHank (s : State) (task : Nat) (wid : Word) (f : Hank → Hank) : State :=
  { s with hanks := s.hanks.map fun h => if h.task == task && h.wid == wid then f h else h }
/-- The hank bound to a slot. -/
def State.hankAt (s : State) (slot : Nat) : Option Hank :=
  match (s.ctx slot).hank with
  | none => none
  | some (t, w) => s.findHank t w
/-- The task with a record address. -/
def State.findTask (s : State) (pa : Nat) : Option Task := s.tasks.find? fun t => t.pa == pa
/-- Applies a function to a task. -/
def State.modTask (s : State) (pa : Nat) (f : Task → Task) : State :=
  { s with tasks := s.tasks.map fun t => if t.pa == pa then f t else t }

/-- Lines of region `i` whose staging has neither been performed nor cancelled (R177, R426, R436). -/
def Hank.linesLeft (h : Hank) (r : Region) (i : Nat) : List Nat :=
  (List.range' (h.landed.get 0 i) (r.lines - h.landed.get 0 i)).filter fun n => !h.dropped.contains (i, n)

/-- The address of line `n` of a region for a hank (R169). -/
def Hank.lineVa (h : Hank) (r : Region) (n : Nat) : Word := r.va + BitVec.ofNat 64 h.ord * r.hstr + BitVec.ofNat 64 (128 * n)

/-- The hank has not yet been bound (R185). -/
def HankState.early : HankState → Bool
  | .pending | .admitted | .reserved | .ready => true
  | _ => false

/-- The hanks of a hank's skein that have left PENDING and not yet ended (R25, R28). -/
def State.skeinOf (s : State) (h : Hank) : List Hank :=
  match s.findTask h.task with
  | none => [h]
  | some t =>
    let n := max 1 t.body.skeinSize
    s.hanks.filter fun x => x.task == h.task && x.ord / n == h.ord / n

end Sys2Proof.Machine
end

