-- ==== Sys2Proof/Machine/Creel.lean ====
section
/-! DEFINITION. The Creel registers and the host window (R5, R7, R375, R376, R390): reads, writes under each field's access
code, and the acts that a write performs. -/

namespace Sys2Proof.Machine

/-- Applies a function to the Creel registers. -/
def State.modCreel (s : State) (f : Creel → Creel) : State := { s with creel := f s.creel }

/-- LQCFGn (R160). -/
def State.lqcfg (s : State) (n : Nat) : Word := s.creel.lqcfg.get Creel.lqcfgReset n
/-- LQCFGn.EN. -/
def State.lqEnabled (s : State) (n : Nat) : Bool := (s.lqcfg n).getLsbD 63
/-- LQCFGn.CLASS. -/
def State.lqClass (s : State) (n : Nat) : Nat := ((s.lqcfg n).extractLsb' 60 3).toNat
/-- The ring's entries. -/
def State.lqSize (s : State) (n : Nat) : Nat := 2 ^ (((s.lqcfg n).extractLsb' 56 4).toNat + 6)
/-- LQCFGn.WEIGHT; 0 acts as 1. -/
def State.lqWeight (s : State) (n : Nat) : Nat := max 1 ((s.lqcfg n).extractLsb' 52 4).toNat
/-- The ring's physical address. -/
def State.lqBase (s : State) (n : Nat) : Nat := ((s.lqcfg n).extractLsb' 12 40).toNat * 4096
/-- LQPTRn.TAIL (R161). -/
def State.lqTail (s : State) (n : Nat) : Nat := ((s.creel.lqptr.get 0 n).extractLsb' 32 22).toNat
/-- LQPTRn.HEAD. -/
def State.lqHead (s : State) (n : Nat) : Nat := ((s.creel.lqptr.get 0 n).extractLsb' 0 22).toNat
/-- Writes LQPTRn. -/
def State.setLq (s : State) (n tail head : Nat) : State :=
  s.modCreel fun c => { c with lqptr := c.lqptr.set 0 n (BitVec.ofNat 64 (tail % 2 ^ 22 * 2 ^ 32 + head % 2 ^ 22)) }
/-- Entries between HEAD and TAIL (R161). -/
def State.lqCount (s : State) (n : Nat) : Nat := (s.lqTail n + 2 ^ 22 - s.lqHead n) % 2 ^ 22

/-- A write to LPORTn (R376, R389). -/
def State.lport (s : State) (n : Nat) (v : Word) : State :=
  let cnt := (v.extractLsb' 0 16).toNat
  if s.creel.ready && s.lqEnabled n && decide (s.lqCount n + cnt ≤ s.lqSize n) then s.setLq n (s.lqTail n + cnt) (s.lqHead n)
  else s.modCreel fun c => { c with lperr := c.lperr ||| (1#64 <<< n) }

/-- Byte `i` of a list. -/
def byteIn (l : List Byte) (i : Nat) : Byte := l.getD i 0
/-- The little-endian number of `n` bytes of a list, from byte `i` on. -/
def natIn (l : List Byte) (i n : Nat) : Nat := leNat ((List.range n).map fun j => byteIn l (i + j))

/-- Judges and queues a recode record (R360): 0 queued, 1 the queue is full, 2 malformed. Malformed is judged first. -/
def State.submitRecode (s : State) (l : List Byte) (fromHost : Bool) : State × Nat :=
  let fmt : Fmt := BitVec.ofNat 5 (natIn l 20 1)
  let bad := decide (32 ≤ natIn l 20 1) || fmt == Fmt.none || !fmt.allocated || decide (4 ≤ natIn l 21 1) || natIn l 22 2 != 0
    || natIn l 8 8 % 128 != 0 || natIn l 16 4 == 0 || natIn l 24 8 % 64 != 0
  if bad then (s, 2)
  else if 64 ≤ s.recJobs.length then (s, 1)
  else
    let j : RecJob :=
      { asd := natIn l 0 8, va := natIn l 8 8, lines := natIn l 16 4, fmt := fmt, rtz := natIn l 21 1 % 2 = 1
        ply := natIn l 21 1 / 2 % 2 = 1, cmpl := natIn l 24 8, fromHost := fromHost, next := 0, rewritten := 0, skipped := 0
        refused := 0, freed := 0, stuckSince := none, transit := none, fold := none }
    ({ s with recJobs := s.recJobs ++ [j] }, 0)

/-- A range of physical addresses lies in one protected range (R382). -/
def State.inRange (s : State) (pa n : Nat) : Bool := s.ranges.any fun r => r.1 ≤ pa && pa + n ≤ r.2

/-- The address lies in a protected range, and confidential work is available (R382, R391). -/
def State.protectedAt (s : State) (pa : Nat) : Bool :=
  s.creel.lcs == 1 && s.ranges.any fun r => decide (r.1 ≤ pa) && decide (pa < r.2)

/-- PRICFG.BITMO in ns (R424). -/
def State.bitmoNs (s : State) : Nat := max 1 (s.creel.pricfg.extractLsb' 16 16).toNat * 1000000

/-- Judges and queues a decryption record (R382): 0 queued, 1 full, 2 malformed or not in FIELD (R391). -/
def State.submitDecrypt (s : State) (l : List Byte) : State × Nat :=
  let len := natIn l 16 4
  let bad := s.creel.lcs != 1 || natIn l 21 3 != 0 || natIn l 36 4 != 0 || decide (16 ≤ natIn l 20 1)
    || natIn l 0 8 % 16 != 0 || natIn l 8 8 % 16 != 0 || natIn l 56 8 % 16 != 0 || len % 16 != 0
    || len == 0 || decide (2097152 < len) || !s.inRange (natIn l 8 8) len || (s.keys.get none (natIn l 20 1)).isNone
  if bad then (s, 2)
  else if 16 ≤ s.decJobs.length then (s, 1)
  else
    let j : DecJob :=
      { src := natIn l 0 8, dst := natIn l 8 8, len := len, key := natIn l 20 1, iv := (l.drop 24).take 12
        tag := (l.drop 40).take 16, cmpl := natIn l 56 8 }
    ({ s with decJobs := s.decJobs ++ [j] }, 0)

/-- A write to EXPQ (R437): reads the job record by physical address and queues or refuses it. -/
def State.submitExport (s : State) (v : Word) : State :=
  let pa := s.homeOf ((v.extractLsb' 6 46).toNat * 64)
  let s := s.scrub pa
  let l := s.physRead pa 64
  -- a POISON line returns no data (R476; log entry 62)
  let bad := s.physClass pa 64 4 || natIn l 8 8 % 65536 != 0 || natIn l 16 8 % 65536 != 0 || natIn l 24 4 == 0 || decide (65535 < natIn l 24 4)
    || decide (2 ≤ natIn l 28 1) || natIn l 32 8 % 64 != 0
  if bad then s.modCreel fun c => { c with expqStat := 2 }
  else if 16 ≤ s.expJobs.length then s.modCreel fun c => { c with expqStat := 1 }
  else
    let j : ExpJob :=
      { asd := natIn l 0 8, va := natIn l 8 8, dst := natIn l 16 8, pages := natIn l 24 4, tagged := natIn l 28 1 % 2 = 1
        cmpl := natIn l 32 8 }
    { s with expJobs := s.expJobs ++ [j], creel := { s.creel with expqStat := 0 } }

/-- The performance state in force: the lower of REQ and the forced limit (R383). -/
def State.pstateAim (s : State) : BitVec 3 := if s.creel.pstateReq < s.creel.flim then s.creel.flim else s.creel.pstateReq

/-- Starts a transition when none is in progress and the state in force differs (R383). -/
def State.pstateStart (s : State) : State :=
  if !s.creel.pstateBusy && s.pstateAim != s.creel.pstateCur then
    s.modCreel fun c => { c with pstateBusy := true, pstateTgt := s.pstateAim }
  else s

/-- A write of PSTATE.REQ (R383). -/
def State.pstateWrite (s : State) (req : BitVec 3) : State := (s.modCreel fun c => { c with pstateReq := req }).pstateStart

/-- A write of PWRCAP (R384). -/
def State.pwrcapWrite (s : State) (v : Word) : State :=
  let cap := (v.extractLsb' 0 9).toNat
  let s1 := s.modCreel fun c => { c with pwrCapErr := c.pwrCapErr && !v.getLsbD 16 }
  if cap < 60 ∨ 360 < cap then s1.modCreel fun c => { c with pwrCapErr := true }
  else
    let s2 := s1.modCreel fun c => { c with pwrCap := BitVec.ofNat 9 cap }
    if s.creel.pwrCap.toNat = cap then s2 else s2.message 1

/-- Begins the park or unpark that REQ asks of a bobbin that is not busy (R385). -/
def State.parkStart (s : State) (b : Nat) : State :=
  let c := s.creel
  if c.parkBusy.getLsbD b || c.parkReq.getLsbD b == c.parked.getLsbD b then s
  else { s with creel := { c with parkBusy := c.parkBusy ||| (1#8 <<< b) }, parkSince := s.parkSince.set none b none }

/-- A write of BOBPARK.REQ; a bobbin that failed its power-on check stays requested (R385, R472). -/
def State.parkWrite (s : State) (req : Byte) : State :=
  (List.range 8).foldl State.parkStart (s.modCreel fun c => { c with parkReq := req ||| (c.bobfail &&& c.parkReq) })

/-- Empties every predictor history (R201). -/
def State.predClear (s : State) : State :=
  { s with predictor := (s.predictor.map fun p => (p.1, { p.2 with h0 := [], h1 := [] })).filter fun p => p.2 != Pred.initial }

/-- MODID (R13). -/
def State.modid (s : State) : Word :=
  BitVec.ofNat 64 (0x0960 * 2 ^ 48 + s.creel.step.toNat * 2 ^ 40 + 8 * 2 ^ 28 + 60 * 2 ^ 20 + 48 * 2 ^ 12 + 8 * 2 ^ 8)

/-- THERMST (R471). -/
def State.thermst (s : State) : Word :=
  BitVec.ofNat 64 (s.creel.flim.toNat * 2 ^ 16 + s.creel.trip.toNat * 2 ^ 8 + s.creel.dieTemp.toNat)

/-- A port number of R468 that a link has: host ports 0 and 1, tier ports 16 .. 25, fabric ports 32 .. 47. -/
def portNumber (n : Nat) : Bool := n < 2 || (16 ≤ n && n < 26) || (32 ≤ n && n < 48)

/-- LNKSTn (R468); numbers without a port read zero. -/
def State.lnkst (s : State) (n : Nat) : Word :=
  if portNumber n then
    BitVec.ofNat 64 ((s.creel.lnkUp.get false n).toNat * 2 ^ 63 + (s.creel.lnkRply.get 0 n).toNat)
  else 0

/-- An 8-byte read of a host port's window (R375). -/
def State.barRead (s : State) (port off : Nat) : Word :=
  let c := s.creel
  let p := s.port port
  if off % 8 ≠ 0 then 0
  else if off = 0 then s.modid
  else if off < 0x48 then c.bobcfg.get Creel.bobcfgReset ((off - 8) / 8)
  else if off = 0x1200 then c.lperr
  else if off = 0x2020 then c.hrcstat.setWidth 64
  else if off = 0x2080 then c.dcstat.setWidth 64
  else if off = 0x3000 then BitVec.ofNat 64 (c.pstateBusy.toNat * 2 ^ 15 + c.pstateCur.toNat * 2 ^ 8 + c.pstateReq.toNat)
  else if off = 0x3008 then BitVec.ofNat 64 (c.pwrMeas.toNat * 2 ^ 32 + c.pwrCapErr.toNat * 2 ^ 16 + c.pwrCap.toNat)
  else if off = 0x3010 then BitVec.ofNat 64 (c.parkBusy.toNat * 2 ^ 16 + c.parked.toNat * 2 ^ 8 + c.parkReq.toNat)
  else if off = 0x3040 then BitVec.ofNat 64 s.timeNs
  else if off = 0x3048 then BitVec.ofNat 64 (c.ready.toNat + c.lcs.toNat * 4)
  else if 0x3100 ≤ off ∧ off < 0x3140 then
    let n := (off - 0x3100) / 8
    BitVec.ofNat 64 ((c.hbmHot.get false n).toNat * 256 + (c.hbmTemp.get 0 n).toNat)
  else if off = 0x4000 then p.eqcfg
  else if off = 0x4008 then p.eqTail ++ p.eqHead
  else if off = 0x4010 then p.eqLost.setWidth 64
  else if 0x10000 ≤ off ∧ off < 0x10000 + 72 * 16 then
    let v := (off - 0x10000) / 16
    let word (i : Nat) : BitVec 32 :=
      if i = 3 then (if p.unmasked.get false v then 0 else 1) else p.table.get 0 (v * 4 + i)
    if off % 16 = 0 then word 1 ++ word 0 else word 3 ++ word 2
  else if off = 0x11000 ∨ off = 0x11008 then
    BitVec.ofNat 64 (((List.range 64).map fun i => (p.pending.get false ((off - 0x11000) * 8 + i)).toNat * 2 ^ i).sum)
  else 0

/-- Unmasks a vector of a port; a set pending bit sends one message (R377). -/
def Port.unmask (p : Port) (v : Nat) : Port :=
  let q := { p with unmasked := p.unmasked.set false v true }
  if p.pending.get false v then { q with sent := q.sent ++ [v], pending := q.pending.set false v false } else q

/-- An 8-byte write to a host port's window (R375, R376, R398). -/
def State.barWrite (s : State) (port off : Nat) (v : Word) : State :=
  if off % 8 ≠ 0 then s
  else if 0x1000 ≤ off ∧ off < 0x1200 then s.lport ((off - 0x1000) / 8) v
  else if off = 0x1200 then s.modCreel fun c => { c with lperr := c.lperr &&& ~~~v }
  else if off = 0x3000 then s.pstateWrite (v.extractLsb' 0 3)
  else if off = 0x3008 then s.pwrcapWrite v
  else if off = 0x3010 then s.parkWrite (v.extractLsb' 0 8)
  else if off = 0x4000 then s.modPort port fun p => { p with eqcfg := v &&& 0x800FFFFFFFFFF00F }
  else if off = 0x4008 then s.modPort port fun p => { p with eqHead := v.extractLsb' 0 32 }
  else if off = 0x4010 then s.modPort port fun p => { p with eqLost := p.eqLost &&& ~~~(v.extractLsb' 0 32) }
  else if 0x10000 ≤ off ∧ off < 0x10000 + 72 * 16 then
    let n := (off - 0x10000) / 16
    s.modPort port fun p =>
      if off % 16 = 0 then { p with table := (p.table.set 0 (n * 4) (v.extractLsb' 0 32)).set 0 (n * 4 + 1) (v.extractLsb' 32 32) }
      else
        let q := { p with table := p.table.set 0 (n * 4 + 2) (v.extractLsb' 0 32) }
        if v.getLsbD 32 then { q with unmasked := q.unmasked.set false n false } else q.unmask n
  else s

/-- An 8-byte read of a Creel register (R390). -/
def State.creelRead (s : State) (off : Nat) : Word :=
  let c := s.creel
  if off % 8 ≠ 0 then 0
  else if off < 0x4000 then s.barRead 0 off
  else if 0x10000 ≤ off ∧ off < 0x10200 then s.lqcfg ((off - 0x10000) / 8)
  else if 0x10200 ≤ off ∧ off < 0x10400 then c.lqptr.get 0 ((off - 0x10200) / 8)
  else if 0x10400 ≤ off ∧ off < 0x10440 then c.stgbud.get Creel.stgbudReset ((off - 0x10400) / 8)
  else if off = 0x10440 then c.savepool
  else if off = 0x10450 then c.spconf
  else if off = 0x10458 then c.spcanc
  else if off = 0x10460 then c.spsqsh
  else if off = 0x10468 then c.sptail
  else if off = 0x10470 then c.wdcfg
  else if off = 0x10478 then c.pricfg
  else if off = 0x10480 then c.spcfg
  else if off = 0x10488 then c.expqStat.setWidth 64
  else if off = 0x10490 then c.lnkcfg
  else if off = 0x10498 then s.thermst
  else if off = 0x104A0 then c.bobfail.setWidth 64
  else if off = 0x104A8 then c.crelce
  else if 0x10500 ≤ off ∧ off < 0x10700 then c.bindrec.get 0 ((off - 0x10500) / 8)
  else if 0x10800 ≤ off ∧ off < 0x10840 then c.svvec.get 0 ((off - 0x10800) / 8)
  else if 0x10840 ≤ off ∧ off < 0x10880 then c.svring.get 0 ((off - 0x10840) / 8)
  else if 0x10880 ≤ off ∧ off < 0x108C0 then c.hbmce.get 0 ((off - 0x10880) / 8)
  else if 0x108C0 ≤ off ∧ off < 0x10900 then c.bobce.get 0 ((off - 0x108C0) / 8)
  else if 0x10900 ≤ off ∧ off < 0x10940 then c.stgabn.get 0 ((off - 0x10900) / 8)
  else if 0x10A00 ≤ off ∧ off < 0x10B80 then s.lnkst ((off - 0x10A00) / 8)
  else if 0x11000 ≤ off ∧ off < 0x11000 + 480 * 8 then (c.tallow.get Creel.tallowReset ((off - 0x11000) / 8)).setWidth 64
  else if 0x20000 ≤ off ∧ off < 0x21000 then c.fwtab.get 0 ((off - 0x20000) / 8)
  else 0

/-- The writer is the Distaff. -/
def isDistaff : Writer → Bool
  | .distaff => true
  | _ => false

/-- The Distaff accepts firmware signed with the bring-up key, or with the production key, by life-cycle state (R391). -/
def acceptsFirmware (lcs : BitVec 2) (bringUp : Bool) : Bool :=
  match lcs.toNat with
  | 0 | 2 => true
  | 1 => !bringUp
  | _ => false

/-- The Distaff runs: its life-cycle state accepts some firmware (R391). -/
def State.distaffRuns (s : State) : Bool := acceptsFirmware s.creel.lcs true || acceptsFirmware s.creel.lcs false

/-- An 8-byte write of a Creel register by the Distaff or a supervisor core (R390): each register's writers and fields. -/
def State.creelWrite (s : State) (w : Writer) (off : Nat) (v : Word) : State :=
  let d := isDistaff w
  if off % 8 ≠ 0 then s
  else if off < 0x4000 then s.barWrite 0 off v
  else if 0x10000 ≤ off ∧ off < 0x10200 then
    s.modCreel fun c => { c with lqcfg := c.lqcfg.set Creel.lqcfgReset ((off - 0x10000) / 8) (v &&& 0xFFFFFFFFFFFFF000) }
  else if 0x10200 ≤ off ∧ off < 0x10400 then
    s.setLq ((off - 0x10200) / 8) ((v.extractLsb' 32 22).toNat) (s.lqHead ((off - 0x10200) / 8))
  else if 0x10400 ≤ off ∧ off < 0x10440 then
    if d then s.modCreel fun c => { c with stgbud := c.stgbud.set Creel.stgbudReset ((off - 0x10400) / 8) (v &&& 0x0000000000FF7F7F) }
    else s
  else if off = 0x10440 then if d then s.modCreel fun c => { c with savepool := v &&& 0x000FFFFFFF00FFFF } else s
  else if off = 0x10448 then if v.getLsbD 0 then s.predClear else s
  else if off = 0x10450 then s.modCreel fun c => { c with spconf := v }
  else if off = 0x10458 then s.modCreel fun c => { c with spcanc := v }
  else if off = 0x10460 then s.modCreel fun c => { c with spsqsh := v }
  else if off = 0x10468 then s.modCreel fun c => { c with sptail := v }
  else if off = 0x10470 then if d then s.modCreel fun c => { c with wdcfg := v &&& 0x00000000FFFF00FF } else s
  else if off = 0x10478 then if d then s.modCreel fun c => { c with pricfg := v &&& 0x00000000FFFFFFFF } else s
  else if off = 0x10480 then s.modCreel fun c => { c with spcfg := v &&& 0x000000000000FFFF }
  else if off = 0x10488 then if d then s else s.submitExport v
  else if off = 0x10490 then if d then s.modCreel fun c => { c with lnkcfg := v &&& 0x000000000000FFFF } else s
  else if off = 0x104A8 then s.modCreel fun c => { c with crelce := v }
  else if 0x10500 ≤ off ∧ off < 0x10700 then
    if d then s.modCreel fun c => { c with bindrec := c.bindrec.set 0 ((off - 0x10500) / 8) (v &&& 0x8000FFFF000000FF) } else s
  else if 0x10800 ≤ off ∧ off < 0x10840 then
    if d then s.modCreel fun c => { c with svvec := c.svvec.set 0 ((off - 0x10800) / 8) (v &&& 0x000FFFFFFFFFFFFD) } else s
  else if 0x10840 ≤ off ∧ off < 0x10880 then
    if d then s.modCreel fun c => { c with svring := c.svring.set 0 ((off - 0x10840) / 8) (v &&& 0x000FFFFFFFFFE000) } else s
  else if 0x10880 ≤ off ∧ off < 0x108C0 then s.modCreel fun c => { c with hbmce := c.hbmce.set 0 ((off - 0x10880) / 8) v }
  else if 0x108C0 ≤ off ∧ off < 0x10900 then s.modCreel fun c => { c with bobce := c.bobce.set 0 ((off - 0x108C0) / 8) v }
  else if 0x10900 ≤ off ∧ off < 0x10940 then s.modCreel fun c => { c with stgabn := c.stgabn.set 0 ((off - 0x10900) / 8) v }
  else if 0x10A00 ≤ off ∧ off < 0x10B80 then
    let n := (off - 0x10A00) / 8
    if portNumber n then s.modCreel fun c => { c with lnkRply := c.lnkRply.set 0 n (c.lnkRply.get 0 n &&& ~~~(v.extractLsb' 0 32)) }
    else s
  else if 0x11000 ≤ off ∧ off < 0x11000 + 480 * 8 then
    if d then s.modCreel fun c => { c with tallow := c.tallow.set Creel.tallowReset ((off - 0x11000) / 8) (v.extractLsb' 0 8) } else s
  else if 0x20000 ≤ off ∧ off < 0x21000 then
    if d then s.modCreel fun c => { c with fwtab := c.fwtab.set 0 ((off - 0x20000) / 8) (v &&& 0x8000000001FFFFFF) } else s
  else s

end Sys2Proof.Machine
end

