-- ==== Sys2Proof/Machine/Translate.lean ====
section
/-! DEFINITION. Translation of virtual addresses (R106, R124 .. R126, R132, R420 .. R425, R458). -/

namespace Sys2Proof.Machine

/-- Why an instruction or an engine's act does not complete. -/
inductive Stop where
  /-- A precise instruction trap, class 1: cause, ADDR and INFO (R408 .. R411). -/
  | trap (cause : BitVec 32) (addr info : Word)
  /-- A resumable memory fault, class 2 (R420). -/
  | fault (cause : BitVec 32) (addr info : Word)
  /-- A context-fatal error, class 4 (R420). -/
  | fatal (cause : BitVec 32) (addr info : Word)
  /-- The agent waits, with its pc at the instruction (R30). -/
  | wait (w : WaitFor)
deriving DecidableEq, Repr

/-- A failed check with its rank in the order of R421. -/
structure Deny where
  rank : Nat
  stop : Stop
deriving DecidableEq, Repr

/-- The kind of an access (R422). -/
inductive MemKind where
  | read | write | amo | fetch
  | tagRead | tagWrite
  /-- An engine's access: a stream unit's or a copy queue's, its number, and whether it writes. -/
  | engine (stream : Bool) (q : Nat) (write : Bool)
deriving DecidableEq, Repr

/-- The code of INFO[18:16] (R422). -/
def MemKind.code : MemKind → Nat
  | .read => 0 | .write => 1 | .amo => 2 | .fetch => 3 | .tagRead | .tagWrite => 4 | .engine .. => 6

/-- The access needs W (R125). -/
def MemKind.writes : MemKind → Bool
  | .write | .amo | .tagWrite => true
  | .engine _ _ w => w
  | _ => false

/-- INFO of a memory cause: kind, host range, the field of bits [23:20] and the PASID (R422). -/
def memInfo (k : MemKind) (host : Bool) (field pasid : Nat) : Word :=
  let f := match k with
    | .engine st _ _ => if st then 1 else 0
    | _ => field
  let q := match k with
    | .engine _ q _ => q
    | _ => 0
  BitVec.ofNat 64 (q * 2 ^ 8 + k.code * 2 ^ 16 + (if host then 2 ^ 19 else 0) + f * 2 ^ 20 + pasid * 2 ^ 32)

/-- A class 2 fault at a virtual address. -/
def denyFault (rank : Nat) (cause : BitVec 32) (k : MemKind) (va : Nat) (host : Bool) (field pasid : Nat) : Deny :=
  { rank := rank, stop := .fault cause (BitVec.ofNat 64 va) (memInfo k host field pasid) }

/-- Decodes a Page Attribute Record (R126). -/
def Par.ofWord (x : Word) : Par :=
  { typed := x.getLsbD 0, slotw := (x.extractLsb' 1 2).toNat, dpol := x.extractLsb' 3 2, dtgt := x.extractLsb' 5 5
    ppol := x.getLsbD 10, rcod := x.getLsbD 11, ply := x.extractLsb' 12 2, expf := x.extractLsb' 14 5 }

/-- A Page Attribute Record that R126 does not call malformed. -/
def parOk (x : Word) : Bool :=
  let p := Par.ofWord x
  p.ply != 3 && x.extractLsb' 19 45 == 0 && fmtAllocated p.expf
    && !(p.typed && p.ply != 0 && !p.rcod)
    && !(p.typed && p.dpol != 0 && (p.dtgt == 0 || !fmtAllocated p.dtgt || !slotHolds p.dtgt p.w))

/-- The record of an untyped page of format NONE, for agents that reach memory without one. -/
def Par.raw : Par := { typed := false, slotw := 0, dpol := 0, dtgt := 0, ppol := false, rcod := false, ply := 0, expf := 0 }

/-- The fields of an address-space descriptor (R124). -/
structure Asd where
  root : Nat
  part : Nat
  pasid : Nat
  hpar : Nat
  hbase : Nat
  hlimit : Nat

/-- Reads an address-space descriptor by physical address (R124). -/
def State.asd (s : State) (a : Nat) : Asd :=
  { root := s.natAt a 8, part := s.natAt (a + 8) 8, pasid := s.natAt (a + 16) 4 % 2 ^ 20, hpar := s.natAt (a + 20) 1
    hbase := s.natAt (a + 24) 8, hlimit := s.natAt (a + 32) 8 }

/-- The address lies in the host range of its address space (R124). -/
def Asd.isHost (d : Asd) (va : Nat) : Bool := d.hbase ≤ va && va < d.hlimit

/-- Bits [63:57] copy bit 56 (R106). -/
def canonical (va : Word) : Bool := va.extractLsb' 57 7 == (if va.getLsbD 56 then 127 else 0)

/-- The virtual address bits that one entry of a level covers (R125): 39, 30, 21 and 16. -/
def levelShift : Nat → Nat
  | 3 => 39 | 2 => 30 | 1 => 21 | _ => 16

/-- A leaf that a walk has found, and the entries above it that the walk has read (R125). -/
structure Leaf where
  pa : Nat
  entry : Word
  level : Nat
  path : List WalkEntry

/-- A line that the host owns: the access waits, until the host's failure to answer ends it (R427, 0x0113). -/
def State.hostLine (s : State) (rank : Nat) (k : MemKind) (pa asd va : Nat) (host : Bool) : Deny :=
  { rank := rank
    stop := if s.deny = some (.line (pa / 128)) then .fatal 0x0113 (BitVec.ofNat 64 va) (memInfo k host 0 0)
            else .wait (.host pa asd va k.code) }

/-- The walk's read of a table line (R106, R420, 0x0112); a line owned by the host or in TRANSIT is waited for (R70, R427). -/
def State.tableLine (s : State) (k : MemKind) (asd va a level : Nat) : Option Deny :=
  let pa := s.homeOf a
  if s.region a == .outside then some (denyFault 1 0x0100 k va false 0 0)
  else if s.ownedByHost pa then some (s.hostLine 2 k pa asd va false)
  else if !s.linked a then some { rank := 2, stop := .fatal 0x0302 (BitVec.ofNat 64 va) (memInfo k false 0 0) }
  else if (s.region a).tagged then
    match (s.tagAt pa).cls false 1 with
    | .poison | .invalid =>
      some { rank := 2, stop := .fatal 0x0112 (BitVec.ofNat 64 va) (BitVec.ofNat 64 (5 * 2 ^ 16 + level * 2 ^ 20)) }
    | .transit => some { rank := 2, stop := .wait (.transit pa) }
    | _ => none
  else none

/-- An entry breaks a "must" of R125 at its level. -/
def entryBad (e : Word) (level : Nat) : Bool :=
  let leaf := e.getLsbD 1
  let addr := (e.extractLsb' 8 44).toNat * 256
  e.extractLsb' 54 2 != 0 || (level == 0 && !leaf) || (level == 3 && leaf)
    || (if leaf then addr % 2 ^ levelShift level != 0
        else if level == 1 then false else addr % 4096 != 0)

/-- The second-level TLB behind a TLB (R125). -/
def TlbUnit.up : TlbUnit → TlbUnit
  | .spindle n => .bobbin (bobbinOf (2 * n))
  | .bobbin b => .bobbin b

/-- The bobbin of a TLB. -/
def TlbUnit.bob : TlbUnit → Nat
  | .spindle n => bobbinOf (2 * n)
  | .bobbin b => b

/-- Entries of a TLB (R125). -/
def TlbUnit.size : TlbUnit → Nat
  | .spindle _ => 256
  | .bobbin _ => 16384

/-- The place of a virtual address among a level's entries (R125). -/
def levelIndex (va level : Nat) : Nat :=
  va / 2 ^ levelShift level % (if level = 3 then 2 ^ 18 else if level = 0 then 32 else 512)

/-- The non-leaf entry that a bobbin's walk cache holds for an address at a level (R125). -/
def State.walkFind (s : State) (bob asd va level : Nat) : Option Word :=
  ((s.walkCache.get [] bob).find? fun e => e.asd == asd && e.level == level && e.idx == va % 2 ^ 57 / 2 ^ levelShift level).map
    WalkEntry.entry

/-- The walk from a level's table down to the leaf (R125, R421). -/
def State.walk (s : State) (k : MemKind) (bob asd va : Nat) : Nat → Nat → Except Deny Leaf
  | level, table =>
    let a := table + 8 * levelIndex va level
    let found : Except Deny Word := match s.walkFind bob asd va level with
      | some e => .ok e
      | none => match s.tableLine k asd va a level with
        | some d => .error d
        | none => .ok (BitVec.ofNat 64 (s.natAt (s.homeOf a) 8))
    match found with
    | .error d => .error d
    | .ok e =>
      if !e.getLsbD 0 then .error (denyFault 2 0x0101 k va false level 0)
      else if entryBad e level then .error (denyFault 2 0x0104 k va false level 0)
      else if e.getLsbD 1 then .ok { pa := s.homeOf a, entry := e, level := level, path := [] }
      else match level with
        | 0 => .error (denyFault 2 0x0104 k va false level 0)
        | l + 1 =>
          (State.walk s k bob asd va l ((e.extractLsb' 8 44).toNat * 256)).map fun x =>
            { x with path := { asd := asd, level := level, idx := va % 2 ^ 57 / 2 ^ levelShift level, entry := e } :: x.path }

/-- The blocks that a walk reads are checked, and corrected or made POISON, as it reads them (R72, R73, R432). -/
def State.scrubWalk (s : State) (bob asd va part : Nat) : Nat → Nat → State
  | level, table =>
    let a := table + 8 * levelIndex va level
    let s1 := match s.walkFind bob asd va level with
      | some _ => s
      | none => s.scrub (s.homeOf a)
    let e : Word := (s.walkFind bob asd va level).getD (BitVec.ofNat 64 (s1.natAt (s1.homeOf a) 8))
    if !e.getLsbD 0 || entryBad e level then s1
    else if e.getLsbD 1 then s1.scrub (part + 8 * (e.extractLsb' 56 8).toNat)
    else match level with
      | 0 => s1
      | l + 1 => State.scrubWalk s1 bob asd va part l ((e.extractLsb' 8 44).toNat * 256)

/-- The page that an access meets: its translation, its attributes, and what the access still has to do to the tables. -/
structure Xlate where
  va : Nat
  /-- Where the memory stands (`State.homeOf`). -/
  pa : Nat
  /-- The physical address that the translation names. -/
  raw : Nat
  /-- The TLB of the agent. -/
  unit : TlbUnit
  host : Bool
  entry : TlbEntry
  /-- The entry comes from a walk: the device caches it and sets A (R125). -/
  walked : Bool
  /-- The entries above the leaf that the walk has read. -/
  path : List WalkEntry
  /-- The access is the page's first store: the device sets D (R125). -/
  setD : Bool
deriving DecidableEq, Repr

/-- The page's attributes; a host page is untyped (R122). -/
def Xlate.par (x : Xlate) : Par := if x.host then { x.entry.par with typed := false } else x.entry.par
/-- The page is typed. -/
def Xlate.typed (x : Xlate) : Bool := x.par.typed

/-- The page's base in virtual addresses. -/
def pageBase (va size : Nat) : Nat := va / size * size

/-- The entries of a table that are not zero. -/
def State.tableEntries (s : State) (table size : Nat) : List Word :=
  (((s.mem.filter fun c => table ≤ c.1 && c.1 < table + size).map fun c => c.1 / 8).eraseDups).map fun a => BitVec.ofNat 64 (s.natAt (8 * a) 8)

/-- The valid leaves below a table of a level (R125). -/
def State.leavesOf (s : State) : Nat → Nat → List Word
  | level, table =>
    (s.tableEntries table (if level = 3 then 2 ^ 21 else if level = 0 then 256 else 4096)).flatMap fun e =>
      if !e.getLsbD 0 then []
      else if e.getLsbD 1 then [e]
      else match level with
        | 0 => []
        | l + 1 => State.leavesOf s l (s.homeOf ((e.extractLsb' 8 44).toNat * 256))

/-- Another page of the address space maps the leaf's frame under a ply slot other than 0 and the same Page Attribute Record
(R125, R132). -/
def State.partnerOf (s : State) (root : Nat) (e : Word) : Bool :=
  (s.leavesOf 3 (s.homeOf root)).any fun f =>
    f.extractLsb' 8 44 == e.extractLsb' 8 44 && f.extractLsb' 52 2 != 0 && f.extractLsb' 56 8 == e.extractLsb' 56 8

/-- The page stands folded: its slot is in use under a ply factor above 1 (R131, R132). Slot 0 is in use where another
slot is. -/
def State.foldedLeaf (s : State) (root : Nat) (e : Word) (p : Par) : Bool :=
  p.ply != 0 && (e.extractLsb' 52 2 != 0 || s.partnerOf root e)

/-- The entry of a walk's leaf, with its Page Attribute Record (R125, R126). -/
def State.entryOf (s : State) (u : TlbUnit) (k : MemKind) (asdPa : Nat) (d : Asd) (va : Nat) (l : Leaf) : Except Deny TlbEntry :=
  let size := 2 ^ levelShift l.level
  let pa := d.part + 8 * (l.entry.extractLsb' 56 8).toNat
  match s.tableLine k asdPa va pa l.level with
  | some e => .error e
  | none =>
    let w : Word := BitVec.ofNat 64 (s.natAt (s.homeOf pa) 8)
    if !parOk w then .error (denyFault 2 0x0104 k va false l.level 0)
    else .ok
      { unit := u, asd := asdPa, pasid := d.pasid, va := pageBase va size, size := size, pa := (l.entry.extractLsb' 8 44).toNat * 256
        leaf := l.pa, r := true, w := l.entry.getLsbD 2, x := l.entry.getLsbD 3, u := l.entry.getLsbD 4
        d := l.entry.getLsbD 6, mig := l.entry.getLsbD 7, pslot := (l.entry.extractLsb' 52 2).toNat
        folded := s.foldedLeaf (d.root / 2 ^ 21 * 2 ^ 21) l.entry (.ofWord w), ats := false, par := .ofWord w }

/-- A cached entry translates the address (R423). -/
def TlbEntry.hits (e : TlbEntry) (asdPa pasid va : Nat) (host : Bool) : Bool :=
  e.va ≤ va && va < e.va + e.size && e.ats == host && (if host then e.pasid == pasid else e.asd == asdPa)

/-- The cached translation of an address: of the agent's own TLB, or of the second-level TLB behind it (R423). -/
def State.tlbFind (s : State) (u : TlbUnit) (asdPa pasid va : Nat) (host : Bool) : Option TlbEntry :=
  let at' (v : TlbUnit) := s.tlb.find? fun e => e.unit == v && e.hits asdPa pasid va host
  match at' u with
  | some e => some e
  | none => at' u.up

/-- An entry enters a TLB in place of what the TLB holds for the page; the oldest entry that no access waits for leaves a full TLB (R125, R425). -/
def tlbPut (u : TlbUnit) (e : TlbEntry) (l : List TlbEntry) : List TlbEntry :=
  let mine := l.filter fun t => t.unit == u && !(t.va == e.va && t.size == e.size && t.asd == e.asd && t.ats == e.ats && t.pasid == e.pasid)
  let held := mine.filter TlbEntry.mig
  { e with unit := u } :: held ++ (mine.filter fun t => !t.mig).take (u.size - 1 - held.length) ++ l.filter fun t => t.unit != u

/-- Permission (R125): the refusing bit, V, W, X or U as 0 .. 3. -/
def TlbEntry.refuses (e : TlbEntry) (k : MemKind) : Option Nat :=
  if !e.r && !(k == .write) then some 0
  else if k.writes && !e.w then some 1
  else if k == .fetch && !e.x then some 2
  else if !e.u then some 3
  else none

/-- No cached translation for an address of a host range (R420, R423): the access waits for the host, unless the host's refusal
is on its way to it (R424, R458); a provisional hank makes no request (R206). -/
def State.hostMiss (s : State) (asdPa pasid : Nat) (prov : Bool) (k : MemKind) (va : Nat) : Deny :=
  match s.deny with
  | some (.page p base size cause) =>
    if p = pasid ∧ base ≤ va ∧ va < base + size ∧ !prov then
      { rank := 6
        stop := if cause = 0x0101 ∨ cause = 0x0100 then .fault cause (BitVec.ofNat 64 va) (memInfo k true 0 pasid)
                else .fatal cause (BitVec.ofNat 64 va) (memInfo k true 0 pasid) }
    else { rank := 6, stop := if prov then .wait .provisional else .wait (.memory 0x0109 asdPa va k.code) }
  | _ => { rank := 6, stop := if prov then .wait .provisional else .wait (.memory 0x0109 asdPa va k.code) }

/-- The page of an address of an address space, for an access by way of TLB `u` (R106, R124, R125, R423): a cached entry, or the
one that a walk gives, with the entries read on the way. A host page takes the attributes of HPAR (log entry 59). -/
def State.findPage (s : State) (u : TlbUnit) (asdPa : Nat) (prov : Bool) (k : MemKind) (vaw : Word) :
    Except Deny (TlbEntry × Option (List WalkEntry)) :=
  let va := vaw.toNat
  if !canonical vaw then .error (denyFault 1 0x0100 k va false 0 0)
  else
    let d := s.asd asdPa
    let host := d.isHost va
    match s.tlbFind u asdPa d.pasid va host with
    | some e =>
      let w : Word := BitVec.ofNat 64 (s.natAt (s.homeOf (d.part + 8 * d.hpar)) 8)
      .ok (if host then { e with par := .ofWord w } else e, none)
    | none =>
      if host then .error (s.hostMiss asdPa d.pasid prov k va)
      else match s.walk k u.bob asdPa va 3 (d.root / 2 ^ 21 * 2 ^ 21) with
        | .error x => .error x
        | .ok l => (s.entryOf u k asdPa d va l).map fun e => (e, some l.path)

/-- Translates an address of an address space for a compute context or its engine (R106, R124, R125, R421, R423). A
provisional hank sets no A or D bit and makes no page request (R206). -/
def State.xlate (s : State) (u : TlbUnit) (asdPa : Nat) (prov : Bool) (k : MemKind) (vaw : Word) : Except Deny Xlate :=
  match s.findPage u asdPa prov k vaw with
  | .error d => .error d
  | .ok (e, path) =>
    let va := vaw.toNat
    let raw := e.pa + (va - e.va)
    let pasid := if e.ats then e.pasid else 0
    if s.region raw == .outside then .error (denyFault 1 0x0100 k va e.ats 0 pasid)
    else if e.mig then .error { rank := 3, stop := .wait (.memory 0x0105 asdPa va k.code) }
    else match e.refuses k with
      | some b =>
        -- R458: a store asks once more for write before the cause stands
        if e.ats && b = 1 && !e.d then
          .error { rank := 6, stop := if prov then .wait .provisional else .wait (.memory 0x0109 asdPa va k.code) }
        else .error (denyFault 4 0x0102 k va e.ats b pasid)
      | none =>
        let setD := !e.ats && k.writes && !e.d
        let setA := path.isSome && !(BitVec.ofNat 64 (s.natAt e.leaf 8) : Word).getLsbD 5
        if prov && (setA || setD) then .error { rank := 5, stop := .wait .provisional }
        else
          -- R122: a line of host memory carries no tag
          let e := if s.region raw == .host then { e with par := { e.par with typed := false } } else e
          .ok { va := va, pa := s.homeOf raw, raw := raw, unit := u, host := e.ats, entry := e, walked := path.isSome
                path := path.getD [], setD := setD }

/-- The blocks that the translation of an address reads are checked before it reads them (R72, R73, R432). -/
def State.prewalk (s : State) (u : TlbUnit) (asdPa : Nat) (vaw : Word) : State :=
  if !canonical vaw || (s.tlbFind u asdPa (s.asd asdPa).pasid vaw.toNat ((s.asd asdPa).isHost vaw.toNat)).isSome then s
  else
    let s1 := s.scrub asdPa
    let d := s1.asd asdPa
    if d.isHost vaw.toNat then s1.scrub (d.part + 8 * d.hpar)
    else s1.scrubWalk u.bob asdPa vaw.toNat d.part 3 (d.root / 2 ^ 21 * 2 ^ 21)

/-- Sets bits of a leaf entry in memory, one atomic write of its block (R72, R125: A and D). -/
def State.setLeafBits (s : State) (leaf : Nat) (bits : Nat) : State :=
  let data := leBytes 1 ((s.byteAt leaf).toNat ||| bits)
  if (s.region leaf).tagged then
    match (s.lineAt leaf).storePhys (leaf % 128) data with
    | some l => s.putLine leaf l
    | none => s
  else s.setBytes leaf data

/-- An entry of the walk cache replaces the one for the same place. -/
def walkPut (l : List WalkEntry) (e : WalkEntry) : List WalkEntry :=
  e :: l.filter fun t => !(t.asd == e.asd && t.level == e.level && t.idx == e.idx)

/-- What a completed translation does: the TLBs and the walk cache hold what it found, A is set, and D for a store (R125). -/
def State.useXlate (s : State) (x : Xlate) : State :=
  let e := if x.setD then { x.entry with d := true } else x.entry
  let s1 := if x.walked then s.setLeafBits e.leaf 0x20 else s
  let s2 := if x.setD then s1.setLeafBits e.leaf 0x40 else s1
  if x.walked then
    { s2 with tlb := tlbPut x.unit e (tlbPut x.unit.up e s2.tlb)
              walkCache := if x.path.isEmpty then s2.walkCache else s2.walkCache.modify [] x.unit.bob fun l => x.path.foldl walkPut l }
  else if x.setD then { s2 with tlb := tlbPut x.unit e (s2.tlb.map fun t => if t = x.entry then e else t) }
  else if x.entry.unit ≠ x.unit then { s2 with tlb := tlbPut x.unit e s2.tlb }
  else s2

/-- Applies every translation of an access. -/
def State.useAll (s : State) (xs : List Xlate) : State := xs.foldl State.useXlate s

/-- A translation with MIG set is held, so that the access waits until a TLBI removes it (R425). -/
def State.holdMig (s : State) (u : TlbUnit) (asdPa : Nat) (va : Nat) : State :=
  match s.findPage u asdPa false .read (BitVec.ofNat 64 va) with
  | .ok (e, some _) => if e.mig then { s with tlb := tlbPut u e (tlbPut u.up e s.tlb) } else s
  | _ => s

/-- What an agent's wait leaves behind: a translation with MIG set is held (R425), and for a line that the host owns the home sends
its snoop (R427). -/
def State.agentHolds (s : State) (u : TlbUnit) (w : WaitFor) : State :=
  match w with
  | .memory 0x0105 asd va _ => s.holdMig u asd va
  | .host pa _ _ _ => if s.snoops.get 0 (pa / 128) = 0 then { s with snoops := s.snoops.set 0 (pa / 128) (s.timeNs + 1) } else s
  | _ => s

/-- The deciding failure of one access (R421): the first rank, then the lowest element. -/
def worst : List Deny → Option Deny
  | [] => none
  | d :: t =>
    match worst t with
    | none => some d
    | some e => if e.rank < d.rank then some e else some d

/-- Every result, or the deciding failure. -/
def allOk {α : Type} (l : List (Except Deny α)) : Except Deny (List α) :=
  match worst (l.filterMap fun x => match x with
    | .error d => some d
    | .ok _ => none) with
  | some d => .error d
  | none => .ok (l.filterMap fun x => match x with
    | .error _ => none
    | .ok v => some v)

/-- The sectors of a frame line that belong to ply slot `k` under ply factor `f`, as a line of their own (R132). -/
def Line.plied (l : Line) (f k : Nat) : Line :=
  let slot (i : Nat) : BitVec 8 := if i < 4 / f then l.tag.slot (k * 4 / f + i) else 0x7F
  { tag := { desc := l.tag.desc, sc := slot 3 ++ slot 2 ++ slot 1 ++ slot 0 }
    bytes := SMap.tabulate 0 (128 / f) fun i => l.byte (k * 128 / f + i) }

/-- The stored line behind a translated address, as the page shows it: a folded page shows its own sectors (R132), an
untyped page the tag of R127 or, in a block with PM set and where reads return poisoned data, the class POISON (R430, R431). -/
def State.pageLine (s : State) (x : Xlate) : Line :=
  let l := s.lineAt x.pa
  let p := x.par
  if !p.typed then
    let poisoned := if s.region x.pa == .hbm then (s.blockAt x.pa).pm && l.tag.vcls == 4 else s.extPoison.get false (x.pa / 128)
    let t := LineTag.untyped p.expf
    { l with tag := if poisoned then t.withClass 4 else t }
  else if !x.entry.folded then l
  else l.plied p.factor x.entry.pslot

/-- Writing the line would give a plied line a descriptor other than the shared one (R133). -/
def State.plyConflict (s : State) (x : Xlate) (l : Line) : Bool :=
  x.typed && x.entry.folded && l.tag.desc != (s.tagAt x.pa).desc

/-- Writes a page's line back to storage: an untyped page's tag storage is written only where a POISON line becomes VALID
(R127, R430), a folded page's own sectors alone (R132). -/
def State.putPageLine (s : State) (x : Xlate) (l : Line) : State :=
  let old := s.lineAt x.pa
  let p := x.par
  if s.region x.pa == .host then
    { s.setBytes (x.pa / 128 * 128) (l.bytes.getList 0 0 128) with extPoison := s.extPoison.filter fun q => q.1 != x.pa / 128 }
  else if !p.typed then
    let healed := s.region x.pa == .hbm && (s.blockAt x.pa).pm && old.tag.vcls == 4
    s.putLine x.pa { l with tag := if healed then l.tag else old.tag }
  else if !x.entry.folded then s.putLine x.pa l
  else
    let f := p.factor
    let k := x.entry.pslot
    let slot (i : Nat) : BitVec 8 :=
      if k * 4 / f ≤ i && i < (k + 1) * 4 / f then l.tag.slot (i - k * 4 / f) else old.tag.slot i
    s.putLine x.pa
      { tag := { desc := l.tag.desc, sc := slot 3 ++ slot 2 ++ slot 1 ++ slot 0 }
        bytes := SMap.setRange 0 old.bytes (k * 128 / f) (128 / f) fun i => l.byte (i - k * 128 / f) }

/-! ### Stores of a context -/

/-- The TLB of a context's spindle (R125). -/
def unitOf (slot : Nat) : TlbUnit := .spindle (spindleOf slot)

/-- A line of a context is written to memory (R118, R119). -/
def State.writeLine (s : State) (slot : Nat) (x : Xlate) (l : Line) : State :=
  (s.putPageLine x l).cacheWrite (spindleOf slot) (x.pa / 128)

/-- The page of a store that is still to be performed. -/
def LateStore.xlate (a : LateStore) : Xlate :=
  { va := a.va, pa := a.pa, raw := a.pa, unit := a.entry.unit, host := a.host, entry := a.entry, walked := false, path := [], setD := false }

/-- The bytes that a store holds, as a merge takes them. -/
def LateStore.held (a : LateStore) : PlbEntry :=
  { task := 0, wid := 0, asd := a.entry.asd, va := a.va / 128 * 128, tag := a.tag, bytes := a.bytes, mask := a.mask }

/-- A store that an agent's cluster has issued is performed: its bytes enter the line as it stands (R136, R138). -/
def State.performStore (s : State) (slot : Nat) (a : LateStore) : State :=
  (s.writeLine slot a.xlate ((s.pageLine a.xlate).merge a.xlate.par false a.held)).wakeLine a.pa

/-- Every store that a cluster of a context has issued is performed, in order. -/
def State.performStores (s : State) (slot : Nat) (c : Cl) : State :=
  if ((s.ctx slot).cl c).stores.isEmpty then s
  else (((s.ctx slot).cl c).stores.foldl (fun t a => t.performStore slot a) s).modCtx slot fun x => x.modCl c fun y => { y with stores := [] }

/-- Every store that a context has issued is performed. -/
def State.performAll (s : State) (slot : Nat) : State :=
  (((s.performStores slot .C).performStores slot .A).performStores slot .V).performStores slot .M

/-- Issued stores on which `f` holds are performed, with the other ones of their contexts. -/
def State.performWhere (s : State) (f : LateStore → Bool) : State :=
  (s.ctxs.filter fun p => Cl.all.any fun c => (p.2.cl c).stores.any f).foldl (fun t p => t.performAll p.1) s

end Sys2Proof.Machine
end

