-- ==== Sys2Proof/Machine/Release.lean ====
section
/-! DEFINITION. How a hank leaves its slot: banks, charges and frames returned, cancellation, squash, termination and the
completion of its task (R109, R162, R173, R175, R185, R211, R403, R444, R445). -/

namespace Sys2Proof.Machine

/-- The bank belongs to a context slot (0 or 1) of its spindle (R108). -/
def Bank.ownedBy (b : Bank) (k : Nat) : Bool :=
  match b with
  | .cache => false
  | .scratch i | .fifo i | .vreg i => i == k

/-- A bank of a spindle. -/
def State.bank (s : State) (spindle b : Nat) : Bank := s.banks.get .cache (spindle * 64 + b)
/-- The banks of a slot's spindle on which `f` holds. -/
def State.banksWith (s : State) (slot : Nat) (f : Bank → Bool) : List Nat :=
  (List.range 64).filter fun b => f (s.bank (spindleOf slot) b)

/-- Gives banks of a spindle a mode; their contents are discarded, so a bank that enters another mode holds zeros, and a way that
leaves CACHE is written back first (R110, R118). -/
def State.setBanks (s : State) (spindle : Nat) (bs : List Nat) (m : Bank) : State :=
  { s.dropWays spindle bs with
    banks := bs.foldl (fun t b => t.set .cache (spindle * 64 + b) m) s.banks
    spm := s.spm.filter fun p => !bs.any fun b => p.1 / 131072 == spindle * 64 + b }

/-- Returns every bank that a slot owns to CACHE (R109). -/
def State.freeBanks (s : State) (slot : Nat) : State :=
  s.setBanks (spindleOf slot) (s.banksWith slot fun b => b.ownedBy (slot % 2)) .cache

/-- A supervisor core that holds the slot as its target loses it (R402). -/
def State.withdraw (s : State) (slot : Nat) : State :=
  { s with sup := s.sup.map fun p => (p.1, if p.2.target = some slot then { p.2 with withdrawn := true } else p.2) }

/-- Frees a context slot: its banks return and its state vanishes (R109, R211). -/
def State.freeSlot (s : State) (slot : Nat) : State := (s.freeBanks slot).setCtx slot .free

/-- Discards the Provisional Line Buffer entries of a hank (R211, R403). -/
def State.dropHeld (s : State) (task : Nat) (wid : Word) : State :=
  (List.range 8).foldl
    (fun s b => { s with plb := s.plb.modify [] b fun l => l.filter fun e => !(e.task == task && e.wid == wid) }) s

/-- The charges left in a bobbin when a hank returns its own; a charge per task goes with the task's last hank (R175). -/
def Staging.release (x : Staging) (task : Nat) (wid : Word) : Staging :=
  let l := x.shared.filter fun e => !(e.1 == task && e.2.1 == wid.toNat + 1)
  { x with shared := if l.any fun e => e.1 == task && e.2.1 != 0 then l else l.filter fun e => e.1 != task }

/-- Returns a hank's L2 budget charge (R175). -/
def State.releaseCharge (s : State) (task : Nat) (wid : Word) : State :=
  (List.range 8).foldl (fun s b => { s with staging := s.staging.modify .initial b fun x => x.release task wid }) s

/-- The translations of a leaf entry leave every TLB. -/
def State.forgetLeaf (s : State) (leaf : Nat) : State := { s with tlb := s.tlb.filter fun e => e.leaf != leaf || e.ats }

/-- Writes a leaf with the frame's address and a ply slot, and MIG clear (R125, R133). -/
def State.writeLeaf (s : State) (src leaf frame slot : Nat) : State :=
  let e : Word := BitVec.ofNat 64 (s.natAt leaf 8)
  let keep : Word := e &&& 0xFFC000000000007F
  s.physWrite src leaf (leBytes 8 (keep.toNat + slot * 2 ^ 52 + frame / 256 * 256))

/-- Clears MIG in a leaf (R441). -/
def State.clearMig (s : State) (src leaf : Nat) : State := s.physWrite src leaf [s.byteAt leaf &&& 0x7F]

/-- The leaf still names the page that is being moved, with MIG set (R120, R125). -/
def State.leafMoving (s : State) (m : PageMove) : Bool :=
  let w : Word := BitVec.ofNat 64 (s.natAt m.leaf 8)
  w.getLsbD 0 && w.getLsbD 1 && w.getLsbD 7 && (w.extractLsb' 8 44).toNat * 256 == m.src

/-- Pages whose move has begun stay in the second tier, with MIG cleared (R441). -/
def State.abortMoves (s : State) (f : PageMove → Bool) : State :=
  (s.moves.filter f).foldl (fun t m =>
    (if t.leafMoving m then t.clearMig 0x600 m.leaf else t).forgetLeaf m.leaf)
    { s with moves := s.moves.filter fun m => !f m }

/-- Removes a hank that has left its last state, with its charge, its save frame and its pages' moves (R185, R211). -/
def State.dropHank (s : State) (h : Hank) : State :=
  let s1 := (s.releaseCharge h.task h.wid).abortMoves fun m => m.hank == some (h.task, h.wid)
  { s1 with
    hanks := s1.hanks.filter fun x => !(x.task == h.task && x.wid == h.wid)
    framesUsed := match h.frame with
      | some f => s1.framesUsed.filter (· != f)
      | none => s1.framesUsed }

/-- Adds to SPCANC (R213). -/
def State.countCancelled (s : State) (n : Nat) : State := s.modCreel fun c => { c with spcanc := c.spcanc + BitVec.ofNat 64 n }

/-- Adds to STGABNn (R442). -/
def State.countAbandoned (s : State) (b n : Nat) : State :=
  s.modCreel fun c => { c with stgabn := c.stgabn.set 0 b (c.stgabn.get 0 b + BitVec.ofNat 64 n) }

/-- Cancels a hank that has not been bound; a reserved slot is freed (R185, R211). -/
def State.cancel (s : State) (h : Hank) : State :=
  let s1 := match h.slot with
    | some k => s.freeSlot k
    | none => s
  (s1.dropHank h).countCancelled 1

/-- Squashes a hank that has been bound (R211). -/
def State.squash (s : State) (h : Hank) : State :=
  let s1 := s.dropHeld h.task h.wid
  let s2 := match h.slot with
    | some k => (s1.withdraw k).freeSlot k
    | none => s1
  (s2.dropHank h).modCreel fun c => { c with spsqsh := c.spsqsh + 1 }

/-- HEAD of a queue advances past released entries, in ring order; finished tasks that it has passed are forgotten (R162). -/
def State.advanceHead (s : State) (q : Nat) : Nat → State
  | 0 => s
  | n + 1 =>
    match s.tasks.find? fun t => t.queue == q && !t.passed with
    | some t =>
      if t.released then
        let s1 := s.setLq q (s.lqTail q) (s.lqHead q + 1)
        let s2 := { s1 with tasks := s1.tasks.map fun x => if x = t then { x with passed := true } else x }
        State.advanceHead { s2 with tasks := s2.tasks.filter fun x => !(x.done && x.passed) } q n
      else s
    | none => s

/-- Lets HEAD of a queue advance as far as it may, and forgets finished tasks (R162). -/
def State.tidyQueue (s : State) (q : Nat) : State :=
  let s1 := s.advanceHead q (s.tasks.length + 1)
  { s1 with tasks := s1.tasks.filter fun x => !(x.done && x.passed) }

/-- Writes STATUS of a task record, which wakes its waiters (R164, R173). -/
def State.writeStatus (s : State) (pa : Nat) (v : Byte) : State := s.physWrite 0x630 (pa + 3) [v]

/-- STATUS becomes DONE or FAILED once every hank of the task has left, and the message is sent (R173, R212, R377). -/
def State.checkTask (s : State) (pa : Nat) : State :=
  match s.findTask pa with
  | none => s
  | some t =>
    if !t.done && t.released && !s.hanks.any (fun h => h.task == pa) then
      (((s.writeStatus pa (if t.failed then 3 else 2)).message (8 + t.queue)).modTask pa
        fun x => { x with done := true }).tidyQueue t.queue
    else s

/-- The task fails: its hanks not yet bound are cancelled, and its provisional hanks squashed when a used descriptor has
not been learnt (R403 step 7, R444). -/
def State.failTask (s : State) (pa : Nat) : State :=
  match s.findTask pa with
  | none => s
  | some t =>
    let s1 := if t.failed then s else
      let a := s.countCancelled (if t.released then 0 else t.pendingCount t.bound)
      let b := (a.hanks.filter fun h => h.task == pa && h.state.early).foldl State.cancel a
      let c := if t.allLearnt then b else (b.hanks.filter fun h => h.task == pa && h.prov).foldl State.squash b
      (c.modTask pa fun x => { x with failed := true, released := true }).tidyQueue t.queue
    s1.checkTask pa

/-- A hank enters FAILED: its record is written, its resources have been returned, and its task fails (R403). -/
def State.failHank (s : State) (h : Hank) (r : Rec) : State := ((s.dropHank h).report r).failTask h.task

/-- The commands of a copy queue that have started and have not been stopped by a fault (R403 step 3, R434). -/
def startedOnly (l : List CopyEntry) : List CopyEntry :=
  l.filter fun e => match e with
    | .cmd c => c.started && !c.stalled
    | .fence _ => false

/-- The held class 3 records of a list, in order (R445). -/
def recordsOf (l : List Held) : List Rec :=
  l.filterMap fun x => match x with
    | .record r => some r
    | .fatal _ => none

/-- Records enter the error queues one after another. -/
def State.reportAll (s : State) (l : List Rec) : State := l.foldl State.report s

/-- Steps 5 to 8 of R403 for the dying context in a slot, once no started copy command is left. Class 3 records that its copy commands
have made meanwhile follow the class 4 record, whose TS is the earlier one (R399). -/
def State.finishDying (s : State) (slot : Nat) : State :=
  match (s.ctx slot).dying, s.hankAt slot with
  | some r, some h =>
    if (s.ctx slot).cq.all fun p => p.2.isEmpty then
      (((s.freeSlot slot).dropHank h).reportAll (r :: recordsOf (s.ctx slot).held)).failTask h.task
    else s
  | _, _ => s

/-- The context holds a class 4 error back (R445). -/
def Ctx.heldFatal (x : Ctx) : Bool :=
  x.held.any fun h => match h with
    | .fatal _ => true
    | .record _ => false

/-- A context is terminated with a class 4 record (R403); a provisional hank holds the error back (R445). -/
def State.terminate (s : State) (slot : Nat) (r : Rec) : State :=
  match (s.ctx slot).hank with
  | none => s
  | some (task, wid) =>
    let x := s.ctx slot
    if x.dying.isSome then s
    else if x.provisional then
      if x.heldFatal then s else s.modCtx slot fun x => { x with held := x.held ++ [.fatal r] }
    else
      let s1 := (((s.performAll slot).withdraw slot).dropHeld task wid).modCtx slot fun x =>
        { x with
          dying := some r, event := none, waiting := [], fences := []
          cq := (x.cq.map fun p => (p.1, startedOnly p.2)).filter fun p => !p.2.isEmpty }
      -- an abandoned save frees its frame (R186)
      let s2 : State := match s1.hankAt slot with
        | some h =>
          let s2 := { s1 with framesUsed := match h.frame with
            | some f => s1.framesUsed.filter (· != f)
            | none => s1.framesUsed }
          s2.modHank task wid fun h => { h with frame := none }
        | none => s1
      s2.finishDying slot

/-- The context may issue: no event outstanding, not dying, its Codebook Table read, no held class 4 error, and its hank
RUNNING. -/
def State.mayIssue (s : State) (slot : Nat) : Bool :=
  let x := s.ctx slot
  x.hank.isSome && x.event.isNone && x.dying.isNone && !x.cbtPending && !x.heldFatal
    && (s.hankAt slot).elim true fun h => h.state == .running

/-- A record about the hank of a slot (R395). -/
def State.ctxRec (s : State) (slot cls : Nat) (cause : BitVec 32) (pc addr info : Word) : Rec :=
  match (s.ctx slot).hank with
  | some (task, wid) =>
    { ts := s.timeNs, src := slot, cls := cls, cause := cause, task := task, hwid := wid, pc := pc, addr := addr, info := info }
  | none => { ts := s.timeNs, src := slot, cls := cls, cause := cause, task := 0, hwid := 0, pc := pc, addr := addr, info := info }

/-- A class 3 record whose source is a context: held while its hank is provisional (R445), and behind the class 4 record of a context
that is being terminated (R399). -/
def State.contained (s : State) (slot : Nat) (r : Rec) : State :=
  if (s.ctx slot).provisional || (s.ctx slot).dying.isSome then s.modCtx slot fun x => { x with held := x.held ++ [.record r] } else s.report r

end Sys2Proof.Machine
end

