-- ==== Sys2Proof/Machine/Ops.lean ====
section
/-! DEFINITION. The shared operations of every meaning: completing an instruction (R30, R33, R217), stopping it, taking a
supervisor event (R401, R409, R412 .. R414), returning from one (R358), and raw memory accesses (R257, R258, R476). -/

namespace Sys2Proof.Machine

/-- The answer of `exec` and `step`. -/
abbrev Answer := Host.Outcome State Fault Refusal

/-- A computation of a meaning: it reads and writes the state, and may stop. -/
abbrev Comp := ExceptT Stop (StateM State)

/-- Stops with a memory failure. -/
def deny {α : Type} (d : Deny) : Comp α := throw d.stop
/-- The result of a pure check, or its failure. -/
def ofDeny {α : Type} : Except Deny α → Comp α
  | .ok a => pure a
  | .error d => deny d
/-- Stops unless a condition holds. -/
def need (b : Bool) (x : Stop) : Comp Unit := if b then pure () else throw x
/-- Applies a function to the state. -/
def update (f : State → State) : Comp Unit := modify f

/-! ### Completing an instruction -/

/-- The instruction's wait, if any, has ended (R30). -/
def Cluster.proceed (x : Cluster) : Cluster :=
  { x with run := .running, wait := none, firstEffect := false, started := 0, lo := 0, hi := none, late := false }

/-- Moves past `len` bytes; in a reel the position follows, and the body begins again while trips are left (R317). -/
def Cluster.advance (x : Cluster) (len : Nat) : Cluster :=
  match x.reel with
  | none => { x with pc := x.pc + BitVec.ofNat 64 len }
  | some r =>
    let pos := r.pos + len / 4
    if pos < r.body.length then { x with pc := x.pc + BitVec.ofNat 64 len, reel := some { r with pos := pos } }
    else if r.trips ≤ 1 then { x with pc := x.pc + BitVec.ofNat 64 len, reel := none }
    else
      { x with
        pc := r.rpc + (if r.long then 8 else 4)
        reel := some { r with pos := 0, trips := r.trips - 1, elem := 0 } }

/-- The first convoy member at or after `j` that is not complete (R191). -/
def Cluster.openMember (x : Cluster) (n j : Nat) : Nat :=
  ((List.range' j (n - j)).find? fun i => x.start.get 0 i != 0xFFFF).getD n

/-- Goes to convoy member `j`, or past the convoy when no member is left (R230). -/
def Cluster.toMember (x : Cluster) (cv : Convoy) (j : Nat) : Cluster :=
  let k := x.openMember cv.members.length j
  if k < cv.members.length then { x with convoy := some { cv with next := k } }
  else ({ x with convoy := none, atConvoy := false, start := [] } : Cluster).advance (4 + 8 * cv.members.length)

/-- The member of the convoy, or 0 for a lone instruction, whose START counts for the executing instruction (R191). -/
def Cluster.member (x : Cluster) : Nat := x.convoy.elim 0 Convoy.next

/-- The instruction of `len` bytes completes: the next one, or the next convoy member, follows. -/
def Cluster.retire (x : Cluster) (len : Nat) : Cluster :=
  match x.convoy with
  | some cv => ({ x.proceed with start := x.start.set 0 cv.next 0xFFFF } : Cluster).toMember cv (cv.next + 1)
  | none => ({ x.proceed with start := [], atConvoy := false } : Cluster).advance len

/-- The executing cluster's instruction of `len` bytes completes. -/
def State.retire (s : State) (len : Nat) : State := s.modMe fun x => x.retire len

/-- The executing cluster's instruction completes by a jump (R254). -/
def State.jump (s : State) (target : Word) : State := s.modMe fun x => { x.proceed with pc := target }

/-- An instruction under its guard: nullified when the guard is false (R217). -/
def onGuard (g : Guard) (len : Nat) (s : State) (f : State → Answer) : Answer :=
  if s.guardTrue g then f s else .next (s.retire len)

/-! ### Stopping: events, traps and waits -/

/-- INFO[5:0] of a class 1 record: cluster, convoy member and reel (R409). -/
def State.infoLow (s : State) : Nat :=
  let x := s.me
  s.cl.code + (match x.convoy with
    | some cv => (cv.next + 1) * 4
    | none => 0) + (if x.reel.isSome then 32 else 0)

/-- A word with `v` at bit `k`. -/
def at_ (k v : Nat) : Word := BitVec.ofNat 64 (v * 2 ^ k)

/-- The illegal-operand trap (R410, R411): reason, format, operand and value. -/
def illegalOperand (reason : Nat) (value : Nat := 0) (operand : Nat := 7) (fmt : Nat := 0) (addr : Word := 0) : Stop :=
  .trap 0x0010 addr (at_ 16 reason ||| at_ 24 fmt ||| at_ 29 operand ||| at_ 32 (value % 2 ^ 32))

/-- An illegal encoding (R410, R411): reason and first parcel. -/
def illegalEncoding (reason : Nat) (parcel : Parcel) : Stop := .trap 0x0001 0 (at_ 16 reason ||| at_ 32 parcel.toNat)

/-- The class 4 record of a termination by an event (R401). -/
def Rec.terminated (r : Rec) (now : Nat) : Rec :=
  { r with ts := now, cls := 4, cause := 0x0401, info := (r.info &&& 0xFFFF) ||| (r.cause.setWidth 64 <<< 16) }

/-- The physical address of a slot's record in its bobbin's event ring (R401). -/
def State.eventSlot (s : State) (slot : Nat) : Nat := (s.creel.svring.get 0 (bobbinOf slot)).toNat + 64 * (slot % 120)

/-- Taking an exception: a class 1 or 2 event of a context (R401). The record enters the event ring and the context stops;
with SVVECn.EN clear the context is terminated at once; a second event of an engine waits. Stores issued before are performed. -/
def State.takeEvent (s : State) (slot : Nat) (r : Rec) (src : EventSource) : State :=
  let s := s.performAll slot
  let e : Event := { record := r, source := src, core := none, takenAt := 0 }
  match (s.ctx slot).event with
  | some _ => s.modCtx slot fun x => { x with waiting := x.waiting ++ [e] }
  | none =>
    if (s.creel.svvec.get 0 (bobbinOf slot)).getLsbD 0 then
      (s.physWrite slot (s.eventSlot slot) (r.bytes 0)).modCtx slot fun x => { x with event := some e }
    else s.terminate slot (r.terminated s.timeNs)

/-- A core that traps or faults is reset to idle; the target that it holds is terminated under cause 0x0404 (R402, R417). -/
def State.coreFault (s : State) (n : Nat) (cause : BitVec 32) : State :=
  let c := s.core n
  let s1 := s.setCore n .initial
  match c.target, c.withdrawn with
  | some k, false =>
    let (pc, low) := match (s1.ctx k).event with
      | some e => (e.record.pc, e.record.info &&& 3)
      | none => (0, 0)
    (s1.modCtx k fun x => { x with event := none }).terminate k
      (s1.ctxRec k 4 0x0404 pc 0 (low ||| (cause.setWidth 64 <<< 16) ||| (c.cl.pc.setWidth 32).setWidth 64 <<< 32))
  | _, _ => s1

/-- A convoy in progress stops: its header is issued again, and complete members are skipped (R413, R448). -/
def Cluster.leaveConvoy (x : Cluster) : Cluster :=
  match x.convoy with
  | some _ => { x with convoy := none, atConvoy := true }
  | none => x

/-- The executing agent's instruction stops. -/
def State.halt (s : State) (x : Stop) : State :=
  match s.cur, x with
  | .cluster k _, .wait w => (s.agentHolds (unitOf k) w).modMe fun y => { y with run := .waiting, wait := some w }
  | .sup n, .wait w => (s.agentHolds (.bobbin (n / 4)) w).modMe fun y => { y with run := .waiting, wait := some w }
  | .cluster k _, .trap cause addr info =>
    let r := s.ctxRec k 1 cause s.me.pc addr (info ||| BitVec.ofNat 64 s.infoLow)
    (s.modMe fun y => { y.leaveConvoy with run := .running, wait := none }).takeEvent k r .cluster
  | .cluster k c, .fault cause addr info =>
    let r := s.ctxRec k 2 cause s.me.pc addr (info ||| BitVec.ofNat 64 c.code)
    (s.modMe fun y => { y.leaveConvoy with run := .running, wait := none }).takeEvent k r .cluster
  | .cluster k c, .fatal cause addr info =>
    s.terminate k (s.ctxRec k 4 cause s.me.pc addr (info ||| BitVec.ofNat 64 c.code))
  | .sup n, .trap cause _ _ => s.coreFault n cause
  | .sup n, .fault cause _ _ => s.coreFault n cause
  | .sup n, .fatal cause _ _ => s.coreFault n cause

/-- Runs a meaning to its next state. -/
def finish (c : Comp Unit) (s : State) : Answer :=
  match (c.run.run s : Except Stop Unit × State) with
  | (.ok _, t) => .next t
  | (.error x, t) => .next (t.halt x)

/-- A meaning under its guard that completes by passing to the next instruction. -/
def run (g : Guard) (len : Nat) (c : Comp Unit) (s : State) : Answer :=
  onGuard g len s (finish do
    c
    update fun t => t.retire len)

/-- The event of a context ends and its target resumes; the engine event that waited longest is raised next (R358, R401). -/
def State.endEvent (s : State) (slot : Nat) : State :=
  let x := s.ctx slot
  match x.waiting with
  | [] => s.modCtx slot fun x => { x with event := none }
  | e :: t => (s.modCtx slot fun x => { x with event := none, waiting := t }).takeEvent slot e.record e.source

/-! ### Memory as the executing agent sees it -/

/-- The executing context is provisional (R206). -/
def State.prov (s : State) : Bool := !s.isSup && s.myCtx.provisional

/-- The Provisional Line Buffer entry of a context for a line (R207). -/
def State.plbEntry (s : State) (slot va : Nat) : Option PlbEntry :=
  match (s.ctx slot).hank with
  | none => none
  | some (task, wid) =>
    (s.plb.get [] (bobbinOf slot)).find? fun e =>
      e.task == task && e.wid == wid && e.asd == (s.ctx slot).asd && e.va == va / 128 * 128

/-- The line behind an address, as a context sees it: its own held bytes stand in for memory's (R157). -/
def State.seenLine (s : State) (slot : Nat) (x : Xlate) : Line :=
  let l := s.pageLine x
  if (s.ctx slot).provisional then
    match s.plbEntry slot x.va with
    | some e => l.merge x.par x.typed e
    | none => l
  else l

/-- A misaligned address: rank 5 of R421. -/
def State.misaligned (s : State) (slot : Nat) (k : MemKind) (va : Word) : Deny :=
  let d := s.asd (s.ctx slot).asd
  let host := d.isHost va.toNat
  denyFault 5 0x0103 k va.toNat host 0 (if host then d.pasid else 0)

/-- One access of a context: translation and alignment in the order of R421. -/
def State.access (s : State) (slot : Nat) (k : MemKind) (va : Word) (aligned : Bool) : Except Deny Xlate :=
  let x := s.ctx slot
  match s.xlate (unitOf slot) x.asd x.provisional k va, aligned with
  | .error d, false => .error (if d.rank < 5 then d else s.misaligned slot k va)
  | .ok _, false => .error (s.misaligned slot k va)
  | r, true => r

/-- A line cannot be reached: it is owned by the host (R427), or the link to it is down (R469). -/
def State.reach (s : State) (slot : Nat) (k : MemKind) (x : Xlate) : Except Deny Unit :=
  if s.ownedByHost x.pa then .error (s.hostLine 7 k x.pa (s.ctx slot).asd x.va x.host)
  else if !s.linked x.raw then .error { rank := 7, stop := .fatal 0x0302 (BitVec.ofNat 64 x.va) (memInfo k x.host 0 0) }
  else .ok ()

/-- A line error as a failure at rank 8 (R421); errors that are traps stand with `late`. -/
def lineDeny (k : MemKind) (x : Xlate) (late : LineErr → Stop) (e : LineErr) : Deny :=
  match e with
  | .cause c => denyFault 8 c k x.va x.host 0 0
  | .transit => { rank := 9, stop := .wait (.transit x.pa) }
  | e => { rank := 10, stop := late e }

/-- No late check applies to a raw access. -/
def noLate (_ : LineErr) : Stop := .wait .load

/-- The block of HBM4, or elsewhere the line, that an access reads. -/
def State.readUnit (s : State) (pa : Nat) : Nat := if s.region pa == .hbm then pa / 512 * 512 else pa / 128 * 128

/-- The translations take effect, with A set, before the lines are read, each block once (R72, R432); D is set with the write
itself. -/
def State.touch (s : State) (xs : List Xlate) : State :=
  let s1 := s.useAll (xs.map fun x => { x with setD := false })
  ((xs.map fun x => s.readUnit x.pa).eraseDups).foldl State.scrub s1

/-- The record and the flag of zero-substituted POISON lines (R354, R429, R463): one record per block. -/
def State.noteZeroed (s : State) (slot : Nat) (pc : Word) (info : Word) (vas : List Nat) : State :=
  if vas.isEmpty then s
  else
    let s1 := s.modCtx slot fun x => { x with flags := x.flags ||| Flags.pzs }
    let lines := (vas.map fun v => v / 128).eraseDups
    let blocks := (lines.map fun v => v / 4).eraseDups
    blocks.foldl (fun t b =>
      let x := t.ctx slot
      if x.pzr == 2 || (x.pzr == 1 && x.pzrDone) then t
      else
        let n := (lines.filter fun v => v / 4 == b).length
        let r := t.ctxRec slot 3 0x0121 pc (BitVec.ofNat 64 (b * 512)) (info ||| at_ 32 n)
        (t.contained slot r).modCtx slot fun x => { x with pzrDone := true }) s1

/-- The address of the executing instruction's first parcel (R463). -/
def State.instrPc (s : State) : Word :=
  match s.me.convoy with
  | some cv => s.me.pc + BitVec.ofNat 64 (4 + 8 * cv.next)
  | none => s.me.pc

/-- INFO of the zero-substitutions that the executing cluster makes. -/
def State.zeroInfo (s : State) (k : MemKind) (x : Xlate) : Word :=
  BitVec.ofNat 64 s.cl.code ||| memInfo k x.host 0 0

/-- The records of host lines that an access reads and whose reads return poisoned data (R431). -/
def State.noteOutside (s : State) (slot : Nat) (pc info : Word) (k : MemKind) (xs : List Xlate) : State :=
  let hit := xs.filter fun x => s.region x.pa == .host && s.extPoison.get false (x.pa / 128)
  let first := hit.filter fun x => (hit.find? fun y => y.pa / 128 == x.pa / 128) == some x
  first.foldl (fun t x => t.contained slot (t.ctxRec slot 3 0x0124 pc (BitVec.ofNat 64 x.va) (info ||| memInfo k x.host 0 0))) s

/-- Which bytes of a line a store writes, given the mask and the line held before. -/
abbrev MaskUpdate := SMap Bool → Line → SMap Bool

/-- The bytes `off .. off + n − 1` are written. -/
def rawMask (off n : Nat) : MaskUpdate := fun m _ => m.setRange false off n fun _ => true

/-- Entries of one bobbin's Provisional Line Buffer (R207). -/
def plbSize : Nat := 32768

/-- The executing cluster's stores to the page are to be performed later (R138): never those of typed pages, whose elements no
byte mask parts (log entry 61). -/
def State.storesLate (s : State) (slot : Nat) (x : Xlate) : Bool := !s.isSup && s.slot == slot && s.me.late && !x.typed

/-- Writes a line of a context: to memory, or into the Provisional Line Buffer while its hank is provisional (R206, R207). -/
def State.commitLine (s : State) (slot : Nat) (x : Xlate) (l : Line) (mask : MaskUpdate) : Except Stop State :=
  let c := s.ctx slot
  match c.provisional, c.hank with
  | true, some (task, wid) =>
    let b := bobbinOf slot
    let old := s.plbEntry slot x.va
    let all := s.plb.get [] b
    let e : PlbEntry :=
      { task := task, wid := wid, asd := c.asd, va := x.va / 128 * 128, tag := l.tag, bytes := l.bytes
        mask := match old with
          | some o => mask o.mask { tag := o.tag, bytes := o.bytes }
          | none => mask [] l }
    match old with
    | some o => .ok { s with plb := s.plb.set [] b (all.map fun t => if t = o then e else t) }
    | none => if plbSize ≤ all.length then .error (.wait .plbSpace) else .ok { s with plb := s.plb.set [] b (all ++ [e]) }
  | _, _ =>
    if s.storesLate slot x then
      .ok (s.modMe fun y =>
        { y with stores := y.stores ++
            [({ va := x.va, pa := x.pa, host := x.host, entry := x.entry, tag := l.tag, bytes := l.bytes, mask := mask [] l } : LateStore)] })
    else .ok (s.writeLine slot x l)

/-- The pure result of a step of a meaning. -/
def ofStop {α : Type} : Except Stop α → Comp α
  | .ok a => pure a
  | .error x => throw x

/-- What a supervisor core meets at a physical address before the access is performed (R390, R401, R476). -/
def State.supCheck (s : State) (k : MemKind) (va : Word) (n : Nat) : Option Stop :=
  let pa := s.homeOf va.toNat
  if s.region va.toNat = .outside then some (.fault 0x0100 va (memInfo k false 0 0))
  else if s.region va.toNat = .creel then none
  else if pa % n ≠ 0 then some (.fault 0x0103 va (memInfo k false 0 0))
  else if s.ownedByHost pa then some (s.hostLine 7 k pa 0 va.toNat false).stop
  else if !s.linked va.toNat then some (.fatal 0x0302 va (memInfo k false 0 0))
  else if s.physClass pa n 3 then some (.wait (.transit pa))
  else none

/-- The lines of a range that a supervisor core reads are POISON, by their own class or by the poison mark of their block, or their
reads return poisoned data (R431, R476). -/
def State.supPoison (s : State) (pa n : Nat) : Bool :=
  s.physClass pa n 4 || (s.region pa == .host && s.extPoison.get false (pa / 128))

/-- A supervisor core reads `n` bytes by physical address; Creel registers answer 8-byte accesses (R390, R401). -/
def supLoad (k : MemKind) (va : Word) (n : Nat) : Comp Nat := do
  let s ← get
  match s.supCheck k va n with
  | some x => throw x
  | none =>
    if s.region va.toNat = .creel then
      pure (if n = 8 ∧ k = .read then (s.creelRead (va.toNat - creelBase)).toNat else 0)
    else
      let pa := s.homeOf va.toNat
      update fun t => t.scrub pa
      let t ← get
      need (!t.supPoison pa n) (.fault 0x0108 va (memInfo k false 0 0))
      return t.natAt pa n

/-- The write of EXPQ waits for the job record that it names: while the host owns its line, or an engine rewrites it (R427, R476). -/
def State.exportWait (s : State) (va : Word) (v : Nat) : Option WaitFor :=
  let pa := s.homeOf (v / 64 % 2 ^ 46 * 64)
  if va.toNat ≠ creelBase + 0x10488 then none
  else if s.ownedByHost pa then some (.host pa 0 pa 0)
  else if s.physClass pa 64 3 then some (.transit pa)
  else none

/-- The place of the last table entry that a walk for an address reads. -/
def State.walkEnd (s : State) (va : Nat) : Nat → Nat → Nat
  | level, table =>
    let a := s.homeOf (table + 8 * levelIndex va level)
    let e : Word := BitVec.ofNat 64 (s.natAt a 8)
    if !e.getLsbD 0 || e.getLsbD 1 then a
    else match level with
      | 0 => a
      | l + 1 => State.walkEnd s va l ((e.extractLsb' 8 44).toNat * 256)

/-- Supervisor code has changed the word at a physical address from `old`: where it was a valid leaf entry and V is now clear or
ADDR another, the lines still to be staged through it are marked until the TLBI (R436). `s` is the state before the write. -/
def State.noteLeaf (s t : State) (pa : Nat) : State :=
  let old : Word := BitVec.ofNat 64 (s.natAt pa 8)
  let new : Word := BitVec.ofNat 64 (t.natAt pa 8)
  if old.getLsbD 0 && old.getLsbD 1 && (!new.getLsbD 0 || new.extractLsb' 8 44 != old.extractLsb' 8 44) then
    { t with hanks := t.hanks.map fun h => match t.findTask h.task with
        | none => h
        | some k =>
          { h with doomed := h.doomed ++ k.body.regions.zipIdx.flatMap fun r =>
              ((h.linesLeft r.1 r.2).filter fun n =>
                s.walkEnd (h.lineVa r.1 n).toNat 3 ((s.asd k.body.asd).root / 2 ^ 21 * 2 ^ 21) == pa).map fun n => (r.2, n) } }
  else t

/-- A supervisor core writes `n` bytes by physical address (R390, R401, R476). -/
def supStore (core : Nat) (k : MemKind) (va : Word) (n v : Nat) : Comp Unit := do
  let s ← get
  match s.supCheck k va n with
  | some x => throw x
  | none =>
    if s.region va.toNat = .creel then
      match s.exportWait va v with
      | some w => throw (.wait w)
      | none => pure ()
      update fun t => if n = 8 ∧ k = .write then t.creelWrite (.supervisor core) (va.toNat - creelBase) (BitVec.ofNat 64 v) else t
    else update fun t => t.noteLeaf (t.physWrite (0x400 + core) va.toNat (leBytes n v)) (t.homeOf va.toNat / 8 * 8)

/-- One access of a context (R421): its translation takes effect, and the line can be reached and has been read. -/
def openAccess (slot : Nat) (k : MemKind) (va : Word) (aligned : Bool) : Comp Xlate := do
  update fun t => t.prewalk (unitOf slot) (t.ctx slot).asd va
  let s ← get
  let x ← ofDeny (s.access slot k va aligned)
  ofDeny (s.reach slot k x)
  update fun t => t.touch [x]
  pure x

/-- A context's raw read of `n` bytes at a multiple of `n` (R257, R258), and whether poison gave the zeros that it returns, with
INFO of the record that a completed instruction then makes (R429). -/
def ctxRead (slot : Nat) (k : MemKind) (va : Word) (n : Nat) : Comp (Nat × List (Word × Nat)) := do
  let x ← openAccess slot k va (va.toNat % n = 0)
  let t ← get
  if t.region x.pa = .creel then pure (0, [])
  else
    update fun t => t.noteOutside slot t.instrPc (BitVec.ofNat 64 t.cl.code) k [x]
    match (t.seenLine slot x).readRaw x.typed x.par.w x.par.ppol (x.va % 128) n with
    | .error e => deny (lineDeny k x noLate e)
    | .ok (v, z) => pure (v, if z then [(t.zeroInfo k x, x.va)] else [])

/-- The flag and the records of an instruction that completes (R429). -/
def noteReads (slot : Nat) (zs : List (Word × Nat)) : Comp Unit :=
  update fun t => t.noteZeroed slot t.instrPc ((zs.headD (0, 0)).1) (zs.map Prod.snd)

/-- A context's raw read whose instruction has no later check. -/
def ctxLoad (slot : Nat) (k : MemKind) (va : Word) (n : Nat) : Comp Nat := do
  let r ← ctxRead slot k va n
  noteReads slot r.2
  pure r.1

/-- A context's raw write of `n` bytes at a multiple of `n` (R257, R258). -/
def ctxStore (slot : Nat) (k : MemKind) (va : Word) (n v : Nat) : Comp Unit := do
  let x ← openAccess slot k va (va.toNat % n = 0)
  let t ← get
  if t.region x.pa = .creel then update fun t => t.useXlate { x with walked := false }
  else
    let off := x.va % 128
    match (t.seenLine slot x).storeRaw x.typed x.par.w x.par.ppol x.par.expf off (leBytes n v) with
    | .error e => deny (lineDeny k x noLate e)
    | .ok (l, z) =>
      if t.plyConflict x l then deny (denyFault 8 0x0106 k x.va x.host 0 0)
      let t1 ← ofStop (t.commitLine slot x l (rawMask off n))
      set ((t1.useXlate { x with walked := false }).modCtx slot fun c =>
        { c with flags := c.flags ||| Flags.when z Flags.pzs })

/-- The executing agent's raw read. -/
def load (k : MemKind) (va : Word) (n : Nat) : Comp Nat := do
  match (← get).cur with
  | .sup _ => supLoad k va n
  | .cluster slot _ => ctxLoad slot k va n

/-- The executing agent's raw read, with what the instruction is to note when it completes. -/
def loadQuiet (k : MemKind) (va : Word) (n : Nat) : Comp (Nat × List (Word × Nat)) := do
  match (← get).cur with
  | .sup _ => return (← supLoad k va n, [])
  | .cluster slot _ => ctxRead slot k va n

/-- The executing instruction completes: its zero-substitutions are noted (R429). -/
def noteMine (zs : List (Word × Nat)) : Comp Unit := do
  match (← get).cur with
  | .sup _ => pure ()
  | .cluster slot _ => noteReads slot zs

/-- The executing agent's raw write. -/
def store (k : MemKind) (va : Word) (n v : Nat) : Comp Unit := do
  match (← get).cur with
  | .sup c => supStore c k va n v
  | .cluster slot _ => ctxStore slot k va n v

end Sys2Proof.Machine
end

