-- ==== Sys2Proof/Machine/Operands.lean ====
section
/-! DEFINITION. Operand forms: queues and their entries (R35 .. R38, R65, R262, R225), vector sources and destinations
(R290 .. R295), masks (R292), lattice look-ups (R97) and rows in the scratchpad (R107). -/

namespace Sys2Proof.Machine

/-- A meaning whose checks and effects are one function of the state: it stops with nothing changed, or completes. -/
def settle (g : Guard) (len : Nat) (f : State → Except Stop State) (s : State) : Answer :=
  onGuard g len s fun s => match f s with
    | .ok t => .next (t.retire len)
    | .error x => .next (s.halt x)

/-- The first condition that does not hold stops. -/
def firstOf : List (Bool × Stop) → Except Stop Unit
  | [] => .ok ()
  | (b, x) :: t => if b then firstOf t else .error x

/-! ### Queues -/

/-- Queue `q` of a context. -/
def Ctx.queue (x : Ctx) (q : Nat) : Queue := x.queues.get .initial q
/-- Applies a function to queue `q` of a context. -/
def Ctx.modQueue (x : Ctx) (q : Nat) (f : Queue → Queue) : Ctx := { x with queues := x.queues.modify .initial q f }
/-- Queue `q` of the executing context. -/
def State.queue (s : State) (q : Nat) : Queue := s.myCtx.queue q
/-- Applies a function to queue `q` of the executing context. -/
def State.modQueue (s : State) (q : Nat) (f : Queue → Queue) : State := s.modMyCtx fun x => x.modQueue q f

/-- The code of a cluster as producer or consumer (R167). -/
def queueCode (c : Cl) : BitVec 3 := BitVec.ofNat 3 (c.code + 1)
/-- The code of the stream unit as producer (R167). -/
def streamCode : BitVec 3 := 5

/-- Element groups of 256 bytes that an entry occupies (R36). -/
def QEntry.groups (e : QEntry) : Nat :=
  if e.scal || e.count == 0 then 1 else (e.count * e.strip.tag.f.width + 2047) / 2048

/-- Element groups of a queue's banks (R36, R108). -/
def Queue.capacity (x : Queue) : Nat := x.nb.toNat * 512
/-- Free element groups (R272). -/
def Queue.free (x : Queue) : Nat := x.capacity - (x.entries.map QEntry.groups).sum
/-- The queue has space for entries behind all that have issued (R36, R267). -/
def Queue.fits (x : Queue) (es : List QEntry) : Bool :=
  x.unplaced.isEmpty && decide (x.entries.length + es.length ≤ 64) && decide ((es.map QEntry.groups).sum ≤ x.free)

/-- The end-of-stream entry (R37). -/
def QEntry.endOfStream : QEntry :=
  { scal := false, eos := true, count := 0, strip := { tag := { fmt := 0, vsum := vsVacant, blk := 0 }, elems := [], scales := [] }
    present := [], missing := [], inUse := false }

/-- The head of a queue: of a closed and drained queue, the end-of-stream entry (R37, R273). -/
def Queue.head (x : Queue) : Option QEntry :=
  match x.entries with
  | e :: _ => some e
  | [] => if x.closed && x.unplaced.isEmpty then some .endOfStream else none

/-- The head of a queue, once every element group of it has landed (R116, R267). -/
def Queue.ready (x : Queue) : Option QEntry := x.head.filter fun e => e.missing.isEmpty

/-- The queue after a pop. -/
def Queue.pop (x : Queue) : Queue := { x with entries := x.entries.tail }
/-- The queue after a push. -/
def Queue.push (x : Queue) (es : List QEntry) : Queue := { x with entries := x.entries ++ es }

/-- A scalar entry (R65, R271). -/
def QEntry.scalar (f : Fmt) (v : Word) : QEntry :=
  { scal := true, eos := false, count := 1
    strip := { tag := { fmt := f, vsum := vsValid, blk := 0 }, elems := SMap.set 0 [] 0 v, scales := [] }
    present := [(0, true)], missing := [], inUse := false }

/-- A vector entry of `n` elements, of which those with `p` are present; without any it carries VACANT (R65). -/
def QEntry.vector (x : Strip) (n : Nat) (p : Nat → Bool) : QEntry :=
  { scal := false, eos := false, count := n
    strip := if (List.range n).any p then x else { x with tag := { x.tag with vsum := vsVacant } }
    present := SMap.tabulate false n p, missing := [], inUse := false }

/-- The descriptor of an entry (R65). -/
def QEntry.desc (e : QEntry) : Word :=
  BitVec.ofNat 64 (e.scal.toNat * 2 ^ 34 + e.eos.toNat * 2 ^ 33 + e.count * 2 ^ 16 + e.strip.tag.blk.toNat * 2 ^ 8
    + e.strip.tag.vsum.toNat * 2 ^ 5 + e.strip.tag.fmt.toNat)

/-- Use of a queue with no banks, or by a cluster that is not its consumer (R36): the trap. -/
def State.popOk (s : State) (q : Nat) : Bool := (s.queue q).nb != 0 && (s.queue q).cons == queueCode s.cl
/-- The executing cluster is the queue's producer (R36). -/
def State.pushOk (s : State) (q : Nat) : Bool := (s.queue q).nb != 0 && (s.queue q).prod == queueCode s.cl

/-- The trap of reason 0x01 or 0x02 for a queue (R411). -/
def queueTrap (reason q : Nat) : Stop := illegalOperand reason q 4

/-- The queue-count mismatch trap (R410): queue, reason, the entry's COUNT, and VL or the data entry's COUNT. -/
def countTrap (q reason count vl : Nat) : Stop :=
  .trap 0x0012 0 (at_ 16 q ||| at_ 20 reason ||| at_ 24 count ||| at_ 41 vl)

/-- The checks of queue operands: configuration, then closure (R262, R408 step 3). -/
def State.queueChecks (s : State) (pops pushes : List Nat) : List (Bool × Stop) :=
  pops.map (fun q => (s.popOk q, queueTrap 0x01 q)) ++ pushes.map (fun q => (s.pushOk q, queueTrap 0x01 q))
    ++ pushes.map fun q => (!(s.queue q).closed, queueTrap 0x02 q)

/-- The head of a queue, or a wait for an entry (R36). -/
def State.headOf (s : State) (q : Nat) : Except Stop QEntry :=
  match (s.queue q).ready with
  | some e => .ok e
  | none => .error (.wait (.queueEntry q))

/-- Pops one entry from each of several queues, each queue once (R225). -/
def State.popAll (s : State) (qs : List Nat) : State := qs.eraseDups.foldl (fun t q => t.modQueue q Queue.pop) s

/-- Pushes entries, or waits for space (R36). -/
def State.pushWait (s : State) (q : Nat) (es : List QEntry) : Except Stop State :=
  if (s.queue q).fits es then .ok (s.modQueue q fun x => x.push es) else .error (.wait (.queueSpace q))

/-! ### Vector operands -/

/-- A vector field of an instruction: a register or, with `q`, a queue; and its operand code of R410. -/
structure VField where
  n : RegF
  q : Bool
  code : Nat
deriving DecidableEq, Repr

/-- A vector source as the instruction reads it. -/
structure VSrc where
  field : VField
  strip : Strip
  entry : Option QEntry

/-- A source's format. -/
abbrev VSrc.fmt (x : VSrc) : Fmt := x.strip.tag.fmt

/-- The field va. -/
def fieldA (a : RegF) (m : VMods) : VField := { n := a, q := m.qa, code := 1 }
/-- The field vb. -/
def fieldB (b : RegF) (m : VMods) : VField := { n := b, q := m.qb, code := 2 }
/-- The field vc. -/
def fieldC (m : VMods) : VField := { n := m.vc, q := m.qc, code := 3 }
/-- The field vd. -/
def fieldD (d : RegF) (m : VMods) : VField := { n := d, q := m.qd, code := 0 }

/-- The queues that fields name. -/
def queuesOf (l : List VField) : List Nat := (l.filter VField.q).map fun f => f.n.toNat

/-- A vector register of the executing context. -/
def State.vreg (s : State) (r : RegF) : Strip := (s.myCtx.vregs.get .initial r.toNat).strip
/-- Writes a vector register of the executing context. -/
def State.setVreg (s : State) (r : RegF) (x : Strip) : State :=
  s.modMyCtx fun c => { c with vregs := c.vregs.set .initial r.toNat { strip := x, missing := [] } }

/-- VL of the V cluster. -/
def State.vl (s : State) : Nat := s.myCtx.v.vl.toNat
/-- VLMAX of a format for the executing context (R58, R114). -/
def State.vlmax (s : State) (f : Fmt) : Nat := vlmaxOf f.width s.myCtx.vcap (s.laneCount s.slot)

/-- Reads one vector source; an empty queue makes the instruction wait (R225). -/
def State.readVec (s : State) (f : VField) : Except Stop VSrc :=
  if f.q then (s.headOf f.n.toNat).map fun e => { field := f, strip := e.strip, entry := some e }
  else .ok { field := f, strip := s.vreg f.n, entry := none }

/-- VL must not exceed the VLMAX of a format (R291, R411 reason 0x03). -/
def State.vlCheck (s : State) (f : Fmt) (operand : Nat) : Bool × Stop :=
  (decide (s.vl ≤ s.vlmax f), illegalOperand 0x03 (s.vlmax f) operand f.toNat)

/-- The VLMAX checks of the sources. -/
def State.vlChecks (s : State) (xs : List VSrc) : List (Bool × Stop) := xs.map fun x => s.vlCheck x.fmt x.field.code

/-- The sources that an instruction can read now: all but empty queues. -/
def State.known (s : State) (srcs : List VField) : List VSrc := srcs.filterMap fun f => (s.readVec f).toOption

/-- Checks the queue operands of an instruction and reads its vector sources (R225, R290). While a source queue is empty, the
checks `pre` that do not depend on it are made before the wait (R291, R408). -/
def State.openVec (s : State) (srcs dsts : List VField) (pre : List VSrc → List (Bool × Stop) := s.vlChecks) :
    Except Stop (List VSrc) := do
  firstOf (s.queueChecks (queuesOf srcs) (queuesOf dsts))
  match srcs.mapM s.readVec with
  | .ok xs => .ok xs
  | .error w =>
    firstOf (pre (s.known srcs))
    .error w

/-- A source's format is accepted (R411 reason 0x04). -/
def fmtCheck (x : VSrc) (ok : Fmt → Bool) : Bool × Stop :=
  (ok x.fmt, illegalOperand 0x04 0 x.field.code x.fmt.toNat)

/-- The kind and count checks of the queue sources (R225, R408 step 5). -/
def State.countChecks (s : State) (xs : List VSrc) : List (Bool × Stop) :=
  xs.filterMap fun x => x.entry.map fun e =>
    (!e.scal && e.count == s.vl && s.vl != 0, countTrap x.field.n.toNat (if e.scal then 1 else 0) e.count s.vl)

/-- The first iteration element that the instruction treats as active: ELEM of a reel (R318). -/
def State.reelElem (s : State) : Nat := (s.myCtx.v.reel.elim 0 fun r => r.elem.toNat)

/-- A mask bit. -/
def State.maskBit (s : State) (k i : Nat) : Bool := SMap.get false (s.myCtx.masks.get [] k) i
/-- Writes bits 0 .. n − 1 of a mask. -/
def State.setMask (s : State) (k n : Nat) (f : Nat → Bool) : State :=
  s.modMyCtx fun c => { c with masks := c.masks.modify [] k fun m => SMap.setRange false m 0 n f }

/-- The instruction acts on element `i`: not one below ELEM of a resumed iteration (R318), and of an instruction that resumes or
stops part-way only those between its START and its stop (R188, R191). -/
def State.reached (s : State) (i : Nat) : Bool :=
  decide (max s.reelElem s.myCtx.v.lo ≤ i) && s.myCtx.v.hi.all fun n => decide (i < n)

/-- Element `i` is active (R292, R318). -/
def State.active (s : State) (mask : BitVec 4) (i : Nat) : Bool :=
  decide (i < s.vl) && s.reached i && (mask == 15 || s.maskBit mask.toNat i)

/-- The active elements, in ascending order. -/
def State.actives (s : State) (mask : BitVec 4) : List Nat := (List.range s.vl).filter (s.active mask)

/-- SCN for the elements that an instruction decodes (R54, R294). -/
def scnOf (x : Strip) (is : List Nat) : Flags := Flags.all (is.map x.scn)

/-- A register destination keeps masked-off elements that would be converted into or out of NONE (R292, R475). -/
def State.keepCheck (s : State) (d : VField) (z : Bool) (act : Nat → Bool) (f : Fmt) : Bool × Stop :=
  (d.q || z || ((s.vreg d.n).tag.fmt == Fmt.none) == (f == Fmt.none) || (List.range s.vl).all act,
    illegalOperand 0x06 0 0 f.toNat)

/-- The summary of a computing instruction (R64). -/
def computedVsum (xs : List VSrc) (is : List Nat) : BitVec 3 :=
  if !is.isEmpty && xs.any (fun x => x.strip.tag.vsum == vsPoison) then vsPoison else vsValid

/-- What an instruction writes into a vector destination. -/
structure VResult where
  fmt : Fmt
  blk : Nat
  rm : Rm
  ef : Bool
  vsum : BitVec 3
  /-- The flags of the operation itself. -/
  flags : Flags
  /-- What is put at each active element. -/
  put : Nat → Put

/-- The scale slots of a block read as copies of its first granule's (R57). -/
def copySlots (f : Fmt) (blk : Nat) (l : SMap Byte) : SMap Byte :=
  if f.isScaled && blk != 0 then
    SMap.tabulate 0x7F (((l.getLast?.map Prod.fst).getD 0 / 2 ^ blk + 1) * 2 ^ blk) fun g => l.get 0x7F (g / 2 ^ blk * 2 ^ blk)
  else l

/-- The destination entry that a stopped instruction has begun to push, at the tail of its queue (R449). -/
def State.openEntry (s : State) (d : VField) : Option QEntry :=
  if s.myCtx.v.lo = 0 then none else ((s.queue d.n.toNat).entries.getLast?).filter QEntry.inUse

/-- What a vector destination holds before the instruction. -/
def State.oldStrip (s : State) (d : VField) (f : Fmt) : Strip :=
  if d.q then ((s.openEntry d).map QEntry.strip).getD { tag := { fmt := f, vsum := 0, blk := 0 }, elems := [], scales := [] }
  else s.vreg d.n

/-- How the elements of a destination are formed (R292, R293): of a register, with its old content, or of a queue entry. An
element that the instruction does not reach is not written. -/
def State.vecPlan (s : State) (d : VField) (z : Bool) (act : Nat → Bool) (r : VResult) : Plan :=
  let old := s.oldStrip d r.fmt
  { fmt := r.fmt, blk := r.blk, rm := r.rm, ef := r.ef, old := old
    put := fun i =>
      if act i then r.put i
      else if i < s.vl then
        (if d.q then (if i < s.myCtx.v.lo then .kept else .absent) else if z && s.reached i then .zeroed else .kept)
      else if old.tag.fmt == r.fmt then .kept else .absent }

/-- Pushes the entry that an instruction has formed, in place of the one that it had begun (R449). -/
def State.pushVec (s : State) (d : VField) (e : QEntry) : Except Stop State :=
  match s.openEntry d with
  | some o =>
    let all := { e with present := SMap.tabulate false e.count fun i => e.present.get false i || (decide (i < s.myCtx.v.lo) && o.present.get false i) }
    .ok (s.modQueue d.n.toNat fun x => { x with entries := x.entries.dropLast ++ [all] })
  | none => s.pushWait d.n.toNat [e]

/-- BLK of a result: 0 for an unscaled format (R55). -/
def VResult.blkCode (r : VResult) : BitVec 2 := if r.fmt.isScaled then BitVec.ofNat 2 r.blk else 0

/-- Writes a vector destination, its flags and EFC, and pops the sources, in one act (R225, R292 .. R294). With VL 0 a
register keeps data and tag, and a queue receives nothing. -/
def State.writeVec (s : State) (d : VField) (z : Bool) (act : Nat → Bool) (pops : List Nat) (r : VResult) :
    Except Stop State :=
  if s.vl = 0 then .ok ((s.popAll pops).orFlags r.flags)
  else
    let r := { r with blk := r.blkCode.toNat }
    let p := s.vecPlan d z act r
    let f := p.run s.vl (if d.q then s.vl else s.vlmax r.fmt) (s.myCtx.v.efc)
    -- the elements below START have kept their poison (R64, R191)
    let vsum := if s.myCtx.v.lo ≠ 0 ∧ p.old.tag.vsum = vsPoison then vsPoison else r.vsum
    let r := { r with vsum := vsum }
    let tag : VTag := { fmt := r.fmt, vsum := if r.vsum == vsVacant then vsZero else r.vsum, blk := r.blkCode }
    let x : Strip := { tag := tag, elems := f.elems, scales := if d.q then f.scales else copySlots r.fmt r.blk f.scales }
    let s1 := (s.popAll pops).orFlags (r.flags ||| f.flags)
    let s2 := if r.ef then s1.modMyCtx fun c => { c with v := { c.v with efc := f.res } } else s1
    if d.q then s2.pushVec d (QEntry.vector { x with tag := { tag with vsum := r.vsum } } s.vl act)
    else .ok (s2.setVreg d.n x)

/-! ### Lattice look-ups -/

/-- An entry of the context's lattice set (R96, R97). -/
def State.lookup (s : State) (a b : Fmt) : LatEntry := Lattice.entry (s.lattice.get none s.myCtx.latsel.toNat) a b

/-- The look-ups of a polymorphic instruction (R97): each pair with its entry, and the result format. -/
structure Poly where
  looks : List (Fmt × Fmt × LatEntry)
  act : Act
  /-- CF of the product operands. -/
  cf1 : Fmt
  /-- CF of the addend and of the result. -/
  cf : Fmt
  result : Fmt

/-- Looks up the entries for one, two or three operand formats (R97). -/
def State.poly (s : State) (fs : List Fmt) (ovr : Fmt) : Poly :=
  let fa := fs.headD 0
  let fb := (fs.drop 1).headD fa
  let e1 := s.lookup fa fb
  match fs.drop 2 with
  | [] => { looks := [(fa, fb, e1)], act := e1.act, cf1 := e1.cf, cf := e1.cf, result := if ovr = 0 then e1.result fa fb else ovr }
  | fc :: _ =>
    let e2 := s.lookup e1.cf fc
    { looks := [(fa, fb, e1), (e1.cf, fc, e2)], act := e2.act, cf1 := e1.cf, cf := e2.cf
      result := if ovr = 0 then e2.result e1.cf fc else ovr }

/-- The forbidden-pair trap (R410). -/
def pairTrap (a b : Fmt) (second unsuited : Bool) (set : BitVec 2) : Stop :=
  .trap 0x0011 0 (at_ 16 a.toNat ||| at_ 21 b.toNat ||| at_ 26 second.toNat ||| at_ 27 set.toNat ||| at_ 29 unsuited.toNat)

/-- No entry that the instruction uses is forbidden (R97). -/
def State.polyChecks (s : State) (p : Poly) : List (Bool × Stop) :=
  p.looks.zipIdx.map fun x => (x.1.2.2.act != .forbidden, pairTrap x.1.1 x.1.2.1 (x.2 == 1) false s.myCtx.latsel)

/-- BLK of a polymorphic result: of the first source whose format equals it (R97). -/
def polyBlk (xs : List VSrc) (r : Fmt) : Nat := ((xs.find? fun x => x.fmt == r).map fun x => x.strip.tag.blk.toNat).getD 0

/-! ### Scratchpad -/

/-- The bank of the scratchpad byte at an address, when it is a SCRATCH bank of a context (R107). -/
def State.spBank (s : State) (slot addr : Nat) : Bool :=
  decide (addr < 2 ^ 23) && s.bank (spindleOf slot) (addr / 131072) == .scratch (slot % 2)

/-- The scratchpad-range trap (R410): bank, reason and first address. -/
def spTrap (bank reason addr : Nat) : Stop := .trap 0x0016 (BitVec.ofNat 64 addr) (at_ 16 (bank % 64) ||| at_ 22 reason)

/-- A byte range lies in SCRATCH banks of the context (R107); reason 0 for its first bank, 3 for a later one. -/
def State.spCheck (s : State) (slot addr n : Nat) : Except Stop Unit :=
  match (List.range n).find? fun i => !s.spBank slot (addr + i) with
  | none => .ok ()
  | some i => .error (spTrap ((addr + i) / 131072) (if (addr + i) / 131072 = addr / 131072 then 0 else 3) (addr + i))

/-- The address of row `r`. -/
def rowAddr (a : Word) (stride : Int) (r : Nat) : Word := a + BitVec.ofInt 64 (r * stride)

/-- The scratchpad ranges of a copy command: first address and the one behind the last (R280, R282). -/
def CopyCmd.spRanges (c : CopyCmd) : List (Nat × Nat) :=
  if c.len = 0 then []
  else (List.range c.rows).flatMap fun r =>
    let side (sp : Bool) (a : Word) (stride : Int) : List (Nat × Nat) :=
      if sp then [((rowAddr a stride r).toNat, (rowAddr a stride r).toNat + c.len)] else []
    side c.dstSp c.dst c.dstr ++ side c.srcSp c.src c.sstr

/-- The scratchpad address of an offset into a context's SCRATCH banks, given in ascending order (R169). -/
def scratchAddr (banks : List Nat) (o : Nat) : Nat := banks.getD (o / 131072) 64 * 131072 + o % 131072

/-- The scratchpad lines that staging still has to copy for a hank (R154, R177). -/
def Hank.stagingRanges (h : Hank) (rs : List Region) (banks : List Nat) : List (Nat × Nat) :=
  rs.zipIdx.flatMap fun r =>
    if r.1.tgt = 1 ∧ r.1.acc ≠ 1 ∧ h.ended.get false r.2 = false then
      (h.linesLeft r.1 r.2).map fun i =>
        let a := scratchAddr banks ((r.1.soff + i) * 128)
        (a, a + 128)
    else []

/-- The scratchpad ranges that staging still has to copy for the context in a slot (R154). -/
def State.spStaging (s : State) (slot : Nat) : List (Nat × Nat) :=
  match s.hankAt slot with
  | some h =>
    h.stagingRanges ((s.findTask h.task).elim [] fun t => t.body.regions) (s.banksWith slot fun b => b == .scratch (slot % 2))
  | none => []

/-- The scratchpad ranges that engines still have to touch for the context in a slot (R153, R154). -/
def State.spRanges (s : State) (slot : Nat) : List (Nat × Nat) :=
  ((s.ctx slot).cq.flatMap fun p => p.2.flatMap fun e => match e with
    | .cmd c => c.spRanges
    | .fence _ => []) ++ s.spStaging slot

/-- Of two lists of ranges, some two overlap. -/
def rangesMeet (l m : List (Nat × Nat)) : Bool := l.any fun p => m.any fun q => p.1 < q.2 && q.1 < p.2

/-- A scratchpad access that overlaps such a range waits (R153; log entry 23). -/
def State.spFree (s : State) (slot : Nat) (l : List (Nat × Nat)) : Bool :=
  let busy := s.spRanges slot
  busy.isEmpty || !rangesMeet l busy

/-- The place of a scratchpad byte of a slot in the spindle's banks. -/
def spKey (slot addr : Nat) : Nat := spindleOf slot * 2 ^ 23 + addr % 2 ^ 23
/-- A scratchpad byte. -/
def State.spByte (s : State) (slot addr : Nat) : Byte := s.spm.get 0 (spKey slot addr)
/-- Writes scratchpad bytes. -/
def State.setSp (s : State) (slot addr : Nat) (l : List Byte) : State := { s with spm := s.spm.setList 0 (spKey slot addr) l }

end Sys2Proof.Machine
end

