-- ==== Sys2Proof/Machine/CopyTags.lean ====
section
/-! DEFINITION. Copy commands at issue, completion bitmaps, QFENCE, line tags and prefetch (majors 0x22 and 0x23 of the A
cluster; R151, R280 .. R289). -/

namespace Sys2Proof.Machine

/-- A copy queue of a context. -/
def Ctx.copyQueue (x : Ctx) (cq : Nat) : List CopyEntry := x.cq.get [] cq
/-- Entries that a copy queue holds (R280). -/
def copyDepth : Nat := 32

/-- The register operands of COPY and COPYT (R280, R282). -/
structure CopyArgs where
  dst : Word
  src : Word
  len : Nat
  rows : Nat
  sstr : Int
  dstr : Int
  dsp : Bool
  ssp : Bool
  signal : Option (Word × Word)

/-- The span of the destination in bytes (R280, R284). -/
def CopyArgs.span (x : CopyArgs) : Nat := if x.len = 0 then 0 else (x.rows - 1) * x.dstr.natAbs + x.len

/-- The chunks D[20:9] of a row of `len` bytes (R284). -/
def rowChunks (d : Word) (len : Nat) : List Nat :=
  if len = 0 then [] else (List.range ((d.toNat % 512 + len + 511) / 512)).map fun i => (d.toNat / 512 + i) % 4096

/-- The chunks of a command (R284). -/
def CopyArgs.chunks (x : CopyArgs) : List Nat :=
  ((List.range x.rows).flatMap fun r => rowChunks (rowAddr x.dst x.dstr r) x.len).eraseDups

/-- The scratchpad ranges of a command are legal (R107, R280). -/
def State.copySpace (s : State) (x : CopyArgs) : Except Stop Unit := do
  let side (sp : Bool) (a : Word) (stride : Int) : Except Stop Unit :=
    if sp then (List.range x.rows).forM fun r => s.spCheck s.slot (rowAddr a stride r).toNat x.len else .ok ()
  side x.dsp x.dst x.dstr
  side x.ssp x.src x.sstr

/-- Clears or sets bits of a completion bitmap of the executing context. -/
def Ctx.setBits (x : Ctx) (cb : Nat) (is : List Nat) (v : Bool) : Ctx :=
  { x with cb := x.cb.modify [] cb fun m => is.foldl (fun m i => SMap.set false m i v) m }

/-- COPY and COPYT at issue (R280, R282, R284): the checks, the wait for space, the bits cleared, and the command queued. -/
def issueCopy (cq : BitVec 2) (cb scope : BitVec 3) (args : State → CopyArgs) (s : State) : Except Stop State := do
  let x := args s
  let sig := x.signal.elim 0 fun p => p.1.toNat
  firstOf [(x.rows != 0, illegalOperand 0x0D x.rows 5), (decide (x.len ≤ 2097152), illegalOperand 0x0D x.len 0),
    (decide (x.span ≤ 2097152), illegalOperand 0x0D x.span 7), (sig % 8 == 0, illegalOperand 0x0E sig 5)]
  s.copySpace x
  firstOf [(x.dsp || !s.prov, .wait .provisional),
    (decide ((s.myCtx.copyQueue cq.toNat).length < copyDepth), .wait .copySpace)]
  let c : CopyCmd :=
    { pc := s.instrPc, dst := x.dst, src := x.src, len := x.len, cb := cb.toNat, scope := scope, signal := x.signal
      dstSp := x.dsp, srcSp := x.ssp, rows := x.rows, sstr := x.sstr, dstr := x.dstr, started := false, chunks := x.chunks
      zeroed := [], pzs := false, stalled := false, stopChunk := none }
  .ok (s.modMyCtx fun y =>
    { y.setBits cb.toNat x.chunks false with cq := y.cq.modify [] cq.toNat fun l => l ++ [.cmd c] })

/-- The signal of a command: none when the address register is s0 (R223). -/
def State.signalArg (s : State) (sx sv : RegF) : Option (Word × Word) := if sx = 0 then none else some (s.readS sx, s.readS sv)

/-- COPY (R280). -/
def execCopy (g : Guard) (len dst src : RegF) (cq : BitVec 2) (cb scope : BitVec 3) (sx sv : RegF) (dsp ssp : Bool) (s : State) :
    Answer :=
  settle g 8 (issueCopy cq cb scope fun s =>
    { dst := s.readS dst, src := s.readS src, len := (s.readS len).toNat, rows := 1, sstr := 0, dstr := 0, dsp := dsp, ssp := ssp
      signal := s.signalArg sx sv }) s

/-- COPYT (R282). -/
def execCopyt (g : Guard) (len dst src : RegF) (cq : BitVec 2) (cb scope : BitVec 3) (sx sv sh : RegF) (dsp ssp : Bool) (s : State) :
    Answer :=
  settle g 8 (issueCopy cq cb scope fun s =>
    { dst := s.readS dst, src := s.readS src, len := (s.readS len).toNat, rows := ((s.readS sh).extractLsb' 0 16).toNat
      sstr := ((s.readS sh).extractLsb' 16 24).toInt, dstr := ((s.readS sh).extractLsb' 40 24).toInt, dsp := dsp, ssp := ssp
      signal := s.signalArg sx sv }) s

/-! ### Completion bitmaps -/

/-- A completion bit. -/
def State.cbBit (s : State) (cb i : Nat) : Bool := SMap.get false (s.myCtx.cb.get [] cb) i

/-- First chunk plus count stays within 4,096 (R285). -/
def State.chunkCheck (s : State) (a b : RegF) : Bool × Stop :=
  let n := (s.readS a).toNat + (s.readS b).toNat
  (decide (n ≤ 4096), illegalOperand 0x0D n 1)

/-- The bits that an instruction names (R285). -/
def State.namedBits (s : State) (a b : RegF) : List Nat := List.range' (s.readS a).toNat (s.readS b).toNat

/-- CWAIT (R285). -/
def waitChunks (cb a b : RegF) (s : State) : Except Stop State := do
  firstOf [s.chunkCheck a b]
  firstOf [((s.namedBits a b).all fun i => s.cbBit cb.toNat i, .wait .chunks)]
  .ok s

/-- CWAIT (R285). -/
def execCwait (g : Guard) (cb a b : RegF) (s : State) : Answer := settle g 4 (waitChunks cb a b) s

/-- CTEST (R285). -/
def testChunks (d a b : RegF) (cb : BitVec 3) (s : State) : Except Stop State := do
  firstOf [s.chunkCheck a b]
  .ok (s.writeS d (BitVec.ofNat 64 ((s.namedBits a b).filter fun i => s.cbBit cb.toNat i).length))

/-- CTEST (R285). -/
def execCtest (g : Guard) (d a b : RegF) (cb : BitVec 3) (s : State) : Answer := settle g 8 (testChunks d a b cb) s

/-- CCLR (R285). -/
def clearChunks (cb a b : RegF) (s : State) : Except Stop State := do
  firstOf [s.chunkCheck a b]
  .ok (s.modMyCtx fun x => x.setBits cb.toNat (s.namedBits a b) false)

/-- CCLR (R285). -/
def execCclr (g : Guard) (cb a b : RegF) (s : State) : Answer := settle g 4 (clearChunks cb a b) s

/-- QFENCE (R151, R286): one entry in every named copy queue, and one fence in force for the named stream units. -/
def fenceQueues (cqs : BitVec 4) (qs : BitVec 16) (s : State) : Except Stop State := do
  let named := (List.range 4).filter fun c => cqs.getLsbD c
  firstOf (named.map fun c => (decide ((s.myCtx.copyQueue c).length < copyDepth), .wait .copySpace))
  let owed : BitVec 16 := BitVec.ofNat 16 (((List.range 16).map fun q =>
    (qs.getLsbD q && (s.queue q).stream.any fun y => y.flt).toNat * 2 ^ q).sum)
  .ok ({ s with fenceNo := s.fenceNo + 1 }.modMyCtx fun x =>
    { x with
      cq := named.foldl (fun m c => m.modify [] c fun l => l ++ [CopyEntry.fence s.fenceNo]) x.cq
      fences := x.fences ++ [({ id := s.fenceNo, cqs := cqs, qs := qs, owed := owed } : Fence)] })

/-- QFENCE (R286). -/
def execQfence (g : Guard) (cqs : BitVec 4) (qs : BitVec 16) (s : State) : Answer := settle g 8 (fenceQueues cqs qs) s

/-! ### Tags -/

/-- A tag as TAGRD and TAGSET lay it out (R287, R288). -/
def LineTag.word (t : LineTag) : Word := (0 : BitVec 16) ++ t.sc ++ t.desc

/-- TAGRD (R287). -/
def readTag (d a : RegF) : Comp Unit := do
  let s ← get
  let x ← openAccess s.slot .tagRead (s.readS a) true
  let t ← get
  let tag := if x.typed && t.region x.pa != .creel then (t.seenLine s.slot x).tag.norm x.par.w else .untyped x.par.expf
  set (t.writeS d tag.word)

/-- TAGRD (R287). -/
def execTagrd (g : Guard) (d a : RegF) (s : State) : Answer := run g 4 (readTag d a) s

/-- A tag value that TAGSET accepts (R288). -/
def tagOk (v : Word) : Bool :=
  let t : LineTag := { desc := v.extractLsb' 0 16, sc := v.extractLsb' 16 32 }
  v.extractLsb' 48 16 == 0 && t.vcls != 3 && t.vcls < 6 && t.fmt.allocated && t.blk != 3 && (t.blk == 0 || t.fmt.isScaled)
    && t.desc.extractLsb' 10 6 == 0

/-- TAGSET (R288). -/
def writeTag (a b : RegF) : Comp Unit := do
  let s ← get
  let v := s.readS b
  let t : LineTag := { desc := v.extractLsb' 0 16, sc := v.extractLsb' 16 32 }
  let bad := illegalOperand 0x09 v.toNat 2 t.fmt.toNat
  ofStop (firstOf [(tagOk v, bad)])
  let x ← openAccess s.slot .tagWrite (s.readS a) true
  let u ← get
  let l := { u.seenLine s.slot x with tag := t.norm x.par.w }
  if x.typed && (u.seenLine s.slot x).tag.cls x.typed x.par.w == .transit then deny { rank := 9, stop := .wait (.transit x.pa) }
  else if u.plyConflict x l then deny (denyFault 8 0x0106 .tagWrite x.va x.host 0 0)
  else if x.typed && !slotHolds t.fmt x.par.w then
    throw (.trap 0x0017 (BitVec.ofNat 64 (x.va / 128 * 128)) (at_ 16 t.fmt.toNat ||| at_ 21 x.par.slotw ||| at_ 23 1))
  else if !x.typed then throw bad
  else if u.region x.pa = .creel then pure ()
  else
    let w ← ofStop (u.commitLine s.slot x l (rawMask 0 128))
    set (w.useXlate { x with walked := false })

/-- TAGSET (R288). -/
def execTagset (g : Guard) (a b : RegF) (s : State) : Answer := run g 4 (writeTag a b) s

/-- PFL2 (R289): it changes no value that any read returns. -/
def execPfl2 (g : Guard) (_a _b : RegF) (s : State) : Answer := onGuard g 4 s fun s => .next (s.retire 4)

end Sys2Proof.Machine
end

