-- ==== Sys2Proof/Machine/ScalarMem.lean ====
section
/-! DEFINITION. Scalar loads, stores, acquires, releases, fences and atomics (R257 .. R261). Each access is one event in one
order of all agents, so an ordering attribute adds nothing to it (log entry 8). -/

namespace Sys2Proof.Machine

/-- The address of a load or store: base and scaled signed offset (R257). -/
def State.scaledAddr (s : State) (a : RegF) (off : BitVec 8) (size : Nat) : Word :=
  s.readS a + off.signExtend 64 * BitVec.ofNat 64 size

/-- A scalar load of `n` bytes, zero- or sign-extended (R257). -/
def scalarLoad (g : Guard) (d : RegF) (addr : State → Word) (n : Nat) (signed : Bool) (s : State) : Answer :=
  run g 4 (do
    let v ← load .read (addr s) n
    update fun t => t.writeS d (if signed then BitVec.ofInt 64 (if v < 2 ^ (8 * n - 1) then (v : Int) else (v : Int) - 2 ^ (8 * n))
      else BitVec.ofNat 64 v)) s

/-- A scalar store of the low `n` bytes (R257). -/
def scalarStore (g : Guard) (d : RegF) (addr : State → Word) (n : Nat) (s : State) : Answer :=
  run g 4 (store .write (addr s) n (s.readS d).toNat) s

/-- LDB (R257). -/
def execLdb (g : Guard) (d a : RegF) (off : BitVec 8) (s : State) : Answer := scalarLoad g d (·.scaledAddr a off 1) 1 true s
/-- LDBU (R257). -/
def execLdbu (g : Guard) (d a : RegF) (off : BitVec 8) (s : State) : Answer := scalarLoad g d (·.scaledAddr a off 1) 1 false s
/-- LDH (R257). -/
def execLdh (g : Guard) (d a : RegF) (off : BitVec 8) (s : State) : Answer := scalarLoad g d (·.scaledAddr a off 2) 2 true s
/-- LDHU (R257). -/
def execLdhu (g : Guard) (d a : RegF) (off : BitVec 8) (s : State) : Answer := scalarLoad g d (·.scaledAddr a off 2) 2 false s
/-- LDW (R257). -/
def execLdw (g : Guard) (d a : RegF) (off : BitVec 8) (s : State) : Answer := scalarLoad g d (·.scaledAddr a off 4) 4 true s
/-- LDWU (R257). -/
def execLdwu (g : Guard) (d a : RegF) (off : BitVec 8) (s : State) : Answer := scalarLoad g d (·.scaledAddr a off 4) 4 false s
/-- LDD (R257). -/
def execLdd (g : Guard) (d a : RegF) (off : BitVec 8) (s : State) : Answer := scalarLoad g d (·.scaledAddr a off 8) 8 false s
/-- STB (R257). -/
def execStb (g : Guard) (d a : RegF) (off : BitVec 8) (s : State) : Answer := scalarStore g d (·.scaledAddr a off 1) 1 s
/-- STH (R257). -/
def execSth (g : Guard) (d a : RegF) (off : BitVec 8) (s : State) : Answer := scalarStore g d (·.scaledAddr a off 2) 2 s
/-- STW (R257). -/
def execStw (g : Guard) (d a : RegF) (off : BitVec 8) (s : State) : Answer := scalarStore g d (·.scaledAddr a off 4) 4 s
/-- STD (R257). -/
def execStd (g : Guard) (d a : RegF) (off : BitVec 8) (s : State) : Answer := scalarStore g d (·.scaledAddr a off 8) 8 s

/-- LDACQ (R259). -/
def execLdacq (g : Guard) (d a : RegF) (_scope : BitVec 3) (s : State) : Answer := scalarLoad g d (·.readS a) 8 false s
/-- LDACQW (R259). -/
def execLdacqw (g : Guard) (d a : RegF) (_scope : BitVec 3) (s : State) : Answer := scalarLoad g d (·.readS a) 4 false s

/-- An action that waits while the executing hank is provisional (R206). -/
def confirmed : Comp Unit := do need (!(← get).prov) (.wait .provisional)

/-- A release store, which a provisional hank may not make (R206, R259). -/
def releaseStore (g : Guard) (d a : RegF) (n : Nat) (s : State) : Answer :=
  run g 4 (do
    confirmed
    store .write (s.readS a) n (s.readS d).toNat) s

/-- STREL (R259). -/
def execStrel (g : Guard) (d a : RegF) (_scope : BitVec 3) (s : State) : Answer := releaseStore g d a 8 s
/-- STRELW (R259). -/
def execStrelw (g : Guard) (d a : RegF) (_scope : BitVec 3) (s : State) : Answer := releaseStore g d a 4 s
/-- FENCE (R259): in one order of all agents it only passes on. -/
def execFence (g : Guard) (_scope : BitVec 3) (s : State) : Answer := onGuard g 4 s fun s => .next (s.retire 4)

/-- The read of an atomic on a context's line, and its write where there is one, on one line (R260, R261). -/
def ctxAtomic (slot : Nat) (va : Word) (n : Nat) (f : Nat → Option Nat) : Comp Nat := do
  confirmed
  let x ← openAccess slot .amo va (va.toNat % n = 0)
  let t ← get
  if t.region x.pa = .creel then pure 0
  else
    let off := x.va % 128
    update fun t => t.noteOutside slot t.instrPc (BitVec.ofNat 64 t.cl.code) .amo [x]
    match (t.seenLine slot x).readRaw x.typed x.par.w x.par.ppol off n with
    | .error e => deny (lineDeny .amo x noLate e)
    | .ok (old, z) =>
      match f old with
      | none => pure ()
      | some v =>
        match (t.seenLine slot x).storeRaw x.typed x.par.w x.par.ppol x.par.expf off (leBytes n v) with
        | .error e => deny (lineDeny .amo x noLate e)
        | .ok (l, _) =>
          let t ← get
          if t.plyConflict x l then deny (denyFault 8 0x0106 .amo x.va x.host 0 0)
          set ((← ofStop (t.commitLine slot x l (rawMask off n))).useXlate { x with walked := false })
      update fun t => t.noteZeroed slot t.instrPc (t.zeroInfo .amo x) (if z then [x.va] else [])
      pure old

/-- An atomic step of the executing agent. -/
def atomic (va : Word) (n : Nat) (f : Nat → Option Nat) : Comp Nat := do
  match (← get).cur with
  | .cluster slot _ => ctxAtomic slot va n f
  | .sup c =>
    let old ← supLoad .amo va n
    match f old with
    | none => pure ()
    | some v => supStore c .amo va n v
    pure old

/-- AMO and CAS (R260): `f c x old` is the value to write, if any, from comparand, operand and old value. -/
def amo (g : Guard) (d a b : RegF) (w : Bool) (f : Nat → Nat → Nat → Nat → Option Nat) (s : State) : Answer :=
  run g 8 (do
    let n := if w then 8 else 4
    let x := (s.readS b).toNat % 2 ^ (8 * n)
    let c := (s.readS d).toNat % 2 ^ (8 * n)
    let old ← atomic (s.readS a) n (f n c x)
    update fun t => t.writeS d (BitVec.ofInt 64 (toSigned (8 * n) old))) s

/-- AMOSWAP (R260). -/
def execAmoswap (g : Guard) (d a b : RegF) (_ord : BitVec 2) (_scope : BitVec 3) (w : Bool) (s : State) : Answer :=
  amo g d a b w (fun _ _ x _ => some x) s
/-- AMOADD (R260). -/
def execAmoadd (g : Guard) (d a b : RegF) (_ord : BitVec 2) (_scope : BitVec 3) (w : Bool) (s : State) : Answer :=
  amo g d a b w (fun n _ x old => some ((old + x) % 2 ^ (8 * n))) s
/-- AMOAND (R260). -/
def execAmoand (g : Guard) (d a b : RegF) (_ord : BitVec 2) (_scope : BitVec 3) (w : Bool) (s : State) : Answer :=
  amo g d a b w (fun _ _ x old => some (old &&& x)) s
/-- AMOOR (R260). -/
def execAmoor (g : Guard) (d a b : RegF) (_ord : BitVec 2) (_scope : BitVec 3) (w : Bool) (s : State) : Answer :=
  amo g d a b w (fun _ _ x old => some (old ||| x)) s
/-- AMOXOR (R260). -/
def execAmoxor (g : Guard) (d a b : RegF) (_ord : BitVec 2) (_scope : BitVec 3) (w : Bool) (s : State) : Answer :=
  amo g d a b w (fun _ _ x old => some (old ^^^ x)) s
/-- AMOMIN (R260). -/
def execAmomin (g : Guard) (d a b : RegF) (_ord : BitVec 2) (_scope : BitVec 3) (w : Bool) (s : State) : Answer :=
  amo g d a b w (fun n _ x old => some (if toSigned (8 * n) old ≤ toSigned (8 * n) x then old else x)) s
/-- AMOMAX (R260). -/
def execAmomax (g : Guard) (d a b : RegF) (_ord : BitVec 2) (_scope : BitVec 3) (w : Bool) (s : State) : Answer :=
  amo g d a b w (fun n _ x old => some (if toSigned (8 * n) old ≤ toSigned (8 * n) x then x else old)) s
/-- AMOMINU (R260). -/
def execAmominu (g : Guard) (d a b : RegF) (_ord : BitVec 2) (_scope : BitVec 3) (w : Bool) (s : State) : Answer :=
  amo g d a b w (fun _ _ x old => some (min old x)) s
/-- AMOMAXU (R260). -/
def execAmomaxu (g : Guard) (d a b : RegF) (_ord : BitVec 2) (_scope : BitVec 3) (w : Bool) (s : State) : Answer :=
  amo g d a b w (fun _ _ x old => some (max old x)) s
/-- CAS (R260). -/
def execCas (g : Guard) (d a b : RegF) (_ord : BitVec 2) (_scope : BitVec 3) (w : Bool) (s : State) : Answer :=
  amo g d a b w (fun _ c x old => if old = c then some x else none) s

end Sys2Proof.Machine
end

