-- ==== Sys2Proof/Machine/Agents.lean ====
section
/-! DEFINITION. Reads that the Task Front, the Carding Unit and the dispatcher make through a task's address space (R477). -/

namespace Sys2Proof.Machine

/-- One access of an agent through address space `asd` (R421, R477). -/
def State.asdAccess (s : State) (u : TlbUnit) (asd : Nat) (prov : Bool) (va : Word) (n : Nat) : Except Deny Xlate :=
  let d := s.asd asd
  let host := d.isHost va.toNat
  let bad := denyFault 5 0x0103 .read va.toNat host 0 (if host then d.pasid else 0)
  match s.xlate u asd prov .read va, decide (va.toNat % n = 0) with
  | .error e, false => .error (if e.rank < 5 then e else bad)
  | .ok _, false => .error bad
  | r, true => r

/-- The line behind an agent's access can be reached (R427, R469). -/
def State.asdReach (s : State) (asd : Nat) (x : Xlate) : Except Deny Unit :=
  if s.ownedByHost x.pa then .error (s.hostLine 7 .read x.pa asd x.va x.host)
  else if !s.linked x.raw then .error { rank := 7, stop := .fatal 0x0302 (BitVec.ofNat 64 x.va) (memInfo .read x.host 0 0) }
  else .ok ()

/-- The source number of the host port that carries the device's own traffic to the host: the lower one whose link is up (log
entry 27). -/
def State.hostSrc (s : State) : Nat := if s.linkUp 0 || !s.linkUp 1 then 0x640 else 0x641

/-- The record of a host line that an agent without a context reads and whose reads return poisoned data (R431). -/
def State.notePort (s : State) (x : Xlate) : State :=
  if s.region x.pa == .host && s.extPoison.get false (x.pa / 128) then
    s.report { s.recOf s.hostSrc 3 0x0124 x.va 0 with info := memInfo .read x.host 0 0 }
  else s

/-- Reads `n` bytes of one line through address space `asd`, raw (R258, R477), by way of TLB `u`; `n` is at most 128. -/
def asdLoad (u : TlbUnit) (asd : Nat) (prov : Bool) (va : Word) (n : Nat) : Comp Nat := do
  update fun t => t.prewalk u asd va
  let s ← get
  let x ← ofDeny (s.asdAccess u asd prov va n)
  ofDeny (s.asdReach asd x)
  update fun t => (t.touch [x]).notePort x
  let t ← get
  if t.region x.pa = .creel then pure 0
  else match (t.pageLine x).readRaw x.typed x.par.w x.par.ppol (x.va % 128) n with
    | .error e => deny (lineDeny .read x noLate e)
    | .ok v => pure v.1

/-- Reads `k` pieces of `n` bytes each from an address on. -/
def asdPieces (u : TlbUnit) (asd : Nat) (prov : Bool) (n : Nat) : Nat → Word → Comp (List Byte)
  | 0, _ => pure []
  | k + 1, va => do
    let v ← asdLoad u asd prov va n
    let t ← asdPieces u asd prov n k (va + BitVec.ofNat 64 n)
    pure (leBytes n v ++ t)

/-- How an agent's read ends: with a value, with a wait that the hardware resolves, or with a cause (R420). -/
inductive AgentRead (α : Type) where
  | value (v : α) (t : State)
  | wait (w : WaitFor) (t : State)
  | cause (c : BitVec 32) (fatal : Bool) (addr : Word) (t : State)

/-- Runs an agent's read. -/
def agentRead {α : Type} (c : Comp α) (s : State) : AgentRead α :=
  match (c.run.run s : Except Stop α × State) with
  | (.ok v, t) => .value v t
  | (.error (.wait w), t) => .wait w t
  | (.error (.fault c a _), t) => .cause c false a t
  | (.error (.trap c a _), t) => .cause c false a t
  | (.error (.fatal c a _), t) => .cause c true a t

/-- The address of an access as ADDR holds it, and the cause, as the fields of R439 need them. -/
def causeAt (field c : Nat) : Word := BitVec.ofNat 64 (field * 2 ^ 16 + c % 65536 * 2 ^ 32)

/-- A line that the Task Front reads by physical address cannot be used (R172). -/
def State.physBad (s : State) (pa n : Nat) : Bool :=
  (List.range ((pa % 128 + n + 127) / 128)).any fun i =>
    let a := pa + 128 * i
    (s.region a).tagged && (match (s.tagAt a).cls false 1 with
      | .poison | .invalid => true
      | _ => false)

end Sys2Proof.Machine
end

