-- ==== Sys2Proof/Machine/TaskFront.lean ====
section
/-! DEFINITION. The Task Front: taking records from the launch queues (R160 .. R172), predictions and learning (R199 .. R203),
wait conditions (R168), shape timeouts (R443) and admission (R174 .. R176, R204, R205). -/

namespace Sys2Proof.Machine

/-- The source number of the Task Front (R396). -/
def taskFrontSrc : Nat := 0x0630

/-- A record of the Task Front about a task (R395). -/
def State.frontRec (s : State) (cls : Nat) (cause : BitVec 32) (task : Nat) (addr info : Word) : Rec :=
  { ts := s.timeNs, src := taskFrontSrc, cls := cls, cause := cause, task := task, hwid := 0, pc := 0, addr := addr, info := info }

/-- The TLB by way of which the Task Front reads (R477; log entry 59). -/
def frontUnit : TlbUnit := .bobbin 0

/-! ### Task records -/

/-- A task record's fields from its 256 bytes, without its regions (R163 .. R170). -/
def taskOf (l : List Byte) : TaskRec :=
  let hdr := natIn l 0 8
  let levw := natIn l 8 8
  let res := natIn l 104 8
  let shape (d : Nat) : Option Shape :=
    let a := natIn l (224 + 16 * d) 8
    if a % 8 = 0 then none
    else some { va := a / 8 * 8, lvl := a % 8, floor := natIn l (232 + 16 * d) 4, cap := natIn l (236 + 16 * d) 4 }
  { site := hdr / 2 ^ 32 % 2 ^ 16, mode := SMap.tabulate 0 2 fun d => hdr / 2 ^ (48 + 2 * d) % 4
    skein := hdr / 2 ^ 20 % 8, bind := hdr / 2 ^ 16 % 8, width := SMap.tabulate 0 6 fun j => levw / 2 ^ (6 * j) % 64
    extent := SMap.tabulate 0 6 fun j => natIn l (16 + 8 * j) 8, marg := SMap.tabulate 0 2 fun d => levw / 2 ^ (36 + 12 * d) % 4096
    asd := natIn l 64 8, param := BitVec.ofNat 64 (natIn l 72 8), code := BitVec.ofNat 64 (natIn l 80 8)
    entry := SMap.tabulate 0 4 fun c => natIn l (88 + 4 * c) 4, nscr := res % 64, nfifo := res / 2 ^ 8 % 64, tosq := res / 2 ^ 16 % 128
    cbtp := natIn l 112 8, regions := [], qseed := SMap.tabulate 0 16 fun n => BitVec.ofNat 16 (natIn l (128 + 2 * n) 2)
    waits := (List.range 4).map fun k =>
      let a := natIn l (160 + 16 * k) 8
      { va := a / 8 * 8, op := a % 8, v := BitVec.ofNat 64 (natIn l (168 + 16 * k) 8) }
    shapes := SMap.tabulate none 2 shape }

/-- The fields of a queue seed (R167): producer, consumer, first bank and number of banks. -/
def seedFields (s : BitVec 16) : Nat × Nat × Nat × Nat :=
  (s.toNat % 8, s.toNat / 8 % 8, s.toNat / 64 % 64, s.toNat / 4096)

/-- The banks that a seed names (R167). -/
def seedBanks (s : BitVec 16) : List Nat := List.range' (seedFields s).2.2.1 (seedFields s).2.2.2

/-- The bits of an address with copies of bit 56 in bits [63:57] (R106). -/
def canonNat (a : Nat) : Bool := canonical (BitVec.ofNat 64 a)

/-- The offsets of the fields of the checks of R171 that fail on the header, the levels and the plain fields (R397). -/
def headerFaults (l : List Byte) (t : TaskRec) : List Nat :=
  let hdr := natIn l 0 8
  let res := natIn l 104 8
  let bad (b : Bool) (o : Nat) : List Nat := if b then [o] else []
  bad (hdr % 65536 != 1 || decide (4 < hdr / 2 ^ 24 % 256) || hdr.testBit 19 || hdr.testBit 23 || decide (2 ^ 52 ≤ hdr)
      || decide (6 < t.bind) || decide (t.skein < t.bind) || decide (6 < t.skein)) 0
    ++ bad (decide (2 ^ 60 ≤ natIn l 8 8) || decide (64 < ((List.range 6).map t.w).sum)) 8
    ++ (List.range 6).flatMap (fun j => bad (t.ext j == 0) (16 + 8 * j) ++ bad (decide (2 ^ t.w j < t.ext j)) 8)
    ++ bad (decide (120 < t.skeinSize)) 0
    ++ bad (t.asd % 64 != 0) 64
    ++ bad (t.code.toNat % 4 != 0) 80
    ++ bad (decide (2 ^ 23 ≤ res) || res / 2 ^ 6 % 4 != 0 || res / 2 ^ 14 % 4 != 0 || decide (60 < t.nscr + t.nfifo)
        || decide (64 < t.tosq)) 104
    ++ bad (t.cbtp % 1024 != 0) 112
    ++ bad (natIn l 120 8 / 16 % 16 != 0 || decide (8 < natIn l 120 8 % 16) || !canonNat (natIn l 120 8)) 120

/-- The failing checks of the queue seeds (R167). -/
def seedFaults (t : TaskRec) : List Nat :=
  (List.range 16).flatMap fun n =>
    let s := t.qseed.get 0 n
    if s = 0 then []
    else
      let (p, c, f, nb) := seedFields s
      (if t.nfifo < f + nb then [104] else [])
        ++ (if p = 0 ∨ 5 < p ∨ c = 0 ∨ 4 < c ∨ nb = 0 then [128 + 2 * n] else [])
        ++ ((List.range n).filter fun m => (seedBanks (t.qseed.get 0 m)).any fun b => (seedBanks s).contains b).map fun m => 128 + 2 * m

/-- The failing checks of the wait conditions (R168). -/
def waitFaults (l : List Byte) : List Nat :=
  (List.range 4).filterMap fun k =>
    let a := natIn l (160 + 16 * k) 8
    if a % 8 = 7 ∨ (a % 8 ≠ 0 ∧ canonNat a = false) then some (160 + 16 * k) else none

/-- The failing checks of the shape descriptors (R170). -/
def shapeFaults (l : List Byte) (t : TaskRec) : List Nat :=
  (List.range 2).flatMap fun d =>
    match t.shape d with
    | none => []
    | some x =>
      (if x.lvl = 7 ∨ canonNat (natIn l (224 + 16 * d) 8) = false then [224 + 16 * d] else [])
        ++ if x.lvl = 7 then []
      else
        (if x.level < t.skein then [0] else [])
          ++ (if 2 ^ t.w x.level < x.cap then [8] else [])
          ++ (if x.cap < x.floor then [224 + 16 * d] else [])
          ++ (if t.ext x.level ≠ x.cap then [16 + 8 * x.level] else [])
          ++ (if d = 1 ∧ (t.shape 0).any (fun y => y.lvl == x.lvl) then [224] else [])

/-- The address-space descriptor is well formed (R124, R171): it lies in device memory and can be read, the bits that its table calls
zero are zero, and HBASE is a multiple of 64 KiB. Reserved bytes are ignored (R7). R171 does not define the word: log entry 59. -/
def State.asdOk (s : State) (a : Nat) : Bool :=
  let w (i : Nat) : Nat := s.natAt (a + 8 * i) 8
  (match s.region a with
    | .hbm | .tier _ => true
    | _ => false)
    && s.linked a && !s.physBad a 64 && w 0 % 2 ^ 21 == 0 && w 1 % 2 ^ 11 == 0 && w 2 / 2 ^ 20 % 2 ^ 12 == 0 && w 3 % 2 ^ 16 == 0

/-- A region of a working-set list from its 32 bytes (R169). -/
def regionOf (l : List Byte) : Region :=
  let at' := natIn l 20 4
  { va := BitVec.ofNat 64 (natIn l 0 8), hstr := BitVec.ofNat 64 (natIn l 8 8), lines := natIn l 16 4, tgt := at' % 4
    req := at'.testBit 2, acc := at' / 8 % 4, spri := at' / 32 % 8, soff := at' / 65536 }

/-- A region that R169 accepts; the list's own reserved bytes are ignored (R7; log entry 59). -/
def regionOk (l : List Byte) : Bool :=
  let r := regionOf l
  r.va.toNat % 128 == 0 && r.hstr.toNat % 128 == 0 && decide (1 ≤ r.lines) && decide (r.lines ≤ 2 ^ 24) && r.tgt != 3 && r.acc != 3

/-- A SCRATCH region fits in the banks that the record asks for (R169). -/
def regionFits (nscr : Nat) (l : List Byte) : Bool :=
  let r := regionOf l
  r.tgt != 1 || decide ((r.soff + r.lines) * 128 ≤ nscr * 131072)

/-- The working-set list of a record (R169): its address and its number of regions. -/
def wsetOf (l : List Byte) : Word × Nat := (BitVec.ofNat 64 (natIn l 120 8 / 256 * 256), natIn l 120 8 % 16)

/-! ### Predictions and learning -/

/-- The entry of the predictor that serves a site (R201). -/
def State.pred (s : State) (site : Nat) : Pred := s.predictor.get .initial (site % 1024)

/-- A prediction before it is clamped (R202). -/
def predictRaw (mode floor cap marg : Nat) (h : List Nat) : Int :=
  if mode = 3 then floor + marg
  else match h with
    | [] => cap
    | a :: t =>
      if mode = 0 then a + marg
      else if mode = 1 then (a : Int) + marg + (match t with
        | b :: _ => (a : Int) - b
        | [] => 0)
      else (h.foldl max 0 : Nat) + marg

/-- P_d of R202. -/
def State.predict (s : State) (t : TaskRec) (d : Nat) (x : Shape) : Nat :=
  let e := s.pred t.site
  let h := if e.tag = t.site / 1024 then (if d = 0 then e.h0 else e.h1) else []
  (min (max (predictRaw (t.mode.get 0 d) x.floor x.cap (t.marg.get 0 d) h) x.floor) x.cap).toNat

/-- The update of the predictor at a learning moment (R203). -/
def Pred.learn (e : Pred) (tag d te : Nat) : Pred :=
  let e := if e.tag = tag then e else { tag := tag, h0 := [], h1 := [] }
  if d = 0 then { e with h0 := (te :: e.h0).take 4 } else { e with h1 := (te :: e.h1).take 4 }

/-- The learning moment of descriptor `d` with posted extent `v` (R199, R200, R203, R443): the predictor, the breach's record,
and X_d. -/
def State.learnShape (s : State) (pa d v : Nat) : State :=
  match s.findTask pa with
  | none => s
  | some t =>
    match t.body.shape d with
    | none => s
    | some x =>
      let te := x.effective v
      let s1 := { s with predictor := s.predictor.modify .initial (t.body.site % 1024) fun e => e.learn (t.body.site / 1024) d te }
      let s2 := if v < x.floor ∨ x.cap < v then
          s1.report (s1.frontRec 3 0x0210 pa (BitVec.ofNat 64 x.va) (BitVec.ofNat 64 (d * 2 ^ 16 + v % 2 ^ 32 * 2 ^ 32)))
        else s1
      s2.modTask pa fun t => { t with learnt := t.learnt.set none d (some te) }

/-- Fields of level `j` of firm hanks lie below this bound (R204). -/
def Task.firmBound (t : Task) (j : Nat) : Nat :=
  match t.descOf j with
  | some (d, x) => (t.learntOf d).getD x.floor
  | none => t.body.ext j

/-- A post to the shape word at a physical address (R199, R210): every task that has not yet learnt that extent learns it. Its
hanks in PENDING are confirmed, trimmed and tail-launched at once; the acts on the others follow. -/
def State.postTo (s : State) (pa d v : Nat) : State :=
  match s.findTask pa with
  | none => s
  | some t =>
    let s1 := s.learnShape pa d v
    match s1.findTask pa with
    | none => s1
    | some u =>
      let both (f : Nat → Nat) : Nat := t.pendingCount fun j => min (f j) (min (t.bound j) (u.bound j))
      let conf := both u.firmBound - both t.firmBound
      let trim := t.pendingCount t.bound - t.pendingCount fun j => min (t.bound j) (u.bound j)
      let tail := t.pendingCount u.bound - t.pendingCount fun j => min (t.bound j) (u.bound j)
      (s1.modCreel fun c =>
        { c with spconf := c.spconf + BitVec.ofNat 64 conf, spcanc := c.spcanc + BitVec.ofNat 64 trim
                 sptail := c.sptail + BitVec.ofNat 64 tail }).modTask pa fun x => { x with toAct := x.toAct.set false d true }

/-- The physical address at which a task's shape word stands: where its page is now, or else where it was at the ring read. -/
def State.shapeAt (s : State) (t : Task) (d va : Nat) : Nat :=
  match s.findPage frontUnit t.body.asd false .read (BitVec.ofNat 64 va) with
  | .ok (e, _) => s.homeOf (e.pa + (va - e.va))
  | .error _ => t.shapePa.get 0 d

/-- Descriptor `d` of a task still waits for its post at this physical address. -/
def State.awaits (s : State) (t : Task) (d pa : Nat) : Bool :=
  match t.body.shape d with
  | none => false
  | some x => !t.failed && !t.done && (t.learntOf d).isNone && s.shapeAt t d x.va == pa

/-- A SHPOST has been performed on the word at a physical address (R199). -/
def State.shapePosted (s : State) (pa v : Nat) : State :=
  s.tasks.foldl (fun u t => [0, 1].foldl (fun w d => if s.awaits t d pa then w.postTo t.pa d v else w) u) s

/-! ### Taking a record -/

/-- The tasks of a queue that HEAD has not passed, in ring order. -/
def State.queueTasks (s : State) (q : Nat) : List Task := s.tasks.filter fun t => t.queue == q && !t.passed

/-- A task as it is taken from the ring. -/
def Task.taken (pa q now : Nat) (body : TaskRec) : Task :=
  { pa := pa, queue := q, body := body, takenAt := now, met := SMap.tabulate false 4 fun k => (body.waits[k]?).any fun w => w.op == 0
    shapePa := [], learnt := [], predicted := [], toAct := [], next := 0, dispatched := false, released := false, passed := false, failed := false
    done := false }

/-- The ring passes an entry that starts no task (R162, R172). -/
def State.passEntry (s : State) (pa q : Nat) (body : TaskRec) : State :=
  State.tidyQueue { s with tasks := s.tasks ++ [{ Task.taken pa q s.timeNs body with released := true, done := true }] } q

/-- An entry that is not accepted (R172). -/
def State.notAccepted (s : State) (e q reason : Nat) : State :=
  (s.report (s.frontRec 4 0x0405 e 0 (at_ 16 reason))).passEntry e q (taskOf [])

/-- A rejected record (R171, R403). -/
def State.reject (s : State) (pa q off : Nat) (body : TaskRec) : State :=
  (((s.writeStatus pa 4).report (s.frontRec 4 0x0400 pa 0 (at_ 16 off))).message (8 + q)).passEntry pa q body

/-- The task fails at its ring read (R443): a wait word or shape word cannot be read. -/
def State.failRead (s : State) (pa which : Nat) (addr : Word) (cause : BitVec 32) : State :=
  (s.report (s.frontRec 4 0x0212 pa addr (causeAt which cause.toNat))).failTask pa

/-- The shape words at the ring read (R199, R202): learnt where posted, predicted from the entry as it stood before. -/
def readShapes (pa : Nat) (t : TaskRec) (s0 : State) : List Nat → State → Except WaitFor State
  | [], s => .ok s
  | d :: ds, s =>
    match t.shape d with
    | none => readShapes pa t s0 ds s
    | some x =>
      match agentRead (asdLoad frontUnit t.asd false (BitVec.ofNat 64 x.va) 8) s with
      | .wait w _ => .error w
      | .cause c _ _ u => .ok (u.failRead pa (4 + d) (BitVec.ofNat 64 x.va) c)
      | .value w u =>
        readShapes pa t s0 ds
          (if w.testBit 63 then u.learnShape pa d (w % 2 ^ 32)
           else u.modTask pa fun k =>
             { k with predicted := k.predicted.set 0 d (s0.predict t d x), shapePa := k.shapePa.set 0 d (u.shapeAt k d x.va) })

/-- Reads and checks the working-set list (R169, R397, R477): its regions, and the offsets of the fields in failing checks. -/
def readWset (l : List Byte) (t : TaskRec) (s : State) : AgentRead (List Region × List Nat) :=
  let (va, n) := wsetOf l
  match agentRead (asdPieces frontUnit t.asd false 32 n va) s with
  | .wait w u => .wait w u
  | .cause _ _ _ u => .value ([], [120]) u
  | .value b u =>
    let parts := (List.range n).map fun i => (b.drop (32 * i)).take 32
    .value (parts.map regionOf,
      (if parts.all regionOk then [] else [120]) ++ if parts.all (regionFits t.nscr) then [] else [104, 120]) u

/-- The task has had its last hank admitted (R162): every used descriptor is learnt and acted upon, and no launched hank is
left. -/
def Task.lastAdmitted (t : Task) : Bool := t.allLearnt && t.toAct.isEmpty && t.nextLaunched.isNone

/-- HEAD may pass the task once its last hank has been admitted (R162). -/
def State.releaseIfDone (s : State) (pa : Nat) : State :=
  match s.findTask pa with
  | none => s
  | some t =>
    if t.lastAdmitted && !t.released then ((s.modTask pa fun x => { x with released := true }).tidyQueue t.queue).checkTask pa
    else s

/-- An accepted record (R171): STATUS 1, and the ring read of its shape words. A task without a launched hank is over once all is
learnt (R212). -/
def State.accept (s : State) (pa q : Nat) (body : TaskRec) : State :=
  let s1 := s.writeStatus pa 1
  let s2 := { s1 with tasks := s1.tasks ++ [Task.taken pa q s1.timeNs body] }
  match readShapes pa body s2 [0, 1] s2 with
  | .ok t => t.releaseIfDone pa
  | .error w => s.agentHolds frontUnit w

/-- Checks a record that has been read (R171): nothing happens while one of its reads waits. -/
def State.judge (s0 : State) (pa q : Nat) (l : List Byte) : State :=
  let t := taskOf l
  let s := if t.asd % 64 = 0 then s0.scrub t.asd else s0
  if t.asd % 64 = 0 ∧ s.physHeldRange t.asd 64 then s else
  let bad := headerFaults l t ++ seedFaults t ++ waitFaults l ++ shapeFaults l t
    ++ if t.asd % 64 = 0 ∧ s.asdOk t.asd = false then [64] else []
  let low := bad.foldl min 65536
  if low ≤ 104 ∨ bad.contains 120 then s.reject pa q low t
  else match readWset l t s with
    | .wait w _ => s.agentHolds frontUnit w
    | .cause _ _ _ u => u.reject pa q (min low 120) t
    | .value (rs, off) u =>
      let low := off.foldl min low
      if low < 65536 then u.reject pa q low t else u.accept pa q { t with regions := rs }

/-- No earlier task of a queue still waits for its first dispatch: the queue's next task may be taken (R162; log entry 17). -/
def State.mayTake (s : State) (q : Nat) : Bool :=
  s.tasks.all fun t => t.queue != q || t.dispatched || t.failed || t.done

/-- TASK_TAKE (R171, R172): the Task Front takes the next entry of a queue. A record that is still a task waits (log
entry 17). -/
def State.takeTask (s : State) (q : Nat) : State :=
  let n := (s.queueTasks q).length
  if s.creel.ready && s.lqEnabled q && decide (q < 64) && decide (n < s.lqCount q) && s.mayTake q then
    let a := s.lqBase q + 8 * ((s.lqHead q + n) % s.lqSize q)
    let s1 := s.scrub a
    if s1.physHeldRange a 8 then s
    else if s1.physBad a 8 then s1.notAccepted 0 q 2
    else
      let e := s1.natAt a 8
      if e % 256 ≠ 0 then s1.notAccepted e q 0
      else if s1.region e ≠ .hbm then s1.notAccepted e q 1
      else
        let s2 := s1.scrub e
        if s2.physHeldRange e 256 || (s.findTask e).isSome then s
        else if s2.physBad e 256 then s2.notAccepted e q 2
        else s2.judge e q (s2.physRead e 256)
  else s

/-- TASK_TAKE (R171). -/
def execTaskTake (queue : Nat) (s : State) : Answer := .next (s.takeTask queue)

/-! ### Wait conditions and timeouts -/

/-- The test of a wait condition (R168). -/
def waitTest (op : Nat) (w v : Word) : Bool :=
  match op with
  | 0 => true
  | 1 => w == v
  | 2 => w != v
  | 3 => decide (v ≤ w)
  | 4 => decide (w < v)
  | 5 => decide (v.toInt ≤ w.toInt)
  | 6 => decide (w.toInt < v.toInt)
  | _ => false

/-- WAIT_CONDITION_RECHECK (R168): the Task Front reads a wait word, and a condition that is met stays met. -/
def State.recheckWait (s : State) (pa k : Nat) : State :=
  match s.findTask pa with
  | none => s
  | some t =>
    match t.body.waits[k]? with
    | none => s
    | some w =>
      if t.met.get false k || t.failed || t.done then s
      else match agentRead (asdLoad frontUnit t.body.asd false (BitVec.ofNat 64 w.va) 8) s with
        | .wait x _ => s.agentHolds frontUnit x
        | .cause c _ _ u => u.failRead pa k (BitVec.ofNat 64 w.va) c
        | .value x u =>
          if waitTest w.op (BitVec.ofNat 64 x) w.v then u.modTask pa fun t => { t with met := t.met.set false k true } else u

/-- WAIT_CONDITION_RECHECK (R168). -/
def execWaitConditionRecheck (task k : Nat) (s : State) : Answer := .next (s.recheckWait task k)

/-- SHAPE_TIMEOUT (R440, R443): a shape that has not been posted within SHTMO fails its task. -/
def State.shapeTimeout (s : State) (pa d : Nat) : State :=
  match s.findTask pa with
  | none => s
  | some t =>
    match t.body.shape d with
    | none => s
    | some x =>
      let lim := (s.creel.spcfg.extractLsb' 0 16).toNat
      if (t.learntOf d).isNone && !t.failed && !t.done && lim != 0 && decide (t.takenAt + lim * 1000000 ≤ s.timeNs) then
        (s.report (s.frontRec 4 0x0211 pa (BitVec.ofNat 64 x.va) (at_ 16 d))).failTask pa
      else s

/-- SHAPE_TIMEOUT (R443). -/
def execShapeTimeout (task d : Nat) (s : State) : Answer := .next (s.shapeTimeout task d)

/-- PREDCTL_CLR (R201): the Distaff or supervisor code writes PREDCTL. -/
def execPredctlClr (w : Writer) (value : Word) (s : State) : Answer :=
  .next (match w with
    | .hostPort _ => s
    | .distaff => if s.distaffRuns && value.getLsbD 0 then s.predClear else s
    | .supervisor _ => if value.getLsbD 0 then s.predClear else s)

/-! ### Admission -/

/-- The L2 regions of a task (R175). -/
def TaskRec.l2Lines (t : TaskRec) (perHank : Bool) : Nat :=
  ((t.regions.filter fun r => r.tgt == 0 && (r.hstr != 0) == perHank).map Region.lines).sum

/-- Lines charged in a bobbin (R175). -/
def State.charged (s : State) (b : Nat) : Nat := (((s.staging.get .initial b).shared).map fun e => e.2.2).sum

/-- STGBUDn (R175). -/
def State.stgbud (s : State) (b : Nat) : Word := s.creel.stgbud.get Creel.stgbudReset b
/-- The L2 budget of a bobbin in lines (R175). -/
def State.l2Budget (s : State) (b : Nat) : Nat := min 100 ((s.stgbud b).extractLsb' 0 7).toNat * 2097152 / 100

/-- The charge of `n` hanks of a task in a bobbin (R175). -/
def State.newCharge (s : State) (t : Task) (b n : Nat) : Nat :=
  n * t.body.l2Lines true
    + if (s.staging.get .initial b).shared.any fun e => e.1 == t.pa && e.2.1 == 0 then 0 else t.body.l2Lines false

/-- The mask of the pinned bind record of a site (R195). -/
def State.pinMask (s : State) (site : Nat) : BitVec 8 :=
  ((List.range 64).findSome? fun n =>
    let r := s.creel.bindrec.get 0 n
    if r.getLsbD 63 && (r.extractLsb' 32 16).toNat == site then some (r.extractLsb' 0 8) else none).getD 0xFF

/-- The bobbin is neither parked nor on its way to or from there (R176, R385). -/
def State.unparked (s : State) (b : Nat) : Bool :=
  !s.creel.parked.getLsbD b && !s.creel.parkReq.getLsbD b && !s.creel.parkBusy.getLsbD b

/-- The state holds a place under MAXADM (R175). -/
def HankState.admittedOnly : HankState → Bool
  | .admitted | .reserved | .ready => true
  | _ => false

/-- The hank counts in the load of its bobbin (R176). -/
def Hank.load (h : Hank) : Bool := h.state.admittedOnly || h.state == .running

/-- Hanks of a bobbin on which `f` holds. -/
def State.countHanks (s : State) (b : Nat) (f : Hank → Bool) : Nat := (s.hanks.filter fun h => h.bobbin == b && f h).length

/-- Context slots of a bobbin that are free or held by hanks of a class below `c` (R176). -/
def State.roomBelow (s : State) (b c : Nat) : Nat :=
  ((List.range' (120 * b) 120).filter fun k => match (s.ctx k).hank with
    | none => true
    | some _ => (s.hankAt k).any fun h => decide (h.cls < c)).length

/-- The bobbin takes `n` hanks of a task (R175, R176). -/
def State.bobbinTakes (s : State) (t : Task) (n b : Nat) : Bool :=
  let charge := s.newCharge t b n
  let used := s.charged b
  s.unparked b && (s.pinMask t.body.site).getLsbD b
    && decide (s.countHanks b (fun h => h.state.admittedOnly) + n ≤ ((s.stgbud b).extractLsb' 16 8).toNat)
    && (used == 0 || decide (used + charge ≤ s.l2Budget b))
    && (n == 1 || decide (n ≤ s.roomBelow b (s.lqClass t.queue)))

/-- Of bobbins with their loads, the one of least load, the lower number on ties. -/
def leastLoad : List (Nat × Nat) → Option Nat
  | [] => none
  | (b, n) :: l => some (l.foldl (fun (a : Nat × Nat) x => if x.2 < a.2 then x else a) (b, n)).1

/-- The bobbin to which the Task Front sends `n` hanks of a task (R176). -/
def State.bobbinFor (s : State) (t : Task) (n : Nat) : Option Nat :=
  leastLoad (((List.range 8).filter (s.bobbinTakes t n)).map fun b => (b, s.countHanks b Hank.load))

/-- The task may admit its next hank or skein: its ordinal and bobbin (R168, R174, R204, R205). -/
def State.admissible (s : State) (t : Task) : Option (Nat × Nat) :=
  if t.failed || t.done || t.released || !((List.range 4).all fun k => t.met.get false k) then none
  else match t.nextLaunched with
    | none => none
    | some h => if t.heldBack h then none else (s.bobbinFor t (max 1 t.body.skeinSize)).map fun b => (h, b)

/-- The first task of a queue that may be admitted now: a later task only once the first hank of every earlier one has been
dispatched, or that one is over (R162, R174). -/
def State.candidate (s : State) : List Task → Option (Task × Nat × Nat)
  | [] => none
  | t :: l =>
    match s.admissible t with
    | some p => some (t, p)
    | none => if t.dispatched || t.failed || t.done then State.candidate s l else none

/-- The candidate of each queue. The tasks that the Task Front has taken keep being admitted when EN of their queue is cleared: R160
leaves it open (log entry 59). -/
def State.candidates (s : State) : List (Nat × Task × Nat × Nat) :=
  (List.range 64).filterMap fun q => (s.candidate (s.queueTasks q)).map fun p => (q, p)

/-- The queue whose turn it is among the candidates of the highest class (R174). -/
def State.turnQueue (s : State) : Option (Nat × Task × Nat × Nat) :=
  let cs := s.candidates
  let top := (cs.map fun c => s.lqClass c.1).foldl max 0
  let eq := cs.filter fun c => s.lqClass c.1 == top
  match s.turnOf.get (0, 0) (top + 1) with
  | (p, used) =>
    match eq.find? fun c => c.1 + 1 == p && decide (used < s.lqWeight c.1) with
    | some c => some c
    | none => (eq.find? fun c => decide (p < c.1 + 1)).or eq.head?

/-- A hank as it is admitted. -/
def Task.hankAt (t : Task) (cls bobbin seq h : Nat) : Hank :=
  { task := t.pa, wid := t.body.hankWid h, ord := h, member := h % max 1 t.body.skeinSize, state := .admitted, bobbin := bobbin
    slot := none, prov := !t.firm h, landed := [], ended := [], stageFault := none, cls := cls, aged := false, suspendedAt := 0
    agedMs := 0, claim := false, resumedAt := 0, seq := seq, dispSeq := 0, frame := none, runNs := 0, held := [], pzrDone := false
    unplaced := [], barGens := [], vregBanks := [], dropped := [], doomed := [], stgabn := 0 }

/-- Charges a hank in its bobbin (R175). -/
def Staging.charge (x : Staging) (t : Task) (wid : Word) : Staging :=
  let l := if x.shared.any fun e => e.1 == t.pa && e.2.1 == 0 then x.shared else x.shared ++ [(t.pa, 0, t.body.l2Lines false)]
  { x with shared := l ++ [(t.pa, wid.toNat + 1, t.body.l2Lines true)] }

/-- Admits the hank or skein that begins with ordinal `h` to a bobbin (R174, R175). -/
def State.admitHank (s : State) (t : Task) (h b : Nat) : State :=
  let n := max 1 t.body.skeinSize
  let first := h / n * n
  let hs := (List.range n).map fun i => t.hankAt (s.lqClass t.queue) b (s.admitNo + i) (first + i)
  let s1 := { s with
    hanks := s.hanks ++ hs, admitNo := s.admitNo + n
    staging := s.staging.modify .initial b fun x => hs.foldl (fun y (k : Hank) => Staging.charge y t k.wid) x }
  s1.modTask t.pa fun x => { x with next := first + n }

/-- The turn after an admission (R174). -/
def State.turnAfter (s : State) (q cls : Nat) (last : Bool) : State :=
  let (p, used) := s.turnOf.get (0, 0) (cls + 1)
  let base := if p = q + 1 ∧ used < s.lqWeight q then used else 0
  { s with turnOf := s.turnOf.set (0, 0) (cls + 1) (q + 1, base + if last then 1 else 0) }

/-- HANK_ADMIT (R174): the task's next hank or skein is admitted when its turn has come. -/
def State.admitNext (s : State) (pa : Nat) : State :=
  match s.turnQueue with
  | none => s
  | some (q, t, h, b) =>
    if t.pa = pa ∧ s.creel.ready then
      let s1 := s.admitHank t h b
      let last := ((s1.findTask pa).map Task.lastAdmitted).getD false
      (s1.turnAfter q (s.lqClass q) last).releaseIfDone pa
    else s

/-- HANK_ADMIT (R174). -/
def execHankAdmit (task : Nat) (s : State) : Answer := .next (s.admitNext task)

end Sys2Proof.Machine
end

