-- ==== Sys2Proof/Machine/Control.lean ====
section
/-! DEFINITION. Cluster control, barriers, rendezvous, signals, tasks and traps (majors 0x17 and 0x1E; R29 .. R32, R47,
R344 .. R350, R355, R357, R415, R479), and hints (R239). -/

namespace Sys2Proof.Machine

/-- A cluster without a program counter (R30). -/
def Cluster.idled (x : Cluster) : Cluster :=
  { x with run := .idle, pc := 0, wait := none, firstEffect := false, started := 0, start := [], atConvoy := false, convoy := none
           reel := none, yielded := false }

/-- A cluster that starts at a program counter (R31). -/
def Cluster.startAt (x : Cluster) (pc : Word) : Cluster := { x.idled with run := .running, pc := pc }

/-- Every cluster of the context is idle (R29). -/
def Ctx.allIdle (x : Ctx) : Bool := Cl.all.all fun c => (x.cl c).run == .idle

/-! ### Rendezvous -/

/-- The set and tag of the RDV at which a cluster waits. -/
def Cluster.atRdv (x : Cluster) : Option (BitVec 4 × BitVec 4) :=
  match x.wait with
  | some (.rdv m t) => some (m, t)
  | _ => none

/-- The set names the cluster (R234). -/
def names (m : BitVec 4) (c : Cl) : Bool := m.getLsbD c.maskBit

/-- The clusters that wait at an RDV, in the order C, A, V, M. -/
def Ctx.rdvWaiters (x : Ctx) : List Cl := Cl.all.filter fun c => (x.cl c).atRdv.isSome

/-- The act of `actor` mismatches the rendezvous of another cluster (R32). An idle actor has no RDV. -/
def Ctx.rdvClash (x : Ctx) (actor : Cl) (idle : Bool) : Bool :=
  let mine := if idle then none else (x.cl actor).atRdv
  Cl.all.any fun j => j != actor && (match (x.cl j).atRdv with
    | none => false
    | some y => mine != some y && (names y.1 actor || mine.any fun z => names z.1 j))

/-- The rendezvous-mismatch trap (R32, R410, R415): every waiter stops at its RDV, and one event is raised. -/
def State.rdvTrap (s : State) (slot : Nat) (actor : Cl) (idle : Bool) : State :=
  let x := s.ctx slot
  match x.rdvWaiters.find? fun c => c != actor with
  | none => s
  | some f =>
    let y := (x.cl f).atRdv.getD (0, 0)
    let waiting := (x.rdvWaiters.map fun c => 2 ^ c.maskBit).sum
    let info := at_ 16 waiting ||| at_ 20 y.1.toNat ||| at_ 24 y.2.toNat ||| at_ 28 actor.code ||| at_ 30 idle.toNat
      ||| BitVec.ofNat 64 f.code
    (s.modCtx slot fun x => x.modAll fun c => if c.atRdv.isSome then { c with run := .running, wait := none } else c).takeEvent slot
      (s.ctxRec slot 1 0x0018 (x.cl f).pc 0 info) .cluster

/-- The clusters of a set all wait at an RDV of that set and tag (R32). -/
def Ctx.rdvMet (x : Ctx) (y : BitVec 4 × BitVec 4) : Bool := (maskClusters y.1).all fun c => (x.cl c).atRdv == some y

/-- All clusters of a set continue past their RDV at once (R32). -/
def Ctx.rdvPass (x : Ctx) (m : BitVec 4) : Ctx := (maskClusters m).foldl (fun x c => x.modCl c fun y => y.retire 4) x

/-- A cluster of the context has reached an RDV: a mismatch, the rendezvous, or a wait (R32). -/
def State.rdvReached (s : State) (slot : Nat) (c : Cl) (y : BitVec 4 × BitVec 4) : State :=
  let x := s.ctx slot
  if x.rdvClash c false then s.rdvTrap slot c false
  else match (maskClusters y.1).find? fun j => j != c && (x.cl j).run == .idle with
    | some j => s.rdvTrap slot j true
    | none => if x.rdvMet y then s.modCtx slot fun x => x.rdvPass y.1 else s

/-- RDV (R32, R345). -/
def execRdv (g : Guard) (mask tag : BitVec 4) (s : State) : Answer :=
  onGuard g 4 s fun s =>
    .next (((s.halt (.wait (.rdv mask tag)))).rdvReached s.slot s.cl (mask, tag))

/-- RENDEZVOUS_COMPLETE (R32): the clusters of a set that all wait at the same RDV continue. -/
def execRendezvousComplete (slot : Nat) (s : State) : Answer :=
  let x := s.ctx slot
  .next (if s.mayIssue slot then
      match (x.rdvWaiters.filterMap fun c => (x.cl c).atRdv).find? x.rdvMet with
      | some y => s.modCtx slot fun x => x.rdvPass y.1
      | none => s
    else s)

/-! ### END and YIELD -/

/-- The hank of a slot goes to ENDING once all its clusters are idle (R29, R185). -/
def State.endingIfIdle (s : State) (slot : Nat) : State :=
  if (s.ctx slot).allIdle then
    match s.hankAt slot with
    | some h =>
      if h.state = .running then
        s.modHank h.task h.wid fun h => { h with state := .ending, runNs := h.runNs + (s.timeNs - h.resumedAt) }
      else s
    | none => s
  else s

/-- END (R30, R32, R345). -/
def execEnd (g : Guard) (s : State) : Answer :=
  onGuard g 4 s fun s =>
    let t := s.modMe Cluster.idled
    .next ((if (t.ctx s.slot).rdvClash s.cl true then t.rdvTrap s.slot s.cl true else t).endingIfIdle s.slot)

/-- YIELD (R345). -/
def execYield (g : Guard) (s : State) : Answer :=
  onGuard g 4 s fun s => .next ((s.retire 4).modMe fun x => { x with yielded := true })

/-! ### Barriers -/

/-- BARCNT in the save frame of a suspended hank (R190). -/
def State.frameBarcnt (s : State) (frame : Nat) : Nat := s.natAt (frame + 0x2C) 4

/-- The BAR count of a hank that has not ended (R47). -/
def State.barCountOf (s : State) (h : Hank) : Nat :=
  match h.slot, h.frame with
  | some k, _ => (s.ctx k).barCount
  | none, some f => s.frameBarcnt f
  | none, none => 0

/-- Every member of the skein of the hank in a slot has reached barrier generation `n` (R47). -/
def State.barReached (s : State) (slot n : Nat) : Bool :=
  match s.hankAt slot with
  | some h => (s.skeinOf h).all fun m => decide (n ≤ s.barCountOf m)
  | none => decide (n ≤ (s.ctx slot).barCount)

/-- The generation that a BAR counts for: the next one, or after a restore the one it has counted (R47, R479). -/
def State.barGeneration (s : State) : Nat :=
  match s.me.wait with
  | some (.bar n) => n
  | _ => if s.me.firstEffect then s.myCtx.barCount else s.myCtx.barCount + 1

/-- BAR (R47, R345): counts once, then waits for its generation. -/
def execBar (g : Guard) (s : State) : Answer :=
  onGuard g 4 s fun s =>
    let n := s.barGeneration
    let t := (s.modMyCtx fun x => { x with barCount := max x.barCount n }).modMe fun x => { x with firstEffect := true }
    .next (if t.barReached t.slot n then t.retire 4 else t.halt (.wait (.bar n)))

/-- BARRIER_COMPLETE (R47): the clusters of a context whose generation every member has reached continue. -/
def execBarrierComplete (slot : Nat) (s : State) : Answer :=
  .next (if s.mayIssue slot then
      s.modCtx slot fun x => x.modAll fun c => match c.wait with
        | some (.bar n) => if s.barReached slot n then c.retire 4 else c
        | _ => c
    else s)

/-! ### CFORK -/

/-- The clusters that a CFORK names with their program counters, in the order C, A, V, M (R234). -/
def State.forkTargets (s : State) (mask : BitVec 4) (rs : List RegF) : List (Cl × Word) :=
  (maskClusters mask).zip (rs.map s.readS)

/-- Starts the cluster if it is idle and this CFORK has not yet started it (R31, R479). -/
def forkOne (me : Cl) (x : Ctx) (p : Cl × Word) : Ctx :=
  if (x.cl me).started.getLsbD p.1.maskBit || (x.cl p.1).run != .idle then x
  else (x.modCl p.1 fun y => y.startAt p.2).modCl me fun y =>
    { y with started := y.started ||| (1#4 <<< p.1.maskBit), firstEffect := true }

/-- CFORK (R31, R345): the misaligned program counters first, then the starts, then the wait for the rest. -/
def forkClusters (len : Nat) (g : Guard) (mask : BitVec 4) (rs : List RegF) (s : State) : Answer :=
  onGuard g len s fun s =>
    let ts := s.forkTargets mask rs
    match firstOf (ts.zipIdx.map fun p => (p.1.2.toNat % 4 == 0, illegalOperand 0x0E p.1.2.toNat (p.2 + 1))) with
    | .error x => .next (s.halt x)
    | .ok _ =>
      let t := s.modMyCtx fun x => ts.foldl (forkOne s.cl) x
      .next (if ts.all fun p => t.me.started.getLsbD p.1.maskBit then t.retire len else t.halt (.wait .fork))

/-- CFORK (R31, R345). -/
def execCfork (g : Guard) (mask : BitVec 4) (a b : RegF) (s : State) : Answer := forkClusters 4 g mask [a, b] s
/-- CFORK with a third program counter (R223). -/
def execCforkLong (g : Guard) (mask : BitVec 4) (a b c : RegF) (s : State) : Answer := forkClusters 8 g mask [a, b, c] s

/-! ### Signals -/

/-- The physical address behind an address that the executing context may access. -/
def State.paOf (s : State) (k : MemKind) (va : Word) : Nat :=
  match s.xlate (unitOf s.slot) s.myCtx.asd s.myCtx.provisional k va with
  | .ok x => x.pa
  | .error _ => 0

/-- The conditions of SIGWAIT (R234). -/
def sigTest (cond : BitVec 2) (w b : Word) : Bool :=
  match cond.toNat with
  | 0 => w == b
  | 1 => w != b
  | 2 => decide (b ≤ w)
  | _ => decide (w < b)

/-- SIGWAIT (R346). -/
def execSigwait (g : Guard) (_scope : BitVec 3) (cond : BitVec 2) (a b : RegF) (s : State) : Answer :=
  run g 4 (do
    let w ← loadQuiet .read (s.readS a) 8
    need (sigTest cond (BitVec.ofNat 64 w.1) (s.readS b)) (.wait (.signal (s.paOf .read (s.readS a))))
    noteMine w.2) s

/-- A store-release of 8 bytes that wakes the waiters on its line (R206, R347). -/
def signalStore (va v : Word) : Comp Unit := do
  confirmed
  let s ← get
  store .write va 8 v.toNat
  update fun t => t.wakeLine (s.paOf .write va)

/-- SIGSET (R347). -/
def execSigset (g : Guard) (_scope : BitVec 3) (a b : RegF) (s : State) : Answer := run g 4 (signalStore (s.readS a) (s.readS b)) s

/-- A cluster that waits on a signal tests its word again (R346). -/
def execSigwaitRetest (slot : Nat) (c : Cl) (s : State) : Answer :=
  .next (s.modCtx slot fun x => x.modCl c fun y => match y.wait with
    | some (.signal _) => y.wake
    | _ => y)

/-- SHPOST (R199, R349). -/
def execShpost (g : Guard) (_scope : BitVec 3) (a b : RegF) (s : State) : Answer :=
  run g 4 (do
    let v := s.readS b
    need (v.toNat < 2 ^ 32) (illegalOperand 0x11 0 2)
    signalStore (s.readS a) (v ||| 0x8000000000000000)
    update fun t => t.shapePosted (s.paOf .write (s.readS a)) v.toNat) s

/-! ### Tasks, time and traps -/

/-- Posts a record's physical address to a launch queue (R348): the new state and the result. -/
def State.post (s : State) (q pa : Nat) : State × Word :=
  if !s.lqEnabled q then (s, -2)
  else if s.lqCount q = s.lqSize q then (s, -1)
  else
    let i := s.lqTail q
    ((s.physWrite s.slot (s.lqBase q + 8 * (i % s.lqSize q)) (leBytes 8 pa)).setLq q (i + 1) (s.lqHead q), BitVec.ofNat 64 i)

/-- TASKQ (R348). -/
def execTaskq (g : Guard) (d a b : RegF) (s : State) : Answer :=
  run g 4 (do
    let va := s.readS a
    let q := s.readS b
    need (va.toNat % 256 = 0) (illegalOperand 0x0E va.toNat 1)
    need (q.toNat < 64) (illegalOperand 0x11 0 2)
    confirmed
    update fun t => t.prewalk (unitOf t.slot) t.myCtx.asd va
    let s ← get
    let x ← ofDeny (s.access s.slot .read va true)
    update fun t => t.useXlate { x with setD := false }
    need (s.region x.pa = .hbm) (illegalOperand 0x11 0 1 0 va)
    update fun t =>
      let (u, r) := t.post q.toNat x.pa
      u.writeS d r) s

/-- WID (R26, R350). -/
def execWid (g : Guard) (d : RegF) (j : BitVec 5) (s : State) : Answer :=
  onGuard g 4 s fun s => .next ((s.writeS d (s.myCtx.wid.get 0 j.toNat)).retire 4)

/-- GETTS (R355). -/
def execGetts (g : Guard) (d : RegF) (s : State) : Answer :=
  onGuard g 4 s fun s => .next ((s.writeS d (BitVec.ofNat 64 s.timeNs)).retire 4)

/-- TRAP (R357): the restart PC is the next packet. -/
def execTrap (g : Guard) (code : BitVec 10) (s : State) : Answer :=
  onGuard g 4 s fun s => .next ((s.retire 4).halt (.trap (BitVec.ofNat 32 (0x8000 + code.toNat)) 0 0))

/-- HINT (R239). -/
def execHint (_payload : BitVec 25) (s : State) : Answer := .next (s.retire 4)
/-- HINT of 64 bits (R239). -/
def execHintLong (_payload : BitVec 25) (_second : BitVec 32) (s : State) : Answer := .next (s.retire 8)

end Sys2Proof.Machine
end

