-- ==== Sys2Proof/Decode.lean ====
section
/-! DEFINITION. Decoding of parcels (R215 to R239), with the reasons of R410 and R411, and the encoder. -/

namespace Sys2Proof

/-- Why parcels are no instruction (R410): an illegal encoding with its reason of R411, or a malformed convoy header
with its reason. -/
inductive Bad where
  | illegal (reason : Nat)
  | header (reason : Nat)
deriving DecidableEq, Repr

/-- The `w` bits of a parcel from bit `lo` on. -/
abbrev Parcel.at (p : Parcel) (lo w : Nat) : BitVec w := p.extractLsb' lo w

/-- L (R215). -/
def Parcel.long (p : Parcel) : Bool := p.getLsbD 31
/-- MAJOR (R219). -/
def Parcel.major (p : Parcel) : Nat := (p.at 25 6).toNat
/-- MINOR (R219). -/
def Parcel.minor (p : Parcel) : Nat := (p.at 0 6).toNat
/-- GUARD (R217). -/
def Parcel.guard (p : Parcel) : Guard := { neg := p.getLsbD 24, sel := p.at 21 3 }
/-- rd of RR and RI (R219). -/
abbrev Parcel.rd (p : Parcel) : RegF := p.at 16 5
/-- ra of RR and RI. -/
abbrev Parcel.ra (p : Parcel) : RegF := p.at 11 5
/-- rb of RR. -/
abbrev Parcel.rb (p : Parcel) : RegF := p.at 6 5

/-- The second parcel of a 64-bit V instruction (R224). -/
def Parcel.vmods (p : Parcel) : VMods :=
  { vc := p.at 27 5, ovr := p.at 22 5, mask := p.at 18 4, z := p.getLsbD 17, rm := p.at 14 3, qa := p.getLsbD 13
    qb := p.getLsbD 12, qd := p.getLsbD 11, qc := p.getLsbD 10, imm := p.at 0 10 }

/-- One allocated encoding: its length, the bits that are zero in each parcel, the checks on code fields whose reserved
values name no instruction, and the instruction. -/
structure Row where
  long : Bool
  zero0 : Parcel
  zero1 : Parcel
  codes : Parcel → Parcel → List Check
  make : Parcel → Parcel → Instr

/-- A 32-bit encoding with the zero bits `z`. -/
def Row.short (z : Parcel) (make : Parcel → Instr) : Row :=
  { long := false, zero0 := z, zero1 := 0, codes := fun _ _ => [], make := fun p _ => make p }

/-- A 64-bit encoding with the zero bits `z` and `z1`. -/
def Row.wide (z z1 : Parcel) (make : Parcel → Parcel → Instr) : Row :=
  { long := true, zero0 := z, zero1 := z1, codes := fun _ _ => [], make := make }

/-- `sd, sa, sb`. -/
def row3 (c : Guard → RegF → RegF → RegF → Instr) : Row := .short 0 fun p => c p.guard p.rd p.ra p.rb
/-- `sd, sa` with rb zero. -/
def row2 (c : Guard → RegF → RegF → Instr) : Row := .short 0x7C0 fun p => c p.guard p.rd p.ra
/-- `rd` alone. -/
def row1 (c : Guard → RegF → Instr) : Row := .short 0xFFC0 fun p => c p.guard p.rd
/-- `ra` alone. -/
def rowA (c : Guard → RegF → Instr) : Row := .short 0x1F07C0 fun p => c p.guard p.ra
/-- `ra, rb` with rd zero. -/
def rowAB (c : Guard → RegF → RegF → Instr) : Row := .short 0x1F0000 fun p => c p.guard p.ra p.rb
/-- No operand. -/
def row0 (c : Guard → Instr) : Row := .short 0x1FFFC0 fun p => c p.guard
/-- A 64-bit V instruction with three operands (R224). -/
def rowV3 (c : Guard → RegF → RegF → RegF → VMods → Instr) : Row :=
  .wide 0 0 fun p q => c p.guard p.rd p.ra p.rb q.vmods
/-- A 64-bit V instruction with two operands: rb is zero. -/
def rowV2 (c : Guard → RegF → RegF → VMods → Instr) : Row :=
  .wide 0x7C0 0 fun p q => c p.guard p.rd p.ra q.vmods

/-- Major 0x01 (R233). -/
def rows01 : Nat → List Row
  | 0 => [row3 .add] | 1 => [row3 .sub] | 2 => [row3 .and] | 3 => [row3 .or] | 4 => [row3 .xor] | 5 => [row3 .andn]
  | 6 => [row3 .shl] | 7 => [row3 .shr] | 8 => [row3 .sra] | 9 => [row3 .ror] | 10 => [row3 .min] | 11 => [row3 .max]
  | 12 => [row3 .minu] | 13 => [row3 .maxu] | 14 => [row2 .clz] | 15 => [row2 .ctz] | 16 => [row2 .popc]
  | 32 => [row3 .adds] | 33 => [row3 .subs] | 38 => [row3 .shls] | _ => []

/-- An immediate of 11 bits (R219, RI). -/
def rowI (c : Guard → RegF → RegF → BitVec 11 → Instr) : Row := .short 0 fun p => c p.guard p.rd p.ra (p.at 0 11)

/-- Major 0x06: IMM[7:6] names the shift, IMM[10:8] is zero (R233). -/
def row06 : Row := .short 0x700 fun p =>
  match (p.at 6 2).toNat with
  | 0 => .shli p.guard p.rd p.ra (p.at 0 6)
  | 1 => .shri p.guard p.rd p.ra (p.at 0 6)
  | 2 => .srai p.guard p.rd p.ra (p.at 0 6)
  | _ => .rori p.guard p.rd p.ra (p.at 0 6)

/-- Major 0x07 (R233). -/
def rows07 : Nat → List Row
  | 0 => [row3 .mul] | 1 => [row3 .mulh] | 2 => [row3 .mulhu] | 3 => [row3 .div] | 4 => [row3 .divu] | 5 => [row3 .rem]
  | 6 => [row3 .remu] | 32 => [row3 .muls] | _ => []

/-- Bit-field instructions (R223). -/
def rowB (c : Guard → RegF → RegF → BitVec 6 → BitVec 6 → Instr) : Row :=
  .wide 0x7C0 0xFFFFF000 fun p q => c p.guard p.rd p.ra (q.at 0 6) (q.at 6 6)

/-- Major 0x08 (R233). -/
def rows08 : Nat → List Row
  | 0 => [rowB .bextu] | 1 => [rowB .bext] | 2 => [rowB .bins] | _ => []

/-- Major 0x09 (R233). -/
def rows09 : List Row :=
  [ .short 0 fun p => .limmh p.guard p.rd (p.at 0 16),
    .wide 0 0 fun p q => .limm p.guard p.rd ((p.at 0 16) ++ (q.at 0 32)) ]

/-- Major 0x0A: codes 0 to 7 are CMP, 8 to 12 FCMP; the 64-bit form is CMPI (R222). -/
def rows0A : List Row :=
  [ .short 1 fun p =>
        if (p.at 1 4).toNat < 8 then .cmp p.guard (p.at 18 3) (p.at 15 3) (p.at 10 5) (p.at 5 5) (p.at 1 4)
        else .fcmp p.guard (p.at 18 3) (p.at 15 3) (p.at 10 5) (p.at 5 5) (p.at 1 4),
    .wide 0x3E1 0 fun p q => .cmpi p.guard (p.at 18 3) (p.at 15 3) (p.at 10 5) (q.at 0 32) (p.at 1 4) ]

/-- Major 0x0B (R233). -/
def row0B : Row := .short 0x30 fun p => .sel p.guard p.rd p.ra p.rb (p.getLsbD 3) (p.at 0 3)

/-- Major 0x0E (R233). -/
def rows0E : Nat → List Row
  | 0 => [rowA .jr] | 1 => [row2 .jrl] | _ => []

/-- Major 0x10: SIZE names the load; 7 is reserved (R221). -/
def row10 : Row :=
  { long := false, zero0 := 0, zero1 := 0, codes := fun p _ => [(7, p.at 0 3 != 7)]
    make := fun p _ => match (p.at 0 3).toNat with
      | 0 => .ldb p.guard p.rd p.ra (p.at 3 8)
      | 1 => .ldbu p.guard p.rd p.ra (p.at 3 8)
      | 2 => .ldh p.guard p.rd p.ra (p.at 3 8)
      | 3 => .ldhu p.guard p.rd p.ra (p.at 3 8)
      | 4 => .ldw p.guard p.rd p.ra (p.at 3 8)
      | 5 => .ldwu p.guard p.rd p.ra (p.at 3 8)
      | _ => .ldd p.guard p.rd p.ra (p.at 3 8) }

/-- Major 0x11: SIZE names the store; 4 to 7 are reserved (R221). -/
def row11 : Row :=
  { long := false, zero0 := 0, zero1 := 0, codes := fun p _ => [(7, decide ((p.at 0 3).toNat < 4))]
    make := fun p _ => match (p.at 0 3).toNat with
      | 0 => .stb p.guard p.rd p.ra (p.at 3 8)
      | 1 => .sth p.guard p.rd p.ra (p.at 3 8)
      | 2 => .stw p.guard p.rd p.ra (p.at 3 8)
      | _ => .std p.guard p.rd p.ra (p.at 3 8) }

/-- Major 0x12: OP names the operation; 10 to 15 are reserved (R223). -/
def row12 : Row :=
  { long := true, zero0 := 0, zero1 := 0x3FFFFF, codes := fun _ q => [(7, decide ((q.at 28 4).toNat < 10))]
    make := fun p q =>
      let c := match (q.at 28 4).toNat with
        | 0 => Instr.amoswap
        | 1 => Instr.amoadd
        | 2 => Instr.amoand
        | 3 => Instr.amoor
        | 4 => Instr.amoxor
        | 5 => Instr.amomin
        | 6 => Instr.amomax
        | 7 => Instr.amominu
        | 8 => Instr.amomaxu
        | _ => Instr.cas
      c p.guard p.rd p.ra p.rb (q.at 26 2) (q.at 23 3) (q.getLsbD 22) }

/-- Ordered scalar accesses: [10:8] SCOPE, [7:6] zero (R234). -/
def row13 (c : Guard → RegF → RegF → BitVec 3 → Instr) : Row := .short 0xC0 fun p => c p.guard p.rd p.ra (p.at 8 3)

/-- Major 0x13 (R234). -/
def rows13 : Nat → List Row
  | 0 => [row13 .ldacq] | 1 => [row13 .ldacqw] | 2 => [row13 .strel] | 3 => [row13 .strelw]
  | 4 => [.short 0x1FF8C0 fun p => .fence p.guard (p.at 8 3)] | _ => []

/-- Major 0x14 (R234). -/
def rows14 : Nat → List Row
  | 0 => [row3 .fadd] | 1 => [row3 .fsub] | 2 => [row3 .fmul] | 3 => [row3 .fma] | 4 => [row3 .fmin] | 5 => [row3 .fmax]
  | 6 => [row2 .fcvtf] | 7 => [row2 .fcvtfu] | 8 => [row2 .fcvti] | 9 => [row2 .fcvtiu] | 10 => [row2 .fabs]
  | 11 => [row2 .fneg] | _ => []

/-- Queue scalar instructions: [15:12] queue, [11:6] zero (R234). -/
def row15 (c : Guard → RegF → BitVec 4 → Instr) : Row := .short 0xFC0 fun p => c p.guard p.rd (p.at 12 4)

/-- Major 0x15 (R234). -/
def rows15 : Nat → List Row
  | 0 => [row15 .qpush] | 1 => [row15 .qpushu] | 2 => [row15 .qpushf] | 3 => [row15 .qpops] | 4 => [row15 .qpeek]
  | 5 => [row15 .qstat] | 6 => [.short 0x1F0FC0 fun p => .qclose p.guard (p.at 12 4)] | _ => []

/-- Major 0x16: W selects CSRR, with ra zero, or CSRW, with rd zero (R234). -/
def row16 (w : Bool) : Row :=
  if w then .short 0x1F0000 fun p => .csrw p.guard p.ra (p.at 0 10)
  else .short 0xF800 fun p => .csrr p.guard p.rd (p.at 0 10)

/-- Major 0x17 (R234, R344). -/
def rows17 : Nat → List Row
  | 0 => [row0 .end_] | 1 => [row0 .yield] | 2 => [row0 .bar]
  | 3 => [.short 0x187C0 fun p => .rdv p.guard (p.at 17 4) (p.at 11 4)]
  | 4 => [.short 0x10000 fun p => .cfork p.guard (p.at 17 4) p.ra p.rb,
          .wide 0x10000 0x7FFFFFF fun p q => .cforkLong p.guard (p.at 17 4) p.ra p.rb (q.at 27 5)]
  | 5 => [.short 0 fun p => .sigwait p.guard (p.at 18 3) (p.at 16 2) p.ra p.rb]
  | 6 => [.short 0x30000 fun p => .sigset p.guard (p.at 18 3) p.ra p.rb]
  | 7 => [row1 .getts]
  | 8 => [.short 0x1F0000 fun p => .trap p.guard (p.at 6 10)]
  | _ => []

/-- Major 0x1E (R235). -/
def rows1E : Nat → List Row
  | 0 => [row3 .taskq]
  | 1 => [.short 0x30000 fun p => .shpost p.guard (p.at 18 3) p.ra p.rb]
  | 2 => [.short 0xF800 fun p => .wid p.guard p.rd p.rb]
  | _ => []

/-- Major 0x1F (R235). -/
def rows1F : Nat → List Row
  | 0 => [row0 .svret] | 1 => [rowA .rsave] | 2 => [rowA .rrest]
  | 3 => [.short 0x1F0000 fun p => .tlbi p.guard p.ra p.rb]
  | 4 => [.short 0x1C07C0 fun p => .ltld p.guard (p.at 16 2) p.ra]
  | 5 => [row2 .recode] | _ => []

/-- The second parcel of COPY and COPYT (R223). -/
def rowCopyt : Row := .wide 0 0x7F fun p q =>
  .copyt p.guard p.rd p.ra p.rb (q.at 30 2) (q.at 27 3) (q.at 24 3) (q.at 19 5) (q.at 14 5) (q.at 9 5) (q.getLsbD 8)
    (q.getLsbD 7)

/-- COPY: the shape register is zero. -/
def rowCopy : Row := .wide 0 0x3E7F fun p q =>
  .copy p.guard p.rd p.ra p.rb (q.at 30 2) (q.at 27 3) (q.at 24 3) (q.at 19 5) (q.at 14 5) (q.getLsbD 8) (q.getLsbD 7)

/-- Majors 0x20 to 0x23 of the A cluster (R236). -/
def rowsA : Nat → Nat → List Row
  | 0x20, 0 => [row2 .vldq] | 0x20, 1 => [row3 .vldsq] | 0x20, 2 => [row3 .vldxq]
  | 0x20, 4 => [row2 .vstq] | 0x20, 5 => [row3 .vstsq] | 0x20, 6 => [row3 .vstxq]
  | 0x20, 8 => [row3 .setvlAccess]
  | 0x21, 0 => [row2 .sbind] | 0x21, 1 => [row1 .sunbind]
  | 0x22, 0 => [rowCopy] | 0x22, 1 => [rowCopyt] | 0x22, 2 => [row3 .cwait]
  | 0x22, 3 => [.wide 0 0x1FFFFFFF fun p q => .ctest p.guard p.rd p.ra p.rb (q.at 29 3)]
  | 0x22, 4 => [row3 .cclr]
  | 0x22, 5 => [.wide 0x1FFFC0 0xFFF00000 fun p q => .qfence p.guard (q.at 16 4) (q.at 0 16)]
  | 0x23, 0 => [row2 .tagrd] | 0x23, 1 => [rowAB .tagset] | 0x23, 2 => [rowAB .pfl2]
  | _, _ => []

/-- Major 0x20 of the V cluster (R237, R297). -/
def rowsV20 : Nat → List Row
  | 0 => [row3 .setvl] | 1 => [.short 0xF800 fun p => .setvcap p.guard p.rd p.rb] | 2 => [rowA .cbtld]
  | 3 => [row2 .vtagr] | 4 => [row2 .vtagw] | 5 => [row2 .qpopv] | _ => []

/-- Major 0x21: MINOR[1:0] names the access, MINOR[4] the scratchpad, MINOR[5] lane-sliced indexing (R301). -/
def rowsV21 : Nat → List Row
  | 0 => [.short 0x7C0 fun p => .vld p.guard p.rd p.ra false, rowV2 fun g d a => .vldLong g d a false]
  | 1 => [.short 0x7C0 fun p => .vst p.guard p.rd p.ra false, rowV2 fun g d a => .vstLong g d a false]
  | 2 => [row3 fun g d a b => .vldx g d a b false false, rowV3 fun g d a b => .vldxLong g d a b false false]
  | 3 => [row3 fun g d a b => .vstx g d a b false false, rowV3 fun g d a b => .vstxLong g d a b false false]
  | 16 => [.short 0x7C0 fun p => .vld p.guard p.rd p.ra true, rowV2 fun g d a => .vldLong g d a true]
  | 17 => [.short 0x7C0 fun p => .vst p.guard p.rd p.ra true, rowV2 fun g d a => .vstLong g d a true]
  | 18 => [row3 fun g d a b => .vldx g d a b false true, rowV3 fun g d a b => .vldxLong g d a b false true]
  | 19 => [row3 fun g d a b => .vstx g d a b false true, rowV3 fun g d a b => .vstxLong g d a b false true]
  | 50 => [row3 fun g d a b => .vldx g d a b true true, rowV3 fun g d a b => .vldxLong g d a b true true]
  | 51 => [row3 fun g d a b => .vstx g d a b true true, rowV3 fun g d a b => .vstxLong g d a b true true]
  | _ => []

/-- Major 0x22 of the V cluster (R237). -/
def rowsV22 : Nat → List Row
  | 0 => [row3 .vadd, rowV3 .vaddLong] | 1 => [row3 .vsub, rowV3 .vsubLong] | 2 => [row3 .vmul, rowV3 .vmulLong]
  | 3 => [rowV3 .vfma] | 4 => [rowV3 .vfms] | 5 => [rowV3 .vnfma]
  | 6 => [row3 .vmin, rowV3 .vminLong] | 7 => [row3 .vmax, rowV3 .vmaxLong]
  | 8 => [row2 .vabs, rowV2 .vabsLong] | 9 => [row2 .vneg, rowV2 .vnegLong] | _ => []

/-- Major 0x23 of the V cluster (R237). -/
def rowsV23 : Nat → List Row
  | 0 => [row3 .vand, rowV3 .vandLong] | 1 => [row3 .vor, rowV3 .vorLong] | 2 => [row3 .vxor, rowV3 .vxorLong]
  | 3 => [row3 .vshl, rowV3 .vshlLong] | 4 => [row3 .vshr, rowV3 .vshrLong] | 5 => [row3 .vsra, rowV3 .vsraLong]
  | 6 => [rowV3 .vcmp] | 7 => [rowV3 .vsel] | 8 => [row2 .vmov, rowV2 .vmovLong]
  | 9 => [row2 .vsplat, rowV2 .vsplatLong] | 10 => [row3 .vextr, rowV3 .vextrLong] | _ => []

/-- Major 0x24 of the V cluster (R237). -/
def rowsV24 : Nat → List Row
  | 0 => [rowV2 .vcvt] | 1 => [row2 .vscale, rowV2 .vscaleLong] | 2 => [row2 .vexp2, rowV2 .vexp2Long]
  | 3 => [row2 .vlog2, rowV2 .vlog2Long] | 4 => [row2 .vrcp, rowV2 .vrcpLong] | 5 => [row2 .vrsq, rowV2 .vrsqLong]
  | 6 => [rowV3 .vssmx] | _ => []

/-- Major 0x25 of the V cluster (R237). -/
def rowsV25 : Nat → List Row
  | 0 => [row2 .vredsum, rowV2 .vredsumLong] | 1 => [row2 .vredmax, rowV2 .vredmaxLong]
  | 2 => [row2 .vredmin, rowV2 .vredminLong] | 3 => [row2 .vscan, rowV2 .vscanLong]
  | 4 => [row3 .vperm, rowV3 .vpermLong] | 5 => [rowV2 .vslide] | 6 => [rowV2 .vcompress] | 7 => [rowV2 .vexpand]
  | _ => []

/-- Major 0x26 of the V cluster (R237, R316). -/
def rowsV26 : Nat → List Row
  | 0 => [row3 .kand, rowV3 .kandLong] | 1 => [row3 .kor, rowV3 .korLong] | 2 => [row3 .kxor, rowV3 .kxorLong]
  | 3 => [row3 .kandn, rowV3 .kandnLong] | 4 => [row2 .knot, rowV2 .knotLong] | 5 => [row2 .kmov, rowV2 .kmovLong]
  | 6 => [row2 .kfirst, rowV2 .kfirstLong] | 7 => [row2 .kpop, rowV2 .kpopLong] | _ => []

/-- Major 0x27 of the V cluster (R317). -/
def rowsV27 : Nat → List Row
  | 0 => [.short 0x3C0 fun p => .reel p.guard (p.at 15 6) (p.at 10 5)]
  | 1 => [.wide 0x3C0 0x7FFFFFF fun p q => .reelx p.guard (p.at 15 6) (p.at 10 5) (q.at 27 5)]
  | _ => []

/-- Majors 0x20 to 0x23 of the M cluster (R238, R326). -/
noncomputable def rowsM : Nat → Nat → List Row
  | 0x20, 0 => [.short 0xF800 fun p => .mclaim p.guard p.rd p.rb]
  | 0x20, 6 => [.short 0xF800 fun p => .mclaimElastic p.guard p.rd p.rb]
  | 0x20, 1 => [row1 .mrel] | 0x20, 2 => [row1 .mzero] | 0x20, 3 => [row2 .mrank] | 0x20, 4 => [row2 .mtr]
  | 0x20, 5 => [row2 .mdense]
  | 0x21, 0 => [row3 .mld,
      .wide 0 0x07FFFFFC fun p q => .mldSparse p.guard p.rd p.ra p.rb (q.at 27 5) (q.at 0 2)]
  | 0x21, 1 => [row3 .mldf] | 0x21, 2 => [row3 .mst] | 0x21, 3 => [row3 .mstf]
  | 0x22, 0 => [row3 .mma]
  | 0x22, 1 => [.wide 0 0xFFFFFF03 fun p q => .msld p.guard p.rd p.ra p.rb (q.at 2 6)]
  | 0x22, 2 => [row3 .mlmul]
  | 0x22, 3 => [.wide 0 0x07FFE0FC fun p q => .mladd p.guard p.rd p.ra p.rb (q.at 27 5) (q.at 8 5) (q.at 0 2)]
  | 0x22, 4 => [row2 .mlrc]
  | 0x23, 0 => [row1 .azero] | 0x23, 1 => [row3 .ald] | 0x23, 2 => [row3 .ast]
  | 0x23, 3 => [.wide 0x7C0 0xF80E1FFF fun p q =>
      .acvt p.guard p.rd p.ra (q.at 22 5) (q.at 20 2) (q.at 14 3) (q.getLsbD 13)]
  | _, _ => []

/-- The encodings of a major and minor at a site (R232 to R239). -/
noncomputable def rowsAt (site : Site) (p : Parcel) : List Row :=
  match p.major with
  | 0x01 => rows01 p.minor
  | 0x02 => [rowI .addi] | 0x03 => [rowI .andi] | 0x04 => [rowI .ori] | 0x05 => [rowI .xori]
  | 0x06 => [row06] | 0x07 => rows07 p.minor | 0x08 => rows08 p.minor | 0x09 => rows09 | 0x0A => rows0A
  | 0x0B => if p.at 4 2 = 0 then [row0B] else []
  | 0x0C => [.short 0 fun p => .br p.guard (p.at 0 21)]
  | 0x0D => [.short 0 fun p => .brl p.guard (p.at 0 21)]
  | 0x0E => rows0E p.minor
  | 0x0F => [.short 0 fun p => .loop p.guard p.rd (p.at 0 16)]
  | 0x10 => [row10] | 0x11 => [row11]
  | 0x12 => if p.minor = 0 then [row12] else []
  | 0x13 => rows13 p.minor | 0x14 => rows14 p.minor | 0x15 => rows15 p.minor | 0x16 => [row16 (p.getLsbD 10)]
  | 0x17 => rows17 p.minor | 0x1E => rows1E p.minor | 0x1F => rows1F p.minor
  | 0x20 => match site with
    | .cl .A => rowsA 0x20 p.minor
    | .cl .V => rowsV20 p.minor
    | _ => rowsM 0x20 p.minor
  | 0x21 => match site with
    | .cl .A => rowsA 0x21 p.minor
    | .cl .V => rowsV21 p.minor
    | _ => rowsM 0x21 p.minor
  | 0x22 => match site with
    | .cl .A => rowsA 0x22 p.minor
    | .cl .V => rowsV22 p.minor
    | _ => rowsM 0x22 p.minor
  | 0x23 => match site with
    | .cl .A => rowsA 0x23 p.minor
    | .cl .V => rowsV23 p.minor
    | _ => rowsM 0x23 p.minor
  | 0x24 => rowsV24 p.minor | 0x25 => rowsV25 p.minor | 0x26 => rowsV26 p.minor | 0x27 => rowsV27 p.minor
  | 0x3E => [.short 0 fun p => .hint (p.at 0 25), .wide 0 0 fun p q => .hintLong (p.at 0 25) q]
  | _ => []

/-- A major reserved in every cluster (R232). -/
def majorReserved (m : Nat) : Bool := m == 0 || (0x18 ≤ m && m ≤ 0x1D) || (0x28 ≤ m && m ≤ 0x3D)

/-- A parcel's major, or on supervisor cores its minor of 0x17, is allocated at the site (R232, R235). Major 0x1F is
judged by its own reason, 8. -/
def majorAt (site : Site) (p : Parcel) : Bool :=
  let m := p.major
  match site with
  | .sup => !(m == 0x15 || m == 0x1E || (m == 0x17 && p.minor < 7) || (0x20 ≤ m && m ≤ 0x2F))
  | .cl .C => !(0x20 ≤ m && m ≤ 0x27)
  | .cl .V => true
  | .cl _ => !(0x24 ≤ m && m ≤ 0x27)

/-- The least reason of the checks that fail (R411). -/
def leastFailing : List Check → Option Nat
  | [] => none
  | (_, true) :: t => leastFailing t
  | (r, false) :: t =>
    match leastFailing t with
    | none => some r
    | some r' => some (min r r')

/-- A convoy header (R228): the reasons of R410 that the header alone can show stand here for reason 2, and reasons 1 and
3 to 7 are checked when the convoy issues. -/
def decodeHeader (p : Parcel) : Except Bad Instr :=
  if p.long || p.at 0 4 != 0 then .error (.header (if 4 < (p.at 22 3).toNat then 1 else 2))
  else .ok (.convoy (p.at 22 3) (p.at 19 3) (p.at 16 3) (p.at 13 3) (p.at 10 3) (p.at 7 3) (p.at 4 3))

/-- Decodes parcels among the encodings of their major and minor (R411). -/
def decodeRows (site : Site) (p q : Parcel) : List Row → Except Bad Instr
  | [] => .error (.illegal 3)
  | rows => match rows.find? fun r => r.long == p.long with
    | none => .error (.illegal 4)
    | some r =>
      let i := r.make p q
      let zero : Check := (5, p &&& r.zero0 == 0 && (!r.long || q &&& r.zero1 == 0))
      let priv : Check := (8, p.major != 0x1F || site == .sup)
      match leastFailing (zero :: priv :: r.codes p q ++ i.checks site) with
      | some k => .error (.illegal k)
      | none => .ok i

/-- Decodes the parcels at a site; the second parcel is read only where L is set (R215). -/
noncomputable def decode (site : Site) (p q : Parcel) : Except Bad Instr :=
  if majorReserved p.major then .error (.illegal 1)
  else if p.major = 0x3F then (if site = .cl .V then decodeHeader p else .error (.illegal 2))
  else if !majorAt site p then .error (.illegal 2)
  else decodeRows site p q (rowsAt site p)

/-- The encodings of the V majors: those that a convoy member may have (R229). -/
def rowsMember (p : Parcel) : List Row :=
  match p.major with
  | 0x20 => rowsV20 p.minor | 0x21 => rowsV21 p.minor | 0x22 => rowsV22 p.minor | 0x23 => rowsV23 p.minor
  | 0x24 => rowsV24 p.minor | 0x25 => rowsV25 p.minor | 0x26 => rowsV26 p.minor | 0x27 => rowsV27 p.minor
  | _ => []

/-- Decodes a convoy member (R229). -/
def decodeMember (p q : Parcel) : Except Bad Instr := decodeRows (.cl .V) p q (rowsMember p)

/-- Bytes of the packet's first instruction (R215). -/
def Parcel.bytes (p : Parcel) : Nat := if p.long then 8 else 4

/-- The instruction that the first of C, V, A, M and a supervisor core to accept it reads from the words of the opcode
table. -/
noncomputable def decodeTableWord (nbits w : Nat) : Option Instr :=
  let p := BitVec.ofNat 32 (w % 2 ^ nbits)
  let q := BitVec.ofNat 32 ((w % 2 ^ nbits) >>> 32)
  [Site.cl .C, .cl .V, .cl .A, .cl .M, .sup].findSome? fun site => (decode site p q).toOption

/-! The encoder. -/

/-- GUARD (R217). -/
def Guard.bits (g : Guard) : BitVec 4 := BitVec.ofBool g.neg ++ g.sel

/-- The RR form (R219). -/
def encRR (l : Bool) (maj : BitVec 6) (g : Guard) (d a b : RegF) (mn : BitVec 6) : Parcel :=
  BitVec.ofBool l ++ maj ++ g.bits ++ d ++ a ++ b ++ mn

/-- The RI form (R219). -/
def encRI (maj : BitVec 6) (g : Guard) (d a : RegF) (imm : BitVec 11) : Parcel :=
  BitVec.ofBool false ++ maj ++ g.bits ++ d ++ a ++ imm

/-- The BR form (R219). -/
def encBR (maj : BitVec 6) (g : Guard) (disp : BitVec 21) : Parcel := BitVec.ofBool false ++ maj ++ g.bits ++ disp

/-- The LP form (R219), and LIMMH, LIMM: five bits and sixteen bits. -/
def encLP (l : Bool) (maj : BitVec 6) (g : Guard) (c : RegF) (x : BitVec 16) : Parcel :=
  BitVec.ofBool l ++ maj ++ g.bits ++ c ++ x

/-- The CP form (R219). -/
def encCP (l : Bool) (maj : BitVec 6) (g : Guard) (gt gf : BitVec 3) (a b : RegF) (c : BitVec 4) : Parcel :=
  BitVec.ofBool l ++ maj ++ g.bits ++ gt ++ gf ++ a ++ b ++ c ++ (0 : BitVec 1)

/-- The second parcel of a 64-bit V instruction (R224). -/
def VMods.enc (m : VMods) : Parcel :=
  m.vc ++ m.ovr ++ m.mask ++ BitVec.ofBool m.z ++ m.rm ++ BitVec.ofBool m.qa ++ BitVec.ofBool m.qb ++ BitVec.ofBool m.qd
    ++ BitVec.ofBool m.qc ++ m.imm

/-- The second parcel of a 64-bit M instruction (R227). -/
def encM2 (rc : RegF) (fmt : BitVec 5) (blk : BitVec 2) (rm : BitVec 3) (qd : Bool) (re : RegF) (imm : BitVec 6)
    (mode : BitVec 2) : Parcel :=
  rc ++ fmt ++ blk ++ (0 : BitVec 3) ++ rm ++ BitVec.ofBool qd ++ re ++ imm ++ mode

/-- A 32-bit RR instruction. -/
def enc3 (maj : BitVec 6) (g : Guard) (d a b : RegF) (mn : BitVec 6) : List Parcel := [encRR false maj g d a b mn]
/-- A 64-bit V instruction. -/
def encV (maj : BitVec 6) (g : Guard) (d a b : RegF) (mn : BitVec 6) (m : VMods) : List Parcel :=
  [encRR true maj g d a b mn, m.enc]
/-- A 64-bit instruction with an explicit second parcel. -/
def encL (maj : BitVec 6) (g : Guard) (d a b : RegF) (mn : BitVec 6) (q : Parcel) : List Parcel :=
  [encRR true maj g d a b mn, q]
/-- A bit-field instruction (R223). -/
def encB (g : Guard) (d a : RegF) (mn l w : BitVec 6) : List Parcel := encL 0x08 g d a 0 mn ((0 : BitVec 20) ++ w ++ l)
/-- An atomic instruction (R223). -/
def encAmo (g : Guard) (d a b : RegF) (op : BitVec 4) (ord : BitVec 2) (sc : BitVec 3) (w : Bool) : List Parcel :=
  encL 0x12 g d a b 0 (op ++ ord ++ sc ++ BitVec.ofBool w ++ (0 : BitVec 22))
/-- A scalar load or store (R221). -/
def encLS (maj : BitVec 6) (g : Guard) (d a : RegF) (off : BitVec 8) (size : BitVec 3) : List Parcel :=
  [encRI maj g d a (off ++ size)]
/-- A shift by an immediate (R233). -/
def encSh (g : Guard) (d a : RegF) (k : BitVec 2) (n : BitVec 6) : List Parcel :=
  [encRI 0x06 g d a ((0 : BitVec 3) ++ k ++ n)]
/-- An ordered scalar access (R234). -/
def encOrd (g : Guard) (d a : RegF) (sc : BitVec 3) (mn : BitVec 6) : List Parcel :=
  enc3 0x13 g d a (sc ++ (0 : BitVec 2)) mn
/-- A queue scalar instruction (R234). -/
def encQ (g : Guard) (d : RegF) (q : BitVec 4) (mn : BitVec 6) : List Parcel := enc3 0x15 g d (q ++ (0 : BitVec 1)) 0 mn
/-- The MINOR of major 0x21 (R301). -/
def lsMinor (ls sp : Bool) (op : BitVec 2) : BitVec 6 := BitVec.ofBool ls ++ BitVec.ofBool sp ++ (0 : BitVec 2) ++ op
/-- The second parcel of COPY and COPYT (R223). -/
def encCopy (cq : BitVec 2) (cb sc : BitVec 3) (sx sv sh : RegF) (dsp ssp : Bool) : Parcel :=
  cq ++ cb ++ sc ++ sx ++ sv ++ sh ++ BitVec.ofBool dsp ++ BitVec.ofBool ssp ++ (0 : BitVec 7)

/-- The parcels of an instruction (R215 to R239); an event has none. -/
def encode : Instr → List Parcel
  | .add g d a b => enc3 0x01 g d a b 0
  | .sub g d a b => enc3 0x01 g d a b 1
  | .and g d a b => enc3 0x01 g d a b 2
  | .or g d a b => enc3 0x01 g d a b 3
  | .xor g d a b => enc3 0x01 g d a b 4
  | .andn g d a b => enc3 0x01 g d a b 5
  | .shl g d a b => enc3 0x01 g d a b 6
  | .shr g d a b => enc3 0x01 g d a b 7
  | .sra g d a b => enc3 0x01 g d a b 8
  | .ror g d a b => enc3 0x01 g d a b 9
  | .min g d a b => enc3 0x01 g d a b 10
  | .max g d a b => enc3 0x01 g d a b 11
  | .minu g d a b => enc3 0x01 g d a b 12
  | .maxu g d a b => enc3 0x01 g d a b 13
  | .clz g d a => enc3 0x01 g d a 0 14
  | .ctz g d a => enc3 0x01 g d a 0 15
  | .popc g d a => enc3 0x01 g d a 0 16
  | .adds g d a b => enc3 0x01 g d a b 32
  | .subs g d a b => enc3 0x01 g d a b 33
  | .shls g d a b => enc3 0x01 g d a b 38
  | .addi g d a i => [encRI 0x02 g d a i]
  | .andi g d a i => [encRI 0x03 g d a i]
  | .ori g d a i => [encRI 0x04 g d a i]
  | .xori g d a i => [encRI 0x05 g d a i]
  | .shli g d a n => encSh g d a 0 n
  | .shri g d a n => encSh g d a 1 n
  | .srai g d a n => encSh g d a 2 n
  | .rori g d a n => encSh g d a 3 n
  | .mul g d a b => enc3 0x07 g d a b 0
  | .mulh g d a b => enc3 0x07 g d a b 1
  | .mulhu g d a b => enc3 0x07 g d a b 2
  | .div g d a b => enc3 0x07 g d a b 3
  | .divu g d a b => enc3 0x07 g d a b 4
  | .rem g d a b => enc3 0x07 g d a b 5
  | .remu g d a b => enc3 0x07 g d a b 6
  | .muls g d a b => enc3 0x07 g d a b 32
  | .bextu g d a l w => encB g d a 0 l w
  | .bext g d a l w => encB g d a 1 l w
  | .bins g d a l w => encB g d a 2 l w
  | .limmh g d i => [encLP false 0x09 g d i]
  | .limm g d i => [encLP true 0x09 g d (i.extractLsb' 32 16), i.extractLsb' 0 32]
  | .cmp g gt gf a b c => [encCP false 0x0A g gt gf a b c]
  | .fcmp g gt gf a b c => [encCP false 0x0A g gt gf a b c]
  | .cmpi g gt gf a i c => [encCP true 0x0A g gt gf a 0 c, i]
  | .sel g d a b n p => enc3 0x0B g d a b ((0 : BitVec 2) ++ BitVec.ofBool n ++ p)
  | .br g x => [encBR 0x0C g x]
  | .brl g x => [encBR 0x0D g x]
  | .jr g a => enc3 0x0E g 0 a 0 0
  | .jrl g d a => enc3 0x0E g d a 0 1
  | .loop g c x => [encLP false 0x0F g c x]
  | .ldb g d a o => encLS 0x10 g d a o 0
  | .ldbu g d a o => encLS 0x10 g d a o 1
  | .ldh g d a o => encLS 0x10 g d a o 2
  | .ldhu g d a o => encLS 0x10 g d a o 3
  | .ldw g d a o => encLS 0x10 g d a o 4
  | .ldwu g d a o => encLS 0x10 g d a o 5
  | .ldd g d a o => encLS 0x10 g d a o 6
  | .stb g d a o => encLS 0x11 g d a o 0
  | .sth g d a o => encLS 0x11 g d a o 1
  | .stw g d a o => encLS 0x11 g d a o 2
  | .std g d a o => encLS 0x11 g d a o 3
  | .amoswap g d a b o s w => encAmo g d a b 0 o s w
  | .amoadd g d a b o s w => encAmo g d a b 1 o s w
  | .amoand g d a b o s w => encAmo g d a b 2 o s w
  | .amoor g d a b o s w => encAmo g d a b 3 o s w
  | .amoxor g d a b o s w => encAmo g d a b 4 o s w
  | .amomin g d a b o s w => encAmo g d a b 5 o s w
  | .amomax g d a b o s w => encAmo g d a b 6 o s w
  | .amominu g d a b o s w => encAmo g d a b 7 o s w
  | .amomaxu g d a b o s w => encAmo g d a b 8 o s w
  | .cas g d a b o s w => encAmo g d a b 9 o s w
  | .ldacq g d a s => encOrd g d a s 0
  | .ldacqw g d a s => encOrd g d a s 1
  | .strel g d a s => encOrd g d a s 2
  | .strelw g d a s => encOrd g d a s 3
  | .fence g s => encOrd g 0 0 s 4
  | .fadd g d a b => enc3 0x14 g d a b 0
  | .fsub g d a b => enc3 0x14 g d a b 1
  | .fmul g d a b => enc3 0x14 g d a b 2
  | .fma g d a b => enc3 0x14 g d a b 3
  | .fmin g d a b => enc3 0x14 g d a b 4
  | .fmax g d a b => enc3 0x14 g d a b 5
  | .fcvtf g d a => enc3 0x14 g d a 0 6
  | .fcvtfu g d a => enc3 0x14 g d a 0 7
  | .fcvti g d a => enc3 0x14 g d a 0 8
  | .fcvtiu g d a => enc3 0x14 g d a 0 9
  | .fabs g d a => enc3 0x14 g d a 0 10
  | .fneg g d a => enc3 0x14 g d a 0 11
  | .qpush g d q => encQ g d q 0
  | .qpushu g d q => encQ g d q 1
  | .qpushf g d q => encQ g d q 2
  | .qpops g d q => encQ g d q 3
  | .qpeek g d q => encQ g d q 4
  | .qstat g d q => encQ g d q 5
  | .qclose g q => encQ g 0 q 6
  | .csrr g d n => [encRI 0x16 g d 0 (BitVec.ofBool false ++ n)]
  | .csrw g a n => [encRI 0x16 g 0 a (BitVec.ofBool true ++ n)]
  | .end_ g => enc3 0x17 g 0 0 0 0
  | .yield g => enc3 0x17 g 0 0 0 1
  | .bar g => enc3 0x17 g 0 0 0 2
  | .rdv g m t => enc3 0x17 g (m ++ (0 : BitVec 1)) ((0 : BitVec 1) ++ t) 0 3
  | .cfork g m a b => enc3 0x17 g (m ++ (0 : BitVec 1)) a b 4
  | .cforkLong g m a b c => encL 0x17 g (m ++ (0 : BitVec 1)) a b 4 (c ++ (0 : BitVec 27))
  | .sigwait g s c a b => enc3 0x17 g (s ++ c) a b 5
  | .sigset g s a b => enc3 0x17 g (s ++ (0 : BitVec 2)) a b 6
  | .getts g d => enc3 0x17 g d 0 0 7
  | .trap g c => enc3 0x17 g 0 (c.extractLsb' 5 5) (c.extractLsb' 0 5) 8
  | .taskq g d a b => enc3 0x1E g d a b 0
  | .shpost g s a b => enc3 0x1E g (s ++ (0 : BitVec 2)) a b 1
  | .wid g d j => enc3 0x1E g d 0 j 2
  | .svret g => enc3 0x1F g 0 0 0 0
  | .rsave g a => enc3 0x1F g 0 a 0 1
  | .rrest g a => enc3 0x1F g 0 a 0 2
  | .tlbi g a k => enc3 0x1F g 0 a k 3
  | .ltld g s a => enc3 0x1F g ((0 : BitVec 3) ++ s) a 0 4
  | .recode g d a => enc3 0x1F g d a 0 5
  | .hint x => [BitVec.ofBool false ++ (0x3E : BitVec 6) ++ x]
  | .hintLong x q => [BitVec.ofBool true ++ (0x3E : BitVec 6) ++ x, q]
  | .vldq g q a => enc3 0x20 g q a 0 0
  | .vldsq g q a b => enc3 0x20 g q a b 1
  | .vldxq g q a b => enc3 0x20 g q a b 2
  | .vstq g q a => enc3 0x20 g q a 0 4
  | .vstsq g q a b => enc3 0x20 g q a b 5
  | .vstxq g q a b => enc3 0x20 g q a b 6
  | .setvlAccess g d a f => enc3 0x20 g d a f 8
  | .sbind g q a => enc3 0x21 g q a 0 0
  | .sunbind g q => enc3 0x21 g q 0 0 1
  | .copy g l d s cq cb sc sx sv dsp ssp => encL 0x22 g l d s 0 (encCopy cq cb sc sx sv 0 dsp ssp)
  | .copyt g l d s cq cb sc sx sv sh dsp ssp => encL 0x22 g l d s 1 (encCopy cq cb sc sx sv sh dsp ssp)
  | .cwait g cb a b => enc3 0x22 g cb a b 2
  | .ctest g d a b cb => encL 0x22 g d a b 3 (cb ++ (0 : BitVec 29))
  | .cclr g cb a b => enc3 0x22 g cb a b 4
  | .qfence g c q => encL 0x22 g 0 0 0 5 ((0 : BitVec 12) ++ c ++ q)
  | .tagrd g d a => enc3 0x23 g d a 0 0
  | .tagset g a b => enc3 0x23 g 0 a b 1
  | .pfl2 g a b => enc3 0x23 g 0 a b 2
  | .setvl g d a f => enc3 0x20 g d a f 0
  | .setvcap g d n => enc3 0x20 g d 0 n 1
  | .cbtld g a => enc3 0x20 g 0 a 0 2
  | .vtagr g d a => enc3 0x20 g d a 0 3
  | .vtagw g d a => enc3 0x20 g d a 0 4
  | .qpopv g d q => enc3 0x20 g d q 0 5
  | .vld g d a sp => enc3 0x21 g d a 0 (lsMinor false sp 0)
  | .vldLong g d a sp m => encV 0x21 g d a 0 (lsMinor false sp 0) m
  | .vst g d a sp => enc3 0x21 g d a 0 (lsMinor false sp 1)
  | .vstLong g d a sp m => encV 0x21 g d a 0 (lsMinor false sp 1) m
  | .vldx g d a b ls sp => enc3 0x21 g d a b (lsMinor ls sp 2)
  | .vldxLong g d a b ls sp m => encV 0x21 g d a b (lsMinor ls sp 2) m
  | .vstx g d a b ls sp => enc3 0x21 g d a b (lsMinor ls sp 3)
  | .vstxLong g d a b ls sp m => encV 0x21 g d a b (lsMinor ls sp 3) m
  | .vadd g d a b => enc3 0x22 g d a b 0
  | .vaddLong g d a b m => encV 0x22 g d a b 0 m
  | .vsub g d a b => enc3 0x22 g d a b 1
  | .vsubLong g d a b m => encV 0x22 g d a b 1 m
  | .vmul g d a b => enc3 0x22 g d a b 2
  | .vmulLong g d a b m => encV 0x22 g d a b 2 m
  | .vfma g d a b m => encV 0x22 g d a b 3 m
  | .vfms g d a b m => encV 0x22 g d a b 4 m
  | .vnfma g d a b m => encV 0x22 g d a b 5 m
  | .vmin g d a b => enc3 0x22 g d a b 6
  | .vminLong g d a b m => encV 0x22 g d a b 6 m
  | .vmax g d a b => enc3 0x22 g d a b 7
  | .vmaxLong g d a b m => encV 0x22 g d a b 7 m
  | .vabs g d a => enc3 0x22 g d a 0 8
  | .vabsLong g d a m => encV 0x22 g d a 0 8 m
  | .vneg g d a => enc3 0x22 g d a 0 9
  | .vnegLong g d a m => encV 0x22 g d a 0 9 m
  | .vand g d a b => enc3 0x23 g d a b 0
  | .vandLong g d a b m => encV 0x23 g d a b 0 m
  | .vor g d a b => enc3 0x23 g d a b 1
  | .vorLong g d a b m => encV 0x23 g d a b 1 m
  | .vxor g d a b => enc3 0x23 g d a b 2
  | .vxorLong g d a b m => encV 0x23 g d a b 2 m
  | .vshl g d a b => enc3 0x23 g d a b 3
  | .vshlLong g d a b m => encV 0x23 g d a b 3 m
  | .vshr g d a b => enc3 0x23 g d a b 4
  | .vshrLong g d a b m => encV 0x23 g d a b 4 m
  | .vsra g d a b => enc3 0x23 g d a b 5
  | .vsraLong g d a b m => encV 0x23 g d a b 5 m
  | .vcmp g d a b m => encV 0x23 g d a b 6 m
  | .vsel g d a b m => encV 0x23 g d a b 7 m
  | .vmov g d a => enc3 0x23 g d a 0 8
  | .vmovLong g d a m => encV 0x23 g d a 0 8 m
  | .vsplat g d a => enc3 0x23 g d a 0 9
  | .vsplatLong g d a m => encV 0x23 g d a 0 9 m
  | .vextr g d a b => enc3 0x23 g d a b 10
  | .vextrLong g d a b m => encV 0x23 g d a b 10 m
  | .vcvt g d a m => encV 0x24 g d a 0 0 m
  | .vscale g d a => enc3 0x24 g d a 0 1
  | .vscaleLong g d a m => encV 0x24 g d a 0 1 m
  | .vexp2 g d a => enc3 0x24 g d a 0 2
  | .vexp2Long g d a m => encV 0x24 g d a 0 2 m
  | .vlog2 g d a => enc3 0x24 g d a 0 3
  | .vlog2Long g d a m => encV 0x24 g d a 0 3 m
  | .vrcp g d a => enc3 0x24 g d a 0 4
  | .vrcpLong g d a m => encV 0x24 g d a 0 4 m
  | .vrsq g d a => enc3 0x24 g d a 0 5
  | .vrsqLong g d a m => encV 0x24 g d a 0 5 m
  | .vssmx g d a b m => encV 0x24 g d a b 6 m
  | .vredsum g d a => enc3 0x25 g d a 0 0
  | .vredsumLong g d a m => encV 0x25 g d a 0 0 m
  | .vredmax g d a => enc3 0x25 g d a 0 1
  | .vredmaxLong g d a m => encV 0x25 g d a 0 1 m
  | .vredmin g d a => enc3 0x25 g d a 0 2
  | .vredminLong g d a m => encV 0x25 g d a 0 2 m
  | .vscan g d a => enc3 0x25 g d a 0 3
  | .vscanLong g d a m => encV 0x25 g d a 0 3 m
  | .vperm g d a b => enc3 0x25 g d a b 4
  | .vpermLong g d a b m => encV 0x25 g d a b 4 m
  | .vslide g d a m => encV 0x25 g d a 0 5 m
  | .vcompress g d a m => encV 0x25 g d a 0 6 m
  | .vexpand g d a m => encV 0x25 g d a 0 7 m
  | .kand g d a b => enc3 0x26 g d a b 0
  | .kandLong g d a b m => encV 0x26 g d a b 0 m
  | .kor g d a b => enc3 0x26 g d a b 1
  | .korLong g d a b m => encV 0x26 g d a b 1 m
  | .kxor g d a b => enc3 0x26 g d a b 2
  | .kxorLong g d a b m => encV 0x26 g d a b 2 m
  | .kandn g d a b => enc3 0x26 g d a b 3
  | .kandnLong g d a b m => encV 0x26 g d a b 3 m
  | .knot g d a => enc3 0x26 g d a 0 4
  | .knotLong g d a m => encV 0x26 g d a 0 4 m
  | .kmov g d a => enc3 0x26 g d a 0 5
  | .kmovLong g d a m => encV 0x26 g d a 0 5 m
  | .kfirst g d a => enc3 0x26 g d a 0 6
  | .kfirstLong g d a m => encV 0x26 g d a 0 6 m
  | .kpop g d a => enc3 0x26 g d a 0 7
  | .kpopLong g d a m => encV 0x26 g d a 0 7 m
  | .reel g n a => [BitVec.ofBool false ++ (0x27 : BitVec 6) ++ g.bits ++ n ++ a ++ (0 : BitVec 10)]
  | .reelx g n a b =>
    [BitVec.ofBool true ++ (0x27 : BitVec 6) ++ g.bits ++ n ++ a ++ (1 : BitVec 10), b ++ (0 : BitVec 27)]
  | .convoy n u0 u1 u2 u3 u4 u5 =>
    [BitVec.ofBool false ++ (0x3F : BitVec 6) ++ n ++ u0 ++ u1 ++ u2 ++ u3 ++ u4 ++ u5 ++ (0 : BitVec 4)]
  | .mclaim g d n => enc3 0x20 g d 0 n 0
  | .mclaimElastic g d n => enc3 0x20 g d 0 n 6
  | .mrel g d => enc3 0x20 g d 0 0 1
  | .mzero g d => enc3 0x20 g d 0 0 2
  | .mrank g d a => enc3 0x20 g d a 0 3
  | .mtr g d a => enc3 0x20 g d a 0 4
  | .mdense g d a => enc3 0x20 g d a 0 5
  | .mld g d a b => enc3 0x21 g d a b 0
  | .mldSparse g d a b rc m => encL 0x21 g d a b 0 (encM2 rc 0 0 0 false 0 0 m)
  | .mldf g d a b => enc3 0x21 g d a b 1
  | .mst g d a b => enc3 0x21 g d a b 2
  | .mstf g d a b => enc3 0x21 g d a b 3
  | .mma g d a b => enc3 0x22 g d a b 0
  | .msld g d a b n => encL 0x22 g d a b 1 (encM2 0 0 0 0 false 0 n 0)
  | .mlmul g d a b => enc3 0x22 g d a b 2
  | .mladd g d a b rc re m => encL 0x22 g d a b 3 (encM2 rc 0 0 0 false re 0 m)
  | .mlrc g d a => enc3 0x22 g d a 0 4
  | .azero g d => enc3 0x23 g d 0 0 0
  | .ald g d a b => enc3 0x23 g d a b 1
  | .ast g d a b => enc3 0x23 g d a b 2
  | .acvt g d a f blk rm qd => encL 0x23 g d a 0 3 (encM2 0 f blk rm qd 0 0 0)
  | _ => []

/-! Every constructor's decoding, on a word written out from the encodings of R219 to R239. -/

/-- Each line's parcels decode at its site to its instruction, whose encoding they are. -/
noncomputable def decodesAll (l : List (Site × Parcel × Parcel × Instr)) : Bool :=
  l.all fun x => (decode x.1 x.2.1 x.2.2.1).toOption == some x.2.2.2
    && encode x.2.2.2 == (if x.2.1.long then [x.2.1, x.2.2.1] else [x.2.1])

theorem decode_scalar_alu : decodesAll
    [ (.cl .C, 0x02E32A40, 0x00000000, .add ⟨false, 7⟩ 3 5 9),
      (.cl .C, 0x03432A41, 0x00000000, .sub ⟨true, 2⟩ 3 5 9),
      (.cl .C, 0x02632A42, 0x00000000, .and ⟨false, 3⟩ 3 5 9),
      (.cl .C, 0x03E32A43, 0x00000000, .or ⟨true, 7⟩ 3 5 9),
      (.cl .C, 0x02E32A44, 0x00000000, .xor ⟨false, 7⟩ 3 5 9),
      (.cl .C, 0x03432A45, 0x00000000, .andn ⟨true, 2⟩ 3 5 9),
      (.cl .C, 0x02632A46, 0x00000000, .shl ⟨false, 3⟩ 3 5 9),
      (.cl .C, 0x03E32A47, 0x00000000, .shr ⟨true, 7⟩ 3 5 9),
      (.cl .C, 0x02E32A48, 0x00000000, .sra ⟨false, 7⟩ 3 5 9),
      (.cl .C, 0x03432A49, 0x00000000, .ror ⟨true, 2⟩ 3 5 9),
      (.cl .C, 0x02632A4A, 0x00000000, .min ⟨false, 3⟩ 3 5 9),
      (.cl .C, 0x03E32A4B, 0x00000000, .max ⟨true, 7⟩ 3 5 9),
      (.cl .C, 0x02E32A4C, 0x00000000, .minu ⟨false, 7⟩ 3 5 9),
      (.cl .C, 0x03432A4D, 0x00000000, .maxu ⟨true, 2⟩ 3 5 9),
      (.cl .C, 0x0263280E, 0x00000000, .clz ⟨false, 3⟩ 3 5),
      (.cl .C, 0x03E3280F, 0x00000000, .ctz ⟨true, 7⟩ 3 5),
      (.cl .C, 0x02E32810, 0x00000000, .popc ⟨false, 7⟩ 3 5),
      (.cl .C, 0x03432A60, 0x00000000, .adds ⟨true, 2⟩ 3 5 9),
      (.cl .C, 0x02632A61, 0x00000000, .subs ⟨false, 3⟩ 3 5 9),
      (.cl .C, 0x03E32A66, 0x00000000, .shls ⟨true, 7⟩ 3 5 9),
      (.cl .C, 0x04E329B7, 0x00000000, .addi ⟨false, 7⟩ 3 5 0x1B7),
      (.cl .C, 0x074329B7, 0x00000000, .andi ⟨true, 2⟩ 3 5 0x1B7),
      (.cl .C, 0x086329B7, 0x00000000, .ori ⟨false, 3⟩ 3 5 0x1B7),
      (.cl .C, 0x0BE329B7, 0x00000000, .xori ⟨true, 7⟩ 3 5 0x1B7),
      (.cl .C, 0x0CE32815, 0x00000000, .shli ⟨false, 7⟩ 3 5 21),
      (.cl .C, 0x0D432855, 0x00000000, .shri ⟨true, 2⟩ 3 5 21),
      (.cl .C, 0x0C632895, 0x00000000, .srai ⟨false, 3⟩ 3 5 21),
      (.cl .C, 0x0DE328D5, 0x00000000, .rori ⟨true, 7⟩ 3 5 21),
      (.cl .C, 0x0EE32A40, 0x00000000, .mul ⟨false, 7⟩ 3 5 9),
      (.cl .C, 0x0F432A41, 0x00000000, .mulh ⟨true, 2⟩ 3 5 9),
      (.cl .C, 0x0E632A42, 0x00000000, .mulhu ⟨false, 3⟩ 3 5 9),
      (.cl .C, 0x0FE32A43, 0x00000000, .div ⟨true, 7⟩ 3 5 9),
      (.cl .C, 0x0EE32A44, 0x00000000, .divu ⟨false, 7⟩ 3 5 9),
      (.cl .C, 0x0F432A45, 0x00000000, .rem ⟨true, 2⟩ 3 5 9),
      (.cl .C, 0x0E632A46, 0x00000000, .remu ⟨false, 3⟩ 3 5 9),
      (.cl .C, 0x0FE32A60, 0x00000000, .muls ⟨true, 7⟩ 3 5 9) ] = true := by
  decide +kernel

theorem decode_scalar_misc : decodesAll
    [ (.cl .C, 0x90E32800, 0x000002C7, .bextu ⟨false, 7⟩ 3 5 7 11),
      (.cl .C, 0x91432801, 0x000002C7, .bext ⟨true, 2⟩ 3 5 7 11),
      (.cl .C, 0x90632802, 0x000002C7, .bins ⟨false, 3⟩ 3 5 7 11),
      (.cl .C, 0x13E3F1B7, 0x00000000, .limmh ⟨true, 7⟩ 3 0xF1B7),
      (.cl .C, 0x92E32D5A, 0x96C3F1B7, .limm ⟨false, 7⟩ 3 0x2D5A96C3F1B7),
      (.cl .C, 0x154A9524, 0x00000000, .cmp ⟨true, 2⟩ 2 5 5 9 2),
      (.cl .C, 0x146A9534, 0x00000000, .fcmp ⟨false, 3⟩ 2 5 5 9 10),
      (.cl .C, 0x95EA9404, 0x96C3F1B7, .cmpi ⟨true, 7⟩ 2 5 5 0x96C3F1B7 2),
      (.cl .C, 0x16E32A4E, 0x00000000, .sel ⟨false, 7⟩ 3 5 9 true 6),
      (.cl .C, 0x1941F345, 0x00000000, .br ⟨true, 2⟩ 0x1F345),
      (.cl .C, 0x1A61F345, 0x00000000, .brl ⟨false, 3⟩ 0x1F345),
      (.cl .C, 0x1DE02800, 0x00000000, .jr ⟨true, 7⟩ 5),
      (.cl .C, 0x1CE32801, 0x00000000, .jrl ⟨false, 7⟩ 3 5),
      (.cl .C, 0x1F4AF345, 0x00000000, .loop ⟨true, 2⟩ 10 0xF345) ] = true := by
  decide +kernel

theorem decode_scalar_memory : decodesAll
    [ (.cl .C, 0x20632CE0, 0x00000000, .ldb ⟨false, 3⟩ 3 5 0x9C),
      (.cl .C, 0x21E32CE1, 0x00000000, .ldbu ⟨true, 7⟩ 3 5 0x9C),
      (.cl .C, 0x20E32CE2, 0x00000000, .ldh ⟨false, 7⟩ 3 5 0x9C),
      (.cl .C, 0x21432CE3, 0x00000000, .ldhu ⟨true, 2⟩ 3 5 0x9C),
      (.cl .C, 0x20632CE4, 0x00000000, .ldw ⟨false, 3⟩ 3 5 0x9C),
      (.cl .C, 0x21E32CE5, 0x00000000, .ldwu ⟨true, 7⟩ 3 5 0x9C),
      (.cl .C, 0x20E32CE6, 0x00000000, .ldd ⟨false, 7⟩ 3 5 0x9C),
      (.cl .C, 0x23432CE0, 0x00000000, .stb ⟨true, 2⟩ 3 5 0x9C),
      (.cl .C, 0x22632CE1, 0x00000000, .sth ⟨false, 3⟩ 3 5 0x9C),
      (.cl .C, 0x23E32CE2, 0x00000000, .stw ⟨true, 7⟩ 3 5 0x9C),
      (.cl .C, 0x22E32CE3, 0x00000000, .std ⟨false, 7⟩ 3 5 0x9C),
      (.cl .C, 0xA5432A40, 0x05C00000, .amoswap ⟨true, 2⟩ 3 5 9 1 3 true),
      (.cl .C, 0xA4632A40, 0x15C00000, .amoadd ⟨false, 3⟩ 3 5 9 1 3 true),
      (.cl .C, 0xA5E32A40, 0x25C00000, .amoand ⟨true, 7⟩ 3 5 9 1 3 true),
      (.cl .C, 0xA4E32A40, 0x35C00000, .amoor ⟨false, 7⟩ 3 5 9 1 3 true),
      (.cl .C, 0xA5432A40, 0x45C00000, .amoxor ⟨true, 2⟩ 3 5 9 1 3 true),
      (.cl .C, 0xA4632A40, 0x55C00000, .amomin ⟨false, 3⟩ 3 5 9 1 3 true),
      (.cl .C, 0xA5E32A40, 0x65C00000, .amomax ⟨true, 7⟩ 3 5 9 1 3 true),
      (.cl .C, 0xA4E32A40, 0x75C00000, .amominu ⟨false, 7⟩ 3 5 9 1 3 true),
      (.cl .C, 0xA5432A40, 0x85C00000, .amomaxu ⟨true, 2⟩ 3 5 9 1 3 true),
      (.cl .C, 0xA4632A40, 0x95C00000, .cas ⟨false, 3⟩ 3 5 9 1 3 true),
      (.cl .C, 0x27E32B00, 0x00000000, .ldacq ⟨true, 7⟩ 3 5 3),
      (.cl .C, 0x26E32B01, 0x00000000, .ldacqw ⟨false, 7⟩ 3 5 3),
      (.cl .C, 0x27432B02, 0x00000000, .strel ⟨true, 2⟩ 3 5 3),
      (.cl .C, 0x26632B03, 0x00000000, .strelw ⟨false, 3⟩ 3 5 3),
      (.cl .C, 0x27E00304, 0x00000000, .fence ⟨true, 7⟩ 3) ] = true := by
  decide +kernel

theorem decode_scalar_float_queue : decodesAll
    [ (.cl .C, 0x28E32A40, 0x00000000, .fadd ⟨false, 7⟩ 3 5 9),
      (.cl .C, 0x29432A41, 0x00000000, .fsub ⟨true, 2⟩ 3 5 9),
      (.cl .C, 0x28632A42, 0x00000000, .fmul ⟨false, 3⟩ 3 5 9),
      (.cl .C, 0x29E32A43, 0x00000000, .fma ⟨true, 7⟩ 3 5 9),
      (.cl .C, 0x28E32A44, 0x00000000, .fmin ⟨false, 7⟩ 3 5 9),
      (.cl .C, 0x29432A45, 0x00000000, .fmax ⟨true, 2⟩ 3 5 9),
      (.cl .C, 0x28632806, 0x00000000, .fcvtf ⟨false, 3⟩ 3 5),
      (.cl .C, 0x29E32807, 0x00000000, .fcvtfu ⟨true, 7⟩ 3 5),
      (.cl .C, 0x28E32808, 0x00000000, .fcvti ⟨false, 7⟩ 3 5),
      (.cl .C, 0x29432809, 0x00000000, .fcvtiu ⟨true, 2⟩ 3 5),
      (.cl .C, 0x2863280A, 0x00000000, .fabs ⟨false, 3⟩ 3 5),
      (.cl .C, 0x29E3280B, 0x00000000, .fneg ⟨true, 7⟩ 3 5),
      (.cl .C, 0x2AE36000, 0x00000000, .qpush ⟨false, 7⟩ 3 6),
      (.cl .C, 0x2B436001, 0x00000000, .qpushu ⟨true, 2⟩ 3 6),
      (.cl .C, 0x2A636002, 0x00000000, .qpushf ⟨false, 3⟩ 3 6),
      (.cl .C, 0x2BE36003, 0x00000000, .qpops ⟨true, 7⟩ 3 6),
      (.cl .C, 0x2AE36004, 0x00000000, .qpeek ⟨false, 7⟩ 3 6),
      (.cl .C, 0x2B436005, 0x00000000, .qstat ⟨true, 2⟩ 3 6),
      (.cl .C, 0x2A606006, 0x00000000, .qclose ⟨false, 3⟩ 6) ] = true := by
  decide +kernel

theorem decode_control : decodesAll
    [ (.cl .C, 0x2DE30005, 0x00000000, .csrr ⟨true, 7⟩ 3 5),
      (.cl .C, 0x2CE02C05, 0x00000000, .csrw ⟨false, 7⟩ 5 5),
      (.cl .C, 0x2F400000, 0x00000000, .end_ ⟨true, 2⟩),
      (.cl .C, 0x2E600001, 0x00000000, .yield ⟨false, 3⟩),
      (.cl .C, 0x2FE00002, 0x00000000, .bar ⟨true, 7⟩),
      (.cl .C, 0x2EF25803, 0x00000000, .rdv ⟨false, 7⟩ 9 11),
      (.cl .C, 0x2F4C2A44, 0x00000000, .cfork ⟨true, 2⟩ 6 5 9),
      (.cl .C, 0xAE6C2A44, 0x50000000, .cforkLong ⟨false, 3⟩ 6 5 9 10),
      (.cl .C, 0x2FEE2A45, 0x00000000, .sigwait ⟨true, 7⟩ 3 2 5 9),
      (.cl .C, 0x2EEC2A46, 0x00000000, .sigset ⟨false, 7⟩ 3 5 9),
      (.cl .C, 0x2F430007, 0x00000000, .getts ⟨true, 2⟩ 3),
      (.cl .C, 0x2E605548, 0x00000000, .trap ⟨false, 3⟩ 0x155),
      (.cl .C, 0x3DE32A40, 0x00000000, .taskq ⟨true, 7⟩ 3 5 9),
      (.cl .C, 0x3CEC2A41, 0x00000000, .shpost ⟨false, 7⟩ 3 5 9),
      (.cl .C, 0x3D430102, 0x00000000, .wid ⟨true, 2⟩ 3 4),
      (.sup, 0x3E600000, 0x00000000, .svret ⟨false, 3⟩),
      (.sup, 0x3FE02801, 0x00000000, .rsave ⟨true, 7⟩ 5),
      (.sup, 0x3EE02802, 0x00000000, .rrest ⟨false, 7⟩ 5),
      (.sup, 0x3F402843, 0x00000000, .tlbi ⟨true, 2⟩ 5 1),
      (.sup, 0x3E622804, 0x00000000, .ltld ⟨false, 3⟩ 2 5),
      (.sup, 0x3FE32805, 0x00000000, .recode ⟨true, 7⟩ 3 5),
      (.cl .C, 0x7D55AA55, 0x00000000, .hint 0x155AA55),
      (.cl .C, 0xFD55AA55, 0xDEADBEEF, .hintLong 0x155AA55 0xDEADBEEF) ] = true := by
  decide +kernel

theorem decode_access : decodesAll
    [ (.cl .A, 0x40662800, 0x00000000, .vldq ⟨false, 3⟩ 6 5),
      (.cl .A, 0x41E62A41, 0x00000000, .vldsq ⟨true, 7⟩ 6 5 9),
      (.cl .A, 0x40E62AC2, 0x00000000, .vldxq ⟨false, 7⟩ 6 5 11),
      (.cl .A, 0x41462804, 0x00000000, .vstq ⟨true, 2⟩ 6 5),
      (.cl .A, 0x40662A45, 0x00000000, .vstsq ⟨false, 3⟩ 6 5 9),
      (.cl .A, 0x41E62AC6, 0x00000000, .vstxq ⟨true, 7⟩ 6 5 11),
      (.cl .A, 0x40E32988, 0x00000000, .setvlAccess ⟨false, 7⟩ 3 5 6),
      (.cl .A, 0x43462800, 0x00000000, .sbind ⟨true, 2⟩ 6 5),
      (.cl .A, 0x42660001, 0x00000000, .sunbind ⟨false, 3⟩ 6),
      (.cl .A, 0xC5EE7C00, 0xAB8C8100, .copy ⟨true, 7⟩ 14 15 16 2 5 3 17 18 true false),
      (.cl .A, 0xC4EE7C01, 0xAB8CA700, .copyt ⟨false, 7⟩ 14 15 16 2 5 3 17 18 19 true false),
      (.cl .A, 0x45422A42, 0x00000000, .cwait ⟨true, 2⟩ 2 5 9),
      (.cl .A, 0xC4632A43, 0xA0000000, .ctest ⟨false, 3⟩ 3 5 9 5),
      (.cl .A, 0x45E22A44, 0x00000000, .cclr ⟨true, 7⟩ 2 5 9),
      (.cl .A, 0xC4E00005, 0x00058421, .qfence ⟨false, 7⟩ 5 0x8421),
      (.cl .A, 0x47432800, 0x00000000, .tagrd ⟨true, 2⟩ 3 5),
      (.cl .A, 0x46602A41, 0x00000000, .tagset ⟨false, 3⟩ 5 9),
      (.cl .A, 0x47E02A42, 0x00000000, .pfl2 ⟨true, 7⟩ 5 9) ] = true := by
  decide +kernel

theorem decode_vector_config_memory : decodesAll
    [ (.cl .V, 0x40E32980, 0x00000000, .setvl ⟨false, 7⟩ 3 5 6),
      (.cl .V, 0x41430201, 0x00000000, .setvcap ⟨true, 2⟩ 3 8),
      (.cl .V, 0x40602802, 0x00000000, .cbtld ⟨false, 3⟩ 5),
      (.cl .V, 0x41E32803, 0x00000000, .vtagr ⟨true, 7⟩ 3 5),
      (.cl .V, 0x40E32804, 0x00000000, .vtagw ⟨false, 7⟩ 3 5),
      (.cl .V, 0x41433005, 0x00000000, .qpopv ⟨true, 2⟩ 3 6),
      (.cl .V, 0x42632800, 0x00000000, .vld ⟨false, 3⟩ 3 5 false),
      (.cl .V, 0xC3E32800, 0x00128800, .vldLong ⟨true, 7⟩ 3 5 false ⟨0, 0, 4, true, 2, false, false, true, false, 0x0⟩),
      (.cl .V, 0x42E32801, 0x00000000, .vst ⟨false, 7⟩ 3 5 false),
      (.cl .V, 0xC3432801, 0x00110000, .vstLong ⟨true, 2⟩ 3 5 false ⟨0, 0, 4, false, 4, false, false, false, false, 0x0⟩),
      (.cl .V, 0x42632A42, 0x00000000, .vldx ⟨false, 3⟩ 3 5 9 false false),
      (.cl .V, 0xC3E32A42, 0x00128000, .vldxLong ⟨true, 7⟩ 3 5 9 false false ⟨0, 0, 4, true, 2, false, false, false, false, 0x0⟩),
      (.cl .V, 0x42E32A43, 0x00000000, .vstx ⟨false, 7⟩ 3 5 9 false false),
      (.cl .V, 0xC3432A43, 0x00110000, .vstxLong ⟨true, 2⟩ 3 5 9 false false ⟨0, 0, 4, false, 4, false, false, false, false, 0x0⟩) ] = true := by
  decide +kernel

theorem decode_vector_arithmetic : decodesAll
    [ (.cl .V, 0x44632A40, 0x00000000, .vadd ⟨false, 3⟩ 3 5 9),
      (.cl .V, 0xC5E32A40, 0x00D2A801, .vaddLong ⟨true, 7⟩ 3 5 9 ⟨0, 3, 4, true, 2, true, false, true, false, 0x1⟩),
      (.cl .V, 0x44E32A41, 0x00000000, .vsub ⟨false, 7⟩ 3 5 9),
      (.cl .V, 0xC5432A41, 0x00D2A801, .vsubLong ⟨true, 2⟩ 3 5 9 ⟨0, 3, 4, true, 2, true, false, true, false, 0x1⟩),
      (.cl .V, 0x44632A42, 0x00000000, .vmul ⟨false, 3⟩ 3 5 9),
      (.cl .V, 0xC5E32A42, 0x00D2A801, .vmulLong ⟨true, 7⟩ 3 5 9 ⟨0, 3, 4, true, 2, true, false, true, false, 0x1⟩),
      (.cl .V, 0x44E32A46, 0x00000000, .vmin ⟨false, 7⟩ 3 5 9),
      (.cl .V, 0xC5432A46, 0x00D2A801, .vminLong ⟨true, 2⟩ 3 5 9 ⟨0, 3, 4, true, 2, true, false, true, false, 0x1⟩),
      (.cl .V, 0x44632A47, 0x00000000, .vmax ⟨false, 3⟩ 3 5 9),
      (.cl .V, 0xC5E32A47, 0x00D2A801, .vmaxLong ⟨true, 7⟩ 3 5 9 ⟨0, 3, 4, true, 2, true, false, true, false, 0x1⟩),
      (.cl .V, 0x44E32808, 0x00000000, .vabs ⟨false, 7⟩ 3 5),
      (.cl .V, 0xC5432808, 0x00D2A801, .vabsLong ⟨true, 2⟩ 3 5 ⟨0, 3, 4, true, 2, true, false, true, false, 0x1⟩),
      (.cl .V, 0x44632809, 0x00000000, .vneg ⟨false, 3⟩ 3 5),
      (.cl .V, 0xC5E32809, 0x00D2A801, .vnegLong ⟨true, 7⟩ 3 5 ⟨0, 3, 4, true, 2, true, false, true, false, 0x1⟩),
      (.cl .V, 0xC4E32A43, 0x38D2AC01, .vfma ⟨false, 7⟩ 3 5 9 ⟨7, 3, 4, true, 2, true, false, true, true, 0x1⟩),
      (.cl .V, 0xC5432A44, 0x38D2AC01, .vfms ⟨true, 2⟩ 3 5 9 ⟨7, 3, 4, true, 2, true, false, true, true, 0x1⟩),
      (.cl .V, 0xC4632A45, 0x38D2AC01, .vnfma ⟨false, 3⟩ 3 5 9 ⟨7, 3, 4, true, 2, true, false, true, true, 0x1⟩),
      (.cl .V, 0x47E32A40, 0x00000000, .vand ⟨true, 7⟩ 3 5 9) ] = true := by
  decide +kernel

theorem decode_vector_bits : decodesAll
    [ (.cl .V, 0xC6E32A40, 0x00128000, .vandLong ⟨false, 7⟩ 3 5 9 ⟨0, 0, 4, true, 2, false, false, false, false, 0x0⟩),
      (.cl .V, 0x47432A41, 0x00000000, .vor ⟨true, 2⟩ 3 5 9),
      (.cl .V, 0xC6632A41, 0x00128000, .vorLong ⟨false, 3⟩ 3 5 9 ⟨0, 0, 4, true, 2, false, false, false, false, 0x0⟩),
      (.cl .V, 0x47E32A42, 0x00000000, .vxor ⟨true, 7⟩ 3 5 9),
      (.cl .V, 0xC6E32A42, 0x00128000, .vxorLong ⟨false, 7⟩ 3 5 9 ⟨0, 0, 4, true, 2, false, false, false, false, 0x0⟩),
      (.cl .V, 0x47432A43, 0x00000000, .vshl ⟨true, 2⟩ 3 5 9),
      (.cl .V, 0xC6632A43, 0x00128000, .vshlLong ⟨false, 3⟩ 3 5 9 ⟨0, 0, 4, true, 2, false, false, false, false, 0x0⟩),
      (.cl .V, 0x47E32A44, 0x00000000, .vshr ⟨true, 7⟩ 3 5 9),
      (.cl .V, 0xC6E32A44, 0x00128000, .vshrLong ⟨false, 7⟩ 3 5 9 ⟨0, 0, 4, true, 2, false, false, false, false, 0x0⟩),
      (.cl .V, 0x47432A45, 0x00000000, .vsra ⟨true, 2⟩ 3 5 9),
      (.cl .V, 0xC6632A45, 0x00128000, .vsraLong ⟨false, 3⟩ 3 5 9 ⟨0, 0, 4, true, 2, false, false, false, false, 0x0⟩),
      (.cl .V, 0xC7E32A46, 0xF8128005, .vcmp ⟨true, 7⟩ 3 5 9 ⟨31, 0, 4, true, 2, false, false, false, false, 0x5⟩),
      (.cl .V, 0xC6E32A47, 0x40128000, .vsel ⟨false, 7⟩ 3 5 9 ⟨8, 0, 4, true, 2, false, false, false, false, 0x0⟩),
      (.cl .V, 0x47432808, 0x00000000, .vmov ⟨true, 2⟩ 3 5),
      (.cl .V, 0xC6632808, 0x00128000, .vmovLong ⟨false, 3⟩ 3 5 ⟨0, 0, 4, true, 2, false, false, false, false, 0x0⟩),
      (.cl .V, 0x47E32809, 0x00000000, .vsplat ⟨true, 7⟩ 3 5),
      (.cl .V, 0xC6E32809, 0x04D28000, .vsplatLong ⟨false, 7⟩ 3 5 ⟨0, 19, 4, true, 2, false, false, false, false, 0x0⟩),
      (.cl .V, 0x47432A4A, 0x00000000, .vextr ⟨true, 2⟩ 3 5 9),
      (.cl .V, 0xC6632A4A, 0x00128000, .vextrLong ⟨false, 3⟩ 3 5 9 ⟨0, 0, 4, true, 2, false, false, false, false, 0x0⟩) ] = true := by
  decide +kernel

theorem decode_vector_functions : decodesAll
    [ (.cl .V, 0xC9E32800, 0x00130026, .vcvt ⟨true, 7⟩ 3 5 ⟨0, 0, 4, true, 4, false, false, false, false, 0x26⟩),
      (.cl .V, 0x48E32801, 0x00000000, .vscale ⟨false, 7⟩ 3 5),
      (.cl .V, 0xC9432801, 0x00128040, .vscaleLong ⟨true, 2⟩ 3 5 ⟨0, 0, 4, true, 2, false, false, false, false, 0x40⟩),
      (.cl .V, 0x48632802, 0x00000000, .vexp2 ⟨false, 3⟩ 3 5),
      (.cl .V, 0xC9E32802, 0x00D2A801, .vexp2Long ⟨true, 7⟩ 3 5 ⟨0, 3, 4, true, 2, true, false, true, false, 0x1⟩),
      (.cl .V, 0x48E32803, 0x00000000, .vlog2 ⟨false, 7⟩ 3 5),
      (.cl .V, 0xC9432803, 0x00D2A801, .vlog2Long ⟨true, 2⟩ 3 5 ⟨0, 3, 4, true, 2, true, false, true, false, 0x1⟩),
      (.cl .V, 0x48632804, 0x00000000, .vrcp ⟨false, 3⟩ 3 5),
      (.cl .V, 0xC9E32804, 0x00D2A801, .vrcpLong ⟨true, 7⟩ 3 5 ⟨0, 3, 4, true, 2, true, false, true, false, 0x1⟩),
      (.cl .V, 0x48E32805, 0x00000000, .vrsq ⟨false, 7⟩ 3 5),
      (.cl .V, 0xC9432805, 0x00D2A801, .vrsqLong ⟨true, 2⟩ 3 5 ⟨0, 3, 4, true, 2, true, false, true, false, 0x1⟩),
      (.cl .V, 0xC8632A46, 0xE8128000, .vssmx ⟨false, 3⟩ 3 5 9 ⟨29, 0, 4, true, 2, false, false, false, false, 0x0⟩) ] = true := by
  decide +kernel

theorem decode_vector_reduce : decodesAll
    [ (.cl .V, 0x4BE32800, 0x00000000, .vredsum ⟨true, 7⟩ 3 5),
      (.cl .V, 0xCAE32800, 0x00128000, .vredsumLong ⟨false, 7⟩ 3 5 ⟨0, 0, 4, true, 2, false, false, false, false, 0x0⟩),
      (.cl .V, 0x4B432801, 0x00000000, .vredmax ⟨true, 2⟩ 3 5),
      (.cl .V, 0xCA632801, 0x00128000, .vredmaxLong ⟨false, 3⟩ 3 5 ⟨0, 0, 4, true, 2, false, false, false, false, 0x0⟩),
      (.cl .V, 0x4BE32802, 0x00000000, .vredmin ⟨true, 7⟩ 3 5),
      (.cl .V, 0xCAE32802, 0x00128000, .vredminLong ⟨false, 7⟩ 3 5 ⟨0, 0, 4, true, 2, false, false, false, false, 0x0⟩),
      (.cl .V, 0x4B432803, 0x00000000, .vscan ⟨true, 2⟩ 3 5),
      (.cl .V, 0xCA632803, 0x00128000, .vscanLong ⟨false, 3⟩ 3 5 ⟨0, 0, 4, true, 2, false, false, false, false, 0x0⟩),
      (.cl .V, 0x4BE32A44, 0x00000000, .vperm ⟨true, 7⟩ 3 5 9),
      (.cl .V, 0xCAE32A44, 0x00128000, .vpermLong ⟨false, 7⟩ 3 5 9 ⟨0, 0, 4, true, 2, false, false, false, false, 0x0⟩),
      (.cl .V, 0xCB432805, 0x001283FD, .vslide ⟨true, 2⟩ 3 5 ⟨0, 0, 4, true, 2, false, false, false, false, 0x3FD⟩),
      (.cl .V, 0xCA632806, 0x40128000, .vcompress ⟨false, 3⟩ 3 5 ⟨8, 0, 4, true, 2, false, false, false, false, 0x0⟩),
      (.cl .V, 0xCBE32807, 0x40128000, .vexpand ⟨true, 7⟩ 3 5 ⟨8, 0, 4, true, 2, false, false, false, false, 0x0⟩),
      (.cl .V, 0x4CE32A40, 0x00000000, .kand ⟨false, 7⟩ 3 5 9) ] = true := by
  decide +kernel

theorem decode_mask_reel : decodesAll
    [ (.cl .V, 0xCD432A40, 0x003C8000, .kandLong ⟨true, 2⟩ 3 5 9 ⟨0, 0, 15, false, 2, false, false, false, false, 0x0⟩),
      (.cl .V, 0x4C632A41, 0x00000000, .kor ⟨false, 3⟩ 3 5 9),
      (.cl .V, 0xCDE32A41, 0x003C8000, .korLong ⟨true, 7⟩ 3 5 9 ⟨0, 0, 15, false, 2, false, false, false, false, 0x0⟩),
      (.cl .V, 0x4CE32A42, 0x00000000, .kxor ⟨false, 7⟩ 3 5 9),
      (.cl .V, 0xCD432A42, 0x003C8000, .kxorLong ⟨true, 2⟩ 3 5 9 ⟨0, 0, 15, false, 2, false, false, false, false, 0x0⟩),
      (.cl .V, 0x4C632A43, 0x00000000, .kandn ⟨false, 3⟩ 3 5 9),
      (.cl .V, 0xCDE32A43, 0x003C8000, .kandnLong ⟨true, 7⟩ 3 5 9 ⟨0, 0, 15, false, 2, false, false, false, false, 0x0⟩),
      (.cl .V, 0x4CE32804, 0x00000000, .knot ⟨false, 7⟩ 3 5),
      (.cl .V, 0xCD432804, 0x003C8000, .knotLong ⟨true, 2⟩ 3 5 ⟨0, 0, 15, false, 2, false, false, false, false, 0x0⟩),
      (.cl .V, 0x4C632805, 0x00000000, .kmov ⟨false, 3⟩ 3 5),
      (.cl .V, 0xCDE32805, 0x003C8000, .kmovLong ⟨true, 7⟩ 3 5 ⟨0, 0, 15, false, 2, false, false, false, false, 0x0⟩),
      (.cl .V, 0x4CE32806, 0x00000000, .kfirst ⟨false, 7⟩ 3 5),
      (.cl .V, 0xCD432806, 0x003C8000, .kfirstLong ⟨true, 2⟩ 3 5 ⟨0, 0, 15, false, 2, false, false, false, false, 0x0⟩),
      (.cl .V, 0x4C632807, 0x00000000, .kpop ⟨false, 3⟩ 3 5),
      (.cl .V, 0xCDE32807, 0x003C8001, .kpopLong ⟨true, 7⟩ 3 5 ⟨0, 0, 15, false, 2, false, false, false, false, 0x1⟩),
      (.cl .V, 0x4EF29400, 0x00000000, .reel ⟨false, 7⟩ 0x25 5),
      (.cl .V, 0xCF529401, 0x48000000, .reelx ⟨true, 2⟩ 0x25 5 9),
      (.cl .V, 0x7E46BFF0, 0x00000000, .convoy 1 0 6 5 7 7 7) ] = true := by
  decide +kernel

theorem decode_matrix : decodesAll
    [ (.cl .M, 0x41E30400, 0x00000000, .mclaim ⟨true, 7⟩ 3 16),
      (.cl .M, 0x40E30406, 0x00000000, .mclaimElastic ⟨false, 7⟩ 3 16),
      (.cl .M, 0x41430001, 0x00000000, .mrel ⟨true, 2⟩ 3),
      (.cl .M, 0x40630002, 0x00000000, .mzero ⟨false, 3⟩ 3),
      (.cl .M, 0x41E32803, 0x00000000, .mrank ⟨true, 7⟩ 3 5),
      (.cl .M, 0x40E32804, 0x00000000, .mtr ⟨false, 7⟩ 3 5),
      (.cl .M, 0x41432805, 0x00000000, .mdense ⟨true, 2⟩ 3 5),
      (.cl .M, 0x42632A40, 0x00000000, .mld ⟨false, 3⟩ 3 5 9),
      (.cl .M, 0xC3E32A40, 0x60000001, .mldSparse ⟨true, 7⟩ 3 5 9 12 1),
      (.cl .M, 0x42E32A41, 0x00000000, .mldf ⟨false, 7⟩ 3 5 9),
      (.cl .M, 0x43432A42, 0x00000000, .mst ⟨true, 2⟩ 3 5 9),
      (.cl .M, 0x42632A43, 0x00000000, .mstf ⟨false, 3⟩ 3 5 9),
      (.cl .M, 0x45E32A40, 0x00000000, .mma ⟨true, 7⟩ 3 5 9),
      (.cl .M, 0xC4E32A41, 0x00000054, .msld ⟨false, 7⟩ 3 5 9 21),
      (.cl .M, 0x45432A42, 0x00000000, .mlmul ⟨true, 2⟩ 3 5 9),
      (.cl .M, 0xC4632A43, 0x60000D01, .mladd ⟨false, 3⟩ 3 5 9 12 13 1),
      (.cl .M, 0x45E32804, 0x00000000, .mlrc ⟨true, 7⟩ 3 5),
      (.cl .M, 0x46E30000, 0x00000000, .azero ⟨false, 7⟩ 3),
      (.cl .M, 0x47432A41, 0x00000000, .ald ⟨true, 2⟩ 3 5 9),
      (.cl .M, 0x46632A42, 0x00000000, .ast ⟨false, 3⟩ 3 5 9),
      (.cl .M, 0xC7E32803, 0x01908000, .acvt ⟨true, 7⟩ 3 5 6 1 2 false) ] = true := by
  decide +kernel

end Sys2Proof
end

