-- ==== Sys2Proof/Machine/Fetch.lean ====
section
/-! DEFINITION. Fetching and decoding the next instruction of the executing agent (R215, R216, R230, R317, R416), and loads
whose results land late (R33, R115). -/

namespace Sys2Proof.Machine

/-- The parcel at an address, under X permission (R215). -/
def fetchParcel (pc : Word) : Comp Parcel := do
  let v ← load .fetch pc 4
  pure (BitVec.ofNat 32 v)

/-- `n` parcels from an address on. -/
def fetchParcels (pc : Word) : Nat → Comp (List Parcel)
  | 0 => pure []
  | n + 1 => do
    let p ← fetchParcel pc
    let t ← fetchParcels (pc + 4) n
    pure (p :: t)

/-- The trap of undecodable parcels (R410). -/
def badTrap (p : Parcel) : Bad → Stop
  | .illegal r => illegalEncoding r p
  | .header r => .trap 0x0002 0 (at_ 16 r ||| at_ 32 p.toNat)

/-- Decodes parcels at the executing agent's site, or traps. -/
noncomputable def decodeHere (p q : Parcel) : Comp Instr := do
  match decode (← get).site p q with
  | .ok i => pure i
  | .error b => throw (badTrap p b)

/-- A first parcel that alone shows reason 1 to 4 of R411 traps before a second one is fetched (R416). -/
noncomputable def firstOnly (site : Site) (p : Parcel) : Bool :=
  match decode site p 0 with
  | .error (.illegal r) => r ≤ 4
  | _ => false

/-- The next instruction: a member of the convoy in progress, a packet of the reel's body, or the parcels at the PC. -/
noncomputable def fetchNext : Comp Instr := do
  let s ← get
  let x := s.me
  match x.convoy with
  | some cv =>
    let m := cv.members.getD cv.next (0, 0)
    decodeHere m.1 m.2
  | none =>
    match x.reel with
    | some r => decodeHere (r.body.getD r.pos 0) (r.body.getD (r.pos + 1) 0)
    | none =>
      let p ← fetchParcel x.pc
      if p.long && !firstOnly s.site p then
        let q ← fetchParcel (x.pc + 4)
        decodeHere p q
      else decodeHere p 0

/-- The cluster waits for a TLBI (R425). -/
def Cluster.heldMig (x : Cluster) : Bool :=
  match x.run, x.wait with
  | .waiting, some (.memory 0x0105 _ _ _) => true
  | _, _ => false

/-- The agent may execute its next instruction now. -/
def State.canRun (s : State) (a : Agent) : Bool :=
  match a with
  | .cluster k c => s.mayIssue k && ((s.ctx k).cl c).run != .idle && !((s.ctx k).cl c).heldMig
  | .sup n => (s.core n).busy && (s.core n).cl.run != .idle

/-- A load of the executing cluster is still to land (R33, R116). The model lets the cluster wait for every such load. -/
def State.loadPending (s : State) : Bool := s.me.pend.length != 0

/-- The scalar register that a load writes. -/
def loadDest : Instr → Option RegF
  | .ldb _ d .. | .ldbu _ d .. | .ldh _ d .. | .ldhu _ d .. | .ldw _ d .. | .ldwu _ d .. | .ldd _ d .. | .ldacq _ d ..
  | .ldacqw _ d .. => some d
  | _ => none

/-- The vector register that a load writes. -/
def loadVreg : Instr → Option RegF
  | .vld _ d .. | .vldLong _ d .. | .vldx _ d .. | .vldxLong _ d .. => some d
  | _ => none

/-- The queue that a load without an index queue fills. -/
def loadQueue : Instr → Option RegF
  | .vldq _ q _ | .vldsq _ q .. => some q
  | _ => none

/-- A register that the V cluster holds in part, since pre-emption has cut its load short, waits for that load (R116, R194). -/
def State.vregsPart (s : State) (i : Instr) : Bool :=
  s.cur == .cluster s.slot .V
    && s.myCtx.vregs.any fun p => !p.2.missing.isEmpty && (loadVreg i).all fun d => d.toNat != p.1

/-! ### Before an instruction has its effect -/

/-- The vector operand whose element groups START counts (R191): the destination, or the source of a store or a comparison. Only an
instruction that works element by element stops part-way (log entry 42). -/
def groupField : Instr → Option (RegF × Bool)
  | .vadd _ d .. | .vsub _ d .. | .vmul _ d .. | .vmin _ d .. | .vmax _ d .. | .vabs _ d .. | .vneg _ d .. | .vand _ d ..
  | .vor _ d .. | .vxor _ d .. | .vshl _ d .. | .vshr _ d .. | .vsra _ d .. | .vmov _ d .. | .vsplat _ d .. | .vscale _ d ..
  | .vexp2 _ d .. | .vlog2 _ d .. | .vrcp _ d .. | .vrsq _ d .. | .vst _ d .. | .vstLong _ d .. | .vstx _ d .. | .vstxLong _ d .. =>
    some (d, false)
  | .vaddLong _ d _ _ m | .vsubLong _ d _ _ m | .vmulLong _ d _ _ m | .vminLong _ d _ _ m | .vmaxLong _ d _ _ m | .vabsLong _ d _ m
  | .vnegLong _ d _ m | .vfma _ d _ _ m | .vfms _ d _ _ m | .vnfma _ d _ _ m | .vandLong _ d _ _ m | .vorLong _ d _ _ m
  | .vxorLong _ d _ _ m | .vshlLong _ d _ _ m | .vshrLong _ d _ _ m | .vsraLong _ d _ _ m | .vsel _ d _ _ m | .vmovLong _ d _ m
  | .vsplatLong _ d _ m | .vcvt _ d _ m | .vscaleLong _ d _ m | .vexp2Long _ d _ m | .vlog2Long _ d _ m | .vrcpLong _ d _ m
  | .vrsqLong _ d _ m => some (d, m.qd)
  | .vcmp _ _ a _ m => some (a, m.qa)
  | _ => none

/-- The format of a register, or of the entry at the tail of a queue that an instruction has begun to push (R191, R449). -/
def Ctx.groupFmt (x : Ctx) (f : RegF × Bool) : Fmt :=
  if f.2 then (((x.queues.get .initial f.1.toNat).entries.getLast?).map fun e => e.strip.tag.fmt).getD 0
  else (x.vregs.get .initial f.1.toNat).strip.tag.fmt

/-- The element at which START of member `j` lets an instruction resume (R191). -/
def Ctx.startElem (x : Ctx) (j : Nat) (i : Instr) : Nat :=
  let g := x.v.start.get 0 j
  match groupField i with
  | some f => if g = 0xFFFF then 0 else g.toNat * perGroup (x.groupFmt f)
  | none => 0

/-- A store whose lines may be written later (R138). -/
def isStore : Instr → Bool
  | .stb .. | .sth .. | .stw .. | .std .. | .vst .. | .vstLong .. | .vstx .. | .vstxLong .. | .vstq .. | .vstsq .. | .vstxq ..
  | .mst .. | .mstf .. | .ast .. | .acvt .. => true
  | _ => false

/-- An instruction before which the cluster performs the stores that it has issued: it accesses memory, orders accesses, or ends the
cluster (R29, R47, R138 .. R140; log entry 61). -/
def ordersStores : Instr → Bool
  | .fence .. | .bar .. | .end_ .. | .ldb .. | .ldbu .. | .ldh .. | .ldhu .. | .ldw .. | .ldwu .. | .ldd .. | .ldacq .. | .ldacqw ..
  | .strel .. | .strelw .. | .amoswap .. | .amoadd .. | .amoand .. | .amoor .. | .amoxor .. | .amomin .. | .amomax .. | .amominu ..
  | .amomaxu .. | .cas .. | .sigwait .. | .sigset .. | .taskq .. | .shpost .. | .vldq .. | .vldsq .. | .vldxq .. | .sbind ..
  | .copy .. | .copyt .. | .qfence .. | .tagrd .. | .tagset .. | .pfl2 .. | .cbtld .. | .vld .. | .vldLong .. | .vldx ..
  | .vldxLong .. | .mld .. | .mldSparse .. | .mldf .. | .ald .. | .convoy .. | .trap .. | .csrw .. => true
  | i => isStore i

/-- The packet issues: YIELD ends (R345), the instruction resumes at its START (R191), and with `late` its stores are performed
later (R138). -/
def State.enter (s : State) (i : Instr) (late : Bool) : State :=
  let lo := if s.isSup then 0 else s.myCtx.startElem s.me.member i
  let s1 := s.modMe fun x => { x with yielded := false, lo := lo, hi := none, late := late && isStore i }
  match s.cur with
  | .cluster k c => if ordersStores i then s1.performStores k c else s1
  | .sup _ => s1

/-- The result of a completed load is still to land: a scalar register keeps its old value until LOAD_DATA_RETURN, and the
groups of a vector register or of a queue entry arrive one by one (R33, R115, R267). `s` is the state before the load and `t`
after it. -/
def State.defer (i : Instr) (s t : State) : State :=
  if t.me.run == .running && t.me.pc != s.me.pc && !t.isSup && s.me.convoy.isNone && s.me.reel.isNone then
    match loadDest i, loadVreg i, loadQueue i with
    | some d, _, _ =>
      t.modMe fun x =>
        { x.writeS d (s.readS d) with pend := x.pend ++ [Pend.scalar d.toNat (t.readS d)], loadPc := some s.me.pc }
    | none, some d, _ =>
      let r := t.myCtx.vregs.get VReg.initial d.toNat
      let old := s.myCtx.vregs.get VReg.initial d.toNat
      if r = old ∨ t.myCtx.queues ≠ s.myCtx.queues then t
      else
        let gs := groupsOf r.strip.tag.f t.me.vl.toNat
        let t1 := t.modMyCtx fun x =>
          { x with vregs := x.vregs.set .initial d.toNat { strip := r.strip.withGroups old.strip gs, missing := gs } }
        t1.modMe fun x => { x with pend := x.pend ++ [Pend.vector d.toNat r.strip], loadPc := some s.me.pc }
    | none, none, some q =>
      let old := (s.myCtx.queues.get Queue.initial q.toNat)
      let new := (t.myCtx.queues.get Queue.initial q.toNat)
      if new.entries.length = old.entries.length + 1 ∧ new.unplaced = [] then
        let t1 := t.modMyCtx fun x => { x with queues := x.queues.modify .initial q.toNat fun y =>
          { y with entries := y.entries.dropLast ++ (y.entries.getLast?.map fun e => { e with missing := groupsOf e.strip.tag.f e.count }).toList } }
        t1.modMe fun x => { x with pend := x.pend ++ [Pend.queue q.toNat], loadPc := some s.me.pc }
      else t
    | none, none, none => t
  else t

/-- With its last part landed, the load is no longer a place to restart at. -/
def Cluster.landed (x : Cluster) : Cluster := if x.pend.isEmpty then { x with loadPc := none } else x

/-- Element group `g` of the last entry of queue `q`, whose load is still to land, arrives (R267). -/
def Ctx.landQueue (x : Ctx) (q g : Nat) : Ctx :=
  let y := x.queues.get .initial q
  match y.entries.getLast? with
  | some e =>
    if !(x.a.pend.contains (.queue q) && e.missing.contains g) then x
    else
      let missing := e.missing.filter (· != g)
      let x1 := { x with queues := x.queues.set .initial q { y with entries := y.entries.dropLast ++ [{ e with missing := missing }] } }
      if missing.isEmpty then { x1 with a := ({ x1.a with pend := x1.a.pend.filter (· != .queue q) } : Cluster).landed } else x1
  | none => x

/-- Element group `g` of the vector load that is still to land in register `r` arrives (R115). -/
def Ctx.landGroup (x : Ctx) (r g : Nat) : Ctx :=
  let old := x.vregs.get .initial r
  if !old.missing.contains g then x
  else
    let src := x.v.pend.findSome? fun p => match p with
      | .vector q y => if q = r then some y else none
      | .scalar .. | .queue _ => none
    let missing := old.missing.filter (· != g)
    let v : VReg := { strip := src.elim old.strip fun y => old.strip.withGroups y [g], missing := missing }
    let x1 := { x with vregs := x.vregs.set .initial r v }
    if missing.isEmpty then
      { x1 with v := ({ x1.v with pend := x1.v.pend.filter fun p => match p with
        | .vector q _ => q != r
        | .scalar .. | .queue _ => true } : Cluster).landed }
    else x1

/-- Scalar load results land in the registers of a cluster, in order. -/
def Cluster.landScalars (x : Cluster) : Cluster :=
  let y := x.pend.foldl (fun y p => match p with
    | .scalar r v => Cluster.writeS y (BitVec.ofNat 5 r) v
    | .vector .. | .queue _ => y) x
  { y with pend := y.pend.filter fun p => match p with
    | .vector .. | .queue _ => true
    | .scalar .. => false }

/-- The cluster as pre-emption or an event leaves it: a load that is still to land is issued again, for what has not landed (R116, R188,
R433). -/
def Cluster.atLoad (x : Cluster) : Cluster :=
  if x.pend.isEmpty then x
  else { x with pc := x.loadPc.getD x.pc, pend := [], loadPc := none, run := .running, wait := none }

end Sys2Proof.Machine
end

