-- ==== Sys2Proof/Machine/ControlRegs.lean ====
section
/-! DEFINITION. The control registers (R351 .. R356): CSRR, CSRW, changes of a bank's mode (R110, R111) and of a queue's
configuration (R167, R356). -/

namespace Sys2Proof.Machine

/-! ### Queue configuration -/

/-- QCFGn (R356). -/
def Queue.qcfg (x : Queue) : Word :=
  BitVec.ofNat 64 (x.nb.toNat * 2 ^ 12 + x.first.toNat * 2 ^ 6 + x.cons.toNat * 8 + x.prod.toNat)

/-- The FIFO banks of a context, ascending (R112). -/
def State.fifoBanks (s : State) (slot : Nat) : List Nat := s.banksWith slot fun b => b == .fifo (slot % 2)
/-- The SCRATCH banks of a context, ascending (R112). -/
def State.scratchBanks (s : State) (slot : Nat) : List Nat := s.banksWith slot fun b => b == .scratch (slot % 2)

/-- The places, among the context's FIFO banks, of a queue's banks (R36, R167). -/
def Queue.places (x : Queue) : List Nat := List.range' x.first.toNat x.nb.toNat

/-- A non-zero queue configuration keeps R167 in the context of a slot. -/
def State.qcfgOk (s : State) (slot n : Nat) (v : BitVec 16) : Bool :=
  let (p, c, f, nb) := ((v.extractLsb' 0 3).toNat, (v.extractLsb' 3 3).toNat, (v.extractLsb' 6 6).toNat, (v.extractLsb' 12 4).toNat)
  p != 0 && decide (p ≤ 5) && decide (1 ≤ c) && decide (c ≤ 4) && nb != 0 && decide (f + nb ≤ (s.fifoBanks slot).length)
    && (List.range 16).all fun m => m == n
      || ((s.ctx slot).queue m).places.all fun i => decide (i < f) || decide (f + nb ≤ i)

/-- A queue takes a configuration; its closed state is cleared (R356). -/
def Queue.configured (x : Queue) (v : BitVec 16) : Queue :=
  { x with prod := v.extractLsb' 0 3, cons := v.extractLsb' 3 3, first := v.extractLsb' 6 6, nb := v.extractLsb' 12 4
           closed := false }

/-- A write of QCFGn by the C cluster (R356). -/
def State.writeQcfg (s : State) (slot n : Nat) (v : Word) : Except Stop State :=
  let x := (s.ctx slot).queue n
  let w : BitVec 16 := v.setWidth 16
  if !x.entries.isEmpty || !x.unplaced.isEmpty || x.stream.isSome || !(w == 0 || s.qcfgOk slot n w) then
    .error (illegalOperand 0x0F v.toNat 1)
  else .ok (s.modCtx slot fun c => c.modQueue n fun x => x.configured w)

/-! ### Bank modes -/

/-- A copy command touches the scratchpad bank `b` of its context (R110). -/
def CopyCmd.touchesBank (c : CopyCmd) (b : Nat) : Bool :=
  (List.range c.rows).any fun r =>
    let hits (sp : Bool) (a : Word) (stride : Int) : Bool :=
      let p := (rowAddr a stride r).toNat
      sp && decide (0 < c.len) && decide (p < (b + 1) * 131072) && decide (b * 131072 < p + c.len)
    hits c.dstSp c.dst c.dstr || hits c.srcSp c.src c.sstr

/-- A copy command of a context touches bank `b` (R110). -/
def Ctx.bankBusy (x : Ctx) (b : Nat) : Bool :=
  x.cq.any fun p => p.2.any fun e => match e with
    | .cmd c => c.touchesBank b
    | .fence _ => false

/-- Some QCFGn of the context names bank `b` (R110). -/
def State.bankNamed (s : State) (slot b : Nat) : Bool :=
  match (s.fifoBanks slot).findIdx? fun x => x == b with
  | none => false
  | some i => (List.range 16).any fun q => (((s.ctx slot).queue q).places).contains i

/-- The bank as a mode of a slot (R108). -/
def Bank.ofMode (mode slot : Nat) : Bank :=
  match mode with
  | 0 => .cache
  | 1 => .scratch (slot % 2)
  | 2 => .fifo (slot % 2)
  | _ => .vreg (slot % 2)

/-- The outcome of a request for a bank (R110, R111): a STAT code, or nothing while the change waits. -/
def State.bankOutcome (s : State) (slot b mode : Nat) : Option (BitVec 2) :=
  let old := s.bank (spindleOf slot) b
  if old = Bank.ofMode mode slot then some 0
  else match old with
    | .cache => if mode = 3 ∨ (s.banksWith slot fun x => x == .cache).length ≤ 4 then some 3 else some 0
    | .vreg _ => some 1
    | .scratch k => if k ≠ slot % 2 then some 1 else if mode = 3 then some 3 else if (s.ctx slot).bankBusy b then none else some 0
    | .fifo k => if k ≠ slot % 2 then some 1 else if s.bankNamed slot b then some 2 else if mode = 3 then some 3 else some 0

/-- A write of BANKCFG by the C cluster (R111). -/
def State.writeBankcfg (s : State) (slot : Nat) (v : Word) : Except Stop State :=
  let b := (v.extractLsb' 0 6).toNat
  let mode := (v.extractLsb' 8 2).toNat
  match s.bankOutcome slot b mode with
  | none => .error (.wait .bank)
  | some st =>
    let s1 := if st = 0 ∧ s.bank (spindleOf slot) b ≠ Bank.ofMode mode slot
      then s.setBanks (spindleOf slot) [b] (Bank.ofMode mode slot) else s
    .ok (s1.modCtx slot fun x => { x with bankNo := v.extractLsb' 0 6, bankMode := v.extractLsb' 8 2, bankStat := st })

/-! ### Reads and writes -/

/-- A mask of banks (R112). -/
def bankMask (l : List Nat) : Word := BitVec.ofNat 64 (l.map fun b => 2 ^ b).sum

/-- The value of a control register for a cluster of a context (R352). -/
def State.csr (s : State) (slot : Nat) (c : Cl) (n : Nat) : Word :=
  let x := s.ctx slot
  match n with
  | 0 => x.flags.setWidth 64
  | 1 => if c = .A ∨ c = .V then (x.cl c).vl else 0
  | 2 => BitVec.ofNat 64 x.vcap
  | 3 => if c = .C then 0 else (x.cl c).efc.setWidth 64
  | 4 => x.tol.setWidth 64
  | 5 => x.rkcap.setWidth 64
  | 6 => x.latsel.setWidth 64
  | 7 => x.pzr.setWidth 64
  | 8 => BitVec.ofNat 64 (x.aged.toNat * 8 + x.prio.toNat)
  | 9 => BitVec.ofNat 64 (x.hord.toNat * 256 + x.mord.toNat)
  | 10 => BitVec.ofNat 64 s.timeNs
  | 11 => BitVec.ofNat 64 (x.bankStat.toNat * 2 ^ 10 + x.bankMode.toNat * 2 ^ 8 + x.bankNo.toNat)
  | 12 => bankMask (s.scratchBanks slot)
  | 13 => bankMask (s.fifoBanks slot)
  | n => if n < 22 then x.wid.get 0 (n - 16) else (x.queue (n - 32)).qcfg

/-- CSRR (R351). A supervisor core reads the timestamp counter; its VL and EFC are those of the C cluster. -/
def execCsrr (g : Guard) (d : RegF) (csr : BitVec 10) (s : State) : Answer :=
  settle g 4 (fun s => .ok (s.writeS d (
    if s.isSup && csr != 1 && csr != 3 && csr != 10 then Config.coreCsr s.stepNo csr.toNat else s.csr s.slot s.cl csr.toNat))) s

/-- A write of a control register by the executing cluster (R351, R352). -/
def State.writeCsr (s : State) (n : Nat) (v : Word) : Except Stop State :=
  let refuse : Except Stop State := .error (illegalOperand 0x0F v.toNat 1)
  let put (f : Ctx → Ctx) : Except Stop State := .ok (if s.isSup then s else s.modMyCtx f)
  match n with
  | 0 => put fun x => { x with flags := v.setWidth 10 }
  | 3 => if s.cl = .C then refuse else .ok (s.modMe fun x => { x with efc := v.setWidth 32 })
  | 4 => put fun x => { x with tol := v.setWidth 33 }
  | 5 => if 64 < (v.setWidth 7 : BitVec 7).toNat then refuse else put fun x => { x with rkcap := v.setWidth 7 }
  | 6 => put fun x => { x with latsel := v.setWidth 2 }
  | 7 => if (v.setWidth 2 : BitVec 2) = 3 then refuse else put fun x => { x with pzr := v.setWidth 2 }
  | 11 => if s.cl ≠ .C then refuse else if s.isSup then .ok s else s.writeBankcfg s.slot v
  | n =>
    if n < 32 then .ok s
    else if s.cl ≠ .C then refuse
    else if s.isSup then .ok s
    else s.writeQcfg s.slot (n - 32) v

/-- CSRW (R351). -/
def execCsrw (g : Guard) (a : RegF) (csr : BitVec 10) (s : State) : Answer :=
  settle g 4 (fun s => s.writeCsr csr.toNat (s.readS a)) s

/-- The CSRW at the PC of the executing cluster, with its guard true: the register's number and the value to be written. -/
def dueWrite : Comp (Option (Nat × Word)) := do
  let s ← get
  let p ← fetchParcel s.me.pc
  match p.major == 0x16 && !p.long, decodeRows s.site p 0 [row16 (p.getLsbD 10)] with
  | true, .ok (.csrw g a n) => return if s.guardTrue g then some (n.toNat, s.readS a) else none
  | _, _ => return none

/-- The C cluster of a context performs the CSRW at its PC, as an event, where that is a write of `value` to register `n` (R111,
R356). -/
def dueCsrw (slot n : Nat) (value : Word) (s : State) : Answer :=
  let t := { s with cur := .cluster slot .C }
  if s.mayIssue slot && (s.ctx slot).c.run != .idle && !t.loadPending then
    match (dueWrite.run.run t : Except Stop (Option (Nat × Word)) × State) with
    | (.ok (some w), u) => if w = (n, value) then settle { neg := false, sel := 7 } 4 (fun s => s.writeCsr n value) u else .next s
    | _ => .next s
  else .next s

/-- BANKCFG_WRITE (R111). -/
def execBankcfgWrite (slot : Nat) (value : Word) (s : State) : Answer := dueCsrw slot 11 value s
/-- QCFG_WRITE (R356). -/
def execQcfgWrite (slot q : Nat) (value : Word) (s : State) : Answer := dueCsrw slot (32 + q) value s

end Sys2Proof.Machine
end

