-- ==== Sys2Proof/Machine/Convoy.lean ====
section
/-! DEFINITION. Convoys and reels of the V cluster (R228 .. R231, R317, R318, R413, R414). -/

namespace Sys2Proof.Machine

/-! ### Convoys -/

/-- The convoy units that may carry an instruction (R237): FMA0, FMA1, ALU, XFU, SFU, LSU, CVT as 0 .. 6. -/
def convoyUnits : Instr → List Nat
  | .vldLong .. | .vstLong .. | .vldxLong .. | .vstxLong .. => [5]
  | .vaddLong .. | .vsubLong .. | .vmulLong .. | .vminLong .. | .vmaxLong .. | .vabsLong .. | .vnegLong ..
  | .vfma .. | .vfms .. | .vnfma .. => [0, 1]
  | .vandLong .. | .vorLong .. | .vxorLong .. | .vshlLong .. | .vshrLong .. | .vsraLong .. | .vcmp .. | .vsel ..
  | .vmovLong .. | .vsplatLong .. | .kandLong .. | .korLong .. | .kxorLong .. | .kandnLong .. | .knotLong .. | .kmovLong ..
  | .kfirstLong .. => [2]
  | .kpopLong _ _ _ m => if m.imm.getLsbD 0 then [] else [2]
  | .vextrLong .. | .vredsumLong .. | .vredmaxLong .. | .vredminLong .. | .vscanLong .. | .vpermLong .. | .vslide ..
  | .vcompress .. | .vexpand .. => [3]
  | .vexp2Long .. | .vlog2Long .. | .vrcpLong .. | .vrsqLong .. => [4]
  | .vcvt .. | .vscaleLong .. => [6]
  | _ => []

/-- The major belongs to the V cluster's own (R237). -/
def vMajor (p : Parcel) : Bool := 0x20 ≤ p.major && p.major ≤ 0x27

/-- What makes a member on a unit malformed (R229, reasons 5 to 7 of R410). -/
def memberFault (u : BitVec 3) (m : Parcel × Parcel) : Option Nat :=
  if !m.1.long || !vMajor m.1 then some 5
  else match decodeMember m.1 m.2 with
    | .error _ => some 6
    | .ok i => if (convoyUnits i).contains u.toNat then none else some 7

/-- What makes the header alone malformed (R229, reasons 3 and 4 of R410). -/
def unitsFault (n : Nat) (us : List (BitVec 3)) : Option Nat :=
  if (us.take n).contains 7 || (us.drop n).any (· != 7) then some 3
  else if (us.take n).eraseDups.length ≠ n then some 4
  else none

/-- The header's parcel (R228). -/
def headerParcel (n2 u0 u1 u2 u3 u4 u5 : BitVec 3) : Parcel :=
  BitVec.ofBool false ++ (0x3F : BitVec 6) ++ n2 ++ u0 ++ u1 ++ u2 ++ u3 ++ u4 ++ u5 ++ (0 : BitVec 4)

/-- The trap of a malformed header (R229, R410). -/
def headerTrap (reason member : Nat) (hdr : Parcel) : Stop := .trap 0x0002 0 (at_ 16 reason ||| at_ 24 member ||| at_ 32 hdr.toNat)

/-- Parcel `k` of the executing packet: from the captured body in a reel, from memory otherwise (R230, R317). -/
def packetParcel (k : Nat) : Comp Parcel := do
  let x := (← get).me
  match x.reel with
  | some r => pure (r.body.getD (r.pos + k) 0)
  | none => fetchParcel (x.pc + BitVec.ofNat 64 (4 * k))

/-- Fetches and checks the members from `j` on (R229). -/
def convoyMembers (hdr : Parcel) : Nat → List (BitVec 3) → Comp (List (Parcel × Parcel))
  | _, [] => pure []
  | j, u :: us => do
    let p ← packetParcel (1 + 2 * j)
    let q ← packetParcel (2 + 2 * j)
    match memberFault u (p, q) with
    | some r => throw (headerTrap r j hdr)
    | none =>
      let t ← convoyMembers hdr (j + 1) us
      pure ((p, q) :: t)

/-- The convoy issues: its first member that is not complete is next (R191, R230). -/
def Cluster.issueConvoy (x : Cluster) (ms : List (Parcel × Parcel)) : Cluster :=
  ({ x with run := .running, wait := none, start := if x.atConvoy then x.start else [], atConvoy := true } : Cluster).toMember
    { members := ms, next := 0 } 0

/-- A convoy header (R228 .. R230). -/
def execConvoy (n2 u0 u1 u2 u3 u4 u5 : BitVec 3) (s : State) : Answer :=
  finish (do
    let us := [u0, u1, u2, u3, u4, u5]
    let n := n2.toNat + 2
    let hdr := headerParcel n2 u0 u1 u2 u3 u4 u5
    need (n ≤ 6) (headerTrap 1 0 hdr)
    match unitsFault n us with
    | some r => throw (headerTrap r 0 hdr)
    | none =>
      let ms ← convoyMembers hdr 0 (us.take n)
      update fun t => t.modMe fun x => x.issueConvoy ms) s

/-! ### Reels -/

/-- A major that a reel's body may not hold (R231). -/
def reelBarred (m : Nat) : Bool := (0x0C ≤ m && m ≤ 0x0F) || m == 0x17 || m == 0x1E || m == 0x1F

/-- The units of a convoy header; none where the header alone is malformed (R228, R229). -/
def headerUnits (p : Parcel) : Option (List (BitVec 3)) :=
  let us := [p.at 19 3, p.at 16 3, p.at 13 3, p.at 10 3, p.at 7 3, p.at 4 3]
  let n := (p.at 22 3).toNat + 2
  if p.long || p.at 0 4 != 0 || decide (6 < n) || (unitsFault n us).isSome then none else some (us.take n)

/-- The parcels are those of a REEL or a REELX (R231, R317). -/
def isReel (p q : Parcel) : Bool :=
  match decodeMember p q with
  | .ok (.reel ..) | .ok (.reelx ..) => true
  | _ => false

/-- What is wrong with the packet at the head of the rest of a body, or its length in parcels (R231). A member of a barred
major or a REEL member is reported as such (log entry 22). -/
def packetFault (rest : List Parcel) : Nat ⊕ Nat :=
  let p := rest.headD 0
  let hdr := p.major == 0x3F
  let us := if hdr then headerUnits p else some []
  match us with
  | none => .inl 1
  | some us =>
    let n := if hdr then 1 + 2 * us.length else if p.long then 2 else 1
    let ms := us.zipIdx.map fun u => (u.1, rest.getD (1 + 2 * u.2) 0, rest.getD (2 + 2 * u.2) 0)
    let firsts := (p, rest.getD 1 0) :: ms.map Prod.snd
    if rest.length < n then .inl 0
    else match firsts.find? fun q => reelBarred q.1.major || isReel q.1 q.2 with
      | some q => .inl (if reelBarred q.1.major then 2 else 3)
      | none => if ms.any fun m => (memberFault m.1 m.2).isSome then .inl 1 else .inr n

/-- The first packet of a body that R231 refuses: its offset and reason. -/
def bodyFault : Nat → Nat → List Parcel → Option (Nat × Nat)
  | 0, _, _ => none
  | _, _, [] => none
  | fuel + 1, off, rest =>
    match packetFault rest with
    | .inl r => some (off, r)
    | .inr n => bodyFault fuel (off + n) (rest.drop n)

/-- REEL and REELX (R231, R317): the body is captured and checked before the guard is read (R408). -/
def reelOf (long : Bool) (g : Guard) (n : Nat) (a : RegF) (elem : State → Word) (s : State) : Answer :=
  finish (do
    let pc := s.me.pc
    let len := if long then 8 else 4
    let body ← fetchParcels (pc + BitVec.ofNat 64 len) n
    match bodyFault (n + 1) 0 body with
    | some (off, r) => throw (.trap 0x0003 pc (at_ 16 off ||| at_ 23 r))
    | none =>
      if !s.guardTrue g || s.readS a == 0 then update fun t => t.retire (len + 4 * n)
      else update fun t => (t.retire len).modMe fun x =>
        { x with reel := some { rpc := pc, long := long, body := body, pos := 0, trips := s.readS a, elem := elem s } }) s

/-- REEL (R317). -/
def execReel (g : Guard) (n1 : BitVec 6) (a : RegF) (s : State) : Answer := reelOf false g (n1.toNat + 1) a (fun _ => 0) s
/-- REELX (R317). -/
def execReelx (g : Guard) (n1 : BitVec 6) (a b : RegF) (s : State) : Answer := reelOf true g (n1.toNat + 1) a (·.readS b) s

end Sys2Proof.Machine
end

