-- ==== Sys2Proof/Machine/Access.lean ====
section
/-! DEFINITION. Vector accesses to global memory: where the elements lie (R75, R127, R128, R265, R269), reading them in the
order of R421, forming granules and queue entries (R266, R268, R429), and writing them line by line (R129, R130, R270). -/

namespace Sys2Proof.Machine

/-- How the elements of an access are laid out: by element positions from the base, by positions that indices name, or by a byte
stride (R265). -/
inductive Places where
  | positions (f : Nat → Int)
  | indexed (f : Nat → Int)
  | stride (b : Int)

/-- The places of an access of consecutive positions, or of indices. -/
def placesFor (contig : Bool) (f : Nat → Int) : Places := if contig then .positions f else .indexed f

/-- The place of element `i`: its byte address, and for a 4-bit element of an untyped page the upper nibble. A 4-bit element named
through an index or a stride is the lower nibble of its byte (R127). -/
structure Spot where
  i : Nat
  va : Word
  nib : Bool
deriving DecidableEq, Repr

/-- The line of an access as its page shows it; a Creel register reads zero through a translation (R390). -/
def State.accessLine (s : State) (slot : Nat) (x : Xlate) : Line :=
  if s.region x.pa = .creel then { tag := .untyped x.par.expf, bytes := [] } else s.seenLine slot x

/-- The step between element positions in bits: the slot width of a typed page, the width of EXPF otherwise (R265). -/
def Par.step (p : Par) : Nat := if p.typed then 8 * p.w else Fmt.width p.expf

/-- The step of a page that an access meets. -/
def Xlate.step (x : Xlate) : Nat := x.par.step

/-- The attributes of the page that holds the base of an access, whether or not the access may use that page (R265, R421). -/
def State.basePar (s : State) (slot : Nat) (k : MemKind) (base : Word) : Except Deny Par :=
  match s.findPage (unitOf slot) (s.ctx slot).asd (s.ctx slot).provisional k base with
  | .error d => .error d
  | .ok (e, _) =>
    let raw := e.pa + (base.toNat - e.va)
    if s.region raw == .outside then .error (denyFault 1 0x0100 k base.toNat e.ats 0 (if e.ats then e.pasid else 0))
    else .ok { e.par with typed := e.par.typed && !e.ats && s.region raw != .host }

/-- The places of the elements `is`, and for positions the base's page, which fixes their step (R265). -/
def State.spots (s : State) (slot : Nat) (k : MemKind) (base : Word) (pl : Places) (is : List Nat) :
    Except Deny (List Spot × Option Par) :=
  match is, pl with
  | [], _ => .ok ([], none)
  | _, .stride b => .ok (is.map fun i => { i := i, va := base + BitVec.ofInt 64 (i * b), nib := false }, none)
  | _, .positions f => (s.basePar slot k base).map fun p =>
    (is.map fun i =>
      let bit := f i * p.step
      { i := i, va := base + BitVec.ofInt 64 (bit / 8), nib := bit % 8 == 4 }, some p)
  | _, .indexed f => (s.basePar slot k base).map fun p =>
    (is.map fun i => { i := i, va := base + BitVec.ofInt 64 (f i * p.step / 8), nib := false }, some p)

/-- An element's address fits its page (R75, R127). -/
def Xlate.aligned (x : Xlate) (va : Word) : Bool :=
  if x.typed then va.toNat % x.par.w == 0
  else
    let n := (Fmt.width x.par.expf)
    n < 8 || va.toNat % (n / 8) == 0

/-- The access to one element (R421). -/
def State.spotAccess (s : State) (slot : Nat) (k : MemKind) (p : Spot) : Except Deny Xlate :=
  match s.xlate (unitOf slot) (s.ctx slot).asd (s.ctx slot).provisional k p.va with
  | .error d => .error d
  | .ok x => if x.aligned p.va then .ok x else .error (s.misaligned slot k p.va)

/-- The access to one element, whose line can be reached too (R421). -/
def State.spotReach (s : State) (slot : Nat) (k : MemKind) (p : Spot) : Except Deny Xlate :=
  match s.spotAccess slot k p with
  | .error d => .error d
  | .ok x => (s.reach slot k x).map fun _ => x

/-- A base breaks R128 for format `f` on its page. -/
def Par.baseBad (p : Par) (f : Fmt) (base : Word) : Bool :=
  p.typed && f.isScaled && base.toNat % max 1 (p.w * 256 / f.width) != 0

/-- The walks that the elements of an access need read their blocks (R72). -/
def State.prewalks (s : State) (slot : Nat) (vas : List Word) : State :=
  vas.foldl (fun t va => t.prewalk (unitOf slot) (t.ctx slot).asd va) s

/-- The format of the first line that fixes one, neither POISON nor INVALID; none is known behind a line in TRANSIT (R70). -/
def firstFmt : List (Xlate × Line) → Option Fmt
  | [] => none
  | (x, l) :: t => match l.tag.cls x.typed x.par.w with
    | .valid | .zero | .vacant => some l.tag.fmt
    | .transit => none
    | _ => firstFmt t

/-- A line of the access stands in TRANSIT (R70). -/
def firstTransit (ls : List (Xlate × Line)) : Option Nat :=
  ls.findSome? fun p => if p.2.tag.cls p.1.typed p.1.par.w == .transit then some p.1.pa else none

/-- What a gather returns: the elements, the addresses of the zero-substituted ones, and the page of the first element. -/
structure Gathered where
  els : List (Nat × Got)
  zeroed : List Nat
  first : Option Xlate

/-- A row of an access: elements `is` at the places `pl` from `base`; element `i` is number `off + i` of the access. -/
structure Row where
  base : Word
  pl : Places
  is : List Nat
  off : Nat

/-- The places of a row. -/
def State.rowSpots (s : State) (slot : Nat) (k : MemKind) (r : Row) : Except Deny (List Spot × Option Par) :=
  (s.spots slot k r.base r.pl r.is).map fun p => (p.1.map fun q => { q with i := r.off + q.i }, p.2)

/-- Cuts a list into pieces of given lengths. -/
def cutInto {α : Type} : List Nat → List α → List (List α)
  | [], _ => []
  | n :: t, l => l.take n :: cutInto t (l.drop n)

/-- PC and INFO[1:0] of a record about a read: of the executing cluster, or of the consumer of a stream's queue (R395, R453). -/
def State.readerOf (s : State) (slot : Nat) (k : MemKind) : Word × Word :=
  match k with
  | .engine true q _ =>
    let c := Cl.ofCode (((s.ctx slot).queue q).cons.toNat - 1)
    (((s.ctx slot).cl c).pc, BitVec.ofNat 64 c.code)
  | _ => (s.instrPc, BitVec.ofNat 64 s.cl.code)

/-- A row whose base breaks R128 for the format of its lines: the alignment fault (R421). -/
def State.rowDeny (s : State) (slot : Nat) (k : MemKind) (base : Word) (p : Option Par) (xs : List (Except Deny Xlate)) :
    Except Deny Unit :=
  let ls := xs.filterMap fun x => x.toOption.map fun x => (x, s.accessLine slot x)
  match p, firstFmt ls with
  | some q, some f => if q.baseBad f base then .error (s.misaligned slot k base) else .ok ()
  | _, _ => .ok ()

/-- Translates the elements of rows and reads their lines' blocks; `contig` says that R128 binds each row (R421, R457). -/
def openRows (slot : Nat) (k : MemKind) (rows : List Row) (contig : Bool) : Comp (List (Spot × Xlate)) := do
  update fun t => t.prewalks slot ((rows.filter fun r => !r.is.isEmpty).map Row.base)
  let s ← get
  let rs ← ofDeny (allOk (rows.map (s.rowSpots slot k)))
  let sps := rs.flatMap Prod.fst
  update fun t => t.prewalks slot (sps.map Spot.va)
  let s ← get
  let es := sps.map (s.spotReach slot k)
  let bad (es : List (Except Deny Xlate)) (s : State) : List (Except Deny Unit) :=
    if contig then (rows.zip ((rs.map Prod.snd).zip (cutInto (rs.map fun r => r.1.length) es))).map fun p =>
      s.rowDeny slot k p.1.base p.2.1 p.2.2
    else []
  let _ ← ofDeny (allOk ((es.map fun e => e.map fun _ => ()) ++ bad es s))
  let xs ← ofDeny (allOk es)
  update fun t => (t.touch xs).noteOutside slot (t.readerOf slot k).1 (t.readerOf slot k).2 k xs
  let t ← get
  match firstTransit (xs.map fun x => (x, t.accessLine slot x)) with
  | some pa => throw (.wait (.transit pa))
  | none => pure ()
  let _ ← ofDeny (allOk (bad (xs.map .ok) t))
  pure (sps.zip xs)

/-- Reads the elements of rows; `contig` says that R128 binds each row. -/
def gatherRows (slot : Nat) (k : MemKind) (rows : List Row) (contig : Bool) : Comp Gathered := do
  let ps ← openRows slot k rows contig
  let sps := ps.map Prod.fst
  let xs := ps.map Prod.snd
  let t ← get
  let ls := xs.map fun x => (x, t.accessLine slot x)
  let gs ← ofDeny (allOk ((sps.zip ls).map fun p =>
    match p.2.2.read p.2.1.typed p.2.1.par.w p.2.1.par.ppol (p.2.1.va % 128) p.1.nib with
    | .error e => .error (lineDeny k p.2.1 noLate e)
    | .ok g => .ok (p.1.i, g)))
  pure { els := gs, zeroed := ((gs.zip xs).filter fun p => p.1.2.poison).map fun p => p.2.va, first := xs.head? }

/-- Reads elements `is` from the places `pl` of base `base`. -/
def gather (slot : Nat) (k : MemKind) (base : Word) (pl : Places) (contig : Bool) (is : List Nat) : Comp Gathered :=
  gatherRows slot k [{ base := base, pl := pl, is := is, off := 0 }] contig

/-! ### Forming granules and entries -/

/-- Zero-substituted elements take the format and BLK of those before them, or of the first other ones, or of the page's
EXPF (R429). -/
def fillAux : Fmt → Nat → List (Nat × Got) → List (Nat × Got)
  | _, _, [] => []
  | f, b, (i, g) :: t =>
    if g.poison then (i, { g with fmt := f, blk := b }) :: fillAux f b t else (i, g) :: fillAux g.fmt g.blk t

/-- The elements with the formats of zero-substituted ones filled in (R429). -/
def Gathered.filled (x : Gathered) : List (Nat × Got) :=
  match x.els.find? fun p => !p.2.poison with
  | some p => fillAux p.2.fmt p.2.blk x.els
  | none => fillAux (x.first.elim Fmt.none fun y => y.par.expf) 0 x.els

/-- What a load puts at an element: of a line in the register's format and BLK the element as it is, of another line its
value (R302). -/
def Got.put (g : Got) (f : Fmt) (blk : Nat) : Put :=
  if g.poison then .supplied
  else if g.fmt == f && g.blk == blk then .move g.code g.scale
  else .value (decodeElem g.fmt g.code g.scale)

/-- The summary of a load over its elements 0 .. n − 1, of which it read those given (R64). -/
def loadVsum (n : Nat) (l : List Got) : BitVec 3 :=
  if l.any Got.poison then vsPoison else if decide (n ≤ l.length) && !l.isEmpty && l.all Got.zero then vsZero else vsValid

/-- The format-`f` elements of one granule: copied under one scale, or re-encoded under RNE (R266). Elements that are
absent or zero-substituted are zeros of no scale. -/
def formGranule (f : Fmt) (l : List (Nat × Option Got)) : List (Nat × Word) × Byte × Flags :=
  let scales := l.filterMap fun p => p.2.bind fun g => if g.poison then none else some g.scale
  let code (g : Option Got) : Word := g.elim 0 Got.code
  if !f.isScaled then (l.map fun p => (p.1, code p.2), 0x7F, 0)
  else if scales.all fun e => e == scales.headD 0x7F then (l.map fun p => (p.1, code p.2), scales.headD 0x7F, 0)
  else
    let vals := l.map fun p => p.2.elim Val.zero fun g => if g.poison then Val.zero else decodeElem f g.code g.scale
    let (cs, e, fl, _) := encodeBlock f .rne .rne false (vals.map fun v => { val := v, live := true }) 0
    ((l.map Prod.fst).zip cs, e, fl ||| Flags.when (scales.any fun e => e == 0xFF) Flags.scn)

/-- The strip of `n` elements, from the elements that were read (R266): codes, scales and flags. -/
def formStrip (f : Fmt) (n : Nat) (els : List (Nat × Got)) : SMap Word × SMap Byte × Flags :=
  (List.range ((n + f.perGranule - 1) / f.perGranule)).foldl (fun st g =>
    let is := (List.range' (g * f.perGranule) f.perGranule).filter (· < n)
    let r := formGranule f (is.map fun i => (i, (els.find? fun p => p.1 == i).map Prod.snd))
    (r.1.foldl (fun m p => m.set 0 p.1 p.2) st.1, st.2.1.set 0x7F g r.2.1, st.2.2 ||| r.2.2)) ([], [], 0)

/-- An entry in the making: its first element, its format and BLK, and the elements read for it. -/
structure Draft where
  start : Nat
  count : Nat
  fmt : Fmt
  blk : Nat
  els : List (Nat × Got)

/-- Cuts the elements 0 .. n − 1 into entries (R268, R66): a change of FMT or BLK, or a full entry, starts a new one. An
element that was not read stays in the entry before it. `room` is the greatest count of an entry of a format. -/
def draftsAux (room : Fmt → Nat) (els : List (Nat × Got)) : Nat → Nat → Draft → List Draft
  | 0, _, d => [d]
  | n + 1, i, d =>
    let g := (els.find? fun p => p.1 == i).map Prod.snd
    let f := g.elim d.fmt Got.fmt
    let b := g.elim d.blk Got.blk
    let add (l : List (Nat × Got)) (k : Nat) : List (Nat × Got) := g.elim l fun x => l ++ [(k, x)]
    if f != d.fmt || b != d.blk || room d.fmt ≤ d.count then
      d :: draftsAux room els n (i + 1) { start := i, count := 1, fmt := f, blk := b, els := add [] 0 }
    else draftsAux room els n (i + 1) { d with count := d.count + 1, els := add d.els d.count }

/-- The entries of `n` elements (R268). -/
def drafts (room : Fmt → Nat) (n : Nat) (els : List (Nat × Got)) (expf : Fmt) : List Draft :=
  let d0 := ((els.headD (0, { Got.poisoned with fmt := expf })).2)
  draftsAux room els n 0 { start := 0, count := 0, fmt := d0.fmt, blk := d0.blk, els := [] }

/-- The granules of every block carry one scale, as far as the entry reaches (R57). -/
def blocksAgree (granules blk : Nat) (scales : SMap Byte) : Bool :=
  (List.range granules).all fun g => scales.get 0x7F g == scales.get 0x7F (g / 2 ^ blk * 2 ^ blk)

/-- A draft as a queue entry, with its flags; entries formed by gathering have BLK 0 (R266). A contiguous load whose base is not
aligned to its lines' blocks copies granules of two blocks into one: its entry has BLK 0 too (DESIGN CHOICE, log entry 63). The slots
of a block that the entry ends in are copies of its first one (R57). -/
def Draft.entry (d : Draft) (gathered : Bool) : QEntry × Flags :=
  let r := formStrip d.fmt d.count d.els
  let keep := !gathered && blocksAgree ((d.count + d.fmt.perGranule - 1) / max 1 d.fmt.perGranule) d.blk r.2.1
  let blk := if keep then d.blk else 0
  let tag : VTag := { fmt := d.fmt, vsum := loadVsum d.count (d.els.map Prod.snd), blk := BitVec.ofNat 2 blk }
  (QEntry.vector { tag := tag, elems := r.1, scales := copySlots d.fmt blk r.2.1 } d.count fun i => d.els.any fun p => p.1 == i, r.2.2)

/-! ### Writing -/

/-- Element `i` of a strip as a store writes it (R129). -/
def Strip.selem (x : Strip) (i : Nat) : SElem :=
  { code := x.code i, scale := x.scale i, block := x.tag.f.granule i / 2 ^ x.tag.blk.toNat }

/-- The elements that a store writes into one line. -/
structure LineWrite where
  x : Xlate
  ws : List (Nat × SElem)

/-- The place of an element in its line (R75, R127). -/
def Xlate.place (x : Xlate) (p : Spot) : Nat :=
  if x.typed then x.va % 128 / x.par.w else (x.va % 128 * 8 + (if p.nib then 4 else 0)) / (Fmt.width x.par.expf)

/-- The line that an element meets: the frame's line and the ply slot (R132). -/
def Xlate.lineKey (x : Xlate) : Nat × Nat := (x.pa / 128, x.entry.pslot)

/-- Adds an element to the writes of its line; of two at one place the later prevails (R269). -/
def addWrite (p : Spot) (x : Xlate) (e : SElem) : List LineWrite → List LineWrite
  | [] => [{ x := x, ws := [(x.place p, e)] }]
  | l :: t =>
    if l.x.lineKey = x.lineKey then { l with ws := (l.ws.filter fun w => w.1 != x.place p) ++ [(x.place p, e)] } :: t
    else l :: addWrite p x e t

/-- The elements of a line that the error-feedback chain narrows. -/
def LineWrite.efElems (w : LineWrite) (l : Line) (fmt : Fmt) (blk rm : Nat) : List EfElem :=
  if w.x.typed then l.efTyped w.x.par (l.storePlan w.x.par fmt blk w.ws) rm else w.x.par.efUntyped fmt rm w.ws

/-- The error-feedback chain in ascending element index across the lines (R83, R304): the codes by line and place. -/
def efChain (l : List (Nat × (Nat × Nat) × EfElem)) (res : F32) : List ((Nat × Nat) × Nat × Word × Flags) × F32 :=
  l.foldl (fun st p =>
    let r := encodeEf p.2.2.fmt p.2.2.scale p.2.2.val st.2
    (st.1 ++ [(p.2.1, p.2.2.k, r.1, r.2.2)], r.2.1)) ([], res)

/-- Inserts by the first component. -/
def insertBy (p : Nat × (Nat × Nat) × EfElem) : List (Nat × (Nat × Nat) × EfElem) → List (Nat × (Nat × Nat) × EfElem)
  | [] => [p]
  | q :: t => if p.1 < q.1 then p :: q :: t else q :: insertBy p t

/-- What the store makes of a line. -/
def LineWrite.store (w : LineWrite) (l : Line) (fmt : Fmt) (blk rm : Nat) (given : List (Nat × Word × Flags)) :
    Except LineErr Stored :=
  if w.x.typed then l.storeTyped w.x.par fmt blk rm given w.ws else l.storeUntyped w.x.par fmt rm given w.ws

/-- The byte mask of a held line after elements at places `ks` have been written (R207). -/
def elemMask (x : Xlate) (new : Line) (ks : List Nat) : MaskUpdate := fun m old =>
  let n := if x.typed then new.tag.fmt.width else (Fmt.width x.par.expf)
  let bytesOf (m : SMap Bool) (k : Nat) : SMap Bool := m.setRange false (k * n / 8) (max 1 (n / 8)) fun _ => true
  if x.typed then
    let o := old.tag.fmt.width
    ((List.range (128 / x.par.w)).filter fun k => heldElem m o k || ks.contains k).foldl bytesOf []
  else ks.foldl bytesOf m

/-- The format-slot mismatch trap of a store (R410). -/
def slotTrap (x : Xlate) (f : Fmt) : Stop :=
  .trap 0x0017 (BitVec.ofNat 64 (x.va / 128 * 128)) (at_ 16 f.toNat ||| at_ 21 x.par.slotw)

/-- Translations take effect; each block is read once, and a block whose four lines are all written whole is not checked (R72). -/
def State.touchStore (s : State) (xs : List Xlate) (whole : Xlate → Bool) : State :=
  let s1 := s.useAll (xs.map fun x => { x with setD := false })
  (((xs.filter fun x => !whole x).map fun x => s.readUnit x.pa).eraseDups).foldl State.scrub s1

/-- The store writes every place of the line. -/
def LineWrite.whole (w : LineWrite) : Bool := decide (1024 ≤ w.ws.length * w.x.step)

/-- Writes one line of a store, with its D bit and its flags; a write to a Creel register is dropped (R390). -/
def commitStored (slot : Nat) (u : State) (p : LineWrite × Except LineErr Stored) : Except Stop State :=
  let x := { p.1.x with walked := false }
  match p.2 with
  | .error _ => .ok u
  | .ok st =>
    if u.region x.pa = .creel then .ok (u.useXlate x)
    else (u.commitLine slot x st.line (elemMask x st.line (p.1.ws.map Prod.fst))).map fun v =>
      (v.useXlate x).modCtx slot fun c => { c with flags := c.flags ||| st.flags }

/-- Stores elements in format `fmt` with block code `blk` (R270, R304): nothing is written when a check fails. The residual
of the chain is returned. -/
def scatter (slot : Nat) (k : MemKind) (base : Word) (pl : Places) (contig : Bool) (fmt : Fmt) (blk rm : Nat)
    (els : List (Nat × SElem)) (res : F32) : Comp F32 := do
  update fun t => t.prewalks slot (if els.isEmpty then [] else [base])
  let s ← get
  let (sps, bp) ← ofDeny (s.spots slot k base pl (els.map Prod.fst))
  update fun t => t.prewalks slot (sps.map Spot.va)
  let s ← get
  let es := sps.map (s.spotReach slot k)
  let bad : Except Deny Unit := match bp with
    | some p => if contig && p.baseBad fmt base then .error (s.misaligned slot k base) else .ok ()
    | none => .ok ()
  let _ ← ofDeny (allOk ((es.map fun e => e.map fun _ => ()) ++ [bad]))
  let xs ← ofDeny (allOk es)
  let ws := ((sps.zip xs).zip els).foldl (fun l p => addWrite p.1.1 p.1.2 p.2.2 l) []
  let blockWhole (x : Xlate) : Bool :=
    (List.range 4).all fun j => ws.any fun w => w.whole && w.x.pa / 128 == x.pa / 512 * 4 + j
  update fun t => t.touchStore xs blockWhole
  let t ← get
  let ls := ws.map fun w => (w, t.accessLine slot w.x)
  match firstTransit (ls.map fun p => (p.1.x, p.2)) with
  | some pa => throw (.wait (.transit pa))
  | none => pure ()
  let order := (sps.zip xs).map fun p => (p.2.lineKey, p.2.place p.1, p.1.i)
  let efs := (ls.flatMap fun p => (p.1.efElems p.2 fmt blk rm).map fun e =>
      let i := ((order.filter fun o => o.1 == p.1.x.lineKey && o.2.1 == e.k).map fun o => o.2.2).foldl max 0
      (i, p.1.x.lineKey, e)).foldl (fun l p => insertBy p l) []
  let (codes, res') := efChain efs res
  let outs := ls.map fun p =>
    (p.1, p.1.store p.2 fmt blk rm ((codes.filter fun c => c.1 == p.1.x.lineKey).map Prod.snd))
  let _ ← ofDeny (allOk (outs.map fun p => match p.2 with
    | .error (.cause c) => .error (lineDeny k p.1.x noLate (.cause c))
    | .ok st =>
      if t.plyConflict p.1.x st.line then .error (denyFault 8 0x0106 k p.1.x.va p.1.x.host 0 0) else .ok ()
    | _ => .ok ()))
  match outs.findSome? fun p => match p.2 with
    | .error (.slot f) => some (slotTrap p.1.x f)
    | _ => none with
  | some x => throw x
  | none => pure ()
  match outs.findSome? fun p => match p.2 with
    | .error (.none6 f) => some (illegalOperand 0x06 0 0 f.toNat)
    | _ => none with
  | some x => throw x
  | none => pure ()
  set (← ofStop (outs.foldlM (commitStored slot) t))
  pure res'

end Sys2Proof.Machine
end

