-- ==== Sys2Proof/Machine/CopyEngine.lean ====
section
/-! DEFINITION. The copy engines: commands performed chunk by chunk (R148 .. R151, R280 .. R286, R403, R434, R457). -/

namespace Sys2Proof.Machine

/-- The head of a copy queue, a command. -/
def State.headCmd (s : State) (slot cq : Nat) : Option CopyCmd :=
  match (s.ctx slot).copyQueue cq with
  | .cmd c :: _ => some c
  | _ => none

/-- Replaces the head of a copy queue. -/
def State.setHead (s : State) (slot cq : Nat) (c : CopyCmd) : State :=
  s.modCtx slot fun x => { x with cq := x.cq.modify [] cq fun l => .cmd c :: l.tail }

/-- Removes the head of a copy queue. -/
def State.dropHead (s : State) (slot cq : Nat) : State := s.modCtx slot fun x => { x with cq := x.cq.modify [] cq List.tail }

/-- The engines work for the context: it holds a hank and no held class 4 error. -/
def State.enginesRun (s : State) (slot : Nat) : Bool := (s.ctx slot).hank.isSome && !(s.ctx slot).heldFatal

/-- COPY_COMMAND_START (R148, R280): the command at the head of a copy queue starts. -/
def execCopyCommandStart (slot cq : Nat) (s : State) : Answer :=
  .next (match s.headCmd slot cq with
    | some c => if s.enginesRun slot && !c.started then s.setHead slot cq { c with started := true } else s
    | none => s)

/-! ### One chunk -/

/-- Bytes that a command moves within one line of either global side and one chunk. -/
structure CopySeg where
  src : Word
  dst : Word
  n : Nat

/-- Cuts a row into such pieces. -/
def cutRow (ssp dsp : Bool) : Nat → Word → Word → Nat → List CopySeg
  | 0, _, _, _ => []
  | _, _, _, 0 => []
  | fuel + 1, src, dst, len =>
    let n1 := min len (512 - dst.toNat % 512)
    let n2 := if ssp then n1 else min n1 (128 - src.toNat % 128)
    let n := if dsp then n2 else min n2 (128 - dst.toNat % 128)
    { src := src, dst := dst, n := n } :: cutRow ssp dsp fuel (src + BitVec.ofNat 64 n) (dst + BitVec.ofNat 64 n) (len - n)

/-- The pieces of a chunk, rows ascending, so that the row with the higher number prevails (R282, R284). -/
def CopyCmd.segs (c : CopyCmd) (chunk : Nat) : List CopySeg :=
  (List.range c.rows).flatMap fun r =>
    (cutRow c.srcSp c.dstSp c.len (rowAddr c.src c.sstr r) (rowAddr c.dst c.dstr r) c.len).filter fun g =>
      g.dst.toNat / 512 % 4096 == chunk

/-- One global access of an engine (R421, R427, R469). -/
def State.engineXlate (s : State) (slot : Nat) (k : MemKind) (va : Word) : Except Deny Xlate :=
  match s.access slot k va true with
  | .error d => .error d
  | .ok x => match s.reach slot k x with
    | .error d => .error d
    | .ok _ => .ok x

/-- The translations of a piece's global sides. -/
structure SegXlate where
  seg : CopySeg
  src : Option Xlate
  dst : Option Xlate

/-- Translates one side: none in the scratchpad. -/
def State.sideXlate (s : State) (slot : Nat) (k : MemKind) (sp : Bool) (va : Word) : Except Deny (Option Xlate) :=
  if sp then .ok none else (s.engineXlate slot k va).map some

/-- Translates every page that a chunk touches (R457). -/
def State.chunkXlates (s : State) (slot cq : Nat) (c : CopyCmd) (chunk : Nat) : Except Deny (List SegXlate) :=
  let gs := c.segs chunk
  match allOk (gs.map fun g => s.sideXlate slot (.engine false cq false) c.srcSp g.src),
    allOk (gs.map fun g => s.sideXlate slot (.engine false cq true) c.dstSp g.dst) with
  | .error d, .error e => .error (if e.rank < d.rank then e else d)
  | .error d, _ => .error d
  | _, .error e => .error e
  | .ok xs, .ok ys => .ok ((gs.zip (xs.zip ys)).map fun p => { seg := p.1, src := p.2.1, dst := p.2.2 })

/-- The scratchpad ranges of pieces. -/
def CopyCmd.segRanges (c : CopyCmd) (gs : List CopySeg) : List (Nat × Nat) :=
  gs.flatMap fun g =>
    (if c.srcSp then [(g.src.toNat, g.src.toNat + g.n)] else []) ++ if c.dstSp then [(g.dst.toNat, g.dst.toNat + g.n)] else []

/-- The tables that the translations of pieces read are checked (R72, R432), each page once. -/
def State.prewalkSegs (s : State) (slot : Nat) (c : CopyCmd) (gs : List CopySeg) : State :=
  let vas := gs.flatMap fun g => (if c.srcSp then [] else [g.src]) ++ if c.dstSp then [] else [g.dst]
  ((vas.map fun v => v.toNat / 65536).eraseDups).foldl
    (fun t p => t.prewalk (unitOf slot) (t.ctx slot).asd (BitVec.ofNat 64 (65536 * p))) s

/-- The piece is a whole line on both sides, copied with its tag (R281). -/
def SegXlate.lineCopy (p : SegXlate) : Bool :=
  match p.src, p.dst with
  | some x, some y => p.seg.n == 128 && x.typed && y.typed && x.par.slotw == y.par.slotw
  | _, _ => false

/-- The block behind a destination is overwritten whole (R72). -/
def wholeBlock (ps : List SegXlate) (y : Xlate) : Bool :=
  (List.range 4).all fun j => ps.any fun p => p.seg.n == 128 && p.dst.any fun z => z.pa / 128 == y.pa / 512 * 4 + j

/-- The translations take effect and the blocks are read (R72, R125); a host line read with poison makes its record (R431). -/
def State.touchChunk (s : State) (slot cq : Nat) (pc : Word) (ps : List SegXlate) : State :=
  let xs := ps.filterMap SegXlate.src
  let s1 := (s.touch xs).noteOutside slot pc 0 (.engine false cq false) xs
  s1.touchStore (ps.filterMap SegXlate.dst) (wholeBlock ps)

/-- What a command has done so far. -/
structure CopyDone where
  s : State
  zeroed : List Nat
  pzs : Bool

/-- The bytes of a piece's source, and whether poison gave zeros (R258, R281). -/
def State.segSource (s : State) (slot cq : Nat) (p : SegXlate) : Except Stop (List Byte × Bool) :=
  match p.src with
  | none => .ok ((List.range p.seg.n).map fun i => s.spByte slot (p.seg.src.toNat + i), false)
  | some x =>
    match (s.accessLine slot x).readRaw x.typed x.par.w x.par.ppol (x.va % 128) p.seg.n with
    | .error e => .error (lineDeny (.engine false cq false) x noLate e).stop
    | .ok (v, z) => .ok (leBytes p.seg.n v, z)

/-- Writes a line of a command's destination (R133, R206). -/
def State.putCopied (s : State) (slot cq : Nat) (y : Xlate) (l : Line) (mask : MaskUpdate) : Except Stop State :=
  if s.region y.pa = .creel then .ok s
  else if s.plyConflict y l then .error (denyFault 8 0x0106 (.engine false cq true) y.va y.host 0 0).stop
  else (s.commitLine slot y l mask).map fun t => t.useXlate { y with walked := false }

/-- Copies a line with its tag (R281). -/
def State.copyLine (d : CopyDone) (slot cq : Nat) (x y : Xlate) : Except Stop CopyDone :=
  let l := d.s.accessLine slot x
  let old := d.s.accessLine slot y
  let src := l.tag.cls true x.par.w
  let dst := old.tag.cls true y.par.w
  match src, dst.storeErr y.par.ppol true with
  | .transit, _ => .error (.wait (.transit x.pa))
  | .invalid, _ => .error (lineDeny (.engine false cq false) x noLate (.cause 0x0107)).stop
  | _, some e => .error (lineDeny (.engine false cq true) y noLate e).stop
  | c, none =>
    if c = .poison ∧ !x.par.ppol then .error (lineDeny (.engine false cq false) x noLate (.cause 0x0108)).stop
    else
      let new : Line := if c = .poison then { tag := l.tag.withClass 1, bytes := [] } else l
      match d.s.putCopied slot cq y new (rawMask 0 128) with
      | .error e => .error e
      | .ok t =>
        .ok { s := t, zeroed := if c = .poison then d.zeroed ++ [x.va] else d.zeroed
              pzs := d.pzs || (c == .poison) || (dst == .poison && y.par.ppol) }

/-- Copies the bytes of a piece, as a scalar load reads and a scalar store writes them (R258, R281). -/
def State.copyBytes (d : CopyDone) (slot cq : Nat) (p : SegXlate) : Except Stop CopyDone :=
  match d.s.segSource slot cq p with
  | .error e => .error e
  | .ok (data, z) =>
    let zeroed := match p.src with
      | some x => if z then d.zeroed ++ [x.va] else d.zeroed
      | none => d.zeroed
    match p.dst with
    | none => .ok { s := d.s.setSp slot p.seg.dst.toNat data, zeroed := zeroed, pzs := d.pzs || z }
    | some y =>
      match (d.s.accessLine slot y).storeRaw y.typed y.par.w y.par.ppol y.par.expf (y.va % 128) data with
      | .error e => .error (lineDeny (.engine false cq true) y noLate e).stop
      | .ok (l, z') =>
        match d.s.putCopied slot cq y l (rawMask (y.va % 128) p.seg.n) with
        | .error e => .error e
        | .ok t => .ok { s := t, zeroed := zeroed, pzs := d.pzs || z || z' }

/-- Performs one piece. -/
def CopyDone.piece (slot cq : Nat) (d : CopyDone) (p : SegXlate) : Except Stop CopyDone :=
  match p.lineCopy, p.src, p.dst with
  | true, some x, some y => State.copyLine d slot cq x y
  | _, _, _ => State.copyBytes d slot cq p

/-! ### Faults, bits and completion -/

/-- A command whose context is dying and that cannot go on is given up (R403). -/
def State.giveUp (s : State) (slot cq : Nat) : State := (s.dropHead slot cq).finishDying slot

/-- A command meets a failure (R283, R401, R434): the copy queue stops at it, and at the chunk where it was, and the event names the
queue. -/
def State.copyStops (s : State) (slot cq : Nat) (c : CopyCmd) (chunk : Option Nat) (x : Stop) : State :=
  let pc := (s.ctx slot).a.pc
  match x with
  | .wait w => s.agentHolds (unitOf slot) w
  | .trap cause a i | .fault cause a i =>
    if (s.ctx slot).dying.isSome then s.giveUp slot cq
    else
      (s.setHead slot cq { c with stalled := true, stopChunk := chunk }).takeEvent slot (s.ctxRec slot 2 cause pc a (i ||| BitVec.ofNat 64 Cl.A.code))
        (.copyQueue cq)
  | .fatal cause a i =>
    if (s.ctx slot).dying.isSome then s.giveUp slot cq
    else s.terminate slot (s.ctxRec slot 4 cause pc a (i ||| BitVec.ofNat 64 Cl.A.code))

/-- Performs a chunk of a command and sets its bit (R150, R284), once staging has landed in the scratchpad bytes that it touches (R153,
R154). -/
def State.copyChunk (s0 : State) (slot cq chunk : Nat) (c : CopyCmd) : State :=
  if rangesMeet (c.segRanges (c.segs chunk)) (s0.spStaging slot) then s0
  else
    let s := s0.prewalkSegs slot c (c.segs chunk)
    match s.chunkXlates slot cq c chunk with
    | .error d => s.copyStops slot cq c (some chunk) d.stop
    | .ok ps =>
      let t := s.touchChunk slot cq c.pc ps
      match ps.foldlM (CopyDone.piece slot cq) { s := t, zeroed := c.zeroed, pzs := c.pzs } with
      | .error x => t.copyStops slot cq c (some chunk) x
      | .ok d =>
        let c' := { c with chunks := c.chunks.filter (· != chunk), zeroed := d.zeroed, pzs := d.pzs, stopChunk := none }
        (d.s.setHead slot cq c').modCtx slot fun x => x.setBits c.cb [chunk] true

/-- An engine's stores are performed at once, whatever the executing cluster's own last instruction did (R138). -/
def State.prompt (s : State) : State := if s.me.late then s.modMe fun x => { x with late := false } else s

/-- The started command at the head of a copy queue performs a chunk that it has still to perform: after a fault the one at which it
stopped (R434). -/
def State.copyStep (s : State) (slot cq chunk : Nat) : State :=
  match s.headCmd slot cq with
  | some c =>
    if s.enginesRun slot && c.started && !c.stalled && c.chunks.contains chunk && c.stopChunk.all (· == chunk)
    then s.prompt.copyChunk slot cq chunk c else s
  | none => s

/-- COMPLETION_BIT_SET (R284). -/
def execCompletionBitSet (slot cq chunk : Nat) (s : State) : Answer := .next (s.copyStep slot cq chunk)

/-- A command that has written its signal word leaves its queue (R281, R463). -/
def State.copyLeaves (s : State) (slot cq : Nat) (c : CopyCmd) : State :=
  let s1 := s.modCtx slot fun x => { x with flags := x.flags ||| Flags.when c.pzs Flags.pzs }
  let s2 := s1.noteZeroed slot c.pc (memInfo (.engine false cq false) false 0 0) c.zeroed
  (s2.dropHead slot cq).finishDying slot

/-- The signal word receives its value, after every bit of the command (R150, R284). -/
def State.copySignal (s : State) (slot cq : Nat) (c : CopyCmd) : State :=
  match c.signal with
  | none => s.copyLeaves slot cq c
  | some (va, v) =>
    let k : MemKind := .engine false cq true
    match ((ctxStore slot k va 8 v.toNat).run.run s : Except Stop Unit × State) with
    | (.error x, t) => t.copyStops slot cq c none x
    | (.ok _, t) =>
      let u := match s.engineXlate slot k va with
        | .ok x => t.wakeLine x.pa
        | .error _ => t
      u.copyLeaves slot cq c

/-- The command at the head of a copy queue, with every chunk performed, completes. -/
def State.copyEnd (s : State) (slot cq : Nat) : State :=
  match s.headCmd slot cq with
  | some c => if s.enginesRun slot && c.started && !c.stalled && c.chunks.isEmpty then s.prompt.copySignal slot cq c else s
  | none => s

/-- COPY_COMMAND_COMPLETE (R150). -/
def execCopyCommandComplete (slot cq : Nat) (s : State) : Answer := .next (s.copyEnd slot cq)

/-! ### QFENCE -/

/-- The fence stands at the head of a copy queue. -/
def Ctx.fenceAtHead (x : Ctx) (cq id : Nat) : Bool :=
  match x.copyQueue cq with
  | .fence n :: _ => n == id
  | _ => false

/-- Every command before the fence, in every queue that it names, has completed (R151, R286). -/
def Ctx.fenceMet (x : Ctx) (f : Fence) : Bool :=
  ((List.range 4).all fun c => !f.cqs.getLsbD c || x.fenceAtHead c f.id)
    && (List.range 16).all fun q => !f.owed.getLsbD q || (x.queues.get .initial q).stream.isNone

/-- The fence leaves the queues that it names. -/
def Ctx.dropFence (x : Ctx) (f : Fence) : Ctx :=
  { x with
    cq := (List.range 4).foldl (fun m c => if f.cqs.getLsbD c then m.modify [] c List.tail else m) x.cq
    fences := x.fences.filter fun g => g.id != f.id }

/-- QFENCE_COMPLETE (R151). -/
def execQfenceComplete (slot : Nat) (s : State) : Answer :=
  .next (s.modCtx slot fun x => match x.fences.find? x.fenceMet with
    | some f => x.dropFence f
    | none => x)

end Sys2Proof.Machine
end

