-- ==== Sys2Proof/Machine/Decrypt.lean ====
section
/-! DEFINITION. Decryption jobs (R382): AES-256 in Galois/Counter Mode, and the job's completion. -/

namespace Sys2Proof.Machine

/-! ### AES-256 (FIPS 197) -/

/-- Multiplication by x in GF(2⁸). -/
def aesTwice (b : Byte) : Byte := (b <<< 1) ^^^ (if b.getLsbD 7 then 0x1B else 0)

/-- The product in GF(2⁸), over the bits of the second factor. -/
def aesMul (a b : Byte) : Byte :=
  ((List.range 8).foldl (fun (st : Byte × Byte) i => (if b.getLsbD i then st.1 ^^^ st.2 else st.1, aesTwice st.2)) (0, a)).1

/-- The inverse in GF(2⁸), as the 254th power; 0 of 0. -/
def aesInv (a : Byte) : Byte :=
  let sq (x : Byte) : Byte := aesMul x x
  let a2 := sq a
  let a4 := sq a2
  let a8 := sq a4
  let a16 := sq a8
  let a32 := sq a16
  let a64 := sq a32
  let a128 := sq a64
  aesMul a2 (aesMul a4 (aesMul a8 (aesMul a16 (aesMul a32 (aesMul a64 a128)))))

/-- The substitution box. -/
def aesSub (a : Byte) : Byte :=
  let b := aesInv a
  b ^^^ b.rotateLeft 1 ^^^ b.rotateLeft 2 ^^^ b.rotateLeft 3 ^^^ b.rotateLeft 4 ^^^ 0x63

/-- Exclusive or of lists, byte by byte. -/
def xorBytes (a b : List Byte) : List Byte := List.zipWith (· ^^^ ·) a b

/-- Round constant `n`, counted from 1. -/
def aesRcon : Nat → Byte
  | 0 | 1 => 1
  | n + 1 => aesTwice (aesRcon n)

/-- Eight more words of the key schedule, from the eight before them. -/
def aesNextWords (n : Nat) (ws : List (List Byte)) : List (List Byte) :=
  let w (i : Nat) : List Byte := ws.getD i []
  let rot := (w 7).drop 1 ++ (w 7).take 1
  let a0 := xorBytes (w 0) (xorBytes (rot.map aesSub) [aesRcon n, 0, 0, 0])
  let a1 := xorBytes (w 1) a0
  let a2 := xorBytes (w 2) a1
  let a3 := xorBytes (w 3) a2
  let a4 := xorBytes (w 4) (a3.map aesSub)
  let a5 := xorBytes (w 5) a4
  let a6 := xorBytes (w 6) a5
  [a0, a1, a2, a3, a4, a5, a6, xorBytes (w 7) a6]

/-- The key schedule from octet `n` of words on. -/
def aesSchedule : Nat → Nat → List (List Byte) → List (List Byte)
  | 0, _, _ => []
  | k + 1, n, ws => ws ++ aesSchedule k (n + 1) (aesNextWords n ws)

/-- The fifteen round keys of a 32-byte key. -/
def aesRoundKeys (key : List Byte) : List (List Byte) :=
  let ws := aesSchedule 8 1 ((List.range 8).map fun i => (key.drop (4 * i)).take 4)
  (List.range 15).map fun r => ((ws.drop (4 * r)).take 4).flatten

/-- ShiftRows on the column-major state. -/
def aesShiftRows (b : List Byte) : List Byte := (List.range 16).map fun i => b.getD ((i + 4 * (i % 4)) % 16) 0

/-- MixColumns. -/
def aesMixColumns (b : List Byte) : List Byte :=
  (List.range 16).map fun i =>
    let c := i / 4 * 4
    let at' (k : Nat) : Byte := b.getD (c + (i + k) % 4) 0
    aesTwice (at' 0) ^^^ aesTwice (at' 1) ^^^ at' 1 ^^^ at' 2 ^^^ at' 3

/-- One block under round keys. -/
def aesBlock (ks : List (List Byte)) (b : List Byte) : List Byte :=
  let k (i : Nat) : List Byte := ks.getD i []
  let mid := (List.range' 1 13).foldl
    (fun st i => xorBytes (aesMixColumns (aesShiftRows (st.map aesSub))) (k i)) (xorBytes b (k 0))
  xorBytes (aesShiftRows (mid.map aesSub)) (k 14)

/-! ### Galois/Counter Mode (NIST SP 800-38D) -/

/-- Sixteen bytes as a block, the first byte highest. -/
def blockOf (l : List Byte) : BitVec 128 := BitVec.ofNat 128 (l.foldl (fun n b => n * 256 + b.toNat) 0)
/-- A block as sixteen bytes. -/
def bytesOfBlock (b : BitVec 128) : List Byte := (List.range 16).map fun i => b.extractLsb' (8 * (15 - i)) 8

/-- The product of blocks. -/
def gcmMul (x y : BitVec 128) : BitVec 128 :=
  ((List.range 128).foldl (fun (st : BitVec 128 × BitVec 128) i =>
    (if x.getLsbD (127 - i) then st.1 ^^^ st.2 else st.1,
      (st.2 >>> 1) ^^^ (if st.2.getLsbD 0 then 0xE1000000000000000000000000000000 else 0))) (0, y)).1

/-- Sixteen-byte pieces of a list, zero-padded. -/
def gcmBlocks (l : List Byte) : List (List Byte) :=
  (List.range ((l.length + 15) / 16)).map fun i =>
    let b := (l.drop (16 * i)).take 16
    b ++ List.replicate (16 - b.length) 0

/-- GHASH of a ciphertext without additional data. -/
def ghash (h : BitVec 128) (l : List Byte) : BitVec 128 :=
  let y := (gcmBlocks l).foldl (fun y b => gcmMul (y ^^^ blockOf b) h) 0
  gcmMul (y ^^^ BitVec.ofNat 128 (8 * l.length)) h

/-- Counter block `n` of a 96-bit IV. -/
def gcmCounter (iv : List Byte) (n : Nat) : List Byte := iv ++ (leBytes 4 n).reverse

/-- Encrypts or decrypts the data of a message. -/
def gcmCrypt (ks : List (List Byte)) (iv l : List Byte) : List Byte :=
  ((gcmBlocks l).zipIdx.flatMap fun p => xorBytes p.1 (aesBlock ks (gcmCounter iv (p.2 + 2)))).take l.length

/-- The tag of a ciphertext. -/
def gcmTag (ks : List (List Byte)) (iv l : List Byte) : List Byte :=
  let h := blockOf (aesBlock ks (List.replicate 16 0))
  xorBytes (bytesOfBlock (ghash h l)) (aesBlock ks (gcmCounter iv 1))

/-! ### Jobs -/

/-- A key slot's bytes, the least significant first. -/
def keyBytes (k : BitVec 256) : List Byte := (List.range 32).map fun i => k.extractLsb' (8 * i) 8

/-- The plaintext of a job whose tag verifies (R382). -/
def State.plaintext (s : State) (j : DecJob) : Option (List Byte) :=
  match s.keys.get none j.key with
  | none => none
  | some k =>
    let ks := aesRoundKeys (keyBytes k)
    let c := s.physRead (hostBase + j.src) j.len
    if gcmTag ks j.iv c = j.tag then some (gcmCrypt ks j.iv c) else none

/-- DECRYPTION_JOB_COMPLETE (R382): the job at the head of the queue commits its plaintext or is refused. -/
def State.decryptDone (s : State) : State :=
  match s.decJobs with
  | j :: l =>
    let t := { s with decJobs := l }
    let (u, code) := match s.plaintext j with
      | some p => (t.physWrite 0x500 j.dst p, 1)
      | none => (t, 2)
    (u.setBytes (hostBase + j.cmpl) (leBytes 8 code ++ leBytes 8 0)).message 4
  | [] => s

/-- DECRYPTION_JOB_COMPLETE (R382). -/
def execDecryptionJobComplete (s : State) : Answer := .next s.decryptDone

/-- KEY_SLOT_WRITE (R382): through an SPDM secured session. -/
def execKeySlotWrite (slot : Nat) (key : BitVec 256) (s : State) : Answer :=
  .next (if slot < 16 ∧ s.creel.lcs = 1 then { s with keys := s.keys.set none slot (some key) } else s)

end Sys2Proof.Machine
end

