-- ==== Sys2Proof/Machine/Codebook.lean ====
section
/-! DEFINITION. The default Codebook Table (R61, R62) and the table of a context. -/

namespace Sys2Proof.Machine

/-- The word whose nibble j holds the j-th magnitude. -/
def patternWord : List Nat → Nat
  | [] => 0
  | m :: t => m + 16 * patternWord t

/-- All placements of `k` values `b` among `n` places that hold `a` otherwise. -/
def placements (a b : Nat) : Nat → Nat → List (List Nat)
  | 0, 0 => [[]]
  | 0, _ + 1 => []
  | n + 1, 0 => (placements a b n 0).map fun t => a :: t
  | n + 1, k + 1 => (placements a b n (k + 1)).map (fun t => a :: t) ++ (placements a b n k).map fun t => b :: t

/-- The placements of (2, 1, 1, 0⁵), in quarters: one 8 and two 4 among `n` zeros. -/
def twoOneOne : Nat → List (List Nat)
  | 0 => []
  | n + 1 => (twoOneOne n).map (fun t => 0 :: t) ++ (placements 0 4 n 2).map (fun t => 8 :: t) ++ (eightAndFour n).map fun t => 4 :: t
where
  /-- One 8 and one 4 among zeros. -/
  eightAndFour : Nat → List (List Nat)
    | 0 => []
    | n + 1 =>
      (eightAndFour n).map (fun t => 0 :: t) ++ (placements 0 4 n 1).map (fun t => 8 :: t) ++ (placements 0 8 n 1).map fun t => 4 :: t

/-- Inserts a number into an ascending list. -/
def insertAsc (x : Nat) : List Nat → List Nat
  | [] => [x]
  | y :: t => if x ≤ y then x :: y :: t else y :: insertAsc x t

/-- The words of patterns, ascending. -/
def patternWords (l : List (List Nat)) : List Nat := (l.map patternWord).foldl (fun a w => insertAsc w a) []

/-- The default table (R62): norms 0, 2, 4 and 6 in turn, each by ascending word. -/
def defaultCodebook : List Nat :=
  [0]
    ++ patternWords (placements 0 4 8 2 ++ placements 2 2 8 0)
    ++ patternWords (placements 0 8 8 1 ++ placements 0 4 8 4 ++ placements 2 6 8 1)
    ++ (patternWords (twoOneOne 8 ++ placements 0 4 8 6 ++ placements 2 6 8 2)).take 140

/-- Entry `c` of a Codebook Table; none stands for the default table. -/
def codebookEntry (t : Option (List (BitVec 32))) (c : Nat) : BitVec 32 :=
  match t with
  | some l => l.getD c 0
  | none => BitVec.ofNat 32 (defaultCodebook.getD c 0)

/-- The Codebook Table of a context (R61). -/
def Ctx.codebook (x : Ctx) (c : Nat) : BitVec 32 := codebookEntry x.cbt c

end Sys2Proof.Machine
end

