-- ==== Sys2Proof/Machine/LowRank.lean ====
section
/-! DEFINITION. The low-rank algorithms over FP32 matrices (R100 .. R104). A matrix is the list of its columns. -/

namespace Sys2Proof.Machine

/-- A matrix as the list of its columns. -/
abbrev Mat := List (List F32)

/-- Row `i` of a matrix. -/
def Mat.row (m : Mat) (i : Nat) : List F32 := m.map fun c => c.getD i 0

/-- The first `n` rows of a matrix. -/
def Mat.rows (m : Mat) (n : Nat) : List (List F32) := (List.range n).map (Mat.row m)

/-- The first `n` columns of the identity with `k` rows. -/
def Mat.identity (k n : Nat) : Mat :=
  (List.range n).map fun j => (List.range k).map fun i => if i = j then 0x3F800000 else 0

/-- A negated FP32 value; NaN gives the canonical NaN. -/
def f32Neg (x : F32) : F32 := if x.val.isNan then 0x7FC00000 else x ^^^ 0x80000000

/-- The magnitude of an FP32 value. -/
def f32Abs (x : F32) : F32 := if x.val.isNan then 0x7FC00000 else x &&& 0x7FFFFFFF

/-- x > y, false with a NaN. -/
def f32Gt (x y : F32) : Bool := !x.val.isNan && !y.val.isNan && Val.cmp x.val y.val == Ordering.gt

/-- x ≥ 0, false with a NaN. -/
def f32NonNeg (x : F32) : Bool := !x.val.isNan && Val.cmp x.val Val.zero != Ordering.lt

/-- x = 0, of either sign. -/
def f32IsZero (x : F32) : Bool := x.val.isZero

/-- Dot(x, y, n) (R100). -/
def dot (x y : List F32) : Flagged F32 :=
  (x.zip y).foldlM (fun s p => Flagged.of (f32Fma p.1 p.2 s)) 0

/-- The product of two pairs (R101); its rank is the smaller one. -/
def mlmulPair (ua va ub vb : Mat) : Flagged (Mat × Mat) := do
  let m ← va.mapM fun vc => ub.mapM fun uc => dot vc uc
  if ua.length ≤ ub.length then
    let v ← m.mapM fun mi => (vb.rows 64).mapM fun r => dot r mi
    pure (ua, v)
  else
    let u ← (List.range ub.length).mapM fun j =>
      (ua.rows 64).mapM fun r => dot r (m.map fun mi => mi.getD j 0)
    pure (u, vb)

/-- Every element times a scalar (R102). -/
def Mat.scaleBy (m : Mat) (k : F32) : Flagged Mat := m.mapM fun c => c.mapM fun x => Flagged.of (f32Mul k x)

/-- The sum α·Ua·Vaᵀ + β·Ub·Vbᵀ as a pair (R102). -/
def mladdPair (al be : F32) (ua va ub vb : Mat) : Flagged (Mat × Mat) := do
  let x ← ua.scaleBy al
  let y ← ub.scaleBy be
  pure (x ++ y, va ++ vb)

/-- A reflector of HouseQR: its place j, h[j] and hv[j]. -/
structure Reflector where
  j : Nat
  h : F32
  hv : List F32

/-- One reflector applied to one column: w := Rn(h × Dot(hv, column from row j)), and the update. -/
def Reflector.apply (r : Reflector) (c : List F32) : Flagged (List F32) := do
  let d ← dot r.hv (c.drop r.j)
  let w ← Flagged.of (f32Mul r.h d)
  let t ← (r.hv.zip (c.drop r.j)).mapM fun p => Flagged.of (f32Fma (f32Neg w) p.1 p.2)
  pure (c.take r.j ++ t)

/-- The reflector of column `j`, whether the columns to its right take it, and the column that it leaves (R103). Where sg = 0 they do
not, and the reflector is zero. -/
def houseColumn (j : Nat) (c : List F32) : Flagged (Reflector × Bool × List F32) := do
  let x := c.drop j
  let n2 ← dot x x
  let sg ← Flagged.of (f32Sqrt n2)
  if f32IsZero sg then pure ({ j := j, h := 0, hv := x.map fun _ => 0 }, false, c)
  else
    let x0 := x.headD 0
    let al := if f32NonNeg x0 then f32Neg sg else sg
    let h0 ← Flagged.of (f32Sub x0 al)
    let hv := h0 :: x.tail
    let d ← dot hv hv
    let h ← Flagged.of (f32Div 0x40000000 d)
    pure ({ j := j, h := h, hv := hv }, true, c.take j ++ al :: x.tail.map fun _ => 0)

/-- HouseQR's first loop: from column `j` on, the columns of Rm and the reflectors. -/
def houseLoop : Nat → Nat → Mat → Flagged (Mat × List Reflector)
  | 0, _, _ => pure ([], [])
  | _, _, [] => pure ([], [])
  | fuel + 1, j, c :: cs => do
    let (r, live, c') ← houseColumn j c
    let cs' ← if live then cs.mapM r.apply else pure cs
    let (rest, rs) ← houseLoop fuel (j + 1) cs'
    pure (c' :: rest, r :: rs)

/-- HouseQR(A, n) (R103): Q and Rm, of n columns each. Q takes every reflector, a zero one too: it spreads a NaN or an infinity that
stands in Q. -/
def houseQR (a : Mat) : Flagged (Mat × Mat) := do
  let (r, refl) ← houseLoop a.length 0 a
  let q ← refl.reverse.foldlM (fun q x => q.mapM x.apply) (Mat.identity 64 a.length)
  pure (q, r.map fun c => c.take a.length)

/-- One rotation of two columns: X[p] := cs·x − sn·y and X[q] := sn·x + cs·y, rounded as R104 writes them. -/
def rotate (cs sn : F32) (x y : List F32) : Flagged (List F32 × List F32) := do
  let p ← (x.zip y).mapM fun e => do
    let t ← Flagged.of (f32Mul sn e.2)
    Flagged.of (f32Fma cs e.1 (f32Neg t))
  let q ← (x.zip y).mapM fun e => do
    let t ← Flagged.of (f32Mul cs e.2)
    Flagged.of (f32Fma sn e.1 t)
  pure (p, q)

/-- One step (p, q) of a sweep of R104. -/
def jacobiStep (wy : Mat × Mat) (p q : Nat) : Flagged (Mat × Mat) := do
  let (w, y) := wy
  let wp := w.getD p []
  let wq := w.getD q []
  let a ← dot wp wp
  let b ← dot wq wq
  let c ← dot wp wq
  if f32IsZero c then pure wy
  else
    let ba ← Flagged.of (f32Sub b a)
    let c2 ← Flagged.of (f32Mul 0x40000000 c)
    let z ← Flagged.of (f32Div ba c2)
    let zz ← Flagged.of (f32Fma z z 0x3F800000)
    let rt ← Flagged.of (f32Sqrt zz)
    let den ← Flagged.of (f32Add (f32Abs z) rt)
    let t ← Flagged.of (f32Div (if f32NonNeg z then 0x3F800000 else 0xBF800000) den)
    let tt ← Flagged.of (f32Fma t t 0x3F800000)
    let rt2 ← Flagged.of (f32Sqrt tt)
    let cs ← Flagged.of (f32Div 0x3F800000 rt2)
    let sn ← Flagged.of (f32Mul cs t)
    let (wp', wq') ← rotate cs sn wp wq
    let (yp', yq') ← rotate cs sn (y.getD p []) (y.getD q [])
    pure ((w.set p wp').set q wq', (y.set p yp').set q yq')

/-- The pairs p < q below n in the order of R104's loops. -/
def jacobiPairs (n : Nat) : List (Nat × Nat) :=
  (List.range n).flatMap fun p => (List.range n).filterMap fun q => if p < q then some (p, q) else none

/-- Puts an index into a list that stands by descending value, after equal ones; a NaN lies below every number. -/
def insertDesc (sig : List F32) (i : Nat) : List Nat → List Nat
  | [] => [i]
  | k :: t =>
    let x := sig.getD i 0
    let y := sig.getD k 0
    if !x.val.isNan && (y.val.isNan || f32Gt x y) then i :: k :: t else k :: insertDesc sig i t

/-- The number of leading values above `lim`, at most `cap`. -/
def countAbove (lim : F32) : Nat → List F32 → Nat
  | 0, _ => 0
  | _, [] => 0
  | cap + 1, x :: t => if f32Gt x lim then countAbove lim cap t + 1 else 0

/-- MLRC (R104): the recompressed pair under tolerance (mode, τ) and cap. -/
def mlrcPair (absolute : Bool) (tau : F32) (cap : Nat) (u v : Mat) : Flagged (Mat × Mat) := do
  let n := u.length
  let (qu, ru) ← houseQR u
  let (qv, rv) ← houseQR v
  let k ← (rv.rows n).mapM fun rj => (ru.rows n).mapM fun ri => dot ri rj
  let steps := (List.range 6).flatMap fun _ => jacobiPairs n
  let (w, y) ← steps.foldlM (fun wy pq => jacobiStep wy pq.1 pq.2) (k, Mat.identity n n)
  let sig ← w.mapM fun c => do
    let d ← dot c c
    Flagged.of (f32Sqrt d)
  let pm := (List.range n).foldl (fun l i => insertDesc sig i l) []
  let lim ← match pm with
    | [] => pure tau
    | p0 :: _ => if absolute then pure tau else Flagged.of (f32Mul tau (sig.getD p0 0))
  let keep := pm.take (countAbove lim cap (pm.map fun i => sig.getD i 0))
  let u' ← keep.mapM fun i => (qu.rows 64).mapM fun r => dot r (w.getD i [])
  let v' ← keep.mapM fun i => (qv.rows 64).mapM fun r => dot r (y.getD i [])
  pure (u', v')

end Sys2Proof.Machine
end

