-- ==== Sys2Proof/Machine/Matrix.lean ====
section
/-! DEFINITION. Matrix names, products into accumulators and low-rank operations (majors 0x20 .. 0x22 of the M cluster; R319 ..
R327, R332 .. R338). Loads and stores of tiles stand in `MatrixMem`. -/

namespace Sys2Proof.Machine

/-! ### Names and slots -/

/-- Matrix name `m` of a context. -/
def Ctx.tile (x : Ctx) (m : Nat) : Tile := x.tiles.get .unbound m
/-- Matrix name `m` of the executing context. -/
def State.tile (s : State) (m : RegF) : Tile := s.myCtx.tile m.toNat
/-- Writes a matrix name of the executing context. -/
def State.setTile (s : State) (m : RegF) (t : Tile) : State :=
  s.modMyCtx fun x => { x with tiles := x.tiles.set .unbound m.toNat t }
/-- An accumulator of the executing context. -/
def State.acc (s : State) (a : RegF) : Acc := s.myCtx.accs.get .initial a.toNat
/-- Writes an accumulator of the executing context. -/
def State.setAcc (s : State) (a : RegF) (x : Acc) : State :=
  s.modMyCtx fun c => { c with accs := c.accs.set .initial a.toNat x }

/-- Slots that a dense tile of a format takes (R320). -/
def denseNeed (f : Fmt) : Nat := if f == Fmt.vq2 then 1 else (f.width + 7) / 8
/-- Slots that a pair of a rank takes (R320). -/
def pairNeed (rank : Nat) : Nat := (rank + 7) / 8
/-- Elements of a dense tile (R319). -/
def tileSize (f : Fmt) : Nat := if f == Fmt.vq2 then 512 else 4096
/-- Elements of one row of a dense tile (R319, R328). -/
def rowSize (f : Fmt) : Nat := if f == Fmt.vq2 then 8 else 64

/-- The elements and scales of a tile as a strip. -/
def Tile.strip (t : Tile) : Strip := { tag := { fmt := t.fmt, vsum := vsValid, blk := 0 }, elems := t.elems, scales := t.scales }

/-- The tile descriptor (R322). -/
def Tile.desc (t : Tile) : Word :=
  let kind := match t.kind with
    | .unbound => 0
    | .dense => 1
    | .factor => 2
  let rank := match t.kind with
    | .unbound => 0
    | .dense => 64
    | .factor => t.rank
  let fmt := match t.kind with
    | .unbound => 0
    | .dense => t.fmt.toNat
    | .factor => 2
  BitVec.ofNat 64 (t.held.length * 2 ^ 24 + t.elas.toNat * 2 ^ 23 + t.ncl * 2 ^ 18 + kind * 2 ^ 16 + rank * 2 ^ 7 + fmt)

/-- The free slots of a context's quota, ascending (R321). -/
def Ctx.freeSlots (x : Ctx) : List Nat := (List.range x.tosq).filter fun i => !x.tiles.any fun p => p.2.held.contains i

/-- Inserts a slot number in ascending order. -/
def insertSlot (n : Nat) : List Nat → List Nat
  | [] => [n]
  | x :: t => if n < x then n :: x :: t else x :: insertSlot n t

/-- The slots of a name after a write of need `need` (R321). -/
def Ctx.resized (x : Ctx) (t : Tile) (need : Nat) : List Nat :=
  if !t.elas then t.held
  else if need ≤ t.held.length then t.held.take need
  else (x.freeSlots.take (need - t.held.length)).foldl (fun l n => insertSlot n l) t.held

/-- The slot-shortage trap (R410). -/
def slotShortage (need ncl avail : Nat) (elas : Bool) : Stop :=
  .trap 0x0014 0 (at_ 16 need ||| at_ 21 ncl ||| at_ 26 (min avail 31) ||| at_ 31 elas.toNat)

/-- A need that a destination can meet (R321). -/
def State.fitCheck (s : State) (m : RegF) (need : Nat) : Bool × Stop :=
  let t := s.tile m
  let avail := t.held.length + s.myCtx.freeSlots.length
  (decide (need ≤ t.ncl) && (!t.elas || decide (need ≤ avail)), slotShortage need t.ncl avail t.elas)

/-- The rank-overflow trap (R410). -/
def State.rankCheck (s : State) (rank : Nat) : Bool × Stop :=
  (decide (rank ≤ s.myCtx.rkcap.toNat), .trap 0x0013 0 (at_ 16 rank ||| at_ 24 s.myCtx.rkcap.toNat))

/-- The names are bound (R411 reason 0x0A), in the order of their operand codes. -/
def State.boundChecks (s : State) (l : List (RegF × Nat)) : List (Bool × Stop) :=
  l.map fun p => ((s.tile p.1).kind != .unbound, illegalOperand 0x0A p.1.toNat p.2)

/-- A name has the KIND that the instruction needs (R411 reason 0x0B). -/
def State.kindCheck (s : State) (m : RegF) (operand : Nat) (k : TileKind) : Bool × Stop :=
  ((s.tile m).kind == k, illegalOperand 0x0B m.toNat operand)

/-- Writes a dense tile into a bound name and resizes it (R321). -/
def State.writeDense (s : State) (m : RegF) (f : Fmt) (elems : SMap Word) (scales : SMap Byte) : State :=
  let t := s.tile m
  s.setTile m { t with
    kind := .dense, rank := 0, fmt := f, elems := elems, scales := scales, held := s.myCtx.resized t (denseNeed f) }

/-- A map of the values of a list from key `i` on; the default is left out. -/
def mapOfList {α : Type} [DecidableEq α] (d : α) : Nat → List α → SMap α
  | _, [] => []
  | i, v :: t => if v = d then mapOfList d (i + 1) t else (i, v) :: mapOfList d (i + 1) t

/-- The words of a list of columns of 64 rows, each column after the other. -/
def columnWords (m : Mat) : List F32 := m.flatMap fun c => (List.range 64).map fun i => c.getD i 0

/-- Writes a pair into a bound name and resizes it (R321, R330). -/
def State.writePair (s : State) (m : RegF) (p : Mat × Mat) : State :=
  let t := s.tile m
  s.setTile m { t with
    kind := .factor, rank := p.1.length, fmt := 0, scales := [], held := s.myCtx.resized t (pairNeed p.1.length)
    elems := mapOfList 0 0 ((columnWords p.1 ++ columnWords p.2).map fun w => w.setWidth 64) }

/-- Column `c` of the columns stored in a pair's elements. -/
def Tile.column (t : Tile) (c : Nat) : List F32 := (List.range 64).map fun i => (t.elems.get 0 (64 * c + i)).setWidth 32

/-- The pair that a name holds (R319). -/
def Tile.pair (t : Tile) : Mat × Mat := ((List.range t.rank).map t.column, (List.range t.rank).map fun c => t.column (t.rank + c))

/-- Element `k` = 64i + j of a dense tile as an exact value (R319, R54); a VQ2 index stands for eight columns. -/
def Tile.val (cb : Nat → BitVec 32) (t : Tile) (k : Nat) : Val :=
  if t.fmt == Fmt.vq2 then
    let idx := (t.strip.code (k / 8)).toNat % 65536
    vq2Weight (cb (idx % 256)) idx (k % 8) (t.strip.scale (k / 8))
  else t.strip.val k

/-- Decoding the elements `ks` of a dense tile raises SCN (R54). -/
def Tile.scn (t : Tile) (ks : List Nat) : Flags := Flags.all (ks.map fun k => t.strip.scn (if t.fmt == Fmt.vq2 then k / 8 else k))

/-! ### Name instructions -/

/-- MCLAIM (R327). -/
def claimName (d : RegF) (n : Nat) (elas : Bool) (s : State) : Except Stop State := do
  let free := s.myCtx.freeSlots
  firstOf [((s.tile d).kind == .unbound, illegalOperand 0x0A d.toNat 0),
    (elas || decide (n ≤ free.length), slotShortage n n free.length elas)]
  .ok (s.setTile d { Tile.unbound with kind := .factor, elas := elas, ncl := n, held := if elas then [] else free.take n })

/-- MCLAIM, fixed (R327). -/
def execMclaim (g : Guard) (d n : RegF) (s : State) : Answer := settle g 4 (claimName d n.toNat false) s
/-- MCLAIM, elastic (R327). -/
def execMclaimElastic (g : Guard) (d n : RegF) (s : State) : Answer := settle g 4 (claimName d n.toNat true) s

/-- MREL (R327). -/
def execMrel (g : Guard) (d : RegF) (s : State) : Answer := settle g 4 (fun s => .ok (s.setTile d .unbound)) s

/-- MZERO (R327). -/
def zeroName (d : RegF) (s : State) : Except Stop State := do
  firstOf (s.boundChecks [(d, 0)])
  .ok (s.writePair d ([], []))

/-- MZERO (R327). -/
def execMzero (g : Guard) (d : RegF) (s : State) : Answer := settle g 4 (zeroName d) s
/-- MRANK (R327). -/
def execMrank (g : Guard) (d a : RegF) (s : State) : Answer := settle g 4 (fun s => .ok (s.writeS d (s.tile a).desc)) s

/-! ### Forming tiles -/

/-- A dense tile formed from what is put at each element (R87, R266, R295): elements, scales, flags and residual. -/
def formTile (f : Fmt) (blk : Nat) (rm : Rm) (ef : Bool) (n : Nat) (put : Nat → Put) (res : F32) : Form :=
  let p : Plan :=
    { fmt := f, blk := blk, rm := rm, ef := ef, put := put
      old := { tag := { fmt := f, vsum := vsValid, blk := 0 }, elems := [], scales := [] } }
  p.run n n res

/-- The FP32 tile of rows of words. -/
def wordTile (rows : List (List F32)) : SMap Word := mapOfList 0 0 (rows.flatten.map fun w => w.setWidth 64)

/-- The dense tile of a pair: D[i][j] := Dot(U[i][.], V[j][.], n) (R336, R337). -/
def densePair (p : Mat × Mat) : Flagged (List (List F32)) :=
  (p.1.rows 64).mapM fun u => (p.2.rows 64).mapM fun v => dot u v

/-- MTR (R337). -/
def transpose (d a : RegF) (s : State) : Except Stop State := do
  firstOf (s.boundChecks [(d, 0), (a, 1)])
  let t := s.tile a
  match t.kind with
  | .factor =>
    firstOf [s.rankCheck t.rank, s.fitCheck d (pairNeed t.rank)]
    .ok (s.writePair d (t.pair.2, t.pair.1))
  | _ =>
    firstOf [(t.fmt != Fmt.vq2, illegalOperand 0x04 0 1 t.fmt.toNat), s.fitCheck d (denseNeed t.fmt)]
    let r := formTile t.fmt 0 .rne false 4096 (fun k =>
      let k' := 64 * (k % 64) + k / 64
      .move (t.strip.code k') (t.strip.scale k')) 0
    .ok ((s.writeDense d t.fmt r.elems r.scales).orFlags r.flags)

/-- MTR (R337). -/
def execMtr (g : Guard) (d a : RegF) (s : State) : Answer := settle g 4 (transpose d a) s

/-- MDENSE (R337). -/
def densify (d a : RegF) (s : State) : Except Stop State := do
  firstOf (s.boundChecks [(d, 0), (a, 1)])
  let t := s.tile a
  match t.kind with
  | .factor =>
    firstOf [s.fitCheck d 4]
    let r := (densePair t.pair).go
    .ok ((s.writeDense d Fmt.fp32 (wordTile r.1) []).orFlags r.2)
  | _ =>
    firstOf [s.fitCheck d (denseNeed t.fmt)]
    .ok (s.writeDense d t.fmt t.elems t.scales)

/-- MDENSE (R337). -/
def execMdense (g : Guard) (d a : RegF) (s : State) : Answer := settle g 4 (densify d a) s

/-! ### Low-rank operations -/

/-- MLMUL (R101, R335). -/
def multiplyPairs (d a b : RegF) (s : State) : Except Stop State := do
  firstOf (s.boundChecks [(d, 0), (a, 1), (b, 2)])
  firstOf [s.kindCheck a 1 .factor, s.kindCheck b 2 .factor]
  let x := s.tile a
  let y := s.tile b
  let n := min x.rank y.rank
  firstOf [s.rankCheck n, s.fitCheck d (pairNeed n)]
  let r := (mlmulPair x.pair.1 x.pair.2 y.pair.1 y.pair.2).go
  .ok ((s.writePair d r.1).orFlags r.2)

/-- MLMUL (R335). -/
def execMlmul (g : Guard) (d a b : RegF) (s : State) : Answer := settle g 4 (multiplyPairs d a b) s

/-- MLADD (R102, R335, R336). -/
def addPairs (d a b rc re : RegF) (dense : Bool) (s : State) : Except Stop State := do
  firstOf (s.boundChecks [(d, 0), (a, 1), (b, 2)])
  firstOf [s.kindCheck a 1 .factor, s.kindCheck b 2 .factor]
  let x := s.tile a
  let y := s.tile b
  let n := x.rank + y.rank
  let fall := dense && decide (s.myCtx.rkcap.toNat < n)
  firstOf (if fall then [s.fitCheck d 4] else [s.rankCheck n, s.fitCheck d (pairNeed n)])
  let r := (mladdPair ((s.readS rc).setWidth 32) ((s.readS re).setWidth 32) x.pair.1 x.pair.2 y.pair.1 y.pair.2).go
  if fall then
    let w := (densePair r.1).go
    .ok ((s.writeDense d Fmt.fp32 (wordTile w.1) []).orFlags (r.2 ||| w.2))
  else .ok ((s.writePair d r.1).orFlags r.2)

/-- MLADD (R335). -/
def execMladd (g : Guard) (d a b rc re : RegF) (mode : BitVec 2) (s : State) : Answer :=
  settle g 8 (addPairs d a b rc re (mode == 1)) s

/-- A tile as a pair: a dense one converted element by element to FP32, with V the identity (R335). -/
def Tile.asPair (cb : Nat → BitVec 32) (t : Tile) : Flagged (Mat × Mat) :=
  match t.kind with
  | .dense => do
    Flagged.raise (t.scn (List.range 4096))
    let u ← (List.range 64).mapM fun c => (List.range 64).mapM fun r => Flagged.of (rn (t.val cb (64 * r + c)))
    pure (u, Mat.identity 64 64)
  | _ => pure t.pair

/-- MLRC (R104, R335). -/
def recompress (d a : RegF) (s : State) : Except Stop State := do
  firstOf (s.boundChecks [(d, 0), (a, 1)])
  let x := s.myCtx
  let r := (do
    let p ← (s.tile a).asPair x.codebook
    mlrcPair (x.tol.getLsbD 32) (x.tol.extractLsb' 0 32) x.rkcap.toNat p.1 p.2).go
  firstOf [s.fitCheck d (pairNeed r.1.1.length)]
  .ok ((s.writePair d r.1).orFlags r.2)

/-- MLRC (R335). -/
def execMlrc (g : Guard) (d a : RegF) (s : State) : Answer := settle g 4 (recompress d a) s

/-! ### Products into accumulators -/

/-- The exact sum of a group of products (R90): NaN without NV when an input is NaN, NaN with NV otherwise. -/
def groupSum (l : List (Val × Val)) : Val × Flags :=
  let v := match l.map fun p => (Val.mul p.1 p.2).1 with
    | [] => Val.zero
    | x :: t => t.foldl (fun a p => (Val.add .rne a p).1) x
  (v, Flags.when (v.isNan && !l.any fun p => p.1.isNan || p.2.isNan) Flags.nv)

/-- Groups of 16 consecutive products (R90). -/
def groups16 (l : List (Val × Val)) : List (List (Val × Val)) :=
  (List.range ((l.length + 15) / 16)).map fun q => (l.drop (16 * q)).take 16

/-- An FP32 accumulator element after products (R90). -/
def accumulate (acc : F32) (l : List (Val × Val)) : Flagged F32 :=
  (groups16 l).foldlM (fun a g => do
    let s ← Flagged.of (groupSum g)
    Flagged.of (rnOf (Val.add .rne a.val s))) acc

/-- The compute formats that MMA and MSLD take (R97), with the accumulator's kind. -/
def accKind (cf : Fmt) : Option AccKind :=
  if cf.isReal && decide (3 ≤ cf.toNat) then some .fp32
  else if cf == Fmt.i8 || cf == Fmt.u8 || cf == Fmt.i16 then some .i32
  else none

/-- The lattice check of MMA and MSLD (R97): the entry's CF and the accumulator's kind. -/
def State.accLookup (s : State) (fa fb : Fmt) (realOnly : Bool) : Except Stop (Fmt × AccKind) :=
  let e := s.lookup fa fb
  if e.act == .forbidden then .error (pairTrap fa fb false false s.myCtx.latsel)
  else match accKind e.cf with
    | some k => if realOnly && k != .fp32 then .error (pairTrap fa fb false true s.myCtx.latsel) else .ok (e.cf, k)
    | none => .error (pairTrap fa fb false true s.myCtx.latsel)

/-- The accumulator is FREE or of the kind (R338). -/
def State.accCheck (s : State) (d : RegF) (k : AccKind) : Bool × Stop :=
  ((s.acc d).kind == .free || (s.acc d).kind == k, illegalOperand 0x0C d.toNat 0)

/-- An operand converted to an integer compute format (R91). -/
def toCf (cf : Fmt) (v : Val) : Flagged Int := do
  let r ← Flagged.of (roundTo cf .rne v)
  pure (match decodeElem cf r 0x7F with
    | .fin s m e => (if s then -1 else 1) * (m <<< e.toNat : Nat)
    | _ => 0)

/-- The words of an accumulator after products of `k < n`: element (i, j) takes products a(i, k) × b(k, j) (R90, R91). -/
def products (kind : AccKind) (cf : Fmt) (n : Nat) (a : Nat → Nat → Val) (b : Nat → Nat → Val) (acc : Acc) :
    Flagged (List (BitVec 32)) :=
  match kind with
  | .i32 => do
    let x ← (List.range 64).mapM fun i => (List.range n).mapM fun k => toCf cf (a i k)
    let y ← (List.range (64 * n)).mapM fun e => toCf cf (b (e / 64) (e % 64))
    pure ((List.range 64).flatMap fun i => (List.range 64).map fun j =>
      acc.words.get 0 (64 * i + j)
        + BitVec.ofInt 32 ((List.range n).map fun k => (x.getD i []).getD k 0 * y.getD (64 * k + j) 0).sum)
  | _ => do
    let rows ← (List.range 64).mapM fun i => (List.range 64).mapM fun j =>
      accumulate (acc.words.get 0 (64 * i + j)) ((List.range n).map fun k => (a i k, b k j))
    pure rows.flatten

/-- An accumulator written with words. -/
def Acc.put (k : AccKind) (w : List (BitVec 32)) : Acc := { kind := k, words := mapOfList 0 0 w }

/-- The exact values of a matrix of FP32 columns, by row and column. -/
def Mat.at (m : Mat) (i j : Nat) : Val := F32.val ((m.getD j []).getD i 0)

/-- T[i][q] of R333: row `i` of a dense operand times the columns of a matrix. -/
def throughRank (n : Nat) (row : Nat → Nat → Val) (m : Mat) : Flagged (List (List F32)) :=
  (List.range n).mapM fun i => (List.range m.length).mapM fun q =>
    accumulate 0 ((List.range 64).map fun k => (row i k, m.at k q))

/-- The operands of a product through the rank (R333): element (i, q) and element (q, j), over the rank; and SCN. -/
def rankOperands (cb : Nat → BitVec 32) (x y : Tile) : Flagged (Nat × (Nat → Nat → Val) × (Nat → Nat → Val)) :=
  match x.kind, y.kind with
  | .factor, .factor => do
    let p ← mlmulPair x.pair.1 x.pair.2 y.pair.1 y.pair.2
    pure (p.1.length, fun i q => p.1.at i q, fun q j => p.2.at j q)
  | .factor, _ =>
    if x.rank = 0 then pure (0, fun _ _ => Val.zero, fun _ _ => Val.zero)
    else do
      Flagged.raise (y.scn (List.range 4096))
      let t ← throughRank 64 (fun j k => y.val cb (64 * k + j)) x.pair.2
      pure (x.rank, fun i q => x.pair.1.at i q, fun q j => F32.val ((t.getD j []).getD q 0))
  | _, _ =>
    if y.rank = 0 then pure (0, fun _ _ => Val.zero, fun _ _ => Val.zero)
    else do
      Flagged.raise (x.scn (List.range 4096))
      let t ← throughRank 64 (fun i k => x.val cb (64 * i + k)) y.pair.1
      pure (y.rank, fun i q => F32.val ((t.getD i []).getD q 0), fun q j => y.pair.2.at j q)

/-- MMA with a FACTOR operand (R333); a rank-0 factor leaves the accumulator unchanged. -/
def mmaRank (d : RegF) (x y : Tile) (s : State) : Except Stop State := do
  -- R325: the accumulator's kind (order 2) comes before the lattice (order 3)
  firstOf [s.accCheck d .fp32]
  match x.kind, y.kind with
  | .factor, .factor => pure ()
  | .factor, _ => let _ ← s.accLookup y.fmt y.fmt true
  | _, _ => let _ ← s.accLookup x.fmt x.fmt true
  let r := (do
    let o ← rankOperands s.myCtx.codebook x y
    if o.1 = 0 then pure none else some <$> products .fp32 0 o.1 o.2.1 o.2.2 (s.acc d)).go
  let s1 := match r.1 with
    | some w => s.setAcc d (.put .fp32 w)
    | none => s
  .ok (s1.orFlags r.2)

/-- MMA with two dense tiles (R332). Which kind of accumulator is the right one follows from the lattice entry's CF. -/
def mmaDense (d : RegF) (x y : Tile) (s : State) : Except Stop State := do
  let (cf, k) ← s.accLookup x.fmt y.fmt false
  firstOf [s.accCheck d k]
  let cb := s.myCtx.codebook
  let r := (do
    Flagged.raise (x.scn (List.range 4096) ||| y.scn (List.range 4096))
    products k cf 64 (fun i k => x.val cb (64 * i + k)) (fun k j => y.val cb (64 * k + j)) (s.acc d)).go
  .ok ((s.setAcc d (.put k r.1)).orFlags r.2)

/-- MMA (R332, R333). -/
def matrixProduct (d a b : RegF) (s : State) : Except Stop State := do
  firstOf (s.boundChecks [(a, 1), (b, 2)])
  let x := s.tile a
  let y := s.tile b
  if x.kind == .dense && y.kind == .dense then mmaDense d x y s else mmaRank d x y s

/-- MMA (R332). -/
def execMma (g : Guard) (d a b : RegF) (s : State) : Answer := settle g 4 (matrixProduct d a b) s

/-- MSLD (R334): x[t] is element t of mb's rows 0 and 1. -/
def slide (d a b : RegF) (n : Nat) (s : State) : Except Stop State := do
  firstOf (s.boundChecks [(a, 1), (b, 2)])
  firstOf [s.kindCheck a 1 .dense, s.kindCheck b 2 .dense]
  let x := s.tile a
  let y := s.tile b
  let (cf, k) ← s.accLookup x.fmt y.fmt false
  firstOf [s.accCheck d k]
  let cb := s.myCtx.codebook
  let taps := (List.range 64).flatMap fun i => (List.range n).map fun j => 64 * i + j
  let r := (do
    Flagged.raise (x.scn taps ||| y.scn (List.range (63 + n)))
    match k with
    | .i32 =>
      let ta ← taps.mapM fun e => toCf cf (x.val cb e)
      let tb ← (List.range (63 + n)).mapM fun e => toCf cf (y.val cb e)
      pure ((List.range 64).flatMap fun i => (List.range 64).map fun j =>
        (s.acc d).words.get 0 (64 * i + j)
          + BitVec.ofInt 32 ((List.range n).map fun q => ta.getD (n * i + q) 0 * tb.getD (j + q) 0).sum)
    | _ => products .fp32 cf n (fun i q => x.val cb (64 * i + q)) (fun q j => y.val cb (j + q)) (s.acc d)).go
  .ok ((s.setAcc d (.put k r.1)).orFlags r.2)

/-- MSLD (R334). -/
def execMsld (g : Guard) (d a b : RegF) (n : BitVec 6) (s : State) : Answer := settle g 8 (slide d a b n.toNat) s

/-! ### Accumulators -/

/-- AZERO (R339). -/
def execAzero (g : Guard) (d : RegF) (s : State) : Answer := settle g 4 (fun s => .ok (s.setAcc d .initial)) s

/-- Element `k` of an accumulator as an exact value; FREE reads as FP32 zeros (R338, R340). -/
def Acc.val (x : Acc) (k : Nat) : Val :=
  match x.kind with
  | .free => Val.zero
  | .fp32 => F32.val (x.words.get 0 k)
  | .i32 => Val.ofInt (x.words.get 0 k).toInt

/-- The EFC after a conversion: written under error feedback only (R83). -/
def State.setEfc (s : State) (ef : Bool) (res : F32) : State := if ef then s.modMe fun x => { x with efc := res } else s

/-- ACVT into a tile (R340). -/
def acvtTile (d a : RegF) (f : Fmt) (blk : Nat) (rm : BitVec 3) (s : State) : Except Stop State := do
  firstOf ((f != Fmt.vq2, illegalOperand 0x05 0 0 f.toNat) :: s.boundChecks [(d, 0)] ++ [s.fitCheck d (denseNeed f)])
  let r := formTile f blk (Rm.ofCode rm.toNat) (rm == 4) 4096 (fun k => .value ((s.acc a).val k)) s.me.efc
  .ok (((s.writeDense d f r.elems r.scales).orFlags r.flags).setEfc (rm == 4) r.res)

/-- Row `i` of an accumulator as a queue entry, with its flags and residual (R340). -/
def acvtRow (x : Acc) (f : Fmt) (blk : BitVec 2) (rm : BitVec 3) (i : Nat) (res : F32) : QEntry × Flags × F32 :=
  let r := formTile f blk.toNat (Rm.ofCode rm.toNat) (rm == 4) 64 (fun j => .value (x.val (64 * i + j))) res
  (QEntry.vector { tag := { fmt := f, vsum := vsValid, blk := blk }, elems := r.elems, scales := r.scales } 64 fun _ => true,
    r.flags, r.res)

/-- Pushes the rows from `i` on while there is space; START0 names the next row (R340, R343). -/
def acvtRows (a : RegF) (q : Nat) (f : Fmt) (blk : BitVec 2) (rm : BitVec 3) : Nat → Nat → State → State × Bool
  | 0, _, s => (s, true)
  | n + 1, i, s =>
    let r := acvtRow (s.acc a) f blk rm i s.me.efc
    if (s.queue q).fits [r.1] then
      let t := (((s.modQueue q fun x => x.push [r.1]).orFlags r.2.1).setEfc (rm == 4) r.2.2).modMe fun x =>
        { x with start := x.start.set 0 0 (BitVec.ofNat 16 (i + 1)) }
      acvtRows a q f blk rm n (i + 1) t
    else (s, false)

/-- The checks of ACVT into a queue (R340). -/
def State.acvtChecks (s : State) (q : Nat) (f : Fmt) (blk : BitVec 2) : List (Bool × Stop) :=
  s.queueChecks [] [q]
    ++ [(f != Fmt.vq2, illegalOperand 0x05 0 0 f.toNat),
        (decide (2 ^ blk.toNat * 256 ≤ 64 * f.width), illegalOperand 0x0D (2 ^ blk.toNat) 7 f.toNat)]

/-- ACVT into a queue (R340): 64 entries; each push waits for space, and rows already pushed stay. -/
def acvtQueue (q : Nat) (a : RegF) (f : Fmt) (blk : BitVec 2) (rm : BitVec 3) (s : State) : Answer :=
  match firstOf (s.acvtChecks q f blk) with
  | .error x => .next (s.halt x)
  | .ok _ =>
    let i := (s.me.start.get 0 0).toNat
    let r := acvtRows a q f blk rm (64 - i) i s
    .next (if r.2 then r.1.retire 8 else r.1.halt (.wait (.queueSpace q)))

/-- ACVT (R340). -/
def execAcvt (g : Guard) (d a : RegF) (fmt : RegF) (blk : BitVec 2) (rm : BitVec 3) (qd : Bool) (s : State) : Answer :=
  if qd then onGuard g 8 s (acvtQueue d.toNat a fmt blk rm) else settle g 8 (acvtTile d a fmt blk.toNat rm) s

end Sys2Proof.Machine
end

