-- ==== Sys2Proof/Machine/Vector.lean ====
section
/-! DEFINITION. Polymorphic arithmetic, special functions, bitwise operations, comparison, selection, moves, conversion and
scales of the V cluster (majors 0x22 .. 0x24; R305 .. R311). -/

namespace Sys2Proof.Machine

/-- The operations of R305. -/
inductive VArith where
  | add | sub | mul | fma | fms | nfma | min | max | abs | neg
deriving DecidableEq, Repr

/-- The exact result of an operation on converted operands (R84, R305), with NV where it is invalid. -/
def VArith.exact (op : VArith) (rm : Rm) (x : List Val) : Val × Flags :=
  let a := x.headD .zero
  let b := (x.drop 1).headD .zero
  let c := (x.drop 2).headD .zero
  match op with
  | .add => Val.add rm a b
  | .sub => Val.add rm a b.neg
  | .mul => Val.mul a b
  | .fma => Val.fma rm a b c
  | .fms => Val.fma rm a b c.neg
  | .nfma => Val.fma rm a.neg b c
  | .min => (Val.fmin a b, 0)
  | .max => (Val.fmax a b, 0)
  | .abs => (a.abs, 0)
  | .neg => (a.neg, 0)

/-- The integer that a value of an integer format is. -/
def Val.toInt : Val → Int
  | .fin s m e => (if s then -1 else 1) * (shiftZ m e : Nat)
  | _ => 0

/-- Saturate to an integer format's range, with SAT when the value changes, or Wrap (R94, R305). -/
def Fmt.fit (f : Fmt) (satm : Bool) (n : Int) : Word × Flags :=
  if satm then
    let c := max f.minInt (min f.maxInt n)
    (BitVec.ofNat 64 (wrapCode f.width c), Flags.when (c != n) Flags.sat)
  else (BitVec.ofNat 64 (wrapCode f.width n), 0)

/-- Values rounded to a format and read back (R97): in a scaled format granule by granule, under the scale of the values
given. -/
def roundAll (f : Fmt) (rm : Rm) (l : List (Nat × Val)) : List Val × Flags :=
  let r := l.map fun p =>
    let e : Byte := if f.isScaled then chooseScale f ((l.filter fun q => f.granule q.1 == f.granule p.1).map Prod.snd) else 0x7F
    let c := encodeUnder f rm e p.2
    (decodeElem f c.1 e, c.2)
  (r.map Prod.fst, Flags.all (r.map Prod.snd))

/-- The elements `is` of an operand converted to a compute format (R97). -/
def convertTo (f : Fmt) (rm : Rm) (x : Strip) (is : List Nat) : List Val × Flags :=
  let vs := is.map x.val
  if x.tag.fmt == f then (vs, scnOf x is)
  else
    let r := roundAll f rm (is.zip vs)
    (r.1, r.2 ||| scnOf x is)

/-- The result of a polymorphic instruction at each active element: a value, or an element in the result format. -/
structure PolyOut where
  puts : List Put
  flags : Flags

/-- Rounds exact results as the lattice entry says (R97, R305). -/
def Poly.finish (p : Poly) (rm : Rm) (satm : Bool) (is : List Nat) (xs : List (Val × Flags)) : PolyOut :=
  let fl := Flags.all (xs.map Prod.snd)
  if p.cf.isInt && p.result.isInt then
    let ys := xs.map fun x => p.result.fit satm x.1.toInt
    { puts := ys.map fun y => .move y.1 0x7F, flags := fl ||| Flags.all (ys.map Prod.snd) }
  else
    let vs := xs.map fun x => if p.cf.isInt then Val.ofInt x.1.toInt else x.1
    if p.act = .demote then
      let r := roundAll p.cf rm (is.zip vs)
      { puts := r.1.map .value, flags := fl ||| r.2 }
    else { puts := vs.map .value, flags := fl }

/-- VABS or VNEG of an element of a scaled format in its own format: only the sign changes (R305). -/
def signOnly (op : VArith) (f : Fmt) (c : Word) : Word × Flags :=
  let v := f.own c.toNat
  if f.isFloat && v.isNan then (canonNan f, 0)
  else if f.isFloat then
    let bit : Word := 1#64 <<< (f.width - 1)
    (if op = .abs then c &&& ~~~bit else c ^^^ bit, 0)
  else
    roundTo f .rne (if op = .abs then v.abs else v.neg)

/-- The put at an element: the list follows the active elements. -/
def putsAt (is : List Nat) (ps : List Put) (i : Nat) : Put := (((is.zip ps).find? fun p => p.1 == i).map Prod.snd).getD .supplied

/-- The checks of a polymorphic instruction after its sources have been read (R291, R97, R408). -/
def State.polyAll (s : State) (d : VField) (m : VMods) (xs : List VSrc) (p : Poly) (ok : Fmt → Bool) : List (Bool × Stop) :=
  s.vlChecks xs ++ (if p.act = .forbidden then [] else [s.vlCheck p.result 0])
    ++ xs.map (fun x => fmtCheck x ok)
    ++ (if p.act = .forbidden then [] else [s.keepCheck d m.z (s.active m.mask) p.result])
    ++ s.countChecks xs ++ s.polyChecks p

/-- The fields of a polymorphic instruction of one, two or three operands. -/
def polyFields (n : Nat) (a b : RegF) (m : VMods) : List VField := [fieldA a m, fieldB b m, fieldC m].take n

/-- A polymorphic arithmetic instruction (R97, R305). -/
def polyArith (op : VArith) (n : Nat) (d a b : RegF) (m : VMods) (s : State) : Except Stop State := do
  let fs := polyFields n a b m
  let xs ← s.openVec fs [fieldD d m] fun xs => s.vlChecks xs ++ xs.map fun x => fmtCheck x fun f => f != Fmt.vq2
  let p := s.poly (xs.map VSrc.fmt) m.ovr
  firstOf (s.polyAll (fieldD d m) m xs p fun f => f != Fmt.vq2)
  let rm := Rm.ofCode m.rm.toNat
  let is := s.actives m.mask
  let src := (xs.headD { field := fieldA a m, strip := .initial, entry := none }).strip
  let out : PolyOut :=
    if (op = .abs ∨ op = .neg) ∧ p.result = src.tag.fmt ∧ p.result.isScaled then
      let ys := is.map fun i => (signOnly op p.result (src.code i), src.scale i)
      { puts := ys.map fun y => .move y.1.1 y.2, flags := scnOf src is ||| Flags.all (ys.map fun y => y.1.2) }
    else
      let cs := xs.zipIdx.map fun x => convertTo (if x.2 = 2 then p.cf else p.cf1) rm x.1.strip is
      let ex := (List.range is.length).map fun k => op.exact rm (cs.map fun c => c.1.getD k .zero)
      let o := p.finish rm (m.imm.getLsbD 0) is ex
      { o with flags := o.flags ||| Flags.all (cs.map Prod.snd) }
  s.writeVec (fieldD d m) m.z (s.active m.mask) (queuesOf fs)
    { fmt := p.result, blk := polyBlk xs p.result, rm := rm, ef := false, vsum := computedVsum xs is, flags := out.flags
      put := putsAt is out.puts }

/-- VEXP2, VLOG2, VRCP and VRSQ (R93, R306). -/
def polyFunc (f : Val → Val × Flags) (d a : RegF) (m : VMods) (s : State) : Except Stop State := do
  let xs ← s.openVec [fieldA a m] [fieldD d m]
  let p := s.poly (xs.map VSrc.fmt) m.ovr
  firstOf (s.polyAll (fieldD d m) m xs p fun t => t != Fmt.vq2 && !t.isInt)
  let is := s.actives m.mask
  let src := (xs.headD { field := fieldA a m, strip := .initial, entry := none }).strip
  let ys := is.map fun i =>
    let (c, fl) := rn (src.val i)
    let (r, fl2) := rnOf (f c.val)
    (r, fl ||| fl2)
  s.writeVec (fieldD d m) m.z (s.active m.mask) (queuesOf [fieldA a m])
    { fmt := p.result, blk := polyBlk xs p.result, rm := Rm.ofCode m.rm.toNat, ef := false, vsum := computedVsum xs is
      flags := scnOf src is ||| Flags.all (ys.map Prod.snd), put := putsAt is (ys.map fun y => .value y.1.val) }

/-- VADD (R305). -/
def execVadd (g : Guard) (d a b : RegF) (s : State) : Answer := settle g 4 (polyArith .add 2 d a b .short) s
/-- VADD_LONG (R305). -/
def execVaddLong (g : Guard) (d a b : RegF) (m : VMods) (s : State) : Answer := settle g 8 (polyArith .add 2 d a b m) s
/-- VSUB (R305). -/
def execVsub (g : Guard) (d a b : RegF) (s : State) : Answer := settle g 4 (polyArith .sub 2 d a b .short) s
/-- VSUB_LONG (R305). -/
def execVsubLong (g : Guard) (d a b : RegF) (m : VMods) (s : State) : Answer := settle g 8 (polyArith .sub 2 d a b m) s
/-- VMUL (R305). -/
def execVmul (g : Guard) (d a b : RegF) (s : State) : Answer := settle g 4 (polyArith .mul 2 d a b .short) s
/-- VMUL_LONG (R305). -/
def execVmulLong (g : Guard) (d a b : RegF) (m : VMods) (s : State) : Answer := settle g 8 (polyArith .mul 2 d a b m) s
/-- VMIN (R305). -/
def execVmin (g : Guard) (d a b : RegF) (s : State) : Answer := settle g 4 (polyArith .min 2 d a b .short) s
/-- VMIN_LONG (R305). -/
def execVminLong (g : Guard) (d a b : RegF) (m : VMods) (s : State) : Answer := settle g 8 (polyArith .min 2 d a b m) s
/-- VMAX (R305). -/
def execVmax (g : Guard) (d a b : RegF) (s : State) : Answer := settle g 4 (polyArith .max 2 d a b .short) s
/-- VMAX_LONG (R305). -/
def execVmaxLong (g : Guard) (d a b : RegF) (m : VMods) (s : State) : Answer := settle g 8 (polyArith .max 2 d a b m) s
/-- VABS (R305). -/
def execVabs (g : Guard) (d a : RegF) (s : State) : Answer := settle g 4 (polyArith .abs 1 d a 0 .short) s
/-- VABS_LONG (R305). -/
def execVabsLong (g : Guard) (d a : RegF) (m : VMods) (s : State) : Answer := settle g 8 (polyArith .abs 1 d a 0 m) s
/-- VNEG (R305). -/
def execVneg (g : Guard) (d a : RegF) (s : State) : Answer := settle g 4 (polyArith .neg 1 d a 0 .short) s
/-- VNEG_LONG (R305). -/
def execVnegLong (g : Guard) (d a : RegF) (m : VMods) (s : State) : Answer := settle g 8 (polyArith .neg 1 d a 0 m) s
/-- VFMA (R305). -/
def execVfma (g : Guard) (d a b : RegF) (m : VMods) (s : State) : Answer := settle g 8 (polyArith .fma 3 d a b m) s
/-- VFMS (R305). -/
def execVfms (g : Guard) (d a b : RegF) (m : VMods) (s : State) : Answer := settle g 8 (polyArith .fms 3 d a b m) s
/-- VNFMA (R305). -/
def execVnfma (g : Guard) (d a b : RegF) (m : VMods) (s : State) : Answer := settle g 8 (polyArith .nfma 3 d a b m) s

/-- VEXP2 (R306). -/
def execVexp2 (g : Guard) (d a : RegF) (s : State) : Answer := settle g 4 (polyFunc Val.exp2 d a .short) s
/-- VEXP2_LONG (R306). -/
def execVexp2Long (g : Guard) (d a : RegF) (m : VMods) (s : State) : Answer := settle g 8 (polyFunc Val.exp2 d a m) s
/-- VLOG2 (R306). -/
def execVlog2 (g : Guard) (d a : RegF) (s : State) : Answer := settle g 4 (polyFunc Val.log2 d a .short) s
/-- VLOG2_LONG (R306). -/
def execVlog2Long (g : Guard) (d a : RegF) (m : VMods) (s : State) : Answer := settle g 8 (polyFunc Val.log2 d a m) s
/-- VRCP (R306). -/
def execVrcp (g : Guard) (d a : RegF) (s : State) : Answer := settle g 4 (polyFunc Val.rcp d a .short) s
/-- VRCP_LONG (R306). -/
def execVrcpLong (g : Guard) (d a : RegF) (m : VMods) (s : State) : Answer := settle g 8 (polyFunc Val.rcp d a m) s
/-- VRSQ (R306). -/
def execVrsq (g : Guard) (d a : RegF) (s : State) : Answer := settle g 4 (polyFunc Val.rsq d a .short) s
/-- VRSQ_LONG (R306). -/
def execVrsqLong (g : Guard) (d a : RegF) (m : VMods) (s : State) : Answer := settle g 8 (polyFunc Val.rsq d a m) s

/-! ### Bitwise operations, comparison, selection and moves -/

/-- A bitwise operation on elements of one integer format or of NONE (R307): `f n x y` on n-bit codes. -/
def bitwise (f : Nat → Nat → Nat → Nat) (d a b : RegF) (m : VMods) (s : State) : Except Stop State := do
  let fs := [fieldA a m, fieldB b m]
  let xs ← s.openVec fs [fieldD d m]
  let x := (xs.headD { field := fieldA a m, strip := .initial, entry := none }).strip
  let y := ((xs.drop 1).headD { field := fieldB b m, strip := .initial, entry := none }).strip
  let t := x.tag.f
  firstOf (s.vlChecks xs ++
    [(t == y.tag.f && (t.isInt || t == Fmt.none), illegalOperand 0x06 0 2 y.tag.f.toNat), s.keepCheck (fieldD d m) m.z (s.active m.mask) t]
    ++ s.countChecks xs)
  let is := s.actives m.mask
  s.writeVec (fieldD d m) m.z (s.active m.mask) (queuesOf fs)
    { fmt := t, blk := 0, rm := Rm.ofCode m.rm.toNat, ef := false, vsum := computedVsum xs is, flags := 0
      put := fun i => .move (BitVec.ofNat 64 (f t.width ((x.code i).toNat % 2 ^ t.width) ((y.code i).toNat % 2 ^ t.width))) 0x7F }

/-- VAND (R307). -/
def execVand (g : Guard) (d a b : RegF) (s : State) : Answer := settle g 4 (bitwise (fun _ x y => x &&& y) d a b .short) s
/-- VAND_LONG (R307). -/
def execVandLong (g : Guard) (d a b : RegF) (m : VMods) (s : State) : Answer := settle g 8 (bitwise (fun _ x y => x &&& y) d a b m) s
/-- VOR (R307). -/
def execVor (g : Guard) (d a b : RegF) (s : State) : Answer := settle g 4 (bitwise (fun _ x y => x ||| y) d a b .short) s
/-- VOR_LONG (R307). -/
def execVorLong (g : Guard) (d a b : RegF) (m : VMods) (s : State) : Answer := settle g 8 (bitwise (fun _ x y => x ||| y) d a b m) s
/-- VXOR (R307). -/
def execVxor (g : Guard) (d a b : RegF) (s : State) : Answer := settle g 4 (bitwise (fun _ x y => x ^^^ y) d a b .short) s
/-- VXOR_LONG (R307). -/
def execVxorLong (g : Guard) (d a b : RegF) (m : VMods) (s : State) : Answer := settle g 8 (bitwise (fun _ x y => x ^^^ y) d a b m) s
/-- The shift left by y mod n (R307). -/
def shlElem (n x y : Nat) : Nat := (x <<< (y % n)) % 2 ^ n
/-- The logical shift right by y mod n (R307). -/
def shrElem (n x y : Nat) : Nat := x >>> (y % n)
/-- The arithmetic shift right by y mod n, the element taken as signed (R307). -/
def sraElem (n x y : Nat) : Nat := wrapCode n (toSigned n x / (2 ^ (y % n) : Int))
/-- VSHL (R307). -/
def execVshl (g : Guard) (d a b : RegF) (s : State) : Answer := settle g 4 (bitwise shlElem d a b .short) s
/-- VSHL_LONG (R307). -/
def execVshlLong (g : Guard) (d a b : RegF) (m : VMods) (s : State) : Answer := settle g 8 (bitwise shlElem d a b m) s
/-- VSHR (R307). -/
def execVshr (g : Guard) (d a b : RegF) (s : State) : Answer := settle g 4 (bitwise shrElem d a b .short) s
/-- VSHR_LONG (R307). -/
def execVshrLong (g : Guard) (d a b : RegF) (m : VMods) (s : State) : Answer := settle g 8 (bitwise shrElem d a b m) s
/-- VSRA (R307). -/
def execVsra (g : Guard) (d a b : RegF) (s : State) : Answer := settle g 4 (bitwise sraElem d a b .short) s
/-- VSRA_LONG (R307). -/
def execVsraLong (g : Guard) (d a b : RegF) (m : VMods) (s : State) : Answer := settle g 8 (bitwise sraElem d a b m) s

/-- The conditions of VCMP (R237, R308): EQ, NE, LT, LE, GT, GE, UN, ORD. -/
def vcond (c : Nat) (x y : Val) : Bool :=
  let nan := x.isNan || y.isNan
  let o := Val.cmp x y
  match c with
  | 0 => !nan && o == Ordering.eq
  | 1 => nan || o != Ordering.eq
  | 2 => !nan && o == Ordering.lt
  | 3 => !nan && o != Ordering.gt
  | 4 => !nan && o == Ordering.gt
  | 5 => !nan && o != Ordering.lt
  | 6 => nan
  | _ => !nan

/-- Writes a comparison's mask: active bits take `f`, masked-off ones are zero under Z, others keep their value (R308). -/
def State.cmpMask (s : State) (k : RegF) (z : Bool) (act f : Nat → Bool) : State :=
  if k.toNat = 31 then s
  else s.setMask k.toNat s.vl fun i => if act i then f i else !(z && s.reached i) && s.maskBit k.toNat i

/-- VCMP (R308). -/
def compareVec (d a b : RegF) (m : VMods) (s : State) : Except Stop State := do
  let fs := [fieldA a m, fieldB b m]
  let xs ← s.openVec fs []
  let x := (xs.headD { field := fieldA a m, strip := .initial, entry := none }).strip
  let y := ((xs.drop 1).headD { field := fieldB b m, strip := .initial, entry := none }).strip
  let e := s.lookup x.tag.f y.tag.f
  firstOf (s.vlChecks xs ++ s.countChecks xs ++
    [(e.act != .forbidden, pairTrap x.tag.f y.tag.f false false s.myCtx.latsel)])
  let is := s.actives m.mask
  let c := (m.imm.extractLsb' 0 4).toNat
  let res (i : Nat) : Bool := vcond c (x.val i) (y.val i)
  let nv := Flags.when (2 ≤ c && c ≤ 5 && is.any fun i => (x.val i).isNan || (y.val i).isNan) Flags.nv
  let s1 := ((s.popAll (queuesOf fs)).orFlags (nv ||| scnOf x is ||| scnOf y is)).cmpMask d m.z (s.active m.mask) res
  .ok (s1.cmpMask m.vc m.z (s.active m.mask) fun i => !res i)

/-- VCMP (R308). -/
def execVcmp (g : Guard) (d a b : RegF) (m : VMods) (s : State) : Answer := settle g 8 (compareVec d a b m) s

/-- VSEL (R309, R295). -/
def selectVec (d a b : RegF) (m : VMods) (s : State) : Except Stop State := do
  let fs := [fieldA a m, fieldB b m]
  let xs ← s.openVec fs [fieldD d m]
  let x := (xs.headD { field := fieldA a m, strip := .initial, entry := none }).strip
  let y := ((xs.drop 1).headD { field := fieldB b m, strip := .initial, entry := none }).strip
  firstOf (s.vlChecks xs ++
    [(x.tag.fmt == y.tag.fmt && x.tag.blk == y.tag.blk, illegalOperand 0x06 0 2 y.tag.f.toNat), s.keepCheck (fieldD d m) m.z (s.active m.mask) x.tag.f]
    ++ s.countChecks xs)
  let zero (t : Strip) : Bool := t.tag.vsum == vsZero || t.tag.vsum == vsVacant
  s.writeVec (fieldD d m) m.z (s.active m.mask) (queuesOf fs)
    { fmt := x.tag.f, blk := x.tag.blk.toNat, rm := Rm.ofCode m.rm.toNat, ef := false, flags := 0
      vsum := if x.tag.vsum == vsPoison || y.tag.vsum == vsPoison then vsPoison else if zero x && zero y then vsZero else vsValid
      put := fun i => if s.maskBit m.vc.toNat i then .move (x.code i) (x.scale i) else .move (y.code i) (y.scale i) }

/-- VSEL (R309). -/
def execVsel (g : Guard) (d a b : RegF) (m : VMods) (s : State) : Answer := settle g 8 (selectVec d a b m) s

/-- VMOV (R309). -/
def moveVec (d a : RegF) (m : VMods) (s : State) : Except Stop State := do
  let xs ← s.openVec [fieldA a m] [fieldD d m]
  let x := (xs.headD { field := fieldA a m, strip := .initial, entry := none }).strip
  firstOf (s.vlChecks xs ++ [s.keepCheck (fieldD d m) m.z (s.active m.mask) x.tag.f] ++ s.countChecks xs)
  s.writeVec (fieldD d m) m.z (s.active m.mask) (queuesOf [fieldA a m])
    { fmt := x.tag.f, blk := x.tag.blk.toNat, rm := Rm.ofCode m.rm.toNat, ef := false, flags := 0, vsum := x.tag.vsum
      put := fun i => .move (x.code i) (x.scale i) }

/-- VMOV (R309). -/
def execVmov (g : Guard) (d a : RegF) (s : State) : Answer := settle g 4 (moveVec d a .short) s
/-- VMOV_LONG (R309). -/
def execVmovLong (g : Guard) (d a : RegF) (m : VMods) (s : State) : Answer := settle g 8 (moveVec d a m) s

/-- The element that VSPLAT puts everywhere (R309). -/
def splatPut (f : Fmt) (a : Word) : Put :=
  if f.isReal && f != Fmt.fp64 && f != Fmt.fp32 && f != Fmt.vq2 then .value (F32.val (a.extractLsb' 0 32))
  else .move (BitVec.ofNat 64 (a.toNat % 2 ^ f.width)) 0x7F

/-- VSPLAT (R309). -/
def splatVec (d a : RegF) (m : VMods) (s : State) : Except Stop State := do
  let f : Fmt := if m.ovr = 0 then Fmt.fp32 else m.ovr
  let _ ← s.openVec [] [fieldD d m]
  firstOf [s.vlCheck f 0, s.keepCheck (fieldD d m) m.z (s.active m.mask) f]
  s.writeVec (fieldD d m) m.z (s.active m.mask) []
    { fmt := f, blk := 0, rm := Rm.ofCode m.rm.toNat, ef := false, flags := 0, vsum := vsValid, put := fun _ => splatPut f (s.readS a) }

/-- VSPLAT (R309). -/
def execVsplat (g : Guard) (d a : RegF) (s : State) : Answer := settle g 4 (splatVec d a .short) s
/-- VSPLAT_LONG (R309). -/
def execVsplatLong (g : Guard) (d a : RegF) (m : VMods) (s : State) : Answer := settle g 8 (splatVec d a m) s

/-- An element as VEXTR delivers it, with its flags (R309). -/
def extracted (x : Strip) (i : Nat) : Word × Flags :=
  let f := x.tag.f
  if f == Fmt.fp64 || f == Fmt.vq2 || f == Fmt.none then (x.code i, 0)
  else if f.isReal then
    let (c, fl) := rn (x.val i)
    (c.setWidth 64, fl ||| x.scn i)
  else if f.isSignedInt then (BitVec.ofInt 64 (toSigned f.width (x.code i).toNat), 0)
  else (x.code i, 0)

/-- VEXTR (R309). -/
def extractVec (d a b : RegF) (m : VMods) (s : State) : Except Stop State := do
  let xs ← s.openVec [fieldA a m] [] fun xs => s.vlChecks xs ++ [(m.mask == 15 && !m.z, illegalOperand 0x07 m.mask.toNat)]
  let x := (xs.headD { field := fieldA a m, strip := .initial, entry := none }).strip
  firstOf (s.vlChecks xs ++ [(m.mask == 15 && !m.z, illegalOperand 0x07 m.mask.toNat)] ++ s.countChecks xs)
  let s1 := s.popAll (queuesOf [fieldA a m])
  let i := (s.readS b).toNat
  if s.vl ≤ i then .ok ((s1.writeS d 0).orFlags Flags.xr)
  else .ok ((s1.writeS d (extracted x i).1).orFlags (extracted x i).2)

/-- VEXTR (R309). -/
def execVextr (g : Guard) (d a b : RegF) (s : State) : Answer := settle g 4 (extractVec d a b .short) s
/-- VEXTR_LONG (R309). -/
def execVextrLong (g : Guard) (d a b : RegF) (m : VMods) (s : State) : Answer := settle g 8 (extractVec d a b m) s

/-! ### Conversion and scales -/

/-- The checks of VCVT on a VQ2 source: VL counts weights (R310, R411 reason 0x08). -/
def State.weightCheck (s : State) (x : Fmt) : Bool × Stop :=
  (x != Fmt.vq2 || (s.vl % 8 == 0 && decide (s.vl / 8 ≤ s.vlmax Fmt.vq2)), illegalOperand 0x08 s.vl 1 x.toNat)

/-- VCVT (R310). -/
def convertVec (d a : RegF) (m : VMods) (s : State) : Except Stop State := do
  let f : Fmt := m.imm.extractLsb' 0 5
  let xs ← s.openVec [fieldA a m] [fieldD d m] fun _ =>
    [s.vlCheck f 0, (f != Fmt.vq2, illegalOperand 0x05 0 0 f.toNat), s.keepCheck (fieldD d m) m.z (s.active m.mask) f]
  let x := (xs.headD { field := fieldA a m, strip := .initial, entry := none }).strip
  firstOf ((if x.tag.f == Fmt.vq2 then [] else s.vlChecks xs) ++ [s.vlCheck f 0]
    ++ xs.map (fun y => fmtCheck y fun t => t != Fmt.none)
    ++ [(f != Fmt.vq2, illegalOperand 0x05 0 0 f.toNat), s.keepCheck (fieldD d m) m.z (s.active m.mask) f, s.weightCheck x.tag.f]
    ++ s.countChecks xs)
  let is := s.actives m.mask
  let vq := x.tag.f == Fmt.vq2
  let val (i : Nat) : Val :=
    if vq then
      let idx := (x.code (i / 8)).toNat
      vq2Weight (s.myCtx.codebook (idx % 256)) idx (i % 8) (x.scale (i / 8))
    else x.val i
  s.writeVec (fieldD d m) m.z (s.active m.mask) (queuesOf [fieldA a m])
    { fmt := f, blk := (m.imm.extractLsb' 5 2).toNat, rm := Rm.ofCode m.rm.toNat, ef := m.rm == 4, vsum := computedVsum xs is
      flags := scnOf x (if vq then is.map (· / 8) else is), put := fun i => .value (val i) }

/-- VCVT (R310). -/
def execVcvt (g : Guard) (d a : RegF) (m : VMods) (s : State) : Answer := settle g 8 (convertVec d a m) s

/-- VSCALE (R311). -/
def rescaleVec (d a : RegF) (m : VMods) (s : State) : Except Stop State := do
  let xs ← s.openVec [fieldA a m] [fieldD d m]
  let x := (xs.headD { field := fieldA a m, strip := .initial, entry := none }).strip
  let blk := (m.imm.extractLsb' 5 2).toNat
  let t := x.tag.f
  firstOf (s.vlChecks xs ++ xs.map (fun y => fmtCheck y fun f => f != Fmt.vq2 && (f.isScaled || blk == 0))
    ++ [s.keepCheck (fieldD d m) m.z (s.active m.mask) t] ++ s.countChecks xs)
  let is := s.actives m.mask
  s.writeVec (fieldD d m) m.z (s.active m.mask) (queuesOf [fieldA a m])
    (if t.isScaled then
      { fmt := t, blk := blk, rm := Rm.ofCode m.rm.toNat, ef := false, vsum := computedVsum xs is, flags := scnOf x is
        put := fun i => .value (x.val i) }
    else
      { fmt := t, blk := 0, rm := Rm.ofCode m.rm.toNat, ef := false, vsum := x.tag.vsum, flags := 0
        put := fun i => .move (x.code i) (x.scale i) })

/-- VSCALE (R311). -/
def execVscale (g : Guard) (d a : RegF) (s : State) : Answer := settle g 4 (rescaleVec d a .short) s
/-- VSCALE_LONG (R311). -/
def execVscaleLong (g : Guard) (d a : RegF) (m : VMods) (s : State) : Answer := settle g 8 (rescaleVec d a m) s

end Sys2Proof.Machine
end

