-- ==== Sys2Proof/Machine/QueueOps.lean ====
section
/-! DEFINITION. Scalar queue instructions (major 0x15; R271 .. R273), queue loads and stores (R265 .. R270), the A cluster's
strip length (R264) and stream bindings (R275, R277, R279). -/

namespace Sys2Proof.Machine

/-! ### Scalar queue instructions -/

/-- A push of a scalar entry (R271). -/
def pushScalar (f : Fmt) (d : RegF) (q : BitVec 4) (s : State) : Except Stop State := do
  firstOf (s.queueChecks [] [q.toNat])
  s.pushWait q.toNat [QEntry.scalar f (s.readS d)]

/-- QPUSH (R271). -/
def execQpush (g : Guard) (d : RegF) (q : BitVec 4) (s : State) : Answer := settle g 4 (pushScalar Fmt.i64 d q) s
/-- QPUSHU (R271). -/
def execQpushu (g : Guard) (d : RegF) (q : BitVec 4) (s : State) : Answer := settle g 4 (pushScalar Fmt.u64 d q) s
/-- QPUSHF (R271). -/
def execQpushf (g : Guard) (d : RegF) (q : BitVec 4) (s : State) : Answer := settle g 4 (pushScalar Fmt.fp64 d q) s

/-- QPOPS (R271): a scalar entry's value, or 0 for an entry of COUNT 0. -/
def popScalar (d : RegF) (q : BitVec 4) (s : State) : Except Stop State := do
  firstOf (s.queueChecks [q.toNat] [])
  let e ← s.headOf q.toNat
  firstOf [(e.scal || e.count == 0, countTrap q.toNat 2 e.count s.me.vl.toNat)]
  .ok ((s.popAll [q.toNat]).writeS d (if e.scal then e.strip.code 0 else 0))

/-- QPOPS (R271). -/
def execQpops (g : Guard) (d : RegF) (q : BitVec 4) (s : State) : Answer := settle g 4 (popScalar d q) s

/-- QPEEK (R271): the head's descriptor. -/
def peekQueue (d : RegF) (q : BitVec 4) (s : State) : Except Stop State := do
  firstOf (s.queueChecks [q.toNat] [])
  let e ← s.headOf q.toNat
  .ok (s.writeS d e.desc)

/-- QPEEK (R271). -/
def execQpeek (g : Guard) (d : RegF) (q : BitVec 4) (s : State) : Answer := settle g 4 (peekQueue d q) s

/-- The status word of a queue (R272). -/
def Queue.status (x : Queue) : Word :=
  BitVec.ofNat 64 (min x.free 65535 * 2 ^ 16 + (x.stream.elim false Stream.flt).toNat * 2 ^ 11
    + (x.stream.elim false Stream.exh).toNat * 2 ^ 10 + x.stream.isSome.toNat * 2 ^ 9 + x.closed.toNat * 2 ^ 8 + x.entries.length)

/-- A queue with no banks is refused, whoever uses it (R36). -/
def State.banksCheck (s : State) (q : Nat) : Bool × Stop := ((s.queue q).nb != 0, queueTrap 0x01 q)

/-- QSTAT (R272). -/
def statQueue (d : RegF) (q : BitVec 4) (s : State) : Except Stop State := do
  firstOf [s.banksCheck q.toNat]
  .ok (s.writeS d (s.queue q.toNat).status)

/-- QSTAT (R271). -/
def execQstat (g : Guard) (d : RegF) (q : BitVec 4) (s : State) : Answer := settle g 4 (statQueue d q) s

/-- QCLOSE (R271, R273). -/
def closeQueue (q : BitVec 4) (s : State) : Except Stop State := do
  firstOf [(s.pushOk q.toNat, queueTrap 0x01 q.toNat)]
  .ok (s.modQueue q.toNat fun x => { x with closed := true })

/-- QCLOSE (R271). -/
def execQclose (g : Guard) (q : BitVec 4) (s : State) : Answer := settle g 4 (closeQueue q) s

/-! ### Queue loads and stores -/

/-- SETVL (R264, R297): the executing cluster's VL. -/
def setLength (d a : RegF) (f : Fmt) (s : State) : Except Stop State :=
  let n : Word := BitVec.ofNat 64 (min (s.readS a).toNat (s.vlmax f))
  .ok ((s.modMe fun x => { x with vl := n }).writeS d n)

/-- SETVL of the A cluster (R264). -/
def execSetvlAccess (g : Guard) (d a fmt : RegF) (s : State) : Answer := settle g 4 (setLength d a fmt) s

/-- Places the entries of queue loads that have issued, in order, while there is space (R267). -/
def Queue.place : Nat → Queue → Queue
  | 0, x => x
  | n + 1, x =>
    match x.unplaced with
    | [] => x
    | e :: t =>
      if ({ x with unplaced := [] } : Queue).fits [e] then
        Queue.place n { x with entries := x.entries ++ [e], unplaced := t, requests := x.requests.tail }
      else x

/-- The entries of a queue load join the queue, each with its request (R267). -/
def Queue.issue (x : Queue) (es : List (QEntry × LoadReq)) : Queue :=
  Queue.place (x.unplaced.length + es.length)
    { x with unplaced := x.unplaced ++ es.map Prod.fst, requests := x.requests ++ es.map Prod.snd }

/-- The places of a request's elements. -/
def LoadReq.pos (r : LoadReq) (i : Nat) : Int := ((r.places[i]?).join).getD 0
/-- How the request's elements lie in memory. -/
def LoadReq.layout (r : LoadReq) : Places :=
  if !r.byPos then .stride 0 else placesFor r.contig r.pos
/-- The elements that a request reads. -/
def LoadReq.present (r : LoadReq) : List Nat := (List.range r.places.length).filter fun i => ((r.places[i]?).join).isSome
/-- The request of `n` of the elements, from `start` on. -/
def LoadReq.part (r : LoadReq) (start n : Nat) : LoadReq := { r with places := (r.places.drop start).take n }
/-- Two requests of one load, one behind the other, as one. -/
def LoadReq.join : List LoadReq → List LoadReq
  | [] => []
  | r :: t =>
    match LoadReq.join t with
    | q :: u => if q.load = r.load then { r with places := r.places ++ q.places } :: u else r :: q :: u
    | [] => [r]

/-- The rows of a request: a strided one names each element by its byte address (R265). -/
def LoadReq.rows (r : LoadReq) : List Row :=
  if r.byPos then [{ base := r.base, pl := r.layout, is := r.present, off := 0 }]
  else r.present.map fun i => { base := r.base + BitVec.ofInt 64 (r.pos i), pl := .stride 0, is := [0], off := i }

/-- The last entry of a queue, whose landing a pre-emption has cut short (R194, R267). -/
def Queue.partial? (x : Queue) : Option QEntry := x.entries.getLast?.filter fun e => !e.missing.isEmpty

/-- The entry with its missing groups taken from a load's elements, read anew (R194, R267). -/
def QEntry.complete (e : QEntry) (els : List (Nat × Got)) : QEntry × Flags :=
  let f : Fmt := e.strip.tag.fmt
  let p : Plan :=
    { fmt := f, blk := e.strip.tag.blk.toNat, rm := .rne, ef := false, old := { e.strip with elems := [], scales := [] }
      put := fun i => ((els.find? fun x => x.1 == i).map fun x => x.2.put f e.strip.tag.blk.toNat).getD .absent }
  let r := p.run e.count e.count 0
  ({ e with strip := e.strip.withGroups { e.strip with elems := r.elems, scales := copySlots f e.strip.tag.blk.toNat r.scales } e.missing
            missing := [] }, r.flags)

/-- Reads the elements of a request into queue `q` (R265 .. R268). A load that pre-emption has cut short completes its entry. -/
def queueGather (q : Nat) (r : LoadReq) : Comp Unit := do
  let s ← get
  let g ← gatherRows s.slot .read r.rows r.contig
  let t ← get
  let u := match (t.queue q).partial? with
    | some e =>
      let (e', fl) := e.complete g.filled
      (t.modQueue q fun x => { x with entries := x.entries.dropLast ++ [e'] }).orFlags fl
    | none =>
      let ds := drafts t.vlmax r.places.length g.filled Fmt.none
      let es := ds.map fun (d : Draft) => d.entry (!r.contig)
      (t.modQueue q fun x => x.issue ((es.map Prod.fst).zip (ds.map fun (d : Draft) => r.part d.start d.count))).orFlags
        (Flags.all (es.map Prod.snd))
  set (u.noteZeroed s.slot s.instrPc (BitVec.ofNat 64 s.cl.code ||| memInfo .read (g.first.elim false Xlate.host) 0 0) g.zeroed)

/-- The requests that a resumed hank makes again, in order (R194, R267). -/
def reissueLoads : List (Nat × LoadReq) → Comp Unit
  | [] => pure ()
  | (q, r) :: t => do
    queueGather q r
    update fun s => s.modMyCtx fun x => { x with reissue := t }
    reissueLoads t

/-- VLDQ and VLDSQ (R265): VL elements. -/
def queueLoad (q a : RegF) (stride : Option RegF) : Comp Unit := do
  let s ← get
  ofStop (firstOf (s.queueChecks [] [q.toNat]))
  let n := s.me.vl.toNat
  if n = 0 then pure ()
  else queueGather q.toNat (LoadReq.mk (s.readS a) stride.isNone stride.isNone
    ((List.range n).map fun (i : Nat) => some ((i : Int) * stride.elim 1 fun b => (s.readS b).toInt)) s.stepNo)

/-- VLDQ (R265). -/
def execVldq (g : Guard) (q a : RegF) (s : State) : Answer := run g 4 (queueLoad q a none) s
/-- VLDSQ (R265). -/
def execVldsq (g : Guard) (q a b : RegF) (s : State) : Answer := run g 4 (queueLoad q a (some b)) s

/-- The elements of an entry that are present. -/
def QEntry.presents (e : QEntry) : List Nat := (List.range e.count).filter fun i => SMap.get false e.present i
/-- Element `i` of an index entry (R265). -/
def QEntry.index (e : QEntry) (i : Nat) : Int := (e.strip.val i).toInt

/-- VLDXQ (R265). -/
def queueLoadIndexed (q a qi : RegF) : Comp Unit := do
  let s ← get
  ofStop (firstOf (s.queueChecks [qi.toNat] [q.toNat]))
  let e ← ofStop (s.headOf qi.toNat)
  ofStop (firstOf [(!e.scal, countTrap qi.toNat 1 e.count 0), (e.count != 0 && e.strip.tag.f.isInt, countTrap qi.toNat 3 e.count 0)])
  queueGather q.toNat (LoadReq.mk (s.readS a) true false
    ((List.range e.count).map fun i => if e.presents.contains i then some (e.index i) else none) s.stepNo)
  update fun t => t.popAll [qi.toNat]

/-- VLDXQ (R265). -/
def execVldxq (g : Guard) (q a qi : RegF) (s : State) : Answer := run g 4 (queueLoadIndexed q a qi) s

/-- The head of queue `qi` once one entry of queue `q` has been popped. -/
def State.nextHead (s : State) (q qi : Nat) : Except Stop QEntry := (if q = qi then s.popAll [q] else s).headOf qi

/-- Stores the present elements of a popped entry (R269, R270). -/
def queueScatter (base : Word) (pl : Places) (contig : Bool) (e : QEntry) (is : List Nat) : Comp Unit := do
  let s ← get
  let _ ← scatter s.slot .write base pl contig e.strip.tag.f e.strip.tag.blk.toNat 0 (is.map fun i => (i, e.strip.selem i)) 0

/-- VSTQ and VSTSQ (R269). -/
def queueStore (q a : RegF) (pl : State → Places) (contig : Bool) : Comp Unit := do
  let s ← get
  ofStop (firstOf (s.queueChecks [q.toNat] []))
  let e ← ofStop (s.headOf q.toNat)
  ofStop (firstOf [(!e.scal, countTrap q.toNat 1 e.count s.me.vl.toNat)])
  queueScatter (s.readS a) (pl s) contig e e.presents
  update fun t => t.popAll [q.toNat]

/-- VSTQ (R269). -/
def execVstq (g : Guard) (q a : RegF) (s : State) : Answer := run g 4 (queueStore q a (fun _ => .positions fun i => i) true) s
/-- VSTSQ (R269). -/
def execVstsq (g : Guard) (q a b : RegF) (s : State) : Answer :=
  run g 4 (queueStore q a (fun s => .stride (s.readS b).toInt) false) s

/-- VSTXQ (R269). -/
def queueStoreIndexed (q a qi : RegF) : Comp Unit := do
  let s ← get
  ofStop (firstOf (s.queueChecks [q.toNat, qi.toNat] []))
  let e ← ofStop (s.headOf q.toNat)
  let x ← ofStop (s.nextHead q.toNat qi.toNat)
  ofStop (firstOf [(!e.scal, countTrap q.toNat 1 e.count s.me.vl.toNat),
    (!x.scal, countTrap qi.toNat 1 x.count e.count),
    (x.count == e.count && (e.count == 0 || x.strip.tag.f.isInt), countTrap qi.toNat 3 x.count e.count)])
  queueScatter (s.readS a) (.indexed x.index) false e (e.presents.filter fun i => SMap.get false x.present i)
  update fun t => (t.popAll [q.toNat]).popAll [qi.toNat]

/-- VSTXQ (R269). -/
def execVstxq (g : Guard) (q a qi : RegF) (s : State) : Answer := run g 4 (queueStoreIndexed q a qi) s

/-! ### Stream bindings -/

/-- A stream descriptor of 64 bytes (R275). -/
def streamOf (l : List Byte) : Stream :=
  { base := BitVec.ofNat 64 (natIn l 0 8), s0 := BitVec.ofNat 64 (natIn l 8 8), s1 := BitVec.ofNat 64 (natIn l 16 8)
    s2 := BitVec.ofNat 64 (natIn l 24 8), n0 := BitVec.ofNat 32 (natIn l 32 4), n1 := BitVec.ofNat 32 (natIn l 36 4)
    n2 := BitVec.ofNat 32 (natIn l 40 4), slen := BitVec.ofNat 16 (natIn l 44 2), sflg := byteIn l 46
    ops := [byteIn l 48, byteIn l 49, byteIn l 50], parm := byteIn l 51, pk := byteIn l 52
    lo := BitVec.ofNat 32 (natIn l 56 4), hi := BitVec.ofNat 32 (natIn l 60 4), i0 := 0, i1 := 0, i2 := 0, exh := false, flt := false }

/-- KIND of an operator byte (R278). -/
def opKind (b : Byte) : Nat := (b.extractLsb' 0 3).toNat
/-- FARG of an operator byte (R278). -/
def opArg (b : Byte) : Fmt := b.extractLsb' 3 5

/-- PBLK (R275). -/
def Stream.pblk (x : Stream) : Nat := x.parm.toNat % 4

/-- One operator of a descriptor is acceptable (R277); a block code that R56 reserves is refused as R51 says. -/
def Stream.opOk (x : Stream) (b : Byte) : Bool :=
  match opKind b with
  | 0 | 2 => true
  | 1 => opArg b != Fmt.none && (opArg b).allocated && x.pblk != 3 && (x.pblk == 0 || (opArg b).isScaled)
  | 3 => opArg b == Fmt.fp32 || opArg b == Fmt.bf16 || opArg b == Fmt.fp16
  | 4 => !(F32.val x.lo).isNan && !(F32.val x.hi).isNan && Val.cmp (F32.val x.lo) (F32.val x.hi) != Ordering.gt
  | _ => false

/-- No non-zero operator follows a zero one (R277). -/
def opsPacked : List Byte → Bool
  | [] => true
  | b :: t => (opKind b != 0 || t.all fun c => opKind c == 0) && opsPacked t

/-- SBIND accepts the descriptor (R277). -/
def streamOk (l : List Byte) : Bool :=
  let x := streamOf l
  x.n0 != 0 && x.n1 != 0 && x.n2 != 0 && x.slen != 0 && decide (x.slen.toNat ≤ 32768)
    && x.sflg.toNat < 2 && byteIn l 47 == 0 && x.parm.toNat < 16 && natIn l 53 3 == 0
    && x.ops.all x.opOk && opsPacked x.ops

/-- SBIND (R275). -/
def bindStream (q a : RegF) : Comp Unit := do
  let s ← get
  let x := s.queue q.toNat
  ofStop (firstOf [s.banksCheck q.toNat,
    (x.prod == streamCode && x.stream.isNone, illegalOperand 0x10 q.toNat 4)])
  let v ← loadQuiet .read (s.readS a) 64
  let l := leBytes 64 v.1
  ofStop (firstOf [(streamOk l, illegalOperand 0x10 q.toNat 4), (x.entries.isEmpty && x.unplaced.isEmpty, .wait (.bindEmpty q.toNat))])
  noteMine v.2
  update fun t => t.modQueue q.toNat fun y => { y with closed := false, stream := some (streamOf l) }

/-- SBIND (R275). -/
def execSbind (g : Guard) (q a : RegF) (s : State) : Answer := run g 4 (bindStream q a) s

/-- SUNBIND (R279). -/
def unbindStream (q : RegF) (s : State) : Except Stop State := do
  firstOf [s.banksCheck q.toNat]
  .ok (s.modQueue q.toNat fun x => { x with stream := none })

/-- SUNBIND (R279). -/
def execSunbind (g : Guard) (q : RegF) (s : State) : Answer := settle g 4 (unbindStream q) s

end Sys2Proof.Machine
end

