-- ==== Sys2Proof/Machine/VConfig.lean ====
section
/-! DEFINITION. Configuration of the V cluster (major 0x20): vector length, register capacity, the Codebook Table, register
tags and QPOPV (R113, R297 .. R300). -/

namespace Sys2Proof.Machine

/-- SETVL (R297). -/
def execSetvl (g : Guard) (d a fmt : RegF) (s : State) : Answer := settle g 4 (setLength d a fmt) s

/-! ### Register capacity -/

/-- Banks of a spindle in CACHE mode, ascending (R108). -/
def State.cacheBanks (s : State) (slot : Nat) : List Nat := s.banksWith slot fun b => b == .cache

/-- The capacity that a request is granted (R113): at least 4 banks stay in CACHE mode (R109). -/
def State.grantedCap (s : State) (slot n : Nat) : Nat :=
  ([8, 4, 2].find? fun c =>
    decide (c ≤ n) && decide (c - (s.ctx slot).vcap ≤ (s.cacheBanks slot).length - 4)).getD 1

/-- The register file after a change of capacity (R113): elements at or above the new VLMAX are discarded. -/
def Ctx.withCap (x : Ctx) (c lanes : Nat) : Ctx :=
  let top := vlmaxOf 4 c lanes
  { x with
    vcap := c
    v := { x.v with vl := BitVec.ofNat 64 (min x.v.vl.toNat top) }
    vregs := (x.vregs.map fun p =>
      let f : Fmt := p.2.strip.tag.fmt
      let n := vlmaxOf f.width c lanes
      (p.1, { p.2 with strip := { p.2.strip with
        elems := p.2.strip.elems.filter fun e => e.1 < n
        scales := p.2.strip.scales.filter fun e => e.1 * 256 / f.width < n } })).filter fun p => p.2 != VReg.initial
    masks := (x.masks.map fun p => (p.1, p.2.filter fun e => e.1 < top)).filter fun p => !p.2.isEmpty }

/-- Takes or returns the banks of a change of capacity (R113): CACHE banks are taken in ascending number, and of those held
the lowest are kept. -/
def State.capBanks (s : State) (slot c : Nat) : State :=
  let own := s.banksWith slot fun b => b == .vreg (slot % 2)
  if own.length ≤ c - 1 then
    s.setBanks (spindleOf slot) ((s.cacheBanks slot).take (c - 1 - own.length)) (.vreg (slot % 2))
  else s.setBanks (spindleOf slot) (own.drop (c - 1)) .cache

/-- SETVCAP (R113, R297). -/
def setCapacity (d n : RegF) (s : State) : Except Stop State :=
  let c := s.grantedCap s.slot n.toNat
  let t := if c = s.myCtx.vcap then s
    else (s.capBanks s.slot c).modMyCtx fun x => x.withCap c (s.laneCount s.slot)
  .ok (t.writeS d (BitVec.ofNat 64 c))

/-- SETVCAP (R113, R297). -/
def execSetvcap (g : Guard) (d n : RegF) (s : State) : Answer := settle g 4 (setCapacity d n) s

/-! ### The Codebook Table -/

/-- Reads `k` lines of 128 bytes, raw (R68). -/
def loadLines (k : MemKind) (va : Word) : Nat → Comp (List Byte × List (Word × Nat))
  | 0 => pure ([], [])
  | n + 1 => do
    let v ← loadQuiet k va 128
    let t ← loadLines k (va + 128) n
    pure (leBytes 128 v.1 ++ t.1, v.2 ++ t.2)

/-- The 32-bit words of a list of bytes. -/
def wordsOf (n : Nat) (l : List Byte) : List (BitVec 32) := (List.range n).map fun i => BitVec.ofNat 32 (natIn l (4 * i) 4)

/-- CBTLD (R298): the table takes its new value as a whole. -/
def loadCodebook (a : RegF) : Comp Unit := do
  let s ← get
  let va := s.readS a
  let _ ← ofDeny (s.access s.slot .read va (va.toNat % 1024 == 0))
  let l ← loadLines .read va 8
  noteMine l.2
  update fun t => t.modMyCtx fun x => { x with cbt := some (wordsOf 256 l.1) }

/-- CBTLD (R298). -/
def execCbtld (g : Guard) (a : RegF) (s : State) : Answer := run g 4 (loadCodebook a) s

/-! ### Tags -/

/-- A register tag as software reads it (R63). -/
def VTag.word (t : VTag) : Word := BitVec.ofNat 64 (t.blk.toNat * 256 + t.vsum.toNat * 32 + t.fmt.toNat)

/-- A register tag from the word that VTAGW writes (R63, R299). -/
def VTag.ofWord (v : Word) : VTag := { fmt := v.extractLsb' 0 5, vsum := v.extractLsb' 5 3, blk := v.extractLsb' 8 2 }

/-- A tag value that VTAGW accepts (R299). -/
def vtagOk (v : Word) : Bool :=
  let t := VTag.ofWord v
  v.extractLsb' 10 54 == 0 && t.f.allocated && (t.vsum == vsValid || t.vsum == vsZero || t.vsum == vsPoison)
    && t.blk != 3 && (t.blk == 0 || t.f.isScaled)

/-- The code of element `i` of width `w` in the bits of a register whose elements have width `w0` (R58, R299). -/
def repackCode (old : SMap Word) (w0 w i : Nat) : Word :=
  if w ≤ w0 then BitVec.ofNat 64 ((old.get 0 (i * w / w0)).toNat / 2 ^ (i * w % w0) % 2 ^ w)
  else BitVec.ofNat 64 (((List.range (w / w0)).map fun j => (old.get 0 (i * (w / w0) + j)).toNat * 2 ^ (j * w0)).sum)

/-- The register's bits read under another width. -/
def repack (old : SMap Word) (w0 w : Nat) : SMap Word :=
  match old.getLast? with
  | none => []
  | some p => SMap.tabulate 0 (((p.1 + 1) * w0 + w - 1) / w) (repackCode old w0 w)

/-- A register's content under a new tag (R299): the bits are reinterpreted, and each block's slots become copies of its
first one. -/
def Strip.retag (x : Strip) (t : VTag) : Strip :=
  { tag := t, elems := if x.tag.f.width = t.f.width then x.elems else repack x.elems x.tag.f.width t.f.width
    scales := if t.f.isScaled then copySlots t.fmt t.blk.toNat x.scales else [] }

/-- VTAGR (R297). -/
def execVtagr (g : Guard) (d a : RegF) (s : State) : Answer := settle g 4 (fun s => .ok (s.writeS d (s.vreg a).tag.word)) s

/-- VTAGW (R299). -/
def writeVtag (d a : RegF) (s : State) : Except Stop State := do
  let v := s.readS a
  firstOf [(vtagOk v, illegalOperand 0x09 v.toNat 1 (VTag.ofWord v).fmt.toNat)]
  .ok (s.setVreg d ((s.vreg d).retag (VTag.ofWord v)))

/-- VTAGW (R299). -/
def execVtagw (g : Guard) (d a : RegF) (s : State) : Answer := settle g 4 (writeVtag d a) s

/-! ### QPOPV -/

/-- The strip that QPOPV writes (R300): absent elements and those at or above COUNT are zero. -/
def QEntry.popped (e : QEntry) : Strip :=
  { tag := { e.strip.tag with vsum := if e.strip.tag.vsum == vsVacant then vsZero else e.strip.tag.vsum }
    elems := e.strip.elems.filter fun p => p.1 < e.count && SMap.get false e.present p.1
    scales := copySlots e.strip.tag.fmt e.strip.tag.blk.toNat e.strip.scales }

/-- What QPOPV leaves in register `d` (R300): in an iteration that REELX resumes, the elements below ELEM stay (R318). -/
def State.popInto (s : State) (d : RegF) (e : QEntry) : Strip :=
  let x := e.popped
  let f : Fmt := x.tag.fmt
  if s.reelElem = 0 then x
  else
    let p : Plan :=
      { fmt := f, blk := x.tag.blk.toNat, rm := .rne, ef := false, old := s.vreg d
        put := fun i => if i < s.reelElem then .kept else if i < e.count then .move (x.code i) (x.scale i) else .absent }
    let r := p.run (s.vlmax f) (s.vlmax f) 0
    { tag := x.tag, elems := r.elems, scales := copySlots f x.tag.blk.toNat r.scales }

/-- QPOPV (R300). -/
def popVector (d q : RegF) (s : State) : Except Stop State := do
  firstOf (s.queueChecks [q.toNat] [])
  let e ← s.headOf q.toNat
  let f : Fmt := e.strip.tag.fmt
  firstOf [(!e.scal, countTrap q.toNat 1 e.count s.vl), (decide (e.count ≤ s.vlmax f), countTrap q.toNat 4 e.count s.vl)]
  let t := (s.popAll [q.toNat]).modMe fun x => { x with vl := BitVec.ofNat 64 e.count }
  .ok (if e.count = 0 then t else t.setVreg d (s.popInto d e))

/-- QPOPV (R300). -/
def execQpopv (g : Guard) (d q : RegF) (s : State) : Answer := settle g 4 (popVector d q) s

end Sys2Proof.Machine
end

