-- ==== Sys2Proof/Machine/Frame.lean ====
section
/-! DEFINITION. The save frame and its restart record (R189 .. R193, R324, R478): writing a context into a frame, and the
context that a frame holds. -/

namespace Sys2Proof.Machine

/-- Bytes of a save frame (R189). -/
def frameBytes : Nat := 16777216

/-- A section of a frame: its offset, its length and its bytes by position. -/
structure FrameSection where
  off : Nat
  len : Nat
  byte : Nat → Byte

/-- A section that holds a list of bytes. -/
def FrameSection.ofList (off : Nat) (l : List Byte) : FrameSection := { off := off, len := l.length, byte := byteIn l }

/-- A section that holds a number of `n` bytes. -/
def FrameSection.num (off n v : Nat) : FrameSection := .ofList off (leBytes n v)

/-- Byte `k` of elements of `w` bits packed from the first byte (R58, R324). -/
def packedByte (w : Nat) (elems : Nat → Word) (k : Nat) : Byte :=
  if w = 4 then BitVec.ofNat 8 ((elems (2 * k)).toNat % 16 + 16 * ((elems (2 * k + 1)).toNat % 16))
  else BitVec.ofNat 8 ((elems (k / (w / 8))).toNat / 2 ^ (8 * (k % (w / 8))))

/-- Element `i` of `w` bits of packed bytes. -/
def unpackedElem (w : Nat) (bytes : Nat → Byte) (i : Nat) : Word :=
  if w = 4 then BitVec.ofNat 64 ((bytes (i / 2)).toNat / 16 ^ (i % 2) % 16)
  else BitVec.ofNat 64 (leNat ((List.range (w / 8)).map fun j => bytes (i * (w / 8) + j)))

/-- Byte `k` of a bitmap. -/
def bitmapByte (bit : Nat → Bool) (k : Nat) : Byte :=
  BitVec.ofNat 8 ((List.range 8).map fun j => (bit (8 * k + j)).toNat * 2 ^ j).sum

/-! ### The places of queue entries (R189, R478) -/

/-- What the places of an entry depend on: a scalar entry, COUNT, and the width of its format. -/
structure EntrySize where
  scal : Bool
  count : Nat
  width : Nat

/-- The entry holds elements. -/
def EntrySize.vec (e : EntrySize) : Bool := !e.scal && e.count != 0
/-- Element groups (R36). -/
def EntrySize.groups (e : EntrySize) : Nat := if e.vec then (e.count * e.width + 2047) / 2048 else 1
/-- Bytes of its presence bitmap, its scales and its arrival bitmap (R189). -/
def EntrySize.presBytes (e : EntrySize) : Nat := if e.vec then (e.count + 63) / 64 * 8 else 0
/-- Bytes of its scales. -/
def EntrySize.scaleBytes (e : EntrySize) : Nat := if e.vec then (e.count * e.width + 255) / 256 else 0
/-- Bytes of its arrival bitmap. -/
def EntrySize.arrBytes (e : EntrySize) : Nat := if e.vec then (e.groups + 63) / 64 * 8 else 0

/-- Offsets in the frame of an entry's data, presence bitmap, scales and arrival bitmap. -/
structure EntryPlace where
  data : Nat
  pres : Nat
  scale : Nat
  arr : Nat

/-- The place behind an entry. -/
def EntryPlace.after (p : EntryPlace) (e : EntrySize) : EntryPlace :=
  { data := p.data + 256 * e.groups, pres := p.pres + e.presBytes, scale := p.scale + e.scaleBytes, arr := p.arr + e.arrBytes }

/-- The places of a queue's entries, from the first one's on, and the place behind them. -/
def placesOf (p : EntryPlace) : List EntrySize → List EntryPlace × EntryPlace
  | [] => ([], p)
  | e :: t => let (l, q) := placesOf (p.after e) t; (p :: l, q)

/-- The places of the entries of every queue from number `n` on; `data` gives the first group of each queue's banks. -/
def allPlaces (data : Nat → Nat) : Nat → EntryPlace → List (List EntrySize) → List (List EntryPlace)
  | _, _, [] => []
  | n, p, l :: t => let (ps, q) := placesOf { p with data := data n } l; ps :: allPlaces data (n + 1) q t

/-- Where the first entries stand. -/
def firstPlace : EntryPlace := { data := 0, pres := 0x920000, scale := 0xF20000, arr := 0xF60000 }

/-- The size of a held entry. -/
def QEntry.size (e : QEntry) : EntrySize := { scal := e.scal, count := e.count, width := e.strip.tag.f.width }

/-- The first group of a queue's banks among the bank images (R478). -/
def queueImage (scr first : Nat) : Nat := 0x190000 + 131072 * (scr + first)

/-! ### Writing -/

/-- A stream descriptor as SBIND read it (R275). -/
def Stream.desc (x : Stream) : List Byte :=
  leBytes 8 x.base.toNat ++ leBytes 8 x.s0.toNat ++ leBytes 8 x.s1.toNat ++ leBytes 8 x.s2.toNat ++ leBytes 4 x.n0.toNat
    ++ leBytes 4 x.n1.toNat ++ leBytes 4 x.n2.toNat ++ leBytes 2 x.slen.toNat ++ [x.sflg, 0] ++ x.ops.take 3 ++ [x.parm, x.pk, 0, 0, 0]
    ++ leBytes 4 x.lo.toNat ++ leBytes 4 x.hi.toNat

/-- CST (R191). -/
def Cluster.cst (x : Cluster) : Nat :=
  (match x.run with
    | .idle => 0
    | .running => 1
    | .waiting => 2)
    + (x.convoy.isSome || x.atConvoy).toNat * 4 + x.reel.isSome.toNat * 8 + x.firstEffect.toNat * 16 + x.g.toNat % 128 * 2 ^ 8
    + x.started.toNat * 2 ^ 16

/-- The section of cluster `c` (R191). -/
def Ctx.clusterSection (x : Ctx) (c : Cl) : FrameSection :=
  let y := x.cl c
  let own := c = .A ∨ c = .V
  .ofList (0x40 + 0x40 * c.code)
    (leBytes 8 y.pc.toNat ++ leBytes 4 y.cst ++ leBytes 4 y.efc.toNat ++ leBytes 8 (if own then y.vl.toNat else 0)
      ++ (List.range 6).flatMap (fun j => leBytes 2 (y.start.get 0 j).toNat) ++ List.replicate 28 0)

/-- The reel section (R192). -/
def Reel.sections (r : Reel) : List FrameSection :=
  [ .ofList 0x140 (r.body.flatMap fun p => leBytes 4 p.toNat), .num 0x240 8 r.rpc.toNat,
    .num 0x248 4 (r.body.length % 128 + r.pos % 128 * 2 ^ 16), .num 0x24C 4 r.trips.toNat, .num 0x250 4 r.elem.toNat,
    .num 0x254 4 (r.trips.toNat / 2 ^ 32), .num 0x258 4 (r.elem.toNat / 2 ^ 32) ]

/-- The section of queue `q` (R193). -/
def Queue.section (x : Queue) (q : Nat) : FrameSection :=
  let st := x.stream
  let idx (f : Stream → BitVec 32) : List Byte := leBytes 4 ((st.map f).getD 0).toNat
  .ofList (0x280 + 24 * q)
    (idx Stream.i0 ++ idx Stream.i1 ++ idx Stream.i2
      ++ leBytes 4 (st.isSome.toNat + x.closed.toNat * 2 + (st.elim false Stream.exh).toNat * 4 + x.entries.length % 256 * 256)
      ++ List.replicate 8 0)

/-- The sections that hold one queue entry (R189, R478). -/
def QEntry.sections (e : QEntry) (p : EntryPlace) : List FrameSection :=
  let z := e.size
  if e.scal then [{ off := p.data, len := 256, byte := byteIn (leBytes 8 (e.strip.code 0).toNat) }]
  else
    [ { off := p.data, len := 256 * z.groups
        byte := fun k =>
          if e.missing.contains (k / 256) then 0
          else if k * 8 < e.count * z.width then packedByte z.width (fun i => e.strip.code i) k else 0 },
      { off := p.pres, len := z.presBytes, byte := bitmapByte fun i => SMap.get false e.present i },
      { off := p.scale, len := z.scaleBytes, byte := fun g => e.strip.scales.get 0x7F g },
      { off := p.arr, len := z.arrBytes, byte := bitmapByte fun g => g < z.groups && !e.missing.contains g } ]

/-- The sections of the queues (R189, R193, R478). -/
def Ctx.queueSections (x : Ctx) (scr : Nat) : List FrameSection :=
  let qs := (List.range 16).map x.queue
  let ps := allPlaces (fun n => queueImage scr (x.queue n).first.toNat) 0 firstPlace (qs.map fun q => q.entries.map QEntry.size)
  (qs.zip ps).zipIdx.flatMap fun t =>
    let (q, n) := (t.1.1, t.2)
    (q.section n :: (q.entries.zipIdx.map fun e => FrameSection.num (0x1000 + 512 * n + 8 * e.2) 8 e.1.desc.toNat))
      ++ (match q.stream with
        | some st => [.ofList (0x3000 + 64 * n) st.desc]
        | none => [])
      ++ (q.entries.zip t.1.2).flatMap fun e => e.1.sections e.2

/-- Bits of one element of a tile's content (R324): FP32 in a pair. -/
def Tile.width (t : Tile) : Nat :=
  let f : Fmt := t.fmt
  if t.kind = .factor then 32 else f.width

/-- The claimed slots of a context, ascending (R324). -/
def Ctx.claimed (x : Ctx) : List Nat := (List.range 64).filter fun i => x.tiles.any fun p => p.2.held.contains i

/-- The sections of matrix name `m` (R324). -/
def Ctx.tileSections (x : Ctx) (m : Nat) : List FrameSection :=
  let t := x.tile m
  let f : Fmt := t.fmt
  let mask := (t.held.map fun i => 2 ^ i).sum
  [.ofList (0x10300 + 16 * m) (leBytes 8 t.desc.toNat ++ leBytes 8 mask)]
    ++ (if t.kind = .dense ∧ f.isScaled then
        [{ off := 0x10800 + 128 * m, len := tileSize f * f.width / 256, byte := fun g => t.scales.get 0x7F g }] else [])
    ++ t.held.zipIdx.map fun h =>
      { off := 0x40000 + 4096 * (x.claimed.findIdx (· == h.1)), len := 4096
        byte := fun k => packedByte t.width (fun i => t.elems.get 0 i) (4096 * h.2 + k) }

/-- The code of an accumulator's kind (R338). -/
def AccKind.code : AccKind → Nat
  | .free => 0 | .fp32 => 1 | .i32 => 2

/-- The sections of the accumulators (R324, R338). -/
def Ctx.accSections (x : Ctx) : List FrameSection :=
  let acc (n : Nat) : Acc := x.accs.get .initial n
  .num 0x10400 2 ((List.range 8).map fun n => (acc n).kind.code * 4 ^ n).sum
    :: (List.range 8).filterMap fun n =>
      if (acc n).kind = .free then none
      else some
        { off := 0x20000 + 16384 * n, len := 16384
          byte := packedByte 32 fun i => ((acc n).words.get 0 i).setWidth 64 }

/-- The sections of vector register `n` (R116, R189, R191). -/
def Ctx.vregSections (x : Ctx) (lanes n : Nat) : List FrameSection :=
  let r := x.vregs.get .initial n
  let st := r.strip
  let size := vlmaxOf 8 x.vcap lanes
  [ .num (0x10000 + 16 * n) 16 (((List.range (size / 256)).filter fun g => !r.missing.contains g).map fun g => 2 ^ g).sum,
    .num (0x10200 + 2 * n) 2 st.tag.word.toNat,
    { off := 0x80000 + 0x8400 * n, len := size / 32 * 33
      byte := fun k =>
        if k % 33 = 32 then st.scales.get 0x7F (k / 33) else packedByte st.tag.f.width (fun i => st.code i) (k / 33 * 32 + k % 33) } ]

/-- The words of the control registers, VL and EFC as zero (R352). -/
def State.csrSections (s : State) (slot : Nat) : List FrameSection :=
  (List.range 48).filterMap fun n =>
    if csrAllocated (BitVec.ofNat 10 n) then
      some (.num (0xC00 + 8 * n) 8 (if n = 1 ∨ n = 3 then 0 else (s.csr slot .C n).toNat))
    else none

/-- The sections of a context's frame (R189 .. R193): MISC.PROV is `prov`. -/
def State.frameSections (s : State) (slot : Nat) (prov : Bool) : List FrameSection :=
  let x := (s.ctx slot).modAll Cluster.atLoad
  let (task, wid) := x.hank.getD (0, 0)
  let lanes := s.laneCount slot
  let scr := s.scratchBanks slot
  let hdr := leBytes 8 (1 + x.prio.toNat * 2 ^ 16) ++ leBytes 8 task ++ leBytes 8 wid.toNat ++ leBytes 8 s.timeNs ++ leBytes 8 slot
    ++ leBytes 8 (x.claimed.length + prov.toNat * 2 ^ 8 + x.aged.toNat * 2 ^ 9 + x.barCount % 2 ^ 32 * 2 ^ 32)
  [.ofList 0 (hdr ++ List.replicate 976 0)] ++ Cl.all.map x.clusterSection
    ++ (x.v.reel.elim [] Reel.sections)
    ++ [{ off := 0x400, len := 1024, byte := packedByte 32 fun i => (x.codebook i).setWidth 64 }]
    ++ Cl.all.map (fun c => FrameSection.ofList (0x800 + 256 * c.code)
        ((List.range 32).flatMap fun r => leBytes 8 ((x.cl c).readS (BitVec.ofNat 5 r)).toNat))
    ++ s.csrSections slot
    ++ (List.range 8).map (fun n => { off := 0xF000 + 512 * n, len := 512, byte := bitmapByte fun i => SMap.get false (x.cb.get [] n) i })
    ++ (List.range 32).flatMap (x.vregSections lanes)
    ++ (List.range 16).flatMap x.tileSections ++ x.accSections
    ++ scr.zipIdx.map (fun b => { off := queueImage b.2 0, len := 131072, byte := fun k => s.spByte slot (b.1 * 131072 + k) })
    ++ (List.range 12).map (fun n => { off := 0xF00000 + 8192 * n, len := vlmaxOf 4 x.vcap lanes / 8
                                       byte := bitmapByte fun i => SMap.get false (x.masks.get [] n) i })
    ++ x.queueSections scr.length

/-- The tag of a line after a whole write by physical address (R476). -/
def LineTag.written (t : LineTag) : LineTag := if t.vcls == 1 || t.vcls == 2 || t.vcls == 4 then t.withClass 0 else t

/-- The whole blocks that a section touches, as a save first writes them: every line and block becomes valid, and bytes that no
section has are open (R451, R476; log entry 16). -/
def State.fillBlocks (s : State) (base : Nat) (x : FrameSection) : State :=
  if x.len = 0 then s
  else
    let lo := base + x.off
    let hi := lo + x.len
    let first := lo / 512
    let count := (hi - 1) / 512 - first + 1
    let fill := Config.frameByte s.stepNo
    { s with
      mem := SMap.setRange 0 (SMap.setRange 0 s.mem (512 * first) (lo - 512 * first) fill) hi (512 * (first + count) - hi) fill
      extPoison := s.extPoison.filter fun p => !(decide (4 * first ≤ p.1) && decide (p.1 < 4 * (first + count)))
      l1 := s.l1.filter fun p => !p.2.any fun c => decide (4 * first ≤ c.line) && decide (c.line < 4 * (first + count))
      l2 := s.l2.filter fun p => !p.2.any fun c => decide (4 * first ≤ c.line) && decide (c.line < 4 * (first + count))
      tags := SMap.setRange .wiped s.tags (4 * first) (4 * count) fun i => (s.tagAt (128 * i)).written
      blocks := SMap.setRange .initial s.blocks first count fun _ => { pm := false, wiped := false, errors := 0 } }

/-- Writes a section into blocks that `fillBlocks` has written. -/
def State.writeSection (s : State) (base : Nat) (x : FrameSection) : State :=
  { s with mem := SMap.setRange 0 s.mem (base + x.off) x.len fun a => x.byte (a - (base + x.off)) }

/-- Writes a context into the frame at a physical address (R188 step 3). -/
def State.saveFrame (s : State) (slot base : Nat) (prov : Bool) : State :=
  let xs := s.frameSections slot prov
  xs.foldl (fun t x => t.writeSection base x) (xs.foldl (fun t x => t.fillBlocks base x) s)

/-! ### Reading -/

/-- The number of `n` bytes of a frame. -/
def State.frameNum (s : State) (base off n : Nat) : Nat := s.natAt (base + off) n

/-- What a cluster at a BAR that it has counted waits for (R47, R479). -/
def Cluster.barWait (x : Cluster) : Option WaitFor :=
  x.wait.bind fun w => match w with
    | .bar n => some (.bar n)
    | _ => none

/-- A cluster as its section holds it (R191, R194): a waiting one executes its instruction again. The generation of a BAR that has
counted is not in the frame: it stays as the cluster `old` has it (R47, R479). -/
def State.frameCluster (s : State) (base : Nat) (c : Cl) (old : Cluster) : Cluster :=
  let at0 := 0x40 + 0x40 * c.code
  let cst := s.frameNum base (at0 + 8) 4
  let y : Cluster :=
    { run := if cst % 4 = 0 then .idle else .running, pc := BitVec.ofNat 64 (s.frameNum base at0 8)
      s := (SMap.tabulate 0 32 fun r => BitVec.ofNat 64 (s.frameNum base (0x800 + 256 * c.code + 8 * r) 8)).filter (fun p => p.1 != 0)
      g := BitVec.ofNat 8 (cst / 2 ^ 8 % 128)
      vl := if c = .A ∨ c = .V then BitVec.ofNat 64 (s.frameNum base (at0 + 16) 8) else 0
      efc := BitVec.ofNat 32 (s.frameNum base (at0 + 12) 4)
      wait := if cst % 4 != 0 && cst.testBit 4 then old.barWait else none, firstEffect := cst.testBit 4
      started := BitVec.ofNat 4 (cst / 2 ^ 16), start := SMap.tabulate 0 6 fun j => BitVec.ofNat 16 (s.frameNum base (at0 + 24 + 2 * j) 2)
      atConvoy := cst.testBit 2, convoy := none, reel := none, pend := []
      loadPc := none, lo := 0, hi := none, stores := [], late := false, yielded := false }
  if cst % 4 = 0 then { y with pc := 0, firstEffect := false, started := 0, start := [], atConvoy := false } else y

/-- The reel that a frame holds (R192). The length of the REEL follows from the PC that R414 gives the stopped packet. -/
def State.frameReel (s : State) (base : Nat) : Option Reel :=
  let v := 0x40 + 0x40 * Cl.V.code
  if !(s.frameNum base (v + 8) 4).testBit 3 then none
  else
    let n := s.frameNum base 0x248 4 % 128
    let pos := s.frameNum base 0x24A 2 % 128
    let rpc := s.frameNum base 0x240 8
    some
      { rpc := BitVec.ofNat 64 rpc, long := decide (s.frameNum base v 8 = rpc + 8 + 4 * pos)
        body := (List.range n).map fun i => BitVec.ofNat 32 (s.frameNum base (0x140 + 4 * i) 4), pos := pos
        trips := BitVec.ofNat 64 (s.frameNum base 0x24C 4 + s.frameNum base 0x254 4 * 2 ^ 32)
        elem := BitVec.ofNat 64 (s.frameNum base 0x250 4 + s.frameNum base 0x258 4 * 2 ^ 32) }

/-- The groups below `n` whose bit is clear in an arrival bitmap at a physical address (R116, R189). -/
def State.frameMissing (s : State) (pa n : Nat) : List Nat :=
  (List.range n).filter fun g => !(s.byteAt (pa + g / 8)).getLsbD (g % 8)

/-- A queue entry from its descriptor and its place (R65, R189, R478): groups whose arrival bit is clear are still missing, and the
entry is the one that a stopped instruction goes on with (R194, R449). -/
def State.frameEntry (s : State) (base desc : Nat) (p : EntryPlace) : QEntry :=
  let f : Fmt := BitVec.ofNat 5 desc
  let z : EntrySize := { scal := desc.testBit 34, count := desc / 2 ^ 16 % 2 ^ 17, width := f.width }
  let tag : VTag := { fmt := BitVec.ofNat 5 desc, vsum := BitVec.ofNat 3 (desc / 2 ^ 5), blk := BitVec.ofNat 2 (desc / 2 ^ 8) }
  let byte (k : Nat) : Byte := s.byteAt (base + p.data + k)
  let missing := if z.vec then s.frameMissing (base + p.arr) z.groups else []
  { scal := z.scal, eos := desc.testBit 33, count := z.count
    strip :=
      { tag := tag
        elems := if z.scal then SMap.set 0 [] 0 (BitVec.ofNat 64 (s.frameNum base p.data 8))
          else SMap.tabulate 0 z.count (unpackedElem z.width byte)
        scales := if z.scal then [] else SMap.tabulate 0x7F z.scaleBytes fun g => s.byteAt (base + p.scale + g) }
    present := if z.scal then [(0, true)]
      else SMap.tabulate false z.count fun i => (s.byteAt (base + p.pres + i / 8)).getLsbD (i % 8)
    missing := missing, inUse := !missing.isEmpty }

/-- The descriptors of the entries saved for queue `q` (R189, R193). -/
def State.frameDescs (s : State) (base q : Nat) : List Nat :=
  (List.range (min 64 (s.frameNum base (0x280 + 24 * q + 13) 1))).map fun j => s.frameNum base (0x1000 + 512 * q + 8 * j) 8

/-- The size of an entry from its descriptor. -/
def descSize (d : Nat) : EntrySize :=
  { scal := d.testBit 34, count := d / 2 ^ 16 % 2 ^ 17, width := Fmt.width (BitVec.ofNat 5 d) }

/-- QCFGq as a frame holds it. -/
def State.frameQcfg (s : State) (base q : Nat) : BitVec 16 := BitVec.ofNat 16 (s.frameNum base (0xC00 + 8 * (32 + q)) 8)

/-- The stream binding that a frame holds for queue `q` (R193). -/
def State.frameStream (s : State) (base q : Nat) : Option Stream :=
  let at0 := 0x280 + 24 * q
  let qst := s.frameNum base (at0 + 12) 4
  if !qst.testBit 0 then none
  else some
    { streamOf (s.bytesAt (base + 0x3000 + 64 * q) 64) with
      i0 := BitVec.ofNat 32 (s.frameNum base at0 4), i1 := BitVec.ofNat 32 (s.frameNum base (at0 + 4) 4)
      i2 := BitVec.ofNat 32 (s.frameNum base (at0 + 8) 4), exh := qst.testBit 2, flt := false }

/-- The queues that a frame holds, with `scr` SCRATCH bank images before the FIFO ones; entries of queue loads that still wait
for space stay as `old` has them (R267). -/
def State.frameQueues (s : State) (base scr : Nat) (old : SMap Queue) : SMap Queue :=
  let ds := (List.range 16).map (s.frameDescs base)
  let first (q : Nat) : BitVec 6 := (s.frameQcfg base q).extractLsb' 6 6
  let ps := allPlaces (fun q => queueImage scr (first q).toNat) 0 firstPlace (ds.map fun l => l.map descSize)
  SMap.tabulate .initial 16 fun q =>
    let c : Queue := Queue.configured .initial (s.frameQcfg base q)
    { c with
      closed := (s.frameNum base (0x280 + 24 * q + 12) 4).testBit 1
      entries := ((ds.getD q []).zip (ps.getD q [])).map fun p => s.frameEntry base p.1 p.2
      unplaced := (old.get .initial q).unplaced, requests := (old.get .initial q).requests, stream := s.frameStream base q }

/-- The claimed slots that a frame names, ascending (R324). -/
def State.frameClaimed (s : State) (base : Nat) : List Nat :=
  (List.range 64).filter fun i => (List.range 16).any fun m => (s.frameNum base (0x10308 + 16 * m) 8).testBit i

/-- Matrix name `m` as a frame holds it (R322, R324). -/
def State.frameTile (s : State) (base m : Nat) : Tile :=
  let d := s.frameNum base (0x10300 + 16 * m) 8
  let mask := s.frameNum base (0x10308 + 16 * m) 8
  let held := (List.range 64).filter mask.testBit
  let claimed := s.frameClaimed base
  let kind : TileKind := match d / 2 ^ 16 % 4 with
    | 1 => .dense
    | 2 => .factor
    | _ => .unbound
  let f : Fmt := BitVec.ofNat 5 d
  let rank := if kind = .factor then d / 2 ^ 7 % 128 else 0
  let w := if kind = .factor then 32 else f.width
  let count := match kind with
    | .unbound => 0
    | .dense => tileSize f
    | .factor => 128 * rank
  let byte (k : Nat) : Byte := match held[k / 4096]? with
    | some h => s.byteAt (base + 0x40000 + 4096 * (claimed.findIdx (· == h)) + k % 4096)
    | none => 0
  { kind := kind, elas := d.testBit 23, ncl := d / 2 ^ 18 % 32, rank := rank, fmt := if kind = .dense then BitVec.ofNat 5 d else 0
    held := held, elems := SMap.tabulate 0 count (unpackedElem w byte)
    scales := if kind = .dense ∧ f.isScaled then
        SMap.tabulate 0x7F (tileSize f * f.width / 256) fun g => s.byteAt (base + 0x10800 + 128 * m + g) else [] }

/-- Accumulator `n` as a frame holds it (R324, R338). -/
def State.frameAcc (s : State) (base n : Nat) : Acc :=
  match s.frameNum base 0x10400 2 / 4 ^ n % 4 with
  | 1 => { kind := .fp32, words := words }
  | 2 => { kind := .i32, words := words }
  | _ => .initial
where
  /-- Its words. -/
  words : SMap (BitVec 32) := SMap.tabulate 0 4096 fun i => BitVec.ofNat 32 (s.frameNum base (0x20000 + 16384 * n + 4 * i) 4)

/-- Vector register `n` as a frame holds it (R116, R189). -/
def State.frameVreg (s : State) (base size n : Nat) : VReg :=
  let tag := VTag.ofWord (BitVec.ofNat 64 (s.frameNum base (0x10200 + 2 * n) 2))
  let at0 := base + 0x80000 + 0x8400 * n
  let w := tag.f.width
  { strip :=
      { tag := tag, elems := SMap.tabulate 0 (size * 8 / w) (unpackedElem w fun k => s.byteAt (at0 + k / 32 * 33 + k % 32))
        scales := SMap.tabulate 0x7F (size / 32) fun g => s.byteAt (at0 + 33 * g + 32) }
    missing := s.frameMissing (base + 0x10000 + 16 * n) (size / 256) }

/-- The Codebook Table that a frame holds (R189). -/
def State.frameCbt (s : State) (base : Nat) : Option (List (BitVec 32)) :=
  let l := wordsOf 256 (s.bytesAt (base + 0x400) 1024)
  if l = (List.range 256).map (codebookEntry none) then none else some l

/-- VCAP as a frame holds it: one of the capacities of R113. -/
def State.frameVcap (s : State) (base : Nat) : Nat :=
  let n := s.frameNum base (0xC00 + 16) 8
  if n = 2 ∨ n = 4 ∨ n = 8 then n else 1

/-- Bit `b` of a bank mask in a frame (R112): register 12 SCRMSK, 13 FIFOMSK. -/
def State.frameBanks (s : State) (base csr : Nat) : List Nat := (List.range 64).filter (s.frameNum base (0xC00 + 8 * csr) 8).testBit

/-- The context that a frame holds, in a slot with `lanes` working lane groups; what no frame holds stays as `old` has it. -/
def State.frameCtx (s : State) (base lanes : Nat) (old : Ctx) : Ctx :=
  let csr (n : Nat) : Nat := s.frameNum base (0xC00 + 8 * n) 8
  let vcap := s.frameVcap base
  let bank : BitVec 12 := BitVec.ofNat 12 (csr 11)
  { old with
    c := s.frameCluster base .C old.c, a := s.frameCluster base .A old.a
    v := { s.frameCluster base .V old.v with reel := s.frameReel base }, m := s.frameCluster base .M old.m
    wid := SMap.tabulate 0 6 fun j => BitVec.ofNat 64 (csr (16 + j)), hord := BitVec.ofNat 56 (csr 9 / 256), mord := BitVec.ofNat 7 (csr 9)
    prio := BitVec.ofNat 3 (csr 8), aged := (csr 8).testBit 3, flags := BitVec.ofNat 10 (csr 0), vcap := vcap
    tol := BitVec.ofNat 33 (csr 4), rkcap := BitVec.ofNat 7 (csr 5), latsel := BitVec.ofNat 2 (csr 6), pzr := BitVec.ofNat 2 (csr 7)
    bankNo := bank.extractLsb' 0 6, bankMode := bank.extractLsb' 8 2, bankStat := bank.extractLsb' 10 2
    vregs := SMap.tabulate .initial 32 (s.frameVreg base (vlmaxOf 8 vcap lanes))
    masks := SMap.tabulate [] 12 fun n => SMap.tabulate false (vlmaxOf 4 vcap lanes) fun i =>
      (s.byteAt (base + 0xF00000 + 8192 * n + i / 8)).getLsbD (i % 8)
    cbt := s.frameCbt base
    queues := s.frameQueues base (s.frameBanks base 12).length old.queues
    cb := SMap.tabulate [] 8 fun n => SMap.tabulate false 4096 fun i => (s.byteAt (base + 0xF000 + 512 * n + i / 8)).getLsbD (i % 8)
    tiles := SMap.tabulate .unbound 16 (s.frameTile base), accs := SMap.tabulate .initial 8 (s.frameAcc base)
    barCount := s.frameNum base 0x2C 4 }

/-- The scratchpad contents that a frame holds, for the SCRATCH banks of a slot (R189). -/
def State.restoreScratch (s : State) (slot base : Nat) : State :=
  (s.frameBanks base 12).zipIdx.foldl (fun t b =>
    let k0 := spKey slot (b.1 * 131072)
    if s.bank (spindleOf slot) b.1 = .scratch (slot % 2) then
      { t with spm := SMap.setRange 0 t.spm k0 131072 fun k => s.byteAt (base + queueImage b.2 0 + (k - k0)) }
    else t) s

/-- The VREG banks of a slot. -/
def State.vregBanks (s : State) (slot : Nat) : List Nat := s.banksWith slot fun b => b == .vreg (slot % 2)

/-- Gives CACHE banks among those listed to a slot, while 4 CACHE banks stay (R109). -/
def State.grantBanks (s : State) (slot : Nat) (l : List Nat) (m : Bank) : State :=
  let free := s.cacheBanks slot
  s.setBanks (spindleOf slot) ((l.filter free.contains).take (free.length - 4)) m

/-- Gives a slot the banks that a frame names: SCRATCH and FIFO banks by number, and VREG banks for its VCAP, the listed ones first;
banks of the other context stay with it, and 4 banks stay in CACHE mode (R109, R112, R113, R194). -/
def State.takeFrameBanks (s : State) (slot base : Nat) (vregs : List Nat) : State :=
  let s1 := s.freeBanks slot
  let s2 := s1.grantBanks slot (s.frameBanks base 12) (.scratch (slot % 2))
  let s3 := s2.grantBanks slot (s.frameBanks base 13) (.fifo (slot % 2))
  let free := s3.cacheBanks slot
  s3.grantBanks slot ((vregs.filter free.contains ++ free.filter fun b => !vregs.contains b).take (s.frameVcap base - 1)) (.vreg (slot % 2))

/-- Replaces the state of the context in a slot by a frame's (R194, R358); `vregs` are the numbers of its VREG banks. -/
def State.loadFrame (s : State) (slot base : Nat) (vregs : List Nat) : State :=
  let s1 := s.takeFrameBanks slot base vregs
  (s1.modCtx slot (s.frameCtx base (s.laneCount slot))).restoreScratch slot base

/-- A queue that a frame marks bound has the stream unit as its producer, and a descriptor that R277 accepts (R358). -/
def State.frameStreamsOk (s : State) (base : Nat) : Bool :=
  (List.range 16).all fun q =>
    (s.frameStream base q).isNone
      || ((s.frameQcfg base q).extractLsb' 0 3 == streamCode && streamOk (s.bytesAt (base + 0x3000 + 64 * q) 64))

/-- Lines that cannot be read in the sections that a restore reads (R451); uncorrectable blocks have become POISON. -/
def State.frameBad (s : State) (base : Nat) (secs : List FrameSection) : Bool :=
  s.tags.any fun p => p.2.vcls == 4
    && secs.any fun x => decide ((base + x.off) / 128 ≤ p.1) && decide (p.1 * 128 < base + x.off + x.len)

/-- A line of the sections stands in TRANSIT or is owned by the host: the access to the frame waits (R70, R427). -/
def State.frameWait (s : State) (base : Nat) (secs : List FrameSection) : Option WaitFor :=
  let hit (line : Nat) : Bool :=
    secs.any fun x => x.len != 0 && decide ((base + x.off) / 128 ≤ line) && decide (line * 128 < base + x.off + x.len)
  match s.hostOwned.find? fun p => p.2 && hit p.1 with
  | some p => some (.host (p.1 * 128) 0 (p.1 * 128) 1)
  | none => if !(s.region base).tagged then none
    else (s.tags.find? fun p => p.2.vcls == 3 && hit p.1).map fun p => .transit (p.1 * 128)

/-- The blocks of the sections that hold an uncorrectable error (R451). -/
def State.frameErrors (s : State) (base : Nat) (secs : List FrameSection) : List Nat :=
  (s.blocks.filter fun p => decide (19 < p.2.errors)
    && secs.any fun x => x.len != 0 && decide ((base + x.off) / 512 ≤ p.1) && decide (p.1 * 512 < base + x.off + x.len)).map Prod.fst

/-- Reads every block of a frame that holds bit errors (R72). -/
def State.scrubFrame (s : State) (base : Nat) : State :=
  s.blocks.foldl (fun t p => if base ≤ p.1 * 512 ∧ p.1 * 512 < base + frameBytes then t.scrub (p.1 * 512) else t) s

end Sys2Proof.Machine
end

