-- ==== Sys2Proof/Machine/Shapes.lean ====
section
/-! DEFINITION. The acts that follow the learning of a shape: confirmation and trim (R157, R210 .. R214, R445). -/

namespace Sys2Proof.Machine

/-- Where a held line goes at its confirmation: nowhere when the translation in force refuses it, and not yet while the
access would wait (R436) or the line stands in TRANSIT (R70). -/
inductive Landing where
  | at_ (x : Xlate)
  | refused
  | later (w : WaitFor)

/-- The landing of a held line, by way of TLB `u`. -/
def State.landing (s : State) (u : TlbUnit) (e : PlbEntry) : Landing :=
  match s.xlate u e.asd false .write (BitVec.ofNat 64 e.va) with
  | .error { stop := .wait w, .. } => .later w
  | .error _ => .refused
  | .ok x => match s.asdReach e.asd x with
    | .error { stop := .wait w, .. } => .later w
    | .error _ => .refused
    | .ok _ => if (s.pageLine x).tag.cls x.typed x.par.w == .transit then .later (.transit x.pa) else .at_ x

/-- The TLB through which a hank's held lines are written. -/
def Hank.unit (h : Hank) : TlbUnit := match h.slot with
  | some k => unitOf k
  | none => .bobbin h.bobbin

/-- Writes a held line once, merged into the line as it stands (R157). -/
def State.landLine (h : Hank) (s : State) (e : PlbEntry) : State :=
  match s.landing h.unit e with
  | .at_ x =>
    let t := s.touch [x]
    let l := (t.pageLine x).merge x.par x.typed e
    let u := match h.slot with
      | some k => t.writeLine k x l
      | none => (t.putPageLine x l).recall (x.pa / 128)
    (u.useXlate { x with walked := false }).wakeLine x.pa
  | _ => s

/-- The held lines of a hank (R207), by bobbin and then in the order of their first stores. -/
def State.heldLines (s : State) (h : Hank) : List PlbEntry :=
  (List.range 8).flatMap fun b => (s.plb.get [] b).filter fun e => e.task == h.task && e.wid == h.wid

/-- The held class 4 error of a list (R445). -/
def fatalOf (l : List Held) : Option Rec :=
  l.findSome? fun x => match x with
    | .fatal r => some r
    | .record _ => none


/-- What a hank's context holds back (R445). -/
def State.heldOf (s : State) (h : Hank) : List Held :=
  match h.slot with
  | some k => (s.ctx k).held
  | none => h.held

/-- The PROV bit of a suspended hank's save frame is cleared (R190, R210). -/
def State.clearProv (s : State) (h : Hank) : State :=
  match h.slot, h.frame with
  | none, some f => s.physWrite 0x630 (f + 0x29) [s.byteAt (f + 0x29) &&& 0xFE]
  | _, _ => s

/-- Confirms a hank (R210): its held lines are written, the entries freed, the held records written, and its waiting actions
proceed. With a held class 4 error the lines are discarded, and the error proceeds (R445). Regions that a fault has ended count now
(R211, R442). -/
def State.confirm (s : State) (h : Hank) : State :=
  let held := s.heldOf h
  let s1 := match fatalOf held with
    | some _ => s
    | none => (s.heldLines h).foldl (State.landLine h) s
  let s2 := ((s1.dropHeld h.task h.wid).clearProv h).modHank h.task h.wid fun h => { h with prov := false, held := [], stgabn := 0 }
  let s3 := match h.slot with
    | some k => s2.modCtx k fun x => { x with provisional := false, held := [] }
    | none => s2
  let s4 := ((s3.reportAll (recordsOf held)).countAbandoned h.bobbin h.stgabn).modCreel fun c => { c with spconf := c.spconf + 1 }
  let s5 := s4.wakeAll fun w => w == some .provisional || w == some .plbSpace
  match h.slot, fatalOf held with
  | some k, some r => s5.terminate k r
  | none, some r => s5.failHank h r
  | _, _ => s5

/-- Trims a hank (R211): cancelled before it is bound, squashed after. -/
def State.trim (s : State) (h : Hank) : State :=
  (if h.state.early then s.cancel h else s.squash h).wakeAll fun w => w == some .plbSpace

/-- The hank lies at or above the learnt extent of descriptor `d` (R210). -/
def Task.trims (t : Task) (d : Nat) (h : Hank) : Bool :=
  match t.body.shape d, t.learntOf d with
  | some x, some te => h.task == t.pa && decide (te ≤ t.body.field h.ord x.level)
  | _, _ => false

/-- The hank becomes firm, so that it is confirmed (R204, R210). -/
def Task.confirms (t : Task) (h : Hank) : Bool := h.task == t.pa && h.prov && t.firm h.ord

/-- The wait that keeps a hank from being confirmed: one of its held lines cannot be written yet. -/
def State.confirmWait (s : State) (h : Hank) : Option WaitFor :=
  if (fatalOf (s.heldOf h)).isSome then none
  else (s.heldLines h).findSome? fun e => match s.landing h.unit e with
    | .later w => some w
    | _ => none

/-- Confirms a hank unless one of its held lines has to wait. -/
def State.tryConfirm (s : State) (h : Hank) : State :=
  match s.confirmWait h with
  | some w => s.agentHolds h.unit w
  | none => s.confirm h

/-- SHAPE_LEARN (R210): the Task Front acts on a task's hanks after a post has settled descriptor `d`. A hank that has to wait holds
back no other one; while one waits, the acts are not yet done. -/
def State.actOnShape (s : State) (pa d : Nat) : State :=
  match s.findTask pa with
  | none => s
  | some t =>
    if t.toAct.get false d then
      let due (h : Hank) : Bool := t.confirms h && !t.trims d h
      let s1 := (s.hanks.filter due).foldl State.tryConfirm s
      let s2 := (s1.hanks.filter (t.trims d)).foldl State.trim s1
      let s3 := if s2.hanks.any due then s2 else s2.modTask pa fun x => { x with toAct := x.toAct.set false d false }
      (s3.releaseIfDone pa).checkTask pa
    else s

/-- SHAPE_LEARN (R210). -/
def execShapeLearn (task d : Nat) (s : State) : Answer := .next (s.actOnShape task d)

end Sys2Proof.Machine
end

