-- ==== Sys2Proof/Machine/Staging.lean ====
section
/-! DEFINITION. The Carding Unit: staging copies, their order and what a failing line does (R154, R177 .. R181, R441, R442). -/

namespace Sys2Proof.Machine

/-- Nothing of region `i` is left to stage: it has ended, has landed in full but for cancelled lines, or is a SCRATCH region that copies
nothing and is reserved. -/
def Hank.stagedRegion (h : Hank) (r : Region) (i : Nat) : Bool :=
  h.ended.get false i || (if r.tgt = 1 ∧ r.acc = 1 then h.slot.isSome else (h.linesLeft r i).isEmpty)

/-- Region `i` has landed for R180: nothing is left, or lines of it have been cancelled (R426, R436). -/
def Hank.landedRegion (h : Hank) (r : Region) (i : Nat) : Bool := h.stagedRegion r i || h.dropped.any fun d => d.1 == i

/-- The region stands at a fault that the context is to raise (R441). -/
def Hank.atFault (h : Hank) (i : Nat) : Bool := h.stageFault.any fun f => f.1 == i

/-- The next line of region `i` to be staged. -/
def Hank.stageNext (h : Hank) (r : Region) (i : Nat) : Nat := (h.linesLeft r i).headD r.lines

/-- The address of the next line of region `i` (R169). -/
def Hank.stageVa (h : Hank) (r : Region) (i : Nat) : Word := h.lineVa r (h.stageNext r i)

/-- A state in which staging goes on (R180). -/
def HankState.stages : HankState → Bool
  | .admitted | .reserved | .ready | .running => true
  | _ => false

/-- A request to stage region `i` of a hank stands (R177, R179, R206, R441). -/
def State.stageRequest (s : State) (h : Hank) (r : Region) (i : Nat) : Bool :=
  h.state.stages && !h.stagedRegion r i && (h.slot.all fun k => (s.ctx k).dying.isNone)
    && (match r.tgt with
      | 0 => true
      | 1 => h.slot.isSome && h.stageFault.isNone
      | _ => !h.prov)

/-- The read of a staging copy's next line: an agent's read (R154, R441). -/
def State.stageRead (s : State) (t : Task) (h : Hank) (r : Region) (i : Nat) : AgentRead Nat :=
  agentRead (asdLoad (.bobbin h.bobbin) t.body.asd h.prov (h.stageVa r i) 128) s

/-- The page that the Carding Unit is moving at an address of an address space. -/
def State.moveAt (s : State) (asd va : Nat) : Option PageMove :=
  s.moves.find? fun m => m.asd == asd && m.va ≤ va && va < m.va + m.size

/-- The move in progress of the page that holds the next line of a PROMOTE region. -/
def State.regionMove (s : State) (t : Task) (h : Hank) (r : Region) (i : Nat) : Option PageMove :=
  if r.tgt = 2 then s.moveAt t.body.asd (h.stageVa r i).toNat else none

/-- The request does not wait for a cause that the hardware resolves (R441). -/
def State.stageMoves (s : State) (t : Task) (h : Hank) (r : Region) (i : Nat) : Bool :=
  match s.regionMove t h r i, s.stageRead t h r i with
  | none, .wait .. => false
  | _, _ => true

/-- The keys of R178: class, SPRI, admission order, region index. -/
def Hank.stageKey (h : Hank) (r : Region) (i : Nat) : List Nat := [7 - h.cls, 7 - r.spri, h.seq, i]

/-- The requests of a bobbin that may be served, with their keys. -/
def State.stageRequests (s : State) (b : Nat) : List (List Nat) :=
  s.hanks.flatMap fun h =>
    if h.bobbin ≠ b then []
    else match s.findTask h.task with
      | none => []
      | some t => t.body.regions.zipIdx.filterMap fun r =>
        if s.stageRequest h r.1 r.2 && s.stageMoves t h r.1 r.2 then some (h.stageKey r.1 r.2) else none

/-- The record of a staging fault in a SCRATCH region (R439). -/
def State.stageRec (s : State) (slot cls : Nat) (cause : BitVec 32) (f : Nat × Nat × BitVec 32) : Rec :=
  s.ctxRec slot cls cause (s.ctx slot).c.pc (BitVec.ofNat 64 f.2.1) (causeAt f.1 f.2.2.toNat)

/-- A bound context raises the staging fault of its hank (R441). -/
def State.raiseStageFault (s : State) (slot : Nat) : State :=
  match s.hankAt slot with
  | none => s
  | some h =>
    match h.stageFault with
    | none => s
    | some f => s.takeEvent slot (s.stageRec slot 2 0x0200 f) (.staging f.1)

/-- A class 4 cause in a SCRATCH region (R441): the hank fails under cause 0x0201. -/
def State.failStaging (s : State) (h : Hank) (f : Nat × Nat × BitVec 32) : State :=
  let r : Rec :=
    { ts := s.timeNs, src := 0x600 + h.bobbin, cls := 4, cause := 0x0201, task := h.task, hwid := h.wid, pc := 0
      addr := BitVec.ofNat 64 f.2.1, info := causeAt f.1 f.2.2.toNat }
  match h.slot with
  | some k => if h.state = .running then s.terminate k r else (s.freeSlot k).failHank h r
  | none => s.failHank h r

/-- What a failing line does (R441, R442). -/
def State.stageFails (s : State) (h : Hank) (r : Region) (i : Nat) (cause : BitVec 32) (fatal : Bool) (addr : Word) : State :=
  if r.tgt = 1 then
    if fatal then s.failStaging h (i, addr.toNat, cause)
    else
      let s1 := s.modHank h.task h.wid fun h => { h with stageFault := some (i, addr.toNat, cause) }
      match h.slot, h.state with
      | some k, .running => s1.raiseStageFault k
      | _, _ => s1
  else
    let s1 := s.modHank h.task h.wid fun h => { h with ended := h.ended.set false i true }
    -- a squashed or cancelled hank leaves nothing in the counter (R211): a provisional hank's count waits for its confirmation
    if h.prov then s1.modHank h.task h.wid fun h => { h with stgabn := h.stgabn + 1 } else s1.countAbandoned h.bobbin 1

/-- One line lands (R177): a SCRATCH line in the context's banks at SOFF, where the bank is still its own (R181). -/
def State.stageLand (s : State) (h : Hank) (r : Region) (i : Nat) (v : Nat) : State :=
  let n := h.stageNext r i
  let s1 := s.modHank h.task h.wid fun h => { h with landed := h.landed.set 0 i (n + 1) }
  let s2 := { s1 with staging := s1.staging.modify .initial h.bobbin fun x => { x with moved := x.moved + 128 } }
  match r.tgt, h.slot with
  | 1, some k =>
    let banks := s2.banksWith k fun b => b == .scratch (k % 2)
    let o := (r.soff + n) * 128
    if o / 131072 < banks.length then s2.setSp k (scratchAddr banks o) (leBytes 128 v) else s2
  | _, _ => s2

/-! ### Pages that move to HBM4 -/

/-- The page of a PROMOTE region's next line, where it lies in the second tier (R177). A page that shares its frame stays (log entry
45). -/
def State.promotable (s : State) (t : Task) (h : Hank) (r : Region) (i : Nat) : Option Xlate :=
  if r.tgt ≠ 2 then none
  else match s.asdAccess (.bobbin h.bobbin) t.body.asd h.prov (h.stageVa r i) 128 with
    | .error _ => none
    | .ok x => match s.region x.raw with
      | .tier _ => if x.host || x.entry.folded then none else some x
      | _ => none

/-- A move begins (R120, R177): MIG is set in the leaf, accesses already translated are performed, and the translations go. It waits
while no free frame offers itself or the leaf's line is not free. -/
def State.beginMove (s : State) (h : Hank) (x : Xlate) : State :=
  let dst := Config.promoteFrame s.stepNo
  let size := x.entry.size
  if dst % size ≠ 0 ∨ s.region dst ≠ .hbm ∨ s.region (dst + size - 1) ≠ .hbm ∨ s.physHeld x.entry.leaf then s
  else
    let s1 := (s.ctxs.map Prod.fst).foldl State.performAll s
    let s2 := (s1.setLeafBits x.entry.leaf 0x80).forgetLeaf x.entry.leaf
    { s2 with moves := s2.moves ++
        [{ hank := some (h.task, h.wid), factor := 1, pslot := 0, asd := x.entry.asd, va := x.entry.va, size := size, leaf := x.entry.leaf
           src := x.entry.pa, dst := dst, next := 0 }] }

/-- A move ends (R120, R133): the leaf names the new frame, with MIG clear, where supervisor code has not changed it meanwhile. -/
def State.endMove (s : State) (m : PageMove) : State :=
  let slot := if m.factor ≤ 1 then s.natAt m.leaf 8 / 2 ^ 52 % 4 else 0
  let s1 := if s.leafMoving m then s.writeLeaf (if m.hank.isSome then 0x600 else 0x610) m.leaf m.dst slot else s
  State.forgetLeaf { s1 with moves := s1.moves.filter (· != m) } m.leaf

/-- One line of a page moves with its tag and class (R156, R177, R441), once neither place is in TRANSIT or owned by the host; the last
line ends the move. A page behind a link that is down stays in the second tier, with MIG cleared (R441). -/
def State.moveLine (s : State) (bobbin : Option Nat) (m : PageMove) : State :=
  let a := m.src + 128 * m.next
  let b := m.dst + 128 * m.next
  if !s.linked a then s.abortMoves fun y => y == m
  else if s.physHeld a ∨ s.physHeld b then s
  else
    let s1 := s.scrub a
    let l := s1.lineAt a
    let s2 := (s1.putLine b (if m.factor ≤ 1 then l else l.plied m.factor m.pslot)).recall (b / 128)
    let s3 := match bobbin with
      | some k => { s2 with staging := s2.staging.modify .initial k fun x => { x with moved := x.moved + 128 } }
      | none => s2
    let m' := { m with next := m.next + 1 }
    let s4 := { s3 with moves := s3.moves.map fun y => if y = m then m' else y }
    if m'.size ≤ 128 * m'.next then s4.endMove m' else s4

/-- One line of a request, when it is the request to be served (R178). -/
def State.stageLine (s : State) (task : Nat) (wid : Word) (i : Nat) : State :=
  match s.findHank task wid, s.findTask task with
  | some h, some t =>
    match t.body.regions[i]? with
    | none => s
    | some r =>
      if s.stageRequest h r i && (s.stageRequests h.bobbin).all fun k => !decide (k < h.stageKey r i) then
        match s.regionMove t h r i with
        | some m => s.moveLine (some h.bobbin) m
        | none => match s.stageRead t h r i with
          | .wait w _ => s.agentHolds (.bobbin h.bobbin) w
          | .cause c fatal a u => u.stageFails h r i c fatal a
          | .value v u => match u.promotable t h r i with
            | some x => u.beginMove h x
            | none => u.stageLand h r i v
      else s
  | _, _ => s

/-- Up to `n` lines of a request. -/
def stageLines (task : Nat) (wid : Word) (i : Nat) : Nat → State → State
  | 0, s => s
  | n + 1, s => stageLines task wid i n (s.stageLine task wid i)

/-- STAGING_COPY (R177). -/
def execStagingCopy (task : Nat) (wid : Word) (region lines : Nat) (s : State) : Answer :=
  .next (stageLines task wid region lines s)

/-- Every REQ region has landed; one that stands at a fault does not keep the hank (R180, R441). -/
def Hank.staged (h : Hank) (rs : List Region) : Bool :=
  rs.zipIdx.all fun r => !r.1.req || h.landedRegion r.1 r.2 || h.atFault r.2

/-- STAGING_LANDED (R180): the hank becomes READY. -/
def State.becomeReady (s : State) (task : Nat) (wid : Word) : State :=
  match s.findHank task wid, s.findTask task with
  | some h, some t =>
    if (h.state = .admitted ∨ h.state = .reserved) ∧ h.staged t.body.regions then
      s.modHank task wid fun h => { h with state := .ready }
    else s
  | _, _ => s

/-- STAGING_LANDED (R180). -/
def execStagingLanded (task : Nat) (wid : Word) (s : State) : Answer := .next (s.becomeReady task wid)

/-- STAGING_WINDOW (R178): a new window begins, and nothing is carried into it. -/
def execStagingWindow (bobbin : Nat) (s : State) : Answer :=
  .next { s with staging := s.staging.modify .initial bobbin fun x => { x with moved := 0 } }

end Sys2Proof.Machine
end

