-- ==== Sys2Proof/Machine/Dispatcher.lean ====
section
/-! DEFINITION. The dispatcher: slots and banks (R109, R110, R179, R182), binding and the initial context (R28, R40, R183), the
order of binding (R46, R49, R194), and the end of a hank (R29, R209). -/

namespace Sys2Proof.Machine

/-! ### Places -/

/-- What a hank needs of a spindle (R182, R194): CACHE banks, tile slots, and bank numbers that are its own again. -/
structure Demand where
  banks : Nat
  tosq : Nat
  own : List Nat

/-- The demand of a hank that has not been bound (R182). -/
def TaskRec.demand (t : TaskRec) : Demand := { banks := t.nscr + t.nfifo, tosq := t.tosq, own := [] }

/-- The context slots of a spindle that are free. -/
def State.freeSlots (s : State) (sp : Nat) : List Nat := [2 * sp, 2 * sp + 1].filter fun k => (s.ctx k).hank.isNone

/-- The free slot of a spindle that a demand may take (R182, R194). -/
def State.slotOn (s : State) (d : Demand) (sp : Nat) : Option Nat :=
  match s.freeSlots sp with
  | [] => none
  | k :: _ =>
    if d.banks + 4 ≤ (s.cacheBanks k).length ∧ d.tosq + (s.ctx (otherSlot k)).tosq ≤ 64 ∧ d.own.all (fun b => s.bank sp b == .cache)
    then some k else none

/-- The thermal score of a spindle (R182). -/
def State.spindleScore (s : State) (sp : Nat) : Int :=
  ((s.creel.tallow.get Creel.tallowReset sp).toNat : Int) - 64 * (2 - (s.freeSlots sp).length : Nat)

/-- The slot with the best score among the spindles of a bobbin, the lower number on ties (R182). -/
def State.pickSlot (s : State) (b : Nat) (d : Demand) : Option Nat :=
  (List.range' (60 * b) 60).foldl (fun best sp =>
    match s.slotOn d sp, best with
    | none, _ => best
    | some k, none => some k
    | some k, some k0 => if s.spindleScore (spindleOf k0) < s.spindleScore sp then some k else best) none

/-- A slot is taken for a hank, with its SCRATCH banks and then its FIFO banks from the lowest CACHE banks (R182). -/
def State.takeSlot (s : State) (t : Task) (h : Hank) (k : Nat) : State :=
  let l := s.cacheBanks k
  let sp := spindleOf k
  let s1 := (s.setBanks sp (l.take t.body.nscr) (.scratch (k % 2))).setBanks sp ((l.drop t.body.nscr).take t.body.nfifo) (.fifo (k % 2))
  let x : Ctx :=
    { Ctx.free with hank := some (h.task, h.wid), asd := t.body.asd, tosq := t.body.tosq, provisional := h.prov }
  (s1.setCtx k x).modHank h.task h.wid fun h => { h with slot := some k }

/-- The task of a hank, with its demand. -/
def State.demandOf (s : State) (h : Hank) : Option (Task × Demand) := (s.findTask h.task).map fun t => (t, t.body.demand)

/-- Takes a slot for every hank of a skein that has none, or fails (R28). -/
def State.placeAll (s : State) (b : Nat) : List Hank → Option State
  | [] => some s
  | h :: l =>
    if h.slot.isSome then s.placeAll b l
    else match s.demandOf h with
      | none => none
      | some (t, d) =>
        match s.pickSlot b d with
        | none => none
        | some k => (s.takeSlot t h k).placeAll b l

/-- The whole skein of a hank stands in one state. -/
def State.skeinIn (s : State) (h : Hank) (st : HankState) : Bool := (s.skeinOf h).all fun m => m.state == st

/-- The effective class of a hank's skein. -/
def State.skeinClass (s : State) (h : Hank) : Nat := ((s.skeinOf h).map Hank.cls).foldl max 0

/-! ### Reserving -/

/-- SLOT_RESERVE (R179). -/
def State.reserve (s : State) (task : Nat) (wid : Word) : State :=
  match s.findHank task wid with
  | none => s
  | some h =>
    match s.demandOf h with
    | none => s
    | some (t, d) =>
      if h.state = .admitted ∧ s.unparked h.bobbin ∧ t.body.regions.any (fun r => r.tgt == 1) then
        match s.pickSlot h.bobbin d with
        | none => s
        | some k => (s.takeSlot t h k).modHank task wid fun h => { h with state := .reserved }
      else s

/-- SLOT_RESERVE (R179). -/
def execSlotReserve (task : Nat) (wid : Word) (s : State) : Answer := .next (s.reserve task wid)

/-! ### The order of binding -/

/-- The bank numbers that the context of a suspended hank owned (R194). -/
def State.frameOwn (s : State) (h : Hank) (f : Nat) : List Nat := s.frameBanks f 12 ++ s.frameBanks f 13 ++ h.vregBanks

/-- The demand of a suspended hank (R182, R194): the banks that it owned, and those of its record. -/
def State.resumeDemand (s : State) (t : Task) (h : Hank) : Demand :=
  match h.frame with
  | none => t.body.demand
  | some f =>
    let own := s.frameOwn h f
    { banks := max (t.body.nscr + t.body.nfifo) own.length, tosq := t.body.tosq, own := own }

/-- A slot is taken for a suspended hank, before its frame is restored. -/
def State.claimSlot (s : State) (t : Task) (h : Hank) (k : Nat) : State :=
  let own : List Nat := (h.frame.map (s.frameOwn h)).getD []
  let x : Ctx := { Ctx.free with hank := some (h.task, h.wid), asd := t.body.asd, tosq := t.body.tosq }
  ((s.setBanks (spindleOf k) own (.scratch (k % 2))).setCtx k x).modHank h.task h.wid fun h => { h with slot := some k }

/-- Takes a slot for every hank of a suspended skein, or fails (R194). -/
def State.placeSuspended (s : State) (b : Nat) : List Hank → Option State
  | [] => some s
  | h :: l =>
    match s.findTask h.task with
    | none => none
    | some t =>
      match s.pickSlot b (s.resumeDemand t h) with
      | none => none
      | some k => (s.claimSlot t h k).placeSuspended b l

/-- The Provisional Line Buffer of a bobbin has room for the lines that a skein holds elsewhere (R208). -/
def State.plbRoom (s : State) (b : Nat) (hs : List Hank) : Bool :=
  let mine (e : PlbEntry) : Bool := hs.any fun h => e.task == h.task && e.wid == h.wid
  let away := ((List.range 8).filter (· != b)).flatMap fun c => (s.plb.get [] c).filter mine
  away.isEmpty || decide (away.length + (s.plb.get [] b).length ≤ plbSize)

/-- A bobbin has room under R175 and MAXADM for a suspended skein (R176, R194): in its own bobbin it holds its charge already (log
entry 28). -/
def State.resumeRoom (s : State) (t : Task) (hs : List Hank) (b : Nat) : Bool :=
  decide (s.countHanks b (fun h => h.state.admittedOnly) + hs.length ≤ ((s.stgbud b).extractLsb' 16 8).toNat)
    && ((hs.all fun h => h.bobbin == b) || s.charged b == 0 || decide (s.charged b + s.newCharge t b hs.length ≤ s.l2Budget b))

/-- The bobbin in which a suspended skein resumes (R176, R194, R208). -/
def State.resumeBobbin (s : State) (h : Hank) : Option Nat :=
  match s.findTask h.task with
  | none => none
  | some t =>
    let hs := s.skeinOf h
    leastLoad (((List.range 8).filter fun b =>
      s.unparked b && (s.pinMask t.body.site).getLsbD b && s.resumeRoom t hs b && s.plbRoom b hs
        && (s.placeSuspended b hs).isSome).map fun b =>
        (b, s.countHanks b Hank.load))

/-- The hank belongs to the skein. -/
def Hank.inSkein (h : Hank) (hs : List Hank) : Bool := hs.any fun m => m.task == h.task && m.wid == h.wid

/-- A READY skein that can be bound. -/
def State.bindable (s : State) (h : Hank) : Bool := s.skeinIn h .ready && (s.placeAll h.bobbin (s.skeinOf h)).isSome

/-- Another hank has the first call on the slots of bobbin `b` over the skein `hs` of class `c`, READY or SUSPENDED (R48, R49,
R187, R194): one for which victims were taken, one of a higher class, and among equal classes a suspended one, the one
pre-empted earlier first. -/
def State.outbid (s : State) (b : Nat) (hs : List Hank) (c : Nat) (since : Option Nat) : Bool :=
  s.hanks.any fun y =>
    !y.inSkein hs
      && (if y.state = .ready then
            decide (y.bobbin = b) && (y.claim || decide (c < s.skeinClass y)) && s.bindable y
          else if y.state = .suspended then
            s.skeinIn y .suspended
              && (decide (c < s.skeinClass y) || (decide (c = s.skeinClass y) && since.all fun n => decide (y.suspendedAt < n)))
              && s.resumeBobbin y == some b
          else false)

/-- The hanks of a task are dispatched in ascending order, and those of one launch queue begin in queue order (R46). -/
def State.inOrder (s : State) (t : Task) (h : Hank) : Bool :=
  (s.hanks.all fun y => !(y.task == h.task && y.state.early && decide (y.ord < h.ord)) || y.inSkein (s.skeinOf h))
    && (s.tasks.takeWhile fun u => u.pa != t.pa).all fun u => u.queue != t.queue || u.dispatched || u.failed || u.done

/-! ### Binding -/

/-- A cluster at dispatch: PARAM in s1, the hank WID in s2, running from its entry point where it has one (R183). -/
def Cluster.entry (param wid code : Word) (off : Nat) : Cluster :=
  let x : Cluster := { Cluster.initial with s := SMap.set 0 (SMap.set 0 [] 1 param) 2 wid }
  if off = 0 then x else { x with run := .running, pc := code + BitVec.ofNat 64 off }

/-- A queue as its seed configures it (R167). -/
def Queue.seeded (s : BitVec 16) : Queue :=
  { Queue.initial with prod := s.extractLsb' 0 3, cons := s.extractLsb' 3 3, first := s.extractLsb' 6 6, nb := s.extractLsb' 12 4 }

/-- The initial context (R26, R40, R183). -/
def Ctx.dispatched (x : Ctx) (t : TaskRec) (h : Hank) : Ctx :=
  let cl (c : Cl) : Cluster := Cluster.entry t.param h.wid t.code (t.entry.get 0 c.code)
  { x with
    c := cl .C, a := cl .A, v := cl .V, m := cl .M
    wid := SMap.tabulate 0 6 fun j => BitVec.ofNat 64 (t.field h.ord j)
    hord := BitVec.ofNat 56 h.ord, mord := BitVec.ofNat 7 h.member, prio := BitVec.ofNat 3 h.cls, provisional := h.prov
    queues := SMap.tabulate .initial 16 fun n => Queue.seeded (t.qseed.get 0 n) }

/-- The dispatcher's read of the Codebook Table for the context in a slot (R183, R441): it waits, raises cause 0x0202, or fails
the hank under cause 0x0203. -/
def State.readCodebook (s : State) (slot : Nat) : State :=
  match s.hankAt slot with
  | none => s
  | some h =>
    match s.findTask h.task with
    | none => s
    | some t =>
      match agentRead (asdPieces (.bobbin h.bobbin) t.body.asd h.prov 128 8 (BitVec.ofNat 64 t.body.cbtp)) s with
      | .wait w u => (u.agentHolds (.bobbin h.bobbin) w).modCtx slot fun x => { x with cbtPending := true }
      | .value l u =>
        let ws := wordsOf 256 l
        u.modCtx slot fun x =>
          { x with cbtPending := false, cbt := if ws = (List.range 256).map (codebookEntry none) then none else some ws }
      | .cause c fatal a u =>
        let v := u.modCtx slot fun x => { x with cbtPending := false }
        if fatal then v.terminate slot (v.ctxRec slot 4 0x0203 (v.ctx slot).c.pc a (causeAt 0 c.toNat))
        else v.takeEvent slot (v.ctxRec slot 2 0x0202 (v.ctx slot).c.pc a (causeAt 0 c.toNat)) .codebook

/-- Binds one READY hank that holds a slot (R183, R441). -/
def State.bind (s : State) (m : Hank) : State :=
  match s.findHank m.task m.wid, s.findTask m.task with
  | some h, some t =>
    match h.slot with
    | none => s
    | some k =>
      let s1 := (s.modCtx k fun x => x.dispatched t.body h).modHank h.task h.wid fun h =>
        { h with state := .running, resumedAt := s.timeNs, dispSeq := s.dispNo, claim := false }
      let s2 := { s1 with dispNo := s1.dispNo + 1 }.raiseStageFault k
      let s3 := if t.body.cbtp = 0 then s2 else s2.readCodebook k
      s3.endingIfIdle k
  | _, _ => s

/-- HANK_DISPATCH (R28, R46, R182, R183): binds the READY hank or skein as one act. For a hank that is bound and whose Codebook
Table has still to be read, the dispatcher reads it. -/
def State.dispatch (s : State) (task : Nat) (wid : Word) : State :=
  match s.findHank task wid, s.findTask task with
  | some h, some t =>
    match h.state, h.slot with
    | .running, some k => if (s.ctx k).cbtPending ∧ (s.ctx k).event = none then (s.readCodebook k).endingIfIdle k else s
    | .ready, _ =>
      let hs := s.skeinOf h
      if s.skeinIn h .ready && s.unparked h.bobbin && s.inOrder t h && (h.claim || !s.outbid h.bobbin hs (s.skeinClass h) none) then
        match s.placeAll h.bobbin hs with
        | none => s
        | some s1 => (hs.foldl State.bind s1).modTask task fun x => { x with dispatched := true }
      else s
    | _, _ => s
  | _, _ => s

/-- HANK_DISPATCH (R183). -/
def execHankDispatch (task : Nat) (wid : Word) (s : State) : Answer := .next (s.dispatch task wid)

/-! ### The end of a hank -/

/-- HANK_END (R29, R209): the hank whose clusters are idle and whose stores and copies are performed leaves its slot. -/
def State.endHank (s : State) (slot : Nat) : State :=
  match s.hankAt slot with
  | none => s
  | some h =>
    let x := s.ctx slot
    if h.state = .ending ∧ !x.provisional ∧ x.event.isNone ∧ x.waiting.isEmpty ∧ x.dying.isNone ∧ (x.cq.all fun p => p.2.isEmpty)
    then ((s.freeSlot slot).dropHank h).checkTask h.task
    else s

/-- HANK_END (R29). -/
def execHankEnd (slot : Nat) (s : State) : Answer := .next (s.endHank slot)

end Sys2Proof.Machine
end

