-- ==== Sys2Proof/Machine/Streams.lean ====
section
/-! DEFINITION. The stream units: the pattern, the operators and the refill (R152, R268, R276 .. R279, R434, R453). -/

namespace Sys2Proof.Machine

/-! ### Operators -/

/-- An entry between operators, and its elements that stem from zero-substituted lines (R64, R429). -/
structure StripPart where
  e : QEntry
  bad : List Nat

/-- The summary of `n` elements from `start` on (R64, R268). -/
def StripPart.vsum (p : StripPart) (start n : Nat) : BitVec 3 :=
  if p.e.strip.tag.vsum != vsPoison then p.e.strip.tag.vsum
  else if p.bad.any fun i => start ≤ i && i < start + n then vsPoison else vsValid

/-- Elements `start .. start + n − 1` of an entry as an entry of their own, with their own summary (R268). -/
def QEntry.slice (e : QEntry) (vsum : BitVec 3) (start n : Nat) : QEntry :=
  let f : Fmt := e.strip.tag.fmt
  let g0 := f.granule start
  { e with
    count := n
    strip := { tag := { e.strip.tag with vsum := vsum }
               elems := SMap.tabulate 0 n fun i => e.strip.code (start + i)
               scales := SMap.tabulate 0x7F (n * f.width / 256 + 1) fun g => e.strip.scales.get 0x7F (g0 + g) }
    present := SMap.tabulate false n fun i => SMap.get false e.present (start + i) }

/-- Cuts an entry into entries of at most `room` elements (R268 case 2). -/
def StripPart.pieces (p : StripPart) (room : Nat) : List StripPart :=
  if p.e.count ≤ room ∨ room = 0 then [p]
  else (List.range ((p.e.count + room - 1) / room)).map fun j =>
    let n := min room (p.e.count - j * room)
    { e := p.e.slice (p.vsum (j * room) n) (j * room) n
      bad := (p.bad.filter fun i => j * room ≤ i && i < j * room + n).map fun i => i - j * room }

/-- The smallest integer not below, or with `up` false the largest not above, a value (R278). -/
def Val.toWhole (up : Bool) (v : Val) : Val :=
  match v with
  | .fin neg m e =>
    if 0 ≤ e then v
    else
      let d := 2 ^ e.natAbs
      .fin neg (if neg != up then (m + d - 1) / d else m / d) 0
  | v => v

/-- The clamp of one value (R278). -/
def clampVal (lo hi v : Val) : Val :=
  if v.isNan then .nan
  else
    let a := if Val.cmp v lo == Ordering.lt then lo else v
    if Val.cmp hi a == Ordering.lt then hi else a

/-- An entry formed anew from values in format `f` (R87, R278). -/
def QEntry.reform (e : QEntry) (f : Fmt) (blk : Nat) (rm : Rm) (n : Nat) (put : Nat → Put) : QEntry × Flags :=
  let tag : VTag :=
    { fmt := f, vsum := if e.strip.tag.vsum == vsPoison then vsPoison else vsValid, blk := if f.isScaled then BitVec.ofNat 2 blk else 0 }
  let p : Plan :=
    { fmt := f, blk := tag.blk.toNat, rm := rm, ef := false, old := { tag := { tag with vsum := 0 }, elems := [], scales := [] }
      put := fun i => if i < n then put i else .absent }
  let r := p.run n n 0
  (QEntry.vector { tag := tag, elems := r.elems, scales := copySlots f tag.blk.toNat r.scales } n fun _ => true, r.flags)

/-- Decoding the elements of an entry raises SCN (R54). -/
def QEntry.scn (e : QEntry) : Flags := Flags.all ((List.range e.count).map e.strip.scn)

/-- The value of an element that an operator needs; of format NONE a free value (log entry 13). -/
def QEntry.opVal (e : QEntry) (i : Nat) : Val :=
  if (e.strip.tag.fmt : Fmt) == Fmt.none then F32.val (Config.noneValue (e.strip.code i).toNat) else e.strip.val i

/-- What SCALE and CLAMP put at an element: the new value, or of format NONE a free code (log entry 13). -/
def QEntry.opPut (e : QEntry) (i : Nat) (v : Val) : Put :=
  if (e.strip.tag.fmt : Fmt) == Fmt.none then .move (BitVec.ofNat 64 ((Config.noneValue (e.strip.code i).toNat).toNat % 256)) 0x7F
  else .value v

/-- CVT (R278); it never meets format NONE (R475). -/
def Stream.convert (x : Stream) (f : Fmt) (e : QEntry) : QEntry × Flags :=
  let (y, fl) := e.reform f x.pblk (Rm.ofCode (x.parm.toNat / 4 % 4)) e.count fun i => .value (e.opVal i)
  (y, fl ||| e.scn)

/-- SCALE (R278): a block keeps its elements where its new scale lies in 0 .. 254. An operator decodes, so that a block of scale 0xFF
raises SCN (R54). -/
def Stream.scaleBy (x : Stream) (e : QEntry) : QEntry × Flags :=
  let f : Fmt := e.strip.tag.fmt
  let k := x.pk.toInt
  let (y, fl) := e.reform f e.strip.tag.blk.toNat .rne e.count fun i =>
    let c := e.strip.scale i
    let c' : Int := c.toNat + k
    if f.isScaled then
      if c = 0xFF then .move (e.strip.code i) 0xFF
      else if 0 ≤ c' ∧ c' ≤ 254 then .move (e.strip.code i) (BitVec.ofInt 8 c')
      else .value (Val.scale k (e.strip.val i))
    else e.opPut i (Val.scale k (e.strip.val i))
  (y, fl ||| e.scn)

/-- VQ2D (R60, R278). -/
def Ctx.dequant (x : Ctx) (f : Fmt) (e : QEntry) : QEntry × Flags :=
  if (e.strip.tag.fmt : Fmt) == Fmt.vq2 then
    let (y, fl) := e.reform f 0 .rne (8 * e.count) fun i =>
      let idx := (e.strip.code (i / 8)).toNat
      .value (vq2Weight (x.codebook (idx % 256)) idx (i % 8) (e.strip.scale (i / 8)))
    (y, fl ||| e.scn)
  else (e, 0)

/-- CLAMP (R278); in an integer format between whole bounds. -/
def Stream.clamp (x : Stream) (e : QEntry) : QEntry × Flags :=
  let f : Fmt := e.strip.tag.fmt
  let lo := F32.val x.lo
  let hi := F32.val x.hi
  let (l, h) := if f.isInt then (Val.toWhole true lo, Val.toWhole false hi) else (lo, hi)
  let (y, fl) := e.reform f e.strip.tag.blk.toNat .rne e.count fun i => e.opPut i (clampVal l h (e.strip.val i))
  (y, fl ||| e.scn)

/-- One operator on one entry; the result is split again where it is too long, and a VQ2 entry before VQ2D (R278). -/
def Stream.operate (x : Stream) (c : Ctx) (room : Fmt → Nat) (b : Byte) (p : StripPart) : List (StripPart × Flags) :=
  let cut (q : StripPart) (fl : Flags) : List (StripPart × Flags) :=
    (q.pieces (room q.e.strip.tag.fmt)).zipIdx.map fun r => (r.1, if r.2 = 0 then fl else 0)
  let one (r : QEntry × Flags) : List (StripPart × Flags) := cut { p with e := r.1 } r.2
  match opKind b with
  | 1 => one (x.convert (opArg b) p.e)
  | 2 => one (x.scaleBy p.e)
  | 3 =>
    if (p.e.strip.tag.fmt : Fmt) == Fmt.vq2 then (p.pieces (room (opArg b) / 8)).flatMap fun q =>
      let r := c.dequant (opArg b) q.e
      cut { e := r.1, bad := q.bad.flatMap fun i => List.range' (8 * i) 8 } r.2
    else [(p, 0)]
  | 4 => one (x.clamp p.e)
  | _ => [(p, 0)]

/-- The whole chain on the entries of a strip: the entries that it yields, and the flags raised. -/
def Stream.chain (x : Stream) (c : Ctx) (room : Fmt → Nat) (l : List (StripPart × Flags)) : List (StripPart × Flags) :=
  x.ops.foldl (fun l b => l.flatMap fun p =>
    match x.operate c room b p.1 with
    | [] => []
    | q :: t => (q.1, p.2 ||| q.2) :: t) l

/-- Operators meet an entry of format NONE with a conversion (R475); the formats that the operators before it give are followed. -/
def convertsNone : List Byte → Fmt → Bool
  | [], _ => false
  | b :: l, f =>
    if opKind b == 1 then (f == Fmt.none) != (opArg b == Fmt.none) || convertsNone l (opArg b)
    else if opKind b == 3 && f == Fmt.vq2 then convertsNone l (opArg b)
    else convertsNone l f

/-- The VQ2D operator that takes a strip's VQ2 entries as they were read (R278). -/
def readVq2d : List Byte → Option Fmt
  | [] => none
  | b :: l => if opKind b == 3 then some (opArg b) else if opKind b == 1 then none else readVq2d l

/-- Greatest count of an entry of a strip as it is read: of VQ2 entries that feed VQ2D a part (R268, R278). -/
def Stream.readRoom (x : Stream) (room : Fmt → Nat) (f : Fmt) : Nat :=
  match readVq2d x.ops with
  | some g => if f == Fmt.vq2 then min (room f) (room g / 8) else room f
  | none => room f

/-! ### Refills -/

/-- The first element of the next strip (R276). -/
def Stream.va (x : Stream) : Word :=
  x.base + x.i0.setWidth 64 * x.s0 + x.i1.setWidth 64 * x.s1 + x.i2.setWidth 64 * x.s2

/-- The elements of the next strip (R276). -/
def Stream.strip (x : Stream) : Nat := min x.slen.toNat (x.n0.toNat - x.i0.toNat)

/-- The pattern after a strip of `n` elements (R276). -/
def Stream.after (x : Stream) (n : Nat) : Stream :=
  if x.i0.toNat + n < x.n0.toNat then { x with i0 := x.i0 + BitVec.ofNat 32 n }
  else if x.i1.toNat + 1 < x.n1.toNat then { x with i0 := 0, i1 := x.i1 + 1 }
  else if x.i2.toNat + 1 < x.n2.toNat then { x with i0 := 0, i1 := 0, i2 := x.i2 + 1 }
  else { x with i0 := 0, i1 := 0, i2 := x.n2, exh := true }

/-- A fence in force keeps the unit from its next strip (R151). -/
def Ctx.fenced (x : Ctx) (q : Nat) : Bool := x.fences.any fun f => f.qs.getLsbD q && !f.owed.getLsbD q

/-- The strip that a fence waited for is done (R151, R434). -/
def Ctx.payFences (x : Ctx) (q : Nat) : Ctx :=
  { x with fences := x.fences.map fun f => { f with owed := f.owed &&& ~~~(1#16 <<< q) } }

/-- The unit may work: its hank is RUNNING and its queue bound, without a fault (R29, R188, R279). -/
def State.streamReady (s : State) (slot q : Nat) : Option Stream :=
  let c := s.ctx slot
  if s.enginesRun slot && c.dying.isNone && (s.hankAt slot).any (fun h => h.state == .running) && !c.fenced q then
    match (c.queues.get .initial q).stream with
    | some x => if x.flt then none else some x
    | none => none
  else none

/-- Greatest count of an entry in the context of a slot (R268 case 2). -/
def State.roomOf (s : State) (slot : Nat) (f : Fmt) : Nat := vlmaxOf f.width (s.ctx slot).vcap (s.laneCount slot)

/-- The strip is read as VLDQ reads: S0 is the step between element positions of its page (R265, R276). -/
def State.stripContig (s : State) (slot q : Nat) (x : Stream) : Bool :=
  match s.access slot (.engine true q false) x.va true with
  | .ok y => x.s0.toNat * 8 == y.step
  | .error _ => false

/-- Pushes the end-of-stream entry and closes the queue where there is space (R276). -/
def Queue.finishStream (y : Queue) (x : Stream) : Queue :=
  if x.exh && x.sflg.getLsbD 0 && !y.closed && y.fits [QEntry.endOfStream] then
    { y with entries := y.entries ++ [QEntry.endOfStream], closed := true }
  else y

/-- The consumer cluster of a queue (R453). -/
def Queue.consumer (y : Queue) : Cl := Cl.ofCode (y.cons.toNat - 1)

/-- A stream unit stops at its strip and raises an event (R279, R401). -/
def State.streamEvent (s : State) (q slot : Nat) (r : Rec) : State :=
  (s.modCtx slot fun y => y.modQueue q fun z => { z with stream := z.stream.map fun st => { st with flt := true } }).takeEvent slot r
    (.stream q)

/-- A refill meets a failure (R279, R401, R453). -/
def State.streamStops (s : State) (slot q : Nat) (x : Stop) : State :=
  let c := ((s.ctx slot).queues.get .initial q).consumer
  let pc := ((s.ctx slot).cl c).pc
  match x with
  | .wait w => s.agentHolds (unitOf slot) w
  | .trap cause a i => s.streamEvent q slot (s.ctxRec slot 1 cause pc a (i ||| BitVec.ofNat 64 c.code))
  | .fault cause a i => s.streamEvent q slot (s.ctxRec slot 2 cause pc a (i ||| BitVec.ofNat 64 c.code))
  | .fatal cause a i => s.terminate slot (s.ctxRec slot 4 cause pc a (i ||| BitVec.ofNat 64 c.code))

/-- The entries of a strip as it has been read (R268, R276). -/
def State.stripDrafts (s : State) (slot : Nat) (x : Stream) (g : Gathered) : List Draft :=
  drafts (x.readRoom (s.roomOf slot)) x.strip g.filled Fmt.none

/-- The entries of a strip that has been read, through the operators (R268, R276, R278). -/
def State.stripEntries (s : State) (slot : Nat) (x : Stream) (contig : Bool) (ds : List Draft) : List (QEntry × Flags) :=
  (x.chain (s.ctx slot) (s.roomOf slot) (ds.map fun d =>
    let r := d.entry (!contig)
    ({ e := r.1, bad := (d.els.filter fun p => p.2.poison).map Prod.fst }, r.2))).map fun p => (p.1.e, p.2)

/-- The strip's entries are pushed, with their flags; the pattern goes on (R276). -/
def State.pushStrip (s : State) (slot q : Nat) (x : Stream) (g : Gathered) (es : List (QEntry × Flags)) : State :=
  let y := (s.ctx slot).queues.get .initial q
  if y.fits (es.map Prod.fst) then
    let x' := x.after x.strip
    let t := s.modCtx slot fun c =>
      { (c.modQueue q fun z =>
          Queue.finishStream { z with entries := z.entries ++ es.map Prod.fst, stream := some x' } x').payFences q with
        flags := c.flags ||| Flags.all (es.map Prod.snd) }
    t.noteZeroed slot ((t.ctx slot).cl y.consumer).pc
      (BitVec.ofNat 64 y.consumer.code ||| memInfo (.engine true q false) (g.first.elim false Xlate.host) 0 0) g.zeroed
  else s

/-- STREAM_REFILL (R276): the next strip is read and pushed while the queue has space; after the last one the end of the stream
follows where the descriptor asks for it. -/
def State.refill (s : State) (slot q : Nat) : State :=
  match s.streamReady slot q with
  | none => s
  | some x =>
    if x.exh then s.modCtx slot fun c => c.modQueue q fun z => z.finishStream x
    else if ((s.ctx slot).queues.get .initial q).free = 0 then s
    else
      let contig := s.stripContig slot q x
      let places : Places := if contig then .positions fun i => i else .stride x.s0.toInt
      match ((gather slot (.engine true q false) x.va places contig (List.range x.strip)).run.run s : Except Stop Gathered × State) with
      | (.error e, t) => t.streamStops slot q e
      | (.ok g, t) =>
        let ds := t.stripDrafts slot x g
        if ds.any fun d => convertsNone x.ops d.fmt then t.streamStops slot q (illegalOperand 0x06)
        else t.pushStrip slot q x g (t.stripEntries slot x contig ds)

/-- STREAM_REFILL (R276). -/
def execStreamRefill (slot q : Nat) (s : State) : Answer := .next (s.refill slot q)

end Sys2Proof.Machine
end

