-- ==== Sys2Proof/Machine/Supervisor.lean ====
section
/-! DEFINITION. The privileged instructions of the supervisor cores (major 0x1F; R96, R358 .. R360, R401, R402, R436). -/

namespace Sys2Proof.Machine

/-- The number of the executing supervisor core; 0 where a cluster executes, which no legal encoding does (R235). -/
def State.coreNo (s : State) : Nat :=
  match s.cur with
  | .sup n => n
  | .cluster .. => 0

/-- The executing core. -/
def State.myCore (s : State) : SupCore := s.core s.coreNo

/-- A supervisor target refused (R411 reason 0x12). -/
def targetTrap : Stop := illegalOperand 0x12

/-- A meaning of major 0x1F: on a cluster the encoding is illegal, reason 8 (R235, R411). -/
def privileged (g : Guard) (f : State → Answer) (s : State) : Answer :=
  if s.isSup then onGuard g 4 s f else .next (s.halt (illegalEncoding 8 0))

/-- `n` bytes by physical address, read one by one (R401, R476). -/
def supBytes (a : Word) : Nat → Comp (List Byte)
  | 0 => pure []
  | n + 1 => do
    let v ← supLoad .read a 1
    let t ← supBytes (a + 1) n
    pure (BitVec.ofNat 8 v :: t)

/-! ### The end of an event -/

/-- The engine that raised an event tries its stopped part again (R279, R283, R434, R441). -/
def Ctx.retrySource (x : Ctx) (src : EventSource) : Ctx :=
  match src with
  | .copyQueue cq => { x with cq := x.cq.modify [] cq fun l => l.map fun e => match e with
      | .cmd c => .cmd { c with stalled := false }
      | .fence n => .fence n }
  | .stream q => x.modQueue q fun y => { y with stream := y.stream.map fun st => { st with flt := false } }
  | .codebook => { x with cbtPending := true }
  | .cluster | .staging _ => x

/-- The staging that raised an event tries its region again from the failing line (R441). -/
def State.retryStaging (s : State) (slot : Nat) (src : EventSource) : State :=
  match src, s.hankAt slot with
  | .staging _, some h => s.modHank h.task h.wid fun h => { h with stageFault := none }
  | _, _ => s

/-- SVRET ends the event of a context with the disposition that the handler has written (R401 step 4): 0 resumes, any other
value terminates the context. -/
def State.dispose (s : State) (slot : Nat) (disp : Byte) : State :=
  match (s.ctx slot).event with
  | none => s
  | some e =>
    if disp = 0 then (((s.modCtx slot fun x => x.retrySource e.source).retryStaging slot e.source).endEvent slot).endingIfIdle slot
    else (s.modCtx slot fun x => { x with event := none }).terminate slot (e.record.terminated s.timeNs)

/-- SVRET (R358, R401, R402): the core becomes idle. -/
def execSvret (g : Guard) (s : State) : Answer :=
  privileged g (fun s =>
    let c := s.myCore
    match c.target with
    | none => .next (s.halt targetTrap)
    | some k =>
      let t := s.setCore s.coreNo .initial
      .next (if c.withdrawn then t else t.dispose k (s.byteAt (c.record + 56)))) s

/-! ### Saving and restoring the target -/

/-- The target of the executing core and the frame's address, or the trap (R358). -/
def State.frameTarget (s : State) (a : RegF) : Except Stop Nat :=
  match s.myCore.target with
  | none => .error targetTrap
  | some k => if (s.readS a).toNat % frameBytes = 0 then .ok k else .error (illegalOperand 0x0E (s.readS a).toNat 1)

/-- RSAVE (R358): writes the target's state to a frame. -/
def saveTarget (a : RegF) : Comp Unit := do
  let s ← get
  let k ← ofStop (s.frameTarget a)
  if s.myCore.withdrawn then pure ()
  else
    match s.supCheck .write (s.readS a) 8 with
    | some x => throw x
    | none =>
      let base := s.homeOf (s.readS a).toNat
      match s.frameWait base (s.frameSections k (s.ctx k).provisional) with
      | some w => throw (.wait w)
      | none => update fun t => if t.region (t.readS a).toNat = .creel then t else t.saveFrame k base (t.ctx k).provisional

/-- RSAVE (R358). -/
def execRsave (g : Guard) (a : RegF) (s : State) : Answer := privileged g (finish do
  saveTarget a
  update fun t => t.retire 4) s

/-- The frame belongs to the target, and its streams are acceptable (R358). -/
def State.frameFits (s : State) (slot base : Nat) : Bool :=
  let (task, wid) := (s.ctx slot).hank.getD (0, 0)
  s.frameNum base 0 2 == 1 && s.frameNum base 8 8 == task && s.frameNum base 16 8 == wid.toNat && s.frameStreamsOk base

/-- RREST (R358): replaces the target's state by a frame's. -/
def restoreTarget (a : RegF) : Comp Unit := do
  let s ← get
  let k ← ofStop (s.frameTarget a)
  if s.myCore.withdrawn then pure ()
  else
    let base := s.homeOf (s.readS a).toNat
    match s.supCheck .read (s.readS a) 8 with
    | some x => throw x
    | none =>
      update fun t => t.scrubFrame base
      let t ← get
      need (t.frameFits k base) targetTrap
      let u := t.loadFrame k base (t.vregBanks k)
      let secs := u.frameSections k false
      match t.frameWait base secs with
      | some w => throw (.wait w)
      | none => pure ()
      need (!t.frameBad base secs) (.fault 0x0108 (s.readS a) 0)
      set u

/-- RREST (R358). -/
def execRrest (g : Guard) (a : RegF) (s : State) : Answer := privileged g (finish do
  restoreTarget a
  update fun t => t.retire 4) s

/-! ### Translation caches -/

/-- Staging copies not yet issued of the lines on which `f` holds, of hank, task, region and line number, are cancelled; their
regions count as landed (R426, R436). -/
def State.endStaging (s : State) (f : Hank → Task → Region → Nat → Nat → Bool) : State :=
  { s with hanks := s.hanks.map fun h => match s.findTask h.task with
      | none => h
      | some t =>
        { h with dropped := h.dropped ++ t.body.regions.zipIdx.flatMap fun r =>
            ((h.linesLeft r.1 r.2).filter (f h t r.1 r.2)).map fun n => (r.2, n) } }

/-- What a TLBI names: the address space with a descriptor, and one of its 64 KiB pages; all of them where either is left out (R359). -/
structure TlbiScope where
  asd : Option Nat
  page : Option Nat

/-- The scope has an address of an address space. -/
def TlbiScope.has (x : TlbiScope) (asd va : Nat) : Bool := x.asd.all (· == asd) && x.page.all fun p => va / 65536 == p

/-- A cached translation lies in the scope (R124, R359): it belongs to the address space and overlaps the 64 KiB page. -/
def State.inScope (s : State) (x : TlbiScope) (e : TlbEntry) : Bool :=
  (x.asd.all fun a => if e.ats then e.pasid == (s.asd a).pasid else e.asd == a)
    && x.page.all fun p => decide (e.va < (p + 1) * 65536) && decide (p * 65536 < e.va + e.size)

/-- An entry of a walk cache lies in the scope (R359). -/
def TlbiScope.hasWalk (x : TlbiScope) (e : WalkEntry) : Bool :=
  x.asd.all (· == e.asd) && x.page.all fun p => p * 65536 % 2 ^ 57 / 2 ^ levelShift e.level == e.idx

/-- TLBI (R359, R436): accesses that used the translations of the scope are performed; the translations and the entries of the walk
caches go; of pages whose leaf has been invalidated or moved, the staging is cancelled. -/
def State.invalidate (s : State) (x : TlbiScope) : State :=
  let s1 := s.performWhere fun a => s.inScope x a.entry
  let s2 := { s1 with
    tlb := s1.tlb.filter fun e => !s1.inScope x e
    walkCache := (s1.walkCache.map fun (p : Nat × List WalkEntry) => (p.1, p.2.filter fun e => !x.hasWalk e)).filter fun p => !p.2.isEmpty }
  let lost (h : Hank) (t : Task) (r : Region) (i n : Nat) : Bool :=
    h.doomed.contains (i, n) && x.has t.body.asd (h.lineVa r n).toNat
  let s3 := s2.endStaging lost
  { s3 with hanks := s3.hanks.map fun h => { h with doomed := h.doomed.filter fun d => !h.dropped.contains d } }

/-- TLBI (R359). -/
def execTlbi (g : Guard) (a : RegF) (kind : BitVec 5) (s : State) : Answer :=
  privileged g (finish do
    let va := s.readS a
    if kind = 0 then update fun t => t.invalidate { asd := none, page := none }
    else if kind = 1 then
      let l ← supBytes va 16
      update fun t => t.invalidate { asd := some (natIn l 0 8), page := some (natIn l 8 8 / 65536) }
    else update fun t => t.invalidate { asd := some va.toNat, page := none }
    update fun t => t.retire 4) s

/-! ### The lattice and recode jobs -/

/-- LTLD (R96, R98): the set takes its new value as a whole. -/
def execLtld (g : Guard) (set : BitVec 2) (a : RegF) (s : State) : Answer :=
  privileged g (finish do
    let va := s.readS a
    need (va.toNat % 1024 = 0) (illegalOperand 0x0E va.toNat 1)
    let l ← loadLines .read va 8
    need (Lattice.setOk l.1) (illegalOperand 0x0F va.toNat 1)
    update fun t => State.retire { t with lattice := t.lattice.set none set.toNat (some l.1) } 4) s

/-- RECODE (R360). -/
def execRecode (g : Guard) (d a : RegF) (s : State) : Answer :=
  privileged g (finish do
    let l ← supBytes (s.readS a) 32
    update fun t =>
      let (u, r) := t.submitRecode l false
      (u.writeS d (BitVec.ofNat 64 r)).retire 4) s

end Sys2Proof.Machine
end

