-- ==== Sys2Proof/Machine/Pages.lean ====
section
/-! DEFINITION. Translations and page requests that the host answers (R423 .. R426, R458), walks that end a wait (R425), and lines
that the host owns (R427). -/

namespace Sys2Proof.Machine

/-! ### Who waits on a page -/

/-- A range of host pages: PASID, first address and size. A page request names one of 4 KiB. -/
structure HostPage where
  pasid : Nat
  va : Nat
  size : Nat

/-- The 4 KiB page of an address (R423). -/
def pageAt (pasid va : Nat) : HostPage := { pasid := pasid, va := va / 4096 * 4096, size := 4096 }

/-- The range has an address. -/
def HostPage.has (p : HostPage) (va : Nat) : Bool := p.va ≤ va && va < p.va + p.size

/-- A cluster's wait is for a translation of the page (R423). -/
def State.waitsOn (s : State) (p : HostPage) (w : Option WaitFor) : Bool :=
  match w with
  | some (.memory c asd va _) => c == 0x0109 && (s.asd asd).pasid == p.pasid && p.has va
  | _ => false

/-- The clusters whose recorded wait satisfies a condition. -/
def State.waiters (s : State) (f : Option WaitFor → Bool) : List (Nat × Cl) :=
  s.ctxs.flatMap fun p => (Cl.all.filter fun c => (p.2.cl c).run == .waiting && f (p.2.cl c).wait).map fun c => (p.1, c)

/-- The next act of every engine, Task Front read, staging copy and dispatcher read that may stand at a translation or at a line
(R427, R477). -/
def State.engineActs (s : State) : List (State → State) :=
  let copies := s.ctxs.flatMap fun p => (List.range 4).flatMap fun cq => match s.headCmd p.1 cq with
    | none => []
    | some c => (c.chunks.map fun n => fun (t : State) => t.copyStep p.1 cq n) ++ [fun (t : State) => t.copyEnd p.1 cq]
  let streams := s.ctxs.flatMap fun p => (List.range 16).map fun q => fun (t : State) => t.refill p.1 q
  let books := (s.hanks.filter fun h => h.slot.any fun k => (s.ctx k).cbtPending).map fun h =>
    fun (t : State) => t.dispatch h.task h.wid
  let staged := s.hanks.flatMap fun h => (List.range 8).map fun i => fun (t : State) => t.stageLine h.task h.wid i
  let waits := s.tasks.flatMap fun t => (List.range 4).map fun k => fun (u : State) => u.recheckWait t.pa k
  let takes := (List.range 64).map fun q => fun (t : State) => t.takeTask q
  let shapes := s.tasks.flatMap fun t => [0, 1].map fun d => fun (u : State) => u.actOnShape t.pa d
  copies ++ streams ++ books ++ staged ++ waits ++ takes ++ shapes

/-- An act with a denial in force. -/
def State.underDeny (s : State) (d : Denial) (f : State → State) : State := { f { s with deny := some d } with deny := none }

/-- An act waits for what is denied: the denial would change its outcome. -/
def State.actWaits (s : State) (d : Denial) (f : State → State) : Bool := s.underDeny d f != f s

/-- The denial of a page under a cause. -/
def HostPage.denial (p : HostPage) (cause : BitVec 32) : Denial := .page p.pasid p.va p.size cause

/-- Some access waits on the page. -/
def State.pageWaited (s : State) (p : HostPage) : Bool :=
  !(s.waiters (s.waitsOn p)).isEmpty || s.engineActs.any (s.actWaits (p.denial 0x0111))

/-- The accesses that wait on the page translate again (R423). -/
def State.wakePage (s : State) (p : HostPage) : State := s.wakeAll (s.waitsOn p)

/-- An agent's waiting access ends with a stop. -/
def State.haltAgent (s : State) (a : Agent) (x : Stop) : State := { State.halt { s with cur := a } x with cur := s.cur }

/-- A cluster's waiting access ends with a stop. -/
def State.haltAt (s : State) (slot : Nat) (c : Cl) (x : Stop) : State := s.haltAgent (.cluster slot c) x

/-- The stop of a waiting access: cause, class, address and INFO (R422). -/
def WaitFor.denied (w : Option WaitFor) (cause : BitVec 32) (host : Bool) (pasid : Nat) : Stop :=
  let stop (va kind : Nat) : Stop :=
    let info := BitVec.ofNat 64 (kind * 2 ^ 16 + (if host then 2 ^ 19 else 0) + pasid * 2 ^ 32)
    if cause = 0x0101 ∨ cause = 0x0100 then .fault cause (BitVec.ofNat 64 va) info else .fatal cause (BitVec.ofNat 64 va) info
  match w with
  | some (.memory _ _ va kind) => stop va kind
  | some (.host _ _ va kind) => stop va kind
  | _ => .wait .load

/-- The engines whose next acts wait for what is denied perform them under the denial. -/
def State.denyEngines (s : State) (d : Denial) : State :=
  s.engineActs.foldl (fun t f => if t.actWaits d f then t.underDeny d f else t) s

/-- The host refuses a page: every access that waits on it takes the cause (R423, R424). -/
def State.denyPage (s : State) (p : HostPage) (cause : BitVec 32) : State :=
  let s1 := (s.waiters (s.waitsOn p)).foldl
    (fun t k => t.haltAt k.1 k.2 (WaitFor.denied ((s.ctx k.1).cl k.2).wait cause true p.pasid)) s
  s1.denyEngines (p.denial cause)

/-- A link to the host is up (R469). -/
def State.hostUp (s : State) : Bool := s.linkUp 0 || s.linkUp 1

/-! ### Walks -/

/-- A cluster's wait is for the end of a page's migration (R425). -/
def waitsMig (asd va : Nat) (w : Option WaitFor) : Bool :=
  match w with
  | some (.memory c a v _) => c == 0x0105 && a == asd && v / 65536 == va / 65536
  | _ => false

/-- A walk for a cluster that waits (R423, R425): its TLB is filled and it goes on; with a cause, its access meets that as it
translates again. While a TLB holds the translation with MIG set, or the leaf has MIG set again, the wait lasts. -/
def State.walkFor (asd va : Nat) (s : State) (k : Nat × Cl) : State :=
  let u := unitOf k.1
  let t := s.prewalk u asd (BitVec.ofNat 64 va)
  match t.xlate u asd (t.ctx k.1).provisional .read (BitVec.ofNat 64 va) with
  | .error { stop := .wait (.memory c a v x), .. } => t.agentHolds u (.memory c a v x)
  | .ok x => (t.useXlate x).modCtx k.1 fun y => y.modCl k.2 Cluster.wake
  | .error _ => t.modCtx k.1 fun y => y.modCl k.2 Cluster.wake

/-- PAGE_WALK (R423, R425): the walks for the accesses that wait at a page. -/
def State.pageWalk (s : State) (asd va : Nat) : State := (s.waiters (waitsMig asd va)).foldl (State.walkFor asd va) s

/-- PAGE_WALK (R423). -/
def execPageWalk (asd va : Nat) (s : State) : Answer := .next (s.pageWalk asd va)

/-! ### ATS and page requests -/

/-- The cached ATS results that overlap a range of a PASID. -/
def atsIn (pasid va size : Nat) (e : TlbEntry) : Bool :=
  e.ats && e.pasid == pasid && decide (e.va < va + size) && decide (va < e.va + e.size)

/-- The entry of an ATS result (R458). It is executable where it is readable (log entry 24). -/
def atsEntry (u : TlbUnit) (pasid va size pa : Nat) (read write refused : Bool) : TlbEntry :=
  { unit := u, asd := 0, pasid := pasid, va := va, size := size, pa := hostBase + pa, leaf := 0, r := read, w := write, x := read, u := true
    d := refused, mig := false, pslot := 0, folded := false, ats := true, par := .raw }

/-- A page request of R423. -/
def PageReq.isFor (p : HostPage) (r : PageReq) : Bool := r.pasid == p.pasid && p.has r.va

/-- The request has been sent and stands unanswered (R378). -/
def PageReq.open (r : PageReq) : Bool := r.sent && !r.granted

/-- Requests that wait to be sent are sent, in order, while fewer than 512 are outstanding; `n` more may be (R423). -/
def sendReqs (now : Nat) : Nat → List PageReq → List PageReq
  | 0, l => l
  | _, [] => []
  | n + 1, r :: l => if r.sent then r :: sendReqs now (n + 1) l else { r with sent := true, since := now } :: sendReqs now n l

/-- The page requests that may be sent are sent (R423, R424). -/
def State.sendWaiting (s : State) : State :=
  if !s.priEnable || s.priFailed then s
  else { s with pageReqs := sendReqs s.timeNs (512 - (s.pageReqs.filter PageReq.open).length) s.pageReqs }

/-- Removes the page request for a page. -/
def State.dropReq (s : State) (p : HostPage) : State := { s with pageReqs := s.pageReqs.filter fun r => !r.isFor p }

/-- A completion that grants access is held at its size, in the second-level TLBs (R458; log entry 24). -/
def State.installAts (s : State) (pasid va size pa : Nat) (read write : Bool) : State :=
  let refused := !write && s.tlb.any fun e => atsIn pasid va size e && !e.w
  let p : HostPage := { pasid := pasid, va := va, size := size }
  let t : State :=
    { s with
      tlb := (List.range 8).foldl (fun l b => tlbPut (.bobbin b) (atsEntry (.bobbin b) pasid va size pa read write refused) l)
        (s.tlb.filter fun e => !atsIn pasid va size e)
      pageReqs := s.pageReqs.filter fun r => !(r.granted && r.isFor p) }
  t.wakePage p

/-- ATS reports a page absent (R420, R423, R424). -/
def State.atsAbsent (s : State) (p : HostPage) : State :=
  let off := !s.priEnable || s.priFailed
  if !s.pageWaited p then s
  else match s.pageReqs.find? (PageReq.isFor p) with
    | some r =>
      if r.granted then (s.dropReq p).denyPage p 0x0110
      else if !r.sent && off then (s.dropReq p).denyPage p 0x0101
      else s
    | none =>
      if off then s.denyPage p 0x0101
      else State.sendWaiting { s with pageReqs := s.pageReqs ++
        [{ pasid := p.pasid, va := p.va, since := s.timeNs, granted := false, sent := false }] }

/-- ATS_TRANSLATION_COMPLETION (R124, R423, R458): the range is a power of two of at least 4 KiB. One with a physical address above
bit 47 gives no translation. -/
def execAtsTranslationCompletion (pasid va size pa : Nat) (read write : Bool) (s : State) : Answer :=
  .next (if !s.hostUp || decide (size < 4096) || 2 ^ Nat.log2 size != size || va % size != 0 || pa % size != 0 then s
    else if read || write then
      if 2 ^ 48 < pa + size then s.denyPage { pasid := pasid, va := va, size := size } 0x0100
      else s.installAts pasid va size pa read write
    else s.atsAbsent (pageAt pasid va))

/-- PRI_RESPONSE (R423, R424): Success, Invalid Request, or Response Failure. -/
def State.priAnswer (s : State) (p : HostPage) (code : BitVec 2) : State :=
  if s.pageReqs.any (fun r => r.isFor p && r.open) then
    if code = 0 then
      -- R458: a Success that nobody waits for installs nothing
      if s.pageWaited p then
        State.wakePage (State.sendWaiting
          { s with pageReqs := s.pageReqs.map fun r => if r.isFor p then { r with granted := true } else r }) p
      else (s.dropReq p).sendWaiting
    else if code = 1 then (s.dropReq p).sendWaiting.denyPage p 0x0110
    else State.denyPage { s.dropReq p with priFailed := true } p 0x0111
  else s

/-- PRI_RESPONSE (R424). -/
def execPriResponse (pasid va : Nat) (code : BitVec 2) (s : State) : Answer :=
  .next (if s.hostUp then s.priAnswer (pageAt pasid va) code else s)

/-- PRICFG.TMO in ns (R424). -/
def State.tmoNs (s : State) : Nat := (s.creel.pricfg.extractLsb' 0 16).toNat * 1000000

/-- PAGE_REQUEST_TIMEOUT (R424): TMO 0 means no limit. -/
def execPageRequestTimeout (pasid va : Nat) (s : State) : Answer :=
  let p := pageAt pasid va
  .next (if s.tmoNs ≠ 0 ∧ s.pageReqs.any (fun r => r.isFor p && r.open && decide (r.since + s.tmoNs ≤ s.timeNs)) then
      (s.dropReq p).sendWaiting.denyPage p 0x0111
    else s)

/-- PRI_ENABLE_WRITE (R424): after a Response Failure, clearing and setting the bit enables page requests again. -/
def execPriEnableWrite (port : Nat) (enable : Bool) (s : State) : Answer :=
  .next (if 2 ≤ port ∨ s.linkUp port = false then s
    else State.sendWaiting { s with priEnable := enable, priFailed := s.priFailed && !(enable && !s.priEnable) })

/-- A host address of a range: it lies in the host range of its address space, and the PASID is the range's (R124). -/
def State.inHostRange (s : State) (p : HostPage) (asd va : Nat) : Bool :=
  (s.asd asd).pasid == p.pasid && (s.asd asd).isHost va && p.has va

/-- ATS_INVALIDATE (R426): translations of the range go, stores issued through them are performed, and staging copies of the range not
yet issued are cancelled. -/
def execAtsInvalidate (pasid va size : Nat) (s : State) : Answer :=
  let p : HostPage := { pasid := pasid, va := va, size := size }
  .next (if !s.hostUp then s
    else
      let s1 := s.performWhere fun a => atsIn pasid va size a.entry
      State.endStaging { s1 with tlb := s1.tlb.filter fun e => !atsIn pasid va size e } fun h t r _ n =>
        s.inHostRange p t.body.asd (h.lineVa r n).toNat)

/-! ### Lines owned by the host -/

/-- HOST_OWNERSHIP (R427): physical line number `line` of HBM4. The line is recalled from the caches, and accesses already ordered are
performed; while a write of the line waits or an engine rewrites it, the home waits too. -/
def execHostOwnership (line : Nat) (s : State) : Answer :=
  .next (if s.hostUp && s.creel.ready && s.region (line * 128) == .hbm && !s.physHeld (line * 128)
    then
      let s1 := (s.performWhere fun a => a.pa / 128 == line).recall line
      { s1 with hostOwned := s1.hostOwned.set false line true }
    else s)

/-- A wait is for a line that the host owns (R427). -/
def waitsHost (line : Nat) (w : Option WaitFor) : Bool :=
  match w with
  | some (.host pa _ _ _) => pa / 128 == line
  | _ => false

/-- The line is the device's again. -/
def State.takeBack (s : State) (line : Nat) : State :=
  { s with hostOwned := s.hostOwned.set false line false, snoops := s.snoops.set 0 line 0 }

/-- BACK_INVALIDATION_RESPONSE (R382, R427): the line comes back with the host's bytes, raw, but for a line of a protected range; a
clean line brings none. Writes that waited for the line follow. -/
def execBackInvalidationResponse (line : Nat) (data : List Byte) (s : State) : Answer :=
  .next (if s.hostUp && s.hostOwned.get false line && (data.isEmpty || data.length == 128) then
      let s1 := s.takeBack line
      let s2 := if data.isEmpty || s.protectedAt (line * 128) then s1
        else ((s1.physWriteLine s.hostSrc (line * 128) data).recall line).wakeLine (line * 128)
      (s2.flushPhys (line * 128)).wakeAll (waitsHost line)
    else s)

/-- The host has not answered the snoop for a line within BITMO (R424, R427). -/
def State.snoopOver (s : State) (line : Nat) : Bool :=
  s.hostOwned.get false line && s.snoops.get 0 line != 0 && decide (s.snoops.get 0 line + s.bitmoNs ≤ s.timeNs + 1)

/-- Every access that waits for a line ends under cause 0x0113 (R427). -/
def State.denyLine (s : State) (line : Nat) : State :=
  let s1 := (s.waiters (waitsHost line)).foldl
    (fun t k => t.haltAt k.1 k.2 (WaitFor.denied ((s.ctx k.1).cl k.2).wait 0x0113 false 0)) s
  let s2 := (s.sup.filter fun p => p.2.cl.run == .waiting && waitsHost line p.2.cl.wait).foldl
    (fun t p => t.haltAgent (.sup p.1) (WaitFor.denied p.2.cl.wait 0x0113 false 0)) s1
  State.denyEngines { s2 with snoops := s2.snoops.set 0 line 0 } (.line line)

/-- BACK_INVALIDATION_TIMEOUT (R427) of the snoop for `line` that the home sent at `sent`. -/
def execBackInvalidationTimeout (line sent : Nat) (s : State) : Answer :=
  .next (if s.snoopOver line && s.snoops.get 0 line == sent + 1 then s.denyLine line else s)

end Sys2Proof.Machine
end

