-- ==== Sys2Proof/Machine/Preempt.lean ====
section
/-! DEFINITION. Pre-emption, saving, resumption and ageing (R48, R49, R186 .. R196, R208, R345, R385, R402, R447, R450, R451). -/

namespace Sys2Proof.Machine

/-! ### Victims -/

/-- Physical address of save frame `i` of SAVEPOOL (R195). -/
def State.framePa (s : State) (i : Nat) : Nat := (s.creel.savepool.extractLsb' 24 28).toNat * frameBytes + i * frameBytes

/-- The free save frames (R195). -/
def State.freeFrames (s : State) : List Nat :=
  ((List.range (s.creel.savepool.extractLsb' 0 16).toNat).map s.framePa).filter fun f => !s.framesUsed.contains f

/-- Every present member of the skein can be pre-empted (R28, R187, R402). -/
def State.saveable (s : State) (hs : List Hank) : Bool :=
  hs.all fun h => match h.state, h.slot with
    | .running, some k =>
      let x := s.ctx k
      x.event.isNone && x.waiting.isEmpty && x.dying.isNone && !x.heldFatal && !x.cbtPending
    | _, _ => false

/-- A hank is later work than another (R49). -/
def State.laterWork (s : State) (v h : Hank) : Bool :=
  if v.task = h.task then decide (h.ord < v.ord)
  else match s.findTask v.task, s.findTask h.task with
    | some tv, some th => tv.queue == th.queue && (s.tasks.takeWhile fun u => u.pa != v.task).any fun u => u.pa == h.task
    | _, _ => false

/-- The Provisional Line Buffer of a bobbin is full (R447). -/
def State.plbFull (s : State) (b : Nat) : Bool := decide (plbSize ≤ (s.plb.get [] b).length)

/-- The hank's non-idle clusters all wait in SIGWAIT, and it is later work than the incoming one; or it is provisional and they
wait on a full Provisional Line Buffer or an action of R206 (R187 step 1, R447). -/
def State.sleeper (s : State) (inc v : Hank) : Bool :=
  match v.slot with
  | none => false
  | some k =>
    let x := s.ctx k
    let full := v.prov && !inc.prov && s.plbFull v.bobbin
    let later := s.laterWork v inc
    let busy := Cl.all.filter fun c => (x.cl c).run != .idle
    !busy.isEmpty && busy.all fun c => (x.cl c).run == .waiting && (match (x.cl c).wait with
      | some (.signal _) => later
      | some .plbSpace | some .provisional => full
      | _ => false)

/-- R48: an aged hank is not pre-empted again until it has run for 100 µs. -/
def State.shielded (s : State) (h : Hank) : Bool := h.aged && decide (s.timeNs < h.resumedAt + 100000)

/-- The class of a skein as a victim of a hank of class `c`: one lower after a YIELD at equal class (R345). -/
def State.victimClass (s : State) (c : Nat) (hs : List Hank) : Int :=
  let k := (hs.map Hank.cls).foldl max 0
  let yields := hs.any fun h => match h.slot with
    | some n => Cl.all.any fun c => ((s.ctx n).cl c).yielded
    | none => false
  if k = c ∧ yields then (k : Int) - 1 else k

/-- The most recent dispatch of a skein. -/
def lastDispatch (hs : List Hank) : Nat := (hs.map Hank.dispSeq).foldl max 0

/-- Puts a pair before the first one that it precedes. -/
def insertVictim (le : Int × Nat → Int × Nat → Bool) (x : (Int × Nat) × List Hank) :
    List ((Int × Nat) × List Hank) → List ((Int × Nat) × List Hank)
  | [] => [x]
  | y :: l => if le x.1 y.1 then x :: y :: l else y :: insertVictim le x l

/-- Lowest class first, then the most recently dispatched (R187). -/
def victimLe (a b : Int × Nat) : Bool := decide (a.1 < b.1) || (decide (a.1 = b.1) && decide (b.2 ≤ a.2))

/-- The RUNNING skeins of a bobbin, each once. -/
def State.runningSkeins (s : State) (b : Nat) : List (List Hank) :=
  s.hanks.filterMap fun h =>
    if h.bobbin = b ∧ h.state = .running then
      let hs := s.skeinOf h
      if hs.head?.any fun m => m.task == h.task && m.wid == h.wid then some hs else none
    else none

/-- The victims that R187 allows an incoming skein, in order. -/
def State.victimOrder (s : State) (inc : Hank) : List (List Hank) :=
  let c := s.skeinClass inc
  let all := (s.runningSkeins inc.bobbin).filter s.saveable
  let one := all.filter fun hs => hs.all (s.sleeper inc)
  let two := all.filter fun hs =>
    !hs.all (s.sleeper inc) && decide (s.victimClass c hs < c) && hs.all fun h => !s.shielded h
  let key1 := one.map fun hs => (((0 : Int), lastDispatch hs), hs)
  let key2 := two.map fun hs => ((s.victimClass c hs, lastDispatch hs), hs)
  ((key1.foldl (fun l x => insertVictim victimLe x l) []) ++ (key2.foldl (fun l x => insertVictim victimLe x l) [])).map Prod.snd

/-- The slots of hanks would be free. -/
def State.withoutVictims (s : State) (vs : List Hank) : State :=
  vs.foldl (fun t v => match v.slot with
    | some k => t.freeSlot k
    | none => t) s

/-- Takes victims in order until the incoming skein can be bound; none when it cannot, or when frames are short (R187, R196). -/
def State.takeVictims (s : State) (inc : Hank) : List (List Hank) → List Hank → Option (List Hank)
  | [], _ => none
  | hs :: l, took =>
    let vs := took ++ hs
    if s.freeFrames.length < vs.length then none
    else if ((s.withoutVictims vs).placeAll inc.bobbin (s.skeinOf inc)).isSome then some vs
    else s.takeVictims inc l vs

/-- A hank is chosen: it goes to SAVING with a frame; its staging is dropped and counts as landed (R181, R187, R188, R194). A hank that
was chosen earlier, but whose save completes later, counts as pre-empted later (R48 does not say; log entry 66). -/
def State.startSave (s : State) (v : Hank) : State :=
  match s.freeFrames with
  | [] => s
  | f :: _ =>
    let n := ((s.findTask v.task).map fun t => t.body.regions.length).getD 0
    { s with framesUsed := s.framesUsed ++ [f] }.modHank v.task v.wid fun h =>
      { h with state := .saving, frame := some f, runNs := h.runNs + (s.timeNs - h.resumedAt)
               ended := SMap.tabulate false n fun _ => true, stageFault := none }

/-- The bobbin is being parked; a change of REQ meanwhile waits until that completes (R385). -/
def State.parking (s : State) (b : Nat) : Bool := s.creel.parkBusy.getLsbD b && !s.creel.parked.getLsbD b

/-- PREEMPT (R187, R385): for a READY hank that its bobbin cannot bind, victims are chosen and their saves start; a RUNNING hank
of a bobbin that is being parked is itself pre-empted, with its skein. -/
def State.preempt (s : State) (task : Nat) (wid : Word) : State :=
  match s.findHank task wid with
  | none => s
  | some h =>
    let hs := s.skeinOf h
    if h.state = .running then
      if s.parking h.bobbin && s.saveable hs && decide (hs.length ≤ s.freeFrames.length) then hs.foldl State.startSave s else s
    else if s.skeinIn h .ready && !s.bindable h
        && !(h.claim && s.hanks.any fun y => y.bobbin == h.bobbin && y.state == .saving) then
      match s.takeVictims h (s.victimOrder h) [] with
      | none => s
      | some vs => hs.foldl (fun t m => t.modHank m.task m.wid fun x => { x with claim := true }) (vs.foldl State.startSave s)
    else s

/-- PREEMPT (R187). -/
def execPreempt (task : Nat) (wid : Word) (s : State) : Answer := .next (s.preempt task wid)

/-! ### Saving -/

/-- The index of a frame in SAVEPOOL. -/
def State.frameIndex (s : State) (f : Nat) : Nat := (f - s.framePa 0) / frameBytes

/-- A record of a save or restore that failed (R439). -/
def State.frameRec (s : State) (slot : Nat) (cause : BitVec 32) (f : Nat) : Rec :=
  s.ctxRec slot 4 cause (s.ctx slot).c.pc (BitVec.ofNat 64 f) (at_ 16 (s.frameIndex f % 65536))

/-- The frame lies in HBM4 (R451). -/
def State.frameInHbm (s : State) (f : Nat) : Bool := s.region f == .hbm && s.region (f + frameBytes - 1) == .hbm

/-- The requests of a context's queue loads whose elements have found no entry, by queue, in order (R267). -/
def Ctx.openLoads (x : Ctx) : SMap (List LoadReq) :=
  SMap.tabulate [] 16 fun q => LoadReq.join (x.queue q).requests ++ (x.reissue.filter fun r => r.1 == q).map Prod.snd

/-- The barrier generations for which a context's clusters wait, by cluster code (R47). -/
def Ctx.waitGens (x : Ctx) : SMap Nat :=
  SMap.tabulate 0 4 fun c => match (x.cl (Cl.ofCode c)).wait with
    | some (.bar n) => n
    | _ => 0

/-- Leaves the slot for the frame: stores are performed, and what no frame holds goes with the hank (R188, R354, R445). -/
def State.suspend (s : State) (h : Hank) (slot f : Nat) : State :=
  let s := s.performAll slot
  let x := s.ctx slot
  let t := s.saveFrame slot f x.provisional
  (t.freeSlot slot).modHank h.task h.wid fun h =>
    { h with state := .suspended, slot := none, suspendedAt := s.timeNs, agedMs := 0, held := x.held, pzrDone := x.pzrDone
             unplaced := x.openLoads, barGens := x.waitGens, vregBanks := s.vregBanks slot }

/-- SAVE_COMPLETE (R188, R450, R451): once the copy commands have completed, the save frame is written and the slot released. -/
def State.completeSave (s : State) (slot : Nat) : State :=
  match s.hankAt slot with
  | none => s
  | some h =>
    let x := s.ctx slot
    match h.state, h.frame with
    | .saving, some f =>
      if x.event.isNone && x.waiting.isEmpty && x.dying.isNone && !x.heldFatal && x.cq.all fun p => p.2.isEmpty then
        let secs := s.frameSections slot x.provisional
        if !s.frameInHbm f then s.terminate slot (s.frameRec slot 0x0220 f)
        else if (s.frameWait f secs).isSome then s
        else match s.frameErrors f secs with
          | [] => s.suspend h slot f
          | l => (l.foldl (fun t b => t.scrub (512 * b)) s).terminate slot (s.frameRec slot 0x0220 f)
      else s
    | _, _ => s

/-- SAVE_COMPLETE (R188). -/
def execSaveComplete (slot : Nat) (s : State) : Answer := .next (s.completeSave slot)

/-! ### Resuming -/

/-- The lines that a hank holds move into the Provisional Line Buffer of a bobbin (R208). -/
def State.movePlb (s : State) (h : Hank) (b : Nat) : State :=
  let es := s.heldLines h
  let s1 := s.dropHeld h.task h.wid
  { s1 with plb := s1.plb.modify [] b fun l => l ++ es }

/-- The charge of a hank that resumes in another bobbin goes there with it (R175, R194; log entry 28). -/
def State.moveCharge (s : State) (h : Hank) (b : Nat) : State :=
  match s.findTask h.task with
  | some t => if h.bobbin = b then s else
    let s1 := s.releaseCharge h.task h.wid
    { s1 with staging := s1.staging.modify .initial b fun x => x.charge t h.wid }
  | none => s

/-- A cluster that waits for a barrier generation at its BAR, as its frame does not say (R47). -/
def Cluster.owes (x : Cluster) (n : Nat) : Cluster := if n = 0 then x else { x with wait := some (.bar n) }

/-- Restores one suspended hank whose slot has been taken (R194, R451); none while a line of its frame is waited for (R70, R427). -/
def State.restore (s : State) (b : Nat) (m : Hank) : Option State :=
  match s.findHank m.task m.wid with
  | none => some s
  | some h =>
    match h.slot, h.frame with
    | some k, some f =>
      let s1 := ((s.movePlb h b).moveCharge h b).scrubFrame f
      let gen (c : Cl) : Nat := h.barGens.get 0 c.code
      let s2 := s1.modCtx k fun x =>
        { x with provisional := h.prov, held := h.held, pzrDone := h.pzrDone
                 reissue := h.unplaced.flatMap fun p => p.2.map fun r => (p.1, r)
                 c := x.c.owes (gen .C), a := x.a.owes (gen .A), v := x.v.owes (gen .V), m := x.m.owes (gen .M) }
      let s3 := (s2.loadFrame k f h.vregBanks).modCtx k fun x => { x with prio := BitVec.ofNat 3 h.cls, aged := h.aged }
      let secs := s3.frameSections k false
      if (s3.frameWait f secs).isSome then none
      else
        let bad := s3.frameBad f secs
        let s4 := s3.modHank h.task h.wid fun h =>
          { h with state := .running, bobbin := b, resumedAt := s.timeNs, dispSeq := s.dispNo, held := [], unplaced := [], barGens := []
                   vregBanks := [], frame := if bad then h.frame else none }
        let s5 := { s4 with dispNo := s4.dispNo + 1 }
        some (if bad then s5.terminate k (s5.frameRec k 0x0221 f)
          else { s5 with framesUsed := s5.framesUsed.filter (· != f) }.endingIfIdle k)
    | _, _ => some s

/-- RESUME (R28, R48, R194, R208): the suspended hank or skein binds again, whole, and its frames are restored. -/
def State.resume (s : State) (task : Nat) (wid : Word) : State :=
  match s.findHank task wid with
  | none => s
  | some h =>
    if s.skeinIn h .suspended then
      let hs := s.skeinOf h
      match s.resumeBobbin h with
      | none => s
      | some b =>
        if s.outbid b hs (s.skeinClass h) (some h.suspendedAt) then s
        else match s.placeSuspended b hs with
          | none => s
          | some s1 => (hs.foldlM (fun (t : State) m => t.restore b m) s1 : Option State).getD s
    else s

/-- RESUME (R194). -/
def execResume (task : Nat) (wid : Word) (s : State) : Answer := .next (s.resume task wid)

/-- HANK_AGEING (R48): the effective class of a waiting hank rises by one for each 1 ms, up to 7. -/
def State.age (s : State) (task : Nat) (wid : Word) : State :=
  s.modHank task wid fun h =>
    if h.state = .suspended ∧ h.suspendedAt + (h.agedMs + 1) * 1000000 ≤ s.timeNs ∧ h.cls < 7 then
      { h with cls := h.cls + 1, agedMs := h.agedMs + 1, aged := true }
    else h

/-- HANK_AGEING (R48). -/
def execHankAgeing (task : Nat) (wid : Word) (s : State) : Answer := .next (s.age task wid)

end Sys2Proof.Machine
end

