-- ==== Sys2Proof/Machine/Platform.lean ====
section
/-! DEFINITION. Power, temperature, parking, links, the Distaff, reset and life cycle (R12, R382 .. R391, R404, R467 .. R474). -/

namespace Sys2Proof.Machine

/-- The source number of the power controller (R396). -/
def powerSrc : Nat := 0x631
/-- The source number of the Distaff (R396). -/
def distaffSrc : Nat := 0x632

/-! ### Reset (R389, R404, R474) -/

/-- First physical address behind HBM4 (R106). -/
def hbmEnd : Nat := 0x006000000000

/-- A host port after reset; messages and reports that it has sent stay sent. -/
def Port.afterReset (p : Port) : Port := { Port.initial with sent := p.sent, reports := p.reports }

/-- The Creel registers after reset: fuses keep their values; READY is never set in RETIRED (R389, R391). -/
def Creel.afterReset (c : Creel) (links : SMap Bool) : Creel :=
  { Creel.initial with lnkUp := links, ready := c.lcs != 3, lcs := c.lcs, step := c.step, bobcfg := c.bobcfg }

/-- The module resets under R389 with some links trained: memory of the module is wiped, every register takes its Reset value;
memory of hosts, tiers and peers stays. -/
def State.resetModule (s : State) (links : SMap Bool) : State :=
  { State.reset with
    mem := s.mem.filter fun p => decide (hbmEnd ≤ p.1)
    tags := s.tags.filter fun p => decide (hbmEnd ≤ p.1 * 128)
    extPoison := s.extPoison, answers := s.answers
    retired := s.retired, creel := s.creel.afterReset links
    ports := SMap.set .initial (SMap.set .initial [] 0 (s.port 0).afterReset) 1 (s.port 1).afterReset
    cur := s.cur, turns := s.turns, stepNo := s.stepNo }

/-- The links of the host ports, as they stand (R474). -/
def State.hostLinks (s : State) : SMap Bool := SMap.set false (SMap.set false [] 0 (s.linkUp 0)) 1 (s.linkUp 1)

/-- The records of contexts that are being terminated: detected, and not yet written (R403). -/
def State.dyingRecords (s : State) : List Rec :=
  s.ctxs.flatMap fun p => match p.2.dying with
    | some r => r :: recordsOf p.2.held
    | none => []

/-- A class 5 error (R404): its record, after those detected earlier, then the reset, in which the host ports keep their links
(R474). -/
def State.uncontained (s : State) (src : Nat) (cause : BitVec 32) : State :=
  ((s.reportAll s.dyingRecords).report (s.recOf src 5 cause 0 0)).resetModule s.hostLinks

/-- A source of class 5 errors other than the causes with events of their own (R393, R396, R402, R467), and its cause: 0x0341, or of a
storage structure 0x0410, since R397 allots such a class 5 error no code (DESIGN CHOICE, log entry 68). -/
def uncontainedOk (src cause : Nat) : Bool :=
  (src == 0x632 && cause == 0x0341)
    || (cause == 0x0410 && ((0x628 ≤ src && src < 0x630) || src == 0x630 || (0x400 ≤ src && src < 0x420)))

/-- UNCONTAINED_ERROR (R404). -/
def execUncontainedError (src cause : Nat) (s : State) : Answer :=
  .next (if uncontainedOk src cause then s.uncontained src (BitVec.ofNat 32 cause) else s)

/-- MODULE_RESET (R389). -/
def execModuleReset (s : State) : Answer := .next (s.resetModule [])

/-- The changes that R391 allows. -/
def lcsNext (old new : BitVec 2) : Bool :=
  match old.toNat, new.toNat with
  | 0, 1 | 0, 3 | 1, 2 | 1, 3 | 2, 3 => true
  | _, _ => false

/-- LIFE_CYCLE_CHANGE (R391). -/
def execLifeCycleChange (lcs : BitVec 2) (s : State) : Answer :=
  .next (if lcsNext s.creel.lcs lcs then (s.modCreel fun c => { c with lcs := lcs }).resetModule [] else s)

/-- MODULE_POWER_OFF (R12): no part holds state or answers on any link. -/
def execModulePowerOff (s : State) : Answer :=
  .next { s.resetModule [] with powered := false, creel := { s.creel.afterReset [] with ready := false } }

/-! ### Links (R467 .. R469) -/

/-- A class 3 record about a port. -/
def State.portRec (s : State) (port : Nat) (cause : BitVec 32) : Rec := s.recOf (0x640 + port) 3 cause 0 (port * 2 ^ 16)

/-- Replays counted in the second that runs for a port, after one more (R467). -/
def State.countReplay (s : State) (port : Nat) : Nat × Nat :=
  let (n, t) := s.replays.get (0, 0) port
  if s.timeNs < t + 1000000000 then (n + 1, t) else (1, s.timeNs)

/-- LINK_REPLAY (R468). -/
def execLinkReplay (port : Nat) (s : State) : Answer :=
  .next (if portNumber port && s.linkUp port then
      { s with
        replays := s.replays.set (0, 0) port (s.countReplay port)
        creel := { s.creel with lnkRply := s.creel.lnkRply.modify 0 port fun v => if v = 0xFFFFFFFF then v else v + 1 } }
    else s)

/-- LINK_REPLAY_THRESHOLD (R467): a record; the count of the second begins anew. -/
def execLinkReplayThreshold (port : Nat) (s : State) : Answer :=
  let lim := (s.creel.lnkcfg.extractLsb' 0 16).toNat
  let (n, t) := s.replays.get (0, 0) port
  .next (if portNumber port ∧ lim ≠ 0 ∧ lim < n ∧ s.timeNs < t + 1000000000 then
      State.report { s with replays := s.replays.set (0, 0) port (0, s.timeNs) } (s.portRec port 0x0300)
    else s)

/-- Sets UP of a port. -/
def State.setLink (s : State) (port : Nat) (up : Bool) : State := s.modCreel fun c => { c with lnkUp := c.lnkUp.set false port up }

/-- The accesses in flight on a link are ended, and their contexts terminated (R469). -/
def State.endInFlight (s : State) (slots : List Nat) : State :=
  slots.foldl (fun t k => t.terminate k (t.ctxRec k 4 0x0302 (t.ctx k).c.pc 0 0)) s

/-- LINK_DOWN (R469). -/
def execLinkDown (port : Nat) (inFlight : List Nat) (s : State) : Answer :=
  .next (if portNumber port && s.linkUp port then
      let t := s.setLink port false
      let u := (t.report (t.portRec port 0x0301)).endInFlight inFlight
      if port < 2 ∧ u.hostUp = false then u.uncontained 0x640 0x0303 else u
    else s)

/-- LINK_TRAINED (R469). -/
def execLinkTrained (port : Nat) (s : State) : Answer := .next (if portNumber port then s.setLink port true else s)

/-! ### Performance states and power (R383, R384, R470) -/

/-- PSTATE_REQUEST (R383). -/
def execPstateRequest (req : BitVec 3) (s : State) : Answer := .next (s.pstateWrite req)

/-- PSTATE_TRANSITION_DONE (R383): the latest request made meanwhile takes effect after it. -/
def execPstateTransitionDone (s : State) : Answer :=
  .next (if s.creel.pstateBusy then
      (s.modCreel fun c => { c with pstateBusy := false, pstateCur := c.pstateTgt }).pstateStart
    else s)

/-- PWRCAP_WRITE (R384). -/
def execPwrcapWrite (value : Word) (s : State) : Answer := .next (s.pwrcapWrite value)

/-- The forced limit that the sources of R470 and R471 give. -/
def State.limit (s : State) : BitVec 3 := if s.overshoot || !s.hotStacks.isEmpty then 7 else s.dieLim

/-- The forced limit takes its value; a forced state change sends MSI-X vector 1 (R377, R383, R471). -/
def State.applyLimit (s : State) : State :=
  if s.limit = s.creel.flim then s
  else ((s.modCreel fun c => { c with flim := s.limit, trip := s.limit != 0 }).pstateStart).message 1

/-- POWER_SAMPLE (R384, R470): MEAS, and the forced P7 of an overshoot. -/
def State.powerSample (s : State) (avg10us avg1ms : Nat) : State :=
  let ceiling := 5 * s.creel.pwrCap.toNat
  let s1 := s.modCreel fun c => { c with pwrMeas := BitVec.ofNat 16 avg1ms }
  if 110 * ceiling < 100 * avg10us then
    if s.overshoot then s1
    else (State.report { s1 with overshoot := true } (s1.recOf powerSrc 3 0x0310 0 0)).applyLimit
  else if s.overshoot ∧ avg1ms ≤ ceiling then State.applyLimit { s1 with overshoot := false }
  else s1

/-- POWER_SAMPLE (R384). -/
def execPowerSample (avg10us avg1ms : Nat) (s : State) : Answer := .next (s.powerSample avg10us avg1ms)

/-- POWER_TRIP (R467). -/
def execPowerTrip (s : State) : Answer := .next (s.uncontained powerSrc 0x0311)

/-! ### Temperature (R387, R471) -/

/-- A stack's temperature: TEMP and HOT (R387). -/
def State.stackTemp (s : State) (st temp : Nat) : State :=
  let old := s.creel.hbmHot.get false st
  let hot := if 85 < temp then true else if temp < 82 then false else old
  let s1 := s.modCreel fun c =>
    { c with hbmTemp := c.hbmTemp.set 0 st (BitVec.ofNat 8 (min temp 255)), hbmHot := c.hbmHot.set false st hot }
  if hot = old then s1 else s1.message 1

/-- HBM_TEMP_HOT (R387). -/
def execHbmTempHot (stack temp : Nat) (s : State) : Answer := .next (if stack < 8 then s.stackTemp stack temp else s)

/-- The hottest die. -/
def State.hottest (s : State) : Nat := ((List.range 8).map fun d => s.dieTemps.get 0 d).foldl max 0

/-- The record and the message of an entry into a forced limit (R471). -/
def State.enterLimit (s : State) : State :=
  let t := s.report (s.recOf powerSrc 3 0x0320 0 0)
  if t.limit = t.creel.flim then t.message 1 else t.applyLimit

/-- A die's temperature (R471). -/
def State.dieSample (s : State) (d temp : Nat) : State :=
  let s1 := { s with dieTemps := s.dieTemps.set 0 d temp }
  let s2 := { s1 with
    creel := { s1.creel with dieTemp := BitVec.ofNat 8 (min s1.hottest 255) }
    coolSince := if s1.hottest < 100 ∧ s.hottest < 100 then s.coolSince else s.timeNs }
  if 105 < temp ∧ s.dieLim = 0 then State.enterLimit { s2 with dieLim := 1, limitSince := s.timeNs } else s2

/-- A stack's temperature, which forces P7 above 95 °C (R471). -/
def State.stackSample (s : State) (st temp : Nat) : State :=
  let s1 := s.stackTemp st temp
  if 95 < temp ∧ !s.hotStacks.contains st then State.enterLimit { s1 with hotStacks := s1.hotStacks ++ [st] } else s1

/-- THERMAL_LIMIT (R471): sources 0 .. 7 are the dies, 8 .. 15 the stacks. -/
def execThermalLimit (source temp : Nat) (s : State) : Answer :=
  .next (if source < 8 then s.dieSample source temp else if source < 16 then s.stackSample (source - 8) temp else s)

/-- THERMAL_STEP_DOWN (R471). -/
def execThermalStepDown (s : State) : Answer :=
  .next (if 105 < s.hottest ∧ s.dieLim ≠ 0 ∧ s.dieLim ≠ 7 ∧ s.limitSince + 100000 ≤ s.timeNs then
      State.applyLimit { s with dieLim := s.dieLim + 1, limitSince := s.timeNs }
    else s)

/-- THERMAL_STEP_UP (R471). -/
def execThermalStepUp (s : State) : Answer :=
  .next (if s.hottest < 100 ∧ s.dieLim ≠ 0 ∧ s.coolSince + 1000000 ≤ s.timeNs ∧ s.limitSince + 1000000 ≤ s.timeNs then
      State.applyLimit { s with dieLim := s.dieLim - 1, limitSince := s.timeNs }
    else s)

/-- THERMAL_TRIP (R467). -/
def execThermalTrip (temp : Nat) (s : State) : Answer := .next (if 115 < temp then s.uncontained powerSrc 0x0321 else s)

/-- HBM_STACK_COOLED (R471). -/
def execHbmStackCooled (stack temp : Nat) (s : State) : Answer :=
  .next (if stack < 8 then
      let t := s.stackTemp stack temp
      if temp < 90 then State.applyLimit { t with hotStacks := t.hotStacks.filter (· != stack) } else t
    else s)

/-! ### Parking (R385, R472) -/

/-- BOBBIN_PARK (R385). -/
def execBobbinPark (bobbin : Nat) (s : State) : Answer := .next (s.parkWrite (s.creel.parkReq ||| (1#8 <<< bobbin)))

/-- BOBBIN_UNPARK (R385). -/
def execBobbinUnpark (bobbin : Nat) (s : State) : Answer := .next (s.parkWrite (s.creel.parkReq &&& ~~~(1#8 <<< bobbin)))

/-- The bobbins other than `b` whose buffers may take lines (R385). -/
def State.otherBobbins (s : State) (b : Nat) : List Nat := (List.range 8).filter fun c => c != b && s.unparked c

/-- Moves the lines that a bobbin's buffer holds into the buffers of other bobbins, in ascending order; none without room. -/
def spill : List Nat → SMap (List PlbEntry) → List PlbEntry → Option (SMap (List PlbEntry))
  | _, m, [] => some m
  | [], _, _ :: _ => none
  | c :: l, m, es =>
    let room := plbSize - (m.get [] c).length
    spill l (m.modify [] c fun x => x ++ es.take room) (es.drop room)

/-- Steps 1 and 2 of a park are done: no hank of the bobbin stands in a slot as RUNNING, ENDING or SAVING. -/
def State.parkEmpty (s : State) (b : Nat) : Bool :=
  s.parking b && s.hanks.all fun h =>
    !(h.bobbin == b && (h.state == .running || h.state == .ending || h.state == .saving))

/-- A bobbin loses power: its caches are written back first, and its TLBs and its walk cache go (R119, R385). -/
def State.powerDown (s : State) (b : Nat) : State :=
  { s.dropCaches b with tlb := s.tlb.filter fun e => e.unit.bob != b, walkCache := s.walkCache.filter fun p => p.1 != b }

/-- PARK_COMPLETE (R385): the bobbin is powered off, and vector 2 is sent (R377); a change of REQ made meanwhile follows. -/
def State.parkDone (s : State) (b : Nat) : State :=
  if s.parkEmpty b && (s.parkSince.get none b).all fun t => decide (s.timeNs ≤ t + 1000000) then
    match spill (s.otherBobbins b) (s.plb.set [] b []) (s.plb.get [] b) with
    | none => s
    | some m =>
      let c := s.creel
      let t := { s.powerDown b with plb := m, creel := { c with parked := c.parked ||| (1#8 <<< b), parkBusy := c.parkBusy &&& ~~~(1#8 <<< b) } }
      (t.message 2).parkStart b
  else s

/-- PARK_COMPLETE (R385). -/
def execParkComplete (bobbin : Nat) (s : State) : Answer := .next (s.parkDone bobbin)

/-- PARK_ABANDON (R472): its first occurrence for a park marks the start of step 3; 1 ms later the park is abandoned. -/
def State.parkAbandon (s : State) (b : Nat) : State :=
  if s.parkEmpty b then
    match s.parkSince.get none b with
    | none => { s with parkSince := s.parkSince.set none b (some s.timeNs) }
    | some t =>
      if t + 1000000 < s.timeNs then
        let c := s.creel
        let u := { s with creel := { c with parkReq := c.parkReq &&& ~~~(1#8 <<< b), parkBusy := c.parkBusy &&& ~~~(1#8 <<< b) } }
        u.report (u.recOf powerSrc 3 0x0330 0 (b * 2 ^ 16))
      else s
  else s

/-- PARK_ABANDON (R472). -/
def execParkAbandon (bobbin : Nat) (s : State) : Answer := .next (s.parkAbandon bobbin)

/-- UNPARK_COMPLETE (R385, R472): the bobbin is admitted to again; one that fails its power-on check stays parked. -/
def State.unparkDone (s : State) (b : Nat) (passed : Bool) : State :=
  let c := s.creel
  if c.parkBusy.getLsbD b && c.parked.getLsbD b then
    let idle := c.parkBusy &&& ~~~(1#8 <<< b)
    if passed then
      (State.message { s with creel := { c with parkBusy := idle, parked := c.parked &&& ~~~(1#8 <<< b) } } 2).parkStart b
    else
      let t := { s with creel :=
        { c with parkBusy := idle, bobfail := c.bobfail ||| (1#8 <<< b), parkReq := c.parkReq ||| (1#8 <<< b) } }
      (t.report (t.recOf powerSrc 3 0x0331 0 (b * 2 ^ 16))).message 2
  else s

/-- UNPARK_COMPLETE (R385). -/
def execUnparkComplete (bobbin : Nat) (passed : Bool) (s : State) : Answer := .next (s.unparkDone bobbin passed)

/-! ### The Distaff (R391, R473) -/

/-- The Distaff restarts from its firmware: a record, and empty key slots; the third restart within 1 s is cause 0x0341 (R473). -/
def State.distaffRestart (s : State) : State :=
  let recent := (s.distaffRestarts.filter fun t => decide (s.timeNs < t + 1000000000)) ++ [s.timeNs]
  let t := State.report { s with keys := [], distaffRestarts := recent, distaffServed := s.timeNs } (s.recOf distaffSrc 3 0x0340 0 0)
  if 3 ≤ recent.length then t.uncontained distaffSrc 0x0341 else t

/-- DISTAFF_RESTART (R473). -/
def execDistaffRestart (s : State) : Answer := .next (if s.distaffRuns then s.distaffRestart else s)

/-- DISTAFF_WATCHDOG (R473): 10 ms unserved. -/
def execDistaffWatchdog (s : State) : Answer :=
  .next (if s.distaffRuns ∧ s.distaffServed + 10000000 ≤ s.timeNs then s.distaffRestart else s)

/-- The fuse state that a report carries (R391): BOBCFG0 .. BOBCFG7 and STEP. -/
def State.fuses (s : State) : List Word :=
  ((List.range 8).map fun n => s.creel.bobcfg.get Creel.bobcfgReset n) ++ [s.creel.step.setWidth 64]

/-- SPDM_MEASUREMENT_REQUEST (R382, R391). -/
def execSpdmMeasurementRequest (port : Nat) (nonce : Word) (s : State) : Answer :=
  .next (if port < 2 ∧ s.linkUp port then
      s.modPort port fun p => { p with reports := p.reports ++
        [{ nonce := nonce, firmware := Config.firmwareMeasurement s.stepNo, fuses := s.fuses, lcs := s.creel.lcs }] }
    else s)

end Sys2Proof.Machine
end

