-- ==== Sys2Proof/Machine/HostPort.lean ====
section
/-! DEFINITION. What hosts, peers, the Distaff and supervisor cores do to the module from outside its clusters (R5, R158, R360, R375
.. R382, R437, R476). -/

namespace Sys2Proof.Machine

/-! ### Device memory (R158, R381, R382, R476) -/

/-- The lines that a range of physical addresses touches, by first address in the range and length. -/
def linePieces : Nat → Nat → Nat → List (Nat × Nat)
  | 0, _, _ => []
  | _, _, 0 => []
  | fuel + 1, pa, n =>
    let k := min n (128 - pa % 128)
    (pa, k) :: linePieces fuel (pa + k) (n - k)

/-- The line is POISON for an agent without a Page Attribute Record (R476). -/
def State.poisonAt (s : State) (pa : Nat) : Bool := s.physClass pa 1 4

/-- A byte that an access from outside reads: zero while READY is 0, in a protected range, and of a POISON line (R382, R389, R476). -/
def State.outsideByte (s : State) (pa : Nat) : Byte :=
  if !s.creel.ready || s.protectedAt pa || s.poisonAt pa then 0 else s.byteAt pa

/-- The 6 tag bytes of a line as a fabric link carries them (R381); none of a protected range. -/
def State.outsideTag (s : State) (pa : Nat) : List Byte :=
  if !s.creel.ready || s.protectedAt pa then List.replicate 6 0 else leBytes 2 (s.tagAt pa).desc.toNat ++ leBytes 4 (s.tagAt pa).sc.toNat

/-- The answer to a read from outside. A peer's read of whole lines carries their tags (R381). -/
def State.answerOf (s : State) (peer : Bool) (pa len : Nat) : OutAnswer :=
  { peer := peer, addr := pa, data := (List.range len).map fun i => s.outsideByte (pa + i)
    tags := if peer && pa % 128 == 0 && len % 128 == 0 then (List.range (len / 128)).flatMap fun i => s.outsideTag (pa + 128 * i) else []
    poison := s.creel.ready && (linePieces (len + 1) pa len).any fun p => s.poisonAt p.1 && !s.protectedAt p.1 }

/-- The blocks that a read covers are checked, and each POISON line that a host reads makes a record under cause 0x0125 (R72, R476). -/
def State.outsideReadLine (s : State) (peer : Bool) (src : Nat) (p : Nat × Nat) : State :=
  let t := s.scrub p.1
  if !peer && t.poisonAt p.1 && !t.protectedAt p.1 then t.report (t.recOf src 3 0x0125 p.1 0) else t

/-- A write of a piece; one into a protected range is dropped (R382). A host's write of a line that it owns is performed at once. -/
def State.outsideWriteLine (s : State) (src base : Nat) (data : List Byte) (p : Nat × Nat) : State :=
  let d := (data.drop (p.1 - base)).take p.2
  if s.protectedAt p.1 then s
  else if s.ownedByHost p.1 then (s.physWriteLine src p.1 d).wakeLine p.1
  else s.physWrite src p.1 d

/-- An access from outside waits: for a line in TRANSIT, and a peer's for one that the host owns (R427, R476). -/
def State.outsideWaits (s : State) (peer : Bool) (pa len : Nat) : Bool :=
  (linePieces (len + 1) pa len).any fun p => (s.tagAt p.1).vcls == 3 || (peer && s.ownedByHost p.1)

/-- An access of a host or peer to HBM4, raw (R378, R476). While READY is 0 a read returns zeros (R389). -/
def State.outsideAccess (s : State) (peer : Bool) (src pa len : Nat) (write : Bool) (data : List Byte) : State :=
  let ps := linePieces (len + 1) pa len
  let answer (t : State) : State := { t with answers := t.answers ++ [t.answerOf peer pa len] }
  if decide (hbmEnd < pa + len) then s
  else if !s.creel.ready then if write then s else answer s
  else if s.outsideWaits peer pa len then s
  else if write then if data.length = len then ps.foldl (fun t p => t.outsideWriteLine src pa data p) s else s
  else answer (ps.foldl (fun t p => t.outsideReadLine peer src p) s)

/-- HOST_MEM_ACCESS (R378, R382, R476): a CXL.mem access through a host port. -/
def execHostMemAccess (pa : PortAddr) (len : Nat) (write : Bool) (data : List Byte) (s : State) : Answer :=
  .next (if pa.port < 2 ∧ s.linkUp pa.port ∧ len ≠ 0 then s.outsideAccess false (0x640 + pa.port) pa.addr len write data else s)

/-- A whole line with its tag arrives by Tagged Transfer; the tag is stored unchanged (R381). -/
def State.taggedLine (s : State) (pa : Nat) (data tag : List Byte) : State :=
  if s.protectedAt pa then s
  else
    let l : Line :=
      { tag := { desc := BitVec.ofNat 16 (natIn tag 0 2), sc := BitVec.ofNat 32 (natIn tag 2 4) }, bytes := SMap.setList 0 [] 0 data }
    (((s.scrub pa).putLine pa l).recall (pa / 128)).wakeLine pa

/-- Whole lines of one 512-byte block arrive with their tags, 6 bytes each (R381). -/
def State.taggedBlock (s : State) (pa : Nat) (data tags : List Byte) : State :=
  if !s.creel.ready || decide (hbmEnd < pa + data.length) || s.outsideWaits true pa data.length then s
  else (List.range (data.length / 128)).foldl (fun t i =>
    t.taggedLine (pa + 128 * i) ((data.drop (128 * i)).take 128) ((tags.drop (6 * i)).take 6)) s

/-- Data and tags are whole lines of one block (R381). -/
def taggedOk (pa len : Nat) (data tags : List Byte) : Bool :=
  pa % 128 == 0 && len % 128 == 0 && data.length == len && 128 * tags.length == 6 * len && decide (pa % 512 + len ≤ 512)

/-- PEER_ACCESS (R158, R381, R382): an access of a peer through a fabric port. -/
def execPeerAccess (peer : Nat) (pa : PortAddr) (len : Nat) (write : Bool) (data tags : List Byte) (s : State) : Answer :=
  .next (if 512 ≤ peer ∨ 16 ≤ pa.port ∨ s.linkUp (32 + pa.port) = false ∨ len = 0 then s
    else if tags = [] then s.outsideAccess true (0x660 + pa.port) pa.addr len write data
    else if write && taggedOk pa.addr len data tags then s.taggedBlock pa.addr data tags
    else s)

/-! ### The host window (R375, R376) -/

/-- A host port whose link is up. -/
def State.portUp (s : State) (port : Nat) : Bool := decide (port < 2) && s.linkUp port

/-- LPORT_POST (R376). -/
def execLportPost (port n : Nat) (value : Word) (s : State) : Answer :=
  .next (if s.portUp port && decide (n < 64) then s.lport n value else s)

/-- HOST_RECODE_PORT (R360, R375). -/
def execHostRecodePort (port : Nat) (record : List Byte) (s : State) : Answer :=
  .next (if s.portUp port && record.length == 32 then
      let (t, r) := s.submitRecode record true
      t.modCreel fun c => { c with hrcstat := BitVec.ofNat 2 r }
    else s)

/-- HOST_DECRYPTION_PORT (R375, R382). -/
def execHostDecryptionPort (port : Nat) (record : List Byte) (s : State) : Answer :=
  .next (if s.portUp port && record.length == 64 then
      let (t, r) := s.submitDecrypt record
      t.modCreel fun c => { c with dcstat := BitVec.ofNat 2 r }
    else s)

/-- EXPQ_SUBMIT (R437): supervisor code writes EXPQ. -/
def execExpqSubmit (core : Nat) (value : Word) (s : State) : Answer :=
  .next (if core < 32 then s.creelWrite (.supervisor core) 0x10488 value else s)

/-- REGISTER_WRITE (R5, R375, R390, R391): one aligned 8-byte write. -/
def execRegisterWrite (w : Writer) (offset size : Nat) (value : Word) (s : State) : Answer :=
  .next (if size ≠ 8 then s
    else match w with
      | .hostPort p => if s.portUp p then s.barWrite p offset value else s
      | .distaff => if s.distaffRuns then s.creelWrite .distaff offset value else s
      | .supervisor n => s.creelWrite (.supervisor n) offset value)

/-- MSIX_UNMASK (R377). -/
def execMsixUnmask (port vector : Nat) (s : State) : Answer :=
  .next (if s.portUp port && decide (vector < 72) then s.modPort port fun p => p.unmask vector else s)

end Sys2Proof.Machine
end

