-- ==== Sys2Proof/Machine/MatrixMem.lean ====
section
/-! DEFINITION. Loads and stores of tiles, pairs and accumulators (R328 .. R331, R339). -/

namespace Sys2Proof.Machine

/-- The base of row `i` of a tile or accumulator in memory: a + i × b. -/
def rowBase (a b : Word) (i : Nat) : Word := a + BitVec.ofInt 64 ((i : Int) * b.toInt)

/-- The rows of a tile or accumulator in memory: of row `i` its first `n i` elements; element (i, j) is number 64i + j. -/
def tileRows (a b : Word) (n : Nat → Nat) : List Row :=
  (List.range 64).map fun (i : Nat) => { base := rowBase a b i, pl := .positions fun j => j, is := List.range (n i), off := 64 * i }

/-- The format of the first of the lines at given addresses that fixes one. -/
def State.headFmt (s : State) (slot : Nat) (vas : List Word) : Option Fmt :=
  firstFmt ((vas.filterMap fun va => (s.access slot .read va true).toOption).map fun x => (x, s.accessLine slot x))

/-- A row whose line fixes no format takes that of the row before it (R429). -/
def fillFmts : Option Fmt → List (Option Fmt) → List (Option Fmt)
  | _, [] => []
  | p, f :: t => f.or p :: fillFmts (f.or p) t

/-- Whether a row begins in a line of format VQ2, so that it is eight indices, the weights of 64 elements (R60, R328; log entry 65);
by row. -/
def State.vq2Rows (s : State) (slot : Nat) (a b : Word) : List Bool :=
  let l := (List.range 64).map fun i => s.headFmt slot [rowBase a b i]
  (fillFmts (l.findSome? id) l).map fun f => f == some Fmt.vq2

/-- Elements that a row reads. -/
def rowReads (vq : List Bool) (i : Nat) : Nat := if vq.getD i false then 8 else 64

/-- The record of a load's zero-substituted lines (R429, R463). -/
def State.noteGathered (s : State) (g : Gathered) : State :=
  s.noteZeroed s.slot s.instrPc (BitVec.ofNat 64 s.cl.code ||| memInfo .read (g.first.elim false Xlate.host) 0 0) g.zeroed

/-- The value of weight `w` of a VQ2 index that was read (R60, R298), or of an element. An index in a row that does not begin in a VQ2
line names no one weight: its value is free (log entry 13). -/
def Got.weight (g : Got) (cb : Nat → BitVec 32) (w : Option Nat) : Val :=
  match w with
  | some j => if g.fmt == Fmt.vq2 then vq2Weight (cb (g.code.toNat % 256)) (g.code.toNat % 65536) j g.scale else decodeElem g.fmt g.code g.scale
  | none => decodeElem g.fmt g.code g.scale

/-- What a tile load puts at an element: of a line in the tile's format the element as it is, of another its value (R328). -/
def Got.tilePut (g : Got) (cb : Nat → BitVec 32) (f : Fmt) (w : Option Nat) : Put :=
  if g.poison then .supplied else if g.fmt == f then .move g.code g.scale else .value (g.weight cb w)

/-- SCN of the elements that are decoded into another format (R54). -/
def gotScn (f : Fmt) (l : List Got) : Flags :=
  Flags.all (l.map fun g => Flags.when (!g.poison && g.fmt != f && g.fmt.isScaled && g.scale == 0xFF) Flags.scn)


/-- Granules whose elements come from lines of another format or lie under different scales (R266). -/
def recoded (f : Fmt) (n : Nat) (at' : Nat → Option Got) : Bool :=
  (List.range ((n + f.perGranule - 1) / f.perGranule)).any fun g =>
    let l := ((List.range' (g * f.perGranule) f.perGranule).filter (· < n)).filterMap at' |>.filter fun x => !x.poison
    l.any (fun x => x.fmt != f) || (commonScale (l.map fun x => some x.scale)).isNone

/-- The late illegal operands of a tile load: a NONE line (R328). -/
def noneCheck (f : Fmt) (els : List (Nat × Got)) : Bool × Stop :=
  (f != Fmt.none && els.all fun p => p.2.poison || p.2.fmt != Fmt.none, illegalOperand 0x06 0 1 f.toNat)

/-- A tile load would need a VQ2 quantiser (R328). -/
def vq2Check (f : Fmt) (n : Nat) (at' : Nat → Option Got) : Bool × Stop :=
  (f != Fmt.vq2 || !recoded f n at', illegalOperand 0x05 0 7 f.toNat)

/-- Writes a loaded tile: its elements by place, formed under R266. -/
def State.loadTile (s : State) (d : RegF) (f : Fmt) (at' : Nat → Option (Got × Option Nat)) : State :=
  let n := tileSize f
  let r := formTile f 0 .rne false n (fun k => (at' k).elim .supplied fun g => g.1.tilePut s.myCtx.codebook f g.2) 0
  (s.writeDense d f r.elems r.scales).orFlags (r.flags ||| gotScn f (((List.range n).filterMap at').map Prod.fst))

/-- The elements of a dense tile of format `f` by place, with the weight of an index that each one is (R328). -/
def tileElems (vq : List Bool) (f : Fmt) (els : List (Nat × Got)) (k : Nat) : Option (Got × Option Nat) :=
  let rows := cutInto ((List.range 64).map (rowReads vq)) (els.map Prod.snd)
  if f == Fmt.vq2 then ((rows.getD (k / 8) [])[k % 8]?).map fun g => (g, none)
  else if vq.getD (k / 64) false then ((rows.getD (k / 64) [])[k % 64 / 8]?).map fun g => (g, some (k % 8))
  else ((rows.getD (k / 64) [])[k % 64]?).map fun g => (g, none)

/-- MLD, dense (R328). -/
def denseLoad (d a b : RegF) : Comp Unit := do
  let s ← get
  ofStop (firstOf (s.boundChecks [(d, 0)]))
  let vq := s.vq2Rows s.slot (s.readS a) (s.readS b)
  let g ← gatherRows s.slot .read (tileRows (s.readS a) (s.readS b) (rowReads vq)) true
  let t ← get
  let els := g.filled
  let f := (els.headD (0, Got.poisoned)).2.fmt
  let at' := tileElems vq f els
  ofStop (firstOf [vq2Check f (tileSize f) fun k => (at' k).map Prod.fst, noneCheck f els, t.fitCheck d (denseNeed f)])
  set ((t.loadTile d f at').noteGathered g)

/-- MLD, dense (R328). -/
def execMld (g : Guard) (d a b : RegF) (s : State) : Answer := run g 4 (denseLoad d a b) s

/-! ### Sparse tiles -/

/-- How metadata breaks R329. -/
inductive MetaErr where
  | repeated | order | code
deriving DecidableEq, Repr

/-- The positions that one group's bits name: two of two bits, or four of three bits. -/
def metaPositions (wide : Bool) (v : Nat) : List Nat :=
  if wide then (List.range 4).map fun i => v / 8 ^ i % 8 else (List.range 2).map fun i => v / 4 ^ i % 4

/-- The positions rise strictly. -/
def ascending : List Nat → Bool
  | a :: b :: t => decide (a < b) && ascending (b :: t)
  | _ => true

/-- What is wrong with one group's bits (R329). -/
def metaError (wide : Bool) (v : Nat) : Option MetaErr :=
  let p := metaPositions wide v
  if p.eraseDups.length ≠ p.length then some .repeated
  else if !ascending p then some .order
  else if wide && v / 4096 % 16 != 0 then some .code
  else none

/-- The bits of group `g` of a row's metadata. -/
def metaBits (wide : Bool) (v g : Nat) : Nat := if wide then v / 2 ^ (16 * g) % 2 ^ 16 else v / 2 ^ (4 * g) % 16

/-- The first malformed group: row, group and reason (R329). -/
def badMeta (wide : Bool) (rows : List Nat) : Option (Nat × Nat × MetaErr) :=
  rows.zipIdx.findSome? fun p =>
    (List.range (if wide then 8 else 16)).findSome? fun g => (metaError wide (metaBits wide p.1 g)).map fun e => (p.2, g, e)

/-- The malformed N:M metadata trap (R410). -/
def metaTrap (c : Word) (wide : Bool) (p : Nat × Nat × MetaErr) : Stop :=
  let reason := match p.2.2 with
    | .repeated => 0
    | .order => 1
    | .code => 2
  .trap 0x0015 (c + BitVec.ofNat 64 (if wide then 16 * p.1 + 2 * p.2.1 else 8 * p.1 + p.2.1 / 2))
    (at_ 16 p.1 ||| at_ 22 p.2.1 ||| at_ 26 reason ||| at_ 28 wide.toNat)

/-- The stored value that lands at column `c` of a row (R329). -/
def sparseSource (wide : Bool) (v c : Nat) : Option Nat :=
  let n := if wide then 4 else 2
  let m := if wide then 8 else 4
  ((metaPositions wide (metaBits wide v (c / m))).idxOf? (c % m)).map fun i => n * (c / m) + i

/-- Reads the metadata of 64 rows, raw (R258, R329), with what the instruction notes when it completes. -/
def loadMeta (slot : Nat) (c : Word) (n : Nat) : Nat → Nat → Comp (List (Nat × List (Word × Nat)))
  | 0, _ => pure []
  | k + 1, i => do
    let v ← ctxRead slot .read (c + BitVec.ofNat 64 (n * i)) n
    let t ← loadMeta slot c n k (i + 1)
    pure (v :: t)

/-- MLD, sparse (R329). -/
def sparseLoad (d a b rc : RegF) (wide : Bool) : Comp Unit := do
  let s ← get
  ofStop (firstOf (s.boundChecks [(d, 0)]))
  let g ← gatherRows s.slot .read (tileRows (s.readS a) (s.readS b) fun _ => 32) true
  let ms ← loadMeta s.slot (s.readS rc) (if wide then 16 else 8) 64 0
  let rows := ms.map Prod.fst
  let t ← get
  let els := g.filled
  let f := (els.headD (0, Got.poisoned)).2.fmt
  let at' (k : Nat) : Option Got :=
    (sparseSource wide (rows.getD (k / 64) 0) (k % 64)).bind fun j =>
      (els.find? fun p => p.1 == 64 * (k / 64) + j).map Prod.snd
  ofStop (firstOf [(!els.any fun p => p.2.fmt == Fmt.vq2, illegalOperand 0x04 0 1 Fmt.vq2.toNat), noneCheck f els,
    t.fitCheck d (denseNeed f)])
  match badMeta wide rows with
  | some p => throw (metaTrap (s.readS rc) wide p)
  | none =>
    set ((t.loadTile d f fun k => (at' k).map fun g => (g, none)).noteGathered g)
    noteReads s.slot (ms.flatMap Prod.snd)

/-- MLD of 64 bits (R238, R328, R329): MODE 0 is dense, MODE 1 is 2:4 and MODE 2 is 4:8. -/
def execMldSparse (g : Guard) (d a b rc : RegF) (mode : BitVec 2) (s : State) : Answer :=
  run g 8 (if mode == 0 then denseLoad d a b else sparseLoad d a b rc (mode == 2)) s

/-! ### Pairs -/

/-- Elements converted to FP32 (R330, R339), with SCN. -/
def gotsF32 (cb : Nat → BitVec 32) (l : List (Got × Option Nat)) : Flagged (List F32) := do
  Flagged.raise (gotScn Fmt.fp32 (l.map Prod.fst))
  l.mapM fun g => if g.1.poison then pure 0 else Flagged.of (rn (g.1.weight cb g.2))

/-- The columns of 64 of a list of words. -/
def columnsOf (n : Nat) (l : List F32) : Mat := (List.range n).map fun c => (l.drop (64 * c)).take 64

/-- MLDF (R330). -/
def pairLoad (d a b : RegF) : Comp Unit := do
  let s ← get
  let n := (s.readS b).toNat
  ofStop (firstOf (s.boundChecks [(d, 0)]))
  ofStop (firstOf [(decide (n ≤ 64), illegalOperand 0x0D n 2), s.rankCheck n, s.fitCheck d (pairNeed n)])
  -- a pair that begins in a line of VQ2 is indices of eight weights each (R60, R298; log entry 65)
  let vq := n != 0
    && s.headFmt s.slot ((List.range (n / 4 + 1)).map fun i => s.readS a + BitVec.ofNat 64 (128 * i)) == some Fmt.vq2
  let g ← gather s.slot .read (s.readS a) (.positions fun i => i) true (List.range (if vq then 16 * n else 128 * n))
  let t ← get
  let els := g.filled
  match els.find? fun p => !p.2.fmt.isReal && !p.2.poison with
  | some p => throw (illegalOperand 0x06 0 1 p.2.fmt.toNat)
  | none =>
    let r := (gotsF32 t.myCtx.codebook (els.flatMap fun p =>
      if vq then (List.range 8).map fun j => (p.2, some j) else [(p.2, none)])).go
    let cols := columnsOf (2 * n) r.1
    set (((t.writePair d (cols.take n, cols.drop n)).orFlags r.2).noteGathered g)

/-- MLDF (R330). -/
def execMldf (g : Guard) (d a b : RegF) (s : State) : Answer := run g 4 (pairLoad d a b) s

/-- MSTF (R330). -/
def pairStore (d a b : RegF) : Comp Unit := do
  let s ← get
  ofStop (firstOf (s.boundChecks [(d, 0)]))
  let t := s.tile d
  ofStop (firstOf [s.kindCheck d 0 .factor, (decide (t.rank ≤ (s.readS b).toNat), illegalOperand 0x0D t.rank 2)])
  let x : Strip := { tag := { fmt := Fmt.fp32, vsum := vsValid, blk := 0 }, elems := t.elems, scales := [] }
  let _ ← scatter s.slot .write (s.readS a) (.positions fun i => i) true Fmt.fp32 0 0
    ((List.range (128 * t.rank)).map fun i => (i, x.selem i)) 0

/-- MSTF (R330). -/
def execMstf (g : Guard) (d a b : RegF) (s : State) : Answer := run g 4 (pairStore d a b) s

/-! ### Storing rows -/

/-- Checks every translation of a store's rows before the first row is written (R408 step 10, R421). -/
def checkRows (slot : Nat) (f : Fmt) (rows : List Row) : Comp (List Xlate) := do
  update fun t => t.prewalks slot (rows.map Row.base)
  let s ← get
  let rs ← ofDeny (allOk (rows.map (s.rowSpots slot .write)))
  update fun t => t.prewalks slot ((rs.flatMap Prod.fst).map Spot.va)
  let s ← get
  ofDeny (allOk ((rows.zip rs).flatMap fun p =>
    p.2.1.map (s.spotReach slot .write)
      ++ (match p.2.2 with
        | some q => if q.baseBad f p.1.base then [.error (s.misaligned slot .write p.1.base)] else []
        | none => [])))

/-- Stores one row of a strip, as a VST stores it (R304, R331). -/
def storeRow (slot : Nat) (x : Strip) (r : Row) : Comp Unit := do
  let _ ← scatter slot .write r.base r.pl true x.tag.fmt 0 0
    (r.is.map fun j => (j, x.selem (r.off / 64 * rowSize x.tag.fmt + j))) 0

/-- Stores the rows of a strip one after another, and returns why some of them stop; those leave the state as it is. -/
def storeRows (slot : Nat) (x : Strip) : List Row → Comp (List Stop)
  | [] => pure []
  | r :: t => do
    let s ← get
    let bad ← tryCatch (do storeRow slot x r; pure []) fun e => do set s; pure [e]
    return bad ++ (← storeRows slot x t)

/-- The order in which the stops of a store's rows decide (R408, R421): a line in TRANSIT is waited for first, a class 2 cause comes
before the conditions of step 11, and space in the Provisional Line Buffer is the last. -/
def stopOrder : Stop → Nat
  | .wait (.transit _) => 0
  | .fault .. | .fatal .. => 1
  | .trap 0x0017 .. => 2
  | .trap .. => 3
  | .wait _ => 4

/-- The stop that decides: the first in order, then of the lowest row. -/
def worstStop : List Stop → Option Stop
  | [] => none
  | x :: t =>
    match worstStop t with
    | some y => if stopOrder y < stopOrder x then some y else some x
    | none => some x

/-- MST and AST (R331, R339, R343): row after row, or nothing where a row waits, faults or traps: step 11 of R408 checks every line
before the first write. -/
def stripStore (a b : RegF) (x : Strip) : Comp Unit := do
  let s ← get
  let rows := tileRows (s.readS a) (s.readS b) fun _ => rowSize x.tag.fmt
  let xs ← checkRows s.slot x.tag.fmt rows
  let s ← get
  let bad ← storeRows s.slot x rows
  match worstStop bad with
  | some e =>
    set (s.touchStore xs fun _ => false)
    throw e
  | none => pure ()

/-- MST (R331). -/
def denseStore (d a b : RegF) : Comp Unit := do
  let s ← get
  ofStop (firstOf (s.boundChecks [(d, 0)]))
  ofStop (firstOf [s.kindCheck d 0 .dense])
  stripStore a b (s.tile d).strip

/-- MST (R331). -/
def execMst (g : Guard) (d a b : RegF) (s : State) : Answer := run g 4 (denseStore d a b) s

/-! ### Accumulators -/

/-- ALD (R339). -/
def accLoad (d a b : RegF) : Comp Unit := do
  let s ← get
  let vq := s.vq2Rows s.slot (s.readS a) (s.readS b)
  let g ← gatherRows s.slot .read (tileRows (s.readS a) (s.readS b) (rowReads vq)) true
  let t ← get
  let els := g.filled
  let f := (els.headD (0, Got.poisoned)).2.fmt
  match els.find? fun p => !p.2.poison && (p.2.fmt == Fmt.none || p.2.fmt.isReal != f.isReal) with
  | some p => throw (illegalOperand 0x06 0 1 p.2.fmt.toNat)
  | none =>
    let gs := els.map Prod.snd
    if f.isReal then
      let at' := tileElems vq Fmt.fp32 els
      let r := (gotsF32 t.myCtx.codebook ((List.range 4096).filterMap at')).go
      set (((t.setAcc d (.put .fp32 r.1)).orFlags r.2).noteGathered g)
    else
      let w := gs.map fun g => if g.poison then 0 else (match decodeElem g.fmt g.code 0x7F with
        | .fin s m e => BitVec.ofInt 32 ((if s then -1 else 1) * (m <<< e.toNat : Nat))
        | _ => 0)
      set ((t.setAcc d (.put .i32 w)).noteGathered g)

/-- ALD (R339). -/
def execAld (g : Guard) (d a b : RegF) (s : State) : Answer := run g 4 (accLoad d a b) s

/-- The words of an accumulator as a strip of FP32 or I32 elements (R339). -/
def Acc.strip (x : Acc) : Strip :=
  { tag := { fmt := if x.kind == .i32 then Fmt.i32 else Fmt.fp32, vsum := vsValid, blk := 0 }
    elems := x.words.map fun p => (p.1, p.2.setWidth 64), scales := [] }

/-- AST (R339). -/
def execAst (g : Guard) (d a b : RegF) (s : State) : Answer :=
  run g 4 (do stripStore a b ((← get).acc d).strip) s

end Sys2Proof.Machine
end

