-- ==== Sys2Proof/Machine/Recoding.lean ====
section
/-! DEFINITION. The recoding engines: recode jobs line by line (R70, R131, R155, R360, R427), ply folding (R132, R133), and export
jobs (R437, R438). -/

namespace Sys2Proof.Machine

/-- The source number under which the engines write (R396). The spec does not say which of the eight engines writes a completion
record or an exported line: the model names engine 0 (DESIGN CHOICE, log entry 67). -/
def recodeSrc : Nat := 0x610

/-- What an engine meets at a virtual address of a job's address space. -/
inductive JobPage where
  | wait
  | none
  | page (x : Xlate)

/-- The engines hold no translation: they use no TLB or walk cache of a bobbin (log entry 49). -/
def recodeUnit : TlbUnit := .bobbin 8

/-- The engine's walk of the device tables (R125, R131). -/
def State.jobPage (s : State) (asd : Nat) (va : Nat) : JobPage :=
  let d := s.asd asd
  if !canonical (BitVec.ofNat 64 va) || d.isHost va then .none
  else match s.walk .read recodeUnit.bob asd va 3 (d.root / 2 ^ 21 * 2 ^ 21) with
    | .error e => if e.stop matches .wait _ then .wait else .none
    | .ok l =>
      match s.entryOf recodeUnit .read asd d va l with
      | .error e => if e.stop matches .wait _ then .wait else .none
      | .ok e =>
        let raw := e.pa + (va - e.va)
        if s.region raw == .outside then .none
        else
          -- R122: a line of host memory carries no tag
          let e := if s.region raw == .host then { e with par := { e.par with typed := false } } else e
          .page { va := va, pa := s.homeOf raw, raw := raw, unit := recodeUnit, host := false, entry := e, walked := false, path := []
                  setD := false }

/-! ### Recode jobs -/

/-- Virtual address of line `i` of a job. -/
def RecJob.lineVa (j : RecJob) (i : Nat) : Nat := (j.va + 128 * i) % 2 ^ 64

/-- The engine refuses the page (R76, R77, R131). -/
def RecJob.refuses (j : RecJob) (x : Xlate) : Bool :=
  !x.typed || !x.par.rcod || x.entry.folded || !slotHolds j.fmt x.par.w

/-- A line narrowed into format `f` (R87, R131): the elements under scales chosen anew. -/
def Line.narrow (l : Line) (w : Nat) (f : Fmt) (rm : Rm) : LineTag × List Byte :=
  let old : Fmt := l.tag.fmt
  let n := 128 / w
  let blk := if !f.isScaled then 0 else if old.isScaled then min l.tag.blk (Nat.log2 (sectorsOf f.width w)) else 0
  let per := if f.isScaled then f.perGranule <<< blk else n
  let vals := (List.range n).map fun k => decodeElem old (l.elem old k) (l.scaleAt old k)
  let blocks := (List.range ((n + per - 1) / per)).map fun b =>
    encodeBlock f rm rm false (((vals.drop (b * per)).take per).map fun v => { val := v, live := true }) 0
  let codes := blocks.flatMap fun r => r.1
  let bytes := codes.zipIdx.foldl (fun m p => setBitsAt m f.width (p.2 * f.width) p.1.toNat) ([] : SMap Byte)
  let slot (i : Nat) : Byte :=
    if f.isScaled ∧ i < sectorsOf f.width w then ((blocks[i / 2 ^ blk]?).map fun r => r.2.1).getD 0x7F else 0x7F
  ({ desc := descOf f 0 blk, sc := slot 3 ++ slot 2 ++ slot 1 ++ slot 0 }, bytes.getList 0 0 128)

/-- Replaces the job at the head of the queue. -/
def State.setJob (s : State) (j : RecJob) : State := { s with recJobs := j :: s.recJobs.tail }

/-- The engine lets the line be (R131, R427). -/
def RecJob.skip (j : RecJob) : RecJob := { j with next := j.next + 1, skipped := j.skipped + 1, stuckSince := none }

/-- The line's tag changes (R131). -/
def RecJob.did (j : RecJob) : RecJob := { j with next := j.next + 1, rewritten := j.rewritten + 1, stuckSince := none }

/-- Lines from a page's line on that lie behind it (R131). -/
def linesBehind (va base size : Nat) : Nat := max 1 ((base + size - va) / 128)

/-- The page is refused and the job goes on with the next one (R131). -/
def RecJob.refuse (j : RecJob) (base size : Nat) : RecJob :=
  { j with next := min j.lines (j.next + linesBehind (j.lineVa j.next) base size), refused := j.refused + 1, stuckSince := none }

/-- What the engine does at a line that the host owns (R427): it waits, and after BITMO goes on as `past` says. -/
def State.engineStuck (s : State) (j past : RecJob) : State :=
  match j.stuckSince with
  | none => s.setJob { j with stuckSince := some s.timeNs }
  | some t => if t + s.bitmoNs ≤ s.timeNs then s.setJob past else s

/-- Stores of the line that have been issued are performed, and the line is recalled from the caches, before an engine writes it
(R21, R155, R156). -/
def State.settleLine (s : State) (pa : Nat) : State :=
  ((s.performWhere fun a => a.pa / 128 == pa / 128).scrub pa).recall (pa / 128)

/-- The engine's act on a line of an accepted page (R70, R131, R427). -/
def State.recodeLine (s : State) (j : RecJob) (x : Xlate) : State :=
  if s.ownedByHost x.pa then s.engineStuck j j.skip
  else
    let s1 := s.settleLine x.pa
    let l := s1.lineAt x.pa
    let f : Fmt := l.tag.fmt
    match l.tag.cls true x.par.w with
    | .zero | .vacant => (s1.putLine x.pa { l with tag := { desc := descOf j.fmt l.tag.vcls 0, sc := 0x7F7F7F7F } }).setJob j.did
    | .valid =>
      if f != Fmt.none && (Fmt.width j.fmt) < f.width then
        let (t, b) := l.narrow x.par.w j.fmt (if j.rtz then .rtz else .rne)
        (s1.putLine x.pa { l with tag := l.tag.withClass 3 }).setJob { j with transit := some (x.pa / 128, t, b) }
      else s1.setJob j.skip
    | _ => s1.setJob j.skip

/-! ### Ply -/

/-- First address of page number `k` of a job, counted in 64 KiB from the first whole page (R133). -/
def RecJob.plyVa (j : RecJob) (k : Nat) : Nat := (j.va + 65535) / 65536 * 65536 + 65536 * k

/-- First address behind the job's range. -/
def RecJob.stop (j : RecJob) : Nat := j.va + 128 * j.lines

/-- The pages of a group that may be folded, and their ply factor: whole pages of one Page Attribute Record, unfolded and with MIG
as given, one after another in the range and in one table (R132, R133). -/
def State.plyGroup (s : State) (j : RecJob) (va : Nat) (mig : Bool) : Option (List Xlate) :=
  match s.jobPage j.asd va with
  | .page x =>
    let p := x.par.factor
    if p ≤ 1 || j.refuses x || x.entry.va != va || decide (j.stop < va + p * x.entry.size) then none
    else
      let pages := (List.range p).filterMap fun i => match s.jobPage j.asd (va + i * x.entry.size) with
        | .page y =>
          if y.entry.size == x.entry.size && y.par == x.par && !y.entry.folded && y.entry.leaf == x.entry.leaf + 8 * i
            && y.entry.mig == mig && y.entry.va == va + i * x.entry.size
          then some y else none
        | _ => none
      if pages.length = p then some pages else none
  | _ => none

/-- Line `k` of the pages meets the conditions of R132. -/
def State.plyFitsAt (s : State) (ps : List Xlate) (k : Nat) : Bool :=
  match ps with
  | [] => false
  | x :: _ =>
    let d := (s.tagAt (x.entry.pa + 128 * k)).desc
    ps.all fun y =>
      let t := s.tagAt (y.entry.pa + 128 * k)
      t.desc == d && decide (sectorsOf (Fmt.width t.fmt) y.par.w ≤ 4 / y.par.factor)

/-- The pages meet the conditions of R132. -/
def State.plyFits (s : State) (ps : List Xlate) : Bool :=
  match ps with
  | [] => false
  | x :: _ => (List.range (x.entry.size / 128)).all (s.plyFitsAt ps)

/-- A frame into which pages of `size` bytes can be folded. -/
def State.plyFrameOk (s : State) (ps : List Xlate) (size f : Nat) : Bool :=
  f % size == 0 && s.region f == .hbm && s.region (f + size - 1) == .hbm && ps.all fun y => y.entry.pa != f

/-- Line `k` of the folded frame (R132). -/
def State.plyLine (s : State) (ps : List Xlate) (k : Nat) : Line :=
  let p := ps.length
  let lines := ps.map fun y => s.lineAt (y.entry.pa + 128 * k)
  let at' (i : Nat) : Line := lines.getD i { tag := .wiped, bytes := [] }
  let slot (i : Nat) : BitVec 8 := (at' (i / (4 / p))).tag.slot (i % (4 / p))
  { tag := { desc := (at' 0).tag.desc, sc := slot 3 ++ slot 2 ++ slot 1 ++ slot 0 }
    bytes := SMap.tabulate 0 128 fun i => (at' (i / (128 / p))).byte (i % (128 / p)) }

/-- The leaves of a group are written, and the translations go: MIG set in them, or clear (R133). -/
def State.groupMig (s : State) (ps : List Xlate) (on : Bool) : State :=
  ps.foldl (fun t y => ((if on then t.setLeafBits y.entry.leaf 0x80 else t.clearMig recodeSrc y.entry.leaf)).forgetLeaf y.entry.leaf) s

/-- The job passes a group, folded or not. -/
def RecJob.pastGroup (j : RecJob) (ps : List Xlate) (freed : Nat) : RecJob :=
  let size := (ps.head?.map fun y => y.entry.size).getD 65536
  { j with next := j.next + ps.length * size / 65536, freed := j.freed + freed, fold := none, stuckSince := none }

/-- Step 1 of R133: accesses already translated are performed, MIG is set in the entries, and their translations go. It waits for a
frame, and for the lines of the entries. -/
def State.foldBegin (s : State) (j : RecJob) (ps : List Xlate) : State :=
  let f := Config.plyFrame s.stepNo
  let size := (ps.head?.map fun y => y.entry.size).getD 65536
  if !s.plyFrameOk ps size f || ps.any fun y => s.physHeld y.entry.leaf then s
  else (((s.ctxs.map Prod.fst).foldl State.performAll s).groupMig ps true).setJob { j with fold := some (f, 0) }

/-- Step 2 of R133: one line of each page is copied with its tag into the frame, once none of the lines is in TRANSIT or owned by the
host; a fold that the host stops beyond BITMO, or whose lines no longer meet R132, is given up. -/
def State.foldLine (s : State) (j : RecJob) (ps : List Xlate) (f k : Nat) : State :=
  let lines := (f + 128 * k) :: ps.map fun y => y.entry.pa + 128 * k
  let giveUp (t : State) : State := (t.groupMig ps false).setJob (j.pastGroup ps 0)
  if lines.any s.ownedByHost then
    (match j.stuckSince with
      | some t => if t + s.bitmoNs ≤ s.timeNs then giveUp s else s
      | none => s.engineStuck j j)
  else if lines.any s.physHeld then s
  else
    let s1 := lines.foldl State.settleLine s
    if !s1.plyFitsAt ps k then giveUp s1
    else (s1.putLine (f + 128 * k) (s1.plyLine ps k)).setJob { j with fold := some (f, k + 1), stuckSince := none }

/-- Steps 3 and 4 of R133: the entries name the frame and their slots, with MIG clear, and the translations go again. -/
def State.foldEnd (s : State) (j : RecJob) (ps : List Xlate) (f : Nat) : State :=
  (ps.zipIdx.foldl (fun t p => (t.writeLeaf recodeSrc p.1.entry.leaf f p.2).forgetLeaf p.1.entry.leaf) s).setJob (j.pastGroup ps ps.length)

/-- The ply part of a job: one step of a group's fold, or one page that begins none (R133, R360). -/
def State.plyStep (s : State) (j : RecJob) : State :=
  match s.plyGroup j (j.plyVa (j.next - j.lines)) j.fold.isSome, j.fold with
  | none, _ => s.setJob { j with next := j.next + 1, fold := none, stuckSince := none }
  | some ps, none => if s.plyFits ps then s.foldBegin j ps else s.setJob (j.pastGroup ps 0)
  | some ps, some (f, k) =>
    if ((ps.head?.map fun y => y.entry.size).getD 0) ≤ 128 * k then s.foldEnd j ps f else s.foldLine j ps f k

/-- The pages of a frame that an engine may unfold: folded under one record, each in its own slot, with MIG clear (R133). -/
def State.unfoldGroup (s : State) (asd : Nat) (vas : List Nat) : Option (List Xlate) :=
  let ps := vas.filterMap fun va => match s.jobPage asd va with
    | .page x => if x.entry.folded && x.typed && !x.entry.mig && x.entry.va == va then some x else none
    | _ => none
  match ps with
  | [] => none
  | x :: _ =>
    if ps.length == vas.length && (ps.all fun y => y.entry.pa == x.entry.pa && y.par == x.par)
      && (ps.map fun y => y.entry.pslot).Nodup then some ps else none

/-- An engine begins to unfold pages (R133): the steps of a fold in reverse, MIG first. Each page then moves to a frame of its own. -/
def State.unfoldBegin (s : State) (asd : Nat) (vas : List Nat) : State :=
  match s.unfoldGroup asd vas with
  | none => s
  | some ps =>
    let frames := ps.zipIdx.map fun p => Config.unfoldFrame s.stepNo p.2
    if (ps.any fun y => s.physHeld y.entry.leaf) || !frames.Nodup
      || !(ps.zip frames).all fun p => s.plyFrameOk ps p.1.entry.size p.2 then s
    else
      let s1 := ((s.ctxs.map Prod.fst).foldl State.performAll s).groupMig ps true
      { s1 with moves := s1.moves ++ (ps.zip frames).map fun p =>
          { hank := none, factor := p.1.par.factor, pslot := p.1.entry.pslot, asd := asd, va := p.1.entry.va, size := p.1.entry.size
            leaf := p.1.entry.leaf, src := p.1.entry.pa, dst := p.2, next := 0 } }

/-- Every line, and for ply every page, has been treated. -/
def RecJob.finished (j : RecJob) : Bool :=
  j.transit.isNone && decide (j.lines ≤ j.next) && (!j.ply || decide (j.stop < j.plyVa (j.next - j.lines) + 65536))

/-- The address that the job's next step begins with. -/
def RecJob.here (j : RecJob) : Nat := if j.lines ≤ j.next then j.plyVa (j.next - j.lines) else j.lineVa j.next

/-- RECODE_LINE_REWRITE (R70, R131): the engine of a stack takes the next step of the job at the head of the queue. A line outside
HBM4 has no stack: R131 leaves open which engine treats it, and the model takes the one that bits [14:12] of its address name
(DESIGN CHOICE, log entry 67). -/
def State.recodeStep (s0 : State) (stack : Nat) : State :=
  let s := match s0.recJobs with
    | j :: _ => if j.transit.isNone && !j.finished then s0.prewalk recodeUnit j.asd (BitVec.ofNat 64 j.here) else s0
    | [] => s0
  match s.recJobs with
  | [] => s
  | j :: _ =>
    match j.transit with
    | some (n, t, b) =>
      if stackOf (n * 128) != stack then s
      else if (s.tagAt (n * 128)).vcls = 3 then
        ((s.putLine (n * 128) { tag := t, bytes := SMap.setList 0 [] 0 b }).setJob { j.did with transit := none }).flushPhys (n * 128)
      else (s.setJob { j.skip with transit := none }).flushPhys (n * 128)
    | none =>
      if j.finished then s
      else if j.lines ≤ j.next then s.plyStep j
      else
        let va := j.lineVa j.next
        match s.jobPage j.asd va with
        | .wait => s
        | .none => s.setJob (j.refuse (va / 65536 * 65536) 65536)
        | .page x =>
          if j.refuses x then s.setJob (j.refuse x.entry.va x.entry.size)
          else if x.entry.mig || stackOf x.pa != stack then s
          else s.recodeLine j x

/-- RECODE_LINE_REWRITE (R70). -/
def execRecodeLineRewrite (stack : Nat) (s : State) : Answer := .next (s.recodeStep stack)

/-- A completion record of 64 bytes: counts, and then 1 as the last write, which wakes waiters (R360, R438). -/
def State.writeCompletion (s : State) (pa : Nat) (counts : List Nat) : State :=
  let done := 8 * counts.length
  (s.physWrite recodeSrc pa (counts.flatMap (leBytes 8))).physWrite recodeSrc (pa + done) (leBytes 8 1)

/-- RECODE_JOB_COMPLETE (R360). -/
def State.recodeDone (s : State) : State :=
  match s.recJobs with
  | j :: l =>
    if j.finished then
      let t := State.writeCompletion { s with recJobs := l } j.cmpl [j.rewritten, j.skipped, j.refused, j.freed]
      if j.fromHost then t.message 3 else t
    else s
  | [] => s

/-- RECODE_JOB_COMPLETE (R360). -/
def execRecodeJobComplete (s : State) : Answer := .next s.recodeDone

/-! ### Export jobs -/

/-- What an export job has done so far (R438). -/
structure Exported where
  s : State
  pages : Nat
  zeroed : Nat
  refused : Nat

/-- Bytes of an exported line (R438): none where the line is zero-filled, since no conversion leads from NONE or VQ2 to a real format
or to VQ2. -/
def Line.exported (l : Line) (x : Xlate) : Option (List Byte) :=
  let f : Fmt := l.tag.fmt
  let g : Fmt := x.par.expf
  match l.tag.cls x.typed x.par.w with
  | .zero | .vacant => some (List.replicate 128 0)
  | .valid =>
    if !x.typed then some (l.bytes.getList 0 0 128)
    else if f == g && !g.isScaled then
      some ((List.range (128 / x.par.w)).flatMap fun k => leBytes x.par.w (l.elem f k).toNat)
    else if f == Fmt.none || g == Fmt.none || f == Fmt.vq2 || g == Fmt.vq2 then none
    else some ((List.range (128 / x.par.w)).flatMap fun k =>
      leBytes x.par.w (encodeUnder g .rne 0x7F (decodeElem f (l.elem f k) (l.scaleAt f k))).1.toNat)
  | _ => none

/-- An exported line is stored without its tag (R438): only a POISON line, which shows no bytes, becomes VALID (R430, R476). -/
def State.putExported (s : State) (pa : Nat) (b : List Byte) : State :=
  match s.region pa with
  | .host => s.setBytes pa b
  | .creel | .outside => s
  | _ =>
    let s1 := s.settleLine pa
    let l := s1.lineAt pa
    (if l.tag.vcls = 4 then s1.physWriteLine recodeSrc pa b else s1.putLine pa { l with bytes := SMap.setList 0 [] 0 b }).wakeLine pa

/-- One line of an export or a tagged copy (R156, R438). -/
def Exported.line (tagged : Bool) (x : Xlate) (dst : Nat) (d : Exported) (k : Nat) : Exported :=
  let y := { x with va := x.va + 128 * k, pa := x.pa + 128 * k }
  let t := ((d.s.performWhere fun a => a.pa / 128 == y.pa / 128).scrub y.pa).notePort y
  let l := t.pageLine y
  let q := t.homeOf (dst + 128 * k)
  if tagged && x.typed then
    match t.region q with
    | .host => { d with s := (t.setBytes q (l.bytes.getList 0 0 128)).wakeLine q }
    | .creel | .outside => { d with s := t }
    | _ => { d with s := ((t.settleLine q).putLine q l).wakeLine q }
  else match l.exported x with
    | some b => { d with s := t.putExported q b }
    | none => { d with s := t.putExported q (List.replicate 128 0), zeroed := d.zeroed + 1 }

/-- The engines refuse the page (R438). -/
def ExpJob.refuses (j : ExpJob) (x : Xlate) : Bool :=
  !x.entry.mig || (!j.tagged && x.typed && (Fmt.width x.par.expf) != 8 * x.par.w)

/-- Page `i` waits: a table line or a line of the page or of its destination is in TRANSIT, or the host owns a line (R70, R427). -/
def ExpJob.stalls (j : ExpJob) (s : State) (i : Nat) : Bool :=
  match s.jobPage j.asd ((j.va + 65536 * i) % 2 ^ 64) with
  | .wait => true
  | .none => false
  | .page x => !j.refuses x && (List.range 512).any fun k =>
    s.physHeld (x.pa + 128 * k) || s.physHeld (s.homeOf (j.dst + 65536 * i + 128 * k))

/-- One page of a job (R438). -/
def ExpJob.page (j : ExpJob) (d : Exported) (i : Nat) : Exported :=
  let va := (j.va + 65536 * i) % 2 ^ 64
  let d := { d with s := d.s.prewalk recodeUnit j.asd (BitVec.ofNat 64 va) }
  match d.s.jobPage j.asd va with
  | .page x =>
    if j.refuses x then { d with refused := d.refused + 1 }
    else
      let r := (List.range 512).foldl (Exported.line j.tagged x (j.dst + 65536 * i)) d
      { r with pages := r.pages + 1 }
  | _ => { d with refused := d.refused + 1 }

/-- EXPORT_JOB_COMPLETE (R438): the job at the head of the queue exports its pages and completes. -/
def State.exportDone (s : State) : State :=
  match s.expJobs with
  | j :: l =>
    if (List.range j.pages).any (j.stalls s) then s
    else
      let d := (List.range j.pages).foldl j.page { s := { s with expJobs := l }, pages := 0, zeroed := 0, refused := 0 }
      d.s.writeCompletion j.cmpl [d.pages, d.zeroed, d.refused]
  | [] => s

/-- EXPORT_JOB_COMPLETE (R438). -/
def execExportJobComplete (s : State) : Answer := .next s.exportDone

end Sys2Proof.Machine
end

