-- ==== Sys2Proof/Machine/Reduce.lean ====
section
/-! DEFINITION. The strip softmax, reductions, scan, permutes and mask instructions of the V cluster (R88, R89, R312 .. R316). -/

namespace Sys2Proof.Machine

/-- One level of PairTree (R88): positions 2j and 2j + 1 combine; an absent one yields the other. -/
def pairLevel {α : Type} (f : α → α → Flagged α) : List (Option α) → Flagged (List (Option α))
  | x :: y :: t => do
    let z ← match x, y with
      | some a, some b => some <$> f a b
      | some a, none => pure (some a)
      | none, b => pure b
    return z :: (← pairLevel f t)
  | l => pure l

/-- The levels of PairTree until one position is left. -/
def pairLevels {α : Type} (f : α → α → Flagged α) : Nat → List (Option α) → Flagged (Option α)
  | 0, l => pure (l.headD none)
  | _, [] => pure none
  | _, [x] => pure x
  | n + 1, l => do pairLevels f n (← pairLevel f l)

/-- PairTree over positions 0 .. VL − 1; none when every position is absent (R88). -/
def pairTree {α : Type} (f : α → α → Flagged α) (l : List (Option α)) : Flagged (Option α) := pairLevels f l.length l

/-- The value at every position, absent where it is not active. -/
def State.positions {α : Type} (s : State) (mask : BitVec 4) (f : Nat → α) : List (Option α) :=
  (List.range s.vl).map fun i => if s.active mask i then some (f i) else none

/-- The FP32 code of FMax (R84). -/
def f32Max (x y : F32) : F32 := (rn (Val.fmax x.val y.val)).1

/-- The canonical NaN of FP32. -/
def f32Nan : F32 := 0x7FC00000
/-- −∞. -/
def f32NegInf : F32 := 0xFF800000

/-- What VSSMX computes (R312): the elements, c, m′ and z′. `xs` are the active FP32 inputs in place. -/
def softmax (xs : List (Option F32)) (m z : F32) : Flagged (List (Option F32) × F32 × F32 × F32) := do
  let t ← pairTree (fun a b => pure (f32Max a b)) xs
  if m.val.isNan || xs.any (fun x => x.elim false fun v => v.val.isNan) then
    pure (xs.map fun x => x.map fun _ => f32Nan, f32Nan, f32Nan, f32Nan)
  else
    let m' := t.elim m (f32Max m)
    let (y, c) ←
      if m' = f32NegInf then pure (xs.map fun x => x.map fun _ => (0 : F32), (0x3F800000 : F32))
      else do
        let ex (x : F32) : Flagged F32 := do
          let d ← Flagged.of (f32Sub x m')
          Flagged.of (rnOf (Val.exp2 d.val))
        let c ← ex m
        let y ← xs.mapM fun x => match x with
          | some v => some <$> ex v
          | none => pure none
        pure (y, c)
    let sm ← pairTree (fun a b => Flagged.of (f32Add a b)) y
    let z' ← Flagged.of (f32Fma z c (sm.getD 0))
    pure (y, c, m', z')

/-- VSSMX (R312). -/
def softmaxVec (d a b : RegF) (m : VMods) (s : State) : Except Stop State := do
  let xs ← s.openVec [fieldA a m] [fieldD d m] fun _ =>
    [s.vlCheck Fmt.fp32 0, s.keepCheck (fieldD d m) m.z (s.active m.mask) Fmt.fp32]
  let x := (xs.headD { field := fieldA a m, strip := .initial, entry := none }).strip
  firstOf (s.vlChecks xs ++ [s.vlCheck Fmt.fp32 0] ++ xs.map (fun y => fmtCheck y fun f => f.isReal && f != Fmt.vq2)
    ++ [s.keepCheck (fieldD d m) m.z (s.active m.mask) Fmt.fp32] ++ s.countChecks xs)
  let is := s.actives m.mask
  let conv := is.map fun i => rn (x.val i)
  let m0 : F32 := (s.readS b).extractLsb' 0 32
  let z0 : F32 := (s.readS m.vc).extractLsb' 0 32
  let pos := s.positions m.mask fun i => (rn (x.val i)).1
  let r := if s.vl = 0 then (([], 0x3F800000, m0, z0), 0) else (softmax pos m0 z0).go
  let ys := r.1.1
  let c := r.1.2.1
  let m' := r.1.2.2.1
  let z' := r.1.2.2.2
  let t ← s.writeVec (fieldD d m) m.z (s.active m.mask) (queuesOf [fieldA a m])
    { fmt := Fmt.fp32, blk := 0, rm := Rm.ofCode m.rm.toNat, ef := false, vsum := computedVsum xs is
      flags := scnOf x is ||| Flags.all (conv.map Prod.snd) ||| r.2
      put := fun i => .value (F32.val ((ys.getD i none).getD 0)) }
  .ok ((t.writeS b (c ++ m')).writeS m.vc (z'.setWidth 64))

/-- VSSMX (R312). -/
def execVssmx (g : Guard) (d a b : RegF) (m : VMods) (s : State) : Answer := settle g 8 (softmaxVec d a b m) s

/-! ### Reductions and scan -/

/-- The three reductions of R313. -/
inductive Reduce where
  | sum | max | min
deriving DecidableEq, Repr

/-- The reduction of real elements in FP64 or FP32 (R313). -/
def Reduce.real (op : Reduce) (f : Fmt) (l : List (Option Val)) : Flagged Word := do
  let r ← pairTree (fun a b => match op with
    | .sum => do
      let t ← Flagged.of (Val.add .rne a b)
      let c ← Flagged.of (roundTo f .rne t)
      pure (decodeElem f c 0x7F)
    | .max => pure (Val.fmax a b)
    | .min => pure (Val.fmin a b)) l
  match r with
  | some v => pure (roundTo f .rne v).1
  | none => pure (if op = .sum then 0 else canonNan f)

/-- The reduction of integer elements in I64 or U64 (R313). -/
def Reduce.int (op : Reduce) : List Int → Int
  | [] => 0
  | x :: t => match op with
    | .sum => (x :: t).sum
    | .max => t.foldl (fun a b => if a ≤ b then b else a) x
    | .min => t.foldl (fun a b => if a ≤ b then a else b) x

/-- The result of a reduction over the active elements, and its flags (R313). -/
def State.reduce (s : State) (op : Reduce) (mask : BitVec 4) (x : Strip) : Word × Flags :=
  let f := x.tag.f
  let is := s.actives mask
  if f.isInt then (BitVec.ofInt 64 (op.int (is.map fun i => (x.val i).toInt)), 0)
  else
    let cf := if f == Fmt.fp64 then Fmt.fp64 else Fmt.fp32
    let conv (i : Nat) : Val × Flags :=
      let r := roundTo cf .rne (x.val i)
      (decodeElem cf r.1 0x7F, r.2)
    let r := (op.real cf (s.positions mask fun i => (conv i).1)).go
    (r.1, r.2 ||| scnOf x is ||| Flags.all (is.map fun i => (conv i).2))

/-- VREDSUM, VREDMAX and VREDMIN (R313). -/
def reduceVec (op : Reduce) (d a : RegF) (m : VMods) (s : State) : Except Stop State := do
  let xs ← s.openVec [fieldA a m] []
  let x := (xs.headD { field := fieldA a m, strip := .initial, entry := none }).strip
  firstOf (s.vlChecks xs ++ xs.map (fun y => fmtCheck y fun f => f != Fmt.vq2 && f != Fmt.none) ++ s.countChecks xs)
  let r := s.reduce op m.mask x
  .ok (((s.popAll (queuesOf [fieldA a m])).writeS d r.1).orFlags r.2)

/-- VREDSUM (R313). -/
def execVredsum (g : Guard) (d a : RegF) (s : State) : Answer := settle g 4 (reduceVec .sum d a .short) s
/-- VREDSUM_LONG (R313). -/
def execVredsumLong (g : Guard) (d a : RegF) (m : VMods) (s : State) : Answer := settle g 8 (reduceVec .sum d a m) s
/-- VREDMAX (R313). -/
def execVredmax (g : Guard) (d a : RegF) (s : State) : Answer := settle g 4 (reduceVec .max d a .short) s
/-- VREDMAX_LONG (R313). -/
def execVredmaxLong (g : Guard) (d a : RegF) (m : VMods) (s : State) : Answer := settle g 8 (reduceVec .max d a m) s
/-- VREDMIN (R313). -/
def execVredmin (g : Guard) (d a : RegF) (s : State) : Answer := settle g 4 (reduceVec .min d a .short) s
/-- VREDMIN_LONG (R313). -/
def execVredminLong (g : Guard) (d a : RegF) (m : VMods) (s : State) : Answer := settle g 8 (reduceVec .min d a m) s

/-- The prefix sums of real elements in format `f` (R89, R314). -/
def scanReal (f : Fmt) : Option Val → List Val → Flagged (List Val)
  | _, [] => pure []
  | none, x :: t => do
    let c ← Flagged.of (roundTo f .rne x)
    let y := decodeElem f c 0x7F
    return y :: (← scanReal f (some y) t)
  | some p, x :: t => do
    let e ← Flagged.of (Val.add .rne p x)
    let c ← Flagged.of (roundTo f .rne e)
    let y := decodeElem f c 0x7F
    return y :: (← scanReal f (some y) t)

/-- The prefix sums of integers, to be wrapped (R314). -/
def scanInt : Int → List Int → List Int
  | _, [] => []
  | p, x :: t => (p + x) :: scanInt (p + x) t

/-- The result format of VSCAN (R314). -/
def scanFmt (f : Fmt) : Fmt := if f == Fmt.fp64 || f.isInt then f else Fmt.fp32

/-- VSCAN (R314). -/
def scanVec (d a : RegF) (m : VMods) (s : State) : Except Stop State := do
  let xs ← s.openVec [fieldA a m] [fieldD d m]
  let x := (xs.headD { field := fieldA a m, strip := .initial, entry := none }).strip
  let f := scanFmt x.tag.f
  firstOf (s.vlChecks xs ++ [s.vlCheck f 0] ++ xs.map (fun y => fmtCheck y fun t => t != Fmt.vq2 && t != Fmt.none)
    ++ [s.keepCheck (fieldD d m) m.z (s.active m.mask) f] ++ s.countChecks xs)
  let is := s.actives m.mask
  let r : List Put × Flags :=
    if f.isInt then
      ((scanInt 0 (is.map fun i => (x.val i).toInt)).map fun n => .move (BitVec.ofNat 64 (wrapCode f.width n)) 0x7F, 0)
    else
      let t := (scanReal f none (is.map x.val)).go
      (t.1.map .value, t.2 ||| scnOf x is)
  s.writeVec (fieldD d m) m.z (s.active m.mask) (queuesOf [fieldA a m])
    { fmt := f, blk := 0, rm := Rm.ofCode m.rm.toNat, ef := false, vsum := computedVsum xs is, flags := r.2
      put := putsAt is r.1 }

/-- VSCAN (R314). -/
def execVscan (g : Guard) (d a : RegF) (s : State) : Answer := settle g 4 (scanVec d a .short) s
/-- VSCAN_LONG (R314). -/
def execVscanLong (g : Guard) (d a : RegF) (m : VMods) (s : State) : Answer := settle g 8 (scanVec d a m) s

/-! ### Permutes -/

/-- Where a permuted element comes from: a position of the source, a supplied zero, or out of range (R315). -/
inductive Source where
  | elem (j : Nat) | zero | outside
deriving DecidableEq, Repr

/-- A position, out of range at or beyond VL (R315). -/
def Source.at (n : Nat) (j : Int) : Source := if 0 ≤ j ∧ j < n then .elem j.toNat else .outside

/-- A permute (R315, R295): `sources` gives the origin of each destination element. -/
def permuteVec (d a : RegF) (m : VMods) (others : List VField) (own : VSrc → Bool) (bare : Bool)
    (sources : List VSrc → Nat → Source) (s : State) : Except Stop State := do
  let fs := fieldA a m :: others
  let xs ← s.openVec fs [fieldD d m] fun xs =>
    s.vlChecks xs ++ ((xs.filter fun y => y.field.code == 2).map fun y => (own y, illegalOperand 0x04 0 2 y.fmt.toNat))
      ++ [(!bare || (m.mask == 15 && !m.z), illegalOperand 0x07 m.mask.toNat)]
  let x := (xs.headD { field := fieldA a m, strip := .initial, entry := none }).strip
  firstOf (s.vlChecks xs
    ++ xs.tail.map (fun y => (own y, illegalOperand 0x04 0 2 y.fmt.toNat))
    ++ [s.keepCheck (fieldD d m) m.z (s.active m.mask) x.tag.f, (!bare || (m.mask == 15 && !m.z), illegalOperand 0x07 m.mask.toNat)]
    ++ s.countChecks xs)
  let src := sources xs
  s.writeVec (fieldD d m) m.z (s.active m.mask) (queuesOf fs)
    { fmt := x.tag.f, blk := x.tag.blk.toNat, rm := Rm.ofCode m.rm.toNat, ef := false, vsum := x.tag.vsum
      flags := Flags.when ((s.actives m.mask).any fun i => src i == .outside) Flags.xr
      put := fun i => match src i with
        | .elem j => .move (x.code j) (x.scale j)
        | _ => .supplied }

/-- VPERM's sources: the indices of vb. -/
def permSource (n : Nat) (xs : List VSrc) (i : Nat) : Source :=
  match xs.drop 1 with
  | y :: _ => .at n ((y.strip.val i).toInt)
  | [] => .zero

/-- VPERM (R315). -/
def execVperm (g : Guard) (d a b : RegF) (s : State) : Answer :=
  settle g 4 (fun s => permuteVec d a .short [fieldB b .short] (fun y => y.fmt.isInt) false (permSource s.vl) s) s
/-- VPERM_LONG (R315). -/
def execVpermLong (g : Guard) (d a b : RegF) (m : VMods) (s : State) : Answer :=
  settle g 8 (fun s => permuteVec d a m [fieldB b m] (fun y => y.fmt.isInt) false (permSource s.vl) s) s
/-- VSLIDE (R315). -/
def execVslide (g : Guard) (d a : RegF) (m : VMods) (s : State) : Answer :=
  settle g 8 (fun s => permuteVec d a m [] (fun _ => true) false (fun _ i => .at s.vl (i + m.imm.toInt)) s) s

/-- The positions below VL whose bit of a mask is set. -/
def State.maskSet (s : State) (k : Nat) : List Nat := (List.range s.vl).filter (s.maskBit k)

/-- VCOMPRESS (R315). -/
def execVcompress (g : Guard) (d a : RegF) (m : VMods) (s : State) : Answer :=
  settle g 8 (fun s => permuteVec d a m [] (fun _ => true) true
    (fun _ i => match (s.maskSet m.vc.toNat)[i]? with
      | some j => .elem j
      | none => .zero) s) s
/-- VEXPAND (R315). -/
def execVexpand (g : Guard) (d a : RegF) (m : VMods) (s : State) : Answer :=
  settle g 8 (fun s => permuteVec d a m [] (fun _ => true) true
    (fun _ i => if s.maskBit m.vc.toNat i then .elem ((s.maskSet m.vc.toNat).filter (· < i)).length else .zero) s) s

/-! ### Masks -/

/-- An instruction that writes bits 0 .. VL − 1 of mask `d` (R316). In an iteration that REELX resumes, the elements below
ELEM are inactive and keep their bits (R318). -/
def maskOp (d : RegF) (f : Nat → Bool) (s : State) : Except Stop State :=
  .ok (s.setMask d.toNat s.vl fun i => if s.reached i then f i else s.maskBit d.toNat i)

/-- The bits of masks `a` and `b` combined (R316). -/
def mask2 (f : Bool → Bool → Bool) (d a b : RegF) (s : State) : Except Stop State :=
  maskOp d (fun i => f (s.maskBit a.toNat i) (s.maskBit b.toNat i)) s

/-- KAND (R316). -/
def execKand (g : Guard) (d a b : RegF) (s : State) : Answer := settle g 4 (mask2 (fun x y => x && y) d a b) s
/-- KAND_LONG (R316). -/
def execKandLong (g : Guard) (d a b : RegF) (_m : VMods) (s : State) : Answer := settle g 8 (mask2 (fun x y => x && y) d a b) s
/-- KOR (R316). -/
def execKor (g : Guard) (d a b : RegF) (s : State) : Answer := settle g 4 (mask2 (fun x y => x || y) d a b) s
/-- KOR_LONG (R316). -/
def execKorLong (g : Guard) (d a b : RegF) (_m : VMods) (s : State) : Answer := settle g 8 (mask2 (fun x y => x || y) d a b) s
/-- KXOR (R316). -/
def execKxor (g : Guard) (d a b : RegF) (s : State) : Answer := settle g 4 (mask2 (fun x y => x != y) d a b) s
/-- KXOR_LONG (R316). -/
def execKxorLong (g : Guard) (d a b : RegF) (_m : VMods) (s : State) : Answer := settle g 8 (mask2 (fun x y => x != y) d a b) s
/-- KANDN (R316). -/
def execKandn (g : Guard) (d a b : RegF) (s : State) : Answer := settle g 4 (mask2 (fun x y => x && !y) d a b) s
/-- KANDN_LONG (R316). -/
def execKandnLong (g : Guard) (d a b : RegF) (_m : VMods) (s : State) : Answer := settle g 8 (mask2 (fun x y => x && !y) d a b) s
/-- KNOT (R316). -/
def execKnot (g : Guard) (d a : RegF) (s : State) : Answer := settle g 4 (mask2 (fun x _ => !x) d a a) s
/-- KNOT_LONG (R316). -/
def execKnotLong (g : Guard) (d a : RegF) (_m : VMods) (s : State) : Answer := settle g 8 (mask2 (fun x _ => !x) d a a) s
/-- KMOV (R316). -/
def execKmov (g : Guard) (d a : RegF) (s : State) : Answer := settle g 4 (mask2 (fun x _ => x) d a a) s
/-- KMOV_LONG (R316). -/
def execKmovLong (g : Guard) (d a : RegF) (_m : VMods) (s : State) : Answer := settle g 8 (mask2 (fun x _ => x) d a a) s

/-- Set bits of a mask at active positions below VL (R316, R318). -/
def State.setBitsOf (s : State) (k : Nat) : List Nat := (s.maskSet k).filter (s.reelElem ≤ ·)

/-- KFIRST (R316). -/
def maskFirst (d a : RegF) (s : State) : Except Stop State :=
  .ok (s.writeS d (BitVec.ofNat 64 ((s.setBitsOf a.toNat).headD s.vl)))
/-- KFIRST (R316). -/
def execKfirst (g : Guard) (d a : RegF) (s : State) : Answer := settle g 4 (maskFirst d a) s
/-- KFIRST_LONG (R316). -/
def execKfirstLong (g : Guard) (d a : RegF) (_m : VMods) (s : State) : Answer := settle g 8 (maskFirst d a) s

/-- KPOP (R316); with `setvl`, VL takes the count in the same act. -/
def maskCount (d a : RegF) (setvl : Bool) (s : State) : Except Stop State :=
  let n : Word := BitVec.ofNat 64 (s.setBitsOf a.toNat).length
  let s1 := s.writeS d n
  .ok (if setvl then s1.modMe fun x => { x with vl := n } else s1)
/-- KPOP (R316). -/
def execKpop (g : Guard) (d a : RegF) (s : State) : Answer := settle g 4 (maskCount d a false) s
/-- KPOP_LONG (R316). -/
def execKpopLong (g : Guard) (d a : RegF) (m : VMods) (s : State) : Answer := settle g 8 (maskCount d a (m.imm.getLsbD 0)) s

end Sys2Proof.Machine
end

