-- ==== Sys2Proof/Machine/Scalar.lean ====
section
/-! DEFINITION. Scalar, predicate and branch instructions of majors 0x01 .. 0x0F and 0x14 (R245 .. R256). -/

namespace Sys2Proof.Machine

/-- Writes a scalar result and its flags and completes. -/
def State.result (s : State) (d : RegF) (v : Word) (fl : Flags) (len : Nat) : State := ((s.writeS d v).orFlags fl).retire len

/-- An instruction of two sources. -/
def alu2 (g : Guard) (d a b : RegF) (f : Word → Word → Word) (s : State) : Answer :=
  onGuard g 4 s fun s => .next (s.result d (f (s.readS a) (s.readS b)) 0 4)

/-- An instruction of two sources that raises flags. -/
def alu2f (g : Guard) (d a b : RegF) (f : Word → Word → Word × Flags) (s : State) : Answer :=
  onGuard g 4 s fun s =>
    let r := f (s.readS a) (s.readS b)
    .next (s.result d r.1 r.2 4)

/-- An instruction of one source. -/
def alu1 (g : Guard) (d a : RegF) (f : Word → Word) (s : State) : Answer :=
  onGuard g 4 s fun s => .next (s.result d (f (s.readS a)) 0 4)

/-- Saturate(x, −2⁶³, 2⁶³ − 1), with SAT when the value changes (R247). -/
def saturate64 (x : Int) : Word × Flags :=
  if x < -(2 ^ 63) then (BitVec.ofInt 64 (-(2 ^ 63)), Flags.sat)
  else if 2 ^ 63 - 1 < x then (BitVec.ofInt 64 (2 ^ 63 - 1), Flags.sat)
  else (BitVec.ofInt 64 x, 0)

/-- The shift amount: bits [5:0] (R247). -/
def shamt (b : Word) : Nat := (b.extractLsb' 0 6).toNat

/-- Leading zero bits of the low `n` bits. -/
def clzAux (a : Word) : Nat → Nat
  | 0 => 0
  | n + 1 => if a.getLsbD n then 0 else clzAux a n + 1
/-- Trailing zero bits, counted from bit `i` over `n` bits. -/
def ctzAux (a : Word) (i : Nat) : Nat → Nat
  | 0 => 0
  | n + 1 => if a.getLsbD i then 0 else ctzAux a (i + 1) n + 1
/-- One bits of the low `n` bits. -/
def popAux (a : Word) : Nat → Nat
  | 0 => 0
  | n + 1 => popAux a n + (a.getLsbD n).toNat

/-- Sign extension from bit 10 (R248). -/
def imm11 (i : BitVec 11) : Word := i.signExtend 64

/-- DIV (R249). -/
def divS (a b : Word) : Word × Flags := if b = 0 then (-1, Flags.dz) else (BitVec.ofInt 64 (Int.tdiv a.toInt b.toInt), 0)
/-- DIVU (R249). -/
def divU (a b : Word) : Word × Flags := if b = 0 then (-1, Flags.dz) else (BitVec.ofNat 64 (a.toNat / b.toNat), 0)
/-- REM (R249). -/
def remS (a b : Word) : Word × Flags := if b = 0 then (a, Flags.dz) else (BitVec.ofInt 64 (Int.tmod a.toInt b.toInt), 0)
/-- REMU (R249). -/
def remU (a b : Word) : Word × Flags := if b = 0 then (a, Flags.dz) else (BitVec.ofNat 64 (a.toNat % b.toNat), 0)

/-- ADD (R247). -/
def execAdd (g : Guard) (d a b : RegF) (s : State) : Answer := alu2 g d a b (· + ·) s
/-- SUB (R247). -/
def execSub (g : Guard) (d a b : RegF) (s : State) : Answer := alu2 g d a b (· - ·) s
/-- AND (R247). -/
def execAnd (g : Guard) (d a b : RegF) (s : State) : Answer := alu2 g d a b (· &&& ·) s
/-- OR (R247). -/
def execOr (g : Guard) (d a b : RegF) (s : State) : Answer := alu2 g d a b (· ||| ·) s
/-- XOR (R247). -/
def execXor (g : Guard) (d a b : RegF) (s : State) : Answer := alu2 g d a b (· ^^^ ·) s
/-- ANDN (R247). -/
def execAndn (g : Guard) (d a b : RegF) (s : State) : Answer := alu2 g d a b (fun x y => x &&& ~~~y) s
/-- SHL (R247). -/
def execShl (g : Guard) (d a b : RegF) (s : State) : Answer := alu2 g d a b (fun x y => x <<< shamt y) s
/-- SHR (R247). -/
def execShr (g : Guard) (d a b : RegF) (s : State) : Answer := alu2 g d a b (fun x y => x >>> shamt y) s
/-- SRA (R247). -/
def execSra (g : Guard) (d a b : RegF) (s : State) : Answer := alu2 g d a b (fun x y => x.sshiftRight (shamt y)) s
/-- ROR (R247). -/
def execRor (g : Guard) (d a b : RegF) (s : State) : Answer := alu2 g d a b (fun x y => x.rotateRight (shamt y)) s
/-- MIN (R247). -/
def execMin (g : Guard) (d a b : RegF) (s : State) : Answer := alu2 g d a b (fun x y => if x.toInt ≤ y.toInt then x else y) s
/-- MAX (R247). -/
def execMax (g : Guard) (d a b : RegF) (s : State) : Answer := alu2 g d a b (fun x y => if x.toInt ≤ y.toInt then y else x) s
/-- MINU (R247). -/
def execMinu (g : Guard) (d a b : RegF) (s : State) : Answer := alu2 g d a b (fun x y => if x ≤ y then x else y) s
/-- MAXU (R247). -/
def execMaxu (g : Guard) (d a b : RegF) (s : State) : Answer := alu2 g d a b (fun x y => if x ≤ y then y else x) s
/-- CLZ (R247). -/
def execClz (g : Guard) (d a : RegF) (s : State) : Answer := alu1 g d a (fun x => BitVec.ofNat 64 (clzAux x 64)) s
/-- CTZ (R247). -/
def execCtz (g : Guard) (d a : RegF) (s : State) : Answer := alu1 g d a (fun x => BitVec.ofNat 64 (ctzAux x 0 64)) s
/-- POPC (R247). -/
def execPopc (g : Guard) (d a : RegF) (s : State) : Answer := alu1 g d a (fun x => BitVec.ofNat 64 (popAux x 64)) s
/-- ADDS (R247). -/
def execAdds (g : Guard) (d a b : RegF) (s : State) : Answer := alu2f g d a b (fun x y => saturate64 (x.toInt + y.toInt)) s
/-- SUBS (R247). -/
def execSubs (g : Guard) (d a b : RegF) (s : State) : Answer := alu2f g d a b (fun x y => saturate64 (x.toInt - y.toInt)) s
/-- SHLS (R247). -/
def execShls (g : Guard) (d a b : RegF) (s : State) : Answer :=
  alu2f g d a b (fun x y => saturate64 (x.toInt * 2 ^ shamt y)) s

/-- ADDI (R248). -/
def execAddi (g : Guard) (d a : RegF) (imm : BitVec 11) (s : State) : Answer := alu1 g d a (· + imm11 imm) s
/-- ANDI (R248). -/
def execAndi (g : Guard) (d a : RegF) (imm : BitVec 11) (s : State) : Answer := alu1 g d a (· &&& imm11 imm) s
/-- ORI (R248). -/
def execOri (g : Guard) (d a : RegF) (imm : BitVec 11) (s : State) : Answer := alu1 g d a (· ||| imm11 imm) s
/-- XORI (R248). -/
def execXori (g : Guard) (d a : RegF) (imm : BitVec 11) (s : State) : Answer := alu1 g d a (· ^^^ imm11 imm) s
/-- SHLI (R248). -/
def execShli (g : Guard) (d a : RegF) (n : BitVec 6) (s : State) : Answer := alu1 g d a (· <<< n.toNat) s
/-- SHRI (R248). -/
def execShri (g : Guard) (d a : RegF) (n : BitVec 6) (s : State) : Answer := alu1 g d a (· >>> n.toNat) s
/-- SRAI (R248). -/
def execSrai (g : Guard) (d a : RegF) (n : BitVec 6) (s : State) : Answer := alu1 g d a (fun x => x.sshiftRight n.toNat) s
/-- RORI (R248). -/
def execRori (g : Guard) (d a : RegF) (n : BitVec 6) (s : State) : Answer := alu1 g d a (fun x => x.rotateRight n.toNat) s

/-- MUL (R249). -/
def execMul (g : Guard) (d a b : RegF) (s : State) : Answer := alu2 g d a b (· * ·) s
/-- MULH (R249). -/
def execMulh (g : Guard) (d a b : RegF) (s : State) : Answer :=
  alu2 g d a b (fun x y => BitVec.ofInt 64 (x.toInt * y.toInt / 2 ^ 64)) s
/-- MULHU (R249). -/
def execMulhu (g : Guard) (d a b : RegF) (s : State) : Answer :=
  alu2 g d a b (fun x y => BitVec.ofNat 64 (x.toNat * y.toNat / 2 ^ 64)) s
/-- DIV (R249). -/
def execDiv (g : Guard) (d a b : RegF) (s : State) : Answer := alu2f g d a b divS s
/-- DIVU (R249). -/
def execDivu (g : Guard) (d a b : RegF) (s : State) : Answer := alu2f g d a b divU s
/-- REM (R249). -/
def execRem (g : Guard) (d a b : RegF) (s : State) : Answer := alu2f g d a b remS s
/-- REMU (R249). -/
def execRemu (g : Guard) (d a b : RegF) (s : State) : Answer := alu2f g d a b remU s
/-- MULS (R249). -/
def execMuls (g : Guard) (d a b : RegF) (s : State) : Answer := alu2f g d a b (fun x y => saturate64 (x.toInt * y.toInt)) s

/-- The field of `width` bits of a word from bit `lsb` on (R251). -/
def bitField (a : Word) (lsb width : Nat) : Nat := a.toNat / 2 ^ lsb % 2 ^ width

/-- A bit-field instruction; a field beyond bit 63 does not decode (R251). -/
def bitOp (g : Guard) (d : RegF) (f : State → Word) (s : State) : Answer :=
  onGuard g 8 s fun s => .next (s.result d (f s) 0 8)

/-- BEXTU (R251). -/
def execBextu (g : Guard) (d a : RegF) (lsb width1 : BitVec 6) (s : State) : Answer :=
  bitOp g d (fun s => BitVec.ofNat 64 (bitField (s.readS a) lsb.toNat (width1.toNat + 1))) s
/-- BEXT (R251). -/
def execBext (g : Guard) (d a : RegF) (lsb width1 : BitVec 6) (s : State) : Answer :=
  bitOp g d (fun s => BitVec.ofInt 64 (toSigned (width1.toNat + 1) (bitField (s.readS a) lsb.toNat (width1.toNat + 1)))) s
/-- BINS (R251). -/
def execBins (g : Guard) (d a : RegF) (lsb width1 : BitVec 6) (s : State) : Answer :=
  bitOp g d (fun s =>
    let m : Word := BitVec.ofNat 64 ((2 ^ (width1.toNat + 1) - 1) * 2 ^ lsb.toNat)
    (s.readS d &&& ~~~m) ||| ((s.readS a <<< lsb.toNat) &&& m)) s

/-- LIMMH (R250). -/
def execLimmh (g : Guard) (d : RegF) (imm : BitVec 16) (s : State) : Answer :=
  onGuard g 4 s fun s => .next (s.result d (imm ++ (s.readS d).extractLsb' 0 48) 0 4)
/-- LIMM (R250). -/
def execLimm (g : Guard) (d : RegF) (imm : BitVec 48) (s : State) : Answer :=
  onGuard g 8 s fun s => .next (s.result d (imm.signExtend 64) 0 8)

/-- The condition of R222 on two words, and NV for FLT and FLE with a NaN (R246). -/
def condition (c : BitVec 4) (a b : Word) : Bool × Flags :=
  let x := F32.val (a.extractLsb' 0 32)
  let y := F32.val (b.extractLsb' 0 32)
  let un := x.isNan || y.isNan
  match c.toNat with
  | 0 => (a == b, 0)
  | 1 => (a != b, 0)
  | 2 => (decide (a.toInt < b.toInt), 0)
  | 3 => (decide (b.toInt ≤ a.toInt), 0)
  | 4 => (decide (a < b), 0)
  | 5 => (decide (b ≤ a), 0)
  | 6 => ((a &&& b) != 0, 0)
  | 7 => ((a &&& b) == 0, 0)
  | 8 => (!un && Val.cmp x y == Ordering.eq, 0)
  | 9 => (un || Val.cmp x y != Ordering.eq, 0)
  | 10 => (!un && Val.cmp x y == Ordering.lt, Flags.when un Flags.nv)
  | 11 => (!un && Val.cmp x y != Ordering.gt, Flags.when un Flags.nv)
  | _ => (un, 0)

/-- A compare writes g(GT) := c and then g(GF) := not c (R252). -/
def compare (g : Guard) (gt gf : BitVec 3) (a b : State → Word) (cond : BitVec 4) (len : Nat) (s : State) : Answer :=
  onGuard g len s fun s =>
    let r := condition cond (a s) (b s)
    .next ((((s.writeG gt r.1).writeG gf !r.1).orFlags r.2).retire len)

/-- CMP (R252). -/
def execCmp (g : Guard) (gt gf : BitVec 3) (a b : RegF) (cond : BitVec 4) (s : State) : Answer :=
  compare g gt gf (fun s => s.readS a) (fun s => s.readS b) cond 4 s
/-- FCMP (R252). -/
def execFcmp (g : Guard) (gt gf : BitVec 3) (a b : RegF) (cond : BitVec 4) (s : State) : Answer :=
  compare g gt gf (fun s => s.readS a) (fun s => s.readS b) cond 4 s
/-- CMPI (R252). -/
def execCmpi (g : Guard) (gt gf : BitVec 3) (a : RegF) (imm : BitVec 32) (cond : BitVec 4) (s : State) : Answer :=
  compare g gt gf (fun s => s.readS a) (fun _ => imm.signExtend 64) cond 8 s

/-- SEL (R253). -/
def execSel (g : Guard) (d a b : RegF) (neg : Bool) (p : BitVec 3) (s : State) : Answer :=
  onGuard g 4 s fun s => .next (s.result d (if (s.readG p) != neg then s.readS a else s.readS b) 0 4)

/-- A target of `disp` parcels from the PC (R220). -/
def target {n : Nat} (s : State) (disp : BitVec n) : Word := s.me.pc + (disp.signExtend 64 <<< 2)

/-- BR (R254). -/
def execBr (g : Guard) (disp : BitVec 21) (s : State) : Answer := onGuard g 4 s fun s => .next (s.jump (target s disp))
/-- BRL (R254). -/
def execBrl (g : Guard) (disp : BitVec 21) (s : State) : Answer :=
  onGuard g 4 s fun s => .next ((s.writeS 31 (s.me.pc + 4)).jump (target s disp))
/-- JR (R254); a misaligned target takes the illegal-operand trap (R220). -/
def execJr (g : Guard) (a : RegF) (s : State) : Answer :=
  onGuard g 4 s fun s =>
    let t := s.readS a
    if t.extractLsb' 0 2 ≠ 0 then .next (s.halt (illegalOperand 0x0E t.toNat 1)) else .next (s.jump t)
/-- JRL (R254). -/
def execJrl (g : Guard) (d a : RegF) (s : State) : Answer :=
  onGuard g 4 s fun s =>
    let t := s.readS a
    if t.extractLsb' 0 2 ≠ 0 then .next (s.halt (illegalOperand 0x0E t.toNat 1))
    else .next ((s.writeS d (s.me.pc + 4)).jump t)
/-- LOOP (R255). -/
def execLoop (g : Guard) (c : RegF) (disp : BitVec 16) (s : State) : Answer :=
  onGuard g 4 s fun s =>
    let n := s.readS c - 1
    let t := s.writeS c n
    if n = 0 then .next (t.retire 4) else .next (t.jump (target s disp))

/-- An FP32 result in bits [31:0] (R256). -/
def fpResult (r : F32 × Flags) : Word × Flags := (r.1.setWidth 64, r.2)
/-- The FP32 value in bits [31:0] (R256). -/
def fpArg (a : Word) : F32 := a.extractLsb' 0 32

/-- A floating-point instruction of one source. -/
def fp1 (g : Guard) (d a : RegF) (f : Word → Word × Flags) (s : State) : Answer :=
  onGuard g 4 s fun s =>
    let r := f (s.readS a)
    .next (s.result d r.1 r.2 4)

/-- FADD (R256). -/
def execFadd (g : Guard) (d a b : RegF) (s : State) : Answer :=
  alu2f g d a b (fun x y => fpResult (f32Add (fpArg x) (fpArg y))) s
/-- FSUB (R256). -/
def execFsub (g : Guard) (d a b : RegF) (s : State) : Answer :=
  alu2f g d a b (fun x y => fpResult (f32Sub (fpArg x) (fpArg y))) s
/-- FMUL (R256). -/
def execFmul (g : Guard) (d a b : RegF) (s : State) : Answer :=
  alu2f g d a b (fun x y => fpResult (f32Mul (fpArg x) (fpArg y))) s
/-- FMA (R256): the addend is the destination's old value. -/
def execFma (g : Guard) (d a b : RegF) (s : State) : Answer :=
  onGuard g 4 s fun s =>
    let r := fpResult (f32Fma (fpArg (s.readS a)) (fpArg (s.readS b)) (fpArg (s.readS d)))
    .next (s.result d r.1 r.2 4)
/-- FMIN (R256). -/
def execFmin (g : Guard) (d a b : RegF) (s : State) : Answer :=
  alu2 g d a b (fun x y => (fpResult (rn (Val.fmin (fpArg x).val (fpArg y).val))).1) s
/-- FMAX (R256). -/
def execFmax (g : Guard) (d a b : RegF) (s : State) : Answer :=
  alu2 g d a b (fun x y => (fpResult (rn (Val.fmax (fpArg x).val (fpArg y).val))).1) s
/-- FCVTF (R256). -/
def execFcvtf (g : Guard) (d a : RegF) (s : State) : Answer := fp1 g d a (fun x => fpResult (rn (Val.ofInt x.toInt))) s
/-- FCVTFU (R256). -/
def execFcvtfu (g : Guard) (d a : RegF) (s : State) : Answer := fp1 g d a (fun x => fpResult (rn (Val.ofInt x.toNat))) s
/-- FCVTI (R256). -/
def execFcvti (g : Guard) (d a : RegF) (s : State) : Answer := fp1 g d a (fun x => roundTo Fmt.i64 .rne (fpArg x).val) s
/-- FCVTIU (R256). -/
def execFcvtiu (g : Guard) (d a : RegF) (s : State) : Answer := fp1 g d a (fun x => roundTo Fmt.u64 .rne (fpArg x).val) s
/-- FABS (R256). -/
def execFabs (g : Guard) (d a : RegF) (s : State) : Answer := alu1 g d a (fun x => (f32Abs (fpArg x)).setWidth 64) s
/-- FNEG (R256). -/
def execFneg (g : Guard) (d a : RegF) (s : State) : Answer := alu1 g d a (fun x => (f32Neg (fpArg x)).setWidth 64) s

end Sys2Proof.Machine
end

