-- ==== Sys2Proof/Machine/VecMem.lean ====
section
/-! DEFINITION. Loads and stores of the V cluster, global and scratchpad (major 0x21; R301 .. R304, R117). -/

namespace Sys2Proof.Machine

/-- The index positions that an indexed access reads, and which elements have one; positions 0, 1, … otherwise (R301). -/
structure Indices where
  pos : Nat → Int
  has : Nat → Bool

/-- The indices of an access: of the index operand, if there is one. -/
def indicesOf (xs : List VSrc) : Indices :=
  match xs with
  | [] => { pos := fun i => i, has := fun _ => true }
  | x :: _ =>
    { pos := fun i => (x.strip.val i).toInt
      has := fun i => x.entry.elim true fun e => SMap.get false e.present i }

/-- The checks that every load and store makes before its addresses (R291, R301, R303, R408 steps 3 and 5): `data` are the
formats known beforehand, with their operand codes. -/
def State.vmemPre (s : State) (data : List (Fmt × Nat)) (ls : Bool) (xs : List VSrc) : List (Bool × Stop) :=
  data.map (fun p => s.vlCheck p.1 p.2) ++ s.vlChecks xs
    ++ (if ls then data.map fun p => (p.1.width != 4, illegalOperand 0x04 0 p.2 p.1.toNat) else [])
    ++ xs.map (fun x => fmtCheck x Fmt.isInt)

/-- The same with the checks of the index entry (R225). -/
def State.vmemChecks (s : State) (xs : List VSrc) (data : List (Fmt × Nat)) (ls : Bool) : List (Bool × Stop) :=
  s.vmemPre data ls xs ++ s.countChecks xs

/-! ### The scratchpad -/

/-- The bit address of an element in the scratchpad, or the range trap (R107, R117, R303). -/
def State.spElem (s : State) (a : Nat) (f : Fmt) (ls : Bool) (ix : Indices) (i : Nat) : Except Stop Nat :=
  let n := f.width
  let x := ix.pos i
  if x < 0 then .error (spTrap (a / 131072) 1 a)
  else if ls then
    let x := x.toNat
    if 16384 ≤ x then .error (spTrap (a / 131072) 1 a)
    else
      let w := s.lanes s.slot
      let addr := a + x / 256 * 2048 + w.getD (i * n / 2048 % max 1 w.length) 0 * 256 + x % 256
      if x % (n / 8) ≠ 0 then .error (spTrap (a / 131072) 2 addr) else .ok (8 * addr)
  else .ok (8 * a + x.toNat * n)

/-- The places of the elements `is`, all in SCRATCH banks of the context (R107): reason 3 where a contiguous range that
starts in a bank of the context runs into one that is not. -/
def State.spPlaces (s : State) (a : Nat) (f : Fmt) (ls contig : Bool) (ix : Indices) (is : List Nat) :
    Except Stop (List (Nat × Nat)) := do
  let nb := max 1 (f.width / 8)
  firstOf [((if ls then a % 131072 else a % nb) == 0, spTrap (a / 131072) 2 a)]
  let ps ← is.mapM fun i => (s.spElem a f ls ix i).map fun b => (i, b)
  firstOf (ps.zipIdx.flatMap fun p => (List.range nb).map fun j =>
    let at' := p.1.2 / 8 + j
    (s.spBank s.slot at', spTrap (at' / 131072) (if contig && decide (0 < p.2 + j) then 3 else 0) at'))
  firstOf [(s.spFree s.slot (ps.map fun p => (p.2 / 8, p.2 / 8 + nb)), .wait .scratch)]
  pure ps

/-- The `n` bits of the scratchpad at a bit address. -/
def State.spBits (s : State) (n b : Nat) : Word :=
  BitVec.ofNat 64 (if n = 4 then ((s.spByte s.slot (b / 8)).toNat >>> (b % 8)) % 16
    else leNat ((List.range (n / 8)).map fun j => s.spByte s.slot (b / 8 + j)))

/-- Writes `n` bits of the scratchpad at a bit address. -/
def State.spPut (s : State) (n b : Nat) (c : Word) : State :=
  if n = 4 then
    let o := (s.spByte s.slot (b / 8)).toNat
    let v := c.toNat % 16
    s.setSp s.slot (b / 8) [BitVec.ofNat 8 (if b % 8 = 0 then o / 16 * 16 + v else o % 16 + v * 16)]
  else s.setSp s.slot (b / 8) (leBytes (n / 8) c.toNat)

/-- A scratchpad load (R303): active elements take the bits; the tag keeps FMT, BLK and the scales, and becomes VALID. -/
def spLoad (d : RegF) (m : VMods) (a : RegF) (srcs : List VField) (ls : Bool) (s : State) : Except Stop State := do
  let old := s.vreg d
  let f := old.tag.f
  let xs ← s.openVec srcs [] (s.vmemPre [(f, 0)] ls)
  firstOf (s.vmemChecks xs [(f, 0)] ls)
  let ix := indicesOf xs
  let is := (s.actives m.mask).filter ix.has
  let ps ← s.spPlaces (s.readS a).toNat f ls srcs.isEmpty ix is
  let s1 := s.popAll (queuesOf srcs)
  if s.vl = 0 then .ok s1
  else
    let z := if m.z then (List.range s.vl).filter fun i => s.reached i && !is.contains i else []
    let e1 := z.foldl (fun e i => e.set 0 i 0) old.elems
    let e2 := ps.foldl (fun e p => e.set 0 p.1 (s.spBits f.width p.2)) e1
    .ok (s1.setVreg d { old with elems := e2, tag := { old.tag with vsum := vsValid } })

/-- A scratchpad store (R303): the active elements' bits; of two at one place the higher element prevails. -/
def spStore (d : RegF) (m : VMods) (a : RegF) (srcs : List VField) (ls : Bool) (s : State) : Except Stop State := do
  let x := s.vreg d
  let f := x.tag.f
  let xs ← s.openVec srcs [] (s.vmemPre [(f, 0)] ls)
  firstOf (s.vmemChecks xs [(f, 0)] ls)
  let ix := indicesOf xs
  let ps ← s.spPlaces (s.readS a).toNat f ls srcs.isEmpty ix ((s.actives m.mask).filter ix.has)
  .ok (ps.foldl (fun t p => t.spPut f.width p.2 (x.code p.1)) (s.popAll (queuesOf srcs)))

/-! ### Global memory -/

/-- Two lines of a load differ in being NONE (R302). -/
def mixedNone (l : List Got) : Bool :=
  let k := l.filter fun g => !g.poison
  k.any (fun g => g.fmt == Fmt.none) && k.any fun g => g.fmt != Fmt.none

/-- The register that a global load of `n` elements forms from those that it read (R302). -/
def loadResult (n : Nat) (els : List (Nat × Got)) (f : Fmt) (blk : Nat) : VResult :=
  { fmt := f, blk := blk, rm := .rne, ef := false, vsum := loadVsum n (els.map Prod.snd)
    flags := Flags.all (els.map fun p =>
      Flags.when (!p.2.poison && !(p.2.fmt == f && p.2.blk == blk) && p.2.fmt.isScaled && p.2.scale == 0xFF) Flags.scn)
    put := fun i => ((els.find? fun p => p.1 == i).map fun p => p.2.put f blk).getD .supplied }

/-- A global load (R302): the register's format and BLK are those of the line of its lowest active element. With no active
element nothing is loaded. -/
def vecLoad (d : VField) (m : VMods) (a : RegF) (srcs : List VField) : Comp Unit := do
  let s ← get
  let xs ← ofStop (s.openVec srcs [d] (s.vmemPre [] false))
  ofStop (firstOf (s.vmemChecks xs [] false))
  let ix := indicesOf xs
  let is := (s.actives m.mask).filter ix.has
  let g ← gather s.slot .read (s.readS a) (placesFor srcs.isEmpty ix.pos) srcs.isEmpty is
  let t ← get
  let els := g.filled
  match els with
  | [] => set (t.popAll (queuesOf srcs))
  | (_, e) :: _ =>
    let act (i : Nat) : Bool := is.contains i
    ofStop (firstOf [t.vlCheck e.fmt 0, (!mixedNone (g.els.map Prod.snd), illegalOperand 0x06 0 1 e.fmt.toNat),
      t.keepCheck d m.z act e.fmt])
    let old := t.myCtx.vregs.get VReg.initial d.n.toNat
    let part := !d.q && !old.missing.isEmpty
    let tag := old.strip.tag
    let res := if part then loadResult s.vl els tag.fmt tag.blk.toNat else loadResult s.vl els e.fmt e.blk
    let u ← ofStop (t.writeVec d m.z act (queuesOf srcs) res)
    -- a load that resumes writes only the groups that had not landed (R116, R194)
    let u := if part then u.setVreg d.n (old.strip.withGroups (u.vreg d.n) old.missing) else u
    set (u.noteZeroed s.slot s.instrPc (BitVec.ofNat 64 s.cl.code ||| memInfo .read (g.first.elim false Xlate.host) 0 0) g.zeroed)

/-- A global store (R304). -/
def vecStore (d : RegF) (m : VMods) (a : RegF) (srcs : List VField) : Comp Unit := do
  let s ← get
  let x := s.vreg d
  let xs ← ofStop (s.openVec srcs [] (s.vmemPre [(x.tag.f, 0)] false))
  ofStop (firstOf (s.vmemChecks xs [(x.tag.f, 0)] false))
  let ix := indicesOf xs
  let is := (s.actives m.mask).filter ix.has
  let res ← scatter s.slot .write (s.readS a) (placesFor srcs.isEmpty ix.pos) srcs.isEmpty x.tag.f x.tag.blk.toNat m.rm.toNat
    (is.map fun i => (i, x.selem i)) s.myCtx.v.efc
  update fun t => (t.popAll (queuesOf srcs)).modMyCtx fun c => { c with v := { c.v with efc := res } }

/-- VLD and VLDX (R302, R303). -/
def loadInstr (g : Guard) (len : Nat) (d a : RegF) (srcs : List VField) (ls sp : Bool) (m : VMods) (s : State) : Answer :=
  if sp then settle g len (spLoad d m a srcs ls) s else run g len (vecLoad (fieldD d m) m a srcs) s

/-- VST and VSTX (R303, R304). -/
def storeInstr (g : Guard) (len : Nat) (d a : RegF) (srcs : List VField) (ls sp : Bool) (m : VMods) (s : State) : Answer :=
  if sp then settle g len (spStore d m a srcs ls) s else run g len (vecStore d m a srcs) s

/-- VLD (R302, R303). -/
def execVld (g : Guard) (d a : RegF) (sp : Bool) (s : State) : Answer := loadInstr g 4 d a [] false sp .short s
/-- VLD_LONG (R302, R303). -/
def execVldLong (g : Guard) (d a : RegF) (sp : Bool) (m : VMods) (s : State) : Answer := loadInstr g 8 d a [] false sp m s
/-- VST (R303, R304). -/
def execVst (g : Guard) (d a : RegF) (sp : Bool) (s : State) : Answer := storeInstr g 4 d a [] false sp .short s
/-- VST_LONG (R303, R304). -/
def execVstLong (g : Guard) (d a : RegF) (sp : Bool) (m : VMods) (s : State) : Answer := storeInstr g 8 d a [] false sp m s
/-- VLDX (R302, R303). -/
def execVldx (g : Guard) (d a b : RegF) (ls sp : Bool) (s : State) : Answer := loadInstr g 4 d a [fieldB b .short] ls sp .short s
/-- VLDX_LONG (R302, R303). -/
def execVldxLong (g : Guard) (d a b : RegF) (ls sp : Bool) (m : VMods) (s : State) : Answer :=
  loadInstr g 8 d a [fieldB b m] ls sp m s
/-- VSTX (R303, R304). -/
def execVstx (g : Guard) (d a b : RegF) (ls sp : Bool) (s : State) : Answer := storeInstr g 4 d a [fieldB b .short] ls sp .short s
/-- VSTX_LONG (R303, R304). -/
def execVstxLong (g : Guard) (d a b : RegF) (ls sp : Bool) (m : VMods) (s : State) : Answer :=
  storeInstr g 8 d a [fieldB b m] ls sp m s

end Sys2Proof.Machine
end

