-- ==== Sys2Proof/Machine/Watch.lean ====
section
/-! DEFINITION. Watchdogs (R405, R446), the supervisor cores' taking of events (R401), wake-ups (R30, R36, R41) and the landing
of loads (R33, R115, R267). -/

namespace Sys2Proof.Machine

/-! ### Watchdogs -/

/-- Time that a hank has spent in RUNNING (R405). -/
def State.ranNs (s : State) (h : Hank) : Nat := h.runNs + if h.state = .running then s.timeNs - h.resumedAt else 0

/-- HANK_WATCHDOG (R405, R446). -/
def State.hankWatchdog (s : State) (slot : Nat) : State :=
  match s.hankAt slot with
  | none => s
  | some h =>
    let lim := (s.creel.wdcfg.extractLsb' 16 16).toNat
    if h.state = .running ∧ lim ≠ 0 ∧ lim * 1000000 < s.ranNs h then
      s.terminate slot (s.ctxRec slot 4 0x0402 (s.ctx slot).c.pc 0 0)
    else s

/-- HANK_WATCHDOG (R405). -/
def execHankWatchdog (slot : Nat) (s : State) : Answer := .next (s.hankWatchdog slot)

/-- EVENT_WATCHDOG (R405): the target of an event not ended in time is terminated, and the core is reset to idle. -/
def State.eventWatchdog (s : State) (n : Nat) : State :=
  let c := s.core n
  let lim := max 1 (s.creel.wdcfg.extractLsb' 0 8).toNat
  if c.busy ∧ c.takenAt + lim * 1000000 ≤ s.timeNs then
    let s1 := s.setCore n .initial
    match c.target, c.withdrawn with
    | some k, false =>
      let (pc, low) := match (s1.ctx k).event with
        | some e => (e.record.pc, e.record.info &&& 3)
        | none => (0, 0)
      (s1.modCtx k fun x => { x with event := none }).terminate k (s1.ctxRec k 4 0x0403 pc 0 low)
    | _, _ => s1
  else s

/-- EVENT_WATCHDOG (R405). -/
def execEventWatchdog (core : Nat) (s : State) : Answer := .next (s.eventWatchdog core)

/-! ### Supervisor cores -/

/-- The slots of a bobbin whose event waits in the ring, with the event. -/
def State.waitingEvents (s : State) (b : Nat) : List (Nat × Event) :=
  (List.range' (120 * b) 120).filterMap fun k => match (s.ctx k).event with
    | some e => if e.core.isNone then some (k, e) else none
    | none => none

/-- The oldest of them by (TS, SRC). -/
def oldestEvent : List (Nat × Event) → Option (Nat × Event)
  | [] => none
  | p :: l =>
    match oldestEvent l with
    | none => some p
    | some q =>
      if q.2.record.ts < p.2.record.ts ∨ (q.2.record.ts = p.2.record.ts ∧ q.2.record.src < p.2.record.src) then some q else some p

/-- A core that begins with an event: SVVECn.PC, the record's address in s1, the target's slot in s2 (R401). -/
def SupCore.begin (pc : Word) (record slot now : Nat) : SupCore :=
  { busy := true
    cl := { Cluster.initial with
      run := .running, pc := pc, s := SMap.set 0 (SMap.set 0 [] 1 (BitVec.ofNat 64 record)) 2 (BitVec.ofNat 64 slot) }
    target := some slot, withdrawn := false, takenAt := now, record := record }

/-- SUPERVISOR_EVENT_TAKE (R401): the lowest-numbered idle core of the bobbin takes the oldest event. -/
def State.takeSupEvent (s : State) (b : Nat) : State :=
  match (List.range' (4 * b) 4).find? (fun n => !(s.core n).busy), oldestEvent (s.waitingEvents b) with
  | some n, some (k, e) =>
    let pc : Word := s.creel.svvec.get 0 b &&& 0x000FFFFFFFFFFFFC
    (s.setCore n (SupCore.begin pc (s.eventSlot k) k s.timeNs)).modCtx k fun x =>
      { x with event := some { e with core := some n, takenAt := s.timeNs } }
  | _, _ => s

/-- SUPERVISOR_EVENT_TAKE (R401). -/
def execSupervisorEventTake (bobbin : Nat) (s : State) : Answer := .next (s.takeSupEvent bobbin)

/-! ### Wake-ups -/

/-- ISSUE_STARVATION (R41): the cluster is served next. -/
def execIssueStarvation (slot : Nat) (c : Cl) (s : State) : Answer :=
  .next (if s.canRun (.cluster slot c) then { s with turns := .run (.cluster slot c) false :: s.turns } else s)

/-- Sets a waiting cluster running when its context may issue and a condition on its wait holds (R30). -/
def State.wakeCluster (s : State) (slot : Nat) (c : Cl) (f : WaitFor → Bool) : State :=
  if s.mayIssue slot then s.modCtx slot fun x => x.modCl c (Cluster.wakeIf fun w => w.any f) else s

/-- A queue of the context has free space. -/
def Ctx.queueHasSpace (x : Ctx) (q : Nat) : Bool :=
  let y := x.queues.get .initial q
  y.unplaced.isEmpty && decide (y.entries.length < 64) && decide (0 < y.free)

/-- QUEUE_SPACE_WAKE (R36). -/
def execQueueSpaceWake (slot : Nat) (c : Cl) (s : State) : Answer :=
  .next (s.wakeCluster slot c fun w => match w with
    | .queueSpace q => (s.ctx slot).queueHasSpace q
    | _ => false)

/-- QUEUE_ENTRY_WAKE (R36). -/
def execQueueEntryWake (slot : Nat) (c : Cl) (s : State) : Answer :=
  .next (s.wakeCluster slot c fun w => match w with
    | .queueEntry q => ((s.ctx slot).queues.get .initial q).ready.isSome
    | _ => false)

/-! ### Loads that land -/

/-- QUEUE_ENTRY_PLACED (R267): the first waiting entry of a queue's loads is placed where there is space. -/
def execQueueEntryPlaced (slot q : Nat) (s : State) : Answer :=
  .next (s.modCtx slot fun x => { x with queues := x.queues.modify .initial q (Queue.place 1) })

/-- ELEMENT_GROUP_ARRIVAL (R115). -/
def execElementGroupArrival (slot v group : Nat) (s : State) : Answer := .next (s.modCtx slot fun x => x.landGroup v group)

/-- The `k`-th outstanding scalar result of a cluster lands in its register (R33). -/
def Cluster.landOne (x : Cluster) (k : Nat) : Cluster :=
  match x.pend[k]? with
  | some (.scalar r v) => ({ x.writeS (BitVec.ofNat 5 r) v with pend := x.pend.eraseIdx k } : Cluster).landed
  | _ => x

/-- LOAD_DATA_RETURN (R33). -/
def execLoadDataReturn (a : Agent) (k : Nat) (s : State) : Answer := .next (s.modCluster a fun x => x.landOne k)

end Sys2Proof.Machine
end

