-- ==== Sys2Proof/Machine/Dispatch.lean ====
section
/-! DEFINITION. One arm per instruction and event: the meaning that each has. -/

namespace Sys2Proof.Machine

def exec (i : Instr) (s : State) : Host.Outcome State Fault Refusal :=
  match i with
  | .add g d a b => Sys2Proof.Machine.execAdd g d a b s
  | .sub g d a b => Sys2Proof.Machine.execSub g d a b s
  | .and g d a b => Sys2Proof.Machine.execAnd g d a b s
  | .or g d a b => Sys2Proof.Machine.execOr g d a b s
  | .xor g d a b => Sys2Proof.Machine.execXor g d a b s
  | .andn g d a b => Sys2Proof.Machine.execAndn g d a b s
  | .shl g d a b => Sys2Proof.Machine.execShl g d a b s
  | .shr g d a b => Sys2Proof.Machine.execShr g d a b s
  | .sra g d a b => Sys2Proof.Machine.execSra g d a b s
  | .ror g d a b => Sys2Proof.Machine.execRor g d a b s
  | .min g d a b => Sys2Proof.Machine.execMin g d a b s
  | .max g d a b => Sys2Proof.Machine.execMax g d a b s
  | .minu g d a b => Sys2Proof.Machine.execMinu g d a b s
  | .maxu g d a b => Sys2Proof.Machine.execMaxu g d a b s
  | .clz g d a => Sys2Proof.Machine.execClz g d a s
  | .ctz g d a => Sys2Proof.Machine.execCtz g d a s
  | .popc g d a => Sys2Proof.Machine.execPopc g d a s
  | .adds g d a b => Sys2Proof.Machine.execAdds g d a b s
  | .subs g d a b => Sys2Proof.Machine.execSubs g d a b s
  | .shls g d a b => Sys2Proof.Machine.execShls g d a b s
  | .addi g d a imm => Sys2Proof.Machine.execAddi g d a imm s
  | .andi g d a imm => Sys2Proof.Machine.execAndi g d a imm s
  | .ori g d a imm => Sys2Proof.Machine.execOri g d a imm s
  | .xori g d a imm => Sys2Proof.Machine.execXori g d a imm s
  | .shli g d a n => Sys2Proof.Machine.execShli g d a n s
  | .shri g d a n => Sys2Proof.Machine.execShri g d a n s
  | .srai g d a n => Sys2Proof.Machine.execSrai g d a n s
  | .rori g d a n => Sys2Proof.Machine.execRori g d a n s
  | .mul g d a b => Sys2Proof.Machine.execMul g d a b s
  | .mulh g d a b => Sys2Proof.Machine.execMulh g d a b s
  | .mulhu g d a b => Sys2Proof.Machine.execMulhu g d a b s
  | .div g d a b => Sys2Proof.Machine.execDiv g d a b s
  | .divu g d a b => Sys2Proof.Machine.execDivu g d a b s
  | .rem g d a b => Sys2Proof.Machine.execRem g d a b s
  | .remu g d a b => Sys2Proof.Machine.execRemu g d a b s
  | .muls g d a b => Sys2Proof.Machine.execMuls g d a b s
  | .bextu g d a lsb width1 => Sys2Proof.Machine.execBextu g d a lsb width1 s
  | .bext g d a lsb width1 => Sys2Proof.Machine.execBext g d a lsb width1 s
  | .bins g d a lsb width1 => Sys2Proof.Machine.execBins g d a lsb width1 s
  | .limmh g d imm => Sys2Proof.Machine.execLimmh g d imm s
  | .limm g d imm => Sys2Proof.Machine.execLimm g d imm s
  | .cmp g gt gf a b cond => Sys2Proof.Machine.execCmp g gt gf a b cond s
  | .fcmp g gt gf a b cond => Sys2Proof.Machine.execFcmp g gt gf a b cond s
  | .cmpi g gt gf a imm cond => Sys2Proof.Machine.execCmpi g gt gf a imm cond s
  | .sel g d a b neg p => Sys2Proof.Machine.execSel g d a b neg p s
  | .br g disp => Sys2Proof.Machine.execBr g disp s
  | .brl g disp => Sys2Proof.Machine.execBrl g disp s
  | .jr g a => Sys2Proof.Machine.execJr g a s
  | .jrl g d a => Sys2Proof.Machine.execJrl g d a s
  | .loop g c disp => Sys2Proof.Machine.execLoop g c disp s
  | .ldb g d a off => Sys2Proof.Machine.execLdb g d a off s
  | .ldbu g d a off => Sys2Proof.Machine.execLdbu g d a off s
  | .ldh g d a off => Sys2Proof.Machine.execLdh g d a off s
  | .ldhu g d a off => Sys2Proof.Machine.execLdhu g d a off s
  | .ldw g d a off => Sys2Proof.Machine.execLdw g d a off s
  | .ldwu g d a off => Sys2Proof.Machine.execLdwu g d a off s
  | .ldd g d a off => Sys2Proof.Machine.execLdd g d a off s
  | .stb g d a off => Sys2Proof.Machine.execStb g d a off s
  | .sth g d a off => Sys2Proof.Machine.execSth g d a off s
  | .stw g d a off => Sys2Proof.Machine.execStw g d a off s
  | .std g d a off => Sys2Proof.Machine.execStd g d a off s
  | .amoswap g d a b ord scope w => Sys2Proof.Machine.execAmoswap g d a b ord scope w s
  | .amoadd g d a b ord scope w => Sys2Proof.Machine.execAmoadd g d a b ord scope w s
  | .amoand g d a b ord scope w => Sys2Proof.Machine.execAmoand g d a b ord scope w s
  | .amoor g d a b ord scope w => Sys2Proof.Machine.execAmoor g d a b ord scope w s
  | .amoxor g d a b ord scope w => Sys2Proof.Machine.execAmoxor g d a b ord scope w s
  | .amomin g d a b ord scope w => Sys2Proof.Machine.execAmomin g d a b ord scope w s
  | .amomax g d a b ord scope w => Sys2Proof.Machine.execAmomax g d a b ord scope w s
  | .amominu g d a b ord scope w => Sys2Proof.Machine.execAmominu g d a b ord scope w s
  | .amomaxu g d a b ord scope w => Sys2Proof.Machine.execAmomaxu g d a b ord scope w s
  | .cas g d a b ord scope w => Sys2Proof.Machine.execCas g d a b ord scope w s
  | .ldacq g d a scope => Sys2Proof.Machine.execLdacq g d a scope s
  | .ldacqw g d a scope => Sys2Proof.Machine.execLdacqw g d a scope s
  | .strel g d a scope => Sys2Proof.Machine.execStrel g d a scope s
  | .strelw g d a scope => Sys2Proof.Machine.execStrelw g d a scope s
  | .fence g scope => Sys2Proof.Machine.execFence g scope s
  | .fadd g d a b => Sys2Proof.Machine.execFadd g d a b s
  | .fsub g d a b => Sys2Proof.Machine.execFsub g d a b s
  | .fmul g d a b => Sys2Proof.Machine.execFmul g d a b s
  | .fma g d a b => Sys2Proof.Machine.execFma g d a b s
  | .fmin g d a b => Sys2Proof.Machine.execFmin g d a b s
  | .fmax g d a b => Sys2Proof.Machine.execFmax g d a b s
  | .fcvtf g d a => Sys2Proof.Machine.execFcvtf g d a s
  | .fcvtfu g d a => Sys2Proof.Machine.execFcvtfu g d a s
  | .fcvti g d a => Sys2Proof.Machine.execFcvti g d a s
  | .fcvtiu g d a => Sys2Proof.Machine.execFcvtiu g d a s
  | .fabs g d a => Sys2Proof.Machine.execFabs g d a s
  | .fneg g d a => Sys2Proof.Machine.execFneg g d a s
  | .qpush g d q => Sys2Proof.Machine.execQpush g d q s
  | .qpushu g d q => Sys2Proof.Machine.execQpushu g d q s
  | .qpushf g d q => Sys2Proof.Machine.execQpushf g d q s
  | .qpops g d q => Sys2Proof.Machine.execQpops g d q s
  | .qpeek g d q => Sys2Proof.Machine.execQpeek g d q s
  | .qstat g d q => Sys2Proof.Machine.execQstat g d q s
  | .qclose g q => Sys2Proof.Machine.execQclose g q s
  | .csrr g d csr => Sys2Proof.Machine.execCsrr g d csr s
  | .csrw g a csr => Sys2Proof.Machine.execCsrw g a csr s
  | .end_ g => Sys2Proof.Machine.execEnd g s
  | .yield g => Sys2Proof.Machine.execYield g s
  | .bar g => Sys2Proof.Machine.execBar g s
  | .rdv g mask tag => Sys2Proof.Machine.execRdv g mask tag s
  | .cfork g mask a b => Sys2Proof.Machine.execCfork g mask a b s
  | .cforkLong g mask a b c => Sys2Proof.Machine.execCforkLong g mask a b c s
  | .sigwait g scope cond a b => Sys2Proof.Machine.execSigwait g scope cond a b s
  | .sigset g scope a b => Sys2Proof.Machine.execSigset g scope a b s
  | .getts g d => Sys2Proof.Machine.execGetts g d s
  | .trap g code => Sys2Proof.Machine.execTrap g code s
  | .taskq g d a b => Sys2Proof.Machine.execTaskq g d a b s
  | .shpost g scope a b => Sys2Proof.Machine.execShpost g scope a b s
  | .wid g d j => Sys2Proof.Machine.execWid g d j s
  | .svret g => Sys2Proof.Machine.execSvret g s
  | .rsave g a => Sys2Proof.Machine.execRsave g a s
  | .rrest g a => Sys2Proof.Machine.execRrest g a s
  | .tlbi g a kind => Sys2Proof.Machine.execTlbi g a kind s
  | .ltld g set a => Sys2Proof.Machine.execLtld g set a s
  | .recode g d a => Sys2Proof.Machine.execRecode g d a s
  | .hint payload => Sys2Proof.Machine.execHint payload s
  | .hintLong payload second => Sys2Proof.Machine.execHintLong payload second s
  | .vldq g q a => Sys2Proof.Machine.execVldq g q a s
  | .vldsq g q a b => Sys2Proof.Machine.execVldsq g q a b s
  | .vldxq g q a qi => Sys2Proof.Machine.execVldxq g q a qi s
  | .vstq g q a => Sys2Proof.Machine.execVstq g q a s
  | .vstsq g q a b => Sys2Proof.Machine.execVstsq g q a b s
  | .vstxq g q a qi => Sys2Proof.Machine.execVstxq g q a qi s
  | .setvlAccess g d a fmt => Sys2Proof.Machine.execSetvlAccess g d a fmt s
  | .sbind g q a => Sys2Proof.Machine.execSbind g q a s
  | .sunbind g q => Sys2Proof.Machine.execSunbind g q s
  | .copy g len dst src cq cb scope sx sv dsp ssp => Sys2Proof.Machine.execCopy g len dst src cq cb scope sx sv dsp ssp s
  | .copyt g len dst src cq cb scope sx sv sh dsp ssp => Sys2Proof.Machine.execCopyt g len dst src cq cb scope sx sv sh dsp ssp s
  | .cwait g cb a b => Sys2Proof.Machine.execCwait g cb a b s
  | .ctest g d a b cb => Sys2Proof.Machine.execCtest g d a b cb s
  | .cclr g cb a b => Sys2Proof.Machine.execCclr g cb a b s
  | .qfence g cqs qs => Sys2Proof.Machine.execQfence g cqs qs s
  | .tagrd g d a => Sys2Proof.Machine.execTagrd g d a s
  | .tagset g a b => Sys2Proof.Machine.execTagset g a b s
  | .pfl2 g a b => Sys2Proof.Machine.execPfl2 g a b s
  | .setvl g d a fmt => Sys2Proof.Machine.execSetvl g d a fmt s
  | .setvcap g d n => Sys2Proof.Machine.execSetvcap g d n s
  | .cbtld g a => Sys2Proof.Machine.execCbtld g a s
  | .vtagr g d a => Sys2Proof.Machine.execVtagr g d a s
  | .vtagw g d a => Sys2Proof.Machine.execVtagw g d a s
  | .qpopv g d q => Sys2Proof.Machine.execQpopv g d q s
  | .vld g d a sp => Sys2Proof.Machine.execVld g d a sp s
  | .vldLong g d a sp m => Sys2Proof.Machine.execVldLong g d a sp m s
  | .vst g d a sp => Sys2Proof.Machine.execVst g d a sp s
  | .vstLong g d a sp m => Sys2Proof.Machine.execVstLong g d a sp m s
  | .vldx g d a b ls sp => Sys2Proof.Machine.execVldx g d a b ls sp s
  | .vldxLong g d a b ls sp m => Sys2Proof.Machine.execVldxLong g d a b ls sp m s
  | .vstx g d a b ls sp => Sys2Proof.Machine.execVstx g d a b ls sp s
  | .vstxLong g d a b ls sp m => Sys2Proof.Machine.execVstxLong g d a b ls sp m s
  | .vadd g d a b => Sys2Proof.Machine.execVadd g d a b s
  | .vaddLong g d a b m => Sys2Proof.Machine.execVaddLong g d a b m s
  | .vsub g d a b => Sys2Proof.Machine.execVsub g d a b s
  | .vsubLong g d a b m => Sys2Proof.Machine.execVsubLong g d a b m s
  | .vmul g d a b => Sys2Proof.Machine.execVmul g d a b s
  | .vmulLong g d a b m => Sys2Proof.Machine.execVmulLong g d a b m s
  | .vmin g d a b => Sys2Proof.Machine.execVmin g d a b s
  | .vminLong g d a b m => Sys2Proof.Machine.execVminLong g d a b m s
  | .vmax g d a b => Sys2Proof.Machine.execVmax g d a b s
  | .vmaxLong g d a b m => Sys2Proof.Machine.execVmaxLong g d a b m s
  | .vabs g d a => Sys2Proof.Machine.execVabs g d a s
  | .vabsLong g d a m => Sys2Proof.Machine.execVabsLong g d a m s
  | .vneg g d a => Sys2Proof.Machine.execVneg g d a s
  | .vnegLong g d a m => Sys2Proof.Machine.execVnegLong g d a m s
  | .vfma g d a b m => Sys2Proof.Machine.execVfma g d a b m s
  | .vfms g d a b m => Sys2Proof.Machine.execVfms g d a b m s
  | .vnfma g d a b m => Sys2Proof.Machine.execVnfma g d a b m s
  | .vand g d a b => Sys2Proof.Machine.execVand g d a b s
  | .vandLong g d a b m => Sys2Proof.Machine.execVandLong g d a b m s
  | .vor g d a b => Sys2Proof.Machine.execVor g d a b s
  | .vorLong g d a b m => Sys2Proof.Machine.execVorLong g d a b m s
  | .vxor g d a b => Sys2Proof.Machine.execVxor g d a b s
  | .vxorLong g d a b m => Sys2Proof.Machine.execVxorLong g d a b m s
  | .vshl g d a b => Sys2Proof.Machine.execVshl g d a b s
  | .vshlLong g d a b m => Sys2Proof.Machine.execVshlLong g d a b m s
  | .vshr g d a b => Sys2Proof.Machine.execVshr g d a b s
  | .vshrLong g d a b m => Sys2Proof.Machine.execVshrLong g d a b m s
  | .vsra g d a b => Sys2Proof.Machine.execVsra g d a b s
  | .vsraLong g d a b m => Sys2Proof.Machine.execVsraLong g d a b m s
  | .vcmp g d a b m => Sys2Proof.Machine.execVcmp g d a b m s
  | .vsel g d a b m => Sys2Proof.Machine.execVsel g d a b m s
  | .vmov g d a => Sys2Proof.Machine.execVmov g d a s
  | .vmovLong g d a m => Sys2Proof.Machine.execVmovLong g d a m s
  | .vsplat g d a => Sys2Proof.Machine.execVsplat g d a s
  | .vsplatLong g d a m => Sys2Proof.Machine.execVsplatLong g d a m s
  | .vextr g d a b => Sys2Proof.Machine.execVextr g d a b s
  | .vextrLong g d a b m => Sys2Proof.Machine.execVextrLong g d a b m s
  | .vcvt g d a m => Sys2Proof.Machine.execVcvt g d a m s
  | .vscale g d a => Sys2Proof.Machine.execVscale g d a s
  | .vscaleLong g d a m => Sys2Proof.Machine.execVscaleLong g d a m s
  | .vexp2 g d a => Sys2Proof.Machine.execVexp2 g d a s
  | .vexp2Long g d a m => Sys2Proof.Machine.execVexp2Long g d a m s
  | .vlog2 g d a => Sys2Proof.Machine.execVlog2 g d a s
  | .vlog2Long g d a m => Sys2Proof.Machine.execVlog2Long g d a m s
  | .vrcp g d a => Sys2Proof.Machine.execVrcp g d a s
  | .vrcpLong g d a m => Sys2Proof.Machine.execVrcpLong g d a m s
  | .vrsq g d a => Sys2Proof.Machine.execVrsq g d a s
  | .vrsqLong g d a m => Sys2Proof.Machine.execVrsqLong g d a m s
  | .vssmx g d a b m => Sys2Proof.Machine.execVssmx g d a b m s
  | .vredsum g d a => Sys2Proof.Machine.execVredsum g d a s
  | .vredsumLong g d a m => Sys2Proof.Machine.execVredsumLong g d a m s
  | .vredmax g d a => Sys2Proof.Machine.execVredmax g d a s
  | .vredmaxLong g d a m => Sys2Proof.Machine.execVredmaxLong g d a m s
  | .vredmin g d a => Sys2Proof.Machine.execVredmin g d a s
  | .vredminLong g d a m => Sys2Proof.Machine.execVredminLong g d a m s
  | .vscan g d a => Sys2Proof.Machine.execVscan g d a s
  | .vscanLong g d a m => Sys2Proof.Machine.execVscanLong g d a m s
  | .vperm g d a b => Sys2Proof.Machine.execVperm g d a b s
  | .vpermLong g d a b m => Sys2Proof.Machine.execVpermLong g d a b m s
  | .vslide g d a m => Sys2Proof.Machine.execVslide g d a m s
  | .vcompress g d a m => Sys2Proof.Machine.execVcompress g d a m s
  | .vexpand g d a m => Sys2Proof.Machine.execVexpand g d a m s
  | .kand g d a b => Sys2Proof.Machine.execKand g d a b s
  | .kandLong g d a b m => Sys2Proof.Machine.execKandLong g d a b m s
  | .kor g d a b => Sys2Proof.Machine.execKor g d a b s
  | .korLong g d a b m => Sys2Proof.Machine.execKorLong g d a b m s
  | .kxor g d a b => Sys2Proof.Machine.execKxor g d a b s
  | .kxorLong g d a b m => Sys2Proof.Machine.execKxorLong g d a b m s
  | .kandn g d a b => Sys2Proof.Machine.execKandn g d a b s
  | .kandnLong g d a b m => Sys2Proof.Machine.execKandnLong g d a b m s
  | .knot g d a => Sys2Proof.Machine.execKnot g d a s
  | .knotLong g d a m => Sys2Proof.Machine.execKnotLong g d a m s
  | .kmov g d a => Sys2Proof.Machine.execKmov g d a s
  | .kmovLong g d a m => Sys2Proof.Machine.execKmovLong g d a m s
  | .kfirst g d a => Sys2Proof.Machine.execKfirst g d a s
  | .kfirstLong g d a m => Sys2Proof.Machine.execKfirstLong g d a m s
  | .kpop g d a => Sys2Proof.Machine.execKpop g d a s
  | .kpopLong g d a m => Sys2Proof.Machine.execKpopLong g d a m s
  | .reel g n1 a => Sys2Proof.Machine.execReel g n1 a s
  | .reelx g n1 a b => Sys2Proof.Machine.execReelx g n1 a b s
  | .convoy n2 u0 u1 u2 u3 u4 u5 => Sys2Proof.Machine.execConvoy n2 u0 u1 u2 u3 u4 u5 s
  | .mclaim g d n => Sys2Proof.Machine.execMclaim g d n s
  | .mclaimElastic g d n => Sys2Proof.Machine.execMclaimElastic g d n s
  | .mrel g d => Sys2Proof.Machine.execMrel g d s
  | .mzero g d => Sys2Proof.Machine.execMzero g d s
  | .mrank g d a => Sys2Proof.Machine.execMrank g d a s
  | .mtr g d a => Sys2Proof.Machine.execMtr g d a s
  | .mdense g d a => Sys2Proof.Machine.execMdense g d a s
  | .mld g d a b => Sys2Proof.Machine.execMld g d a b s
  | .mldSparse g d a b rc mode => Sys2Proof.Machine.execMldSparse g d a b rc mode s
  | .mldf g d a b => Sys2Proof.Machine.execMldf g d a b s
  | .mst g d a b => Sys2Proof.Machine.execMst g d a b s
  | .mstf g d a b => Sys2Proof.Machine.execMstf g d a b s
  | .mma g d a b => Sys2Proof.Machine.execMma g d a b s
  | .msld g d a b n => Sys2Proof.Machine.execMsld g d a b n s
  | .mlmul g d a b => Sys2Proof.Machine.execMlmul g d a b s
  | .mladd g d a b rc re mode => Sys2Proof.Machine.execMladd g d a b rc re mode s
  | .mlrc g d a => Sys2Proof.Machine.execMlrc g d a s
  | .azero g d => Sys2Proof.Machine.execAzero g d s
  | .ald g d a b => Sys2Proof.Machine.execAld g d a b s
  | .ast g d a b => Sys2Proof.Machine.execAst g d a b s
  | .acvt g d a fmt blk rm qd => Sys2Proof.Machine.execAcvt g d a fmt blk rm qd s
  | .pageWalk asd va => Sys2Proof.Machine.execPageWalk asd va s
  | .atsTranslationCompletion pasid va size pa read write => Sys2Proof.Machine.execAtsTranslationCompletion pasid va size pa read write s
  | .priResponse pasid va code => Sys2Proof.Machine.execPriResponse pasid va code s
  | .pageRequestTimeout pasid va => Sys2Proof.Machine.execPageRequestTimeout pasid va s
  | .atsInvalidate pasid va size => Sys2Proof.Machine.execAtsInvalidate pasid va size s
  | .hostOwnership line => Sys2Proof.Machine.execHostOwnership line s
  | .backInvalidationTimeout line sent => Sys2Proof.Machine.execBackInvalidationTimeout line sent s
  | .hostMemAccess pa len write data => Sys2Proof.Machine.execHostMemAccess pa len write data s
  | .peerAccess peer pa len write data tags => Sys2Proof.Machine.execPeerAccess peer pa len write data tags s
  | .lportPost port n value => Sys2Proof.Machine.execLportPost port n value s
  | .hostRecodePort port record => Sys2Proof.Machine.execHostRecodePort port record s
  | .hostDecryptionPort port record => Sys2Proof.Machine.execHostDecryptionPort port record s
  | .decryptionJobComplete => Sys2Proof.Machine.execDecryptionJobComplete s
  | .keySlotWrite slot key => Sys2Proof.Machine.execKeySlotWrite slot key s
  | .pstateRequest req => Sys2Proof.Machine.execPstateRequest req s
  | .pstateTransitionDone => Sys2Proof.Machine.execPstateTransitionDone s
  | .pwrcapWrite value => Sys2Proof.Machine.execPwrcapWrite value s
  | .powerSample avg10us avg1ms => Sys2Proof.Machine.execPowerSample avg10us avg1ms s
  | .powerTrip => Sys2Proof.Machine.execPowerTrip s
  | .thermalLimit source temp => Sys2Proof.Machine.execThermalLimit source temp s
  | .thermalStepDown => Sys2Proof.Machine.execThermalStepDown s
  | .thermalStepUp => Sys2Proof.Machine.execThermalStepUp s
  | .thermalTrip temp => Sys2Proof.Machine.execThermalTrip temp s
  | .hbmTempHot stack temp => Sys2Proof.Machine.execHbmTempHot stack temp s
  | .bobbinPark bobbin => Sys2Proof.Machine.execBobbinPark bobbin s
  | .parkComplete bobbin => Sys2Proof.Machine.execParkComplete bobbin s
  | .parkAbandon bobbin => Sys2Proof.Machine.execParkAbandon bobbin s
  | .bobbinUnpark bobbin => Sys2Proof.Machine.execBobbinUnpark bobbin s
  | .unparkComplete bobbin passed => Sys2Proof.Machine.execUnparkComplete bobbin passed s
  | .predctlClr w value => Sys2Proof.Machine.execPredctlClr w value s
  | .expqSubmit core value => Sys2Proof.Machine.execExpqSubmit core value s
  | .exportJobComplete => Sys2Proof.Machine.execExportJobComplete s
  | .bankcfgWrite slot value => Sys2Proof.Machine.execBankcfgWrite slot value s
  | .qcfgWrite slot q value => Sys2Proof.Machine.execQcfgWrite slot q value s
  | .registerWrite w offset size value => Sys2Proof.Machine.execRegisterWrite w offset size value s
  | .msixUnmask port vector => Sys2Proof.Machine.execMsixUnmask port vector s
  | .moduleReset => Sys2Proof.Machine.execModuleReset s
  | .lifeCycleChange lcs => Sys2Proof.Machine.execLifeCycleChange lcs s
  | .linkReplay port => Sys2Proof.Machine.execLinkReplay port s
  | .linkReplayThreshold port => Sys2Proof.Machine.execLinkReplayThreshold port s
  | .linkDown port inFlight => Sys2Proof.Machine.execLinkDown port inFlight s
  | .linkTrained port => Sys2Proof.Machine.execLinkTrained port s
  | .distaffRestart => Sys2Proof.Machine.execDistaffRestart s
  | .distaffWatchdog => Sys2Proof.Machine.execDistaffWatchdog s
  | .uncontainedError src cause => Sys2Proof.Machine.execUncontainedError src cause s
  | .taskTake queue => Sys2Proof.Machine.execTaskTake queue s
  | .waitConditionRecheck task k => Sys2Proof.Machine.execWaitConditionRecheck task k s
  | .hankAdmit task => Sys2Proof.Machine.execHankAdmit task s
  | .stagingCopy task wid region lines => Sys2Proof.Machine.execStagingCopy task wid region lines s
  | .stagingLanded task wid => Sys2Proof.Machine.execStagingLanded task wid s
  | .stagingWindow bobbin => Sys2Proof.Machine.execStagingWindow bobbin s
  | .slotReserve task wid => Sys2Proof.Machine.execSlotReserve task wid s
  | .hankDispatch task wid => Sys2Proof.Machine.execHankDispatch task wid s
  | .hankEnd slot => Sys2Proof.Machine.execHankEnd slot s
  | .preempt task wid => Sys2Proof.Machine.execPreempt task wid s
  | .saveComplete slot => Sys2Proof.Machine.execSaveComplete slot s
  | .resume task wid => Sys2Proof.Machine.execResume task wid s
  | .hankAgeing task wid => Sys2Proof.Machine.execHankAgeing task wid s
  | .issueStarvation slot c => Sys2Proof.Machine.execIssueStarvation slot c s
  | .shapeLearn task d => Sys2Proof.Machine.execShapeLearn task d s
  | .shapeTimeout task d => Sys2Proof.Machine.execShapeTimeout task d s
  | .hankWatchdog slot => Sys2Proof.Machine.execHankWatchdog slot s
  | .eventWatchdog core => Sys2Proof.Machine.execEventWatchdog core s
  | .supervisorEventTake bobbin => Sys2Proof.Machine.execSupervisorEventTake bobbin s
  | .queueSpaceWake slot c => Sys2Proof.Machine.execQueueSpaceWake slot c s
  | .queueEntryWake slot c => Sys2Proof.Machine.execQueueEntryWake slot c s
  | .queueEntryPlaced slot q => Sys2Proof.Machine.execQueueEntryPlaced slot q s
  | .elementGroupArrival slot v group => Sys2Proof.Machine.execElementGroupArrival slot v group s
  | .barrierComplete slot => Sys2Proof.Machine.execBarrierComplete slot s
  | .rendezvousComplete slot => Sys2Proof.Machine.execRendezvousComplete slot s
  | .sigwaitRetest slot c => Sys2Proof.Machine.execSigwaitRetest slot c s
  | .copyCommandStart slot cq => Sys2Proof.Machine.execCopyCommandStart slot cq s
  | .completionBitSet slot cq chunk => Sys2Proof.Machine.execCompletionBitSet slot cq chunk s
  | .copyCommandComplete slot cq => Sys2Proof.Machine.execCopyCommandComplete slot cq s
  | .qfenceComplete slot => Sys2Proof.Machine.execQfenceComplete slot s
  | .streamRefill slot q => Sys2Proof.Machine.execStreamRefill slot q s
  | .recodeLineRewrite stack => Sys2Proof.Machine.execRecodeLineRewrite stack s
  | .recodeJobComplete => Sys2Proof.Machine.execRecodeJobComplete s
  | .modulePowerOff => Sys2Proof.Machine.execModulePowerOff s
  | .hbmStackCooled stack temp => Sys2Proof.Machine.execHbmStackCooled stack temp s
  | .backInvalidationResponse line data => Sys2Proof.Machine.execBackInvalidationResponse line data s
  | .priEnableWrite port enable => Sys2Proof.Machine.execPriEnableWrite port enable s
  | .loadDataReturn a k => Sys2Proof.Machine.execLoadDataReturn a k s
  | .spdmMeasurementRequest port nonce => Sys2Proof.Machine.execSpdmMeasurementRequest port nonce s

end Sys2Proof.Machine
end

