-- ==== Sys2Proof/Machine/Turn.lean ====
section
/-! DEFINITION. Turns: which agent moves, and what the step does before an instruction has its effect. -/

namespace Sys2Proof.Machine

/-- Time passes and the step number rises. -/
def State.tick (s : State) : State := { s with timeNs := s.timeNs + Config.elapsedNs s.stepNo, stepNo := s.stepNo + 1 }

/-- The turn that the step takes: the first that State names, or a free value (log entry 2). -/
def State.turn (s : State) : Option Turn :=
  match s.turns with
  | t :: _ => some t
  | [] => Config.freeTurn s.stepNo

/-- The state in which the turn is taken. -/
def State.afterTurn (s : State) : State := State.tick { s with turns := s.turns.tail }

/-- The agent becomes the executing one. -/
def State.begin (s : State) (a : Agent) : State := { s with cur := a }

/-- The row of the opcode table is an event, not an instruction. -/
def isEvent (i : Instr) : Bool := i.home == .event

/-- Where the model places a word to be fetched next: page, address-space descriptor 0 and context slot 0. -/
def fetchBase : Nat := 0x10000

/-- The site that decodes a word of the opcode table first, in the order of `decodeTableWord`. -/
noncomputable def siteOfWord (nbits w : Nat) : Site :=
  let p := BitVec.ofNat 32 (w % 2 ^ nbits)
  let q := BitVec.ofNat 32 ((w % 2 ^ nbits) >>> 32)
  ([Site.cl .C, .cl .V, .cl .A, .cl .M, .sup].find? fun site => (decode site p q).toOption.isSome).getD (.cl .C)

/-- The agent that runs the instructions of a site, in slot 0 or core 0. -/
def agentOfSite : Site → Agent
  | .cl c => .cluster 0 c
  | .sup => .sup 0

/-- A cluster about to fetch at `fetchBase`. -/
def Cluster.atBase (x : Cluster) : Cluster :=
  { x.proceed with pc := BitVec.ofNat 64 fetchBase, convoy := none, reel := none, pend := [], start := [], atConvoy := false, stores := [] }

/-- The translation through which context slot 0 fetches. -/
def fetchEntry (asd : Nat) : TlbEntry :=
  { unit := unitOf 0, asd := asd, pasid := 0, va := fetchBase, size := 65536, pa := fetchBase, leaf := 0, r := true, w := true, x := true
    u := true, d := true, mig := false, pslot := 0, folded := false, ats := false, par := .raw }

/-- A context of slot 0 holding a hank that may issue. -/
def Ctx.issuing (x : Ctx) : Ctx :=
  { x with hank := some (x.hank.getD (0, 0)), event := none, dying := none, held := [], cbtPending := false, reissue := [] }

/-- Prepares an agent to fetch at `fetchBase`. -/
def State.prepare (s : State) : Agent → State
  | .cluster k c =>
    let s1 := s.modCtx k fun x => (x.issuing).modCl c Cluster.atBase
    let s2 := match s1.hankAt k with
      | some h => s1.modHank h.task h.wid fun h => { h with state := .running }
      | none => s1
    { s2 with tlb := fetchEntry (s2.ctx k).asd :: s2.tlb }
  | .sup n => s.setCore n { s.core n with busy := true, cl := (s.core n).cl.atBase }

end Sys2Proof.Machine
end

