-- ==== Sys2Proof/Machine/Happenings.lean ====
section
/-! DEFINITION. What happens beside instructions and the rows of the opcode table: errors in storage (R393, R394, R400, R431), stops of
vector instructions part-way (R188, R191), stores performed late (R138), the traffic of caches and TLBs (R118, R119, R125), protected
ranges (R382), and unfolding (R133). -/

namespace Sys2Proof.Machine

/-! ### Errors in storage -/

/-- A corrected error counts in BOBCEn, or in CRELCE (R394, R400). -/
def State.countCorrected (s : State) (bobbin : Option Nat) : State :=
  match bobbin with
  | some b => if b < 8 then s.modCreel fun c => { c with bobce := c.bobce.modify 0 b fun v => v + 1 } else s
  | none => s.modCreel fun c => { c with crelce := c.crelce + 1 }

/-- A cache line with an uncorrectable error (R393): a clean one is fetched again and counted, a dirty one becomes POISON and is written
back, with a record under cause 0x0122 (R420). -/
def State.upsetCached (s : State) (l1 : Bool) (place : Nat) : State :=
  match s.cachedAt l1 place with
  | none => s
  | some c =>
    let b := if l1 then l1Bobbin place else l2Bobbin place
    if c.dirty then
      let t := (s.poisonLine (c.line * 128)).recall c.line
      (t.report (t.recOf (0x628 + b) 3 0x0122 (c.line * 128) 0)).wakeLine (c.line * 128)
    else (if l1 then s.evictL1 place else s.evictL2 place).countCorrected (some b)

/-- State of a context is lost (R393). -/
def State.upsetContext (s : State) (slot : Nat) : State :=
  if (s.ctx slot).hank.isSome then s.terminate slot (s.ctxRec slot 4 0x0410 (s.ctx slot).c.pc 0 0) else s

/-- The record of a suspended hank's lost line: no context holds the hank, and the bobbin's own source serves (log entry 68). -/
def State.heldRec (s : State) (h : Hank) (bobbin : Nat) : Rec :=
  { ts := s.timeNs, src := 0x628 + bobbin, cls := 4, cause := 0x0411, task := h.task, hwid := h.wid, pc := 0, addr := 0, info := 0 }

/-- An entry of a Provisional Line Buffer is lost (R393): its hank holds the error back while it is provisional (R445). -/
def State.upsetHeld (s : State) (bobbin i : Nat) : State :=
  match (s.plb.get [] bobbin)[i]? with
  | none => s
  | some e =>
    match s.findHank e.task e.wid with
    | none => s
    | some h =>
      match h.slot with
      | some k => s.terminate k (s.ctxRec k 4 0x0411 (s.ctx k).c.pc 0 0)
      | none =>
        if (fatalOf h.held).isSome then s
        else s.modHank h.task h.wid fun x => { x with held := x.held ++ [.fatal (s.heldRec h bobbin)] }

/-- An error in a storage structure (R393, R394, R400, R431). -/
def State.upset (s : State) (u : Upset) : State :=
  match u with
  | .corrected b => s.countCorrected b
  | .block pa bits => if s.region pa == .hbm then s.setBlock pa { s.blockAt pa with errors := (s.blockAt pa).errors + bits } else s
  | .cached l1 place => s.upsetCached l1 place
  | .context slot => s.upsetContext slot
  | .held b i => s.upsetHeld b i
  | .predictor i => if i < 1024 then { s with predictor := s.predictor.set .initial i .initial } else s
  | .array (some b) => if b < 8 then s.uncontained (0x628 + b) 0x0410 else s
  | .array none => s.uncontained 0x630 0x0410
  | .outside pa poisoned =>
    match s.region pa with
    | .tier _ | .host => { s with extPoison := s.extPoison.set false (pa / 128) poisoned }
    | _ => s

/-! ### Vector instructions that stop part-way -/

/-- Every vector register keeps its format and its BLK. -/
def Ctx.sameTags (x y : Ctx) : Bool :=
  (x.vregs ++ y.vregs).all fun p =>
    let t := (x.vregs.get .initial p.1).strip.tag
    let u := (y.vregs.get .initial p.1).strip.tag
    t.fmt == u.fmt && t.blk == u.blk

/-- The open members of a convoy before member `j` have performed at least the elements below `hi`, so that what member `j` does up to
there is what it does after them (R188, R230). -/
noncomputable def Ctx.membersAhead (x : Ctx) (cv : Convoy) (j hi : Nat) : Bool :=
  (List.range' cv.next (j - cv.next)).all fun m =>
    x.v.start.get 0 m == 0xFFFF
      || (match cv.members[m]? with
        | some p => match decode (.cl .V) p.1 p.2 with
          | .ok i => (groupField i).isSome && decide (hi ≤ x.startElem m i)
          | .error _ => false
        | none => false)

/-- The V cluster stands at member `j` of its convoy, or at the lone instruction 0, which is not complete. -/
def Cluster.atMember (x : Cluster) (j : Nat) : Option Cluster :=
  if x.start.get 0 j = 0xFFFF then none
  else match x.convoy with
    | none => if j = 0 then some x else none
    | some cv => if cv.next ≤ j ∧ j < cv.members.length then some { x with convoy := some { cv with next := j } } else none

/-- The V cluster `x` has performed member `j` up to group `g`, as `t` shows it; what the instruction does to the cluster's place is
undone. -/
def State.stoppedAt (t : State) (slot : Nat) (x : Cluster) (j g : Nat) : State :=
  t.modCtx slot fun y => { y with v := { x with start := x.start.set 0 j (BitVec.ofNat 16 g), efc := y.v.efc, stores := y.v.stores } }

/-- The element groups below `g` of the V cluster's instruction, or of convoy member `j`, are performed (R188, R191): the instruction
acts on these elements alone, completes them without a trap, fault or wait, moves no queue entry and changes no register's format. -/
noncomputable def State.runGroups (s : State) (slot j g : Nat) : State :=
  let a : Agent := .cluster slot .V
  let c := s.ctx slot
  match c.v.atMember j with
  | none => s
  | some x =>
    let b := (s.begin a).modMe fun _ => x
    if !s.canRun a || c.v.run != .running || !c.v.pend.isEmpty then s
    else match (fetchNext.run.run b : Except Stop Instr × State) with
      | (.error _, _) => s
      | (.ok i, t) =>
        match groupField i with
        | none => s
        | some f =>
          let hi := g * perGroup (c.groupFmt f)
          let ahead := c.v.convoy.all fun cv => cv.next == j || c.membersAhead cv j hi
          if t.vregsPart i || !ahead || decide (g ≤ (c.v.start.get 0 j).toNat) || decide (0xFFFF ≤ g) then s
          else match exec i ((t.enter i false).modMe fun y => { y with hi := some hi }) with
            | .next u =>
              let d := u.ctx slot
              if u.mayIssue slot && d.v.run == .running && d.sameTags c && d.queues == c.queues
                && (c.v.convoy.all fun cv => cv.next == j || d.v.efc == c.v.efc)
              then { u.stoppedAt slot c.v j g with cur := s.cur } else s
            | _ => s

/-! ### The rest -/

/-- A cluster's oldest issued store is performed (R138). -/
def State.performFirst (s : State) (slot : Nat) (c : Cl) : State :=
  match ((s.ctx slot).cl c).stores with
  | [] => s
  | a :: l => (s.performStore slot a).modCtx slot fun x => x.modCl c fun y => { y with stores := l }

/-- A line may enter a cache place (R118, R119): a way of L1 is a CACHE bank, and Creel registers are not cached. -/
def State.fillable (s : State) (l1 : Bool) (place line : Nat) : Bool :=
  (match s.region (line * 128) with
    | .creel | .outside => false
    | _ => true) && !s.ownedByHost (line * 128)
    && if l1 then decide (l1Spindle place < 480) && s.bank (l1Spindle place) (l1Bank place) == .cache else decide (l2Bobbin place < 8)

/-- A line enters a cache place. -/
def State.fill (s : State) (l1 : Bool) (place line : Nat) : State :=
  if !s.fillable l1 place line then s else if l1 then s.fillL1 place line else s.fillL2 place line

/-- A TLB drops an entry (R125) that no access waits for (R425). -/
def State.dropTranslation (s : State) (i : Nat) : State :=
  match s.tlb[i]? with
  | some e => if e.mig then s else { s with tlb := s.tlb.eraseIdx i }
  | none => s

/-- The Distaff sets protected range `i`, of the sixteen (R382). A length of 0 leaves it empty. -/
def State.protect (s : State) (i base len : Nat) : State :=
  if !s.distaffRuns || decide (16 ≤ i) || decide (s.ranges.length < i) || decide (hbmEnd < base + len) then s
  else { s with ranges := s.ranges.take i ++ [(base, base + len)] ++ s.ranges.drop (i + 1) }

/-- An engine moves the next line of a page that it unfolds (R133). -/
def State.moveNext (s : State) (i : Nat) : State :=
  match s.moves[i]? with
  | some m => if m.hank.isNone then s.moveLine none m else s
  | none => s

/-- What happens beside instructions and events. -/
noncomputable def State.happens (s : State) (h : Happening) : State :=
  match h with
  | .upset u => s.upset u
  | .groups (.cluster slot .V) j g => s.runGroups slot j g
  | .groups .. => s
  | .perform (.cluster slot c) => s.performFirst slot c
  | .perform _ => s
  | .fill l1 place line => s.fill l1 place line
  | .evict l1 place => if l1 then s.evictL1 place else s.evictL2 place
  | .dropTranslation i => s.dropTranslation i
  | .dropWalk b i => { s with walkCache := s.walkCache.modify [] b fun l => l.eraseIdx i }
  | .protect i base len => s.protect i base len
  | .landQueue slot q g => s.modCtx slot fun x => x.landQueue q g
  | .unfold asd vas => s.unfoldBegin asd vas
  | .moveNext i => s.moveNext i

end Sys2Proof.Machine
end

