-- ==== Sys2Proof/Machine/Step.lean ====
section
/-! DEFINITION. One step of the module. -/

namespace Sys2Proof.Machine

/-- Executes a decoded instruction as its packet issues; the result of a load may land late. -/
def State.execLate (i : Instr) (late : Bool) (s : State) : Host.Outcome State Fault Refusal :=
  match exec i (s.enter i late) with
  | .next t => .next (if late then s.defer i t else t)
  | o => o

/-- The executing agent is the A cluster of a resumed hank that has queue loads to make again (R194, R267). -/
def State.mustReissue (s : State) : Bool := s.cur == .cluster s.slot .A && !s.myCtx.reissue.isEmpty

/-- An agent takes its turn: it fetches, decodes and executes its next instruction. A load that is still to land is waited for, and
queue loads that pre-emption has cut short are made again first. -/
noncomputable def State.runAgent (s : State) (a : Agent) (late : Bool) : Host.Outcome State Fault Refusal :=
  if !s.canRun a then .next s
  else
    let b := s.begin a
    if b.loadPending then .next (b.halt (.wait .load))
    else if b.mustReissue then finish (reissueLoads b.myCtx.reissue) b
    else match (fetchNext.run.run b : Except Stop Instr × State) with
      | (.ok i, t) => if t.vregsPart i then .next (t.halt (.wait .load)) else t.execLate i late
      | (.error x, t) => .next (t.halt x)

/-- One step: the turn of an agent, an event, or what happens beside them; with the main rails lost the machine stops (R12). -/
noncomputable def step (s : State) : Host.Outcome State Fault Refusal :=
  if !s.powered then .fault .unpowered
  else match s.turn with
    | none => .next s.afterTurn
    | some (.run a late) => s.afterTurn.runAgent a late
    | some (.event i) => if isEvent i then exec i s.afterTurn else .next s.afterTurn
    | some (.happen h) => .next (s.afterTurn.happens h)

/-- The instruction of the words `w` stored where the next step fetches: at `fetchBase`, in the cluster or supervisor core
that decodes it first, whose turn comes next (log entry 12). -/
noncomputable def State.withFetchWord (s : State) (nbits w : Nat) : State :=
  let a := agentOfSite (siteOfWord nbits w)
  let s1 := s.prepare a
  { s1.setBytes fetchBase (leBytes 8 (w % 2 ^ nbits)) with turns := [.run a false], powered := true }

end Sys2Proof.Machine
end

