-- ==== Sys2Proof/Safety.lean ====
section
/-! DEFINITION. The terms of the statements: well-formed states, what an instruction leaves unchanged, when an access succeeds,
and the rules of whole families as tables. -/

namespace Sys2Proof

/-- The memory of a state has its canonical form. -/
def MemOk (s : Machine.State) : Prop := Machine.Memory.wf s.mem = true

namespace Machine

/-! ### Frames -/

/-- Nothing changes outside the executing agent's context or core: no byte of memory, no tag, no register of the module, no engine,
no other context and no other core. -/
def Elsewhere (s t : State) : Prop :=
  t = { s with ctxs := t.ctxs, sup := t.sup } ∧ (∀ k, s.isSup = true ∨ k ≠ s.slot → t.ctx k = s.ctx k)
    ∧ ∀ n, s.cur ≠ .sup n → t.core n = s.core n

/-- Of the executing context only FLAGS and the executing cluster change, and of an executing core only its cluster. -/
def OthersKept (s t : State) : Prop :=
  (s.isSup = false →
    t.myCtx = { s.myCtx with c := t.myCtx.c, a := t.myCtx.a, v := t.myCtx.v, m := t.myCtx.m, flags := t.myCtx.flags }
      ∧ ∀ c, c ≠ s.cl → t.myCtx.cl c = s.myCtx.cl c)
  ∧ ∀ n, s.cur = .sup n → t.core n = { s.core n with cl := (t.core n).cl }

/-- A cluster keeps its predicates, VL, EFC and outstanding loads: only its scalar registers, its position and its waiting
change. -/
def Cluster.SameButScalars (x y : Cluster) : Prop :=
  y.g = x.g ∧ y.vl = x.vl ∧ y.efc = x.efc ∧ y.pend = x.pend ∧ y.yielded = x.yielded

/-- The executing cluster has completed an instruction of `len` bytes: it runs and stands behind it (R30, R217). -/
def Passed (s t : State) (len : Nat) : Prop :=
  t.me.run = .running ∧ t.me.wait = none ∧ t.me.pc = (s.me.retire len).pc ∧ t.me.reel = (s.me.retire len).reel
    ∧ t.me.convoy = (s.me.retire len).convoy

/-- Scalar register `d` takes `v`, FLAGS gain `fl`, and nothing else changes but the position: every other register, flag, byte of
memory and agent is as before. A write to s0 is discarded (R40, R245). -/
def ScalarResult (s t : State) (d : RegF) (v : Word) (fl : Flags) (len : Nat) : Prop :=
  Elsewhere s t ∧ OthersKept s t ∧ Passed s t len
    ∧ Cluster.SameButScalars s.me t.me
    ∧ t.readS d = (if d = 0 then 0 else v) ∧ (∀ r, r ≠ d → t.readS r = s.readS r)
    ∧ (s.isSup = false → t.myCtx.flags = s.myCtx.flags ||| fl)

/-! ### Scalar instructions as tables (R247 .. R249, R256) -/

/-- An integer clamped to 64 signed bits, and SAT where the value changes (R247). -/
def clamp64 (n : Int) : Word × Flags :=
  (BitVec.ofInt 64 (max (-(2 ^ 63)) (min (2 ^ 63 - 1) n)),
    Flags.when (decide (n < -(2 ^ 63)) || decide (2 ^ 63 - 1 < n)) Flags.sat)

/-- The result and flags of every instruction `sd, sa, sb` from the sources' values (R247, R249, R256). -/
def scalarTwo : List ((Guard → RegF → RegF → RegF → Instr) × (Word → Word → Word × Flags)) := [
  (.add, fun x y => (BitVec.ofNat 64 (x.toNat + y.toNat), 0)),
  (.sub, fun x y => (BitVec.ofInt 64 (x.toInt - y.toInt), 0)),
  (.and, fun x y => (x &&& y, 0)),
  (.or, fun x y => (x ||| y, 0)),
  (.xor, fun x y => (x ^^^ y, 0)),
  (.andn, fun x y => (x &&& ~~~y, 0)),
  (.shl, fun x y => (BitVec.ofNat 64 (x.toNat * 2 ^ (y.toNat % 64)), 0)),
  (.shr, fun x y => (BitVec.ofNat 64 (x.toNat / 2 ^ (y.toNat % 64)), 0)),
  (.sra, fun x y => (BitVec.ofInt 64 (x.toInt / 2 ^ (y.toNat % 64)), 0)),
  (.ror, fun x y => (x >>> (y.toNat % 64) ||| x <<< (64 - y.toNat % 64), 0)),
  (.min, fun x y => (BitVec.ofInt 64 (Min.min x.toInt y.toInt), 0)),
  (.max, fun x y => (BitVec.ofInt 64 (Max.max x.toInt y.toInt), 0)),
  (.minu, fun x y => (BitVec.ofNat 64 (Min.min x.toNat y.toNat), 0)),
  (.maxu, fun x y => (BitVec.ofNat 64 (Max.max x.toNat y.toNat), 0)),
  (.adds, fun x y => clamp64 (x.toInt + y.toInt)),
  (.subs, fun x y => clamp64 (x.toInt - y.toInt)),
  (.shls, fun x y => clamp64 (x.toInt * 2 ^ (y.toNat % 64)))]

/-- The products and quotients of R249. -/
def scalarMul : List ((Guard → RegF → RegF → RegF → Instr) × (Word → Word → Word × Flags)) := [
  (.mul, fun x y => (BitVec.ofNat 64 (x.toNat * y.toNat), 0)),
  (.mulh, fun x y => (BitVec.ofInt 64 (x.toInt * y.toInt / 2 ^ 64), 0)),
  (.mulhu, fun x y => (BitVec.ofNat 64 (x.toNat * y.toNat / 2 ^ 64), 0)),
  (.muls, fun x y => clamp64 (x.toInt * y.toInt)),
  (.div, fun x y => if y = 0 then (BitVec.allOnes 64, Flags.dz) else (BitVec.ofInt 64 (x.toInt.tdiv y.toInt), 0)),
  (.divu, fun x y => if y = 0 then (BitVec.allOnes 64, Flags.dz) else (BitVec.ofNat 64 (x.toNat / y.toNat), 0)),
  (.rem, fun x y => if y = 0 then (x, Flags.dz) else (BitVec.ofInt 64 (x.toInt.tmod y.toInt), 0)),
  (.remu, fun x y => if y = 0 then (x, Flags.dz) else (BitVec.ofNat 64 (x.toNat % y.toNat), 0))]

/-- The FP32 operations on bits [31:0] of two sources (R256). -/
def scalarFp2 : List ((Guard → RegF → RegF → RegF → Instr) × (F32 → F32 → F32 × Flags)) := [
  (.fadd, f32Add), (.fsub, f32Sub), (.fmul, f32Mul),
  (.fmin, fun x y => ((rn (Val.fmin x.val y.val)).1, 0)),
  (.fmax, fun x y => ((rn (Val.fmax x.val y.val)).1, 0))]

/-- Bits [31:0] hold a NaN (R52). -/
def nan32 (x : Word) : Bool := decide (0x7F800000 < x.toNat % 2 ^ 31)

/-- Instructions `sd, sa` (R247, R256). -/
def scalarOne : List ((Guard → RegF → RegF → Instr) × (Word → Word × Flags)) := [
  (.clz, fun x => (BitVec.ofNat 64 ((List.range 64).reverse.takeWhile fun i => !x.getLsbD i).length, 0)),
  (.ctz, fun x => (BitVec.ofNat 64 ((List.range 64).takeWhile fun i => !x.getLsbD i).length, 0)),
  (.popc, fun x => (BitVec.ofNat 64 ((List.range 64).filter fun i => x.getLsbD i).length, 0)),
  (.fcvtf, fun x => ((rn (Val.ofInt x.toInt)).1.setWidth 64, (rn (Val.ofInt x.toInt)).2)),
  (.fcvtfu, fun x => ((rn (Val.ofInt (x.toNat : Int))).1.setWidth 64, (rn (Val.ofInt (x.toNat : Int))).2)),
  (.fcvti, fun x => roundTo Fmt.i64 .rne (F32.val (x.setWidth 32))),
  (.fcvtiu, fun x => roundTo Fmt.u64 .rne (F32.val (x.setWidth 32))),
  (.fabs, fun x => (if nan32 x then 0x7FC00000 else x &&& 0x7FFFFFFF, 0)),
  (.fneg, fun x => (if nan32 x then 0x7FC00000 else (x &&& 0xFFFFFFFF) ^^^ 0x80000000, 0))]

/-- Instructions `sd, sa, imm11` (R248). -/
def scalarImm : List ((Guard → RegF → RegF → BitVec 11 → Instr) × (Word → Word → Word)) := [
  (.addi, fun x i => BitVec.ofInt 64 (x.toInt + i.toInt)),
  (.andi, fun x i => x &&& i), (.ori, fun x i => x ||| i), (.xori, fun x i => x ^^^ i)]

/-- Instructions `sd, sa, imm6` (R248). -/
def scalarShift : List ((Guard → RegF → RegF → BitVec 6 → Instr) × (Word → Nat → Word)) := [
  (.shli, fun x n => BitVec.ofNat 64 (x.toNat * 2 ^ n)),
  (.shri, fun x n => BitVec.ofNat 64 (x.toNat / 2 ^ n)),
  (.srai, fun x n => BitVec.ofInt 64 (x.toInt / 2 ^ n)),
  (.rori, fun x n => x >>> n ||| x <<< (64 - n))]

/-! ### Compares and branches -/

/-- The conditions of R222 on two words, codes 0 .. 7. -/
def intCond (c : Nat) (x y : Word) : Bool :=
  match c with
  | 0 => decide (x = y)
  | 1 => decide (x ≠ y)
  | 2 => decide (x.toInt < y.toInt)
  | 3 => decide (y.toInt ≤ x.toInt)
  | 4 => decide (x.toNat < y.toNat)
  | 5 => decide (y.toNat ≤ x.toNat)
  | 6 => decide (x &&& y ≠ 0)
  | _ => decide (x &&& y = 0)

/-- The conditions of R222 on the FP32 values of bits [31:0], codes 8 .. 12, and the flags of R246. -/
def floatCond (c : Nat) (x y : Word) : Bool × Flags :=
  let nan := nan32 x || nan32 y
  let o := Val.cmp (F32.val (x.setWidth 32)) (F32.val (y.setWidth 32))
  match c with
  | 8 => (!nan && o == Ordering.eq, 0)
  | 9 => (nan || o != Ordering.eq, 0)
  | 10 => (!nan && o == Ordering.lt, if nan then Flags.nv else 0)
  | 11 => (!nan && o != Ordering.gt, if nan then Flags.nv else 0)
  | _ => (nan, 0)

/-- Predicate `gt` takes `r` and then `gf` its negation, FLAGS gain `fl`, and nothing else changes but the position; a write to g7
is discarded (R40, R222). -/
def PredResult (s t : State) (gt gf : BitVec 3) (r : Bool) (fl : Flags) (len : Nat) : Prop :=
  Elsewhere s t ∧ OthersKept s t ∧ Passed s t len
    ∧ t.me.s = s.me.s ∧ t.me.vl = s.me.vl ∧ t.me.efc = s.me.efc ∧ t.me.pend = s.me.pend
    ∧ (∀ p, t.readG p = if p = 7 then true else if p = gf then !r else if p = gt then r else s.readG p)
    ∧ (s.isSup = false → t.myCtx.flags = s.myCtx.flags ||| fl)

/-- The executing cluster goes to `target`, and of the registers only those change that `regs` says; memory and every other agent are
as before (R254). -/
def Jumped (s t : State) (target : Word) (regs : RegF → Word) : Prop :=
  Elsewhere s t ∧ OthersKept s t ∧ t.me.pc = target ∧ t.me.run = .running ∧ t.me.wait = none
    ∧ Cluster.SameButScalars s.me t.me ∧ (∀ r, t.readS r = regs r) ∧ t.myCtx.flags = s.myCtx.flags

/-- The scalar registers after a write of `v` to `d`; s0 reads zero (R40). -/
def State.regsWith (s : State) (d : RegF) (v : Word) (r : RegF) : Word :=
  if r = d ∧ d ≠ 0 then v else s.readS r

/-- `disp` parcels from the PC (R220). -/
def State.parcelsOn (s : State) (disp : Int) : Word := s.me.pc + BitVec.ofInt 64 (4 * disp)

/-! ### Accesses to memory -/

/-- The state in which an access of a context to `va` is decided: the blocks that its walk reads have been checked, and corrected or
made POISON (R72, R73, R432). Where the translation is cached, or no such block holds a bit error, it is `s` itself. -/
def State.opened (s : State) (slot : Nat) (va : Word) : State := s.prewalk (unitOf slot) (s.ctx slot).asd va

/-- The state in which an access to `va` through `x` meets its line: the translation has taken effect (R125) and the line's block has
been read (R72, R431, R432). -/
def State.accessed (s : State) (slot : Nat) (va : Word) (x : Xlate) : State := (s.opened slot va).touch [x]

/-- Every check that R421 makes before the line itself passes for an access of the context in `slot`. -/
def State.Admits (s : State) (slot : Nat) (k : MemKind) (va : Word) (aligned : Bool) (x : Xlate) : Prop :=
  (s.opened slot va).access slot k va aligned = .ok x ∧ (s.opened slot va).reach slot k x = .ok ()

/-- The context in `slot` reads `n` bytes at `va` through the translation `x`: every check of R421 passes, and the page shows the
number `v`; `z` says that POISON was zero-substituted (R68, R258). A Creel register reads 0 through a translation (R390). -/
def State.Reads (s : State) (slot : Nat) (k : MemKind) (va : Word) (n : Nat) (x : Xlate) (v : Nat) (z : Bool) : Prop :=
  s.Admits slot k va (decide (va.toNat % n = 0)) x
    ∧ let t := s.accessed slot va x
      if t.region x.pa = .creel then v = 0 ∧ z = false
      else (t.seenLine slot x).readRaw x.typed x.par.w x.par.ppol (x.va % 128) n = .ok (v, z)

/-- The state that a raw read leaves, before its instruction writes a result: what the access itself did, and the records of
poisoned host data and of zero-substituted POISON (R429, R431). -/
def State.afterRead (s : State) (slot : Nat) (k : MemKind) (va : Word) (x : Xlate) (z : Bool) : State :=
  let t := s.accessed slot va x
  let u := t.noteOutside slot t.instrPc (BitVec.ofNat 64 t.cl.code) k [x]
  u.noteZeroed slot u.instrPc (t.zeroInfo k x) (if z then [x.va] else [])

/-- The context in `slot` may write the bytes `data` at `va` through `x`: every check of R421 passes, a provisional hank finds room in
the Provisional Line Buffer (R207), and the store is not one that the model performs later (R138). -/
def State.Writes (s : State) (slot : Nat) (k : MemKind) (va : Word) (data : List Byte) (x : Xlate) : Prop :=
  s.Admits slot k va (decide (va.toNat % data.length = 0)) x ∧ s.me.late = false
    ∧ let t := s.accessed slot va x
      t.region x.pa ≠ .creel
      ∧ (∃ l z, (t.seenLine slot x).storeRaw x.typed x.par.w x.par.ppol x.par.expf (x.va % 128) data = .ok (l, z)
          ∧ t.plyConflict x l = false)
      ∧ ((s.ctx slot).provisional = false ∨ (s.ctx slot).hank = none ∨ (s.plbEntry slot x.va).isSome = true
          ∨ (s.plb.get [] (bobbinOf slot)).length < plbSize)

/-- The read of the block or line at `pa` leaves no trace: it holds no bit error, and is not marked poisoned outside (R72, R431). -/
def State.CleanAt (s : State) (pa : Nat) : Prop := (s.blockAt pa).errors = 0 ∧ s.extPoison.get false (pa / 128) = false

/-- The translation is cached in the TLB of the context and sets no D bit, its block holds no bit error, and its line is not marked
poisoned outside: an access leaves no trace of its own. -/
def State.Quiet (s : State) (slot : Nat) (x : Xlate) : Prop :=
  s.opened slot (BitVec.ofNat 64 x.va) = s ∧ x.walked = false ∧ x.setD = false ∧ x.entry.unit = x.unit ∧ s.CleanAt x.pa

/-- Memory after the bytes `data` have been stored through `x` on a page that is not folded, where `s` is the state in which the
access meets its line: those bytes hold `data`, the other bytes of a line that was not VALID read 0, and every other byte is as
before, but for the D bit of the page's leaf entry (R68, R125, R258). -/
def MemoryAfterStore (s t : State) (slot : Nat) (x : Xlate) (data : List Byte) : Prop :=
  x.typed = false ∨ x.entry.folded = false → ∀ a, x.setD = false ∨ a ≠ x.entry.leaf →
    t.byteAt a =
      if x.pa / 128 * 128 + x.va % 128 ≤ a ∧ a < x.pa / 128 * 128 + x.va % 128 + data.length then
        data.getD (a - (x.pa / 128 * 128 + x.va % 128)) 0
      else if a / 128 = x.pa / 128 ∧ (s.seenLine slot x).tag.cls x.typed x.par.w ≠ .valid then 0
      else s.byteAt a

/-- Every context, core and register is as before, but that the executing cluster has completed an instruction of `len` bytes, and
that FLAGS may have gained PZS. -/
def OnlyCompleted (s t : State) (len : Nat) : Prop :=
  t.cur = s.cur ∧ t.me = s.me.retire len ∧ (∀ k, s.isSup = true ∨ k ≠ s.slot → t.ctx k = s.ctx k)
    ∧ (∀ c, s.isSup = true ∨ c ≠ s.cl → t.myCtx.cl c = s.myCtx.cl c)
    ∧ (∃ fl : Flags, t.myCtx =
        { s.myCtx with c := t.myCtx.c, a := t.myCtx.a, v := t.myCtx.v, m := t.myCtx.m, flags := s.myCtx.flags ||| fl })
    ∧ ∀ n, s.cur ≠ .sup n → t.core n = s.core n

/-- The number `v` of `n` bytes as a word. -/
def extend (n : Nat) (signed : Bool) (v : Nat) : Word :=
  if signed then BitVec.ofInt 64 (if v < 2 ^ (8 * n - 1) then (v : Int) else (v : Int) - 2 ^ (8 * n)) else BitVec.ofNat 64 v

/-- Instruction `i` is a load of `n` bytes at `va` into scalar register `d`: wherever the context can read them it completes, the
register takes their value, and nothing else changes but what the access itself leaves, which is nothing where its translation is
cached and its line clean. -/
def LoadsInto (s : State) (slot : Nat) (i : Instr) (va : Word) (d : RegF) (n : Nat) (signed : Bool) : Prop :=
  ∀ (x : Xlate) (v : Nat) (z : Bool), s.Reads slot .read va n x v z →
    let u := s.afterRead slot .read va x z
    ∃ t, exec i s = .next t ∧ ScalarResult u t d (extend n signed v) 0 4 ∧ u.me = s.me ∧ u.cur = s.cur
      ∧ (s.Quiet slot x → z = false → u = s)

/-- Instruction `i` is a store of `data` at `va`: wherever the context can write there it completes, changes no register, and memory
holds the bytes at that address and is otherwise as before. -/
def StoresTo (s : State) (slot : Nat) (i : Instr) (va : Word) (data : List Byte) : Prop :=
  ∀ x, s.Writes slot .write va data x →
    ∃ t, exec i s = .next t ∧ OnlyCompleted s t 4
      ∧ (s.myCtx.provisional = false → MemoryAfterStore (s.accessed slot va x) t slot x data)

/-- Scalar loads with their size and sign extension (R257). -/
def scalarLoads : List ((Guard → RegF → RegF → BitVec 8 → Instr) × Nat × Bool) := [
  (.ldb, 1, true), (.ldbu, 1, false), (.ldh, 2, true), (.ldhu, 2, false), (.ldw, 4, true), (.ldwu, 4, false), (.ldd, 8, false)]

/-- Scalar stores with their size (R257). -/
def scalarStores : List ((Guard → RegF → RegF → BitVec 8 → Instr) × Nat) := [(.stb, 1), (.sth, 2), (.stw, 4), (.std, 8)]

/-- The value that an atomic instruction writes, if any, from the comparand `c`, the operand `x` and the old value, all of `n` bytes
(R260). -/
def atomics : List ((Guard → RegF → RegF → RegF → BitVec 2 → BitVec 3 → Bool → Instr) × (Nat → Nat → Nat → Nat → Option Nat)) := [
  (.amoswap, fun _ _ x _ => some x),
  (.amoadd, fun n _ x o => some ((o + x) % 256 ^ n)),
  (.amoand, fun _ _ x o => some (o &&& x)),
  (.amoor, fun _ _ x o => some (o ||| x)),
  (.amoxor, fun _ _ x o => some (o ^^^ x)),
  (.amomin, fun n _ x o => some (if (extend n true o).toInt ≤ (extend n true x).toInt then o else x)),
  (.amomax, fun n _ x o => some (if (extend n true o).toInt ≤ (extend n true x).toInt then x else o)),
  (.amominu, fun _ _ x o => some (if o ≤ x then o else x)),
  (.amomaxu, fun _ _ x o => some (if o ≤ x then x else o)),
  (.cas, fun _ c x o => if o = c then some x else none)]

/-! ### Vector instructions (R225, R290 .. R295) -/

/-- Every check of a list holds. -/
def Allowed (l : List (Bool × Stop)) : Prop := ∀ c ∈ l, c.1 = true

/-- The V cluster begins an instruction at its first element and performs it as a whole: it resumes none that pre-emption has stopped
part-way, and is not stopped part-way (R188, R191). -/
def State.Whole (s : State) : Prop := s.myCtx.v.lo = 0 ∧ s.myCtx.v.hi = none

/-- The queue operands of an instruction that is performed as a whole are configured for the executing cluster and open, every source
queue has an entry, and `xs` are the sources (R36, R225, R262). -/
def State.Opens (s : State) (srcs dsts : List VField) (xs : List VSrc) : Prop :=
  s.Whole ∧ Allowed (s.queueChecks (queuesOf srcs) (queuesOf dsts)) ∧ List.Forall₂ (fun f x => s.readVec f = .ok x) srcs xs

/-- VL fits the sources' formats, and a queue source is a vector entry of VL elements (R225, R291). -/
def State.SourcesFit (s : State) (xs : List VSrc) : Prop :=
  ∀ x ∈ xs, s.vl ≤ s.vlmax x.fmt ∧ ∀ e, x.entry = some e → e.scal = false ∧ e.count = s.vl ∧ s.vl ≠ 0

/-- VL fits the result's format, and no masked-off element would have to be converted into or out of NONE (R291, R475). -/
def State.DestFits (s : State) (d : VField) (m : VMods) (f : Fmt) : Prop :=
  s.vl ≤ s.vlmax f ∧ (s.keepCheck d m.z (s.active m.mask) f).1 = true

/-- A queue destination has space for an entry of VL elements of format `f` once the sources have been popped (R36, R225). -/
def State.DestRoom (s : State) (d : VField) (pops : List Nat) (f : Fmt) : Prop :=
  d.q = true → s.vl ≠ 0 →
    let x := (s.popAll pops).queue d.n.toNat
    x.unplaced = [] ∧ x.entries.length < 64 ∧ (s.vl * f.width + 2047) / 2048 ≤ x.free

/-- Only the executing context changes: no byte of memory, no tag, no register of the module and no other context (R27). -/
def InContext (s u : State) : Prop := u = { s with ctxs := u.ctxs } ∧ ∀ k, k ≠ s.slot → u.ctx k = s.ctx k

/-- Of the executing context only vector registers, queues, FLAGS and EFC change; every register but `d` is as before, and so is
every queue but those popped and a queue destination. -/
def VecFrame (s u : State) (d : VField) (pops : List Nat) : Prop :=
  InContext s u
    ∧ u.myCtx = { s.myCtx with vregs := u.myCtx.vregs, queues := u.myCtx.queues, flags := u.myCtx.flags
                               v := { s.myCtx.v with efc := u.myCtx.v.efc } }
    ∧ (∀ r : RegF, d.q = true ∨ r ≠ d.n → u.vreg r = s.vreg r)
    ∧ ∀ q, q ∉ pops → (d.q = true → q ≠ d.n.toNat) → u.queue q = s.queue q

/-- The code that a place takes in an unscaled format. -/
def putCode (f : Fmt) (rm : Rm) : Put → Word
  | .value v => (encodeUnder f rm 0x7F v).1
  | .move c _ => c
  | _ => 0

/-- The code that an element of register `d` holds that an instruction does not write, where it gives the register an unscaled
format `f`: a masked-off element becomes zero under Z or keeps its value, converted where the format changes, and one at or above VL
keeps its bits or becomes zero (R292, R293, R318). -/
def State.offCode (s : State) (d : RegF) (z : Bool) (f : Fmt) (rm : Rm) (i : Nat) : Word :=
  let x := s.vreg d
  if i < s.vl ∧ z = true ∧ s.reelElem ≤ i then 0
  else if x.tag.fmt = f then x.code i
  else if i < s.vl then (encodeUnder f rm 0x7F (if x.tag.fmt = Fmt.none ∨ f = Fmt.none then Val.zero else x.val i)).1
  else 0

/-- What an instruction leaves that writes the result `r` to `d`: with VL 0 a register keeps data and tag and a queue receives
nothing; else the destination has the result's format, BLK and summary, and in an unscaled format each element that `act` names the
result's code, and the others of a register what R292 and R293 leave of them. Sources in queues are popped, once each; FLAGS gain the
result's flags, and EFC changes under error feedback alone (R64, R225, R292, R293). -/
def VecWrittenOn (s u : State) (d : VField) (z : Bool) (act : Nat → Bool) (pops : List Nat) (r : VResult) : Prop :=
  VecFrame s u d pops
    ∧ (s.vl = 0 → u = (s.popAll pops).orFlags r.flags)
    ∧ (∃ fl : Flags, u.myCtx.flags = s.myCtx.flags ||| r.flags ||| fl) ∧ (r.ef = false → u.myCtx.v.efc = s.myCtx.v.efc)
    ∧ (∀ q ∈ pops, d.q = false ∨ q ≠ d.n.toNat → u.queue q = (s.queue q).pop)
    ∧ (s.vl ≠ 0 → d.q = false →
        (u.vreg d.n).tag = { fmt := r.fmt, vsum := if r.vsum = vsVacant then vsZero else r.vsum, blk := r.blkCode }
        ∧ (r.fmt.isScaled = false → r.ef = false → ∀ i, i < s.vlmax r.fmt →
            (u.vreg d.n).code i = if act i = true then putCode r.fmt r.rm (r.put i) else s.offCode d.n z r.fmt r.rm i))
    ∧ (s.vl ≠ 0 → d.q = true → ∃ e, u.queue d.n.toNat = ((s.popAll pops).queue d.n.toNat).push [e]
        ∧ e.scal = false ∧ e.count = s.vl ∧ e.strip.tag.fmt = r.fmt ∧ e.strip.tag.blk = r.blkCode
        ∧ (∀ i, i < s.vl → e.present.get false i = act i)
        ∧ (r.fmt.isScaled = false → r.ef = false → ∀ i, act i = true → e.strip.code i = putCode r.fmt r.rm (r.put i)))

/-- The same with the instruction's active elements (R292). -/
def VecWritten (s u : State) (d : VField) (m : VMods) (pops : List Nat) (r : VResult) : Prop :=
  VecWrittenOn s u d m.z (s.active m.mask) pops r

/-- The first source's strip. -/
def stripOf (xs : List VSrc) (k : Nat) : Strip := ((xs.drop k).head?.map VSrc.strip).getD .initial

/-- Instruction `i` is a polymorphic instruction on the fields `fs` whose exact result at each element is `op` of the operands'
values: wherever the operands are usable and no lattice entry that it uses is forbidden it completes and writes the lattice's result
format, with the summary of a computing instruction; an element is rounded once where every operand already has the compute format
(R64, R97, R305). -/
def ArithDone (s : State) (i : Instr) (op : VArith) (fs : List VField) (d : VField) (m : VMods) (len : Nat) : Prop :=
  ∀ xs, s.Opens fs [d] xs → s.SourcesFit xs → (∀ x ∈ xs, x.fmt ≠ Fmt.vq2) →
    (∀ l ∈ (s.poly (xs.map VSrc.fmt) m.ovr).looks, l.2.2.act ≠ .forbidden) →
    s.DestFits d m (s.poly (xs.map VSrc.fmt) m.ovr).result → s.DestRoom d (queuesOf fs) (s.poly (xs.map VSrc.fmt) m.ovr).result →
    ∃ u r, exec i s = .next (u.retire len) ∧ VecWritten s u d m (queuesOf fs) r
      ∧ r.fmt = (s.poly (xs.map VSrc.fmt) m.ovr).result ∧ r.blk = polyBlk xs r.fmt ∧ r.rm = Rm.ofCode m.rm.toNat ∧ r.ef = false
      ∧ r.vsum = computedVsum xs (s.actives m.mask)
      ∧ ((s.poly (xs.map VSrc.fmt) m.ovr).cf.isInt = false → (s.poly (xs.map VSrc.fmt) m.ovr).act ≠ .demote → r.fmt.isScaled = false →
          (∀ x ∈ xs.take 2, x.fmt = (s.poly (xs.map VSrc.fmt) m.ovr).cf1) →
          (∀ x ∈ xs.drop 2, x.fmt = (s.poly (xs.map VSrc.fmt) m.ovr).cf) →
          ∀ j, s.active m.mask j = true → r.put j = .value (op.exact r.rm (xs.map fun x => x.strip.val j)).1)

/-- The 64-bit polymorphic instructions, with the number of vector operands (R305). -/
def vecArith : List ((Guard → RegF → RegF → RegF → VMods → Instr) × VArith × Nat) := [
  (.vaddLong, .add, 2), (.vsubLong, .sub, 2), (.vmulLong, .mul, 2), (.vminLong, .min, 2), (.vmaxLong, .max, 2),
  (fun g d a _ m => .vabsLong g d a m, .abs, 1), (fun g d a _ m => .vnegLong g d a m, .neg, 1),
  (.vfma, .fma, 3), (.vfms, .fms, 3), (.vnfma, .nfma, 3)]

/-- Their 32-bit forms, which have the modifiers of R226. -/
def vecArithShort : List ((Guard → RegF → RegF → RegF → Instr) × VArith × Nat) := [
  (.vadd, .add, 2), (.vsub, .sub, 2), (.vmul, .mul, 2), (.vmin, .min, 2), (.vmax, .max, 2),
  (fun g d a _ => .vabs g d a, .abs, 1), (fun g d a _ => .vneg g d a, .neg, 1)]

/-- Instruction `i` rounds its operand to FP32 and takes `f` of it (R93, R306). -/
def FuncDone (s : State) (i : Instr) (f : Val → Val × Flags) (d a : RegF) (m : VMods) (len : Nat) : Prop :=
  ∀ x, s.Opens [fieldA a m] [fieldD d m] [x] → s.SourcesFit [x] → x.fmt ≠ Fmt.vq2 → x.fmt.isInt = false →
    (s.lookup x.fmt x.fmt).act ≠ .forbidden →
    s.DestFits (fieldD d m) m (s.poly [x.fmt] m.ovr).result →
    s.DestRoom (fieldD d m) (queuesOf [fieldA a m]) (s.poly [x.fmt] m.ovr).result →
    ∃ u r, exec i s = .next (u.retire len) ∧ VecWritten s u (fieldD d m) m (queuesOf [fieldA a m]) r
      ∧ r.fmt = (s.poly [x.fmt] m.ovr).result ∧ r.rm = Rm.ofCode m.rm.toNat ∧ r.ef = false
      ∧ r.vsum = computedVsum [x] (s.actives m.mask)
      ∧ ∀ j, s.active m.mask j = true → r.put j = .value (rnOf (f (rn (x.strip.val j)).1.val)).1.val

/-- The special functions (R306). -/
def vecFuncs : List ((Guard → RegF → RegF → Instr) × (Guard → RegF → RegF → VMods → Instr) × (Val → Val × Flags)) := [
  (.vexp2, .vexp2Long, Val.exp2), (.vlog2, .vlog2Long, Val.log2), (.vrcp, .vrcpLong, Val.rcp), (.vrsq, .vrsqLong, Val.rsq)]

/-- Instruction `i` combines the codes of two operands of one integer format, or of NONE, by `f` (R307). -/
def BitwiseDone (s : State) (i : Instr) (f : Nat → Nat → Nat → Nat) (d a b : RegF) (m : VMods) (len : Nat) : Prop :=
  ∀ x y, s.Opens [fieldA a m, fieldB b m] [fieldD d m] [x, y] → s.SourcesFit [x, y] → x.fmt = y.fmt →
    (x.fmt.isInt = true ∨ x.fmt = Fmt.none) →
    s.DestFits (fieldD d m) m x.fmt → s.DestRoom (fieldD d m) (queuesOf [fieldA a m, fieldB b m]) x.fmt →
    ∃ u r, exec i s = .next (u.retire len) ∧ VecWritten s u (fieldD d m) m (queuesOf [fieldA a m, fieldB b m]) r
      ∧ r.fmt = x.fmt ∧ r.ef = false ∧ r.vsum = computedVsum [x, y] (s.actives m.mask)
      ∧ ∀ j, s.active m.mask j = true →
        r.put j = .move (BitVec.ofNat 64 (f x.fmt.width ((x.strip.code j).toNat % 2 ^ x.fmt.width)
          ((y.strip.code j).toNat % 2 ^ x.fmt.width))) 0x7F

/-- The bitwise operations on n-bit codes; shifts are by y mod n (R307). -/
def vecBitwise : List ((Guard → RegF → RegF → RegF → Instr) × (Guard → RegF → RegF → RegF → VMods → Instr) × (Nat → Nat → Nat → Nat)) := [
  (.vand, .vandLong, fun _ x y => x &&& y), (.vor, .vorLong, fun _ x y => x ||| y), (.vxor, .vxorLong, fun _ x y => x ^^^ y),
  (.vshl, .vshlLong, fun n x y => x * 2 ^ (y % n) % 2 ^ n), (.vshr, .vshrLong, fun n x y => x / 2 ^ (y % n)),
  (.vsra, .vsraLong, fun n x y => ((if x < 2 ^ (n - 1) then (x : Int) else (x : Int) - 2 ^ n) / 2 ^ (y % n) % 2 ^ n).toNat)]

/-! ### Guards and lengths -/

/-- The GUARD of an instruction, of those that have one and that a false guard makes do nothing (R217). REEL and REELX pass over
their body (R317); HINT and a convoy's header have none. -/
def guardOf : Instr → Option Guard
  | .add g .. | .sub g .. | .and g .. | .or g .. | .xor g .. | .andn g .. | .shl g .. | .shr g .. | .sra g ..
  | .ror g .. | .min g .. | .max g .. | .minu g .. | .maxu g .. | .clz g .. | .ctz g .. | .popc g .. | .adds g ..
  | .subs g .. | .shls g .. | .addi g .. | .andi g .. | .ori g .. | .xori g .. | .shli g .. | .shri g .. | .srai g ..
  | .rori g .. | .mul g .. | .mulh g .. | .mulhu g .. | .div g .. | .divu g .. | .rem g .. | .remu g .. | .muls g ..
  | .bextu g .. | .bext g .. | .bins g .. | .limmh g .. | .limm g .. | .cmp g .. | .fcmp g .. | .cmpi g ..
  | .sel g .. | .br g .. | .brl g .. | .jr g .. | .jrl g .. | .loop g .. | .ldb g .. | .ldbu g .. | .ldh g ..
  | .ldhu g .. | .ldw g .. | .ldwu g .. | .ldd g .. | .stb g .. | .sth g .. | .stw g .. | .std g .. | .amoswap g ..
  | .amoadd g .. | .amoand g .. | .amoor g .. | .amoxor g .. | .amomin g .. | .amomax g .. | .amominu g ..
  | .amomaxu g .. | .cas g .. | .ldacq g .. | .ldacqw g .. | .strel g .. | .strelw g .. | .fence g .. | .fadd g ..
  | .fsub g .. | .fmul g .. | .fma g .. | .fmin g .. | .fmax g .. | .fcvtf g .. | .fcvtfu g .. | .fcvti g ..
  | .fcvtiu g .. | .fabs g .. | .fneg g .. | .qpush g .. | .qpushu g .. | .qpushf g .. | .qpops g .. | .qpeek g ..
  | .qstat g .. | .qclose g .. | .csrr g .. | .csrw g .. | .end_ g | .yield g | .bar g | .rdv g ..
  | .cfork g .. | .cforkLong g .. | .sigwait g .. | .sigset g .. | .getts g .. | .trap g .. | .taskq g ..
  | .shpost g .. | .wid g .. | .svret g | .rsave g .. | .rrest g .. | .tlbi g .. | .ltld g .. | .recode g ..
  | .vldq g .. | .vldsq g .. | .vldxq g .. | .vstq g .. | .vstsq g .. | .vstxq g .. | .setvlAccess g .. | .sbind g ..
  | .sunbind g .. | .copy g .. | .copyt g .. | .cwait g .. | .ctest g .. | .cclr g .. | .qfence g .. | .tagrd g ..
  | .tagset g .. | .pfl2 g .. | .setvl g .. | .setvcap g .. | .cbtld g .. | .vtagr g .. | .vtagw g .. | .qpopv g ..
  | .vld g .. | .vldLong g .. | .vst g .. | .vstLong g .. | .vldx g .. | .vldxLong g .. | .vstx g .. | .vstxLong g ..
  | .vadd g .. | .vaddLong g .. | .vsub g .. | .vsubLong g .. | .vmul g .. | .vmulLong g .. | .vmin g ..
  | .vminLong g .. | .vmax g .. | .vmaxLong g .. | .vabs g .. | .vabsLong g .. | .vneg g .. | .vnegLong g ..
  | .vfma g .. | .vfms g .. | .vnfma g .. | .vand g .. | .vandLong g .. | .vor g .. | .vorLong g .. | .vxor g ..
  | .vxorLong g .. | .vshl g .. | .vshlLong g .. | .vshr g .. | .vshrLong g .. | .vsra g .. | .vsraLong g ..
  | .vcmp g .. | .vsel g .. | .vmov g .. | .vmovLong g .. | .vsplat g .. | .vsplatLong g .. | .vextr g ..
  | .vextrLong g .. | .vcvt g .. | .vscale g .. | .vscaleLong g .. | .vexp2 g .. | .vexp2Long g .. | .vlog2 g ..
  | .vlog2Long g .. | .vrcp g .. | .vrcpLong g .. | .vrsq g .. | .vrsqLong g .. | .vssmx g .. | .vredsum g ..
  | .vredsumLong g .. | .vredmax g .. | .vredmaxLong g .. | .vredmin g .. | .vredminLong g .. | .vscan g ..
  | .vscanLong g .. | .vperm g .. | .vpermLong g .. | .vslide g .. | .vcompress g .. | .vexpand g .. | .kand g ..
  | .kandLong g .. | .kor g .. | .korLong g .. | .kxor g .. | .kxorLong g .. | .kandn g .. | .kandnLong g ..
  | .knot g .. | .knotLong g .. | .kmov g .. | .kmovLong g .. | .kfirst g .. | .kfirstLong g .. | .kpop g ..
  | .kpopLong g .. | .mclaim g .. | .mclaimElastic g .. | .mrel g .. | .mzero g .. | .mrank g .. | .mtr g ..
  | .mdense g .. | .mld g .. | .mldSparse g .. | .mldf g .. | .mst g .. | .mstf g .. | .mma g .. | .msld g ..
  | .mlmul g .. | .mladd g .. | .mlrc g .. | .azero g .. | .ald g .. | .ast g .. | .acvt g .. => some g
  | .hint .. | .hintLong .. | .reel .. | .reelx .. | .convoy .. | .pageWalk .. | .atsTranslationCompletion ..
  | .priResponse .. | .pageRequestTimeout .. | .atsInvalidate .. | .hostOwnership .. | .backInvalidationTimeout ..
  | .hostMemAccess .. | .peerAccess .. | .lportPost .. | .hostRecodePort .. | .hostDecryptionPort ..
  | .decryptionJobComplete | .keySlotWrite .. | .pstateRequest .. | .pstateTransitionDone | .pwrcapWrite ..
  | .powerSample .. | .powerTrip | .thermalLimit .. | .thermalStepDown | .thermalStepUp | .thermalTrip ..
  | .hbmTempHot .. | .bobbinPark .. | .parkComplete .. | .parkAbandon .. | .bobbinUnpark .. | .unparkComplete ..
  | .predctlClr .. | .expqSubmit .. | .exportJobComplete | .bankcfgWrite .. | .qcfgWrite .. | .registerWrite ..
  | .msixUnmask .. | .moduleReset | .lifeCycleChange .. | .linkReplay .. | .linkReplayThreshold .. | .linkDown ..
  | .linkTrained .. | .distaffRestart | .distaffWatchdog | .uncontainedError .. | .taskTake ..
  | .waitConditionRecheck .. | .hankAdmit .. | .stagingCopy .. | .stagingLanded .. | .stagingWindow ..
  | .slotReserve .. | .hankDispatch .. | .hankEnd .. | .preempt .. | .saveComplete .. | .resume .. | .hankAgeing ..
  | .issueStarvation .. | .shapeLearn .. | .shapeTimeout .. | .hankWatchdog .. | .eventWatchdog ..
  | .supervisorEventTake .. | .queueSpaceWake .. | .queueEntryWake .. | .queueEntryPlaced ..
  | .elementGroupArrival .. | .barrierComplete .. | .rendezvousComplete .. | .sigwaitRetest .. | .copyCommandStart ..
  | .completionBitSet .. | .copyCommandComplete .. | .qfenceComplete .. | .streamRefill .. | .recodeLineRewrite ..
  | .recodeJobComplete | .modulePowerOff | .hbmStackCooled .. | .backInvalidationResponse .. | .priEnableWrite ..
  | .loadDataReturn .. | .spdmMeasurementRequest .. => none

/-- The bytes of an instruction (R215). -/
def bytesOf (i : Instr) : Nat := 4 * (encode i).length

/-- Instruction `i` is a vector instruction on the fields `fs`: wherever its operands are usable and `ok` holds of them it completes
and writes a result of format `f`, of which `spec` says what it puts at the active elements (R225, R291 .. R295). -/
def VecDone (s : State) (i : Instr) (fs : List VField) (d : VField) (m : VMods) (len : Nat) (ok : List VSrc → Prop)
    (f : List VSrc → Fmt) (spec : List VSrc → VResult → Prop) : Prop :=
  ∀ xs, s.Opens fs [d] xs → s.SourcesFit xs → ok xs → s.DestFits d m (f xs) → s.DestRoom d (queuesOf fs) (f xs) →
    ∃ u r, exec i s = .next (u.retire len) ∧ VecWritten s u d m (queuesOf fs) r ∧ r.fmt = f xs ∧ spec xs r

/-- The format of the first source. -/
def srcFmt (xs : List VSrc) : Fmt := (stripOf xs 0).tag.fmt

/-- Elements are moved with format, BLK and summary, those of `x` that `src` names; where it names none the place is supplied with a
zero element (R295, R315). -/
def MovesFrom (s : State) (m : VMods) (x : Strip) (src : Nat → Option Nat) (r : VResult) : Prop :=
  r.blk = x.tag.blk.toNat ∧ r.ef = false ∧ r.vsum = x.tag.vsum
    ∧ ∀ j, s.active m.mask j = true → r.put j = match src j with
      | some k => .move (x.code k) (x.scale k)
      | none => .supplied

/-- Instruction `i` delivers one number into scalar register `d` from a vector source: the source, if a queue's entry, is popped, the
register takes the value, and nothing else changes. -/
def VecToScalar (s : State) (i : Instr) (d : RegF) (f : VField) (len : Nat) (ok : Fmt → Prop) (val : Strip → Word × Flags) : Prop :=
  ∀ x, s.Opens [f] [] [x] → s.SourcesFit [x] → ok x.fmt →
    ∃ t, exec i s = .next t ∧ ScalarResult (s.popAll (queuesOf [f])) t d (val x.strip).1 (val x.strip).2 len

/-- Of the executing context only masks, and the fields that `also` lists, change; bit `b` of mask `k` becomes `f k b`. -/
def MasksBecome (s u : State) (f : Nat → Nat → Bool) : Prop :=
  InContext s u ∧ u.myCtx = { s.myCtx with masks := u.myCtx.masks, queues := u.myCtx.queues, flags := u.myCtx.flags }
    ∧ ∀ k b, u.maskBit k b = f k b

/-- The mask operations of two sources, in both lengths (R316). -/
def maskTwo : List ((Guard → RegF → RegF → RegF → Instr) × (Guard → RegF → RegF → RegF → VMods → Instr) × (Bool → Bool → Bool)) := [
  (.kand, .kandLong, fun x y => x && y), (.kor, .korLong, fun x y => x || y), (.kxor, .kxorLong, fun x y => x ^^ y),
  (.kandn, .kandnLong, fun x y => x && !y), (fun g d a _ => .knot g d a, fun g d a _ m => .knotLong g d a m, fun x _ => !x),
  (fun g d a _ => .kmov g d a, fun g d a _ m => .kmovLong g d a m, fun x _ => x)]

/-- Positions below VL, not before ELEM, whose bit of mask `k` is set (R316, R318). -/
def State.bitsSet (s : State) (k : Nat) : List Nat :=
  (List.range s.vl).filter fun i => s.maskBit k i && decide (s.reelElem ≤ i)

/-- Prefix sums in one format, each rounded once (R89): the value at each active element follows from the one before. -/
def Scanned (f : Fmt) (x : Nat → Val) (is : List Nat) (y : Nat → Val) : Prop :=
  ∀ k < is.length, y (is.getD k 0) = decodeElem f (roundTo f .rne (if k = 0 then x (is.getD 0 0)
    else (Val.add .rne (y (is.getD (k - 1) 0)) (x (is.getD k 0))).1)).1 0x7F

/-- The three reductions, in both lengths (R313). -/
def vecReduces : List ((Guard → RegF → RegF → Instr) × (Guard → RegF → RegF → VMods → Instr) × Reduce) := [
  (.vredsum, .vredsumLong, .sum), (.vredmax, .vredmaxLong, .max), (.vredmin, .vredminLong, .min)]

/-- The word and flags that a reduction of integer elements delivers (R313): the sum wraps to 64 bits, and without an active element
the result is 0. -/
def intReduced (op : Reduce) (l : List Int) : Word :=
  match op with
  | .sum => BitVec.ofInt 64 l.sum
  | .max => BitVec.ofInt 64 (l.max?.getD 0)
  | .min => BitVec.ofInt 64 (l.min?.getD 0)

/-- Of the executing context only queue `q` changes, which becomes `x`: no register, no flag, no byte of memory and no other agent
(R27, R36). -/
def QueueBecomes (s u : State) (q : Nat) (x : Queue) : Prop :=
  InContext s u ∧ u.myCtx = { s.myCtx with queues := u.myCtx.queues } ∧ ∀ r, u.queue r = if r = q then x else s.queue r

/-- The executing cluster may push one entry of one element group into queue `q` (R36, R262). -/
def State.PushRoom (s : State) (q : Nat) : Prop :=
  s.pushOk q = true ∧ (s.queue q).closed = false ∧ (s.queue q).unplaced = [] ∧ (s.queue q).entries.length < 64 ∧ 1 ≤ (s.queue q).free

/-- Of the executing context only vector register `d` changes, which becomes `x`, and what `also` says of the rest. -/
def VregBecomes (s u : State) (d : RegF) (x : Strip → Prop) : Prop :=
  InContext s u ∧ u.myCtx = { s.myCtx with vregs := u.myCtx.vregs } ∧ x (u.vreg d) ∧ ∀ r, r ≠ d → u.vreg r = s.vreg r

/-- The lines from `va` on read quietly as the numbers `vs`, 128 bytes each: no fault, no bit error, no POISON and no walk. -/
def State.ReadsLines (s : State) (slot : Nat) (va : Word) (vs : List Nat) : Prop :=
  ∀ k < vs.length, ∃ x, s.Reads slot .read (va + BitVec.ofNat 64 (128 * k)) 128 x (vs.getD k 0) false ∧ s.Quiet slot x

/-- The bases of rows are aligned for the format of their first line that fixes one (R128), as state `t` shows the lines. -/
def State.BasesFit (t : State) (slot : Nat) (rows : List Row) (rs : List (List Spot × Option Par)) (xs : List Xlate) : Prop :=
  ∀ p ∈ rows.zip ((rs.map Prod.snd).zip (cutInto (rs.map fun r => r.1.length) xs)), ∀ q f, p.2.1 = some q →
    firstFmt (p.2.2.map fun x => (x, t.accessLine slot x)) = some f → q.baseBad f p.1.base = false

/-- The context in `slot` reads the elements of rows as `gs`, through the translations `xs`, and the accesses themselves leave the
state `t`: every element passes the checks of R421, no line stands in TRANSIT, and where R128 binds the rows (`contig`) their bases are
aligned (R265, R301, R302, R328). -/
def State.GathersRows (s : State) (slot : Nat) (rows : List Row) (contig : Bool) (xs : List Xlate) (gs : List (Nat × Got))
    (t : State) : Prop :=
  let s1 := s.prewalks slot ((rows.filter fun r => !r.is.isEmpty).map Row.base)
  ∃ rs, List.Forall₂ (fun r p => s1.rowSpots slot .read r = .ok p) rows rs
    ∧ let sps := rs.flatMap Prod.fst
      let s2 := s1.prewalks slot (sps.map Spot.va)
      List.Forall₂ (fun p x => s2.spotReach slot .read p = .ok x) sps xs
      ∧ t = (s2.touch xs).noteOutside slot (s2.readerOf slot .read).1 (s2.readerOf slot .read).2 .read xs
      ∧ (∀ x ∈ xs, (t.accessLine slot x).tag.cls x.typed x.par.w ≠ .transit)
      ∧ (contig = true → s2.BasesFit slot rows rs xs ∧ t.BasesFit slot rows rs xs)
      ∧ List.Forall₂ (fun p g => (t.accessLine slot p.2).read p.2.typed p.2.par.w p.2.par.ppol (p.2.va % 128) p.1.nib = .ok g.2
          ∧ g.1 = p.1.i) (sps.zip xs) gs

/-- The same for the elements `is` at the places `pl` of one base. -/
def State.Gathers (s : State) (slot : Nat) (base : Word) (pl : Places) (contig : Bool) (is : List Nat) (xs : List Xlate)
    (gs : List (Nat × Got)) (t : State) : Prop :=
  s.GathersRows slot [{ base := base, pl := pl, is := is, off := 0 }] contig xs gs t

/-- What a load puts of an element into a result of format `f` and block code `blk`: the element as it is where its line has them,
else its value, rounded to nearest even (R302). -/
def loadedPut (f : Fmt) (blk : Nat) (g : Got) : Put :=
  if g.fmt = f ∧ g.blk = blk then .move g.code g.scale else .value (decodeElem g.fmt g.code g.scale)

/-- Instruction `i` is a global load of the V cluster at `base`, its positions those of the index operand `ix`, if it has one. -/
def GlobalLoad (s : State) (slot : Nat) (i : Instr) (d a : RegF) (m : VMods) (len : Nat) (ix : List VField) : Prop :=
  ∀ xs ys gs t, s.Opens ix [fieldD d m] ys → s.SourcesFit ys → (∀ y ∈ ys, y.fmt.isInt = true) →
    ((fieldD d m).q = true ∨ (s.myCtx.vregs.get .initial d.toNat).missing = []) →
    let act (j : Nat) : Bool := s.active m.mask j && (indicesOf ys).has j
    s.Gathers slot (s.readS a) (if ix.isEmpty then .positions (indicesOf ys).pos else .indexed (indicesOf ys).pos) ix.isEmpty
      ((List.range s.vl).filter act) xs gs t →
    (∀ p ∈ gs, p.2.poison = false) →
    ((∀ j, act j = false) → exec i s = .next ((s.popAll (queuesOf ix)).retire len))
    ∧ ∀ p l, gs = p :: l → (∀ q ∈ gs, q.2.fmt = Fmt.none ↔ p.2.fmt = Fmt.none) → s.vl ≤ s.vlmax p.2.fmt →
        (s.keepCheck (fieldD d m) m.z act p.2.fmt).1 = true → s.DestRoom (fieldD d m) (queuesOf ix) p.2.fmt →
        ∃ u r, exec i s = .next (u.retire len) ∧ VecWrittenOn t u (fieldD d m) m.z act (queuesOf ix) r
          ∧ r.fmt = p.2.fmt ∧ r.blk = p.2.blk ∧ r.rm = .rne ∧ r.ef = false
          ∧ r.vsum = (if s.vl ≤ gs.length ∧ ∀ q ∈ gs, q.2.zero = true then vsZero else vsValid)
          ∧ ∀ q ∈ gs, r.put q.1 = loadedPut p.2.fmt p.2.blk q.2

/-- An element at a place of a page that is not folded may be stored in format `fmt`: the page can be written and reached, its line
holds data or zeros, leaves no trace of its own, and holds the format (R68, R77, R129, R475). -/
def State.Storable (s : State) (slot : Nat) (fmt : Fmt) (x : Xlate) : Prop :=
  s.reach slot .write x = .ok () ∧ s.Quiet slot x ∧ s.region x.pa ≠ .creel ∧ (x.typed = false ∨ x.entry.folded = false)
    ∧ (s.pageLine x).tag.cls x.typed x.par.w ∈ [LCls.valid, .zero, .vacant]
    ∧ if x.typed then
        let f := (x.par.target fmt).1
        (f = Fmt.none ↔ fmt = Fmt.none) ∧ ((x.par.target fmt).2 = true ∨ slotHolds f x.par.w = true)
          ∧ ((s.pageLine x).tag.cls x.typed x.par.w = .valid → (f = Fmt.none ↔ (s.pageLine x).tag.fmt = Fmt.none))
      else (x.par.expf = Fmt.none ↔ fmt = Fmt.none)

/-- The context in `slot` may store the elements `els` in format `fmt` at the places `pl` of `base`; they lie at `sps`, on pages of
one kind, `xs` (R265, R269, R270, R304). The walk for the base leaves no trace, and the store is not one that the model performs later
(R138). -/
def State.Scatters (s : State) (slot : Nat) (base : Word) (pl : Places) (contig : Bool) (fmt : Fmt) (els : List (Nat × SElem))
    (sps : List Spot) (xs : List Xlate) : Prop :=
  s.me.late = false ∧ (els ≠ [] → s.opened slot base = s)
    ∧ (∃ bx, s.spots slot .write base pl (els.map Prod.fst) = .ok (sps, bx)
      ∧ (contig = true → ∀ x0, bx = some x0 → x0.baseBad fmt base = false))
    ∧ List.Forall₂ (fun p x => s.spotAccess slot .write p = .ok x) sps xs ∧ (∀ x ∈ xs, s.Storable slot fmt x)
    ∧ ∀ x ∈ xs, ∀ y ∈ xs, x.par = y.par ∧ x.host = y.host ∧ x.entry.pslot = y.entry.pslot

/-- The byte at `a` belongs to the element stored through `x`, or, on a typed page, to its line, which is re-encoded (R129). -/
def Xlate.covers (x : Xlate) (a : Nat) : Prop :=
  if x.typed then a / 128 = x.pa / 128
  else x.pa / 128 * 128 + x.va % 128 ≤ a ∧ a < x.pa / 128 * 128 + x.va % 128 + max 1 (Fmt.width x.par.expf / 8)

/-- Memory after a vector store: no other byte changes, and each element that no later one overwrites is in its place, where the
page stores the format as it is (R75, R127, R129, R269). -/
def MemoryAfterScatter (s u : State) (fmt : Fmt) (els : List (Nat × SElem)) (sps : List Spot) (xs : List Xlate) : Prop :=
  (∀ a, (∀ x ∈ xs, ¬x.covers a) → u.byteAt a = s.byteAt a)
    ∧ ∀ (j : Nat) (p : Spot) (x : Xlate) (e : SElem), sps[j]? = some p → xs[j]? = some x → (els.map Prod.snd)[j]? = some e → fmt.isScaled = false →
      (∀ (k : Nat) (q : Spot) (y : Xlate), j < k → sps[k]? = some q → xs[k]? = some y → ¬(y.pa / 128 = x.pa / 128 ∧ y.place q = x.place p)) →
      (if x.typed then (x.par.target fmt).2 = false else x.par.expf = fmt) →
      bitsAt (u.lineAt x.pa).bytes fmt.width (x.place p * fmt.width) = e.code.toNat % 2 ^ fmt.width

/-- A store changes of the executing context only FLAGS, EFC and queues, which become `queues`, and of other agents nothing. -/
def StoreFrame (s u : State) (queues : Nat → Queue) : Prop :=
  (∀ k, k ≠ s.slot → u.ctx k = s.ctx k) ∧ u.sup = s.sup ∧ u.cur = s.cur
    ∧ (∃ fl efc, u.myCtx = { s.myCtx with queues := u.myCtx.queues, flags := fl, v := { s.myCtx.v with efc := efc } })
    ∧ ∀ q, u.queue q = queues q

/-- The queues once those of a list have been popped. -/
def State.popped (s : State) (pops : List Nat) (q : Nat) : Queue := if q ∈ pops then (s.queue q).pop else s.queue q

/-- Instruction `i` is a global store of the V cluster. -/
def GlobalStore (s : State) (slot : Nat) (i : Instr) (d a : RegF) (m : VMods) (len : Nat) (ix : List VField) : Prop :=
  ∀ sps xs ys, s.Opens ix [] ys → s.SourcesFit ys → (∀ y ∈ ys, y.fmt.isInt = true) → s.vl ≤ s.vlmax (s.vreg d).tag.fmt →
    let els := ((s.actives m.mask).filter (indicesOf ys).has).map fun j => (j, (s.vreg d).selem j)
    s.myCtx.provisional = false →
    s.Scatters slot (s.readS a) (if ix.isEmpty then .positions (indicesOf ys).pos else .indexed (indicesOf ys).pos) ix.isEmpty
      (s.vreg d).tag.fmt els sps xs →
    ∃ u, exec i s = .next (u.retire len) ∧ StoreFrame s u (s.popped (queuesOf ix)) ∧ (m.rm ≠ 4 → u.myCtx.v.efc = s.myCtx.v.efc)
      ∧ MemoryAfterScatter s u (s.vreg d).tag.fmt els sps xs

/-- Instruction `i` is a scratchpad load: active elements take the bits at their places, and of the register only the summary of the
tag changes (R303). -/
def ScratchLoad (s : State) (i : Instr) (d a : RegF) (m : VMods) (len : Nat) (ix : List VField) (ls : Bool) : Prop :=
  ∀ ys ps, s.Opens ix [] ys → Allowed (s.vmemChecks ys [((s.vreg d).tag.f, 0)] ls) →
    s.spPlaces (s.readS a).toNat (s.vreg d).tag.f ls ix.isEmpty (indicesOf ys) ((s.actives m.mask).filter (indicesOf ys).has) = .ok ps →
    ∃ u, exec i s = .next (u.retire len) ∧ InContext s u
      ∧ u.myCtx = { s.myCtx with vregs := u.myCtx.vregs, queues := u.myCtx.queues }
      ∧ (∀ q, u.queue q = if q ∈ queuesOf ix then (s.queue q).pop else s.queue q) ∧ (∀ r, r ≠ d → u.vreg r = s.vreg r)
      ∧ if s.vl = 0 then u.vreg d = s.vreg d else
          (u.vreg d).tag = { (s.vreg d).tag with vsum := vsValid } ∧ (u.vreg d).scales = (s.vreg d).scales
          ∧ ∀ j, (u.vreg d).code j = match (ps.find? fun p => p.1 == j) with
            | some p => s.spBits (s.vreg d).tag.f.width p.2
            | none => if m.z = true ∧ j < s.vl ∧ s.reelElem ≤ j then 0 else (s.vreg d).code j

/-- Instruction `i` is a scratchpad store: of two elements at one place the higher prevails, and no other scratchpad bit and no byte
of memory changes (R303). -/
def ScratchStore (s : State) (slot : Nat) (i : Instr) (d a : RegF) (m : VMods) (len : Nat) (ix : List VField) (ls : Bool) : Prop :=
  ∀ ys ps, s.Opens ix [] ys → Allowed (s.vmemChecks ys [((s.vreg d).tag.f, 0)] ls) →
    s.spPlaces (s.readS a).toNat (s.vreg d).tag.f ls ix.isEmpty (indicesOf ys) ((s.actives m.mask).filter (indicesOf ys).has) = .ok ps →
    let n := (s.vreg d).tag.f.width
    ∃ u : State, exec i s = .next (u.retire len) ∧ u = { s with ctxs := u.ctxs, spm := u.spm } ∧ (∀ k, k ≠ s.slot → u.ctx k = s.ctx k)
      ∧ u.myCtx = { s.myCtx with queues := u.myCtx.queues }
      ∧ (∀ q, u.queue q = if q ∈ queuesOf ix then (s.queue q).pop else s.queue q)
      ∧ (∀ k b, spindleOf k ≠ spindleOf slot → u.spByte k b = s.spByte k b)
      ∧ (∀ b, b < 2 ^ 23 → (∀ p ∈ ps, ¬(p.2 / 8 ≤ b ∧ b < p.2 / 8 + max 1 (n / 8))) → u.spByte slot b = s.spByte slot b)
      ∧ ∀ (j : Nat) (p : Nat × Nat), ps[j]? = some p → (∀ (k : Nat) (q : Nat × Nat), j < k → ps[k]? = some q → q.2 + n ≤ p.2 ∨ p.2 + n ≤ q.2) →
          u.spBits n p.2 = BitVec.ofNat 64 (((s.vreg d).code p.1).toNat % 2 ^ n)

/-- The entries `es` hold the elements `gs` of `n` positions in order: each entry's format is that of its elements, elements that were
not read are absent, and an element of an unscaled format is as it was read (R65, R266, R268). -/
def Entered (n : Nat) (gs : List (Nat × Got)) (es : List QEntry) : Prop :=
  (es.map QEntry.count).sum = n
    ∧ ∀ (j : Nat) (e : QEntry), es[j]? = some e → e.scal = false ∧ e.eos = false ∧ ∀ k < e.count,
      let i := ((es.take j).map QEntry.count).sum + k
      (e.present.get false k = true ↔ ∃ g, (i, g) ∈ gs)
        ∧ ∀ g, (i, g) ∈ gs → e.strip.tag.fmt = g.fmt ∧ (g.fmt.isScaled = false → e.strip.code k = g.code)

/-- Entries that issued join a queue in order: at once where they all have space (R267). -/
def Joined (x y : Queue) (es : List QEntry) : Prop :=
  y = { x with entries := y.entries, unplaced := y.unplaced, requests := y.requests }
    ∧ y.entries ++ y.unplaced = x.entries ++ x.unplaced ++ es ∧ (x.fits es = true → y.entries = x.entries ++ es)

/-- Instruction `i` loads `n` elements into queue `q`, reading those of `rows`, and pops the queues of `pops`; the queue holds no entry
whose landing pre-emption has cut short. -/
def QueueLoad (s : State) (slot : Nat) (i : Instr) (q : Nat) (rows : List Row) (contig : Bool) (n : Nat) (pops : List Nat) : Prop :=
  ∀ xs gs t, s.pushOk q = true → (s.queue q).closed = false → (∀ e ∈ (s.queue q).entries, e.missing = []) →
    s.GathersRows slot rows contig xs gs t → (∀ p ∈ gs, p.2.poison = false) →
    ∃ u es x, exec i s = .next (u.retire 4) ∧ InContext t u
      ∧ u.myCtx = { t.myCtx with queues := u.myCtx.queues, flags := u.myCtx.flags }
      ∧ Entered n gs es ∧ Joined (s.queue q) x es
      ∧ ∀ r, u.queue r =
        let y := if r = q then x else s.queue r
        if r ∈ pops then y.pop else y

/-- Instruction `i` stores the present elements of the entry `e` at the head of queue `q` and pops it. -/
def QueueStore (s : State) (slot : Nat) (i : Instr) (base : Word) (pl : Places) (contig : Bool) (e : QEntry) (is : List Nat)
    (queues : Nat → Queue) : Prop :=
  ∀ sps xs, let els := is.map fun j => (j, e.strip.selem j)
    s.myCtx.provisional = false → s.Scatters slot base pl contig e.strip.tag.fmt els sps xs →
    ∃ u, exec i s = .next (u.retire 4) ∧ StoreFrame s u queues ∧ u.myCtx.v.efc = s.myCtx.v.efc
      ∧ MemoryAfterScatter s u e.strip.tag.fmt els sps xs

/-- The elements of an entry that are present. -/
def QEntry.places (e : QEntry) : List Nat := (List.range e.count).filter fun j => e.present.get false j

/-! ### Matrix names, accumulators and their memory (R319 .. R340) -/

/-- A bound name can take a content of `need` slots (R321). -/
def State.Room (s : State) (d : RegF) (need : Nat) : Prop :=
  (s.tile d).kind ≠ .unbound ∧ need ≤ (s.tile d).ncl
    ∧ ((s.tile d).elas = true → need ≤ (s.tile d).held.length + s.myCtx.freeSlots.length)

/-- Of the executing context only matrix name `d` and FLAGS change: it takes a content of which `p` holds, a fixed claim keeps its
slots, and an elastic one holds `need` slots, of its own and of those that were free (R321). -/
def TileWritten (s u : State) (d : RegF) (need : Nat) (p : Tile → Prop) : Prop :=
  InContext s u ∧ u.myCtx = { s.myCtx with tiles := u.myCtx.tiles, flags := u.myCtx.flags }
    ∧ (∀ m, m ≠ d → u.tile m = s.tile m) ∧ p (u.tile d) ∧ (u.tile d).elas = (s.tile d).elas ∧ (u.tile d).ncl = (s.tile d).ncl
    ∧ if (s.tile d).elas then
        (u.tile d).held.length = need ∧ ∀ i ∈ (u.tile d).held, i ∈ (s.tile d).held ∨ i ∈ s.myCtx.freeSlots
      else (u.tile d).held = (s.tile d).held

/-- A name holds the pair `p`: its rank is the number of columns, and its columns are those of U and then those of V (R319). -/
def Tile.HoldsPair (t : Tile) (p : Mat × Mat) : Prop :=
  t.kind = .factor ∧ t.rank = p.1.length ∧ ∀ c i, i < 64 →
    (c < p.1.length → t.elems.get 0 (64 * c + i) = ((p.1.getD c []).getD i 0).setWidth 64)
    ∧ (c < p.2.length → t.elems.get 0 (64 * (p.1.length + c) + i) = ((p.2.getD c []).getD i 0).setWidth 64)

/-- A name holds a dense tile of format `f` with the codes `code`, row by row. -/
def Tile.HoldsDense (t : Tile) (f : Fmt) (code : Nat → Option Word) : Prop :=
  t.kind = .dense ∧ t.rank = 0 ∧ t.fmt = f ∧ ∀ k w, code k = some w → t.strip.code k = w

/-- Of the executing context only accumulator `d` and FLAGS change: it takes kind `k` and the words `word` (R338). -/
def AccWritten (s u : State) (d : RegF) (k : AccKind) (word : Nat → BitVec 32) : Prop :=
  InContext s u ∧ u.myCtx = { s.myCtx with accs := u.myCtx.accs, flags := u.myCtx.flags }
    ∧ (∀ m, m ≠ d → u.acc m = s.acc m) ∧ (u.acc d).kind = k ∧ ∀ e < 4096, (u.acc d).words.get 0 e = word e

/-- The word that an accumulator of kind `k` takes at an element: FP32 products of `l` are added in exact groups of 16, each rounded
once; integer products, of operands converted to the compute format, wrap (R90, R91). -/
def accWord (k : AccKind) (cf : Fmt) (old : BitVec 32) (l : List (Val × Val)) : BitVec 32 :=
  match k with
  | .i32 => old + BitVec.ofInt 32 (l.map fun p => (toCf cf p.1).go.1 * (toCf cf p.2).go.1).sum
  | _ => (accumulate old l).go.1

/-- The code of a read element in the unscaled format `f`: as it is, or its value rounded to nearest even (R328). -/
def loadedCode (f : Fmt) (g : Got) : Word := putCode f .rne (loadedPut f g.blk g)

/-- The value of weight `w` of the index that a VQ2 element is (R60, R298). -/
def weightOf (cb : Nat → BitVec 32) (g : Got) (w : Nat) : Val :=
  vq2Weight (cb (g.code.toNat % 256)) (g.code.toNat % 65536) w g.scale

/-- A dense tile of an unscaled format holds what was read of 64 rows: of a row of elements each one at its place, and of a row that
begins in a VQ2 line, which is eight indices, the eight weights of each; a VQ2 tile holds the indices (R328; log entry 65). -/
def Tile.HoldsRows (t : Tile) (cb : Nat → BitVec 32) (f : Fmt) (vq : List Bool) (gs : List (Nat × Got)) : Prop :=
  t.kind = .dense ∧ t.rank = 0 ∧ t.fmt = f ∧ (Fmt.isScaled f = false → ∀ i < 64, ∀ j e, (64 * i + j, e) ∈ gs →
    if vq.getD i false = true ∧ f ≠ Fmt.vq2 then
      e.fmt = Fmt.vq2 → j < 8 → ∀ w < 8, t.strip.code (64 * i + (8 * j + w)) = (encodeUnder f .rne 0x7F (weightOf cb e w)).1
    else j < rowSize f → t.strip.code (rowSize f * i + j) = loadedCode f e)

/-- The metadata of 64 rows from `c` on, `n` bytes each, reads quietly as `rows` (R329). -/
def State.ReadsMeta (s : State) (slot : Nat) (c : Word) (n : Nat) (rows : List Nat) : Prop :=
  rows.length = 64 ∧ ∀ i < 64, ∃ x, s.Reads slot .read (c + BitVec.ofNat 64 (n * i)) n x (rows.getD i 0) false ∧ s.Quiet slot x

/-- The elements of row `r` of a strip as a store writes them. -/
def rowElems (x : Strip) (r : Row) : List (Nat × SElem) := r.is.map fun j => (j, x.selem (r.off / 64 * rowSize x.tag.fmt + j))

/-- Each row can be stored once those before it have been (R304, R331). -/
def State.RowsStorable (slot : Nat) (x : Strip) : List Row → State → Prop
  | [], _ => True
  | r :: t, s =>
    (∃ sps xs, s.Scatters slot r.base r.pl true x.tag.fmt (rowElems x r) sps xs)
      ∧ ∀ v e, ((scatter slot .write r.base r.pl true x.tag.fmt 0 0 (rowElems x r) 0).run.run s : Except Stop (BitVec 32) × State) = (.ok e, v) →
          State.RowsStorable slot x t v

/-- The rows of a strip are stored one after another. -/
def RowsStored (slot : Nat) (x : Strip) : List Row → State → State → Prop
  | [], s, u => u = s
  | r :: t, s, u => ∃ v sps xs, s.Scatters slot r.base r.pl true x.tag.fmt (rowElems x r) sps xs ∧ StoreFrame s v s.queue
      ∧ v.myCtx.v.efc = s.myCtx.v.efc ∧ MemoryAfterScatter s v x.tag.fmt (rowElems x r) sps xs ∧ RowsStored slot x t v u

/-- Instruction `i` stores the 64 rows of a tile or accumulator at `a`, `b` bytes apart. -/
def StripStore (s : State) (slot : Nat) (i : Instr) (a b : Word) (x : Strip) : Prop :=
  let rows := tileRows a b fun _ => rowSize x.tag.fmt
  ∀ rs xs, (∀ r ∈ rows, s.opened slot r.base = s) → List.Forall₂ (fun r p => s.rowSpots slot .write r = .ok p) rows rs →
    List.Forall₂ (fun p y => s.spotAccess slot .write p = .ok y) (rs.flatMap Prod.fst) xs →
    (∀ y ∈ xs, s.reach slot .write y = .ok () ∧ s.Quiet slot y) →
    (∀ p ∈ rows.zip rs, ∀ y, p.2.2 = some y → y.baseBad x.tag.fmt p.1.base = false) →
    s.myCtx.provisional = false → State.RowsStorable slot x rows s →
    ∃ u, exec i s = .next (u.retire 4) ∧ RowsStored slot x rows s u

/-! ### Control, copies, registers and events -/

/-- The parcels at `va` can be fetched, and read quietly as `ps` (R215). -/
def State.ReadsParcels (s : State) (slot : Nat) (va : Word) (ps : List Parcel) : Prop :=
  ∀ k < ps.length, ∃ x, s.Reads slot .fetch (va + BitVec.ofNat 64 (4 * k)) 4 x (ps.getD k 0).toNat false ∧ s.Quiet slot x

/-- Parcel `k` of the executing packet is `p`: of the captured body in a reel, of memory otherwise (R230, R317). -/
def State.Packet (s : State) (slot k : Nat) (p : Parcel) : Prop :=
  match s.me.reel with
  | some r => r.body.getD (r.pos + k) 0 = p
  | none => ∃ x, s.Reads slot .fetch (s.me.pc + BitVec.ofNat 64 (4 * k)) 4 x p.toNat false ∧ s.Quiet slot x

/-- Nothing changes but the clusters of the context in `slot`, which become `f`. -/
def ClustersBecome (s t : State) (slot : Nat) (f : Cl → Cluster) : Prop :=
  t = { s with ctxs := t.ctxs } ∧ (∀ k, k ≠ slot → t.ctx k = s.ctx k)
    ∧ t.ctx slot = { s.ctx slot with c := f .C, a := f .A, v := f .V, m := f .M }

/-- Of the executing context only its copy queues and completion bits change. -/
def CopyFrame (s u : State) : Prop :=
  InContext s u ∧ u.myCtx = { s.myCtx with cq := u.myCtx.cq, cb := u.myCtx.cb }

/-- Instruction `i` issues the copy command that `x` describes: the queue gains it, and the completion bits of its chunks clear
(R280, R282, R284). -/
def CopyIssued (s : State) (i : Instr) (cq : BitVec 2) (cb scope : BitVec 3) (x : CopyArgs) : Prop :=
  x.rows ≠ 0 → x.len ≤ 2097152 → x.span ≤ 2097152 → (∀ p, x.signal = some p → p.1.toNat % 8 = 0) → s.copySpace x = .ok () →
    x.dsp = true ∨ s.myCtx.provisional = false → (s.myCtx.copyQueue cq.toNat).length < 32 →
    ∃ u cmd, exec i s = .next (u.retire 8) ∧ CopyFrame s u
      ∧ (∀ k, u.myCtx.copyQueue k = if k = cq.toNat then s.myCtx.copyQueue k ++ [.cmd cmd] else s.myCtx.copyQueue k)
      ∧ (∀ k b, u.cbBit k b = if k = cb.toNat ∧ b ∈ x.chunks then false else s.cbBit k b)
      ∧ cmd.dst = x.dst ∧ cmd.src = x.src ∧ cmd.len = x.len ∧ cmd.rows = x.rows ∧ cmd.sstr = x.sstr ∧ cmd.dstr = x.dstr
      ∧ cmd.dstSp = x.dsp ∧ cmd.srcSp = x.ssp ∧ cmd.signal = x.signal ∧ cmd.cb = cb.toNat ∧ cmd.scope = scope
      ∧ cmd.chunks = x.chunks ∧ cmd.started = false

/-- Of the executing context only what `f` says changes. -/
def ContextBecomes (s u : State) (f : Ctx → Ctx) : Prop := InContext s u ∧ u.myCtx = f s.myCtx

/-- The context of a slot takes a BANKCFG request with outcome `st`: the bank takes the mode where the outcome is 0, and the request
and its outcome can be read back (R111). -/
def BankConfigured (s u : State) (slot : Nat) (v : Word) (st : BitVec 2) : Prop :=
  u = { s with ctxs := u.ctxs, banks := u.banks, spm := u.spm } ∧ (∀ k, k ≠ slot → u.ctx k = s.ctx k)
    ∧ u.ctx slot = { s.ctx slot with bankNo := v.extractLsb' 0 6, bankMode := v.extractLsb' 8 2, bankStat := st }
    ∧ ∀ sp b, b < 64 → u.bank sp b =
        if st = 0 ∧ sp = spindleOf slot ∧ b = (v.extractLsb' 0 6).toNat then Bank.ofMode (v.extractLsb' 8 2).toNat slot
        else s.bank sp b

/-- Queue `q` of a slot takes the configuration of a QCFG word, and its closed state clears (R356). -/
def QueueConfigured (s u : State) (slot q : Nat) (v : Word) : Prop :=
  u = { s with ctxs := u.ctxs } ∧ (∀ k, k ≠ slot → u.ctx k = s.ctx k)
    ∧ u.ctx slot = { s.ctx slot with queues := (u.ctx slot).queues }
    ∧ ∀ r, (u.ctx slot).queue r = if r = q then
        { (s.ctx slot).queue q with prod := v.extractLsb' 0 3, cons := v.extractLsb' 3 3, first := v.extractLsb' 6 6
                                    nb := v.extractLsb' 12 4, closed := false }
        else (s.ctx slot).queue r

/-- A QCFG word may be written: the queue is empty and unbound, and the configuration is zero or keeps R167. -/
def State.QcfgFits (s : State) (slot q : Nat) (v : Word) : Prop :=
  ((s.ctx slot).queue q).entries = [] ∧ ((s.ctx slot).queue q).unplaced = [] ∧ ((s.ctx slot).queue q).stream = none
    ∧ ((v.setWidth 16 : BitVec 16) = 0 ∨ s.qcfgOk slot q (v.setWidth 16) = true)

/-- A store to a signal word has been performed: memory holds it, and in the same act every cluster that waits on its line runs again
(R347). -/
def Signalled (s u : State) (slot : Nat) (va : Word) (x : Xlate) (data : List Byte) : Prop :=
  u.cur = s.cur ∧ MemoryAfterStore (s.accessed slot va x) u slot x data
    ∧ ∀ k c, (u.ctx k).cl c =
      let y := (s.ctx k).cl c
      if y.run = .waiting ∧ WaitFor.onLine y.wait x.pa = true then { y with run := .running } else y

/-! ### Exceptions and the supervisor -/

/-- A write by physical address to the line of `pa` is performed at once: no engine holds the line in TRANSIT, the host does not own
it, no other write waits for it, it is not POISON, its block can be corrected, and it is not marked poisoned outside (R72, R427, R431,
R476). -/
def State.Free (s : State) (pa : Nat) : Prop :=
  s.physHeld pa = false ∧ (s.tagAt pa).vcls ≠ 4 ∧ (s.blockAt pa).errors ≤ 19 ∧ s.extPoison.get false (pa / 128) = false

/-- Memory holds `data` at `pa`, all in one line, and is otherwise as before, where the line is free (R72, R476). -/
def BytesStored (s t : State) (pa : Nat) (data : List Byte) : Prop :=
  s.Free pa → ∀ a, t.byteAt a = if pa ≤ a ∧ a < pa + data.length then data.getD (a - pa) 0 else s.byteAt a

/-- A cluster after a write to the line at `pa`: it runs again where it waits on that line in SIGWAIT (R347). -/
def Cluster.afterWrite (y : Cluster) (pa : Nat) : Cluster :=
  if y.run = .waiting ∧ WaitFor.onLine y.wait pa = true then { y with run := .running } else y

/-- The event of cluster `c` of the context in `slot` has been taken: its record `r` stands in the event ring, the context holds the
event and may not issue, the cluster stands where it stood and waits for nothing, and nothing else of the contexts changes, but for the
waiters on the ring's line (R401, R413). -/
def EventTaken (s t : State) (slot : Nat) (c : Cl) (r : Rec) : Prop :=
  t.cur = s.cur ∧ t.mayIssue slot = false ∧ BytesStored s t (s.eventSlot slot) (r.bytes 0)
    ∧ (∀ k, t.ctx k = { s.ctx k with
        c := (t.ctx k).c, a := (t.ctx k).a, v := (t.ctx k).v, m := (t.ctx k).m
        event := if k = slot then some { record := r, source := .cluster, core := none, takenAt := 0 } else (s.ctx k).event })
    ∧ ∀ k j, (t.ctx k).cl j =
        if k = slot ∧ j = c then { s.me.leaveConvoy with run := .running, wait := none }
        else Cluster.afterWrite ((s.ctx k).cl j) (s.eventSlot slot)

/-- The supervisor core can read `n` pieces of `unit` bytes one after another at `va`, from lines that are not POISON and need no
scrubbing, and they are `l` (R401, R431, R476). -/
def State.SupReads (s : State) (va : Word) (unit n : Nat) (l : List Byte) : Prop :=
  (∀ i < n, let p := va + BitVec.ofNat 64 (unit * i)
    s.supCheck .read p unit = none ∧ s.region p.toNat ≠ .creel ∧ s.CleanAt (s.homeOf p.toNat) ∧ s.supPoison (s.homeOf p.toNat) unit = false)
  ∧ l = (List.range n).flatMap fun i => s.bytesAt (s.homeOf (va + BitVec.ofNat 64 (unit * i)).toNat) unit

/-- The parcels at `va` can be fetched by an agent, and read quietly as `ps`: through the context's translation, or by physical address
(R215, R401). -/
def State.FetchesParcels (s : State) (a : Agent) (va : Word) (ps : List Parcel) : Prop :=
  match a with
  | .cluster slot _ => s.ReadsParcels slot va ps
  | .sup _ => ∀ k < ps.length, s.SupReads (va + BitVec.ofNat 64 (4 * k)) 4 1 (leBytes 4 (ps.getD k 0).toNat)

/-- No cluster holds a store that it has issued and not performed (R138; log entry 61). -/
def State.NoStores (s : State) : Prop := ∀ k j, ((s.ctx k).cl j).stores = []

/-- The record of RECODE is malformed (R360). -/
def recodeBad (l : List Byte) : Bool :=
  let fmt : Fmt := BitVec.ofNat 5 (natIn l 20 1)
  decide (32 ≤ natIn l 20 1) || decide (fmt = Fmt.none) || !fmt.allocated || decide (4 ≤ natIn l 21 1) || decide (natIn l 22 2 ≠ 0)
    || decide (natIn l 8 8 % 128 ≠ 0) || decide (natIn l 16 4 = 0) || decide (natIn l 24 8 % 64 ≠ 0)

/-- The recode job of a record (R360). -/
def RecJob.of (l : List Byte) (fromHost : Bool) : RecJob :=
  { asd := natIn l 0 8, va := natIn l 8 8, lines := natIn l 16 4, fmt := BitVec.ofNat 5 (natIn l 20 1), rtz := (natIn l 21 1).testBit 0
    ply := (natIn l 21 1).testBit 1, cmpl := natIn l 24 8, fromHost := fromHost, next := 0, rewritten := 0, skipped := 0
    refused := 0, freed := 0, stuckSince := none, transit := none, fold := none }

/-- Judging a recode record: 2 where it is malformed, else 1 where the queue holds 64 jobs, else 0 and the job is queued (R360). -/
def RecodeJudged (s u : State) (l : List Byte) (fromHost : Bool) (r : Nat) : Prop :=
  if recodeBad l = true then r = 2 ∧ u = s
  else if 64 ≤ s.recJobs.length then r = 1 ∧ u = s
  else r = 0 ∧ u = { s with recJobs := s.recJobs ++ [.of l fromHost] }

/-! ### Events -/

/-- No context changes but in its clusters, and of these only the waiting ones whose wait satisfies `f` do: they run again. -/
def Woken (s t : State) (f : Option WaitFor → Bool) : Prop :=
  (∀ k, t.ctx k = { s.ctx k with c := (t.ctx k).c, a := (t.ctx k).a, v := (t.ctx k).v, m := (t.ctx k).m })
    ∧ ∀ k j, (t.ctx k).cl j =
        let y := (s.ctx k).cl j
        if y.run = .waiting ∧ f y.wait = true then { y with run := .running } else y

/-- A wait for a translation in a range of a PASID (R423). -/
def State.waitsIn (s : State) (pasid va size : Nat) (w : Option WaitFor) : Bool :=
  match w with
  | some (.memory c a v _) => c == 0x0109 && (s.asd a).pasid == pasid && decide (va ≤ v) && decide (v < va + size)
  | _ => false

/-- The message `v` is raised at every host port: it is sent where the link is up and the vector is not masked, and is pending where
the vector is masked; nothing else changes (R377, R469). -/
def MessageRaised (s t : State) (v : Nat) : Prop :=
  t = { s with ports := t.ports } ∧ (∀ n, 2 ≤ n → t.port n = s.port n)
    ∧ ∀ n < 2, t.port n =
        if (s.port n).unmasked.get false v = true then
          (if s.linkUp n = true then { s.port n with sent := (s.port n).sent ++ [v] } else s.port n)
        else { s.port n with pending := (s.port n).pending.set false v true }

/-- The record `r` is reported: at each host port whose link is up and whose error queue is enabled the queue takes it with its number
where there is room, and the port raises vector 0; without room it is counted as lost. Nothing else changes but the memory of the host
(R398, R469). -/
def Reported (s t : State) (r : Rec) : Prop :=
  t = { s with ports := t.ports, mem := t.mem } ∧ (∀ a, a < hostBase → t.byteAt a = s.byteAt a)
    ∧ ∀ n < 2,
      let p := s.port n
      let size := 2 ^ ((p.eqcfg.extractLsb' 0 4).toNat + 6)
      if p.eqcfg.getLsbD 63 = false ∨ s.linkUp n = false then t.port n = p
      else if (p.eqTail - p.eqHead).toNat = size - 1 ∧ r.cls ≠ 5 then t.port n = { p with eqLost := p.eqLost + 1 }
      else t.port n = { p with
        eqTail := p.eqTail + 1
        sent := p.sent ++ (if p.unmasked.get false 0 = true then [0] else [])
        pending := if p.unmasked.get false 0 = true then p.pending else p.pending.set false 0 true }

/-- A class 3 record about no task (R400). -/
def State.rec3 (s : State) (src : Nat) (cause : BitVec 32) (info : Nat) : Rec :=
  { ts := s.timeNs, src := src, cls := 3, cause := cause, task := 0, hwid := 0, pc := 0, addr := 0, info := BitVec.ofNat 64 info }

/-- `n` bytes from `pa` on lie in HBM4, in lines that are neither POISON nor in TRANSIT and blocks without bit errors, and outside the
protected ranges: an access from outside the module meets nothing that would change its course (R382, R476). -/
def State.Plain (s : State) (pa n : Nat) : Prop :=
  0 < n ∧ ∀ a, pa ≤ a → a < pa + n → s.region a = .hbm ∧ (s.blockAt a).errors = 0 ∧ (s.tagAt a).vcls ≠ 3 ∧ (s.tagAt a).vcls ≠ 4
    ∧ s.protectedAt a = false

/-- Memory holds `data` from `pa` on, and every other byte is as before. -/
def BytesBecome (s t : State) (pa : Nat) (data : List Byte) : Prop :=
  ∀ a, t.byteAt a = if pa ≤ a ∧ a < pa + data.length then data.getD (a - pa) 0 else s.byteAt a

/-- The record of a decryption job is refused (R382, R391). -/
def State.decryptBad (s : State) (l : List Byte) : Prop :=
  s.creel.lcs ≠ 1 ∨ natIn l 21 3 ≠ 0 ∨ natIn l 36 4 ≠ 0 ∨ 16 ≤ natIn l 20 1 ∨ natIn l 0 8 % 16 ≠ 0 ∨ natIn l 8 8 % 16 ≠ 0
    ∨ natIn l 56 8 % 16 ≠ 0 ∨ natIn l 16 4 % 16 ≠ 0 ∨ natIn l 16 4 = 0 ∨ 2097152 < natIn l 16 4
    ∨ (¬ ∃ r ∈ s.ranges, r.1 ≤ natIn l 8 8 ∧ natIn l 8 8 + natIn l 16 4 ≤ r.2) ∨ s.keys.get none (natIn l 20 1) = none

/-- An export job record is refused (R437). -/
def exportBad (l : List Byte) : Prop :=
  natIn l 8 8 % 65536 ≠ 0 ∨ natIn l 16 8 % 65536 ≠ 0 ∨ natIn l 24 4 = 0 ∨ 65535 < natIn l 24 4 ∨ 2 ≤ natIn l 28 1
    ∨ natIn l 32 8 % 64 ≠ 0

/-- The module has been reset (R389): HBM4 holds zeros with wiped tags, every register has its Reset value, no task, hank, job or
translation is left, and the links are up that `up` names. The memory of hosts, tiers and peers, the fuses, the retired lanes, and the
messages and answers already sent stay. -/
def ModuleReset (s t : State) (up : Nat → Bool) : Prop :=
  t = { State.reset with
      mem := t.mem, tags := t.tags, extPoison := s.extPoison, answers := s.answers, retired := s.retired, creel := t.creel
      ports := t.ports, cur := s.cur, turns := s.turns, stepNo := s.stepNo }
    ∧ (∀ a, t.byteAt a = if a < 0x006000000000 then 0 else s.byteAt a)
    ∧ (∀ a, t.tagAt a = if a < 0x006000000000 then LineTag.wiped else s.tagAt a)
    ∧ t.creel = { Creel.initial with
        lnkUp := t.creel.lnkUp, ready := s.creel.lcs != 3, lcs := s.creel.lcs, step := s.creel.step, bobcfg := s.creel.bobcfg }
    ∧ (∀ n, t.linkUp n = up n)
    ∧ ∀ n < 2, t.port n = { Port.initial with sent := (s.port n).sent, reports := (s.port n).reports }

/-- A class 5 error: its record is reported after those detected before it, and the module is reset with the host ports' links as they
stand (R404, R474). -/
def Uncontained (s t : State) (src : Nat) (cause : BitVec 32) : Prop :=
  ∃ u, Reported (s.reportAll s.dyingRecords) u { s.rec3 src cause 0 with cls := 5 }
    ∧ ModuleReset u t fun n => decide (n < 2) && s.linkUp n

/-- The lower of two performance states: the one with the higher number (R383). -/
def lowerState (a b : BitVec 3) : BitVec 3 := if a < b then b else a

/-- The forced limit takes effect (R383, R470, R471): where it differs from the one in force FLIM and TRIP change, a transition that it
asks for begins when none is in progress, and vector 1 is raised. -/
def LimitApplied (s t : State) : Prop :=
  let aim := lowerState s.creel.pstateReq s.limit
  let s1 : State := { s with creel := { s.creel with
    flim := s.limit, trip := s.limit != 0
    pstateBusy := s.creel.pstateBusy || aim != s.creel.pstateCur
    pstateTgt := if s.creel.pstateBusy = false ∧ aim ≠ s.creel.pstateCur then aim else s.creel.pstateTgt } }
  if s.limit = s.creel.flim then t = s else MessageRaised s1 t 1

/-- The completion record at `pa`: the counts and then 1 (R360, R438). -/
def completionBytes (counts : List Nat) : List Byte := (counts ++ [1]).flatMap (leBytes 8)

/-- The copy queues of a context become `f`; nothing else of any context changes, and nothing outside contexts does. -/
def CopyQueuesBecome (s u : State) (slot : Nat) (f : Nat → List CopyEntry) : Prop :=
  u = { s with ctxs := u.ctxs } ∧ (∀ k, k ≠ slot → u.ctx k = s.ctx k) ∧ u.ctx slot = { s.ctx slot with cq := (u.ctx slot).cq }
    ∧ ∀ q, (u.ctx slot).copyQueue q = f q

end Machine

end Sys2Proof
end

