-- ==== Sys2Proof/Certificates/Slice0/Obligations.lean ====
section
/-! DEFINITION. The statements for the provers. Each docstring names the rules of spec/ that its statement formalises. -/

open Sys2Proof Sys2Proof.Machine

/-- Every scalar instruction of majors 0x01 to 0x07 and 0x14 but the compares answers a next state in which its destination holds
the result of the rule's table for the values of its sources, FLAGS gain the table's flags, a write to s0 is discarded, and no
other register, flag, byte of memory or agent changes but the cluster's position. (R247, R248, R249, R256, R94) -/
def Obligations.ScalarArithmetic : Prop :=
  (∀ p ∈ scalarTwo, ∀ (s : State) (g : Guard) (d a b : RegF), s.guardTrue g = true →
      ∃ t, exec (p.1 g d a b) s = .next t
        ∧ ScalarResult s t d (p.2 (s.readS a) (s.readS b)).1 (p.2 (s.readS a) (s.readS b)).2 4)
  ∧ (∀ p ∈ scalarMul, ∀ (s : State) (g : Guard) (d a b : RegF), s.guardTrue g = true →
      ∃ t, exec (p.1 g d a b) s = .next t
        ∧ ScalarResult s t d (p.2 (s.readS a) (s.readS b)).1 (p.2 (s.readS a) (s.readS b)).2 4)
  ∧ ((∀ p ∈ scalarOne, ∀ (s : State) (g : Guard) (d a : RegF), s.guardTrue g = true →
      ∃ t, exec (p.1 g d a) s = .next t ∧ ScalarResult s t d (p.2 (s.readS a)).1 (p.2 (s.readS a)).2 4)
    ∧ (∀ p ∈ scalarImm, ∀ (s : State) (g : Guard) (d a : RegF) (i : BitVec 11), s.guardTrue g = true →
      ∃ t, exec (p.1 g d a i) s = .next t ∧ ScalarResult s t d (p.2 (s.readS a) (i.signExtend 64)) 0 4)
    ∧ ∀ p ∈ scalarShift, ∀ (s : State) (g : Guard) (d a : RegF) (n : BitVec 6), s.guardTrue g = true →
      ∃ t, exec (p.1 g d a n) s = .next t ∧ ScalarResult s t d (p.2 (s.readS a) n.toNat) 0 4)
  ∧ ((∀ p ∈ scalarFp2, ∀ (s : State) (g : Guard) (d a b : RegF), s.guardTrue g = true →
      let r := p.2 ((s.readS a).setWidth 32) ((s.readS b).setWidth 32)
      ∃ t, exec (p.1 g d a b) s = .next t ∧ ScalarResult s t d (r.1.setWidth 64) r.2 4)
    ∧ ∀ (s : State) (g : Guard) (d a b : RegF), s.guardTrue g = true →
      let r := f32Fma ((s.readS a).setWidth 32) ((s.readS b).setWidth 32) ((s.readS d).setWidth 32)
      ∃ t, exec (.fma g d a b) s = .next t ∧ ScalarResult s t d (r.1.setWidth 64) r.2 4)

/-- BEXTU, BEXT, BINS, LIMM and LIMMH answer a next state in which the destination holds the field, the inserted field or the
constant that the rule gives, and nothing else changes. (R250, R251) -/
def Obligations.BitFieldsAndConstants : Prop :=
  ∀ (s : State) (g : Guard) (d a : RegF), s.guardTrue g = true →
    (∀ l w : BitVec 6, l.toNat + w.toNat + 1 ≤ 64 →
      let n := w.toNat + 1
      let f := (s.readS a).toNat / 2 ^ l.toNat % 2 ^ n
      (∃ t, exec (.bextu g d a l w) s = .next t ∧ ScalarResult s t d (BitVec.ofNat 64 f) 0 8)
      ∧ (∃ t, exec (.bext g d a l w) s = .next t
        ∧ ScalarResult s t d (BitVec.ofInt 64 (if f < 2 ^ (n - 1) then f else f - 2 ^ n)) 0 8)
      ∧ ∃ t v, exec (.bins g d a l w) s = .next t ∧ ScalarResult s t d v 0 8
        ∧ ∀ i < 64, v.getLsbD i = if l.toNat ≤ i ∧ i < l.toNat + n then (s.readS a).getLsbD (i - l.toNat) else (s.readS d).getLsbD i)
    ∧ (∀ imm : BitVec 48, ∃ t, exec (.limm g d imm) s = .next t ∧ ScalarResult s t d (BitVec.ofInt 64 imm.toInt) 0 8)
    ∧ ∀ imm : BitVec 16, ∃ t, exec (.limmh g d imm) s = .next t
      ∧ ScalarResult s t d (BitVec.ofNat 64 (imm.toNat * 2 ^ 48 + (s.readS d).toNat % 2 ^ 48)) 0 4

/-- Every instruction that has a guard and is no REEL or REELX passes to the next packet when its guard is false, and changes
nothing else. (R217) -/
def Obligations.FalseGuardDoesNothing : Prop :=
  ∀ (i : Instr) (g : Guard) (s : State), guardOf i = some g → (i.home = .privileged → s.isSup = true) →
    s.guardTrue g = false → exec i s = .next (s.retire (bytesOf i))

/-- CMP, CMPI and FCMP write the condition to the first predicate and its negation to the second (which prevails where both are
one), a write to g7 is discarded, FCMP raises NV as its condition says, and SEL copies the source that its predicate chooses;
nothing else changes. (R222, R246, R252, R253) -/
def Obligations.CompareAndSelect : Prop :=
  ∀ (s : State) (g : Guard) (a b : RegF), s.guardTrue g = true →
    (∀ (gt gf : BitVec 3) (c : BitVec 4), c.toNat < 8 →
      (∃ t, exec (.cmp g gt gf a b c) s = .next t ∧ PredResult s t gt gf (intCond c.toNat (s.readS a) (s.readS b)) 0 4)
      ∧ ∀ imm : BitVec 32, ∃ t, exec (.cmpi g gt gf a imm c) s = .next t
        ∧ PredResult s t gt gf (intCond c.toNat (s.readS a) (imm.signExtend 64)) 0 8)
    ∧ (∀ (gt gf : BitVec 3) (c : BitVec 4), 8 ≤ c.toNat → c.toNat < 13 →
      let r := floatCond c.toNat (s.readS a) (s.readS b)
      ∃ t, exec (.fcmp g gt gf a b c) s = .next t ∧ PredResult s t gt gf r.1 r.2 4)
    ∧ ∀ (d : RegF) (neg : Bool) (p : BitVec 3), ∃ t, exec (.sel g d a b neg p) s = .next t
      ∧ ScalarResult s t d (if s.readG p ^^ neg then s.readS a else s.readS b) 0 4

/-- BR, BRL, JR, JRL and LOOP go to the target of the rule and write their link or count register, and nothing else changes but the
position; a JR or JRL whose target is not a multiple of 4 takes the illegal-operand trap. (R254, R255) -/
def Obligations.Branches : Prop :=
  ∀ (s : State) (g : Guard), s.guardTrue g = true →
    (∀ disp : BitVec 21,
      (∃ t, exec (.br g disp) s = .next t ∧ Jumped s t (s.parcelsOn disp.toInt) s.readS)
      ∧ ∃ t, exec (.brl g disp) s = .next t ∧ Jumped s t (s.parcelsOn disp.toInt) (s.regsWith 31 (s.me.pc + 4)))
    ∧ (∀ a d : RegF, (s.readS a).toNat % 4 = 0 →
      (∃ t, exec (.jr g a) s = .next t ∧ Jumped s t (s.readS a) s.readS)
      ∧ ∃ t, exec (.jrl g d a) s = .next t ∧ Jumped s t (s.readS a) (s.regsWith d (s.me.pc + 4)))
    ∧ (∀ a d : RegF, (s.readS a).toNat % 4 ≠ 0 →
      let trapped : State := s.halt (.trap 0x0010 0 (BitVec.ofNat 64 (14 * 2 ^ 16 + 1 * 2 ^ 29 + (s.readS a).toNat % 2 ^ 32 * 2 ^ 32)))
      exec (.jr g a) s = .next trapped ∧ exec (.jrl g d a) s = .next trapped)
    ∧ ∀ (c : RegF) (disp : BitVec 16),
      if s.readS c = 1 then ∃ t, exec (.loop g c disp) s = .next t ∧ ScalarResult s t c 0 0 4
      else ∃ t, exec (.loop g c disp) s = .next t ∧ Jumped s t (s.parcelsOn disp.toInt) (s.regsWith c (s.readS c - 1))

/-- Wherever the context may read its address, each scalar load and load-acquire completes, its register takes the bytes zero- or
sign-extended, and nothing else changes but what the access itself leaves (`State.afterRead`: the translation, the A bit, counters of
corrected errors, records of poison), which is nothing where its translation is cached and its line is clean. (R257, R258, R259) -/
def Obligations.ScalarLoads : Prop :=
  ∀ (s : State) (slot : Nat) (c : Cl) (g : Guard) (d a : RegF), s.cur = .cluster slot c → s.guardTrue g = true →
    (∀ p ∈ scalarLoads, ∀ off : BitVec 8,
      LoadsInto s slot (p.1 g d a off) (s.readS a + BitVec.ofInt 64 (off.toInt * p.2.1)) d p.2.1 p.2.2)
    ∧ ∀ sc : BitVec 3, LoadsInto s slot (.ldacq g d a sc) (s.readS a) d 8 false
      ∧ LoadsInto s slot (.ldacqw g d a sc) (s.readS a) d 4 false

/-- Wherever the context may write its address, on a page that is not folded each scalar store and store-release completes and
changes exactly the bytes stored (the other bytes of a line that was not VALID read 0) and no register; a provisional hank's stores go
to its buffer entry with memory unchanged but for the leaf entry, and its store-releases wait. (R157, R206, R207, R257, R258, R259) -/
def Obligations.ScalarStores : Prop :=
  (∀ (s : State) (slot : Nat) (c : Cl) (g : Guard) (d a : RegF), s.cur = .cluster slot c → s.guardTrue g = true →
      (∀ p ∈ scalarStores, ∀ off : BitVec 8,
        StoresTo s slot (p.1 g d a off) (s.readS a + BitVec.ofInt 64 (off.toInt * p.2)) (leBytes p.2 (s.readS d).toNat))
      ∧ (s.myCtx.provisional = false → ∀ sc : BitVec 3,
        StoresTo s slot (.strel g d a sc) (s.readS a) (leBytes 8 (s.readS d).toNat)
        ∧ StoresTo s slot (.strelw g d a sc) (s.readS a) (leBytes 4 (s.readS d).toNat)))
  ∧ (∀ (s : State) (slot : Nat) (c : Cl) (g : Guard) (d a : RegF), s.cur = .cluster slot c → s.guardTrue g = true →
      s.myCtx.provisional = true → s.myCtx.hank.isSome = true →
      (∀ p ∈ scalarStores, ∀ (off : BitVec 8) (x : Xlate),
        let data := leBytes p.2 (s.readS d).toNat
        let va := s.readS a + BitVec.ofInt 64 (off.toInt * p.2)
        let u := s.accessed slot va x
        s.Writes slot .write va data x →
        ∃ t, exec (p.1 g d a off) s = .next t ∧ OnlyCompleted s t 4
          ∧ (∀ a, x.setD = false ∨ a / 128 ≠ x.entry.leaf / 128 → t.tagAt a = u.tagAt a)
          ∧ (∀ a, x.setD = false ∨ a ≠ x.entry.leaf → t.byteAt a = u.byteAt a)
          ∧ ∃ e, t.plbEntry slot x.va = some e ∧ ∀ i < p.2, e.bytes.get 0 (x.va % 128 + i) = data.getD i 0
              ∧ e.mask.get false (x.va % 128 + i) = true)
      ∧ ∀ sc : BitVec 3, exec (.strel g d a sc) s = .next (s.halt (.wait .provisional))
        ∧ exec (.strelw g d a sc) s = .next (s.halt (.wait .provisional)))

/-- Wherever the context may read and write the address, each AMO and CAS completes and its register takes the old value
sign-extended. A CAS that fails leaves all else as its read does (`State.afterRead`); where no poison is met, on a page that is not
folded, memory holds the new value of another one at that address and is otherwise as before. The atomics of a provisional hank
wait. (R145, R206, R260, R261) -/
def Obligations.Atomics : Prop :=
  ∀ p ∈ atomics, ∀ (s : State) (slot : Nat) (c : Cl) (g : Guard) (d a b : RegF) (ord : BitVec 2) (sc : BitVec 3) (w : Bool)
    (x : Xlate) (old : Nat) (z : Bool),
    let n := if w then 8 else 4
    let new := p.2 n ((s.readS d).toNat % 256 ^ n) ((s.readS b).toNat % 256 ^ n) old
    let u := s.afterRead slot .amo (s.readS a) x z
    let v := s.accessed slot (s.readS a) x
    s.cur = .cluster slot c → s.guardTrue g = true →
    (s.myCtx.provisional = true → exec (p.1 g d a b ord sc w) s = .next (s.halt (.wait .provisional)))
    ∧ (s.myCtx.provisional = false →
      s.Reads slot .amo (s.readS a) n x old z → (∀ y, new = some y → s.Writes slot .amo (s.readS a) (leBytes n y) x) →
      ∃ r t, exec (p.1 g d a b ord sc w) s = .next t ∧ ScalarResult r t d (extend n true old) 0 8 ∧ u.me = s.me ∧ u.cur = s.cur
        ∧ match new with
          | some y => r.me = u.me ∧ r.cur = u.cur ∧ OnlyCompleted u (r.retire 8) 8
              ∧ (z = false → v.extPoison.get false (x.pa / 128) = false → MemoryAfterStore v t slot x (leBytes n y))
          | none => r = u)

/-- A scalar load or store of a supervisor core acts on the physical address itself: a load gives the bytes or the Creel register
there, a store writes the bytes, where nothing holds the line back, or the Creel register. An access that the check of R401 refuses
stops as it says, a load of a POISON line faults the core, and a write of EXPQ may wait for its record. (R106, R390, R401, R402,
R427, R476) -/
def Obligations.SupervisorAccesses : Prop :=
  ∀ (s : State) (n : Nat) (g : Guard) (d a : RegF) (off : BitVec 8), s.cur = .sup n → s.guardTrue g = true →
    (∀ p ∈ scalarLoads, let va := s.readS a + BitVec.ofInt 64 (off.toInt * p.2.1)
      let pa := s.homeOf va.toNat
      let u := s.scrub pa
      (∀ x, s.supCheck .read va p.2.1 = some x → exec (p.1 g d a off) s = .next (s.halt x))
      ∧ (s.supCheck .read va p.2.1 = none → s.region va.toNat = .creel →
        let v := if p.2.1 = 8 then (s.creelRead (va.toNat - creelBase)).toNat else 0
        ∃ t, exec (p.1 g d a off) s = .next t ∧ ScalarResult s t d (extend p.2.1 p.2.2 v) 0 4)
      ∧ (s.supCheck .read va p.2.1 = none → s.region va.toNat ≠ .creel →
        if u.supPoison pa p.2.1 then exec (p.1 g d a off) s = .next (u.coreFault n 0x0108)
        else ∃ t, exec (p.1 g d a off) s = .next t ∧ ScalarResult u t d (extend p.2.1 p.2.2 (u.natAt pa p.2.1)) 0 4))
    ∧ ∀ p ∈ scalarStores, let va := s.readS a + BitVec.ofInt 64 (off.toInt * p.2)
      let data := leBytes p.2 (s.readS d).toNat
      let pa := s.homeOf va.toNat
      (∀ x, s.supCheck .write va p.2 = some x → exec (p.1 g d a off) s = .next (s.halt x))
      ∧ (s.supCheck .write va p.2 = none → s.region va.toNat = .creel →
        exec (p.1 g d a off) s = .next (match s.exportWait va (s.readS d).toNat with
          | some w => s.halt (.wait w)
          | none => (if p.2 = 8 then s.creelWrite (.supervisor n) (va.toNat - creelBase) (s.readS d) else s).retire 4))
      ∧ (s.supCheck .write va p.2 = none → s.region va.toNat ≠ .creel →
        ∃ u : State, exec (p.1 g d a off) s = .next (u.retire 4) ∧ u.cur = s.cur ∧ u.sup = s.sup ∧ BytesStored s u pa data
          ∧ (s.Free pa → ∀ k j, (u.ctx k).cl j = Cluster.afterWrite ((s.ctx k).cl j) pa))

/-- Wherever the operands are usable and no lattice entry used is forbidden, each polymorphic instruction completes and writes the
lattice's result format; where that is unscaled and every operand has the compute format of its step, each active element is the
exact result rounded once. A register keeps or zeroes its other elements, sources in queues are popped, and other registers, queues
and memory do not change. (R64, R95, R97, R225, R291, R292, R293, R305) -/
def Obligations.VectorArithmetic : Prop :=
  ∀ (s : State) (slot : Nat) (g : Guard) (d a b : RegF), s.cur = .cluster slot .V → s.guardTrue g = true →
    (∀ p ∈ vecArith, ∀ m : VMods, ArithDone s (p.1 g d a b m) p.2.1 (polyFields p.2.2 a b m) (fieldD d m) m 8)
    ∧ ∀ p ∈ vecArithShort, ArithDone s (p.1 g d a b) p.2.1 (polyFields p.2.2 a b .short) (fieldD d .short) .short 4

/-- Wherever their operand is usable, VEXP2, VLOG2, VRCP and VRSQ round each active element to FP32 and put the function's FP32 value
into the result format. (R93, R306) -/
def Obligations.VectorFunctions : Prop :=
  ∀ p ∈ vecFuncs, ∀ (s : State) (slot : Nat) (g : Guard) (d a : RegF), s.cur = .cluster slot .V → s.guardTrue g = true →
    FuncDone s (p.1 g d a) p.2.2 d a .short 4 ∧ ∀ m : VMods, FuncDone s (p.2.1 g d a m) p.2.2 d a m 8

/-- Wherever their operands are usable, VAND, VOR, VXOR, VSHL, VSHR and VSRA combine the codes of two operands of one integer format
or of NONE, shifting by the amount modulo the width. (R307) -/
def Obligations.VectorBitwise : Prop :=
  ∀ p ∈ vecBitwise, ∀ (s : State) (slot : Nat) (g : Guard) (d a b : RegF), s.cur = .cluster slot .V → s.guardTrue g = true →
    BitwiseDone s (p.1 g d a b) p.2.2 d a b .short 4 ∧ ∀ m : VMods, BitwiseDone s (p.2.1 g d a b m) p.2.2 d a b m 8

/-- VMOV, VSEL and VSPLAT complete wherever their operands are usable and put the codes or the scalar that the rule names. (R309) -/
def Obligations.VectorMoves : Prop :=
  (∀ (s : State) (slot : Nat) (g : Guard) (d a b : RegF), s.cur = .cluster slot .V → s.guardTrue g = true →
      (∀ m : VMods,
        VecDone s (.vmovLong g d a m) [fieldA a m] (fieldD d m) m 8 (fun _ => True) srcFmt
            (fun xs r => MovesFrom s m (stripOf xs 0) some r)
        ∧ VecDone s (.vsel g d a b m) [fieldA a m, fieldB b m] (fieldD d m) m 8
            (fun xs => (stripOf xs 0).tag.fmt = (stripOf xs 1).tag.fmt ∧ (stripOf xs 0).tag.blk = (stripOf xs 1).tag.blk) srcFmt
            (fun xs r => r.blk = (stripOf xs 0).tag.blk.toNat ∧ r.ef = false
              ∧ r.vsum = (if vsPoison ∈ xs.map (fun x => x.strip.tag.vsum) then vsPoison
                else if ∀ x ∈ xs, x.strip.tag.vsum = vsZero ∨ x.strip.tag.vsum = vsVacant then vsZero else vsValid)
              ∧ ∀ j, s.active m.mask j = true → r.put j =
              let x := stripOf xs (if s.maskBit m.vc.toNat j then 0 else 1)
              .move (x.code j) (x.scale j)))
      ∧ VecDone s (.vmov g d a) [fieldA a .short] (fieldD d .short) .short 4 (fun _ => True) srcFmt
          (fun xs r => MovesFrom s .short (stripOf xs 0) some r))
  ∧ (∀ (s : State) (slot : Nat) (g : Guard) (d a : RegF), s.cur = .cluster slot .V → s.guardTrue g = true →
      let spec (m : VMods) : List VSrc → VResult → Prop := fun _ r => r.ef = false ∧ r.vsum = vsValid
        ∧ ∀ j, s.active m.mask j = true → r.put j =
          if r.fmt.isReal = true ∧ r.fmt ∉ [Fmt.fp64, Fmt.fp32, Fmt.vq2] then .value (F32.val ((s.readS a).setWidth 32))
          else .move (BitVec.ofNat 64 ((s.readS a).toNat % 2 ^ r.fmt.width)) 0x7F
      (∀ m : VMods, VecDone s (.vsplatLong g d a m) [] (fieldD d m) m 8 (fun _ => True)
        (fun _ => if m.ovr = 0 then Fmt.fp32 else m.ovr) (spec m))
      ∧ VecDone s (.vsplat g d a) [] (fieldD d .short) .short 4 (fun _ => True) (fun _ => Fmt.fp32) (spec .short))

/-- VPERM, VSLIDE, VCOMPRESS and VEXPAND complete wherever their operands are usable and move to each active place the element that
the rule gives, or a zero where no source element stands. (R315) -/
def Obligations.VectorPermutes : Prop :=
  ∀ (s : State) (slot : Nat) (g : Guard) (d a b : RegF), s.cur = .cluster slot .V → s.guardTrue g = true →
    let inVl (n : Int) : Option Nat := if 0 ≤ n ∧ n < s.vl then some n.toNat else none
    let perm (m : VMods) : List VSrc → VResult → Prop := fun xs r =>
      MovesFrom s m (stripOf xs 0) (fun j => inVl ((stripOf xs 1).val j).toInt) r
        ∧ ((r.flags &&& Flags.xr = 0) ↔ ∀ j, s.active m.mask j = true → (inVl ((stripOf xs 1).val j).toInt).isSome = true)
    let isSet (m : VMods) : List Nat := (List.range s.vl).filter (s.maskBit m.vc.toNat)
    VecDone s (.vperm g d a b) [fieldA a .short, fieldB b .short] (fieldD d .short) .short 4
        (fun xs => (stripOf xs 1).tag.f.isInt = true) srcFmt (perm .short)
    ∧ ∀ m : VMods,
      VecDone s (.vpermLong g d a b m) [fieldA a m, fieldB b m] (fieldD d m) m 8
          (fun xs => (stripOf xs 1).tag.f.isInt = true) srcFmt (perm m)
      ∧ VecDone s (.vslide g d a m) [fieldA a m] (fieldD d m) m 8 (fun _ => True) srcFmt
          (fun xs r => MovesFrom s m (stripOf xs 0) (fun j => inVl (j + m.imm.toInt)) r)
      ∧ (m.mask = 15 → m.z = false →
        VecDone s (.vcompress g d a m) [fieldA a m] (fieldD d m) m 8 (fun _ => True) srcFmt
            (fun xs r => MovesFrom s m (stripOf xs 0) (fun j => (isSet m)[j]?) r)
        ∧ VecDone s (.vexpand g d a m) [fieldA a m] (fieldD d m) m 8 (fun _ => True) srcFmt
            (fun xs r => MovesFrom s m (stripOf xs 0)
              (fun j => if s.maskBit m.vc.toNat j then some ((isSet m).filter (· < j)).length else none) r))

/-- VCVT and VSCALE complete wherever their operands are usable and give each active element the converted or scaled value. (R310,
R311) -/
def Obligations.VectorConversions : Prop :=
  ∀ (s : State) (slot : Nat) (g : Guard) (d a : RegF) (m : VMods), s.cur = .cluster slot .V → s.guardTrue g = true →
    let f : Fmt := m.imm.extractLsb' 0 5
    let blk := (m.imm.extractLsb' 5 2).toNat
    (f ≠ Fmt.vq2 → VecDone s (.vcvt g d a m) [fieldA a m] (fieldD d m) m 8
      (fun xs => srcFmt xs ≠ Fmt.vq2 ∧ srcFmt xs ≠ Fmt.none) (fun _ => f)
      (fun xs r => r.blk = blk ∧ r.rm = Rm.ofCode m.rm.toNat ∧ r.ef = (m.rm == 4) ∧ r.vsum = computedVsum xs (s.actives m.mask)
        ∧ ∀ j, s.active m.mask j = true → r.put j = .value ((stripOf xs 0).val j)))
    ∧ (m.qa = false → f ≠ Fmt.vq2 → (s.vreg a).tag.fmt = Fmt.vq2 → s.vl % 8 = 0 → s.vl / 8 ≤ s.vlmax Fmt.vq2 →
      Allowed (s.queueChecks [] (queuesOf [fieldD d m])) → s.DestFits (fieldD d m) m f → s.DestRoom (fieldD d m) [] f →
      ∃ u r, exec (.vcvt g d a m) s = .next (u.retire 8) ∧ VecWritten s u (fieldD d m) m [] r ∧ r.fmt = f ∧ r.blk = blk
        ∧ r.rm = Rm.ofCode m.rm.toNat ∧ r.ef = (m.rm == 4)
        ∧ ∀ j, s.active m.mask j = true →
          let idx := ((s.vreg a).code (j / 8)).toNat
          r.put j = .value (vq2Weight (s.myCtx.codebook (idx % 256)) idx (j % 8) ((s.vreg a).scale (j / 8))))
    ∧ (let scaled (n : VMods) (b : Nat) : List VSrc → VResult → Prop := fun xs r => r.rm = Rm.ofCode n.rm.toNat ∧ r.ef = false
          ∧ ((srcFmt xs).isScaled = true → r.blk = b ∧ r.vsum = computedVsum xs (s.actives n.mask)
            ∧ ∀ j, s.active n.mask j = true → r.put j = .value ((stripOf xs 0).val j))
          ∧ ((srcFmt xs).isScaled = false → MovesFrom s n { stripOf xs 0 with tag := { (stripOf xs 0).tag with blk := 0 } } some r)
       VecDone s (.vscale g d a) [fieldA a .short] (fieldD d .short) .short 4
          (fun xs => srcFmt xs ≠ Fmt.vq2) srcFmt (scaled .short 0)
       ∧ VecDone s (.vscaleLong g d a m) [fieldA a m] (fieldD d m) m 8
          (fun xs => srcFmt xs ≠ Fmt.vq2 ∧ ((srcFmt xs).isScaled = true ∨ blk = 0)) srcFmt (scaled m blk))

/-- Wherever their operands are usable, VSCAN writes the running sums in the order of the rule, and VSSMX the FP32 results of its
algorithm, with the running maximum and sum in its scalar registers. (R89, R312, R314) -/
def Obligations.VectorScan : Prop :=
  (∀ (s : State) (slot : Nat) (g : Guard) (d a : RegF), s.cur = .cluster slot .V → s.guardTrue g = true →
      let f (xs : List VSrc) : Fmt := if srcFmt xs = Fmt.fp64 ∨ (srcFmt xs).isInt = true then srcFmt xs else Fmt.fp32
      let spec (m : VMods) : List VSrc → VResult → Prop := fun xs r => r.ef = false ∧ r.vsum = computedVsum xs (s.actives m.mask)
        ∧ if (srcFmt xs).isInt then ∀ j, s.active m.mask j = true → r.put j =
            .move (BitVec.ofInt 64 ((((s.actives m.mask).filter (· ≤ j)).map fun k => ((stripOf xs 0).val k).toInt).sum
              % 2 ^ (srcFmt xs).width)) 0x7F
          else ∃ y, Scanned r.fmt (stripOf xs 0).val (s.actives m.mask) y
            ∧ ∀ j, s.active m.mask j = true → r.put j = .value (y j)
      let ok : List VSrc → Prop := fun xs => srcFmt xs ≠ Fmt.vq2 ∧ srcFmt xs ≠ Fmt.none ∧ s.vl ≤ s.vlmax (f xs)
      VecDone s (.vscan g d a) [fieldA a .short] (fieldD d .short) .short 4 ok f (spec .short)
      ∧ ∀ m : VMods, VecDone s (.vscanLong g d a m) [fieldA a m] (fieldD d m) m 8 ok f (spec m))
  ∧ (∀ (s : State) (slot : Nat) (g : Guard) (d a b : RegF) (m : VMods) (x : VSrc), s.cur = .cluster slot .V → s.guardTrue g = true →
      s.Opens [fieldA a m] [fieldD d m] [x] → s.SourcesFit [x] → x.fmt.isReal = true → x.fmt ≠ Fmt.vq2 →
      s.DestFits (fieldD d m) m Fmt.fp32 → s.DestRoom (fieldD d m) (queuesOf [fieldA a m]) Fmt.fp32 →
      let m0 : F32 := (s.readS b).setWidth 32
      let z0 : F32 := (s.readS m.vc).setWidth 32
      let y := if s.vl = 0 then ([], 0x3F800000, m0, z0) else
        (softmax ((List.range s.vl).map fun i => if s.active m.mask i then some (rn (x.strip.val i)).1 else none) m0 z0).go.1
      ∃ u r t, exec (.vssmx g d a b m) s = .next (t.retire 8) ∧ VecWritten s u (fieldD d m) m (queuesOf [fieldA a m]) r
        ∧ r.fmt = Fmt.fp32 ∧ r.ef = false ∧ r.vsum = computedVsum [x] (s.actives m.mask)
        ∧ (∀ j, s.active m.mask j = true → r.put j = .value (F32.val (((y.1).getD j none).getD 0)))
        ∧ t = (u.writeS b (y.2.1 ++ y.2.2.1)).writeS m.vc (y.2.2.2.setWidth 64))

/-- VREDSUM, VREDMAX and VREDMIN complete wherever their operand is usable and write the reduction of the active elements to a
scalar register, exactly that of the integers where the elements are integers; VEXTR writes the element that its operand names. (R88,
R309, R313) -/
def Obligations.VectorToScalar : Prop :=
  ∀ (s : State) (slot : Nat) (g : Guard) (d a b : RegF), s.cur = .cluster slot .V → s.guardTrue g = true →
    let elem (x : Strip) : Word × Flags := if s.vl ≤ (s.readS b).toNat then (0, Flags.xr) else extracted x (s.readS b).toNat
    let real (f : Fmt) : Prop := f ≠ Fmt.vq2 ∧ f ≠ Fmt.none
    (∀ m : VMods, m.mask = 15 → m.z = false → VecToScalar s (.vextrLong g d a b m) d (fieldA a m) 8 (fun _ => True) elem)
    ∧ VecToScalar s (.vextr g d a b) d (fieldA a .short) 4 (fun _ => True) elem
    ∧ ∀ p ∈ vecReduces,
      VecToScalar s (p.1 g d a) d (fieldA a .short) 4 real (s.reduce p.2.2 15)
      ∧ (∀ m : VMods, VecToScalar s (p.2.1 g d a m) d (fieldA a m) 8 real (s.reduce p.2.2 m.mask))
      ∧ ∀ (x : Strip) (mask : BitVec 4), x.tag.f.isInt = true →
          s.reduce p.2.2 mask x = (intReduced p.2.2 ((s.actives mask).map fun i => (x.val i).toInt), 0)

/-- VCMP completes wherever its operands are usable and writes each active element's condition to its first mask and the negation to
the second; masked-off bits are kept, or cleared under Z, and an ordered condition raises NV for a NaN. (R308) -/
def Obligations.VectorCompare : Prop :=
  ∀ (s : State) (slot : Nat) (g : Guard) (d a b : RegF) (m : VMods) (x y : VSrc), s.cur = .cluster slot .V → s.guardTrue g = true →
    s.Opens [fieldA a m, fieldB b m] [] [x, y] → s.SourcesFit [x, y] → (s.lookup x.fmt y.fmt).act ≠ .forbidden →
    ∃ u, exec (.vcmp g d a b m) s = .next (u.retire 8)
      ∧ MasksBecome s u (fun k i =>
          let r := vcond (m.imm.extractLsb' 0 4).toNat (x.strip.val i) (y.strip.val i)
          if i < s.vl ∧ k ≠ 31 ∧ (k = m.vc.toNat ∨ k = d.toNat) then
            if s.active m.mask i then (if k = m.vc.toNat then !r else r) else !(m.z && decide (s.reelElem ≤ i)) && s.maskBit k i
          else s.maskBit k i)
      ∧ (x.fmt.isScaled = false → y.fmt.isScaled = false → u.myCtx.flags = s.myCtx.flags ||| Flags.when
          (decide (2 ≤ (m.imm.extractLsb' 0 4).toNat ∧ (m.imm.extractLsb' 0 4).toNat ≤ 5)
            && (s.actives m.mask).any fun i => (x.strip.val i).isNan || (y.strip.val i).isNan) Flags.nv)
      ∧ ∀ q, u.queue q = if q ∈ queuesOf [fieldA a m, fieldB b m] then (s.queue q).pop else s.queue q

/-- KAND, KOR, KXOR, KANDN, KNOT and KMOV write the combined mask over the elements below VL, and KFIRST and KPOP the first set
element and the number of set elements, which KPOP may also put into VL; the elements that a resumed reel iteration passes over take
no part. (R316, R318) -/
def Obligations.MaskOperations : Prop :=
  ∀ (s : State) (slot : Nat) (g : Guard) (d a b : RegF), s.cur = .cluster slot .V → s.guardTrue g = true → s.Whole →
    (∀ p ∈ maskTwo,
      let becomes (u : State) : Prop := MasksBecome s u (fun k i =>
          if k = d.toNat ∧ i < s.vl ∧ s.reelElem ≤ i then p.2.2 (s.maskBit a.toNat i) (s.maskBit b.toNat i) else s.maskBit k i)
        ∧ u.myCtx.queues = s.myCtx.queues ∧ u.myCtx.flags = s.myCtx.flags
      (∃ u, exec (p.1 g d a b) s = .next (u.retire 4) ∧ becomes u)
      ∧ ∀ m : VMods, ∃ u, exec (p.2.1 g d a b m) s = .next (u.retire 8) ∧ becomes u)
    ∧ ∀ m : VMods,
      let first : Word := BitVec.ofNat 64 ((s.bitsSet a.toNat).headD s.vl)
      let n : Word := BitVec.ofNat 64 (s.bitsSet a.toNat).length
      (∃ t, exec (.kfirst g d a) s = .next t ∧ ScalarResult s t d first 0 4)
      ∧ (∃ t, exec (.kfirstLong g d a m) s = .next t ∧ ScalarResult s t d first 0 8)
      ∧ (∃ t, exec (.kpop g d a) s = .next t ∧ ScalarResult s t d n 0 4)
      ∧ ∃ t, exec (.kpopLong g d a m) s = .next t
        ∧ ScalarResult (s.modMe fun x => { x with vl := if m.imm.getLsbD 0 then n else x.vl }) t d n 0 8

/-- QPUSH, QPUSHU, QPUSHF, QPOPS, QPEEK, QSTAT and QCLOSE complete where the queue has the space or the entry that they need, and
change only that queue and their register; without it a push or pop waits, and a cluster that is not the queue's end, or a push to a
closed queue, takes the illegal-operand trap. (R36, R37, R262, R271, R272, R273) -/
def Obligations.ScalarQueues : Prop :=
  (∀ (s : State) (slot : Nat) (c : Cl) (g : Guard) (d : RegF) (q : BitVec 4), s.cur = .cluster slot c → s.guardTrue g = true →
      (∀ p ∈ [(Instr.qpush g d q, Fmt.i64), (.qpushu g d q, Fmt.u64), (.qpushf g d q, Fmt.fp64)], s.PushRoom q.toNat →
        ∃ u e, exec p.1 s = .next (u.retire 4)
          ∧ QueueBecomes s u q.toNat { s.queue q.toNat with entries := (s.queue q.toNat).entries ++ [e] }
          ∧ e.scal = true ∧ e.eos = false ∧ e.count = 1 ∧ e.strip.tag = { fmt := p.2, vsum := vsValid, blk := 0 }
          ∧ e.strip.code 0 = s.readS d ∧ e.present.get false 0 = true ∧ e.missing = [])
      ∧ (∀ e, s.popOk q.toNat = true → (s.queue q.toNat).ready = some e →
        (∃ t, exec (.qpeek g d q) s = .next t ∧ ScalarResult s t d e.desc 0 4)
        ∧ (e.scal = true ∨ e.count = 0 → ∃ u t, exec (.qpops g d q) s = .next t
            ∧ QueueBecomes s u q.toNat { s.queue q.toNat with entries := (s.queue q.toNat).entries.tail }
            ∧ ScalarResult u t d (if e.scal then e.strip.code 0 else 0) 0 4))
      ∧ ((s.queue q.toNat).nb ≠ 0 → ∃ t, exec (.qstat g d q) s = .next t ∧ ScalarResult s t d (s.queue q.toNat).status 0 4)
      ∧ (s.pushOk q.toNat = true → ∃ u, exec (.qclose g q) s = .next (u.retire 4)
          ∧ QueueBecomes s u q.toNat { s.queue q.toNat with closed := true }))
  ∧ (∀ (s : State) (slot : Nat) (c : Cl) (g : Guard) (d : RegF) (q : BitVec 4), s.cur = .cluster slot c → s.guardTrue g = true →
      (∀ i ∈ [Instr.qpush g d q, .qpushu g d q, .qpushf g d q],
        (s.pushOk q.toNat = true → (s.queue q.toNat).closed = false →
          (64 ≤ (s.queue q.toNat).entries.length ∨ (s.queue q.toNat).free = 0) →
          exec i s = .next (s.halt (.wait (.queueSpace q.toNat))))
        ∧ (s.pushOk q.toNat = false → exec i s = .next (s.halt (illegalOperand 0x01 q.toNat 4)))
        ∧ (s.pushOk q.toNat = true → (s.queue q.toNat).closed = true →
            exec i s = .next (s.halt (illegalOperand 0x02 q.toNat 4))))
      ∧ ∀ i ∈ [Instr.qpops g d q, .qpeek g d q],
        (s.popOk q.toNat = true → (s.queue q.toNat).ready = none → exec i s = .next (s.halt (.wait (.queueEntry q.toNat))))
        ∧ (s.popOk q.toNat = false → exec i s = .next (s.halt (illegalOperand 0x01 q.toNat 4))))

/-- SETVL sets VL to the smaller of its operand and VLMAX on both access and vector clusters, SETVCAP takes or returns register
banks, and VTAGR and VTAGW read and write a register's tag. (R113, R114, R264, R297, R299) -/
def Obligations.VectorConfiguration : Prop :=
  (∀ (s : State) (slot : Nat) (c : Cl) (g : Guard) (d a f : RegF), s.cur = .cluster slot c → s.guardTrue g = true →
      (let n : Word := BitVec.ofNat 64 (min (s.readS a).toNat (s.vlmax f))
       ∀ i ∈ [Instr.setvl g d a f, .setvlAccess g d a f],
        ∃ t, exec i s = .next t ∧ ScalarResult (s.modMe fun x => { x with vl := n }) t d n 0 4)
      ∧ (let t := (s.vreg a).tag
         ∃ u, exec (.vtagr g d a) s = .next u
          ∧ ScalarResult s u d (BitVec.ofNat 64 (t.blk.toNat * 2 ^ 8 + t.vsum.toNat * 2 ^ 5 + t.fmt.toNat)) 0 4)
      ∧ (let v := s.readS a
         let t : VTag := { fmt := v.extractLsb' 0 5, vsum := v.extractLsb' 5 3, blk := v.extractLsb' 8 2 }
         v.toNat < 2 ^ 10 → t.f.allocated = true → t.vsum ∈ [vsValid, vsZero, vsPoison] → t.blk ≠ 3 → t.blk = 0 ∨ t.f.isScaled = true →
         ∃ u, exec (.vtagw g d a) s = .next (u.retire 4) ∧ VregBecomes s u d (fun x => x.tag = t
          ∧ (t.f.isScaled = true → t.blk = 0 → ∀ k, x.scales.get 0x7F k = (s.vreg d).scales.get 0x7F k)
          ∧ (SMap.wf 0 (s.vreg d).elems = true → (∀ i, ((s.vreg d).code i).toNat < 2 ^ (s.vreg d).tag.f.width) →
              let w := t.f.width
              let w0 := (s.vreg d).tag.f.width
              ∀ p, (x.code (p / w)).getLsbD (p % w) = ((s.vreg d).code (p / w0)).getLsbD (p % w0)))))
  ∧ (∀ (s : State) (slot : Nat) (g : Guard) (d n : RegF), s.cur = .cluster slot .V → s.guardTrue g = true →
      SMap.wf VReg.initial s.myCtx.vregs = true → SMap.wf [] s.myCtx.masks = true →
      let lanes := s.laneCount slot
      let may (c : Nat) : Prop := c ≤ n.toNat ∧ c - s.myCtx.vcap ≤ (s.cacheBanks slot).length - 4
      ∃ c u t, exec (.setvcap g d n) s = .next t ∧ ScalarResult u t d (BitVec.ofNat 64 c) 0 4
        ∧ c ∈ [1, 2, 4, 8] ∧ (c = 1 ∨ may c) ∧ (∀ b ∈ [2, 4, 8], c < b → ¬may b)
        ∧ (c = s.myCtx.vcap → u = s)
        ∧ (c ≠ s.myCtx.vcap → u.myCtx.vcap = c ∧ u.vl = min s.vl (vlmaxOf 4 c lanes)
            ∧ (∀ r : RegF, (u.vreg r).tag = (s.vreg r).tag ∧ ∀ i, (u.vreg r).code i =
                if i < vlmaxOf (s.vreg r).tag.f.width c lanes then (s.vreg r).code i else 0)
            ∧ (∀ k i, u.maskBit k i = if i < vlmaxOf 4 c lanes then s.maskBit k i else false)
            ∧ (∀ a, u.byteAt a = s.byteAt a) ∧ (∀ k, k ≠ slot → u.ctx k = s.ctx k)
            ∧ ∀ b, u.bank (spindleOf slot) b ≠ s.bank (spindleOf slot) b →
                (s.bank (spindleOf slot) b = .cache ∧ u.bank (spindleOf slot) b = .vreg (slot % 2))
                ∨ (s.bank (spindleOf slot) b = .vreg (slot % 2) ∧ u.bank (spindleOf slot) b = .cache)))

/-- CBTLD replaces the context's Codebook Table by 1,024 bytes of memory as a whole, where its lines are clean, and QPOPV moves the
head entry of a queue into a vector register, sets VL to its COUNT and pops it. (R61, R298, R300) -/
def Obligations.CodebooksAndVectorPops : Prop :=
  (∀ (s : State) (slot : Nat) (g : Guard) (a : RegF) (vs : List Nat), s.cur = .cluster slot .V → s.guardTrue g = true →
      (s.readS a).toNat % 1024 = 0 → vs.length = 8 → s.ReadsLines slot (s.readS a) vs →
      ∃ u w, exec (.cbtld g a) s = .next (u.retire 4) ∧ InContext s u ∧ u.myCtx = { s.myCtx with cbt := some w } ∧ w.length = 256
        ∧ ∀ k < 256, w.getD k 0 = BitVec.ofNat 32 (vs.getD (k / 32) 0 / 2 ^ (32 * (k % 32))))
  ∧ (∀ (s : State) (slot : Nat) (g : Guard) (d q : RegF) (e : QEntry), s.cur = .cluster slot .V → s.guardTrue g = true →
      s.popOk q.toNat = true → (s.queue q.toNat).ready = some e → e.scal = false → e.count ≤ s.vlmax e.strip.tag.f →
      ∃ u, exec (.qpopv g d q) s = .next (u.retire 4) ∧ InContext s u ∧ u.vl = e.count
        ∧ u.myCtx = { s.myCtx with vregs := u.myCtx.vregs, queues := u.myCtx.queues, v := { s.myCtx.v with vl := BitVec.ofNat 64 e.count } }
        ∧ (∀ r, u.queue r = if r = q.toNat then (s.queue r).pop else s.queue r)
        ∧ (∀ r : RegF, r ≠ d ∨ e.count = 0 → u.vreg r = s.vreg r)
        ∧ (e.count ≠ 0 → (u.vreg d).tag.fmt = e.strip.tag.fmt ∧ (u.vreg d).tag.blk = e.strip.tag.blk
            ∧ (u.vreg d).tag.vsum = (if e.strip.tag.vsum = vsVacant then vsZero else e.strip.tag.vsum)
            ∧ (s.reelElem = 0 →
                ∀ i, (u.vreg d).code i = if i < e.count ∧ e.present.get false i = true then e.strip.code i else 0)))

/-- SBIND copies a descriptor that the rules accept, read from a clean line, to an empty queue of the stream unit and opens it; it
traps on another descriptor, and waits while the queue holds entries. SUNBIND removes the binding. (R275, R277, R279) -/
def Obligations.StreamBindings : Prop :=
  ∀ (s : State) (slot : Nat) (c : Cl) (g : Guard) (q a : RegF) (x : Xlate) (v : Nat), s.cur = .cluster slot c → s.guardTrue g = true →
    (s.queue q.toNat).nb ≠ 0 →
    ((s.queue q.toNat).prod = streamCode → (s.queue q.toNat).stream = none → s.Reads slot .read (s.readS a) 64 x v false →
      s.Quiet slot x →
      (streamOk (leBytes 64 v) = false → exec (.sbind g q a) s = .next (s.halt (illegalOperand 0x10 q.toNat 4)))
      ∧ (streamOk (leBytes 64 v) = true → (s.queue q.toNat).entries ≠ [] ∨ (s.queue q.toNat).unplaced ≠ [] →
        exec (.sbind g q a) s = .next (s.halt (.wait (.bindEmpty q.toNat))))
      ∧ (streamOk (leBytes 64 v) = true → (s.queue q.toNat).entries = [] → (s.queue q.toNat).unplaced = [] →
        ∃ u, exec (.sbind g q a) s = .next (u.retire 4)
          ∧ QueueBecomes s u q.toNat { s.queue q.toNat with closed := false, stream := some (streamOf (leBytes 64 v)) }))
    ∧ ∃ u, exec (.sunbind g q) s = .next (u.retire 4) ∧ QueueBecomes s u q.toNat { s.queue q.toNat with stream := none }

/-- VLD and VLDX complete wherever every active element can be read, and give the destination the elements in the format of memory;
the scratchpad forms of VLD, VLDX, VST and VSTX move elements between the context's banks and a register. (R301, R302, R303) -/
def Obligations.VectorLoads : Prop :=
  (∀ (s : State) (slot : Nat) (g : Guard) (d a b : RegF), s.cur = .cluster slot .V → s.guardTrue g = true →
      GlobalLoad s slot (.vld g d a false) d a .short 4 []
      ∧ ∀ ls : Bool, GlobalLoad s slot (.vldx g d a b ls false) d a .short 4 [fieldB b .short]
        ∧ ∀ m : VMods, GlobalLoad s slot (.vldLong g d a false m) d a m 8 []
          ∧ GlobalLoad s slot (.vldxLong g d a b ls false m) d a m 8 [fieldB b m])
  ∧ (∀ (s : State) (slot : Nat) (g : Guard) (d a b : RegF), s.cur = .cluster slot .V → s.guardTrue g = true →
      ScratchLoad s (.vld g d a true) d a .short 4 [] false
      ∧ ScratchStore s slot (.vst g d a true) d a .short 4 [] false
      ∧ ∀ ls : Bool, ScratchLoad s (.vldx g d a b ls true) d a .short 4 [fieldB b .short] ls
        ∧ ScratchStore s slot (.vstx g d a b ls true) d a .short 4 [fieldB b .short] ls
        ∧ ∀ m : VMods, ScratchLoad s (.vldLong g d a true m) d a m 8 [] false
          ∧ ScratchStore s slot (.vstLong g d a true m) d a m 8 [] false
          ∧ ScratchLoad s (.vldxLong g d a b ls true m) d a m 8 [fieldB b m] ls
          ∧ ScratchStore s slot (.vstxLong g d a b ls true m) d a m 8 [fieldB b m] ls)

/-- VST and VSTX complete wherever every active element can be written, on pages that are not folded; memory holds each element of an
unscaled format that its page stores as it is at its place, and no byte changes outside the elements and the lines of a typed page.
(R304) -/
def Obligations.VectorStores : Prop :=
  ∀ (s : State) (slot : Nat) (g : Guard) (d a b : RegF), s.cur = .cluster slot .V → s.guardTrue g = true →
    GlobalStore s slot (.vst g d a false) d a .short 4 []
    ∧ ∀ ls : Bool, GlobalStore s slot (.vstx g d a b ls false) d a .short 4 [fieldB b .short]
      ∧ ∀ m : VMods, GlobalStore s slot (.vstLong g d a false m) d a m 8 []
        ∧ GlobalStore s slot (.vstxLong g d a b ls false m) d a m 8 [fieldB b m]

/-- Wherever their elements can be read or written, VLDQ, VLDSQ and VLDXQ push the elements read onto their queue, and VSTQ, VSTSQ and
VSTXQ pop an entry and store its elements. (R263, R265, R266, R267, R268, R269, R270) -/
def Obligations.QueueLoadsAndStores : Prop :=
  (∀ (s : State) (slot : Nat) (c : Cl) (g : Guard) (q a b : RegF), s.cur = .cluster slot c → s.guardTrue g = true →
      let n := s.me.vl.toNat
      (n = 0 → s.pushOk q.toNat = true → (s.queue q.toNat).closed = false →
        exec (.vldq g q a) s = .next (s.retire 4) ∧ exec (.vldsq g q a b) s = .next (s.retire 4))
      ∧ (n ≠ 0 →
        QueueLoad s slot (.vldq g q a) q.toNat [{ base := s.readS a, pl := .positions fun j => j, is := List.range n, off := 0 }] true n []
        ∧ QueueLoad s slot (.vldsq g q a b) q.toNat
          ((List.range n).map fun (j : Nat) => { base := s.readS a + BitVec.ofInt 64 (j * (s.readS b).toInt), pl := .stride 0, is := [0], off := j })
          false n [])
      ∧ ∀ e, s.popOk b.toNat = true → (s.queue b.toNat).ready = some e → e.scal = false → e.count ≠ 0 → e.strip.tag.f.isInt = true →
        QueueLoad s slot (.vldxq g q a b) q.toNat
          [{ base := s.readS a, pl := .indexed fun j => (e.strip.val j).toInt, is := e.places, off := 0 }] false e.count [b.toNat])
  ∧ (∀ (s : State) (slot : Nat) (c : Cl) (g : Guard) (q a b : RegF) (e : QEntry), s.cur = .cluster slot c → s.guardTrue g = true →
      s.popOk q.toNat = true → (s.queue q.toNat).ready = some e → e.scal = false →
      QueueStore s slot (.vstq g q a) (s.readS a) (.positions fun j => j) true e e.places (s.popped [q.toNat])
      ∧ QueueStore s slot (.vstsq g q a b) (s.readS a) (.stride (s.readS b).toInt) false e e.places (s.popped [q.toNat])
      ∧ ∀ x, s.popOk b.toNat = true → (if q = b then (s.queue q.toNat).pop.ready else (s.queue b.toNat).ready) = some x →
        x.scal = false → x.count = e.count → e.count = 0 ∨ x.strip.tag.f.isInt = true →
        QueueStore s slot (.vstxq g q a b) (s.readS a) (.indexed fun j => (x.strip.val j).toInt) false e
          (e.places.filter fun j => x.present.get false j)
          (fun r => let y := s.popped [q.toNat] r; if r = b.toNat then y.pop else y))

/-- MCLAIM, MREL, MZERO, MRANK, MTR and MDENSE change only their name and the slots that it holds, as the rules say. (R319, R320,
R321, R322, R325, R326, R327, R337) -/
def Obligations.MatrixNames : Prop :=
  (∀ (s : State) (slot : Nat) (g : Guard) (d n : RegF), s.cur = .cluster slot .M → s.guardTrue g = true →
      let becomes (u : State) (t : Tile) : Prop := InContext s u ∧ u.myCtx = { s.myCtx with tiles := u.myCtx.tiles }
        ∧ ∀ m, u.tile m = if m = d then t else s.tile m
      let claimed (elas : Bool) (held : List Nat) : Tile :=
        { kind := .factor, elas := elas, ncl := n.toNat, rank := 0, fmt := 0, held := held, elems := [], scales := [] }
      ((s.tile d).kind = .unbound →
        (n.toNat ≤ s.myCtx.freeSlots.length →
          ∃ u, exec (.mclaim g d n) s = .next (u.retire 4) ∧ becomes u (claimed false (s.myCtx.freeSlots.take n.toNat)))
        ∧ ∃ u, exec (.mclaimElastic g d n) s = .next (u.retire 4) ∧ becomes u (claimed true []))
      ∧ (∃ u, exec (.mrel g d) s = .next (u.retire 4) ∧ becomes u .unbound)
      ∧ ((s.tile d).kind ≠ .unbound → ∃ u, exec (.mzero g d) s = .next (u.retire 4)
          ∧ TileWritten s u d 0 (fun t => t.HoldsPair ([], [])))
      ∧ ∃ t, exec (.mrank g d n) s = .next t ∧ ScalarResult s t d (s.tile n).desc 0 4)
  ∧ (∀ (s : State) (slot : Nat) (g : Guard) (d a : RegF), s.cur = .cluster slot .M → s.guardTrue g = true →
      let t := s.tile a
      (t.kind = .factor → s.Room d (pairNeed t.rank) → t.rank ≤ s.myCtx.rkcap.toNat →
        ∃ u, exec (.mtr g d a) s = .next (u.retire 4)
          ∧ TileWritten s u d (pairNeed t.rank) (fun r => r.HoldsPair (t.pair.2, t.pair.1)))
      ∧ (t.kind = .dense → t.fmt ≠ Fmt.vq2 → s.Room d (denseNeed t.fmt) → ∃ u, exec (.mtr g d a) s = .next (u.retire 4)
          ∧ TileWritten s u d (denseNeed t.fmt) (fun r => r.HoldsDense t.fmt fun k =>
              if Fmt.isScaled t.fmt = false ∧ k < 4096 then some (t.strip.code (64 * (k % 64) + k / 64)) else none))
      ∧ (t.kind = .factor → s.Room d 4 → ∃ u, exec (.mdense g d a) s = .next (u.retire 4)
          ∧ TileWritten s u d 4 (fun r => r.HoldsDense Fmt.fp32 fun k =>
              if k < 4096 then some ((dot (t.pair.1.row (k / 64)) (t.pair.2.row (k % 64))).go.1.setWidth 64) else none))
      ∧ (t.kind = .dense → s.Room d (denseNeed t.fmt) → ∃ u, exec (.mdense g d a) s = .next (u.retire 4)
          ∧ TileWritten s u d (denseNeed t.fmt) (fun r => (r.HoldsDense t.fmt fun k => some (t.strip.code k)) ∧ r.scales = t.scales)))

/-- MLMUL, MLADD and MLRC complete on names of the kinds and ranks that they accept and write the pair that the rules give. (R101,
R102, R104, R335, R336) -/
def Obligations.LowRankOperations : Prop :=
  ∀ (s : State) (slot : Nat) (g : Guard) (d a b rc re : RegF), s.cur = .cluster slot .M → s.guardTrue g = true →
    let x := s.tile a
    let y := s.tile b
    (x.kind = .factor → y.kind = .factor →
      (min x.rank y.rank ≤ s.myCtx.rkcap.toNat → s.Room d (pairNeed (min x.rank y.rank)) →
        ∃ u, exec (.mlmul g d a b) s = .next (u.retire 4) ∧ TileWritten s u d (pairNeed (min x.rank y.rank))
          (fun t => t.HoldsPair (mlmulPair x.pair.1 x.pair.2 y.pair.1 y.pair.2).go.1))
      ∧ ∀ mode : BitVec 2,
        let p := (mladdPair ((s.readS rc).setWidth 32) ((s.readS re).setWidth 32) x.pair.1 x.pair.2 y.pair.1 y.pair.2).go.1
        (x.rank + y.rank ≤ s.myCtx.rkcap.toNat → s.Room d (pairNeed (x.rank + y.rank)) →
          ∃ u, exec (.mladd g d a b rc re mode) s = .next (u.retire 8)
            ∧ TileWritten s u d (pairNeed (x.rank + y.rank)) (fun t => t.HoldsPair p))
        ∧ (mode = 1 → s.myCtx.rkcap.toNat < x.rank + y.rank → s.Room d 4 →
          ∃ u, exec (.mladd g d a b rc re mode) s = .next (u.retire 8)
            ∧ TileWritten s u d 4 (fun t => t.HoldsDense Fmt.fp32 fun k =>
                if k < 4096 then some ((dot (p.1.row (k / 64)) (p.2.row (k % 64))).go.1.setWidth 64) else none)))
    ∧ (x.kind ≠ .unbound →
        let q := (x.asPair s.myCtx.codebook).go.1
        let p := (mlrcPair (s.myCtx.tol.getLsbD 32) (s.myCtx.tol.extractLsb' 0 32) s.myCtx.rkcap.toNat q.1 q.2).go.1
        s.Room d (pairNeed p.1.length) → ∃ u, exec (.mlrc g d a) s = .next (u.retire 4)
          ∧ TileWritten s u d (pairNeed p.1.length) (fun t => t.HoldsPair p))

/-- MMA and MSLD complete on operands of the kinds that they accept; the accumulator takes the product of the rule, and nothing
else changes. (R90, R332, R333, R334) -/
def Obligations.MatrixProducts : Prop :=
  ∀ (s : State) (slot : Nat) (g : Guard) (d a b : RegF), s.cur = .cluster slot .M → s.guardTrue g = true →
    let x := s.tile a
    let y := s.tile b
    let cb := s.myCtx.codebook
    let e := s.lookup x.fmt y.fmt
    let takes (k : AccKind) : Prop := (s.acc d).kind = .free ∨ (s.acc d).kind = k
    let old (n : Nat) : BitVec 32 := (s.acc d).words.get 0 n
    (x.kind = .dense → y.kind = .dense → ∀ k, e.act ≠ .forbidden → accKind e.cf = some k → takes k →
      (∃ u, exec (.mma g d a b) s = .next (u.retire 4) ∧ AccWritten s u d k fun n =>
        accWord k e.cf (old n) ((List.range 64).map fun q => (x.val cb (n / 64 * 64 + q), y.val cb (64 * q + n % 64))))
      ∧ ∀ n : BitVec 6, ∃ u, exec (.msld g d a b n) s = .next (u.retire 8) ∧ AccWritten s u d k fun m =>
        accWord k e.cf (old m) ((List.range n.toNat).map fun q => (x.val cb (m / 64 * 64 + q), y.val cb (m % 64 + q))))
    ∧ (x.kind ≠ .unbound → y.kind ≠ .unbound → x.kind = .factor ∨ y.kind = .factor → takes .fp32 →
      (∀ t ∈ [x, y], t.kind = .dense → (s.lookup t.fmt t.fmt).act ≠ .forbidden ∧ accKind (s.lookup t.fmt t.fmt).cf = some .fp32) →
      let o := (rankOperands cb x y).go.1
      ∃ u, exec (.mma g d a b) s = .next (u.retire 4)
        ∧ if o.1 = 0 then InContext s u ∧ u.myCtx = { s.myCtx with flags := u.myCtx.flags }
          else AccWritten s u d .fp32 fun n =>
            accWord .fp32 0 (old n) ((List.range o.1).map fun q => (o.2.1 (n / 64) q, o.2.2 q (n % 64))))

/-- AZERO makes an accumulator FREE, and ACVT converts one into a tile or row by row into a queue that has the space; they change
only what the rules name. (R338, R339, R340) -/
def Obligations.Accumulators : Prop :=
  ∀ (s : State) (slot : Nat) (g : Guard) (d a : RegF) (f : RegF) (blk : BitVec 2) (rm : BitVec 3),
    s.cur = .cluster slot .M → s.guardTrue g = true →
    let code (k : Nat) : Option Word :=
      if Fmt.isScaled f = false ∧ rm ≠ 4 ∧ k < 4096 then some (encodeUnder f (Rm.ofCode rm.toNat) 0x7F ((s.acc a).val k)).1 else none
    let w := Fmt.width f
    (∃ u, exec (.azero g d) s = .next (u.retire 4) ∧ AccWritten s u d .free (fun _ => 0) ∧ u.myCtx.flags = s.myCtx.flags)
    ∧ (f ≠ Fmt.vq2 → s.Room d (denseNeed f) → ∃ u efc, exec (.acvt g d a f blk rm false) s =
          .next ((u.modMe fun x => { x with efc := efc }).retire 8)
        ∧ (rm ≠ 4 → efc = s.me.efc) ∧ TileWritten s u d (denseNeed f) (fun t => t.HoldsDense f code))
    ∧ let i := (s.me.start.get 0 0).toNat
      let q := d.toNat
      (f ≠ Fmt.vq2 → 2 ^ blk.toNat * 256 ≤ 64 * w → s.pushOk q = true → (s.queue q).closed = false → (s.queue q).unplaced = [] →
        (s.queue q).entries.length + (64 - i) ≤ 64 → (64 - i) * ((64 * w + 2047) / 2048) ≤ (s.queue q).free →
        ∃ u es, exec (.acvt g d a f blk rm true) s = .next (u.retire 8) ∧ InContext s u
          ∧ (∃ st efc, u.myCtx = { s.myCtx with queues := u.myCtx.queues, flags := u.myCtx.flags
                                                m := { s.myCtx.m with start := st, efc := efc } } ∧ (rm ≠ 4 → efc = s.me.efc))
          ∧ (∀ r, u.queue r = if r = q then { s.queue q with entries := (s.queue q).entries ++ es } else s.queue r)
          ∧ es.length = 64 - i
          ∧ ∀ (j : Nat) (e : QEntry), es[j]? = some e → e.scal = false ∧ e.count = 64
              ∧ e.strip.tag = { fmt := f, vsum := vsValid, blk := blk }
              ∧ ∀ k < 64, e.present.get false k = true ∧ ∀ c, code (64 * (i + j) + k) = some c → e.strip.code k = c)

/-- MLD, dense and sparse, and ALD complete wherever every row can be read and no element is POISON, and give the tile or the
accumulator the rows: a tile the format of its first element, an index of a VQ2 row its eight weights, a sparse tile the places that
its metadata names, an accumulator the values of its kind. That a row of another tile's format begins in a VQ2 line as eight indices
is the model's reading (log entry 65). (R328, R329, R339) -/
def Obligations.MatrixLoads : Prop :=
  ∀ (s : State) (slot : Nat) (g : Guard) (d a b rc : RegF) (xs : List Xlate) (p : Nat × Got) (gs : List (Nat × Got)) (t : State),
    s.cur = .cluster slot .M → s.guardTrue g = true → (∀ q ∈ p :: gs, q.2.poison = false) →
    let rows (n : Nat → Nat) : List Machine.Row := tileRows (s.readS a) (s.readS b) n
    let f : Fmt := p.2.fmt
    let cb := s.myCtx.codebook
    let vq := s.vq2Rows slot (s.readS a) (s.readS b)
    (∀ i ∈ [(Instr.mld g d a b, 4), (.mldSparse g d a b rc 0, 8)], s.GathersRows slot (rows (rowReads vq)) true xs (p :: gs) t →
      s.Room d (denseNeed f) → (∀ q ∈ p :: gs, q.2.fmt ≠ Fmt.none) →
      (f = Fmt.vq2 → recoded f (tileSize f) (fun k => (tileElems vq f (p :: gs) k).map Prod.fst) = false) →
      ∃ u, exec i.1 s = .next (u.retire i.2) ∧ TileWritten t u d (denseNeed f) (fun x => x.HoldsRows cb f vq (p :: gs)))
    ∧ (∀ (mode : BitVec 2) (ms : List Nat), let wide := mode == 2
      mode ≠ 0 → s.GathersRows slot (rows fun _ => 32) true xs (p :: gs) t →
      t.ReadsMeta slot (s.readS rc) (if wide then 16 else 8) ms → badMeta wide ms = none → s.Room d (denseNeed f) →
      (∀ q ∈ p :: gs, q.2.fmt ≠ Fmt.none ∧ q.2.fmt ≠ Fmt.vq2) →
      ∃ u, exec (.mldSparse g d a b rc mode) s = .next (u.retire 8) ∧ TileWritten t u d (denseNeed f) (fun x =>
        x.kind = .dense ∧ x.rank = 0 ∧ x.fmt = f ∧ (Fmt.isScaled f = false → ∀ i < 64, ∀ j < 64,
          match sparseSource wide (ms.getD i 0) j with
          | none => x.strip.code (64 * i + j) = 0
          | some k => ∀ e, (64 * i + k, e) ∈ p :: gs → x.strip.code (64 * i + j) = loadedCode f e)))
    ∧ (s.GathersRows slot (rows (rowReads vq)) true xs (p :: gs) t →
      (∀ q ∈ p :: gs, q.2.fmt ≠ Fmt.none ∧ Fmt.isReal q.2.fmt = Fmt.isReal f) →
      ∃ u word, exec (.ald g d a b) s = .next (u.retire 4)
        ∧ AccWritten t u d (if Fmt.isReal f then .fp32 else .i32) word
        ∧ (Fmt.isReal f = true → ∀ i < 64, ∀ j e, (64 * i + j, e) ∈ p :: gs →
            if vq.getD i false = true then e.fmt = Fmt.vq2 → j < 8 → ∀ w < 8, word (64 * i + (8 * j + w)) = (rn (weightOf cb e w)).1
            else j < 64 → word (64 * i + j) = (rn (decodeElem e.fmt e.code e.scale)).1)
        ∧ (Fmt.isReal f = false → (∀ i < 64, vq.getD i false = false) → ∀ k e, (k, e) ∈ p :: gs →
            word k = BitVec.ofInt 32 (decodeElem e.fmt e.code 0x7F).toInt))

/-- MLDF, MSTF, MST and AST complete wherever every column or row can be read or written, and move the columns of a pair or the rows
of a tile or accumulator. (R330, R331, R339) -/
def Obligations.PairLoadsAndStores : Prop :=
  ∀ (s : State) (slot : Nat) (g : Guard) (d a b : RegF), s.cur = .cluster slot .M → s.guardTrue g = true →
    (∀ xs gs t, let n := (s.readS b).toNat
      let vq : Bool := n != 0
        && s.headFmt slot ((List.range (n / 4 + 1)).map fun i => s.readS a + BitVec.ofNat 64 (128 * i)) == some Fmt.vq2
      n ≤ 64 → n ≤ s.myCtx.rkcap.toNat → s.Room d (pairNeed n) →
      s.Gathers slot (s.readS a) (.positions fun j => j) true (List.range (if vq then 16 * n else 128 * n)) xs gs t →
      (∀ q ∈ gs, q.2.poison = false ∧ Fmt.isReal q.2.fmt = true) →
      ∃ u, exec (.mldf g d a b) s = .next (u.retire 4) ∧ TileWritten t u d (pairNeed n) (fun x =>
        x.kind = .factor ∧ x.rank = n ∧ ∀ k e, (k, e) ∈ gs →
          if vq then e.fmt = Fmt.vq2 → ∀ w < 8, x.elems.get 0 (8 * k + w) = (rn (weightOf s.myCtx.codebook e w)).1.setWidth 64
          else x.elems.get 0 k = (rn (decodeElem e.fmt e.code e.scale)).1.setWidth 64))
    ∧ (∀ sps xs, let t := s.tile d
      let els := (List.range (128 * t.rank)).map fun k => (k, ({ tag := ⟨Fmt.fp32, vsValid, 0⟩, elems := t.elems, scales := [] } : Strip).selem k)
      t.kind = .factor → t.rank ≤ (s.readS b).toNat → s.myCtx.provisional = false →
      s.Scatters slot (s.readS a) (.positions fun j => j) true Fmt.fp32 els sps xs →
      ∃ u, exec (.mstf g d a b) s = .next (u.retire 4) ∧ StoreFrame s u s.queue ∧ MemoryAfterScatter s u Fmt.fp32 els sps xs)
    ∧ ((s.tile d).kind = .dense → StripStore s slot (.mst g d a b) (s.readS a) (s.readS b) (s.tile d).strip)
    ∧ StripStore s slot (.ast g d a b) (s.readS a) (s.readS b)
        { tag := { fmt := if (s.acc d).kind = .i32 then Fmt.i32 else Fmt.fp32, vsum := vsValid, blk := 0 }
          elems := (s.acc d).words.map fun p => (p.1, p.2.setWidth 64), scales := [] }

/-- Where their parcels can be fetched, REEL and REELX capture a legal body and its trip count, skip it when the count is 0 or the
guard false, and trap on a body that the rule bars; a legal convoy issues its members. (R228, R229, R230, R231, R317, R408) -/
def Obligations.ReelsAndConvoys : Prop :=
  ∀ (s : State) (slot : Nat) (g : Guard), s.cur = .cluster slot .V →
    (∀ (long : Bool) (n : BitVec 6) (a b : RegF) (body : List Parcel),
      let i := if long then Instr.reelx g n a b else .reel g n a
      let len := if long then 8 else 4
      body.length = n.toNat + 1 → s.ReadsParcels slot (s.me.pc + BitVec.ofNat 64 len) body →
      (bodyFault (body.length + 1) 0 body = none →
        (s.guardTrue g = true → s.readS a ≠ 0 → exec i s = .next (s.modMe fun x => { x.retire len with
            reel := some { rpc := s.me.pc, long := long, body := body, pos := 0, trips := s.readS a
                           elem := if long then s.readS b else 0 } }))
        ∧ (s.guardTrue g = false ∨ s.readS a = 0 → exec i s = .next (s.retire (len + 4 * body.length))))
      ∧ ∀ off r, bodyFault (body.length + 1) 0 body = some (off, r) →
          exec i s = .next (s.halt (.trap 0x0003 s.me.pc (at_ 16 off ||| at_ 23 r))))
    ∧ ∀ (n2 u0 u1 u2 u3 u4 u5 : BitVec 3) (ms : List (Parcel × Parcel)),
      let us := [u0, u1, u2, u3, u4, u5]
      let n := n2.toNat + 2
      n ≤ 6 → unitsFault n us = none → ms.length = n →
      (∀ j < n, s.Packet slot (1 + 2 * j) (ms.getD j (0, 0)).1 ∧ s.Packet slot (2 + 2 * j) (ms.getD j (0, 0)).2
        ∧ memberFault (us.getD j 0) (ms.getD j (0, 0)) = none) →
      ∃ t, exec (.convoy n2 u0 u1 u2 u3 u4 u5) s = .next t ∧ t = s.modMe (fun x => x.issueConvoy ms)
        ∧ (s.me.atConvoy = false → t.me.convoy = some { members := ms, next := 0 } ∧ t.me.pc = s.me.pc ∧ t.me.s = s.me.s)

/-- COPY and COPYT with legal operands append a command to a queue that has room and clear its bits; CWAIT, CTEST and CCLR wait for,
count and clear bits; QFENCE appends its mark to the queues that it names, where they have room. (R151, R280, R282, R284, R285, R286) -/
def Obligations.CopyCommands : Prop :=
  (∀ (s : State) (slot : Nat) (c : Cl) (g : Guard) (len dst src sx sv sh : RegF) (cq : BitVec 2) (cb scope : BitVec 3) (dsp ssp : Bool),
      s.cur = .cluster slot c → s.guardTrue g = true →
      let sig := if sx = 0 then none else some (s.readS sx, s.readS sv)
      CopyIssued s (.copy g len dst src cq cb scope sx sv dsp ssp) cq cb scope
        { dst := s.readS dst, src := s.readS src, len := (s.readS len).toNat, rows := 1, sstr := 0, dstr := 0, dsp := dsp, ssp := ssp
          signal := sig }
      ∧ CopyIssued s (.copyt g len dst src cq cb scope sx sv sh dsp ssp) cq cb scope
        { dst := s.readS dst, src := s.readS src, len := (s.readS len).toNat, rows := ((s.readS sh).extractLsb' 0 16).toNat
          sstr := ((s.readS sh).extractLsb' 16 24).toInt, dstr := ((s.readS sh).extractLsb' 40 24).toInt, dsp := dsp, ssp := ssp
          signal := sig })
  ∧ (∀ (s : State) (slot : Nat) (c : Cl) (g : Guard) (cb d a b : RegF) (k : BitVec 3), s.cur = .cluster slot c → s.guardTrue g = true →
      let is := List.range' (s.readS a).toNat (s.readS b).toNat
      ((s.readS a).toNat + (s.readS b).toNat ≤ 4096 →
        ((∀ i ∈ is, s.cbBit cb.toNat i = true) → exec (.cwait g cb a b) s = .next (s.retire 4))
        ∧ ((∃ i ∈ is, s.cbBit cb.toNat i = false) → exec (.cwait g cb a b) s = .next (s.halt (.wait .chunks)))
        ∧ (∃ t, exec (.ctest g d a b k) s = .next t
            ∧ ScalarResult s t d (BitVec.ofNat 64 (is.filter fun i => s.cbBit k.toNat i).length) 0 8)
        ∧ ∃ u, exec (.cclr g cb a b) s = .next (u.retire 4) ∧ CopyFrame s u ∧ u.myCtx.cq = s.myCtx.cq
          ∧ ∀ m i, u.cbBit m i = if m = cb.toNat ∧ i ∈ is then false else s.cbBit m i)
      ∧ ∀ (cqs : BitVec 4) (qs : BitVec 16), (∀ k < 4, cqs.getLsbD k = true → (s.myCtx.copyQueue k).length < 32) →
        ∃ (u : State) (o : BitVec 16), exec (.qfence g cqs qs) s = .next (u.retire 8) ∧ u = { s with ctxs := u.ctxs, fenceNo := s.fenceNo + 1 }
          ∧ (∀ k, k ≠ slot → u.ctx k = s.ctx k)
          ∧ u.myCtx = { s.myCtx with cq := u.myCtx.cq
                                     fences := s.myCtx.fences ++ [{ id := s.fenceNo, cqs := cqs, qs := qs, owed := o }] }
          ∧ (∀ k, u.myCtx.copyQueue k = if k < 4 ∧ cqs.getLsbD k = true then s.myCtx.copyQueue k ++ [.fence s.fenceNo]
              else s.myCtx.copyQueue k)
          ∧ ∀ q < 16, o.getLsbD q = (qs.getLsbD q && (s.queue q).stream.any fun y => y.flt))

/-- TAGRD reads the tag of a line that its context may read; TAGSET gives a typed page's line a tag that the rules accept and leaves
every byte of memory, where the line can be written and the page is not folded; PFL2 changes nothing that a read returns. (R287,
R288, R289) -/
def Obligations.LineTags : Prop :=
  ∀ (s : State) (slot : Nat) (c : Cl) (g : Guard) (d a b : RegF) (x : Xlate), s.cur = .cluster slot c → s.guardTrue g = true →
    (s.Admits slot .tagRead (s.readS a) true x →
      let u := s.accessed slot (s.readS a) x
      ∃ t, exec (.tagrd g d a) s = .next t ∧ ScalarResult u t d
        (let m := if x.typed = true ∧ u.region x.pa ≠ .creel then (u.seenLine slot x).tag.norm x.par.w
           else LineTag.untyped x.par.expf
         (0 : BitVec 16) ++ m.sc ++ m.desc) 0 4)
    ∧ (let v := s.readS b
       let m : LineTag := { desc := v.extractLsb' 0 16, sc := v.extractLsb' 16 32 }
       tagOk v = true → s.Admits slot .tagWrite (s.readS a) true x → s.opened slot (s.readS a) = s → s.Quiet slot x →
       s.region x.pa ≠ .creel → s.region x.pa ≠ .host → x.typed = true → x.entry.folded = false →
       (s.seenLine slot x).tag.cls x.typed x.par.w ≠ .transit → slotHolds m.fmt x.par.w = true → s.myCtx.provisional = false →
       ∃ t, exec (.tagset g a b) s = .next t ∧ OnlyCompleted s t 4 ∧ (∀ a, t.byteAt a = s.byteAt a)
         ∧ ∀ p, t.tagAt p = if p / 128 = x.pa / 128 then m.norm x.par.w else s.tagAt p)
    ∧ exec (.pfl2 g a b) s = .next (s.retire 4)

/-- CSRR reads each control register of the table. CSRW writes those that its cluster may write, a write of the others is ignored or
takes the illegal-operand trap as the table says, as does a value that the register's rule refuses, and a change of a bank's mode may
wait; nothing else changes. On a supervisor core CSRR reads the time, and a value that the spec does not give of the registers of a
context (log entry 14). (R111, R351, R352, R353, R354, R355, R356) -/
def Obligations.ControlRegisters : Prop :=
  (∀ (s : State) (slot : Nat) (c : Cl) (g : Guard) (d : RegF), s.cur = .cluster slot c → s.guardTrue g = true →
      let x := s.ctx slot
      let reads (n : Nat) (v : Word) : Prop := ∃ t, exec (.csrr g d (BitVec.ofNat 10 n)) s = .next t ∧ ScalarResult s t d v 0 4
      (∀ p ∈ [(0, x.flags.setWidth 64), (2, BitVec.ofNat 64 x.vcap), (4, x.tol.setWidth 64), (5, x.rkcap.setWidth 64),
          (6, x.latsel.setWidth 64), (7, x.pzr.setWidth 64), (8, BitVec.ofNat 64 (x.prio.toNat + 8 * x.aged.toNat)),
          (9, BitVec.ofNat 64 (x.mord.toNat + 2 ^ 8 * x.hord.toNat)), (10, BitVec.ofNat 64 s.timeNs),
          (11, BitVec.ofNat 64 (x.bankMode.toNat * 2 ^ 8 + x.bankNo.toNat + x.bankStat.toNat * 2 ^ 10))], reads p.1 p.2)
      ∧ reads 1 (if c = .A ∨ c = .V then (x.cl c).vl else 0) ∧ reads 3 (if c = .C then 0 else (x.cl c).efc.setWidth 64)
      ∧ (∃ v, reads 12 v ∧ ∀ b < 64, v.getLsbD b = (s.bank (spindleOf slot) b == .scratch (slot % 2)))
      ∧ (∃ v, reads 13 v ∧ ∀ b < 64, v.getLsbD b = (s.bank (spindleOf slot) b == .fifo (slot % 2)))
      ∧ (∀ j < 6, reads (16 + j) (x.wid.get 0 j))
      ∧ ∀ q < 16, let y := x.queue q
        reads (32 + q) (BitVec.ofNat 64 (y.prod.toNat + 2 ^ 3 * y.cons.toNat + 2 ^ 6 * y.first.toNat + 2 ^ 12 * y.nb.toNat)))
  ∧ (∀ (s : State) (slot : Nat) (c : Cl) (g : Guard) (a : RegF), s.cur = .cluster slot c → s.guardTrue g = true →
      let v := s.readS a
      let writes (n : Nat) (p : State → Prop) : Prop := ∃ u, exec (.csrw g a (BitVec.ofNat 10 n)) s = .next (u.retire 4) ∧ p u
      let bad : Answer := .next (s.halt (illegalOperand 0x0F v.toNat 1))
      writes 0 (fun u => ContextBecomes s u fun x => { x with flags := v.setWidth 10 })
      ∧ (c ≠ .C → writes 3 fun u => u = s.modMe fun x => { x with efc := v.setWidth 32 })
      ∧ writes 4 (fun u => ContextBecomes s u fun x => { x with tol := v.setWidth 33 })
      ∧ (if v.toNat % 128 ≤ 64 then writes 5 fun u => ContextBecomes s u fun x => { x with rkcap := v.setWidth 7 }
         else exec (.csrw g a 5) s = bad)
      ∧ writes 6 (fun u => ContextBecomes s u fun x => { x with latsel := v.setWidth 2 })
      ∧ (if v.toNat % 4 ≠ 3 then writes 7 fun u => ContextBecomes s u fun x => { x with pzr := v.setWidth 2 }
         else exec (.csrw g a 7) s = bad)
      ∧ (c = .C →
          (match s.bankOutcome slot (v.extractLsb' 0 6).toNat (v.extractLsb' 8 2).toNat with
            | some st => writes 11 fun u => BankConfigured s u slot v st
            | none => exec (.csrw g a 11) s = .next (s.halt (.wait .bank)))
          ∧ ∀ q < 16, (s.QcfgFits slot q v → writes (32 + q) fun u => QueueConfigured s u slot q v)
            ∧ (¬ s.QcfgFits slot q v → exec (.csrw g a (BitVec.ofNat 10 (32 + q))) s = bad))
      ∧ (c = .C → exec (.csrw g a 3) s = bad)
      ∧ (c ≠ .C → exec (.csrw g a 11) s = bad
          ∧ ∀ q < 16, exec (.csrw g a (BitVec.ofNat 10 (32 + q))) s = bad)
      ∧ ∀ n ∈ [1, 2, 8, 9, 10, 12, 13, 16, 17, 18, 19, 20, 21], exec (.csrw g a (BitVec.ofNat 10 n)) s = .next (s.retire 4))
  ∧ (∀ (s : State) (k : Nat) (g : Guard) (d : RegF), s.cur = .sup k → s.guardTrue g = true →
      (∃ t, exec (.csrr g d 10) s = .next t ∧ ScalarResult s t d (BitVec.ofNat 64 s.timeNs) 0 4)
      ∧ ∀ n, ∃ t v, exec (.csrr g d n) s = .next t ∧ ScalarResult s t d v 0 4)

/-- END makes the cluster idle, and with the last one the hank ending; YIELD marks the cluster until its next packet; CFORK starts
idle clusters at their program counters; FENCE and hints pass to the next packet. That FENCE adds no effect is the model's reading (log
entry 8). (R29, R30, R31, R239, R259, R345) -/
def Obligations.ClusterControl : Prop :=
  (∀ (s : State) (slot : Nat) (c : Cl) (g : Guard), s.cur = .cluster slot c → s.guardTrue g = true →
      let x := s.ctx slot
      ((∀ j, j ≠ c → ∀ y, (x.cl j).atRdv = some y → names y.1 c = false) →
        ∃ t, exec (.end_ g) s = .next t ∧ ClustersBecome { s with hanks := t.hanks } t slot (fun j => if j = c then s.me.idled else x.cl j)
          ∧ ((∃ j, j ≠ c ∧ (x.cl j).run ≠ .idle) → t.hanks = s.hanks)
          ∧ ((∀ j, j ≠ c → (x.cl j).run = .idle) → ∀ h, s.hankAt slot = some h → h.state = .running →
              (t.hankAt slot).map Hank.state = some .ending))
      ∧ exec (.yield g) s = .next ((s.retire 4).modMe fun y => { y with yielded := true })
      ∧ (∀ p, exec (.hint p) s = .next (s.retire 4)) ∧ (∀ p w, exec (.hintLong p w) s = .next (s.retire 8))
      ∧ ∀ (mask : BitVec 4) (a b d : RegF),
        let fork (i : Instr) (len : Nat) (rs : List RegF) : Prop :=
          let ts := (Cl.all.filter fun j => mask.getLsbD j.maskBit).zip (rs.map s.readS)
          s.me.started = 0 → (∀ p ∈ ts, p.1 ≠ c ∧ (x.cl p.1).run = .idle ∧ p.2.toNat % 4 = 0) →
          ∃ t, exec i s = .next t ∧ ClustersBecome s t slot fun j => match ts.find? fun p => p.1 == j with
            | some p => (x.cl j).startAt p.2
            | none => if j = c then s.me.retire len else x.cl j
        fork (.cfork g mask a b) 4 [a, b] ∧ fork (.cforkLong g mask a b d) 8 [a, b, d])
  ∧ (∀ (s : State) (g : Guard) (sc : BitVec 3), s.guardTrue g = true → exec (.fence g sc) s = .next (s.retire 4))

/-- BAR counts its generation once and passes when every member of the skein has reached it, and waits otherwise; RDV completes when
every cluster of its set stands at the same set and tag, and waits while one has still to come; the completion events and the retest of
SIGWAIT release the waiters. (R32, R47, R345, R346) -/
def Obligations.BarriersAndRendezvous : Prop :=
  ∀ (s : State) (slot : Nat),
    (∀ (c : Cl) (g : Guard), s.cur = .cluster slot c → s.guardTrue g = true →
      let x := s.ctx slot
      (let n := match s.me.wait with
          | some (.bar k) => k
          | _ => if s.me.firstEffect then x.barCount else x.barCount + 1
       let t := (s.modMyCtx fun y => { y with barCount := max x.barCount n }).modMe fun y => { y with firstEffect := true }
       exec (.bar g) s = .next (if t.barReached slot n then t.retire 4 else t.halt (.wait (.bar n))))
      ∧ ∀ mask tag : BitVec 4, names mask c = true → (∀ j, j ≠ c → names mask j = false → (x.cl j).atRdv = none) →
        ((∀ j, j ≠ c → names mask j = true → (x.cl j).atRdv = some (mask, tag) ∧ (x.cl j).run ≠ .idle) →
          ∃ t, exec (.rdv g mask tag) s = .next t ∧ ClustersBecome s t slot fun j => if names mask j then (x.cl j).retire 4 else x.cl j)
        ∧ ((∀ j, j ≠ c → names mask j = true → (x.cl j).run ≠ .idle ∧ ((x.cl j).atRdv = none ∨ (x.cl j).atRdv = some (mask, tag))) →
            (∃ j, j ≠ c ∧ names mask j = true ∧ (x.cl j).atRdv = none) →
            exec (.rdv g mask tag) s = .next (s.halt (.wait (.rdv mask tag)))))
    ∧ (s.mayIssue slot = true →
      (∃ t, exec (.barrierComplete slot) s = .next t ∧ ClustersBecome s t slot fun j =>
        let y := (s.ctx slot).cl j
        match y.wait with
        | some (.bar n) => if s.barReached slot n then y.retire 4 else y
        | _ => y)
      ∧ ∃ t, exec (.rendezvousComplete slot) s = .next t ∧
        ((∀ y ∈ Cl.all.filterMap (fun j => ((s.ctx slot).cl j).atRdv), (s.ctx slot).rdvMet y = false) ∧ t = s
          ∨ ∃ y ∈ Cl.all.filterMap (fun j => ((s.ctx slot).cl j).atRdv), (s.ctx slot).rdvMet y = true ∧
            ClustersBecome s t slot fun j => if names y.1 j then ((s.ctx slot).cl j).retire 4 else (s.ctx slot).cl j))
    ∧ ∀ c : Cl, ∃ t, exec (.sigwaitRetest slot c) s = .next t ∧ ClustersBecome s t slot fun j =>
        let y := (s.ctx slot).cl j
        match y.wait with
        | some (.signal _) => if j = c ∧ y.run = .waiting then { y with run := .running } else y
        | _ => y

/-- Where their words can be read or written, SIGWAIT completes when its test holds and waits otherwise, and SIGSET and SHPOST store
and wake the waiters on the line; TASKQ posts a record in HBM4 to a launch queue, or answers why not; WID and GETTS read their values.
(R160, R199, R346, R347, R348, R349, R350, R355) -/
def Obligations.SignalsAndTasks : Prop :=
  ∀ (s : State) (slot : Nat) (c : Cl) (g : Guard) (d a b : RegF) (sc : BitVec 3) (x : Xlate), s.cur = .cluster slot c →
    s.guardTrue g = true →
    (∀ (cond : BitVec 2) (v : Nat) (z : Bool), s.Reads slot .read (s.readS a) 8 x v z →
      let w : Word := BitVec.ofNat 64 v
      let holds : Bool := [w == s.readS b, w != s.readS b, decide ((s.readS b).toNat ≤ w.toNat),
        decide (w.toNat < (s.readS b).toNat)].getD cond.toNat false
      let u := s.afterRead slot .read (s.readS a) x z
      (holds = true → exec (.sigwait g sc cond a b) s = .next (u.retire 4) ∧ u.me = s.me ∧ u.cur = s.cur
          ∧ (s.Quiet slot x → z = false → u = s))
      ∧ (holds = false → s.Quiet slot x → exec (.sigwait g sc cond a b) s = .next (s.halt (.wait (.signal x.pa)))))
    ∧ (s.myCtx.provisional = false → s.Writes slot .write (s.readS a) (leBytes 8 (s.readS b).toNat) x →
      ∃ u, exec (.sigset g sc a b) s = .next (u.retire 4) ∧ Signalled s u slot (s.readS a) x (leBytes 8 (s.readS b).toNat))
    ∧ ((s.readS b).toNat < 2 ^ 32 → s.myCtx.provisional = false →
      s.Writes slot .write (s.readS a) (leBytes 8 (2 ^ 63 + (s.readS b).toNat)) x →
      ∃ u, exec (.shpost g sc a b) s = .next ((u.shapePosted x.pa (s.readS b).toNat).retire 4)
        ∧ Signalled s u slot (s.readS a) x (leBytes 8 (2 ^ 63 + (s.readS b).toNat)))
    ∧ ((s.readS a).toNat % 256 = 0 → (s.readS b).toNat < 64 → s.myCtx.provisional = false →
      s.access slot .read (s.readS a) true = .ok x → s.opened slot (s.readS a) = s → s.Quiet slot x → s.region x.pa = .hbm →
      let q := (s.readS b).toNat
      let i := s.lqTail q
      ∃ u t r, exec (.taskq g d a b) s = .next t ∧ ScalarResult u t d r 0 4
        ∧ if s.lqEnabled q = false then r = -2 ∧ u = s
          else if s.lqCount q = s.lqSize q then r = -1 ∧ u = s
          else r = BitVec.ofNat 64 i
            ∧ u = (s.physWrite slot (s.lqBase q + 8 * (i % s.lqSize q)) (leBytes 8 x.pa)).setLq q (i + 1) (s.lqHead q))
    ∧ (∀ j : BitVec 5, ∃ t, exec (.wid g d j) s = .next t ∧ ScalarResult s t d (s.myCtx.wid.get 0 j.toNat) 0 4)
    ∧ ∃ t, exec (.getts g d) s = .next t ∧ ScalarResult s t d (BitVec.ofNat 64 s.timeNs) 0 4

/-- A trap or fault of a cluster that has no store outstanding, and TRAP itself, leaves a class 1 or class 2 record of 64 bytes in the
event ring, where nothing holds its line back, with the restart PC and INFO of the rule, and the context may not issue; with SVVECn.EN
clear the context is terminated under cause 0x0401. (R357, R395, R401, R409, R410, R413) -/
def Obligations.EventsAreTaken : Prop :=
  ∀ (s : State) (slot : Nat) (c : Cl) (task : Nat) (wid : Word), s.cur = .cluster slot c → s.myCtx.hank = some (task, wid) →
    s.myCtx.event = none → s.region (s.eventSlot slot) = .hbm → (s.eventSlot slot) % 64 = 0 → s.Free (s.eventSlot slot) →
    (∀ j, ((s.ctx slot).cl j).stores = []) →
    let low : Nat := c.code + (s.me.convoy.elim 0 fun v => (v.next + 1) * 4) + (if s.me.reel.isSome then 32 else 0)
    let rec1 (cls : Nat) (cause : BitVec 32) (pc addr info : Word) : Rec :=
      { ts := s.timeNs, src := slot, cls := cls, cause := cause, task := task, hwid := wid, pc := pc, addr := addr, info := info }
    ((s.creel.svvec.get 0 (bobbinOf slot)).getLsbD 0 = true →
      (∀ cause addr info, EventTaken s (s.halt (.trap cause addr info)) slot c
        (rec1 1 cause s.me.pc addr (info ||| BitVec.ofNat 64 low)))
      ∧ (∀ cause addr info, EventTaken s (s.halt (.fault cause addr info)) slot c
        (rec1 2 cause s.me.pc addr (info ||| BitVec.ofNat 64 c.code)))
      ∧ ∀ (g : Guard) (code : BitVec 10), s.guardTrue g = true →
        ∃ t, exec (.trap g code) s = .next t ∧ EventTaken (s.retire 4) t slot c
          (rec1 1 (BitVec.ofNat 32 (0x8000 + code.toNat)) (s.me.retire 4).pc 0 (BitVec.ofNat 64 (s.retire 4).infoLow)))
    ∧ ((s.creel.svvec.get 0 (bobbinOf slot)).getLsbD 0 = false →
      (∀ cause addr info, s.halt (.trap cause addr info) =
        (s.modMe fun y => { y.leaveConvoy with run := .running, wait := none }).terminate slot
          (rec1 4 0x0401 s.me.pc addr (((info ||| BitVec.ofNat 64 low) &&& 0xFFFF) ||| (cause.setWidth 64 <<< 16))))
      ∧ ∀ cause addr info, s.halt (.fault cause addr info) =
        (s.modMe fun y => { y.leaveConvoy with run := .running, wait := none }).terminate slot
          (rec1 4 0x0401 s.me.pc addr (((info ||| BitVec.ofNat 64 c.code) &&& 0xFFFF) ||| (cause.setWidth 64 <<< 16))))

/-- A termination frees the slot and its banks, removes the hank and its held lines, fails the task and cancels its hanks not yet
bound, and withdraws the target from a core; a provisional hank holds the error back. (R211, R403, R209) -/
def Obligations.Termination : Prop :=
  ∀ (s : State) (slot task : Nat) (wid : Word) (h : Hank) (t : Task) (r : Rec),
    (s.ctx slot).hank = some (task, wid) → (s.ctx slot).dying = none → s.hankAt slot = some h → s.findTask task = some t →
    h.task = task → h.wid = wid → h.slot = some slot →
    ((s.ctx slot).provisional = true → (∀ e ∈ (s.ctx slot).held, ∀ q, e ≠ .fatal q) →
      s.terminate slot r = s.modCtx slot fun x => { x with held := x.held ++ [.fatal r] })
    ∧ ((s.ctx slot).provisional = false → (∀ p ∈ (s.ctx slot).cq, startedOnly p.2 = []) → t.failed = false →
      let u := s.terminate slot r
      u.ctx slot = .free ∧ (∀ x ∈ u.hanks, ¬ (x.task = task ∧ x.wid = wid))
        ∧ (∀ b < 64, (u.bank (spindleOf slot) b).ownedBy (slot % 2) = false)
        ∧ (∀ v, u.findTask task = some v → v.failed = true)
        ∧ (∀ n, (s.core n).target = some slot → (u.core n).withdrawn = true)
        ∧ (∀ b < 8, ∀ e ∈ u.plb.get [] b, ¬ (e.task = task ∧ e.wid = wid))
        ∧ ∀ x ∈ u.hanks, x.task = task → x.state ≠ .admitted ∧ x.state ≠ .reserved ∧ x.state ≠ .ready)

/-- SVRET, RSAVE, RREST, TLBI, LTLD and RECODE have the effects of their rules on operands that those accept, and without a target
the first three reset the core. TLBI is stated where no store is waiting to be performed. (R96, R358, R359, R360, R401) -/
def Obligations.SupervisorCores : Prop :=
  ∀ (s : State) (n : Nat) (g : Guard) (d a : RegF), s.cur = .sup n → s.guardTrue g = true →
    let x := s.core n
    let va := s.readS a
    let idle := s.setCore n SupCore.initial
    (x.target = none →
      (exec (.svret g) s = .next idle ∧ exec (.rsave g a) s = .next idle ∧ exec (.rrest g a) s = .next idle))
    ∧ (∀ k, x.target = some k →
      (x.withdrawn = true → exec (.svret g) s = .next idle
        ∧ (va.toNat % 16777216 = 0 → exec (.rsave g a) s = .next (s.retire 4) ∧ exec (.rrest g a) s = .next (s.retire 4)))
      ∧ (x.withdrawn = false →
        (∀ e, (s.ctx k).event = some e →
          (s.byteAt (x.record + 56) = 0 → e.source = .cluster → (s.ctx k).waiting = [] → (s.ctx k).allIdle = false →
            exec (.svret g) s = .next (idle.modCtx k fun y => { y with event := none }))
          ∧ (s.byteAt (x.record + 56) ≠ 0 →
            exec (.svret g) s = .next ((idle.modCtx k fun y => { y with event := none }).terminate k
              { e.record with ts := s.timeNs, cls := 4, cause := 0x0401
                              info := (e.record.info &&& 0xFFFF) ||| (e.record.cause.setWidth 64 <<< 16) })))
        ∧ (va.toNat % 16777216 = 0 →
          let base := s.homeOf va.toNat
          (s.supCheck .write va 8 = none → exec (.rsave g a) s =
            match s.frameWait base (s.frameSections k (s.ctx k).provisional) with
            | some w => .next (s.halt (.wait w))
            | none => .next ((if s.region va.toNat = .creel then s else s.saveFrame k base (s.ctx k).provisional).retire 4))
          ∧ (s.supCheck .read va 8 = none →
            let t := s.scrubFrame base
            let u := t.loadFrame k base (t.vregBanks k)
            t.frameFits k base = true → t.frameWait base (u.frameSections k false) = none →
            t.frameBad base (u.frameSections k false) = false →
            exec (.rrest g a) s = .next (u.retire 4)))))
    ∧ (s.NoStores →
       let drops (kind : BitVec 5) (x : TlbiScope) : Prop :=
        ∃ t : State, exec (.tlbi g a kind) s = .next (t.retire 4)
          ∧ t = { s with tlb := s.tlb.filter (fun e => !s.inScope x e), walkCache := t.walkCache, hanks := t.hanks }
          ∧ ∀ b, ∀ e ∈ t.walkCache.get [] b, x.hasWalk e = false
       drops 0 { asd := none, page := none } ∧ drops 2 { asd := some va.toNat, page := none }
        ∧ ∀ l, s.SupReads va 1 16 l → drops 1 { asd := some (natIn l 0 8), page := some (natIn l 8 8 / 65536) })
    ∧ (∀ (set : BitVec 2) (l : List Byte), va.toNat % 1024 = 0 → s.SupReads va 128 8 l → Lattice.setOk l = true →
      exec (.ltld g set a) s = .next (State.retire { s with lattice := s.lattice.set none set.toNat (some l) } 4))
    ∧ ∀ l, s.SupReads va 1 32 l → ∃ (u t : State) (r : Nat), exec (.recode g d a) s = .next t ∧ RecodeJudged s u l false r
        ∧ ScalarResult u t d (BitVec.ofNat 64 r) 0 4

/-- The events of ATS, page requests, walks, invalidations and host ownership install, drop or refuse translations and lines, and
wake the waiters on them; invalidations and ownership are stated where no store is waiting to be performed, the limit of a back
invalidation for one waiting cluster. That every bobbin holds an ATS result is the model's choice (log entry 24). (R423, R424, R425,
R426, R427, R458) -/
def Obligations.TranslationsAndPages : Prop :=
  ∀ (s : State) (pasid va : Nat), s.hostUp = true →
    let p := pageAt pasid va
    let r (sent : Bool) : PageReq := { pasid := pasid, va := va / 4096 * 4096, since := s.timeNs, granted := false, sent := sent }
    let atOnce := (s.pageReqs.filter fun q => q.sent && !q.granted).length
    let ours (q : PageReq) : Prop := q.pasid = pasid ∧ q.va / 4096 = va / 4096
    let dropped : State := { s with pageReqs := s.pageReqs.filter fun q => !(q.pasid == pasid && q.va / 4096 == va / 4096) }
    (∀ (e pa : Nat) (read write : Bool), 12 ≤ e → va % 2 ^ e = 0 → pa % 2 ^ e = 0 → (read = true ∨ write = true) →
      (pa + 2 ^ e ≤ 2 ^ 48 → ∃ (t : State) (d : Bool),
        let overlaps (f : TlbEntry) : Prop := f.ats = true ∧ f.pasid = pasid ∧ f.va < va + 2 ^ e ∧ va < f.va + f.size
        let entry (b : Nat) : TlbEntry :=
          { unit := .bobbin b, asd := 0, pasid := pasid, va := va, size := 2 ^ e, pa := 0x1000000000000 + pa, leaf := 0
            r := read, w := write, x := read, u := true, d := d, mig := false, pslot := 0, folded := false, ats := true, par := .raw }
        exec (.atsTranslationCompletion pasid va (2 ^ e) pa read write) s = .next t
          ∧ (∀ b < 8, entry b ∈ t.tlb) ∧ (∀ f ∈ t.tlb, (f ∈ s.tlb ∧ ¬ overlaps f) ∨ ∃ b < 8, f = entry b)
          ∧ t = { s with tlb := t.tlb, pageReqs := t.pageReqs, ctxs := t.ctxs } ∧ Woken s t (s.waitsIn pasid va (2 ^ e)))
      ∧ (2 ^ 48 < pa + 2 ^ e → exec (.atsTranslationCompletion pasid va (2 ^ e) pa read write) s =
          .next (s.denyPage { pasid := pasid, va := va, size := 2 ^ e } 0x0100)))
    ∧ (va % 4096 = 0 → (∀ q ∈ s.pageReqs, ¬ ours q) →
      let absent := exec (.atsTranslationCompletion pasid va 4096 0 false false) s
      (s.pageWaited p = false → absent = .next s)
      ∧ (s.pageWaited p = true → s.priEnable = true → s.priFailed = false →
          ((∀ q ∈ s.pageReqs, q.sent = true) → atOnce < 512 → absent = .next { s with pageReqs := s.pageReqs ++ [r true] })
          ∧ (512 ≤ atOnce → absent = .next { s with pageReqs := s.pageReqs ++ [r false] }))
      ∧ (s.pageWaited p = true → s.priEnable = false ∨ s.priFailed = true → absent = .next (s.denyPage p 0x0101)))
    ∧ ((∃ q ∈ s.pageReqs, ours q ∧ q.granted = false ∧ q.sent = true) →
      (s.pageWaited p = true → ∃ t : State, exec (.priResponse pasid va 0) s = .next t
          ∧ t = { s with pageReqs := t.pageReqs, ctxs := t.ctxs } ∧ (∀ q ∈ t.pageReqs, ours q → q.granted = true)
          ∧ Woken s t (s.waitsIn pasid (va / 4096 * 4096) 4096))
      ∧ (s.pageWaited p = false → exec (.priResponse pasid va 0) s = .next dropped.sendWaiting)
      ∧ exec (.priResponse pasid va 1) s = .next (dropped.sendWaiting.denyPage p 0x0110)
      ∧ exec (.priResponse pasid va 2) s = .next (State.denyPage { dropped with priFailed := true } p 0x0111)
      ∧ (s.creel.pricfg.toNat % 65536 = 0 → exec (.pageRequestTimeout pasid va) s = .next s)
      ∧ (0 < s.creel.pricfg.toNat % 65536 →
          (∃ q ∈ s.pageReqs, ours q ∧ q.granted = false ∧ q.sent = true
            ∧ q.since + s.creel.pricfg.toNat % 65536 * 1000000 ≤ s.timeNs) →
          exec (.pageRequestTimeout pasid va) s = .next (dropped.sendWaiting.denyPage p 0x0111)))
    ∧ (s.NoStores → ∀ size, ∃ t : State, exec (.atsInvalidate pasid va size) s = .next t ∧ t = { s with tlb := t.tlb, hanks := t.hanks }
        ∧ t.tlb = s.tlb.filter fun f => !(f.ats && f.pasid == pasid && decide (f.va < va + size) && decide (va < f.va + f.size)))
    ∧ (∀ (port : Nat) (on : Bool), port < 2 → s.linkUp port = true → exec (.priEnableWrite port on) s =
        .next (State.sendWaiting { s with priEnable := on, priFailed := s.priFailed && !(on && !s.priEnable) }))
    ∧ (∀ asd : Nat, (s.waiters (waitsMig asd va) = [] → exec (.pageWalk asd va) s = .next s)
        ∧ ∀ (slot : Nat) (c : Cl) (x : Xlate), s.waiters (waitsMig asd va) = [(slot, c)] →
            s.prewalk (unitOf slot) asd (BitVec.ofNat 64 va) = s →
            s.xlate (unitOf slot) asd (s.ctx slot).provisional .read (BitVec.ofNat 64 va) = .ok x →
            exec (.pageWalk asd va) s = .next ((s.useXlate x).modCtx slot fun y => y.modCl c Cluster.wake))
    ∧ (∀ line, s.NoStores → s.creel.ready = true → s.region (line * 128) = .hbm → s.physHeld (line * 128) = false → ∃ t : State,
        exec (.hostOwnership line) s = .next t
          ∧ t = { s with hostOwned := s.hostOwned.set false line true, l1 := t.l1, l2 := t.l2 }
          ∧ ∀ k x, (t.l1.get none k = some x ∨ t.l2.get none k = some x) → x.line ≠ line)
    ∧ (∀ line, s.hostOwned.get false line = true → (∀ w ∈ s.physWaits, w.2.1 / 128 ≠ line) →
        (∃ t : State, exec (.backInvalidationResponse line []) s = .next t
          ∧ t = { s with hostOwned := s.hostOwned.set false line false, snoops := s.snoops.set 0 line 0, ctxs := t.ctxs }
          ∧ Woken s t (waitsHost line))
        ∧ ∀ data : List Byte, data.length = 128 → s.region (line * 128) = .hbm → ∃ t : State,
            exec (.backInvalidationResponse line data) s = .next t ∧ t.hostOwned = s.hostOwned.set false line false
              ∧ ((s.blockAt (line * 128)).errors ≤ 19 → s.protectedAt (line * 128) = false → ∀ a, t.byteAt a =
                  if line * 128 ≤ a ∧ a < line * 128 + 128 then data.getD (a - line * 128) 0 else s.byteAt a)
              ∧ (s.protectedAt (line * 128) = true → ∀ a, t.byteAt a = s.byteAt a))
    ∧ ∀ line sent : Nat, (s.snoopOver line = false ∨ s.snoops.get 0 line ≠ sent + 1 →
          exec (.backInvalidationTimeout line sent) s = .next s)
        ∧ ∀ (slot : Nat) (c : Cl) (pa asd v kind : Nat), s.snoopOver line = true → s.snoops.get 0 line = sent + 1 →
          s.waiters (waitsHost line) = [(slot, c)] →
          ((s.ctx slot).cl c).wait = some (.host pa asd v kind) →
          (∀ q ∈ s.sup, ¬ (q.2.cl.run = .waiting ∧ waitsHost line q.2.cl.wait = true)) →
          let t := s.haltAt slot c (.fatal 0x0113 (BitVec.ofNat 64 v) (BitVec.ofNat 64 (kind * 2 ^ 16)))
          exec (.backInvalidationTimeout line sent) s = .next (State.denyEngines { t with snoops := t.snoops.set 0 line 0 } (.line line))

/-- Accesses of hosts and peers to HBM4 read and write its bytes by physical address, a peer's tagged blocks keep their tags, and while
READY is 0 reads give zeros; ports take posts and jobs, register writes reach only the registers that their writer may write, and
decryption jobs complete or are refused. That a POISON job record of EXPQ is malformed is the model's choice (log entry 62). (R360,
R375, R376, R377, R381, R382, R389, R390, R391, R437, R476) -/
def Obligations.HostsAndPeers : Prop :=
  ∀ (s : State),
    (∀ (port peer pa len : Nat) (data : List Byte),
      let host (write : Bool) := exec (.hostMemAccess ⟨port, pa⟩ len write data) s
      let ofPeer (write : Bool) (tags : List Byte) := exec (.peerAccess peer ⟨port, pa⟩ len write data tags) s
      let answered (isPeer : Bool) (d tags : List Byte) : Host.Outcome State Fault Refusal :=
        .next { s with answers := s.answers ++ [{ peer := isPeer, addr := pa, data := d, tags := tags, poison := false }] }
      let tagBytes (f : Nat → List Byte) : List Byte :=
        if pa % 128 = 0 ∧ len % 128 = 0 then (List.range (len / 128)).flatMap f else []
      (port < 2 → s.linkUp port = true →
        (s.creel.ready = true → s.Plain pa len → host false = answered false (s.bytesAt pa len) []
          ∧ (data.length = len → (∀ w ∈ s.physWaits, w.2.1 / 128 < pa / 128 ∨ pa + len ≤ w.2.1 / 128 * 128) →
              ∃ t, host true = .next t ∧ BytesBecome s t pa data))
        ∧ (s.creel.ready = false → 0 < len → pa + len ≤ 0x006000000000 →
            host false = answered false (List.replicate len 0) [] ∧ host true = .next s))
      ∧ (port < 16 → s.linkUp (32 + port) = true → peer < 512 →
        (s.creel.ready = true → s.Plain pa len → (∀ a, pa ≤ a → a < pa + len → s.ownedByHost a = false) →
          ofPeer false [] = answered true (s.bytesAt pa len) (tagBytes fun i =>
            leBytes 2 (s.tagAt (pa + 128 * i)).desc.toNat ++ leBytes 4 (s.tagAt (pa + 128 * i)).sc.toNat)
          ∧ (data.length = len → (∀ w ∈ s.physWaits, w.2.1 / 128 < pa / 128 ∨ pa + len ≤ w.2.1 / 128 * 128) →
              ∃ t, ofPeer true [] = .next t ∧ BytesBecome s t pa data)
          ∧ ∀ tags : List Byte, taggedOk pa len data tags = true → ∃ t, ofPeer true tags = .next t ∧ BytesBecome s t pa data
              ∧ ∀ p, t.tagAt p = if pa / 128 ≤ p / 128 ∧ p / 128 < (pa + len) / 128
                  then { desc := BitVec.ofNat 16 (natIn tags (6 * (p / 128 - pa / 128)) 2)
                         sc := BitVec.ofNat 32 (natIn tags (6 * (p / 128 - pa / 128) + 2) 4) }
                  else s.tagAt p)
        ∧ (s.creel.ready = false → 0 < len → pa + len ≤ 0x006000000000 →
            ofPeer false [] = answered true (List.replicate len 0) (tagBytes fun _ => List.replicate 6 0)
            ∧ ∀ tags, ofPeer true tags = .next s)))
    ∧ (∀ port < 2, s.linkUp port = true →
      (∀ n < 64, ∀ v : Word,
        let cnt := v.toNat % 65536
        (s.creel.ready = true → s.lqEnabled n = true → s.lqCount n + cnt ≤ s.lqSize n →
          exec (.lportPost port n v) s = .next (s.setLq n (s.lqTail n + cnt) (s.lqHead n)))
        ∧ (s.creel.ready = false ∨ s.lqEnabled n = false ∨ s.lqSize n < s.lqCount n + cnt →
          exec (.lportPost port n v) s = .next (s.modCreel fun c => { c with lperr := c.lperr ||| (1#64 <<< n) })))
      ∧ (∀ l : List Byte, l.length = 32 → ∃ u r, RecodeJudged s u l true r
          ∧ exec (.hostRecodePort port l) s = .next (u.modCreel fun c => { c with hrcstat := BitVec.ofNat 2 r }))
      ∧ (∀ l : List Byte, l.length = 64 →
          let answer (u : State) (r : BitVec 2) : Prop :=
            exec (.hostDecryptionPort port l) s = .next (u.modCreel fun c => { c with dcstat := r })
          (s.decryptBad l → answer s 2)
          ∧ (¬ s.decryptBad l → 16 ≤ s.decJobs.length → answer s 1)
          ∧ (¬ s.decryptBad l → s.decJobs.length < 16 → answer { s with decJobs := s.decJobs ++
              [{ src := natIn l 0 8, dst := natIn l 8 8, len := natIn l 16 4, key := natIn l 20 1, iv := (l.drop 24).take 12
                 tag := (l.drop 40).take 16, cmpl := natIn l 56 8 }] } 0))
      ∧ (∀ v : Word, exec (.registerWrite (.hostPort port) 0x4008 8 v) s =
            .next (s.modPort port fun p => { p with eqHead := v.setWidth 32 })
          ∧ exec (.registerWrite (.hostPort port) 0x1200 8 v) s = .next (s.modCreel fun c => { c with lperr := c.lperr &&& ~~~v })
          ∧ ∀ off size, size ≠ 8 → exec (.registerWrite (.hostPort port) off size v) s = .next s)
      ∧ ∀ v < 72, exec (.msixUnmask port v) s = .next (s.modPort port fun p =>
          if p.pending.get false v = true then { p with
            unmasked := p.unmasked.set false v true, sent := p.sent ++ [v], pending := p.pending.set false v false }
          else { p with unmasked := p.unmasked.set false v true }))
    ∧ (∀ v : Word,
      (∀ n < 8,
        let vec := exec (.registerWrite .distaff (0x10800 + 8 * n) 8 v) s
        let ring := exec (.registerWrite .distaff (0x10840 + 8 * n) 8 v) s
        (s.distaffRuns = true → vec = .next (s.modCreel fun c => { c with svvec := c.svvec.set 0 n (v &&& 0x000FFFFFFFFFFFFD) })
          ∧ ring = .next (s.modCreel fun c => { c with svring := c.svring.set 0 n (v &&& 0x000FFFFFFFFFE000) }))
        ∧ (s.distaffRuns = false → vec = .next s ∧ ring = .next s)
        ∧ ∀ k, exec (.registerWrite (.supervisor k) (0x10800 + 8 * n) 8 v) s = .next s
          ∧ exec (.registerWrite (.supervisor k) (0x10840 + 8 * n) 8 v) s = .next s)
      ∧ ∀ k < 32,
        let base := s.homeOf ((v.extractLsb' 6 46).toNat * 64)
        let l := s.bytesAt base 64
        let poison : Prop := s.physClass base 64 4 = true
        let answer (jobs : List ExpJob) (r : BitVec 2) : Prop :=
          exec (.expqSubmit k v) s = .next { s with expJobs := jobs, creel := { s.creel with expqStat := r } }
        s.CleanAt base → (exportBad l ∨ poison → answer s.expJobs 2)
        ∧ (¬ exportBad l → ¬ poison → 16 ≤ s.expJobs.length → answer s.expJobs 1)
        ∧ (¬ exportBad l → ¬ poison → s.expJobs.length < 16 → answer (s.expJobs ++
            [{ asd := natIn l 0 8, va := natIn l 8 8, dst := natIn l 16 8, pages := natIn l 24 4, tagged := (natIn l 28 1).testBit 0
               cmpl := natIn l 32 8 }]) 0))
    ∧ (∀ (j : DecJob) (js : List DecJob), s.decJobs = j :: js →
      (∀ p, s.plaintext j = some p → exec .decryptionJobComplete s = .next (State.message
        ((State.physWrite { s with decJobs := js } 0x500 j.dst p).setBytes (hostBase + j.cmpl) (leBytes 8 1 ++ leBytes 8 0)) 4))
      ∧ (s.plaintext j = none → exec .decryptionJobComplete s = .next (State.message
        (State.setBytes { s with decJobs := js } (hostBase + j.cmpl) (leBytes 8 2 ++ leBytes 8 0)) 4)))
    ∧ ∀ (n : Nat) (k : BitVec 256), n < 16 → s.creel.lcs = 1 →
        exec (.keySlotWrite n k) s = .next { s with keys := s.keys.set none n (some k) }

/-- A reset, a life-cycle change and a class 5 error leave the module as R389 says; links count replays, go down and train; the
Distaff restarts where it runs. That measurements and the firmware value are free is the model's choice (log entry 9), and so is the
cause of a class 5 error of a storage structure (log entry 68). (R389, R391, R404, R467, R468, R469, R473, R474) -/
def Obligations.ResetAndLinks : Prop :=
  ∀ (s : State),
    (∃ t, exec .moduleReset s = .next t ∧ ModuleReset s t fun _ => false)
    ∧ (∀ new : BitVec 2, (s.creel.lcs.toNat, new.toNat) ∈ [(0, 1), (0, 3), (1, 2), (1, 3), (2, 3)] →
      ∃ t, exec (.lifeCycleChange new) s = .next t ∧ ModuleReset (s.modCreel fun c => { c with lcs := new }) t fun _ => false)
    ∧ (∃ t u, exec .modulePowerOff s = .next t ∧ ModuleReset s u (fun _ => false)
      ∧ t = { u with powered := false, creel := { u.creel with ready := false } })
    ∧ (∀ src cause, (uncontainedOk src cause = true → ∃ t, exec (.uncontainedError src cause) s = .next t
          ∧ Uncontained s t src (BitVec.ofNat 32 cause))
        ∧ (uncontainedOk src cause = false → exec (.uncontainedError src cause) s = .next s))
    ∧ (∀ port, portNumber port = true →
      (∃ t : State, exec (.linkTrained port) s = .next t ∧ t = { s with creel := { s.creel with lnkUp := t.creel.lnkUp } }
        ∧ ∀ n, t.linkUp n = if n = port then true else s.linkUp n)
      ∧ (s.linkUp port = true →
        (∃ t : State, exec (.linkReplay port) s = .next t
          ∧ t = { s with replays := t.replays, creel := { s.creel with lnkRply := t.creel.lnkRply } }
          ∧ (∀ n, n ≠ port → t.creel.lnkRply.get 0 n = s.creel.lnkRply.get 0 n)
          ∧ (t.creel.lnkRply.get 0 port).toNat = min (2 ^ 32 - 1) ((s.creel.lnkRply.get 0 port).toNat + 1)
          ∧ t.replays.get (0, 0) port =
            (if s.timeNs < (s.replays.get (0, 0) port).2 + 1000000000
             then ((s.replays.get (0, 0) port).1 + 1, (s.replays.get (0, 0) port).2) else (1, s.timeNs)))
        ∧ (let down (inFlight : List Nat) (p : State → State → Prop) : Prop :=
            ∃ v u t, exec (.linkDown port inFlight) s = .next t ∧ v = { s with creel := { s.creel with lnkUp := v.creel.lnkUp } }
              ∧ (∀ n, v.linkUp n = if n = port then false else s.linkUp n)
              ∧ Reported v u (s.rec3 (0x640 + port) 0x0301 (port * 2 ^ 16)) ∧ p u t
           (2 ≤ port ∨ s.linkUp (1 - port) = true → down [] (fun u t => t = u)
             ∧ ∀ k, down [k] fun u t => t = u.terminate k (u.ctxRec k 4 0x0302 (u.ctx k).c.pc 0 0))
           ∧ (port < 2 → s.linkUp (1 - port) = false → down [] fun u t => Uncontained u t 0x640 0x0303)))
      ∧ (let lim := s.creel.lnkcfg.toNat % 65536
         lim ≠ 0 → lim < (s.replays.get (0, 0) port).1 → s.timeNs < (s.replays.get (0, 0) port).2 + 1000000000 →
          ∃ t, exec (.linkReplayThreshold port) s = .next t
            ∧ Reported { s with replays := s.replays.set (0, 0) port (0, s.timeNs) } t (s.rec3 (0x640 + port) 0x0300 (port * 2 ^ 16))))
    ∧ (let recent := (s.distaffRestarts.filter fun t => decide (s.timeNs < t + 1000000000)) ++ [s.timeNs]
       let s1 : State := { s with keys := [], distaffRestarts := recent, distaffServed := s.timeNs }
       (s.distaffRuns = false → exec .distaffRestart s = .next s)
       ∧ (s.distaffRuns = true → recent.length < 3 → ∃ t, exec .distaffRestart s = .next t ∧ Reported s1 t (s.rec3 0x632 0x0340 0))
       ∧ (s.distaffRuns = true → 3 ≤ recent.length → ∃ u t, exec .distaffRestart s = .next t
          ∧ Reported s1 u (s.rec3 0x632 0x0340 0) ∧ Uncontained u t 0x632 0x0341))
    ∧ (s.distaffServed + 10000000 ≤ s.timeNs → exec .distaffWatchdog s = exec .distaffRestart s)
    ∧ (s.timeNs < s.distaffServed + 10000000 → exec .distaffWatchdog s = .next s)
    ∧ ∀ port < 2, s.linkUp port = true → ∀ nonce : Word, ∃ fw, exec (.spdmMeasurementRequest port nonce) s =
        .next (s.modPort port fun p => { p with reports := p.reports ++
          [{ nonce := nonce, firmware := fw, fuses := s.fuses, lcs := s.creel.lcs }] })

/-- The performance state follows the request and the forced limit, samples of power and temperature force and release limits with
their records and messages, and bobbins park, are abandoned and unpark; a park is stated of a bobbin whose hanks hold no lines. (R383,
R384, R385, R387, R470, R471, R472) -/
def Obligations.PowerTemperatureAndParking : Prop :=
  (∀ (s : State),
      (∀ req : BitVec 3,
        let aim := lowerState req s.creel.flim
        exec (.pstateRequest req) s = .next { s with creel :=
          if s.creel.pstateBusy = false ∧ aim ≠ s.creel.pstateCur
          then { s.creel with pstateReq := req, pstateBusy := true, pstateTgt := aim } else { s.creel with pstateReq := req } })
      ∧ (s.creel.pstateBusy = true →
        let aim := lowerState s.creel.pstateReq s.creel.flim
        exec .pstateTransitionDone s = .next { s with creel :=
          { s.creel with pstateCur := s.creel.pstateTgt, pstateBusy := aim != s.creel.pstateTgt, pstateTgt := aim } })
      ∧ (∀ v : Word,
        let cap := v.toNat % 512
        let s1 : State := { s with creel := { s.creel with pwrCapErr := s.creel.pwrCapErr && !v.getLsbD 16 } }
        (cap < 60 ∨ 360 < cap → exec (.pwrcapWrite v) s = .next { s with creel := { s.creel with pwrCapErr := true } })
        ∧ (60 ≤ cap → cap ≤ 360 → cap = s.creel.pwrCap.toNat → exec (.pwrcapWrite v) s = .next s1)
        ∧ (60 ≤ cap → cap ≤ 360 → cap ≠ s.creel.pwrCap.toNat → ∃ t, exec (.pwrcapWrite v) s = .next t
            ∧ MessageRaised { s1 with creel := { s1.creel with pwrCap := BitVec.ofNat 9 cap } } t 1))
      ∧ (∀ avg10us avg1ms : Nat,
        let ceiling := 5 * s.creel.pwrCap.toNat
        let s1 : State := { s with creel := { s.creel with pwrMeas := BitVec.ofNat 16 avg1ms } }
        (110 * ceiling < 100 * avg10us → s.overshoot = false → ∃ u t, exec (.powerSample avg10us avg1ms) s = .next t
            ∧ Reported { s1 with overshoot := true } u (s.rec3 0x631 0x0310 0) ∧ LimitApplied u t)
        ∧ (100 * avg10us ≤ 110 * ceiling → s.overshoot = false ∨ ceiling < avg1ms → exec (.powerSample avg10us avg1ms) s = .next s1)
        ∧ (100 * avg10us ≤ 110 * ceiling → s.overshoot = true → avg1ms ≤ ceiling →
            ∃ t, exec (.powerSample avg10us avg1ms) s = .next t ∧ LimitApplied { s1 with overshoot := false } t))
      ∧ (∃ t, exec .powerTrip s = .next t ∧ Uncontained s t 0x631 0x0311)
      ∧ (∀ temp, 115 < temp → ∃ t, exec (.thermalTrip temp) s = .next t ∧ Uncontained s t 0x631 0x0321)
      ∧ (∀ d < 8, ∀ temp : Nat, ∃ t, exec (.thermalLimit d temp) s = .next t ∧ t.dieTemps.get 0 d = temp
        ∧ (∀ e, e ≠ d → t.dieTemps.get 0 e = s.dieTemps.get 0 e)
        ∧ t.dieLim = (if 105 < temp ∧ s.dieLim = 0 then 1 else s.dieLim))
      ∧ (105 < s.hottest → s.dieLim ≠ 0 → s.dieLim ≠ 7 → s.limitSince + 100000 ≤ s.timeNs →
        ∃ t, exec .thermalStepDown s = .next t ∧ LimitApplied { s with dieLim := s.dieLim + 1, limitSince := s.timeNs } t)
      ∧ (s.hottest < 100 → s.dieLim ≠ 0 → s.coolSince + 1000000 ≤ s.timeNs → s.limitSince + 1000000 ≤ s.timeNs →
        ∃ t, exec .thermalStepUp s = .next t ∧ LimitApplied { s with dieLim := s.dieLim - 1, limitSince := s.timeNs } t)
      ∧ ∀ k < 8, ∀ temp : Nat,
        let hot := decide (85 < temp) || (decide (82 ≤ temp) && s.creel.hbmHot.get false k)
        let s1 : State := { s with creel := { s.creel with
          hbmTemp := s.creel.hbmTemp.set 0 k (BitVec.ofNat 8 (min temp 255)), hbmHot := s.creel.hbmHot.set false k hot } }
        let sampled (u : State) : Prop := if hot = s.creel.hbmHot.get false k then u = s1 else MessageRaised s1 u 1
        (∃ u, exec (.hbmTempHot k temp) s = .next u ∧ sampled u)
        ∧ (90 ≤ temp → ∃ u, exec (.hbmStackCooled k temp) s = .next u ∧ sampled u)
        ∧ (temp < 90 → ∃ u t, exec (.hbmStackCooled k temp) s = .next t ∧ sampled u
            ∧ LimitApplied { u with hotStacks := u.hotStacks.filter (· != k) } t))
  ∧ (∀ (s : State) (b : Nat), b < 8 →
      let bit : Byte := 1#8 <<< b
      let c := s.creel
      (c.bobfail = 0 → (∀ k < 8, k ≠ b → c.parkBusy.getLsbD k = true ∨ c.parkReq.getLsbD k = c.parked.getLsbD k) →
        (c.parkBusy.getLsbD b = false → c.parked.getLsbD b = false → exec (.bobbinPark b) s =
          .next { s with creel := { c with parkReq := c.parkReq ||| bit, parkBusy := c.parkBusy ||| bit }
                         parkSince := s.parkSince.set none b none })
        ∧ (c.parkBusy.getLsbD b = false → c.parked.getLsbD b = true → exec (.bobbinUnpark b) s =
          .next { s with creel := { c with parkReq := c.parkReq &&& ~~~bit, parkBusy := c.parkBusy ||| bit }
                         parkSince := s.parkSince.set none b none }))
      ∧ (s.parkEmpty b = true →
        (s.plb.get [] b = [] → c.parkReq.getLsbD b = true → (s.parkSince.get none b).all (fun t => decide (s.timeNs ≤ t + 1000000)) = true →
          ∃ u t : State, exec (.parkComplete b) s = .next t
            ∧ u = { s with tlb := s.tlb.filter (fun e => e.unit.bob != b), l1 := u.l1, l2 := u.l2, walkCache := u.walkCache }
            ∧ u.walkCache.get [] b = [] ∧ (∀ k x, u.l1.get none k = some x → l1Bobbin k ≠ b)
            ∧ (∀ k x, u.l2.get none k = some x → l2Bobbin k ≠ b)
            ∧ MessageRaised { u with
                plb := s.plb.set [] b [], creel := { c with parked := c.parked ||| bit, parkBusy := c.parkBusy &&& ~~~bit } } t 2)
        ∧ (s.parkSince.get none b = none → exec (.parkAbandon b) s = .next { s with parkSince := s.parkSince.set none b (some s.timeNs) })
        ∧ ∀ t0, s.parkSince.get none b = some t0 → t0 + 1000000 < s.timeNs →
          ∃ t, exec (.parkAbandon b) s = .next t ∧ Reported { s with
            creel := { c with parkReq := c.parkReq &&& ~~~bit, parkBusy := c.parkBusy &&& ~~~bit } } t (s.rec3 0x631 0x0330 (b * 2 ^ 16)))
      ∧ (c.parkBusy.getLsbD b = true → c.parked.getLsbD b = true →
        (c.parkReq.getLsbD b = false → ∃ t, exec (.unparkComplete b true) s = .next t ∧ MessageRaised { s with
            creel := { c with parkBusy := c.parkBusy &&& ~~~bit, parked := c.parked &&& ~~~bit } } t 2)
        ∧ ∃ u t, exec (.unparkComplete b false) s = .next t ∧ Reported { s with
            creel := { c with parkBusy := c.parkBusy &&& ~~~bit, bobfail := c.bobfail ||| bit, parkReq := c.parkReq ||| bit } } u
            (s.rec3 0x631 0x0331 (b * 2 ^ 16)) ∧ MessageRaised u t 2))

/-- The Task Front takes the next entry of a queue, refuses its record, or accepts one without regions and shape descriptors; it tests
wait conditions, times shapes out, clears the predictor, admits hanks in turn, and acts on a learnt shape. The order of taking and
the TLB by way of which it reads are the model's choices (log entries 17 and 59). (R160, R162, R168, R171, R172, R174, R201, R210,
R440, R443) -/
def Obligations.TaskFront : Prop :=
  ∀ (s : State),
    (∀ q < 64,
      let n := (s.queueTasks q).length
      let a := s.lqBase q + 8 * ((s.lqHead q + n) % s.lqSize q)
      let e := s.natAt a 8
      let l := s.bytesAt e 256
      let b := taskOf l
      let front (cause : BitVec 32) (task : Nat) (info : Word) : Rec :=
        { ts := s.timeNs, src := 0x0630, cls := 4, cause := cause, task := task, hwid := 0, pc := 0, addr := 0, info := info }
      s.creel.ready = true → s.lqEnabled q = true → n < s.lqCount q → s.mayTake q = true →
      s.CleanAt a → s.physHeldRange a 8 = false → s.physBad a 8 = false →
      (e % 256 ≠ 0 → ∃ u, exec (.taskTake q) s = .next (u.passEntry e q (taskOf [])) ∧ Reported s u (front 0x0405 e 0))
      ∧ (e % 256 = 0 → s.region e ≠ .hbm →
          ∃ u, exec (.taskTake q) s = .next (u.passEntry e q (taskOf [])) ∧ Reported s u (front 0x0405 e 0x10000))
      ∧ (e % 256 = 0 → s.region e = .hbm → (s.blockAt e).errors = 0 → s.physHeldRange e 256 = false → s.physBad e 256 = false →
          (∀ w ∈ s.physWaits, w.2.1 / 128 ≠ e / 128) → s.findTask e = none →
          (b.asd % 64 = 0 → s.CleanAt b.asd ∧ s.physHeldRange b.asd 64 = false) →
        let faults := headerFaults l b ++ seedFaults b ++ waitFaults l ++ shapeFaults l b
        (faults = [] → s.asdOk b.asd = true → (wsetOf l).2 = 0 → b.shape 0 = none → b.shape 1 = none →
          ∃ t, exec (.taskTake q) s = .next t ∧ t.tasks = s.tasks ++ [Task.taken e q s.timeNs { b with regions := [] }]
            ∧ BytesStored s t (e + 3) [1] ∧ t.hanks = s.hanks ∧ t.creel = s.creel)
        ∧ (∀ o, o ∈ faults → o < 64 → (∀ p ∈ faults, o ≤ p) → ∃ u v w : State, exec (.taskTake q) s = .next (w.passEntry e q b)
            ∧ BytesStored s u (e + 3) [4] ∧ u.ports = s.ports ∧ Reported u v (front 0x0400 e (BitVec.ofNat 64 (o * 2 ^ 16)))
            ∧ MessageRaised v w (8 + q)))
      ∧ ∀ (u : State) (x : TaskRec), (∀ t ∈ u.tasks, t.queue ≠ q) → (∀ t ∈ u.tasks, t.done = true → t.passed = false) →
          let v := u.passEntry e q x
          v.lqHead q = (u.lqHead q + 1) % 2 ^ 22 ∧ v.lqTail q = u.lqTail q ∧ v.tasks = u.tasks ∧ v.hanks = u.hanks)
    ∧ (∀ (pa k : Nat) (t : Task) (w : WaitCond), s.findTask pa = some t → t.body.waits[k]? = some w → t.met.get false k = false →
        t.failed = false → t.done = false →
        let read := agentRead (asdLoad (.bobbin 0) t.body.asd false (BitVec.ofNat 64 w.va) 8) s
        (∀ v u, read = .value v u →
          let x : Word := BitVec.ofNat 64 v
          let holds : Bool := [true, x == w.v, x != w.v, decide (w.v.toNat ≤ x.toNat), decide (x.toNat < w.v.toNat),
            decide (w.v.toInt ≤ x.toInt), decide (x.toInt < w.v.toInt)].getD w.op false
          exec (.waitConditionRecheck pa k) s =
            .next (if holds = true then u.modTask pa fun t => { t with met := t.met.set false k true } else u))
        ∧ (∀ x u, read = .wait x u → exec (.waitConditionRecheck pa k) s = .next (s.agentHolds (.bobbin 0) x))
        ∧ ∀ c f y u, read = .cause c f y u → ∃ v, exec (.waitConditionRecheck pa k) s = .next (v.failTask pa)
            ∧ Reported u v { ts := u.timeNs, src := 0x0630, cls := 4, cause := 0x0212, task := pa, hwid := 0, pc := 0
                             addr := BitVec.ofNat 64 w.va, info := BitVec.ofNat 64 (k * 2 ^ 16 + c.toNat % 65536 * 2 ^ 32) })
    ∧ (∀ (pa d : Nat) (t : Task) (x : Shape), s.findTask pa = some t → t.body.shape d = some x → t.learntOf d = none →
        t.failed = false → t.done = false → s.creel.spcfg.toNat % 65536 ≠ 0 →
        t.takenAt + s.creel.spcfg.toNat % 65536 * 1000000 ≤ s.timeNs →
        ∃ u, exec (.shapeTimeout pa d) s = .next (u.failTask pa)
          ∧ Reported s u { ts := s.timeNs, src := 0x0630, cls := 4, cause := 0x0211, task := pa, hwid := 0, pc := 0
                           addr := BitVec.ofNat 64 x.va, info := BitVec.ofNat 64 (d * 2 ^ 16) })
    ∧ (∀ (w : Writer) (v : Word), (∀ p, w ≠ .hostPort p) →
        let acts : Prop := v.getLsbD 0 = true ∧ (w = .distaff → s.distaffRuns = true)
        (¬ acts → exec (.predctlClr w v) s = .next s)
        ∧ (acts → ∃ t : State, exec (.predctlClr w v) s = .next t ∧ t = { s with predictor := t.predictor }
            ∧ ∀ i, (t.predictor.get .initial i).h0 = [] ∧ (t.predictor.get .initial i).h1 = []))
    ∧ (∀ (q h b : Nat) (t : Task), s.turnQueue = some (q, t, h, b) → s.creel.ready = true →
        let n := max 1 t.body.skeinSize
        ∃ u, exec (.hankAdmit t.pa) s = .next u ∧ u.admitNo = s.admitNo + n
          ∧ u.hanks = s.hanks ++ (List.range n).map fun i => t.hankAt (s.lqClass t.queue) b (s.admitNo + i) (h / n * n + i))
    ∧ ∀ (pa d : Nat) (t : Task), s.findTask pa = some t → t.toAct.get false d = true →
        let due (h : Hank) : Bool := t.confirms h && !t.trims d h
        ∃ u, exec (.shapeLearn pa d) s = .next u ∧ (∀ h ∈ u.hanks, h.task = pa → t.trims d h = false)
          ∧ let acted : Prop := (∀ v, u.findTask pa = some v → v.toAct.get false d = false)
              ∧ ∀ h ∈ u.hanks, h.task = pa → t.firm h.ord = true → h.prov = false
            ((∃ h ∈ u.hanks, due h = true) ∨ acted) ∧ (s.hanks.filter due = [] → acted)
              ∧ ∀ h, s.hanks.filter due = [h] → s.confirmWait h = none → acted

/-- A staging copy lands its next line, begins the move of a page to HBM4 or takes a line of it further; a staged hank becomes READY,
a slot is reserved and a READY hank without a skein is dispatched with its initial registers, and an ended hank leaves its slot and
banks. That PROMOTE moves whole pages by lines is the model's choice (log entry 45). (R29, R40, R177, R178, R179, R180, R182, R183,
R209) -/
def Obligations.StagingAndDispatch : Prop :=
  ∀ (s : State) (task : Nat) (wid : Word) (h : Hank) (t : Task), s.findHank task wid = some h → s.findTask task = some t →
    (∀ (i : Nat) (r : Region), t.body.regions[i]? = some r → s.stageRequest h r i = true →
      (∀ k ∈ s.stageRequests h.bobbin, ¬ k < h.stageKey r i) →
      (s.regionMove t h r i = none →
        (∀ v u, s.stageRead t h r i = .value v u →
          (u.promotable t h r i = none → ∃ w, exec (.stagingCopy task wid i 1) s = .next w ∧ w = u.stageLand h r i v
            ∧ (w.findHank task wid).map (fun x => x.landed.get 0 i) = some (h.stageNext r i + 1))
          ∧ ∀ x, u.promotable t h r i = some x → exec (.stagingCopy task wid i 1) s = .next (u.beginMove h x))
        ∧ (∀ c f a u, s.stageRead t h r i = .cause c f a u → exec (.stagingCopy task wid i 1) s = .next (u.stageFails h r i c f a))
        ∧ ∀ x u, s.stageRead t h r i = .wait x u → exec (.stagingCopy task wid i 1) s = .next (s.agentHolds (.bobbin h.bobbin) x))
      ∧ ∀ m, s.regionMove t h r i = some m → exec (.stagingCopy task wid i 1) s = .next (s.moveLine (some h.bobbin) m))
    ∧ ((h.state = .admitted ∨ h.state = .reserved) → h.staged t.body.regions = true →
        exec (.stagingLanded task wid) s = .next (s.modHank task wid fun x => { x with state := .ready }))
    ∧ (∀ b, ∃ u : State, exec (.stagingWindow b) s = .next u ∧ u = { s with staging := u.staging }
        ∧ ∀ c, (u.staging.get .initial c).shared = (s.staging.get .initial c).shared
          ∧ (u.staging.get .initial c).moved = if c = b then 0 else (s.staging.get .initial c).moved)
    ∧ (∀ k, h.state = .admitted → s.unparked h.bobbin = true → (∃ r ∈ t.body.regions, r.tgt = 1) →
        s.pickSlot h.bobbin t.body.demand = some k →
        let l := s.cacheBanks k
        ∃ u, exec (.slotReserve task wid) s = .next u
          ∧ u.ctx k = { Ctx.free with hank := some (h.task, h.wid), asd := t.body.asd, tosq := t.body.tosq, provisional := h.prov }
          ∧ u.findHank task wid = some { h with state := .reserved, slot := some k }
          ∧ ∀ b < 64, u.bank (spindleOf k) b =
              if b ∈ (l.drop t.body.nscr).take t.body.nfifo then .fifo (k % 2)
              else if b ∈ l.take t.body.nscr then .scratch (k % 2) else s.bank (spindleOf k) b)
    ∧ (∀ k, h.state = .ready → s.skeinOf h = [h] → h.slot = some k → (s.ctx k).hank = some (task, wid) → h.stageFault = none → t.body.cbtp = 0 →
        s.unparked h.bobbin = true → s.inOrder t h = true → (h.claim = true ∨ s.outbid h.bobbin [h] h.cls none = false) →
        (∃ c : Cl, t.body.entry.get 0 c.code ≠ 0) →
        ∃ u, exec (.hankDispatch task wid) s = .next u ∧ u.dispNo = s.dispNo + 1
          ∧ u.findHank task wid = some { h with state := .running, resumedAt := s.timeNs, dispSeq := s.dispNo, claim := false }
          ∧ u.ctx k = (s.ctx k).dispatched t.body h
          ∧ ∀ c : Cl, let y := (u.ctx k).cl c
            let e := t.body.entry.get 0 c.code
            y.run = (if e = 0 then .idle else .running) ∧ y.pc = (if e = 0 then 0 else t.body.code + BitVec.ofNat 64 e)
              ∧ (∀ r, y.readS r = if r = 1 then t.body.param else if r = 2 then h.wid else 0) ∧ y.wait = none ∧ y.reel = none)
    ∧ ∀ slot, s.hankAt slot = some h → h.state = .ending → (s.ctx slot).provisional = false → (s.ctx slot).event = none →
        (s.ctx slot).waiting = [] → (s.ctx slot).dying = none → (∀ p ∈ (s.ctx slot).cq, p.2 = []) →
        ∃ u, exec (.hankEnd slot) s = .next u ∧ u.ctx slot = .free ∧ (∀ x ∈ u.hanks, ¬ (x.task = h.task ∧ x.wid = h.wid))
          ∧ ∀ b < 64, (u.bank (spindleOf slot) b).ownedBy (slot % 2) = false

/-- Victims go to SAVING with a frame each, a completed save leaves the slot free and the hank SUSPENDED with its frame, a waiting
hank ages, and a suspended hank without a skein resumes in the bobbin chosen for it. That the save's completion counts as the moment
of pre-emption is the model's choice (log entry 66). (R48, R187, R188, R194, R439, R450, R451) -/
def Obligations.PreemptionAndResumption : Prop :=
  ∀ (s : State) (task : Nat) (wid : Word) (h : Hank), s.findHank task wid = some h →
    (∀ vs, s.skeinIn h .ready = true → s.bindable h = false → h.claim = false →
      s.takeVictims h (s.victimOrder h) [] = some vs →
      ∃ u, exec (.preempt task wid) s = .next u
        ∧ ∀ v ∈ vs, ∃ x, u.findHank v.task v.wid = some x ∧ x.state = .saving ∧ x.frame.isSome = true)
    ∧ (∀ slot f, s.hankAt slot = some h → h.state = .saving → h.frame = some f → (s.ctx slot).event = none →
        (s.ctx slot).waiting = [] → (s.ctx slot).dying = none → (s.ctx slot).heldFatal = false → (∀ p ∈ (s.ctx slot).cq, p.2 = []) →
        let secs := s.frameSections slot (s.ctx slot).provisional
        (s.frameInHbm f = true → s.frameWait f secs = none → s.frameErrors f secs = [] → ∃ u x, exec (.saveComplete slot) s = .next u
          ∧ u.ctx slot = .free ∧ u.findHank h.task h.wid = some x ∧ x.state = .suspended ∧ x.slot = none ∧ x.suspendedAt = s.timeNs
          ∧ x.frame = some f)
        ∧ (s.frameInHbm f = true → (s.frameWait f secs).isSome = true → exec (.saveComplete slot) s = .next s)
        ∧ (s.frameInHbm f = true → s.frameWait f secs = none → s.frameErrors f secs ≠ [] → exec (.saveComplete slot) s =
            .next (((s.frameErrors f secs).foldl (fun t b => t.scrub (512 * b)) s).terminate slot (s.frameRec slot 0x0220 f)))
        ∧ (s.frameInHbm f = false → exec (.saveComplete slot) s = .next (s.terminate slot (s.frameRec slot 0x0220 f))))
    ∧ (∀ (t : Task) (f b k : Nat), s.findTask h.task = some t → s.skeinOf h = [h] → h.state = .suspended → h.frame = some f →
        s.resumeBobbin h = some b → s.outbid b [h] h.cls (some h.suspendedAt) = false → s.pickSlot b (s.resumeDemand t h) = some k →
        match (s.claimSlot t h k).restore b h with
        | none => exec (.resume task wid) s = .next s
        | some u => exec (.resume task wid) s = .next u
            ∧ ∀ x, u.findHank task wid = some x → x.bobbin = b ∧ (x.state = .running ∨ x.state = .ending))
    ∧ (h.state = .suspended → h.suspendedAt + (h.agedMs + 1) * 1000000 ≤ s.timeNs → h.cls < 7 → ∃ u, exec (.hankAgeing task wid) s = .next u
        ∧ u.findHank task wid = some { h with cls := h.cls + 1, agedMs := h.agedMs + 1, aged := true })

/-- A hank or event that exceeds its limit is ended, the lowest idle core takes the oldest event, a waiting cluster is set running
when its queue serves it, loads land, and the CSRW at the PC of a context's C cluster writes BANKCFG or QCFG. (R33, R36, R41, R111,
R115, R267, R356, R401, R405) -/
def Obligations.WatchdogsWaitsAndLoads : Prop :=
  ∀ (s : State) (slot : Nat) (c : Cl),
    (∀ h, s.hankAt slot = some h → h.state = .running →
      let lim := s.creel.wdcfg.toNat / 65536 % 65536
      lim ≠ 0 → lim * 1000000 < h.runNs + (s.timeNs - h.resumedAt) →
      exec (.hankWatchdog slot) s = .next (s.terminate slot (s.ctxRec slot 4 0x0402 (s.ctx slot).c.pc 0 0)))
    ∧ (∀ n, (s.core n).busy = true → (s.core n).takenAt + max 1 (s.creel.wdcfg.toNat % 256) * 1000000 ≤ s.timeNs →
      let idle := s.setCore n SupCore.initial
      ((s.core n).target = none ∨ (s.core n).withdrawn = true → exec (.eventWatchdog n) s = .next idle)
      ∧ ∀ k e, (s.core n).target = some k → (s.core n).withdrawn = false → (s.ctx k).event = some e →
          exec (.eventWatchdog n) s = .next ((idle.modCtx k fun x => { x with event := none }).terminate k
            (s.ctxRec k 4 0x0403 e.record.pc 0 (e.record.info &&& 3))))
    ∧ (∀ b n k e, 4 * b ≤ n → n < 4 * b + 4 → (s.core n).busy = false → (∀ m, 4 * b ≤ m → m < n → (s.core m).busy = true) →
      120 * b ≤ k → k < 120 * b + 120 → (s.ctx k).event = some e → e.core = none →
      (∀ j f, 120 * b ≤ j → j < 120 * b + 120 → j ≠ k → (s.ctx j).event = some f → f.core = none →
        e.record.ts < f.record.ts ∨ (e.record.ts = f.record.ts ∧ e.record.src < f.record.src)) →
      ∃ u : State, exec (.supervisorEventTake b) s = .next u ∧ u = { s with ctxs := u.ctxs, sup := u.sup }
        ∧ (∀ m, m ≠ n → u.core m = s.core m) ∧ (∀ j, j ≠ k → u.ctx j = s.ctx j)
        ∧ u.ctx k = { s.ctx k with event := some { e with core := some n, takenAt := s.timeNs } }
        ∧ (u.core n).busy = true ∧ (u.core n).target = some k ∧ (u.core n).withdrawn = false ∧ (u.core n).takenAt = s.timeNs
        ∧ (u.core n).record = s.eventSlot k ∧ (u.core n).cl.run = .running
        ∧ (u.core n).cl.pc = (s.creel.svvec.get 0 b &&& 0x000FFFFFFFFFFFFC)
        ∧ ∀ r, (u.core n).cl.readS r =
            if r = 1 then BitVec.ofNat 64 (s.eventSlot k) else if r = 2 then BitVec.ofNat 64 k else 0)
    ∧ (s.canRun (.cluster slot c) = true →
      exec (.issueStarvation slot c) s = .next { s with turns := .run (.cluster slot c) false :: s.turns })
    ∧ (s.mayIssue slot = true → ((s.ctx slot).cl c).run = .waiting → ∀ q,
      let x := (s.ctx slot).queue q
      let runs (i : Instr) : Prop := ∃ u, exec i s = .next u ∧ ClustersBecome s u slot fun j =>
        if j = c then { (s.ctx slot).cl c with run := .running } else (s.ctx slot).cl j
      (((s.ctx slot).cl c).wait = some (.queueSpace q) → x.unplaced = [] → x.entries.length < 64 → 0 < x.free →
        runs (.queueSpaceWake slot c))
      ∧ (((s.ctx slot).cl c).wait = some (.queueEntry q) → (∃ e, x.head = some e ∧ e.missing = []) → runs (.queueEntryWake slot c)))
    ∧ (∀ q e es, ((s.ctx slot).queue q).unplaced = e :: es →
      ({ (s.ctx slot).queue q with unplaced := [] } : Queue).fits [e] = true →
      ∃ u : State, exec (.queueEntryPlaced slot q) s = .next u ∧ u = { s with ctxs := u.ctxs } ∧ (∀ k, k ≠ slot → u.ctx k = s.ctx k)
        ∧ u.ctx slot = { s.ctx slot with queues := (u.ctx slot).queues }
        ∧ ∀ r, (u.ctx slot).queue r = if r = q then
            { (s.ctx slot).queue q with
              entries := ((s.ctx slot).queue q).entries ++ [e], unplaced := es, requests := ((s.ctx slot).queue q).requests.tail }
            else (s.ctx slot).queue r)
    ∧ (∀ (r : RegF) (g : Nat) (y : Strip), g ∈ ((s.ctx slot).vregs.get .initial r.toNat).missing →
      (s.ctx slot).v.pend = [.vector r.toNat y] →
      ∃ u : State, exec (.elementGroupArrival slot r.toNat g) s = .next u ∧ u = { s with ctxs := u.ctxs }
        ∧ (∀ k, k ≠ slot → u.ctx k = s.ctx k)
        ∧ (∀ j, j ≠ r.toNat → (u.ctx slot).vregs.get .initial j = (s.ctx slot).vregs.get .initial j)
        ∧ (let old := (s.ctx slot).vregs.get .initial r.toNat
           let new := (u.ctx slot).vregs.get .initial r.toNat
           let per := 2048 / old.strip.tag.f.width
           new.missing = old.missing.filter (· != g) ∧ new.strip.tag = old.strip.tag
             ∧ (∀ i, new.strip.code i = if g * per ≤ i ∧ i < (g + 1) * per then y.code i else old.strip.code i)
             ∧ (u.ctx slot).v.pend = if new.missing = [] then [] else [.vector r.toNat y]))
    ∧ (∀ k r v, ((s.ctx slot).cl c).pend[k]? = some (.scalar r v) → r < 32 → ∃ u, exec (.loadDataReturn (.cluster slot c) k) s = .next u
      ∧ ClustersBecome s u slot (fun j => if j = c
          then { ((s.ctx slot).cl c).writeS (BitVec.ofNat 5 r) v with
                 pend := ((s.ctx slot).cl c).pend.eraseIdx k
                 loadPc := if ((s.ctx slot).cl c).pend.eraseIdx k = [] then none else ((s.ctx slot).cl c).loadPc }
          else (s.ctx slot).cl j))
    ∧ (let t : State := { s with cur := .cluster slot .C }
       s.mayIssue slot = true → (s.ctx slot).c.run ≠ .idle → t.loadPending = false → ∀ (v : Word) (r : Nat × Word) (u : State),
        (dueWrite.run.run t : Except Stop (Option (Nat × Word)) × State) = (.ok (some r), u) →
        (r = (11, v) → ∀ st, u.bankOutcome slot (v.extractLsb' 0 6).toNat (v.extractLsb' 8 2).toNat = some st →
          ∃ w, exec (.bankcfgWrite slot v) s = .next (w.retire 4) ∧ BankConfigured u w slot v st)
        ∧ (r ≠ (11, v) → exec (.bankcfgWrite slot v) s = .next s)
        ∧ ∀ q < 16, (r = (32 + q, v) → u.QcfgFits slot q v →
            ∃ w, exec (.qcfgWrite slot q v) s = .next (w.retire 4) ∧ QueueConfigured u w slot q v)
          ∧ (r ≠ (32 + q, v) → exec (.qcfgWrite slot q v) s = .next s))

/-- A copy command starts, performs a chunk of bytes within one line of each side, writes its signal and leaves; a fence leaves when
met; a stream refill pushes its strip; recode jobs rewrite a line in two steps and complete; an export job completes. Lines are stated
where no store is waiting to be performed. (R70, R131, R150, R151, R276, R284, R437) -/
def Obligations.Engines : Prop :=
  ∀ (s : State) (slot cq : Nat),
    (∀ cmd rest, (s.ctx slot).copyQueue cq = .cmd cmd :: rest → s.enginesRun slot = true →
      (cmd.started = false → ∃ u, exec (.copyCommandStart slot cq) s = .next u
        ∧ CopyQueuesBecome s u slot fun q => if q = cq then .cmd { cmd with started := true } :: rest else (s.ctx slot).copyQueue q)
      ∧ (cmd.started = true → cmd.stalled = false →
        (∀ (n : Nat) (g : CopySeg) (x y : Xlate) (v : Nat), n ∈ cmd.chunks → cmd.segs n = [g] → cmd.srcSp = false → cmd.dstSp = false →
          (cmd.stopChunk = none ∨ cmd.stopChunk = some n) →
          let s0 := s.prewalkSegs slot cmd [g]
          let p : SegXlate := { seg := g, src := some x, dst := some y }
          let t := s0.touchChunk slot cq cmd.pc [p]
          s0.engineXlate slot (.engine false cq false) g.src = .ok x → s0.engineXlate slot (.engine false cq true) g.dst = .ok y →
          p.lineCopy = false → s.region x.pa ≠ .creel → s.region y.pa ≠ .creel → (s.ctx slot).provisional = false → s.me.late = false →
          (t.seenLine slot x).readRaw x.typed x.par.w x.par.ppol (x.va % 128) g.n = .ok (v, false) →
          (∃ l, (t.seenLine slot y).storeRaw y.typed y.par.w y.par.ppol y.par.expf (y.va % 128) (leBytes g.n v) = .ok (l, false)
            ∧ t.plyConflict y l = false) →
          ∃ u, exec (.completionBitSet slot cq n) s = .next u ∧ MemoryAfterStore t u slot y (leBytes g.n v)
            ∧ (∀ q, (u.ctx slot).copyQueue q =
                if q = cq then .cmd { cmd with chunks := cmd.chunks.filter (· != n), stopChunk := none } :: rest
                else (s.ctx slot).copyQueue q)
            ∧ SMap.get false ((u.ctx slot).cb.get [] cmd.cb) n = true)
        ∧ (cmd.chunks = [] → (s.ctx slot).dying = none →
          (cmd.signal = none → cmd.pzs = false → cmd.zeroed = [] → ∃ u, exec (.copyCommandComplete slot cq) s = .next u
            ∧ CopyQueuesBecome s u slot fun q => if q = cq then rest else (s.ctx slot).copyQueue q)
          ∧ ∀ va v x, cmd.signal = some (va, v) → cmd.pzs = false → cmd.zeroed = [] → (s.ctx slot).provisional = false →
            s.Writes slot (.engine false cq true) va (leBytes 8 v.toNat) x → s.engineXlate slot (.engine false cq true) va = .ok x →
            ∃ u, exec (.copyCommandComplete slot cq) s = .next u ∧ Signalled s u slot va x (leBytes 8 v.toNat)
              ∧ ∀ q, (u.ctx slot).copyQueue q = if q = cq then rest else (s.ctx slot).copyQueue q)))
    ∧ (∀ f, (s.ctx slot).fences.find? (s.ctx slot).fenceMet = some f → ∃ u : State, exec (.qfenceComplete slot) s = .next u
      ∧ u = { s with ctxs := u.ctxs } ∧ (∀ k, k ≠ slot → u.ctx k = s.ctx k)
      ∧ u.ctx slot = { s.ctx slot with cq := (u.ctx slot).cq, fences := (s.ctx slot).fences.filter fun g => g.id != f.id }
      ∧ ∀ q, (u.ctx slot).copyQueue q = if q < 4 ∧ f.cqs.getLsbD q = true then ((s.ctx slot).copyQueue q).tail
          else (s.ctx slot).copyQueue q)
    ∧ (∀ (q : Nat) (x : Stream) (t : State) (got : Gathered), s.streamReady slot q = some x → x.exh = false →
      ((s.ctx slot).queue q).free ≠ 0 →
      let contig := s.stripContig slot q x
      let places : Places := if contig then .positions fun i => i else .stride x.s0.toInt
      let ds := t.stripDrafts slot x got
      let es := t.stripEntries slot x contig ds
      ((gather slot (.engine true q false) x.va places contig (List.range x.strip)).run.run s : Except Stop Gathered × State)
        = (.ok got, t) → (∀ d ∈ ds, convertsNone x.ops d.fmt = false) → ((t.ctx slot).queue q).fits (es.map Prod.fst) = true →
      (x.after x.strip).exh = false →
      ∃ u, exec (.streamRefill slot q) s = .next u
        ∧ ((u.ctx slot).queue q).entries = ((t.ctx slot).queue q).entries ++ es.map Prod.fst
        ∧ ((u.ctx slot).queue q).stream = some (x.after x.strip))
    ∧ (∀ (j : RecJob) (js : List RecJob), s.recJobs = j :: js →
      let becomes (u : State) (k : RecJob) : Prop := u.recJobs = k :: js
      let did (k : RecJob) : RecJob := { k with next := k.next + 1, rewritten := k.rewritten + 1, stuckSince := none }
      let skipped (k : RecJob) : RecJob := { k with next := k.next + 1, skipped := k.skipped + 1, stuckSince := none }
      (∀ n tag bytes, j.transit = some (n, tag, bytes) → (s.tagAt (n * 128)).vcls = 3 → (∀ w ∈ s.physWaits, w.2.1 / 128 ≠ n) →
        ∃ u, exec (.recodeLineRewrite (n * 128 / 4096 % 8)) s = .next u ∧ becomes u { did j with transit := none }
          ∧ (∀ p, u.tagAt p = if p / 128 = n then tag else s.tagAt p)
          ∧ ∀ a, u.byteAt a = if a / 128 = n then bytes.getD (a % 128) 0 else s.byteAt a)
      ∧ (∀ x, j.transit = none → j.finished = false → j.next < j.lines → s.jobPage j.asd (j.lineVa j.next) = .page x →
        j.refuses x = false → x.entry.mig = false → s.ownedByHost x.pa = false → s.CleanAt x.pa → s.NoStores →
        s.prewalk recodeUnit j.asd (BitVec.ofNat 64 (j.lineVa j.next)) = s →
        let m := s.tagAt x.pa
        let run := exec (.recodeLineRewrite (x.pa / 4096 % 8)) s
        (m.cls true x.par.w = .zero ∨ m.cls true x.par.w = .vacant → ∃ u, run = .next u ∧ becomes u (did j)
          ∧ (∀ p, u.tagAt p = if p / 128 = x.pa / 128 then { desc := descOf j.fmt m.vcls 0, sc := 0x7F7F7F7F } else s.tagAt p)
          ∧ ∀ a, u.byteAt a = s.byteAt a)
        ∧ (m.cls true x.par.w = .valid → m.fmt ≠ Fmt.none → (Fmt.width j.fmt) < (Fmt.width m.fmt) → ∃ u, run = .next u
          ∧ becomes u { j with transit := some (x.pa / 128,
              ((s.lineAt x.pa).narrow x.par.w j.fmt (if j.rtz then .rtz else .rne)).1,
              ((s.lineAt x.pa).narrow x.par.w j.fmt (if j.rtz then .rtz else .rne)).2) }
          ∧ (∀ p, u.tagAt p = if p / 128 = x.pa / 128 then m.withClass 3 else s.tagAt p) ∧ ∀ a, u.byteAt a = s.byteAt a)
        ∧ (m.cls true x.par.w = .valid → (m.fmt = Fmt.none ∨ (Fmt.width m.fmt) ≤ (Fmt.width j.fmt)) → ∃ u, run = .next u
          ∧ becomes u (skipped j) ∧ u = { s with recJobs := u.recJobs, l1 := u.l1, l2 := u.l2 }))
      ∧ (j.finished = true → s.region j.cmpl = .hbm → j.cmpl % 64 = 0 →
        ∃ v u, exec .recodeJobComplete s = .next u ∧ v.recJobs = js
          ∧ BytesStored s v j.cmpl (completionBytes [j.rewritten, j.skipped, j.refused, j.freed])
          ∧ (if j.fromHost = true then MessageRaised v u 3 else u = v)))
    ∧ ∀ (j : ExpJob) (js : List ExpJob), s.expJobs = j :: js →
      (∀ i < j.pages, j.stalls s i = false) →
      let d := (List.range j.pages).foldl j.page { s := { s with expJobs := js }, pages := 0, zeroed := 0, refused := 0 }
      s.region j.cmpl = .hbm → j.cmpl % 64 = 0 →
      ∃ u, exec .exportJobComplete s = .next u ∧ BytesStored d.s u j.cmpl (completionBytes [d.pages, d.zeroed, d.refused])
        ∧ d.pages + d.refused = j.pages

/-- Right after reset no task, hank, job or translation is left, memory reads 0 with wiped tags and is canonical, every bank is
CACHE, every slot is free with the registers of R40, and the Creel registers read their Reset values. That memory outside HBM4
reads 0 is the model's choice (log entry 5), and so is the position of an idle cluster (log entry 3). (R40, R74, R99, R109, R160,
R175, R384, R386, R389, R390) -/
def Obligations.ResetState : Prop :=
  (
      let s := State.reset
      s.powered = true ∧ s.creel.ready = true ∧ s.tasks = [] ∧ s.hanks = [] ∧ s.tlb = [] ∧ s.walkCache = [] ∧ s.l1 = [] ∧ s.l2 = []
        ∧ s.recJobs = [] ∧ s.expJobs = [] ∧ s.decJobs = [] ∧ s.moves = [] ∧ s.pageReqs = [] ∧ s.physWaits = [] ∧ s.hostOwned = []
        ∧ (∀ a, s.byteAt a = 0) ∧ (∀ a, s.tagAt a = LineTag.wiped) ∧ (∀ a, (s.blockAt a).errors = 0)
        ∧ (∀ n, s.core n = SupCore.initial ∧ (s.core n).busy = false) ∧ (∀ sp b, s.bank sp b = Bank.cache)
        ∧ (∀ k, (s.ctx k).hank = none ∧ (s.ctx k).vcap = 1 ∧ (s.ctx k).flags = 0 ∧ (s.ctx k).rkcap = 64 ∧ (s.ctx k).latsel = 0 ∧ (s.ctx k).pzr = 0
            ∧ (∀ c : Cl, ((s.ctx k).cl c).run = .idle ∧ ∀ r, ((s.ctx k).cl c).readS r = 0)
            ∧ (∀ r, (s.ctx k).vregs.get .initial r = VReg.initial) ∧ ∀ q, (s.ctx k).queue q = Queue.initial)
        ∧ (∀ n < 64, s.creelRead (0x10000 + 8 * n) = 0x0010000000000000 ∧ s.creelRead (0x10200 + 8 * n) = 0)
        ∧ (∀ b < 8, s.creelRead (0x10400 + 8 * b) = 0x0000000000F00A32 ∧ s.creelRead (0x10800 + 8 * b) = 0 ∧ s.creelRead (0x10840 + 8 * b) = 0)
        ∧ s.creelRead 0x10470 = 10 ∧ s.creelRead 0x10478 = 0x00010064 ∧ s.creelRead 0x10480 = 1000 ∧ s.creelRead 0x10490 = 1000
        ∧ s.creelRead 0x10440 = 0 ∧ (∀ n < 480, s.creelRead (0x11000 + 8 * n) = 128) ∧ s.creelRead 0x3008 = 360
        ∧ (∀ set < 4, ∀ a b : Fmt, Lattice.entry (s.lattice.get none set) a b = LatEntry.ofByte (Lattice.standard a b)))
  ∧ (MemOk State.reset)

/-- From every state whose memory has its canonical form (addresses strictly rising, no entry equal to what an unlisted address
reads as) each step that answers a next state leaves it in that form. The form is the model's own. (05_memory.md) -/
def Obligations.MemoryStaysCanonical : Prop :=
  ∀ s t, MemOk s → step s = .next t → MemOk t

/-- exec answers a next state for every instruction and event in every state, and step does in every state in which the module has
power. (R12, 09_encoding.md, 14_control.md) -/
def Obligations.ExecutionAnswers : Prop :=
  (∀ i s, ∃ t, exec i s = .next t) ∧ ∀ s, s.powered = true → ∃ t, step s = .next t

/-- For every site and every instruction that is well-formed there, with every operand at every value that the encoding admits,
decoding the parcels of its encoding gives the instruction, and the first parcel's L bit says how many parcels they are. (R215,
R216, R218, R219, R223, R224, R232) -/
def Obligations.EncodingRoundTrip : Prop :=
  ∀ (site : Site) (i : Instr), i.home ≠ .event → i.wf site = true →
    match encode i with
    | [p] => p.long = false ∧ decode site p 0 = .ok i
    | [p, q] => p.long = true ∧ decode site p q = .ok i
    | _ => False

/-- Words written out from the encodings of five families decode to their instructions, and a parcel of major 0x1F is refused on a
cluster with reason 8. (R219, R224, R228, R235, R411) -/
def Obligations.DecodingWords : Prop :=
  decode (.cl .C) 0x02E32A40 0 = .ok (.add ⟨false, 7⟩ 3 5 9)
    ∧ decode (.cl .C) 0x2E605548 0 = .ok (.trap ⟨false, 3⟩ 0x155)
    ∧ decode (.cl .V) 0xC4E32A43 0x38D2AC01 = .ok (.vfma ⟨false, 7⟩ 3 5 9 ⟨7, 3, 4, true, 2, true, false, true, true, 0x1⟩)
    ∧ decode (.cl .V) 0x4EF29400 0 = .ok (.reel ⟨false, 7⟩ 0x25 5)
    ∧ decode (.cl .M) 0x45E32A40 0 = .ok (.mma ⟨true, 7⟩ 3 5 9)
    ∧ decode (.cl .C) 0x3E000000 0 = .error (.illegal 8)

/-- When an agent that may issue has its turn and the parcels at its program counter, in its reel or in its convoy decode to an
instruction, the step is exec of that instruction in the state that its packet enters (a late load's result landing later, R33);
parcels that decode to none trap. Before that, loads that are still to land are waited for, and queue loads that pre-emption cut
short are made again. Turns are the model's own (log entry 2). (R33, R194, R215, R216, R230, R267, R317, R410, R416) -/
def Obligations.StepRunsTheDecodedInstruction : Prop :=
  ∀ (s : State) (a : Agent) (late : Bool), s.powered = true → s.turn = some (.run a late) →
    let b := s.afterTurn.begin a
    let runs (i : Instr) : Prop :=
      (b.vregsPart i = true → step s = .next (b.halt (.wait .load)))
      ∧ (b.vregsPart i = false → (late = false → step s = exec i (b.enter i false))
          ∧ (late = true → ∀ t, exec i (b.enter i true) = .next t → step s = .next (b.defer i t)))
    let traps (p : Parcel) (x : Bad) : Prop := step s = .next (b.halt (badTrap p x))
    (s.afterTurn.canRun a = false → step s = .next s.afterTurn)
    ∧ (s.afterTurn.canRun a = true → b.loadPending = true → step s = .next (b.halt (.wait .load)))
    ∧ (s.afterTurn.canRun a = true → b.loadPending = false → b.mustReissue = true → step s = finish (reissueLoads b.myCtx.reissue) b)
    ∧ (s.afterTurn.canRun a = true → b.loadPending = false → b.mustReissue = false →
      (b.me.convoy = none → b.me.reel = none → ∀ p q : Parcel, b.FetchesParcels a b.me.pc [p] →
          (p.long = false → (∀ i, decode b.site p 0 = .ok i → runs i) ∧ ∀ x, decode b.site p 0 = .error x → traps p x)
          ∧ (p.long = true → firstOnly b.site p = true → ∀ x, decode b.site p 0 = .error x → traps p x)
          ∧ (p.long = true → firstOnly b.site p = false → b.FetchesParcels a b.me.pc [p, q] →
              (∀ i, decode b.site p q = .ok i → runs i) ∧ ∀ x, decode b.site p q = .error x → traps p x))
      ∧ (∀ r, b.me.convoy = none → b.me.reel = some r →
          let p := r.body.getD r.pos 0
          (∀ i, decode b.site p (r.body.getD (r.pos + 1) 0) = .ok i → runs i)
          ∧ ∀ x, decode b.site p (r.body.getD (r.pos + 1) 0) = .error x → traps p x)
      ∧ ∀ v, b.me.convoy = some v →
          let m := v.members.getD v.next (0, 0)
          (∀ i, decode b.site m.1 m.2 = .ok i → runs i) ∧ ∀ x, decode b.site m.1 m.2 = .error x → traps m.1 x)

/-- When the turn is an event of the opcode table the step is exec of that event, when it is something that happens beside these the
step is that; time never runs back; without power the step faults. Turns and the fault are the model's own (log entries 2 and 25).
(R12, R355) -/
def Obligations.Turns : Prop :=
  (∀ (s : State), s.powered = true →
      (∀ i, s.turn = some (.event i) → isEvent i = true → step s = exec i s.afterTurn)
      ∧ (∀ h, s.turn = some (.happen h) → step s = .next (s.afterTurn.happens h))
      ∧ (s.turn = none → step s = .next s.afterTurn)
      ∧ s.afterTurn = { s with turns := s.turns.tail, timeNs := s.afterTurn.timeNs, stepNo := s.stepNo + 1 }
      ∧ s.timeNs ≤ s.afterTurn.timeNs ∧ (∀ x l, s.turns = x :: l → s.turn = some x))
  ∧ (∀ s, s.powered = false → step s = .fault .unpowered)

/-- Every parcel of major 0x3E, short or long, at every site, decodes to an instruction that passes to the next packet and changes
nothing else, whatever its other bits; the canonical NOP is one. (R239) -/
def Obligations.Hints : Prop :=
  ∀ (site : Site) (p q : Parcel), p.major = 0x3E →
    (p.long = false → ∃ i, decode site p q = .ok i ∧ ∀ s, exec i s = .next (s.retire 4))
    ∧ (p.long = true → ∃ i, decode site p q = .ok i ∧ ∀ s, exec i s = .next (s.retire 8))
    ∧ Parcel.major 0x7CE00000 = 0x3E

/-- A parcel of major 0x1E, MINOR 2 with ra zero and j below 6 decodes to an instruction that sets sd to WIDj and changes nothing
else; with j from 6 to 31 or ra not zero it is refused. (R350) -/
def Obligations.WorkIdentifiers : Prop :=
  ∀ (c : Cl) (p : Parcel), p.major = 0x1E → p.long = false → p.minor = 2 →
    (p.ra ≠ 0 ∨ 6 ≤ p.rb.toNat → ∃ r, decode (.cl c) p 0 = .error (.illegal r))
    ∧ (p.ra = 0 → p.rb.toNat < 6 → ∃ i, decode (.cl c) p 0 = .ok i ∧ ∀ (s : State) (slot : Nat), s.cur = .cluster slot c → s.guardTrue p.guard = true →
        ∃ t, exec i s = .next t ∧ ScalarResult s t p.rd ((s.ctx slot).wid.get 0 p.rb.toNat) 0 4)
end

