-- ==== Sys2Proof/Laws/Store.lean ====
section
/-! SUPPORT. Laws of sparse maps: reading after writing, and that every operation keeps the canonical form. -/

namespace Sys2Proof.Machine

variable {α : Type}

theorem SMap.rising_mono {lo hi : Nat} {m : SMap α} (h : SMap.rising hi m = true) (hle : lo ≤ hi) :
    SMap.rising lo m = true := by
  cases m with
  | nil => rfl
  | cons p t => simp only [SMap.rising, Bool.and_eq_true, decide_eq_true_eq] at *; exact ⟨by omega, h.2⟩

/-- A key below every key of a rising map is not listed. -/
theorem SMap.get_of_rising {d : α} {lo i : Nat} {m : SMap α} (h : SMap.rising lo m = true) (hi : i < lo) :
    SMap.get d m i = d := by
  induction m generalizing lo with
  | nil => rfl
  | cons p t ih =>
    obtain ⟨k, v⟩ := p
    simp only [SMap.rising, Bool.and_eq_true, decide_eq_true_eq] at h
    simp only [SMap.get, show ¬k = i by omega, if_false]
    exact ih h.2 (by omega)

theorem SMap.get_erase {d : α} {m : SMap α} (i j : Nat) :
    SMap.get d (SMap.erase m i) j = if i = j then d else SMap.get d m j := by
  induction m with
  | nil => simp [SMap.erase, SMap.get]
  | cons p t ih =>
    obtain ⟨k, v⟩ := p
    simp only [SMap.erase]
    split
    · rename_i h; subst h; rw [ih]; simp only [SMap.get]; split <;> simp_all
    · rename_i h; simp only [SMap.get, ih]; split
      · rename_i h2; subst h2; simp [Ne.symm h]
      · rfl

theorem SMap.get_insertSorted {d v : α} {m : SMap α} {i : Nat} (j : Nat)
    (hm : ∀ p ∈ m, p.1 ≠ i) : SMap.get d (SMap.insertSorted i v m) j = if i = j then v else SMap.get d m j := by
  induction m with
  | nil => simp [SMap.insertSorted, SMap.get]
  | cons p t ih =>
    obtain ⟨k, w⟩ := p
    have hk : k ≠ i := hm (k, w) (by simp)
    simp only [SMap.insertSorted]
    split
    · simp [SMap.get]
    · simp only [SMap.get, ih fun p hp => hm p (by simp [hp])]
      split
      · rename_i h2; subst h2; simp [Ne.symm hk]
      · rfl

theorem SMap.erase_keys {m : SMap α} {i : Nat} : ∀ p ∈ SMap.erase m i, p.1 ≠ i := by
  induction m with
  | nil => simp [SMap.erase]
  | cons q t ih =>
    obtain ⟨k, v⟩ := q
    simp only [SMap.erase]
    split
    · exact ih
    · rename_i h; simp only [List.mem_cons, forall_eq_or_imp]; exact ⟨h, ih⟩

/-- Reading after writing. -/
theorem SMap.get_set [DecidableEq α] (d : α) (m : SMap α) (i j : Nat) (v : α) :
    SMap.get d (SMap.set d m i v) j = if i = j then v else SMap.get d m j := by
  unfold SMap.set
  split
  · rename_i h; rw [SMap.get_erase]; simp [h]
  · rw [SMap.get_insertSorted j SMap.erase_keys, SMap.get_erase]; split <;> rfl

@[simp] theorem SMap.get_set_same [DecidableEq α] (d : α) (m : SMap α) (i : Nat) (v : α) : SMap.get d (SMap.set d m i v) i = v := by
  simp [SMap.get_set]

theorem SMap.get_set_ne [DecidableEq α] (d : α) (m : SMap α) {i j : Nat} (v : α) (h : i ≠ j) :
    SMap.get d (SMap.set d m i v) j = SMap.get d m j := by
  simp [SMap.get_set, h]

theorem SMap.erase_of_rising {lo i : Nat} {m : SMap α} (h : SMap.rising lo m = true) (hi : i < lo) :
    SMap.erase m i = m := by
  induction m generalizing lo with
  | nil => rfl
  | cons p t ih =>
    obtain ⟨k, v⟩ := p
    simp only [SMap.rising, Bool.and_eq_true, decide_eq_true_eq] at h
    simp only [SMap.erase, show ¬k = i by omega, if_false, ih h.2 (by omega)]

theorem SMap.rising_erase {lo : Nat} {m : SMap α} (i : Nat) (h : SMap.rising lo m = true) :
    SMap.rising lo (SMap.erase m i) = true := by
  induction m generalizing lo with
  | nil => rfl
  | cons p t ih =>
    obtain ⟨k, v⟩ := p
    simp only [SMap.rising, Bool.and_eq_true, decide_eq_true_eq] at h
    simp only [SMap.erase]
    split
    · exact ih (SMap.rising_mono h.2 (by omega))
    · simp only [SMap.rising, Bool.and_eq_true, decide_eq_true_eq]; exact ⟨h.1, ih h.2⟩

theorem SMap.rising_insertSorted {lo i : Nat} {v : α} {m : SMap α} (hi : lo ≤ i) (h : SMap.rising lo m = true)
    (hm : ∀ p ∈ m, p.1 ≠ i) : SMap.rising lo (SMap.insertSorted i v m) = true := by
  induction m generalizing lo with
  | nil => simp [SMap.insertSorted, SMap.rising, hi]
  | cons p t ih =>
    obtain ⟨k, w⟩ := p
    have hk : k ≠ i := hm (k, w) (by simp)
    simp only [SMap.rising, Bool.and_eq_true, decide_eq_true_eq] at h
    simp only [SMap.insertSorted]
    split
    · simp only [SMap.rising, Bool.and_eq_true, decide_eq_true_eq]; exact ⟨hi, by omega, h.2⟩
    · simp only [SMap.rising, Bool.and_eq_true, decide_eq_true_eq]
      exact ⟨h.1, ih (by omega) h.2 fun p hp => hm p (by simp [hp])⟩

theorem SMap.mem_insertSorted {i : Nat} {v : α} {m : SMap α} {p : Nat × α} (h : p ∈ SMap.insertSorted i v m) :
    p = (i, v) ∨ p ∈ m := by
  induction m with
  | nil => simpa [SMap.insertSorted] using h
  | cons q t ih =>
    obtain ⟨k, w⟩ := q
    simp only [SMap.insertSorted] at h
    split at h
    · simpa using h
    · rcases List.mem_cons.1 h with rfl | h
      · simp
      · rcases ih h with h | h <;> simp [h]

theorem SMap.mem_erase {i : Nat} {m : SMap α} {p : Nat × α} (h : p ∈ SMap.erase m i) : p ∈ m := by
  induction m with
  | nil => simp [SMap.erase] at h
  | cons q t ih =>
    obtain ⟨k, w⟩ := q
    simp only [SMap.erase] at h
    split at h
    · exact List.mem_cons_of_mem _ (ih h)
    · rcases List.mem_cons.1 h with rfl | h
      · simp
      · exact List.mem_cons_of_mem _ (ih h)

theorem SMap.wf_iff [DecidableEq α] {d : α} {m : SMap α} : SMap.wf d m = true ↔ SMap.rising 0 m = true ∧ ∀ p ∈ m, p.2 ≠ d := by
  simp [SMap.wf]

/-- A write keeps the canonical form. -/
theorem SMap.wf_set [DecidableEq α] {d : α} {m : SMap α} (h : SMap.wf d m = true) (i : Nat) (v : α) : SMap.wf d (SMap.set d m i v) = true := by
  rw [SMap.wf_iff] at *
  unfold SMap.set
  split
  · exact ⟨SMap.rising_erase i h.1, fun p hp => h.2 p (SMap.mem_erase hp)⟩
  · rename_i hv
    refine ⟨SMap.rising_insertSorted (Nat.zero_le _) (SMap.rising_erase i h.1) SMap.erase_keys, fun p hp => ?_⟩
    rcases SMap.mem_insertSorted hp with rfl | hp
    · exact hv
    · exact h.2 p (SMap.mem_erase hp)

theorem SMap.wf_nil [DecidableEq α] {d : α} : SMap.wf d ([] : SMap α) = true := rfl

theorem SMap.wf_setList [DecidableEq α] {d : α} (l : List α) : ∀ {m : SMap α} (_ : SMap.wf d m = true) (i : Nat),
    SMap.wf d (SMap.setList d m i l) = true := by
  induction l with
  | nil => intro m h i; exact h
  | cons v t ih => intro m h i; exact ih (SMap.wf_set h i v) (i + 1)

/-- Reading after writing a list of consecutive values. -/
theorem SMap.get_setList [DecidableEq α] (d : α) (l : List α) : ∀ (m : SMap α) (i j : Nat),
    SMap.get d (SMap.setList d m i l) j = if i ≤ j ∧ j < i + l.length then l.getD (j - i) d else SMap.get d m j := by
  induction l with
  | nil => intro m i j; simp only [SMap.setList, List.length_nil]; rw [if_neg (by omega)]
  | cons v t ih =>
    intro m i j
    simp only [SMap.setList, ih, SMap.get_set, List.length_cons]
    by_cases h1 : i + 1 ≤ j ∧ j < i + 1 + t.length
    · rw [if_pos h1, if_pos (by omega), show j - i = (j - (i + 1)) + 1 by omega]; simp
    · rw [if_neg h1]
      by_cases h2 : i = j
      · subst h2; simp
      · rw [if_neg h2, if_neg (by omega)]

theorem SMap.rising_append {lo mid : Nat} {m n : SMap α} (hm : SMap.rising lo m = true) (hk : ∀ p ∈ m, p.1 < mid)
    (hn : SMap.rising mid n = true) (hle : lo ≤ mid) : SMap.rising lo (m ++ n) = true := by
  induction m generalizing lo with
  | nil => exact SMap.rising_mono hn hle
  | cons p t ih =>
    obtain ⟨k, v⟩ := p
    simp only [List.cons_append, SMap.rising, Bool.and_eq_true, decide_eq_true_eq] at *
    exact ⟨hm.1, ih hm.2 (fun p hp => hk p (by simp [hp])) (hk (k, v) (by simp))⟩

theorem SMap.rising_filter {lo : Nat} {m : SMap α} (f : Nat × α → Bool) (h : SMap.rising lo m = true) :
    SMap.rising lo (m.filter f) = true := by
  induction m generalizing lo with
  | nil => rfl
  | cons p t ih =>
    obtain ⟨k, v⟩ := p
    simp only [SMap.rising, Bool.and_eq_true, decide_eq_true_eq] at h
    simp only [List.filter]
    split
    · simp only [SMap.rising, Bool.and_eq_true, decide_eq_true_eq]; exact ⟨h.1, ih h.2⟩
    · exact ih (SMap.rising_mono h.2 (by omega))

theorem SMap.rising_filter_ge {lo mid : Nat} {m : SMap α} (h : SMap.rising lo m = true) :
    SMap.rising mid (m.filter fun p => mid ≤ p.1) = true := by
  induction m generalizing lo with
  | nil => rfl
  | cons p t ih =>
    obtain ⟨k, v⟩ := p
    simp only [SMap.rising, Bool.and_eq_true, decide_eq_true_eq] at h
    simp only [List.filter]
    split
    · rename_i hk
      simp only [decide_eq_true_eq] at hk
      simp only [SMap.rising, Bool.and_eq_true, decide_eq_true_eq]
      exact ⟨hk, SMap.rising_filter _ h.2⟩
    · exact ih h.2

theorem SMap.rising_tabulateFrom [DecidableEq α] {d : α} {f : Nat → α} (n : Nat) : ∀ lo, SMap.rising lo (SMap.tabulateFrom d f lo n) = true := by
  induction n with
  | zero => intro lo; rfl
  | succ n ih =>
    intro lo
    simp only [SMap.tabulateFrom]
    split
    · exact SMap.rising_mono (ih (lo + 1)) (by omega)
    · simp only [SMap.rising, Bool.and_eq_true, decide_eq_true_eq]; exact ⟨le_refl _, ih (lo + 1)⟩

theorem SMap.mem_tabulateFrom [DecidableEq α] {d : α} {f : Nat → α} (n : Nat) : ∀ lo, ∀ p ∈ SMap.tabulateFrom d f lo n,
    lo ≤ p.1 ∧ p.1 < lo + n ∧ p.2 ≠ d := by
  induction n with
  | zero => intro lo p hp; simp [SMap.tabulateFrom] at hp
  | succ n ih =>
    intro lo p hp
    simp only [SMap.tabulateFrom] at hp
    split at hp
    · have := ih (lo + 1) p hp; exact ⟨by omega, by omega, this.2.2⟩
    · rename_i hv
      rcases List.mem_cons.1 hp with rfl | hp
      · exact ⟨le_refl _, by simp, hv⟩
      · have := ih (lo + 1) p hp; exact ⟨by omega, by omega, this.2.2⟩

theorem SMap.wf_tabulate [DecidableEq α] (d : α) (n : Nat) (f : Nat → α) : SMap.wf d (SMap.tabulate d n f) = true :=
  SMap.wf_iff.2 ⟨SMap.rising_tabulateFrom n 0, fun p hp => (SMap.mem_tabulateFrom n 0 p hp).2.2⟩

/-- Writing a range keeps the canonical form. -/
theorem SMap.wf_setRange [DecidableEq α] {d : α} {m : SMap α} (h : SMap.wf d m = true) (lo n : Nat) (f : Nat → α) :
    SMap.wf d (SMap.setRange d m lo n f) = true := by
  rw [SMap.wf_iff] at *
  unfold SMap.setRange
  constructor
  · refine SMap.rising_append (mid := lo + n) (SMap.rising_append (mid := lo) (SMap.rising_filter _ h.1) ?_
      (SMap.rising_tabulateFrom n lo) (Nat.zero_le _)) ?_ (SMap.rising_filter_ge h.1) (Nat.zero_le _)
    · intro p hp; simpa using (List.mem_filter.1 hp).2
    · intro p hp
      rcases List.mem_append.1 hp with hp | hp
      · have := (List.mem_filter.1 hp).2; simp only [decide_eq_true_eq] at this; omega
      · exact (SMap.mem_tabulateFrom n lo p hp).2.1
  · intro p hp
    rcases List.mem_append.1 hp with hp | hp
    · rcases List.mem_append.1 hp with hp | hp
      · exact h.2 p (List.mem_filter.1 hp).1
      · exact (SMap.mem_tabulateFrom n lo p hp).2.2
    · exact h.2 p (List.mem_filter.1 hp).1

theorem SMap.get_append_lt {d : α} {m n : SMap α} {i : Nat} (hm : ∀ p ∈ m, p.1 ≠ i) :
    SMap.get d (m ++ n) i = SMap.get d n i := by
  induction m with
  | nil => rfl
  | cons p t ih =>
    obtain ⟨k, v⟩ := p
    simp only [List.cons_append, SMap.get, hm (k, v) (by simp), if_false]
    exact ih fun p hp => hm p (by simp [hp])

theorem SMap.get_append_of_not_mem {d : α} {m n : SMap α} {i : Nat} (hn : ∀ p ∈ n, p.1 ≠ i) :
    SMap.get d (m ++ n) i = SMap.get d m i := by
  induction m with
  | nil =>
    induction n with
    | nil => rfl
    | cons p t ih =>
      obtain ⟨k, v⟩ := p
      have := hn (k, v) (by simp)
      simp only [List.nil_append, SMap.get, this, if_false] at *
      exact ih fun p hp => hn p (by simp [hp])
  | cons p t ih =>
    obtain ⟨k, v⟩ := p
    simp only [List.cons_append, SMap.get, ih]

theorem SMap.get_filter {d : α} {m : SMap α} (f : Nat → Bool) (i : Nat) :
    SMap.get d (m.filter fun p => f p.1) i = if f i then SMap.get d m i else d := by
  induction m with
  | nil => simp [SMap.get]
  | cons p t ih =>
    obtain ⟨k, v⟩ := p
    simp only [List.filter]
    cases hk : f k with
    | true =>
      simp only [SMap.get, ih]
      split
      · rename_i h; subst h; simp [hk]
      · rfl
    | false =>
      simp only [SMap.get, ih]
      split
      · rename_i h
        by_cases hki : k = i
        · subst hki; simp [hk] at h
        · simp [hki]
      · rfl

theorem SMap.get_tabulateFrom [DecidableEq α] (d : α) (f : Nat → α) (n : Nat) : ∀ lo i,
    SMap.get d (SMap.tabulateFrom d f lo n) i = if lo ≤ i ∧ i < lo + n then f i else d := by
  induction n with
  | zero => intro lo i; simp only [SMap.tabulateFrom, SMap.get]; rw [if_neg (by omega)]
  | succ n ih =>
    intro lo i
    simp only [SMap.tabulateFrom]
    split
    · rename_i hv
      rw [ih]
      by_cases h : i = lo
      · subst h; simp [hv]
      · by_cases h2 : lo + 1 ≤ i ∧ i < lo + 1 + n
        · rw [if_pos h2, if_pos (by omega)]
        · rw [if_neg h2, if_neg (by omega)]
    · simp only [SMap.get, ih]
      by_cases h : lo = i
      · subst h; simp
      · rw [if_neg h]
        by_cases h2 : lo + 1 ≤ i ∧ i < lo + 1 + n
        · rw [if_pos h2, if_pos (by omega)]
        · rw [if_neg h2, if_neg (by omega)]

@[simp] theorem SMap.get_tabulate [DecidableEq α] (d : α) (n : Nat) (f : Nat → α) (i : Nat) :
    SMap.get d (SMap.tabulate d n f) i = if i < n then f i else d := by
  simp [SMap.tabulate, SMap.get_tabulateFrom]

/-- Reading after writing a range. -/
theorem SMap.get_setRange [DecidableEq α] (d : α) (m : SMap α) (lo n : Nat) (f : Nat → α) (i : Nat) :
    SMap.get d (SMap.setRange d m lo n f) i = if lo ≤ i ∧ i < lo + n then f i else SMap.get d m i := by
  unfold SMap.setRange
  by_cases h1 : i < lo
  · rw [SMap.get_append_of_not_mem, SMap.get_append_of_not_mem]
    · rw [SMap.get_filter (f := fun k => decide (k < lo))]
      simp only [h1, decide_true, if_true]
      rw [if_neg (by omega)]
    · intro p hp; have := SMap.mem_tabulateFrom n lo p hp; omega
    · intro p hp; have := (List.mem_filter.1 hp).2; simp only [decide_eq_true_eq] at this; omega
  · by_cases h2 : i < lo + n
    · rw [SMap.get_append_of_not_mem, SMap.get_append_lt, SMap.get_tabulateFrom]
      · simp only [show lo ≤ i ∧ i < lo + n from ⟨by omega, h2⟩, and_self, if_true]
      · intro p hp; have := (List.mem_filter.1 hp).2; simp only [decide_eq_true_eq] at this; omega
      · intro p hp; have := (List.mem_filter.1 hp).2; simp only [decide_eq_true_eq] at this; omega
    · rw [SMap.get_append_lt]
      · rw [SMap.get_filter (f := fun k => decide (lo + n ≤ k))]
        simp only [show lo + n ≤ i by omega, decide_true, if_true]
        rw [if_neg (by omega)]
      · intro p hp
        rcases List.mem_append.1 hp with hp | hp
        · have := (List.mem_filter.1 hp).2; simp only [decide_eq_true_eq] at this; omega
        · have := SMap.mem_tabulateFrom n lo p hp; omega

theorem SMap.erase_insertSorted {i : Nat} {v : α} {m : SMap α} (hm : ∀ p ∈ m, p.1 ≠ i) :
    SMap.erase (SMap.insertSorted i v m) i = m := by
  induction m with
  | nil => simp [SMap.insertSorted, SMap.erase]
  | cons p t ih =>
    obtain ⟨k, w⟩ := p
    have hk : k ≠ i := hm (k, w) (by simp)
    have ht : ∀ p ∈ t, p.1 ≠ i := fun p hp => hm p (by simp [hp])
    have he : ∀ t : SMap α, (∀ p ∈ t, p.1 ≠ i) → SMap.erase t i = t := by
      intro t
      induction t with
      | nil => intro _; rfl
      | cons q u iu =>
        intro hq
        simp only [SMap.erase, hq q (by simp), if_false]
        rw [iu fun p hp => hq p (by simp [hp])]
    simp only [SMap.insertSorted]
    split
    · simp only [SMap.erase, if_true, hk, if_false, he t ht]
    · simp only [SMap.erase, hk, if_false, ih ht]

theorem SMap.erase_erase {i : Nat} {m : SMap α} : SMap.erase (SMap.erase m i) i = SMap.erase m i := by
  induction m with
  | nil => rfl
  | cons p t ih =>
    obtain ⟨k, v⟩ := p
    simp only [SMap.erase]
    split
    · exact ih
    · rename_i h; simp only [SMap.erase, h, if_false, ih]

/-- Of two writes at one key the later stands. -/
@[simp] theorem SMap.set_set [DecidableEq α] (d : α) (m : SMap α) (i : Nat) (v w : α) :
    SMap.set d (SMap.set d m i v) i w = SMap.set d m i w := by
  have h : SMap.erase (SMap.set d m i v) i = SMap.erase m i := by
    unfold SMap.set
    split
    · exact SMap.erase_erase
    · exact SMap.erase_insertSorted SMap.erase_keys
  unfold SMap.set
  unfold SMap.set at h
  rw [h]

/-- Canonical maps that read alike are equal. -/
theorem SMap.ext_of_wf {d : α} : ∀ {lo : Nat} {m n : SMap α}, SMap.rising lo m = true → SMap.rising lo n = true →
    (∀ p ∈ m, p.2 ≠ d) → (∀ p ∈ n, p.2 ≠ d) → (∀ i, SMap.get d m i = SMap.get d n i) → m = n := by
  intro lo m
  induction m generalizing lo with
  | nil =>
    intro n _ hn _ vn h
    cases n with
    | nil => rfl
    | cons q t =>
      obtain ⟨k, v⟩ := q
      exact absurd (by simpa [SMap.get] using (h k).symm) (vn (k, v) (by simp))
  | cons p t ih =>
    obtain ⟨k, v⟩ := p
    intro n hm hn vm vn h
    cases n with
    | nil => exact absurd (by simpa [SMap.get] using h k) (vm (k, v) (by simp))
    | cons q u =>
      obtain ⟨k', v'⟩ := q
      simp only [SMap.rising, Bool.and_eq_true, decide_eq_true_eq] at hm hn
      have hv : v ≠ d := vm (k, v) (by simp)
      have hv' : v' ≠ d := vn (k', v') (by simp)
      have hkk : k = k' := by
        rcases lt_trichotomy k k' with hlt | rfl | hlt
        · have := h k
          simp only [SMap.get, if_true, show ¬k' = k by omega, if_false] at this
          rw [SMap.get_of_rising hn.2 (by omega)] at this
          exact absurd this hv
        · rfl
        · have := h k'
          simp only [SMap.get, if_true, show ¬k = k' by omega, if_false] at this
          rw [SMap.get_of_rising hm.2 (by omega)] at this
          exact absurd this.symm hv'
      subst hkk
      have hvv : v = v' := by simpa [SMap.get] using h k
      subst hvv
      congr 1
      refine ih hm.2 hn.2 (fun p hp => vm p (by simp [hp])) (fun p hp => vn p (by simp [hp])) fun i => ?_
      by_cases hi : i = k
      · subst hi; rw [SMap.get_of_rising hm.2 (by omega), SMap.get_of_rising hn.2 (by omega)]
      · simpa [SMap.get, Ne.symm hi] using h i

end Sys2Proof.Machine
end

