-- ==== Sys2Proof/Laws/State.lean ====
section
/-! SUPPORT. Laws of the accessors: what each update of the state writes and what it leaves. -/

namespace Sys2Proof.Machine

/-! ### Writing a context or a core -/

@[simp] theorem State.setCtx_powered (s : State) (k : Nat) (x : Ctx) : (s.setCtx k x).powered = s.powered := rfl
@[simp] theorem State.setCtx_timeNs (s : State) (k : Nat) (x : Ctx) : (s.setCtx k x).timeNs = s.timeNs := rfl
@[simp] theorem State.setCtx_mem (s : State) (k : Nat) (x : Ctx) : (s.setCtx k x).mem = s.mem := rfl
@[simp] theorem State.setCtx_tags (s : State) (k : Nat) (x : Ctx) : (s.setCtx k x).tags = s.tags := rfl
@[simp] theorem State.setCtx_blocks (s : State) (k : Nat) (x : Ctx) : (s.setCtx k x).blocks = s.blocks := rfl
@[simp] theorem State.setCtx_hostOwned (s : State) (k : Nat) (x : Ctx) : (s.setCtx k x).hostOwned = s.hostOwned := rfl
@[simp] theorem State.setCtx_tlb (s : State) (k : Nat) (x : Ctx) : (s.setCtx k x).tlb = s.tlb := rfl
@[simp] theorem State.setCtx_pageReqs (s : State) (k : Nat) (x : Ctx) : (s.setCtx k x).pageReqs = s.pageReqs := rfl
@[simp] theorem State.setCtx_priEnable (s : State) (k : Nat) (x : Ctx) : (s.setCtx k x).priEnable = s.priEnable := rfl
@[simp] theorem State.setCtx_priFailed (s : State) (k : Nat) (x : Ctx) : (s.setCtx k x).priFailed = s.priFailed := rfl
@[simp] theorem State.setCtx_retired (s : State) (k : Nat) (x : Ctx) : (s.setCtx k x).retired = s.retired := rfl
@[simp] theorem State.setCtx_banks (s : State) (k : Nat) (x : Ctx) : (s.setCtx k x).banks = s.banks := rfl
@[simp] theorem State.setCtx_spm (s : State) (k : Nat) (x : Ctx) : (s.setCtx k x).spm = s.spm := rfl
@[simp] theorem State.setCtx_plb (s : State) (k : Nat) (x : Ctx) : (s.setCtx k x).plb = s.plb := rfl
@[simp] theorem State.setCtx_staging (s : State) (k : Nat) (x : Ctx) : (s.setCtx k x).staging = s.staging := rfl
@[simp] theorem State.setCtx_fenceNo (s : State) (k : Nat) (x : Ctx) : (s.setCtx k x).fenceNo = s.fenceNo := rfl
@[simp] theorem State.setCtx_lattice (s : State) (k : Nat) (x : Ctx) : (s.setCtx k x).lattice = s.lattice := rfl
@[simp] theorem State.setCtx_creel (s : State) (k : Nat) (x : Ctx) : (s.setCtx k x).creel = s.creel := rfl
@[simp] theorem State.setCtx_ports (s : State) (k : Nat) (x : Ctx) : (s.setCtx k x).ports = s.ports := rfl
@[simp] theorem State.setCtx_tasks (s : State) (k : Nat) (x : Ctx) : (s.setCtx k x).tasks = s.tasks := rfl
@[simp] theorem State.setCtx_hanks (s : State) (k : Nat) (x : Ctx) : (s.setCtx k x).hanks = s.hanks := rfl
@[simp] theorem State.setCtx_admitNo (s : State) (k : Nat) (x : Ctx) : (s.setCtx k x).admitNo = s.admitNo := rfl
@[simp] theorem State.setCtx_dispNo (s : State) (k : Nat) (x : Ctx) : (s.setCtx k x).dispNo = s.dispNo := rfl
@[simp] theorem State.setCtx_turnOf (s : State) (k : Nat) (x : Ctx) : (s.setCtx k x).turnOf = s.turnOf := rfl
@[simp] theorem State.setCtx_predictor (s : State) (k : Nat) (x : Ctx) : (s.setCtx k x).predictor = s.predictor := rfl
@[simp] theorem State.setCtx_sup (s : State) (k : Nat) (x : Ctx) : (s.setCtx k x).sup = s.sup := rfl
@[simp] theorem State.setCtx_framesUsed (s : State) (k : Nat) (x : Ctx) : (s.setCtx k x).framesUsed = s.framesUsed := rfl
@[simp] theorem State.setCtx_recJobs (s : State) (k : Nat) (x : Ctx) : (s.setCtx k x).recJobs = s.recJobs := rfl
@[simp] theorem State.setCtx_expJobs (s : State) (k : Nat) (x : Ctx) : (s.setCtx k x).expJobs = s.expJobs := rfl
@[simp] theorem State.setCtx_decJobs (s : State) (k : Nat) (x : Ctx) : (s.setCtx k x).decJobs = s.decJobs := rfl
@[simp] theorem State.setCtx_keys (s : State) (k : Nat) (x : Ctx) : (s.setCtx k x).keys = s.keys := rfl
@[simp] theorem State.setCtx_ranges (s : State) (k : Nat) (x : Ctx) : (s.setCtx k x).ranges = s.ranges := rfl
@[simp] theorem State.setCtx_deny (s : State) (k : Nat) (x : Ctx) : (s.setCtx k x).deny = s.deny := rfl
@[simp] theorem State.setCtx_replays (s : State) (k : Nat) (x : Ctx) : (s.setCtx k x).replays = s.replays := rfl
@[simp] theorem State.setCtx_distaffRestarts (s : State) (k : Nat) (x : Ctx) : (s.setCtx k x).distaffRestarts = s.distaffRestarts := rfl
@[simp] theorem State.setCtx_distaffServed (s : State) (k : Nat) (x : Ctx) : (s.setCtx k x).distaffServed = s.distaffServed := rfl
@[simp] theorem State.setCtx_dieLim (s : State) (k : Nat) (x : Ctx) : (s.setCtx k x).dieLim = s.dieLim := rfl
@[simp] theorem State.setCtx_dieTemps (s : State) (k : Nat) (x : Ctx) : (s.setCtx k x).dieTemps = s.dieTemps := rfl
@[simp] theorem State.setCtx_limitSince (s : State) (k : Nat) (x : Ctx) : (s.setCtx k x).limitSince = s.limitSince := rfl
@[simp] theorem State.setCtx_coolSince (s : State) (k : Nat) (x : Ctx) : (s.setCtx k x).coolSince = s.coolSince := rfl
@[simp] theorem State.setCtx_hotStacks (s : State) (k : Nat) (x : Ctx) : (s.setCtx k x).hotStacks = s.hotStacks := rfl
@[simp] theorem State.setCtx_overshoot (s : State) (k : Nat) (x : Ctx) : (s.setCtx k x).overshoot = s.overshoot := rfl
@[simp] theorem State.setCtx_parkSince (s : State) (k : Nat) (x : Ctx) : (s.setCtx k x).parkSince = s.parkSince := rfl
@[simp] theorem State.setCtx_cur (s : State) (k : Nat) (x : Ctx) : (s.setCtx k x).cur = s.cur := rfl
@[simp] theorem State.setCtx_turns (s : State) (k : Nat) (x : Ctx) : (s.setCtx k x).turns = s.turns := rfl
@[simp] theorem State.setCtx_stepNo (s : State) (k : Nat) (x : Ctx) : (s.setCtx k x).stepNo = s.stepNo := rfl
@[simp] theorem State.setCtx_extPoison (s : State) (k : Nat) (x : Ctx) : (s.setCtx k x).extPoison = s.extPoison := rfl
@[simp] theorem State.setCtx_physWaits (s : State) (k : Nat) (x : Ctx) : (s.setCtx k x).physWaits = s.physWaits := rfl
@[simp] theorem State.setCtx_l1 (s : State) (k : Nat) (x : Ctx) : (s.setCtx k x).l1 = s.l1 := rfl
@[simp] theorem State.setCtx_l2 (s : State) (k : Nat) (x : Ctx) : (s.setCtx k x).l2 = s.l2 := rfl
@[simp] theorem State.setCtx_walkCache (s : State) (k : Nat) (x : Ctx) : (s.setCtx k x).walkCache = s.walkCache := rfl
@[simp] theorem State.setCtx_moves (s : State) (k : Nat) (x : Ctx) : (s.setCtx k x).moves = s.moves := rfl
@[simp] theorem State.setCtx_answers (s : State) (k : Nat) (x : Ctx) : (s.setCtx k x).answers = s.answers := rfl
@[simp] theorem State.setCtx_snoops (s : State) (k : Nat) (x : Ctx) : (s.setCtx k x).snoops = s.snoops := rfl
@[simp] theorem State.setCore_powered (s : State) (n : Nat) (x : SupCore) : (s.setCore n x).powered = s.powered := rfl
@[simp] theorem State.setCore_timeNs (s : State) (n : Nat) (x : SupCore) : (s.setCore n x).timeNs = s.timeNs := rfl
@[simp] theorem State.setCore_mem (s : State) (n : Nat) (x : SupCore) : (s.setCore n x).mem = s.mem := rfl
@[simp] theorem State.setCore_tags (s : State) (n : Nat) (x : SupCore) : (s.setCore n x).tags = s.tags := rfl
@[simp] theorem State.setCore_blocks (s : State) (n : Nat) (x : SupCore) : (s.setCore n x).blocks = s.blocks := rfl
@[simp] theorem State.setCore_hostOwned (s : State) (n : Nat) (x : SupCore) : (s.setCore n x).hostOwned = s.hostOwned := rfl
@[simp] theorem State.setCore_tlb (s : State) (n : Nat) (x : SupCore) : (s.setCore n x).tlb = s.tlb := rfl
@[simp] theorem State.setCore_pageReqs (s : State) (n : Nat) (x : SupCore) : (s.setCore n x).pageReqs = s.pageReqs := rfl
@[simp] theorem State.setCore_priEnable (s : State) (n : Nat) (x : SupCore) : (s.setCore n x).priEnable = s.priEnable := rfl
@[simp] theorem State.setCore_priFailed (s : State) (n : Nat) (x : SupCore) : (s.setCore n x).priFailed = s.priFailed := rfl
@[simp] theorem State.setCore_retired (s : State) (n : Nat) (x : SupCore) : (s.setCore n x).retired = s.retired := rfl
@[simp] theorem State.setCore_banks (s : State) (n : Nat) (x : SupCore) : (s.setCore n x).banks = s.banks := rfl
@[simp] theorem State.setCore_spm (s : State) (n : Nat) (x : SupCore) : (s.setCore n x).spm = s.spm := rfl
@[simp] theorem State.setCore_plb (s : State) (n : Nat) (x : SupCore) : (s.setCore n x).plb = s.plb := rfl
@[simp] theorem State.setCore_staging (s : State) (n : Nat) (x : SupCore) : (s.setCore n x).staging = s.staging := rfl
@[simp] theorem State.setCore_ctxs (s : State) (n : Nat) (x : SupCore) : (s.setCore n x).ctxs = s.ctxs := rfl
@[simp] theorem State.setCore_fenceNo (s : State) (n : Nat) (x : SupCore) : (s.setCore n x).fenceNo = s.fenceNo := rfl
@[simp] theorem State.setCore_lattice (s : State) (n : Nat) (x : SupCore) : (s.setCore n x).lattice = s.lattice := rfl
@[simp] theorem State.setCore_creel (s : State) (n : Nat) (x : SupCore) : (s.setCore n x).creel = s.creel := rfl
@[simp] theorem State.setCore_ports (s : State) (n : Nat) (x : SupCore) : (s.setCore n x).ports = s.ports := rfl
@[simp] theorem State.setCore_tasks (s : State) (n : Nat) (x : SupCore) : (s.setCore n x).tasks = s.tasks := rfl
@[simp] theorem State.setCore_hanks (s : State) (n : Nat) (x : SupCore) : (s.setCore n x).hanks = s.hanks := rfl
@[simp] theorem State.setCore_admitNo (s : State) (n : Nat) (x : SupCore) : (s.setCore n x).admitNo = s.admitNo := rfl
@[simp] theorem State.setCore_dispNo (s : State) (n : Nat) (x : SupCore) : (s.setCore n x).dispNo = s.dispNo := rfl
@[simp] theorem State.setCore_turnOf (s : State) (n : Nat) (x : SupCore) : (s.setCore n x).turnOf = s.turnOf := rfl
@[simp] theorem State.setCore_predictor (s : State) (n : Nat) (x : SupCore) : (s.setCore n x).predictor = s.predictor := rfl
@[simp] theorem State.setCore_framesUsed (s : State) (n : Nat) (x : SupCore) : (s.setCore n x).framesUsed = s.framesUsed := rfl
@[simp] theorem State.setCore_recJobs (s : State) (n : Nat) (x : SupCore) : (s.setCore n x).recJobs = s.recJobs := rfl
@[simp] theorem State.setCore_expJobs (s : State) (n : Nat) (x : SupCore) : (s.setCore n x).expJobs = s.expJobs := rfl
@[simp] theorem State.setCore_decJobs (s : State) (n : Nat) (x : SupCore) : (s.setCore n x).decJobs = s.decJobs := rfl
@[simp] theorem State.setCore_keys (s : State) (n : Nat) (x : SupCore) : (s.setCore n x).keys = s.keys := rfl
@[simp] theorem State.setCore_ranges (s : State) (n : Nat) (x : SupCore) : (s.setCore n x).ranges = s.ranges := rfl
@[simp] theorem State.setCore_deny (s : State) (n : Nat) (x : SupCore) : (s.setCore n x).deny = s.deny := rfl
@[simp] theorem State.setCore_replays (s : State) (n : Nat) (x : SupCore) : (s.setCore n x).replays = s.replays := rfl
@[simp] theorem State.setCore_distaffRestarts (s : State) (n : Nat) (x : SupCore) : (s.setCore n x).distaffRestarts = s.distaffRestarts := rfl
@[simp] theorem State.setCore_distaffServed (s : State) (n : Nat) (x : SupCore) : (s.setCore n x).distaffServed = s.distaffServed := rfl
@[simp] theorem State.setCore_dieLim (s : State) (n : Nat) (x : SupCore) : (s.setCore n x).dieLim = s.dieLim := rfl
@[simp] theorem State.setCore_dieTemps (s : State) (n : Nat) (x : SupCore) : (s.setCore n x).dieTemps = s.dieTemps := rfl
@[simp] theorem State.setCore_limitSince (s : State) (n : Nat) (x : SupCore) : (s.setCore n x).limitSince = s.limitSince := rfl
@[simp] theorem State.setCore_coolSince (s : State) (n : Nat) (x : SupCore) : (s.setCore n x).coolSince = s.coolSince := rfl
@[simp] theorem State.setCore_hotStacks (s : State) (n : Nat) (x : SupCore) : (s.setCore n x).hotStacks = s.hotStacks := rfl
@[simp] theorem State.setCore_overshoot (s : State) (n : Nat) (x : SupCore) : (s.setCore n x).overshoot = s.overshoot := rfl
@[simp] theorem State.setCore_parkSince (s : State) (n : Nat) (x : SupCore) : (s.setCore n x).parkSince = s.parkSince := rfl
@[simp] theorem State.setCore_cur (s : State) (n : Nat) (x : SupCore) : (s.setCore n x).cur = s.cur := rfl
@[simp] theorem State.setCore_turns (s : State) (n : Nat) (x : SupCore) : (s.setCore n x).turns = s.turns := rfl
@[simp] theorem State.setCore_stepNo (s : State) (n : Nat) (x : SupCore) : (s.setCore n x).stepNo = s.stepNo := rfl
@[simp] theorem State.setCore_extPoison (s : State) (n : Nat) (x : SupCore) : (s.setCore n x).extPoison = s.extPoison := rfl
@[simp] theorem State.setCore_physWaits (s : State) (n : Nat) (x : SupCore) : (s.setCore n x).physWaits = s.physWaits := rfl
@[simp] theorem State.setCore_l1 (s : State) (n : Nat) (x : SupCore) : (s.setCore n x).l1 = s.l1 := rfl
@[simp] theorem State.setCore_l2 (s : State) (n : Nat) (x : SupCore) : (s.setCore n x).l2 = s.l2 := rfl
@[simp] theorem State.setCore_walkCache (s : State) (n : Nat) (x : SupCore) : (s.setCore n x).walkCache = s.walkCache := rfl
@[simp] theorem State.setCore_moves (s : State) (n : Nat) (x : SupCore) : (s.setCore n x).moves = s.moves := rfl
@[simp] theorem State.setCore_answers (s : State) (n : Nat) (x : SupCore) : (s.setCore n x).answers = s.answers := rfl
@[simp] theorem State.setCore_snoops (s : State) (n : Nat) (x : SupCore) : (s.setCore n x).snoops = s.snoops := rfl
@[simp] theorem State.modCtx_powered (s : State) (k : Nat) (f : Ctx → Ctx) : (s.modCtx k f).powered = s.powered := rfl
@[simp] theorem State.modCtx_timeNs (s : State) (k : Nat) (f : Ctx → Ctx) : (s.modCtx k f).timeNs = s.timeNs := rfl
@[simp] theorem State.modCtx_mem (s : State) (k : Nat) (f : Ctx → Ctx) : (s.modCtx k f).mem = s.mem := rfl
@[simp] theorem State.modCtx_tags (s : State) (k : Nat) (f : Ctx → Ctx) : (s.modCtx k f).tags = s.tags := rfl
@[simp] theorem State.modCtx_blocks (s : State) (k : Nat) (f : Ctx → Ctx) : (s.modCtx k f).blocks = s.blocks := rfl
@[simp] theorem State.modCtx_hostOwned (s : State) (k : Nat) (f : Ctx → Ctx) : (s.modCtx k f).hostOwned = s.hostOwned := rfl
@[simp] theorem State.modCtx_tlb (s : State) (k : Nat) (f : Ctx → Ctx) : (s.modCtx k f).tlb = s.tlb := rfl
@[simp] theorem State.modCtx_pageReqs (s : State) (k : Nat) (f : Ctx → Ctx) : (s.modCtx k f).pageReqs = s.pageReqs := rfl
@[simp] theorem State.modCtx_priEnable (s : State) (k : Nat) (f : Ctx → Ctx) : (s.modCtx k f).priEnable = s.priEnable := rfl
@[simp] theorem State.modCtx_priFailed (s : State) (k : Nat) (f : Ctx → Ctx) : (s.modCtx k f).priFailed = s.priFailed := rfl
@[simp] theorem State.modCtx_retired (s : State) (k : Nat) (f : Ctx → Ctx) : (s.modCtx k f).retired = s.retired := rfl
@[simp] theorem State.modCtx_banks (s : State) (k : Nat) (f : Ctx → Ctx) : (s.modCtx k f).banks = s.banks := rfl
@[simp] theorem State.modCtx_spm (s : State) (k : Nat) (f : Ctx → Ctx) : (s.modCtx k f).spm = s.spm := rfl
@[simp] theorem State.modCtx_plb (s : State) (k : Nat) (f : Ctx → Ctx) : (s.modCtx k f).plb = s.plb := rfl
@[simp] theorem State.modCtx_staging (s : State) (k : Nat) (f : Ctx → Ctx) : (s.modCtx k f).staging = s.staging := rfl
@[simp] theorem State.modCtx_fenceNo (s : State) (k : Nat) (f : Ctx → Ctx) : (s.modCtx k f).fenceNo = s.fenceNo := rfl
@[simp] theorem State.modCtx_lattice (s : State) (k : Nat) (f : Ctx → Ctx) : (s.modCtx k f).lattice = s.lattice := rfl
@[simp] theorem State.modCtx_creel (s : State) (k : Nat) (f : Ctx → Ctx) : (s.modCtx k f).creel = s.creel := rfl
@[simp] theorem State.modCtx_ports (s : State) (k : Nat) (f : Ctx → Ctx) : (s.modCtx k f).ports = s.ports := rfl
@[simp] theorem State.modCtx_tasks (s : State) (k : Nat) (f : Ctx → Ctx) : (s.modCtx k f).tasks = s.tasks := rfl
@[simp] theorem State.modCtx_hanks (s : State) (k : Nat) (f : Ctx → Ctx) : (s.modCtx k f).hanks = s.hanks := rfl
@[simp] theorem State.modCtx_admitNo (s : State) (k : Nat) (f : Ctx → Ctx) : (s.modCtx k f).admitNo = s.admitNo := rfl
@[simp] theorem State.modCtx_dispNo (s : State) (k : Nat) (f : Ctx → Ctx) : (s.modCtx k f).dispNo = s.dispNo := rfl
@[simp] theorem State.modCtx_turnOf (s : State) (k : Nat) (f : Ctx → Ctx) : (s.modCtx k f).turnOf = s.turnOf := rfl
@[simp] theorem State.modCtx_predictor (s : State) (k : Nat) (f : Ctx → Ctx) : (s.modCtx k f).predictor = s.predictor := rfl
@[simp] theorem State.modCtx_sup (s : State) (k : Nat) (f : Ctx → Ctx) : (s.modCtx k f).sup = s.sup := rfl
@[simp] theorem State.modCtx_framesUsed (s : State) (k : Nat) (f : Ctx → Ctx) : (s.modCtx k f).framesUsed = s.framesUsed := rfl
@[simp] theorem State.modCtx_recJobs (s : State) (k : Nat) (f : Ctx → Ctx) : (s.modCtx k f).recJobs = s.recJobs := rfl
@[simp] theorem State.modCtx_expJobs (s : State) (k : Nat) (f : Ctx → Ctx) : (s.modCtx k f).expJobs = s.expJobs := rfl
@[simp] theorem State.modCtx_decJobs (s : State) (k : Nat) (f : Ctx → Ctx) : (s.modCtx k f).decJobs = s.decJobs := rfl
@[simp] theorem State.modCtx_keys (s : State) (k : Nat) (f : Ctx → Ctx) : (s.modCtx k f).keys = s.keys := rfl
@[simp] theorem State.modCtx_ranges (s : State) (k : Nat) (f : Ctx → Ctx) : (s.modCtx k f).ranges = s.ranges := rfl
@[simp] theorem State.modCtx_deny (s : State) (k : Nat) (f : Ctx → Ctx) : (s.modCtx k f).deny = s.deny := rfl
@[simp] theorem State.modCtx_replays (s : State) (k : Nat) (f : Ctx → Ctx) : (s.modCtx k f).replays = s.replays := rfl
@[simp] theorem State.modCtx_distaffRestarts (s : State) (k : Nat) (f : Ctx → Ctx) : (s.modCtx k f).distaffRestarts = s.distaffRestarts := rfl
@[simp] theorem State.modCtx_distaffServed (s : State) (k : Nat) (f : Ctx → Ctx) : (s.modCtx k f).distaffServed = s.distaffServed := rfl
@[simp] theorem State.modCtx_dieLim (s : State) (k : Nat) (f : Ctx → Ctx) : (s.modCtx k f).dieLim = s.dieLim := rfl
@[simp] theorem State.modCtx_dieTemps (s : State) (k : Nat) (f : Ctx → Ctx) : (s.modCtx k f).dieTemps = s.dieTemps := rfl
@[simp] theorem State.modCtx_limitSince (s : State) (k : Nat) (f : Ctx → Ctx) : (s.modCtx k f).limitSince = s.limitSince := rfl
@[simp] theorem State.modCtx_coolSince (s : State) (k : Nat) (f : Ctx → Ctx) : (s.modCtx k f).coolSince = s.coolSince := rfl
@[simp] theorem State.modCtx_hotStacks (s : State) (k : Nat) (f : Ctx → Ctx) : (s.modCtx k f).hotStacks = s.hotStacks := rfl
@[simp] theorem State.modCtx_overshoot (s : State) (k : Nat) (f : Ctx → Ctx) : (s.modCtx k f).overshoot = s.overshoot := rfl
@[simp] theorem State.modCtx_parkSince (s : State) (k : Nat) (f : Ctx → Ctx) : (s.modCtx k f).parkSince = s.parkSince := rfl
@[simp] theorem State.modCtx_cur (s : State) (k : Nat) (f : Ctx → Ctx) : (s.modCtx k f).cur = s.cur := rfl
@[simp] theorem State.modCtx_turns (s : State) (k : Nat) (f : Ctx → Ctx) : (s.modCtx k f).turns = s.turns := rfl
@[simp] theorem State.modCtx_stepNo (s : State) (k : Nat) (f : Ctx → Ctx) : (s.modCtx k f).stepNo = s.stepNo := rfl
@[simp] theorem State.modCtx_extPoison (s : State) (k : Nat) (f : Ctx → Ctx) : (s.modCtx k f).extPoison = s.extPoison := rfl
@[simp] theorem State.modCtx_physWaits (s : State) (k : Nat) (f : Ctx → Ctx) : (s.modCtx k f).physWaits = s.physWaits := rfl
@[simp] theorem State.modCtx_l1 (s : State) (k : Nat) (f : Ctx → Ctx) : (s.modCtx k f).l1 = s.l1 := rfl
@[simp] theorem State.modCtx_l2 (s : State) (k : Nat) (f : Ctx → Ctx) : (s.modCtx k f).l2 = s.l2 := rfl
@[simp] theorem State.modCtx_walkCache (s : State) (k : Nat) (f : Ctx → Ctx) : (s.modCtx k f).walkCache = s.walkCache := rfl
@[simp] theorem State.modCtx_moves (s : State) (k : Nat) (f : Ctx → Ctx) : (s.modCtx k f).moves = s.moves := rfl
@[simp] theorem State.modCtx_answers (s : State) (k : Nat) (f : Ctx → Ctx) : (s.modCtx k f).answers = s.answers := rfl
@[simp] theorem State.modCtx_snoops (s : State) (k : Nat) (f : Ctx → Ctx) : (s.modCtx k f).snoops = s.snoops := rfl
@[simp] theorem State.modMyCtx_powered (s : State) (f : Ctx → Ctx) : (s.modMyCtx f).powered = s.powered := rfl
@[simp] theorem State.modMyCtx_timeNs (s : State) (f : Ctx → Ctx) : (s.modMyCtx f).timeNs = s.timeNs := rfl
@[simp] theorem State.modMyCtx_mem (s : State) (f : Ctx → Ctx) : (s.modMyCtx f).mem = s.mem := rfl
@[simp] theorem State.modMyCtx_tags (s : State) (f : Ctx → Ctx) : (s.modMyCtx f).tags = s.tags := rfl
@[simp] theorem State.modMyCtx_blocks (s : State) (f : Ctx → Ctx) : (s.modMyCtx f).blocks = s.blocks := rfl
@[simp] theorem State.modMyCtx_hostOwned (s : State) (f : Ctx → Ctx) : (s.modMyCtx f).hostOwned = s.hostOwned := rfl
@[simp] theorem State.modMyCtx_tlb (s : State) (f : Ctx → Ctx) : (s.modMyCtx f).tlb = s.tlb := rfl
@[simp] theorem State.modMyCtx_pageReqs (s : State) (f : Ctx → Ctx) : (s.modMyCtx f).pageReqs = s.pageReqs := rfl
@[simp] theorem State.modMyCtx_priEnable (s : State) (f : Ctx → Ctx) : (s.modMyCtx f).priEnable = s.priEnable := rfl
@[simp] theorem State.modMyCtx_priFailed (s : State) (f : Ctx → Ctx) : (s.modMyCtx f).priFailed = s.priFailed := rfl
@[simp] theorem State.modMyCtx_retired (s : State) (f : Ctx → Ctx) : (s.modMyCtx f).retired = s.retired := rfl
@[simp] theorem State.modMyCtx_banks (s : State) (f : Ctx → Ctx) : (s.modMyCtx f).banks = s.banks := rfl
@[simp] theorem State.modMyCtx_spm (s : State) (f : Ctx → Ctx) : (s.modMyCtx f).spm = s.spm := rfl
@[simp] theorem State.modMyCtx_plb (s : State) (f : Ctx → Ctx) : (s.modMyCtx f).plb = s.plb := rfl
@[simp] theorem State.modMyCtx_staging (s : State) (f : Ctx → Ctx) : (s.modMyCtx f).staging = s.staging := rfl
@[simp] theorem State.modMyCtx_fenceNo (s : State) (f : Ctx → Ctx) : (s.modMyCtx f).fenceNo = s.fenceNo := rfl
@[simp] theorem State.modMyCtx_lattice (s : State) (f : Ctx → Ctx) : (s.modMyCtx f).lattice = s.lattice := rfl
@[simp] theorem State.modMyCtx_creel (s : State) (f : Ctx → Ctx) : (s.modMyCtx f).creel = s.creel := rfl
@[simp] theorem State.modMyCtx_ports (s : State) (f : Ctx → Ctx) : (s.modMyCtx f).ports = s.ports := rfl
@[simp] theorem State.modMyCtx_tasks (s : State) (f : Ctx → Ctx) : (s.modMyCtx f).tasks = s.tasks := rfl
@[simp] theorem State.modMyCtx_hanks (s : State) (f : Ctx → Ctx) : (s.modMyCtx f).hanks = s.hanks := rfl
@[simp] theorem State.modMyCtx_admitNo (s : State) (f : Ctx → Ctx) : (s.modMyCtx f).admitNo = s.admitNo := rfl
@[simp] theorem State.modMyCtx_dispNo (s : State) (f : Ctx → Ctx) : (s.modMyCtx f).dispNo = s.dispNo := rfl
@[simp] theorem State.modMyCtx_turnOf (s : State) (f : Ctx → Ctx) : (s.modMyCtx f).turnOf = s.turnOf := rfl
@[simp] theorem State.modMyCtx_predictor (s : State) (f : Ctx → Ctx) : (s.modMyCtx f).predictor = s.predictor := rfl
@[simp] theorem State.modMyCtx_sup (s : State) (f : Ctx → Ctx) : (s.modMyCtx f).sup = s.sup := rfl
@[simp] theorem State.modMyCtx_framesUsed (s : State) (f : Ctx → Ctx) : (s.modMyCtx f).framesUsed = s.framesUsed := rfl
@[simp] theorem State.modMyCtx_recJobs (s : State) (f : Ctx → Ctx) : (s.modMyCtx f).recJobs = s.recJobs := rfl
@[simp] theorem State.modMyCtx_expJobs (s : State) (f : Ctx → Ctx) : (s.modMyCtx f).expJobs = s.expJobs := rfl
@[simp] theorem State.modMyCtx_decJobs (s : State) (f : Ctx → Ctx) : (s.modMyCtx f).decJobs = s.decJobs := rfl
@[simp] theorem State.modMyCtx_keys (s : State) (f : Ctx → Ctx) : (s.modMyCtx f).keys = s.keys := rfl
@[simp] theorem State.modMyCtx_ranges (s : State) (f : Ctx → Ctx) : (s.modMyCtx f).ranges = s.ranges := rfl
@[simp] theorem State.modMyCtx_deny (s : State) (f : Ctx → Ctx) : (s.modMyCtx f).deny = s.deny := rfl
@[simp] theorem State.modMyCtx_replays (s : State) (f : Ctx → Ctx) : (s.modMyCtx f).replays = s.replays := rfl
@[simp] theorem State.modMyCtx_distaffRestarts (s : State) (f : Ctx → Ctx) : (s.modMyCtx f).distaffRestarts = s.distaffRestarts := rfl
@[simp] theorem State.modMyCtx_distaffServed (s : State) (f : Ctx → Ctx) : (s.modMyCtx f).distaffServed = s.distaffServed := rfl
@[simp] theorem State.modMyCtx_dieLim (s : State) (f : Ctx → Ctx) : (s.modMyCtx f).dieLim = s.dieLim := rfl
@[simp] theorem State.modMyCtx_dieTemps (s : State) (f : Ctx → Ctx) : (s.modMyCtx f).dieTemps = s.dieTemps := rfl
@[simp] theorem State.modMyCtx_limitSince (s : State) (f : Ctx → Ctx) : (s.modMyCtx f).limitSince = s.limitSince := rfl
@[simp] theorem State.modMyCtx_coolSince (s : State) (f : Ctx → Ctx) : (s.modMyCtx f).coolSince = s.coolSince := rfl
@[simp] theorem State.modMyCtx_hotStacks (s : State) (f : Ctx → Ctx) : (s.modMyCtx f).hotStacks = s.hotStacks := rfl
@[simp] theorem State.modMyCtx_overshoot (s : State) (f : Ctx → Ctx) : (s.modMyCtx f).overshoot = s.overshoot := rfl
@[simp] theorem State.modMyCtx_parkSince (s : State) (f : Ctx → Ctx) : (s.modMyCtx f).parkSince = s.parkSince := rfl
@[simp] theorem State.modMyCtx_cur (s : State) (f : Ctx → Ctx) : (s.modMyCtx f).cur = s.cur := rfl
@[simp] theorem State.modMyCtx_turns (s : State) (f : Ctx → Ctx) : (s.modMyCtx f).turns = s.turns := rfl
@[simp] theorem State.modMyCtx_stepNo (s : State) (f : Ctx → Ctx) : (s.modMyCtx f).stepNo = s.stepNo := rfl
@[simp] theorem State.modMyCtx_extPoison (s : State) (f : Ctx → Ctx) : (s.modMyCtx f).extPoison = s.extPoison := rfl
@[simp] theorem State.modMyCtx_physWaits (s : State) (f : Ctx → Ctx) : (s.modMyCtx f).physWaits = s.physWaits := rfl
@[simp] theorem State.modMyCtx_l1 (s : State) (f : Ctx → Ctx) : (s.modMyCtx f).l1 = s.l1 := rfl
@[simp] theorem State.modMyCtx_l2 (s : State) (f : Ctx → Ctx) : (s.modMyCtx f).l2 = s.l2 := rfl
@[simp] theorem State.modMyCtx_walkCache (s : State) (f : Ctx → Ctx) : (s.modMyCtx f).walkCache = s.walkCache := rfl
@[simp] theorem State.modMyCtx_moves (s : State) (f : Ctx → Ctx) : (s.modMyCtx f).moves = s.moves := rfl
@[simp] theorem State.modMyCtx_answers (s : State) (f : Ctx → Ctx) : (s.modMyCtx f).answers = s.answers := rfl
@[simp] theorem State.modMyCtx_snoops (s : State) (f : Ctx → Ctx) : (s.modMyCtx f).snoops = s.snoops := rfl

/-! ### Reading back -/

theorem State.ctx_setCtx (s : State) (k j : Nat) (x : Ctx) : (s.setCtx k x).ctx j = if k = j then x else s.ctx j :=
  SMap.get_set ..
@[simp] theorem State.ctx_setCtx_same (s : State) (k : Nat) (x : Ctx) : (s.setCtx k x).ctx k = x := by simp [ctx_setCtx]
theorem State.ctx_setCtx_ne (s : State) {k j : Nat} (x : Ctx) (h : k ≠ j) : (s.setCtx k x).ctx j = s.ctx j := by
  simp [ctx_setCtx, h]
@[simp] theorem State.ctx_modCtx_same (s : State) (k : Nat) (f : Ctx → Ctx) : (s.modCtx k f).ctx k = f (s.ctx k) := by
  simp [State.modCtx]
theorem State.ctx_modCtx_ne (s : State) {k j : Nat} (f : Ctx → Ctx) (h : k ≠ j) : (s.modCtx k f).ctx j = s.ctx j := by
  simp [State.modCtx, ctx_setCtx, h]
theorem State.core_setCore (s : State) (n j : Nat) (x : SupCore) : (s.setCore n x).core j = if n = j then x else s.core j :=
  SMap.get_set ..
@[simp] theorem State.core_setCore_same (s : State) (n : Nat) (x : SupCore) : (s.setCore n x).core n = x := by simp [core_setCore]
@[simp] theorem State.core_setCtx (s : State) (k n : Nat) (x : Ctx) : (s.setCtx k x).core n = s.core n := rfl
@[simp] theorem State.core_modCtx (s : State) (k n : Nat) (f : Ctx → Ctx) : (s.modCtx k f).core n = s.core n := rfl
@[simp] theorem State.core_modMyCtx (s : State) (n : Nat) (f : Ctx → Ctx) : (s.modMyCtx f).core n = s.core n := rfl
@[simp] theorem State.ctx_setCore (s : State) (k n : Nat) (x : SupCore) : (s.setCore n x).ctx k = s.ctx k := rfl
@[simp] theorem State.slot_modMyCtx (s : State) (f : Ctx → Ctx) : (s.modMyCtx f).slot = s.slot := rfl
@[simp] theorem State.slot_modCtx (s : State) (k : Nat) (f : Ctx → Ctx) : (s.modCtx k f).slot = s.slot := rfl
@[simp] theorem State.isSup_modMyCtx (s : State) (f : Ctx → Ctx) : (s.modMyCtx f).isSup = s.isSup := rfl
@[simp] theorem State.cl_modMyCtx (s : State) (f : Ctx → Ctx) : (s.modMyCtx f).cl = s.cl := rfl
@[simp] theorem State.myCtx_modMyCtx (s : State) (f : Ctx → Ctx) : (s.modMyCtx f).myCtx = f s.myCtx := by
  simp [State.modMyCtx, State.myCtx, State.slot]

theorem State.modMyCtx_modMyCtx (s : State) (f g : Ctx → Ctx) : (s.modMyCtx f).modMyCtx g = s.modMyCtx fun x => g (f x) := by
  simp [State.modMyCtx, State.modCtx, State.setCtx, State.ctx, State.slot]

@[simp] theorem Ctx.cl_setCl_same (x : Ctx) (c : Cl) (y : Cluster) : (x.setCl c y).cl c = y := by cases c <;> rfl
theorem Ctx.cl_setCl_ne (x : Ctx) {c e : Cl} (y : Cluster) (h : c ≠ e) : (x.setCl c y).cl e = x.cl e := by
  cases c <;> cases e <;> first | rfl | exact absurd rfl h
@[simp] theorem Ctx.cl_modCl_same (x : Ctx) (c : Cl) (f : Cluster → Cluster) : (x.modCl c f).cl c = f (x.cl c) := by
  simp [Ctx.modCl]
theorem Ctx.cl_modCl_ne (x : Ctx) {c e : Cl} (f : Cluster → Cluster) (h : c ≠ e) : (x.modCl c f).cl e = x.cl e :=
  Ctx.cl_setCl_ne x _ h

/-! ### The executing cluster -/

/-- The executing cluster after its update. -/
@[simp] theorem State.me_modMe (s : State) (f : Cluster → Cluster) : (s.modMe f).me = f s.me := by
  unfold State.modMe State.me
  cases h : s.cur <;> simp [State.modCluster, State.clusterOf, h]
@[simp] theorem State.cur_modMe (s : State) (f : Cluster → Cluster) : (s.modMe f).cur = s.cur := by
  unfold State.modMe; cases h : s.cur <;> exact h
@[simp] theorem State.slot_modMe (s : State) (f : Cluster → Cluster) : (s.modMe f).slot = s.slot := by simp [State.slot]
@[simp] theorem State.isSup_modMe (s : State) (f : Cluster → Cluster) : (s.modMe f).isSup = s.isSup := by simp [State.isSup]
@[simp] theorem State.cl_modMe (s : State) (f : Cluster → Cluster) : (s.modMe f).cl = s.cl := by simp [State.cl]
theorem State.modMe_modMe (s : State) (f g : Cluster → Cluster) : (s.modMe f).modMe g = s.modMe fun x => g (f x) := by
  unfold State.modMe
  cases h : s.cur with
  | cluster k c =>
    simp only [State.modCluster]
    simp only [State.modCtx, State.setCtx, State.ctx, h, SMap.get_set_same, SMap.set_set]
    cases c <;> rfl
  | sup n => simp [State.modCluster, State.setCore, State.core, h, SMap.set_set]
@[simp] theorem State.modMe_powered (s : State) (f : Cluster → Cluster) : (s.modMe f).powered = s.powered := by
  unfold State.modMe; cases s.cur <;> rfl
@[simp] theorem State.modMe_timeNs (s : State) (f : Cluster → Cluster) : (s.modMe f).timeNs = s.timeNs := by
  unfold State.modMe; cases s.cur <;> rfl
@[simp] theorem State.modMe_mem (s : State) (f : Cluster → Cluster) : (s.modMe f).mem = s.mem := by
  unfold State.modMe; cases s.cur <;> rfl
@[simp] theorem State.modMe_tags (s : State) (f : Cluster → Cluster) : (s.modMe f).tags = s.tags := by
  unfold State.modMe; cases s.cur <;> rfl
@[simp] theorem State.modMe_blocks (s : State) (f : Cluster → Cluster) : (s.modMe f).blocks = s.blocks := by
  unfold State.modMe; cases s.cur <;> rfl
@[simp] theorem State.modMe_hostOwned (s : State) (f : Cluster → Cluster) : (s.modMe f).hostOwned = s.hostOwned := by
  unfold State.modMe; cases s.cur <;> rfl
@[simp] theorem State.modMe_tlb (s : State) (f : Cluster → Cluster) : (s.modMe f).tlb = s.tlb := by
  unfold State.modMe; cases s.cur <;> rfl
@[simp] theorem State.modMe_pageReqs (s : State) (f : Cluster → Cluster) : (s.modMe f).pageReqs = s.pageReqs := by
  unfold State.modMe; cases s.cur <;> rfl
@[simp] theorem State.modMe_priEnable (s : State) (f : Cluster → Cluster) : (s.modMe f).priEnable = s.priEnable := by
  unfold State.modMe; cases s.cur <;> rfl
@[simp] theorem State.modMe_priFailed (s : State) (f : Cluster → Cluster) : (s.modMe f).priFailed = s.priFailed := by
  unfold State.modMe; cases s.cur <;> rfl
@[simp] theorem State.modMe_retired (s : State) (f : Cluster → Cluster) : (s.modMe f).retired = s.retired := by
  unfold State.modMe; cases s.cur <;> rfl
@[simp] theorem State.modMe_banks (s : State) (f : Cluster → Cluster) : (s.modMe f).banks = s.banks := by
  unfold State.modMe; cases s.cur <;> rfl
@[simp] theorem State.modMe_spm (s : State) (f : Cluster → Cluster) : (s.modMe f).spm = s.spm := by
  unfold State.modMe; cases s.cur <;> rfl
@[simp] theorem State.modMe_plb (s : State) (f : Cluster → Cluster) : (s.modMe f).plb = s.plb := by
  unfold State.modMe; cases s.cur <;> rfl
@[simp] theorem State.modMe_staging (s : State) (f : Cluster → Cluster) : (s.modMe f).staging = s.staging := by
  unfold State.modMe; cases s.cur <;> rfl
@[simp] theorem State.modMe_fenceNo (s : State) (f : Cluster → Cluster) : (s.modMe f).fenceNo = s.fenceNo := by
  unfold State.modMe; cases s.cur <;> rfl
@[simp] theorem State.modMe_lattice (s : State) (f : Cluster → Cluster) : (s.modMe f).lattice = s.lattice := by
  unfold State.modMe; cases s.cur <;> rfl
@[simp] theorem State.modMe_creel (s : State) (f : Cluster → Cluster) : (s.modMe f).creel = s.creel := by
  unfold State.modMe; cases s.cur <;> rfl
@[simp] theorem State.modMe_ports (s : State) (f : Cluster → Cluster) : (s.modMe f).ports = s.ports := by
  unfold State.modMe; cases s.cur <;> rfl
@[simp] theorem State.modMe_tasks (s : State) (f : Cluster → Cluster) : (s.modMe f).tasks = s.tasks := by
  unfold State.modMe; cases s.cur <;> rfl
@[simp] theorem State.modMe_hanks (s : State) (f : Cluster → Cluster) : (s.modMe f).hanks = s.hanks := by
  unfold State.modMe; cases s.cur <;> rfl
@[simp] theorem State.modMe_admitNo (s : State) (f : Cluster → Cluster) : (s.modMe f).admitNo = s.admitNo := by
  unfold State.modMe; cases s.cur <;> rfl
@[simp] theorem State.modMe_dispNo (s : State) (f : Cluster → Cluster) : (s.modMe f).dispNo = s.dispNo := by
  unfold State.modMe; cases s.cur <;> rfl
@[simp] theorem State.modMe_turnOf (s : State) (f : Cluster → Cluster) : (s.modMe f).turnOf = s.turnOf := by
  unfold State.modMe; cases s.cur <;> rfl
@[simp] theorem State.modMe_predictor (s : State) (f : Cluster → Cluster) : (s.modMe f).predictor = s.predictor := by
  unfold State.modMe; cases s.cur <;> rfl
@[simp] theorem State.modMe_framesUsed (s : State) (f : Cluster → Cluster) : (s.modMe f).framesUsed = s.framesUsed := by
  unfold State.modMe; cases s.cur <;> rfl
@[simp] theorem State.modMe_recJobs (s : State) (f : Cluster → Cluster) : (s.modMe f).recJobs = s.recJobs := by
  unfold State.modMe; cases s.cur <;> rfl
@[simp] theorem State.modMe_expJobs (s : State) (f : Cluster → Cluster) : (s.modMe f).expJobs = s.expJobs := by
  unfold State.modMe; cases s.cur <;> rfl
@[simp] theorem State.modMe_decJobs (s : State) (f : Cluster → Cluster) : (s.modMe f).decJobs = s.decJobs := by
  unfold State.modMe; cases s.cur <;> rfl
@[simp] theorem State.modMe_keys (s : State) (f : Cluster → Cluster) : (s.modMe f).keys = s.keys := by
  unfold State.modMe; cases s.cur <;> rfl
@[simp] theorem State.modMe_ranges (s : State) (f : Cluster → Cluster) : (s.modMe f).ranges = s.ranges := by
  unfold State.modMe; cases s.cur <;> rfl
@[simp] theorem State.modMe_deny (s : State) (f : Cluster → Cluster) : (s.modMe f).deny = s.deny := by
  unfold State.modMe; cases s.cur <;> rfl
@[simp] theorem State.modMe_replays (s : State) (f : Cluster → Cluster) : (s.modMe f).replays = s.replays := by
  unfold State.modMe; cases s.cur <;> rfl
@[simp] theorem State.modMe_distaffRestarts (s : State) (f : Cluster → Cluster) : (s.modMe f).distaffRestarts = s.distaffRestarts := by
  unfold State.modMe; cases s.cur <;> rfl
@[simp] theorem State.modMe_distaffServed (s : State) (f : Cluster → Cluster) : (s.modMe f).distaffServed = s.distaffServed := by
  unfold State.modMe; cases s.cur <;> rfl
@[simp] theorem State.modMe_dieLim (s : State) (f : Cluster → Cluster) : (s.modMe f).dieLim = s.dieLim := by
  unfold State.modMe; cases s.cur <;> rfl
@[simp] theorem State.modMe_dieTemps (s : State) (f : Cluster → Cluster) : (s.modMe f).dieTemps = s.dieTemps := by
  unfold State.modMe; cases s.cur <;> rfl
@[simp] theorem State.modMe_limitSince (s : State) (f : Cluster → Cluster) : (s.modMe f).limitSince = s.limitSince := by
  unfold State.modMe; cases s.cur <;> rfl
@[simp] theorem State.modMe_coolSince (s : State) (f : Cluster → Cluster) : (s.modMe f).coolSince = s.coolSince := by
  unfold State.modMe; cases s.cur <;> rfl
@[simp] theorem State.modMe_hotStacks (s : State) (f : Cluster → Cluster) : (s.modMe f).hotStacks = s.hotStacks := by
  unfold State.modMe; cases s.cur <;> rfl
@[simp] theorem State.modMe_overshoot (s : State) (f : Cluster → Cluster) : (s.modMe f).overshoot = s.overshoot := by
  unfold State.modMe; cases s.cur <;> rfl
@[simp] theorem State.modMe_parkSince (s : State) (f : Cluster → Cluster) : (s.modMe f).parkSince = s.parkSince := by
  unfold State.modMe; cases s.cur <;> rfl
@[simp] theorem State.modMe_turns (s : State) (f : Cluster → Cluster) : (s.modMe f).turns = s.turns := by
  unfold State.modMe; cases s.cur <;> rfl
@[simp] theorem State.modMe_stepNo (s : State) (f : Cluster → Cluster) : (s.modMe f).stepNo = s.stepNo := by
  unfold State.modMe; cases s.cur <;> rfl
@[simp] theorem State.modMe_extPoison (s : State) (f : Cluster → Cluster) : (s.modMe f).extPoison = s.extPoison := by
  unfold State.modMe; cases s.cur <;> rfl
@[simp] theorem State.modMe_physWaits (s : State) (f : Cluster → Cluster) : (s.modMe f).physWaits = s.physWaits := by
  unfold State.modMe; cases s.cur <;> rfl
@[simp] theorem State.modMe_l1 (s : State) (f : Cluster → Cluster) : (s.modMe f).l1 = s.l1 := by
  unfold State.modMe; cases s.cur <;> rfl
@[simp] theorem State.modMe_l2 (s : State) (f : Cluster → Cluster) : (s.modMe f).l2 = s.l2 := by
  unfold State.modMe; cases s.cur <;> rfl
@[simp] theorem State.modMe_walkCache (s : State) (f : Cluster → Cluster) : (s.modMe f).walkCache = s.walkCache := by
  unfold State.modMe; cases s.cur <;> rfl
@[simp] theorem State.modMe_moves (s : State) (f : Cluster → Cluster) : (s.modMe f).moves = s.moves := by
  unfold State.modMe; cases s.cur <;> rfl
@[simp] theorem State.modMe_answers (s : State) (f : Cluster → Cluster) : (s.modMe f).answers = s.answers := by
  unfold State.modMe; cases s.cur <;> rfl
@[simp] theorem State.modMe_snoops (s : State) (f : Cluster → Cluster) : (s.modMe f).snoops = s.snoops := by
  unfold State.modMe; cases s.cur <;> rfl

/-! ### Scalar registers and predicates -/

@[simp] theorem Cluster.readS_writeS (x : Cluster) (d r : RegF) (v : Word) :
    (x.writeS d v).readS r = if d = r then (if d = 0 then 0 else v) else x.readS r := by
  unfold Cluster.writeS Cluster.readS
  by_cases h : d = 0
  · subst h
    by_cases h2 : (0 : RegF) = r
    · subst h2; rfl
    · rw [if_pos rfl, if_neg h2]
  · rw [if_neg h, if_neg h]
    by_cases h2 : d = r
    · rw [if_pos h2, ← h2, if_neg h, SMap.get_set_same]
    · rw [if_neg h2]
      have : ¬d.toNat = r.toNat := fun e => h2 (BitVec.eq_of_toNat_eq e)
      simp only [SMap.get_set, this, if_false]

end Sys2Proof.Machine
end

