-- ==== Sys2Proof/Laws/Frames.lean ====
section
/-! SUPPORT. What the shared operations of the scalar instructions do, said once. -/

namespace Sys2Proof.Machine

/-! ### Elsewhere -/

theorem Elsewhere.refl (s : State) : Elsewhere s s := ⟨rfl, fun _ _ => rfl, fun _ _ => rfl⟩

theorem Elsewhere.cur {s t : State} (h : Elsewhere s t) : t.cur = s.cur := by rw [h.1]
theorem Elsewhere.slot {s t : State} (h : Elsewhere s t) : t.slot = s.slot := by simp [State.slot, h.cur]
theorem Elsewhere.isSup {s t : State} (h : Elsewhere s t) : t.isSup = s.isSup := by simp [State.isSup, h.cur]
theorem Elsewhere.cl {s t : State} (h : Elsewhere s t) : t.cl = s.cl := by simp [State.cl, h.cur]

theorem Elsewhere.trans {s t u : State} (h : Elsewhere s t) (k : Elsewhere t u) : Elsewhere s u := by
  refine ⟨?_, fun j hj => ?_, fun n hn => ?_⟩
  · have h1 := h.1
    have k1 := k.1
    rw [h1] at k1
    exact k1
  · rw [k.2.1 j (by rw [h.isSup, h.slot]; exact hj), h.2.1 j hj]
  · rw [k.2.2 n (by rw [h.cur]; exact hn), h.2.2 n hn]

/-- An update of the executing cluster stays within its agent. -/
theorem elsewhere_modMe (s : State) (f : Cluster → Cluster) : Elsewhere s (s.modMe f) := by
  unfold State.modMe
  cases h : s.cur with
  | cluster k c =>
    refine ⟨rfl, fun j hj => ?_, fun n _ => rfl⟩
    have hk : k ≠ j := by
      rcases hj with hj | hj
      · simp [State.isSup, agentSlot, h] at hj
      · rw [State.slot, h] at hj; exact fun e => hj e.symm
    exact State.ctx_modCtx_ne s _ hk
  | sup m =>
    refine ⟨rfl, fun j _ => rfl, fun n hn => ?_⟩
    have hm : m ≠ n := fun e => hn (by rw [h, e])
    simp only [State.modCluster, State.core_setCore, hm, if_false]

theorem elsewhere_modMyCtx {s : State} (hs : s.isSup = false) (f : Ctx → Ctx) : Elsewhere s (s.modMyCtx f) := by
  refine ⟨rfl, fun j hj => ?_, fun n _ => rfl⟩
  rcases hj with hj | hj
  · rw [hs] at hj; cases hj
  · exact State.ctx_modCtx_ne s _ (Ne.symm hj)

theorem elsewhere_orFlags (s : State) (f : Flags) : Elsewhere s (s.orFlags f) := by
  unfold State.orFlags
  cases h : s.isSup with
  | true => simp only [if_true]; exact .refl s
  | false => simp only [Bool.false_eq_true, if_false]; exact elsewhere_modMyCtx h _

/-! ### The executing context -/

theorem OthersKept.trans {s t u : State} (e : Elsewhere s t) (h : OthersKept s t) (k : OthersKept t u) : OthersKept s u := by
  refine ⟨fun hs => ?_, fun n hn => ?_⟩
  · obtain ⟨h1, h2⟩ := h.1 hs
    obtain ⟨k1, k2⟩ := k.1 (by rw [e.isSup]; exact hs)
    refine ⟨?_, fun c hc => by rw [k2 c (by rw [e.cl]; exact hc), h2 c hc]⟩
    rw [h1] at k1
    exact k1
  · have h1 := h.2 n hn
    have k1 := k.2 n (by rw [e.cur]; exact hn)
    rw [h1] at k1
    exact k1

theorem State.isSup_of_cluster {s : State} {k : Nat} {c : Cl} (h : s.cur = .cluster k c) : s.isSup = false := by
  simp [State.isSup, agentSlot, h]

theorem State.cluster_of_isSup {s : State} (h : s.isSup = false) : s.cur = .cluster s.slot s.cl := by
  cases hc : s.cur with
  | cluster k c => simp [State.slot, State.cl, agentSlot, hc]
  | sup n => simp [State.isSup, agentSlot, hc] at h

theorem othersKept_modMe (s : State) (f : Cluster → Cluster) : OthersKept s (s.modMe f) := by
  refine ⟨fun hs => ?_, fun n hn => ?_⟩
  · have hc := State.cluster_of_isSup hs
    have hm : s.modMe f = s.modCtx s.slot fun x => x.modCl s.cl f := by
      unfold State.modMe; rw [hc]; rfl
    have hx : (s.modMe f).myCtx = s.myCtx.modCl s.cl f := by
      rw [hm]; simp [State.myCtx]
    rw [hx]
    refine ⟨?_, fun c hc => Ctx.cl_modCl_ne _ f (Ne.symm hc)⟩
    cases s.cl <;> rfl
  · unfold State.modMe
    rw [hn]
    simp [State.modCluster]

theorem othersKept_orFlags (s : State) (f : Flags) : OthersKept s (s.orFlags f) := by
  unfold State.orFlags
  cases h : s.isSup with
  | true =>
    simp only [if_true]
    exact ⟨fun hs => (by rw [h] at hs; cases hs), fun _ _ => rfl⟩
  | false =>
    simp only [Bool.false_eq_true, if_false]
    refine ⟨fun _ => ?_, fun n hn => ?_⟩
    · rw [State.myCtx_modMyCtx]; exact ⟨rfl, fun c _ => by cases c <;> rfl⟩
    · rw [State.isSup, hn] at h; cases h

/-- FLAGS do not belong to a cluster. -/
@[simp] theorem State.me_orFlags (s : State) (f : Flags) : (s.orFlags f).me = s.me := by
  unfold State.orFlags
  cases h : s.isSup with
  | true => rfl
  | false =>
    have hc := State.cluster_of_isSup h
    simp only [Bool.false_eq_true, if_false]
    unfold State.me
    rw [State.modMyCtx_cur, hc]
    simp only [State.clusterOf, State.modMyCtx, State.ctx_modCtx_same]
    cases s.cl <;> rfl
@[simp] theorem State.cur_orFlags (s : State) (f : Flags) : (s.orFlags f).cur = s.cur := by
  unfold State.orFlags; split <;> rfl
@[simp] theorem State.isSup_orFlags (s : State) (f : Flags) : (s.orFlags f).isSup = s.isSup := by simp [State.isSup]
theorem State.flags_orFlags {s : State} (h : s.isSup = false) (f : Flags) :
    (s.orFlags f).myCtx.flags = s.myCtx.flags ||| f := by
  simp [State.orFlags, h]
theorem State.flags_modMe {s : State} (h : s.isSup = false) (f : Cluster → Cluster) : (s.modMe f).myCtx.flags = s.myCtx.flags := by
  have := ((othersKept_modMe s f).1 h).1
  have hc := State.cluster_of_isSup h
  have hm : s.modMe f = s.modCtx s.slot fun x => x.modCl s.cl f := by
    unfold State.modMe; rw [hc]; rfl
  rw [hm]; simp only [State.myCtx, State.slot_modCtx, State.ctx_modCtx_same]
  cases s.cl <;> rfl

/-! ### Completing -/

/-- The position after `len` bytes does not depend on the registers. -/
theorem Cluster.advance_with (x : Cluster) (len : Nat) (m : SMap Word) (g : BitVec 8) (vl : Word) (efc : BitVec 32)
    (p : List Pend) :
    Cluster.advance { x with s := m, g := g, vl := vl, efc := efc, pend := p } len
      = { x.advance len with s := m, g := g, vl := vl, efc := efc, pend := p } := by
  cases h : x.reel with
  | none => simp only [Cluster.advance, h]
  | some r =>
    simp only [Cluster.advance, h]
    split
    · rfl
    · split <;> rfl

theorem Cluster.toMember_with (x : Cluster) (cv : Convoy) (j : Nat) (m : SMap Word) (g : BitVec 8) (vl : Word)
    (efc : BitVec 32) (p : List Pend) :
    Cluster.toMember { x with s := m, g := g, vl := vl, efc := efc, pend := p } cv j
      = { x.toMember cv j with s := m, g := g, vl := vl, efc := efc, pend := p } := by
  have e : Cluster.openMember { x with s := m, g := g, vl := vl, efc := efc, pend := p } cv.members.length j
      = x.openMember cv.members.length j := rfl
  by_cases hk : x.openMember cv.members.length j < cv.members.length
  · simp only [Cluster.toMember, e, hk, if_true]
  · simp only [Cluster.toMember, e, hk, if_false]
    exact Cluster.advance_with { x with convoy := none, atConvoy := false, start := [] } _ m g vl efc p

/-- The position after an instruction does not depend on the registers, and it leaves them as they are. -/
theorem Cluster.retire_with (x : Cluster) (len : Nat) (m : SMap Word) (g : BitVec 8) (vl : Word) (efc : BitVec 32)
    (p : List Pend) :
    Cluster.retire { x with s := m, g := g, vl := vl, efc := efc, pend := p } len
      = { x.retire len with s := m, g := g, vl := vl, efc := efc, pend := p } := by
  obtain ⟨run, pc, sx, gx, vlx, ex, wait, fe, started, start, ac, convoy, reel, pd, lp, lo, hi, st, late, y⟩ := x
  cases convoy with
  | none => exact Cluster.advance_with ⟨.running, pc, sx, gx, vlx, ex, none, false, 0, [], false, none, reel, pd, lp, 0, none, st, false, y⟩ len m g vl efc p
  | some cv =>
    exact Cluster.toMember_with ⟨.running, pc, sx, gx, vlx, ex, none, false, 0, start.set 0 cv.next 0xFFFF, ac, some cv, reel, pd, lp, 0, none, st, false, y⟩
      cv _ m g vl efc p

theorem Cluster.retire_regs (x : Cluster) (len : Nat) :
    x.retire len = { x.retire len with s := x.s, g := x.g, vl := x.vl, efc := x.efc, pend := x.pend } :=
  Cluster.retire_with x len x.s x.g x.vl x.efc x.pend

@[simp] theorem Cluster.retire_s (x : Cluster) (len : Nat) : (x.retire len).s = x.s := by rw [Cluster.retire_regs]
@[simp] theorem Cluster.retire_g (x : Cluster) (len : Nat) : (x.retire len).g = x.g := by rw [Cluster.retire_regs]
@[simp] theorem Cluster.retire_vl (x : Cluster) (len : Nat) : (x.retire len).vl = x.vl := by rw [Cluster.retire_regs]
@[simp] theorem Cluster.retire_efc (x : Cluster) (len : Nat) : (x.retire len).efc = x.efc := by rw [Cluster.retire_regs]
@[simp] theorem Cluster.retire_pend (x : Cluster) (len : Nat) : (x.retire len).pend = x.pend := by rw [Cluster.retire_regs]

theorem Cluster.advance_state (x : Cluster) (len : Nat) :
    (x.advance len).run = x.run ∧ (x.advance len).wait = x.wait ∧ (x.advance len).yielded = x.yielded := by
  cases h : x.reel with
  | none => simp only [Cluster.advance, h, and_self]
  | some r =>
    simp only [Cluster.advance, h]
    split
    · simp
    · split <;> simp

theorem Cluster.retire_state (x : Cluster) (len : Nat) :
    (x.retire len).run = .running ∧ (x.retire len).wait = none ∧ (x.retire len).yielded = x.yielded := by
  cases h : x.convoy with
  | none => simp only [Cluster.retire, h]; exact Cluster.advance_state _ _
  | some cv =>
    simp only [Cluster.retire, h, Cluster.toMember]
    split
    · exact ⟨rfl, rfl, rfl⟩
    · exact Cluster.advance_state _ _

@[simp] theorem Cluster.retire_run (x : Cluster) (len : Nat) : (x.retire len).run = .running := (x.retire_state len).1
@[simp] theorem Cluster.retire_wait (x : Cluster) (len : Nat) : (x.retire len).wait = none := (x.retire_state len).2.1
@[simp] theorem Cluster.retire_yielded (x : Cluster) (len : Nat) : (x.retire len).yielded = x.yielded := (x.retire_state len).2.2

theorem Cluster.writeS_eq (x : Cluster) (d : RegF) (v : Word) : x.writeS d v = { x with s := (x.writeS d v).s } := by
  unfold Cluster.writeS; split <;> rfl

theorem Cluster.retire_writeS (x : Cluster) (d : RegF) (v : Word) (len : Nat) :
    (x.writeS d v).retire len = { x.retire len with s := (x.writeS d v).s } := by
  rw [Cluster.writeS_eq]
  refine (Cluster.retire_with x len (x.writeS d v).s x.g x.vl x.efc x.pend).trans ?_
  conv_rhs => rw [Cluster.retire_regs]

/-- The executing cluster after a scalar result. -/
theorem State.me_result (s : State) (d : RegF) (v : Word) (fl : Flags) (len : Nat) :
    (s.result d v fl len).me = { s.me.retire len with s := (s.me.writeS d v).s } := by
  unfold State.result State.retire State.writeS
  rw [State.me_modMe, State.me_orFlags, State.me_modMe, Cluster.retire_writeS]

/-- What completing with a scalar result does. -/
theorem State.result_spec (s : State) (d : RegF) (v : Word) (fl : Flags) (len : Nat) :
    ScalarResult s (s.result d v fl len) d v fl len := by
  have e1 : Elsewhere s (s.writeS d v) := elsewhere_modMe s _
  have e2 := elsewhere_orFlags (s.writeS d v) fl
  have e3 : Elsewhere ((s.writeS d v).orFlags fl) (s.result d v fl len) := elsewhere_modMe _ _
  have o1 : OthersKept s (s.writeS d v) := othersKept_modMe s _
  have o2 := othersKept_orFlags (s.writeS d v) fl
  have o3 : OthersKept ((s.writeS d v).orFlags fl) (s.result d v fl len) := othersKept_modMe _ _
  have hme := s.me_result d v fl len
  have hr : ∀ r, (s.result d v fl len).readS r = (s.me.writeS d v).readS r := by
    intro r
    show (s.result d v fl len).me.readS r = _
    rw [hme]; rfl
  refine ⟨(e1.trans e2).trans e3, (o1.trans e1 o2).trans (e1.trans e2) o3, ?_, ?_, ?_, ?_, ?_⟩
  · refine ⟨?_, ?_, ?_, ?_, ?_⟩ <;> rw [hme] <;> simp
  · refine ⟨?_, ?_, ?_, ?_, ?_⟩ <;> rw [hme] <;> simp
  · rw [hr]; simp
  · intro r h; rw [hr]; simp [Ne.symm h, State.readS]
  · intro hs
    have h1 : (s.writeS d v).isSup = false := by rw [State.writeS, State.isSup_modMe, hs]
    have h2 : ((s.writeS d v).orFlags fl).isSup = false := by rw [State.isSup_orFlags, h1]
    rw [State.result, State.retire, State.flags_modMe h2, State.flags_orFlags h1, State.writeS, State.flags_modMe hs]

/-- What completing with a scalar result and no flag does. -/
theorem State.pass_spec (s : State) (d : RegF) (v : Word) (len : Nat) :
    ScalarResult s ((s.writeS d v).retire len) d v 0 len := by
  have e1 : Elsewhere s (s.writeS d v) := elsewhere_modMe s _
  have e3 : Elsewhere (s.writeS d v) ((s.writeS d v).retire len) := elsewhere_modMe _ _
  have o1 : OthersKept s (s.writeS d v) := othersKept_modMe s _
  have o3 : OthersKept (s.writeS d v) ((s.writeS d v).retire len) := othersKept_modMe _ _
  have hme : ((s.writeS d v).retire len).me = { s.me.retire len with s := (s.me.writeS d v).s } := by
    unfold State.retire State.writeS
    rw [State.me_modMe, State.me_modMe, Cluster.retire_writeS]
  have hr : ∀ r, ((s.writeS d v).retire len).readS r = (s.me.writeS d v).readS r := by
    intro r
    show ((s.writeS d v).retire len).me.readS r = _
    rw [hme]; rfl
  refine ⟨e1.trans e3, o1.trans e1 o3, ?_, ?_, ?_, ?_, ?_⟩
  · refine ⟨?_, ?_, ?_, ?_, ?_⟩ <;> rw [hme] <;> simp
  · refine ⟨?_, ?_, ?_, ?_, ?_⟩ <;> rw [hme] <;> simp
  · rw [hr]; simp
  · intro r h; rw [hr]; simp [Ne.symm h, State.readS]
  · intro hs
    have h1 : (s.writeS d v).isSup = false := by rw [State.writeS, State.isSup_modMe, hs]
    rw [State.retire, State.flags_modMe h1, State.writeS, State.flags_modMe hs]
    simp

end Sys2Proof.Machine
end

