-- ==== Sys2Proof/Laws/Comp.lean ====
section
/-! SUPPORT. Running a meaning written as a computation: each step's result and state. -/

namespace Sys2Proof.Machine

/-- The result of a computation from a state, and the state that it leaves. -/
def Comp.go {α : Type} (c : Comp α) (s : State) : Except Stop α × State := c.run.run s

section
variable {α β : Type} (s : State)

@[simp] theorem Comp.go_pure (a : α) : Comp.go (pure a) s = (.ok a, s) := rfl
@[simp] theorem Comp.go_get : Comp.go (get : Comp State) s = (.ok s, s) := rfl
@[simp] theorem Comp.go_set (t : State) : Comp.go (set t : Comp PUnit) s = (.ok ⟨⟩, t) := rfl
@[simp] theorem Comp.go_throw (x : Stop) : Comp.go (throw x : Comp α) s = (.error x, s) := rfl
@[simp] theorem Comp.go_update (f : State → State) : Comp.go (update f) s = (.ok (), f s) := rfl
@[simp] theorem Comp.go_deny (d : Deny) : Comp.go (deny d : Comp α) s = (.error d.stop, s) := rfl
@[simp] theorem Comp.go_ofDeny_ok (a : α) : Comp.go (ofDeny (.ok a)) s = (.ok a, s) := rfl
@[simp] theorem Comp.go_ofDeny_error (d : Deny) : Comp.go (ofDeny (.error d) : Comp α) s = (.error d.stop, s) := rfl
@[simp] theorem Comp.go_ofStop_ok (a : α) : Comp.go (ofStop (.ok a)) s = (.ok a, s) := rfl
@[simp] theorem Comp.go_ofStop_error (x : Stop) : Comp.go (ofStop (.error x) : Comp α) s = (.error x, s) := rfl
@[simp] theorem Comp.go_need_true (x : Stop) : Comp.go (need true x) s = (.ok (), s) := rfl
@[simp] theorem Comp.go_need_false (x : Stop) : Comp.go (need false x) s = (.error x, s) := rfl

/-- Sequencing: the second part runs where the first succeeds. -/
theorem Comp.go_bind (c : Comp α) (f : α → Comp β) :
    Comp.go (c >>= f) s = match Comp.go c s with
      | (.ok a, t) => Comp.go (f a) t
      | (.error x, t) => (.error x, t) := by
  show (ExceptT.bind c f) s = _
  simp only [ExceptT.bind, ExceptT.mk, bind, StateT.bind, Comp.go, ExceptT.run, StateT.run]
  rcases h : c s with ⟨r, t⟩
  cases r <;> rfl

/-- Sequencing after a success. -/
theorem Comp.go_bind_ok {c : Comp α} {f : α → Comp β} {a : α} {t : State} {s : State} (h : Comp.go c s = (.ok a, t)) :
    Comp.go (c >>= f) s = Comp.go (f a) t := by rw [Comp.go_bind, h]

/-- Sequencing after a stop. -/
theorem Comp.go_bind_error {c : Comp α} {f : α → Comp β} {x : Stop} {t : State} {s : State} (h : Comp.go c s = (.error x, t)) :
    Comp.go (c >>= f) s = (.error x, t) := by rw [Comp.go_bind, h]
end

/-- A meaning that succeeds. -/
theorem finish_ok {c : Comp Unit} {s t : State} (h : Comp.go c s = (.ok (), t)) : finish c s = .next t := by
  unfold finish; rw [show c.run.run s = _ from h]

/-- A meaning that stops. -/
theorem finish_error {c : Comp Unit} {s t : State} {x : Stop} (h : Comp.go c s = (.error x, t)) :
    finish c s = .next (t.halt x) := by
  unfold finish; rw [show c.run.run s = _ from h]

/-- An instruction whose guard holds. -/
theorem onGuard_true {g : Guard} {len : Nat} {s : State} {f : State → Answer} (h : s.guardTrue g = true) :
    onGuard g len s f = f s := if_pos h

/-- An instruction whose guard is false passes on (R217). -/
theorem onGuard_false {g : Guard} {len : Nat} {s : State} {f : State → Answer} (h : s.guardTrue g = false) :
    onGuard g len s f = .next (s.retire len) := if_neg (by rw [h]; decide)

/-- A meaning under its guard that succeeds. -/
theorem run_ok {g : Guard} {len : Nat} {c : Comp Unit} {s t : State} (h : s.guardTrue g = true)
    (hc : Comp.go c s = (.ok (), t)) : Sys2Proof.Machine.run g len c s = .next (t.retire len) := by
  unfold Sys2Proof.Machine.run
  rw [onGuard_true h]
  exact finish_ok (by rw [Comp.go_bind_ok hc]; rfl)

/-- A meaning under its guard that stops. -/
theorem run_error {g : Guard} {len : Nat} {c : Comp Unit} {s t : State} {x : Stop} (h : s.guardTrue g = true)
    (hc : Comp.go c s = (.error x, t)) : Sys2Proof.Machine.run g len c s = .next (t.halt x) := by
  unfold Sys2Proof.Machine.run
  rw [onGuard_true h]
  exact finish_error (by rw [Comp.go_bind_error hc])

end Sys2Proof.Machine
end

