-- ==== Sys2Proof/Laws/Memory.lean ====
section
/-! SUPPORT. What the shared memory operations do: memory keeps its canonical form, which bytes they write, and that no context is
touched by an access. -/

namespace Sys2Proof.Machine

/-! ### Bytes -/

theorem State.byteAt_setBytes (s : State) (pa : Nat) (l : List Byte) (a : Nat) :
    (s.setBytes pa l).byteAt a = if pa ≤ a ∧ a < pa + l.length then l.getD (a - pa) 0 else s.byteAt a :=
  SMap.get_setList ..

theorem State.putLine_mem (s : State) (pa : Nat) (l : Line) :
    (s.putLine pa l).mem = SMap.setRange 0 s.mem (pa / 128 * 128) 128 fun a => l.bytes.get 0 (a - pa / 128 * 128) := by
  unfold State.putLine State.clearPm
  simp only
  split <;> rfl

/-- A line write replaces the 128 bytes of the line. -/
theorem State.byteAt_putLine (s : State) (pa : Nat) (l : Line) (a : Nat) :
    (s.putLine pa l).byteAt a = if a / 128 = pa / 128 then l.bytes.get 0 (a % 128) else s.byteAt a := by
  unfold State.byteAt
  rw [State.putLine_mem, SMap.get_setRange]
  by_cases h : a / 128 = pa / 128
  · rw [if_pos h, if_pos (by omega), show a - pa / 128 * 128 = a % 128 by omega]
  · rw [if_neg h, if_neg (by omega)]

/-! ### Nothing of an access but memory and the module's own registers changes -/

/-- The state has the contexts, cores, translations' users and scratchpads of another, and the same agent executes. -/
def SameAgents (s t : State) : Prop :=
  t.ctxs = s.ctxs ∧ t.sup = s.sup ∧ t.cur = s.cur ∧ t.plb = s.plb ∧ t.hostOwned = s.hostOwned ∧ t.timeNs = s.timeNs
    ∧ t.stepNo = s.stepNo ∧ t.turns = s.turns ∧ t.powered = s.powered ∧ t.spm = s.spm ∧ t.hanks = s.hanks ∧ t.tasks = s.tasks
    ∧ t.banks = s.banks ∧ t.retired = s.retired ∧ t.lattice = s.lattice ∧ t.deny = s.deny

theorem SameAgents.refl (s : State) : SameAgents s s := by simp [SameAgents]
theorem SameAgents.trans {s t u : State} (h : SameAgents s t) (k : SameAgents t u) : SameAgents s u := by
  simp_all [SameAgents]

theorem sameAgents_modPort (s : State) (n : Nat) (f : Port → Port) : SameAgents s (s.modPort n f) := by
  simp [SameAgents, State.modPort]

theorem sameAgents_reportPort (s : State) (n : Nat) (r : Rec) : SameAgents s (s.reportPort n r) := by
  unfold State.reportPort
  simp only
  split
  · exact .refl s
  · split
    · exact sameAgents_modPort s _ _
    · refine SameAgents.trans ?_ (sameAgents_modPort _ _ _)
      split <;> simp [SameAgents, State.setBytes]

theorem sameAgents_report (s : State) (r : Rec) : SameAgents s (s.report r) :=
  (sameAgents_reportPort s 0 r).trans (sameAgents_reportPort _ 1 r)

theorem sameAgents_setTags (p : Nat) (t : LineTag) (l : List Nat) (s : State) :
    SameAgents s (l.foldl (fun u i => u.setTag (p + 128 * i) t) s) := by
  induction l generalizing s with
  | nil => exact .refl s
  | cons i l ih => exact SameAgents.trans (by simp [SameAgents, State.setTag]) (ih _)

theorem sameAgents_scrub (s : State) (pa : Nat) : SameAgents s (s.scrub pa) := by
  unfold State.scrub State.scrubTier
  simp only
  split
  · split
    · exact SameAgents.trans (by simp [SameAgents, State.setTag]) (sameAgents_report _ _)
    · exact .refl s
  · split
    · exact .refl s
    · split
      · simp [SameAgents]
      · refine SameAgents.trans ?_ (sameAgents_report _ _)
        have h := sameAgents_setTags (pa / 512 * 512) .poisoned (List.range 4)
          { s with creel := { s.creel with hbmce := s.creel.hbmce.set 0 (stackOf pa) (satAdd (s.creel.hbmce.get 0 (stackOf pa)) 48 16) } }
        simpa [SameAgents, State.setBlock] using h
  · exact .refl s

theorem sameAgents_putLine (s : State) (pa : Nat) (l : Line) : SameAgents s (s.putLine pa l) := by
  unfold State.putLine State.clearPm State.setBlock State.setTag
  simp only
  split <;> simp [SameAgents]

theorem sameAgents_setLeafBits (s : State) (a b : Nat) : SameAgents s (s.setLeafBits a b) := by
  unfold State.setLeafBits
  simp only
  split
  · split
    · exact sameAgents_putLine _ _ _
    · exact .refl s
  · simp [SameAgents, State.setBytes]

/-- The tables after a translation has taken effect: A set where it was walked, and D where it sets it (R125). -/
def State.leafed (s : State) (x : Xlate) : State :=
  let s1 := if x.walked then s.setLeafBits x.entry.leaf 0x20 else s
  if x.setD then s1.setLeafBits x.entry.leaf 0x40 else s1

/-- A translation that takes effect writes the leaf's bits, TLBs and walk caches, and nothing else. -/
theorem State.useXlate_eq (s : State) (x : Xlate) :
    s.useXlate x = { s.leafed x with tlb := (s.useXlate x).tlb, walkCache := (s.useXlate x).walkCache } := by
  have hl : (if x.setD then { x.entry with d := true } else x.entry).leaf = x.entry.leaf := by split <;> rfl
  unfold State.useXlate State.leafed
  simp only [hl]
  repeat' split
  all_goals rfl

theorem sameAgents_leafed (s : State) (x : Xlate) : SameAgents s (s.leafed x) := by
  unfold State.leafed
  repeat' split
  all_goals first
    | exact .refl s
    | exact sameAgents_setLeafBits ..
    | exact (sameAgents_setLeafBits ..).trans (sameAgents_setLeafBits ..)

theorem sameAgents_useXlate (s : State) (x : Xlate) : SameAgents s (s.useXlate x) := by
  rw [State.useXlate_eq]; exact sameAgents_leafed s x

theorem sameAgents_putPageLine (s : State) (x : Xlate) (l : Line) : SameAgents s (s.putPageLine x l) := by
  unfold State.putPageLine
  simp only
  repeat' split
  · simp [SameAgents, State.setBytes]
  all_goals exact sameAgents_putLine _ _ _

theorem sameAgents_writeLine (s : State) (slot : Nat) (x : Xlate) (l : Line) : SameAgents s (s.writeLine slot x l) :=
  sameAgents_putPageLine s x l

theorem State.touch_one (s : State) (x : Xlate) :
    s.touch [x] = (s.useXlate { x with setD := false }).scrub (s.readUnit x.pa) := by
  unfold State.touch
  rw [show (([x].map fun y : Xlate => s.readUnit y.pa).eraseDups) = [s.readUnit x.pa] from rfl]
  rfl

/-- What an access does before it reads changes no context (R125, R72). -/
theorem sameAgents_touch (s : State) (x : Xlate) : SameAgents s (s.touch [x]) := by
  rw [State.touch_one]; exact (sameAgents_useXlate s _).trans (sameAgents_scrub _ _)

theorem SameAgents.me {s t : State} (h : SameAgents s t) : t.me = s.me := by
  unfold State.me State.clusterOf State.ctx State.core; rw [h.1, h.2.1, h.2.2.1]
theorem SameAgents.ctx {s t : State} (h : SameAgents s t) (k : Nat) : t.ctx k = s.ctx k := by
  unfold State.ctx; rw [h.1]
theorem SameAgents.core {s t : State} (h : SameAgents s t) (k : Nat) : t.core k = s.core k := by
  unfold State.core; rw [h.2.1]
theorem SameAgents.slot {s t : State} (h : SameAgents s t) : t.slot = s.slot := by unfold State.slot; rw [h.2.2.1]
theorem SameAgents.isSup {s t : State} (h : SameAgents s t) : t.isSup = s.isSup := by unfold State.isSup; rw [h.2.2.1]
theorem SameAgents.cl {s t : State} (h : SameAgents s t) : t.cl = s.cl := by unfold State.cl; rw [h.2.2.1]
theorem SameAgents.myCtx {s t : State} (h : SameAgents s t) : t.myCtx = s.myCtx := by
  unfold State.myCtx; rw [h.slot, h.ctx]

/-! ### An access that leaves no trace, and what the others write -/

theorem State.scrub_clean (s : State) (pa : Nat) (he : (s.blockAt pa).errors = 0) (hp : s.extPoison.get false (pa / 128) = false) :
    s.scrub pa = s := by
  unfold State.scrub State.scrubTier
  simp only [he, hp]
  split <;> rfl

/-- Where HBM4 ends a block ends. -/
theorem State.region_readUnit (s : State) (pa : Nat) (h : s.region pa = .hbm) : s.region (pa / 512 * 512) = .hbm := by
  unfold State.region at *
  by_cases hb : pa < 0x006000000000
  · rw [if_pos (by omega)]
  · rw [if_neg hb] at h
    simp only at h
    repeat' split at h
    all_goals cases h

/-- The read of a clean line leaves no trace. -/
theorem State.scrub_readUnit (s : State) (pa : Nat) (h : s.CleanAt pa) : s.scrub (s.readUnit pa) = s := by
  unfold State.readUnit
  split
  · rename_i hh
    have hr := s.region_readUnit pa (by simpa using hh)
    unfold State.scrub
    rw [hr]
    have : s.blockAt (pa / 512 * 512) = s.blockAt pa := by unfold State.blockAt; congr 1; omega
    simp only [this, h.1]
    rfl
  · have hb : s.blockAt (pa / 128 * 128) = s.blockAt pa := by unfold State.blockAt; congr 1; omega
    exact s.scrub_clean _ (by rw [hb]; exact h.1) (by rw [show pa / 128 * 128 / 128 = pa / 128 by omega]; exact h.2)

theorem State.reportPort_creel (s : State) (n : Nat) (r : Rec) : (s.reportPort n r).creel = s.creel := by
  unfold State.reportPort
  simp only
  repeat' split
  all_goals rfl

theorem setTags_creel (p : Nat) (t : LineTag) (l : List Nat) (s : State) :
    (l.foldl (fun u i => u.setTag (p + 128 * i) t) s).creel = s.creel := by
  induction l generalizing s with
  | nil => rfl
  | cons i l ih => exact (ih _).trans rfl

/-- The check of a block changes no fabric window. -/
theorem State.scrub_fwtab (s : State) (pa : Nat) : (s.scrub pa).creel.fwtab = s.creel.fwtab := by
  unfold State.scrub State.scrubTier State.report
  simp only
  split
  · split
    · rw [State.reportPort_creel, State.reportPort_creel]; rfl
    · rfl
  · split
    · rfl
    · split
      · rfl
      · rw [State.reportPort_creel, State.reportPort_creel]
        show (State.creel ((List.range 4).foldl _ _)).fwtab = _
        rw [setTags_creel]
  · rfl

theorem State.putLine_creel (s : State) (pa : Nat) (l : Line) : (s.putLine pa l).creel = s.creel := by
  unfold State.putLine State.clearPm
  simp only
  split <;> rfl

theorem State.setLeafBits_creel (s : State) (a b : Nat) : (s.setLeafBits a b).creel = s.creel := by
  unfold State.setLeafBits
  simp only
  split
  · split
    · exact State.putLine_creel _ _ _
    · rfl
  · rfl

theorem State.useXlate_creel (s : State) (x : Xlate) : (s.useXlate x).creel = s.creel := by
  rw [State.useXlate_eq]
  show (s.leafed x).creel = _
  unfold State.leafed
  repeat' split
  all_goals first
    | rfl
    | exact State.setLeafBits_creel ..
    | exact (State.setLeafBits_creel ..).trans (State.setLeafBits_creel ..)

/-- Regions depend on the fabric windows alone. -/
theorem State.region_of {s t : State} (h : t.creel.fwtab = s.creel.fwtab) (pa : Nat) : t.region pa = s.region pa := by
  unfold State.region State.fabricOpen; rw [h]

/-- An access changes no region. -/
theorem region_touch (s : State) (x : Xlate) (pa : Nat) : (s.touch [x]).region pa = s.region pa := by
  apply State.region_of
  rw [State.touch_one, State.scrub_fwtab, State.useXlate_creel]

theorem State.useXlate_quiet (s : State) (x : Xlate) (hw : x.walked = false) (hd : x.setD = false) (hu : x.entry.unit = x.unit) :
    s.useXlate x = s := by
  unfold State.useXlate
  simp [hw, hd, hu]

/-- The bytes that a line write by physical address stores. -/
theorem Line.storePhys_get {l m : Line} {off : Nat} {data : List Byte} (h : l.storePhys off data = some m) (i : Nat) :
    m.bytes.get 0 i = if off ≤ i ∧ i < off + data.length then data.getD (i - off) 0 else l.bytes.get 0 i := by
  have put : ∀ b : Line, (b.put off data).bytes.get 0 i
      = if off ≤ i ∧ i < off + data.length then data.getD (i - off) 0 else b.bytes.get 0 i :=
    fun b => SMap.get_setList 0 data b.bytes off i
  unfold Line.storePhys at h
  repeat' split at h
  all_goals first
    | (cases h; exact put _)
    | cases h

theorem lineAt_byte (s : State) (pa i : Nat) (h : i < 128) : (s.lineAt pa).bytes.get 0 i = s.byteAt (pa / 128 * 128 + i) := by
  simp [State.lineAt, h]

/-- Bits set in a leaf entry change its first byte alone. -/
theorem State.setLeafBits_byteAt (s : State) (leaf b a : Nat) (h : a ≠ leaf) : (s.setLeafBits leaf b).byteAt a = s.byteAt a := by
  unfold State.setLeafBits
  simp only
  split
  · split
    · rename_i l hl
      rw [State.byteAt_putLine]
      split
      · rename_i hline
        rw [Line.storePhys_get hl, if_neg (by simp only [leBytes, List.length_cons, List.length_nil]; omega),
          lineAt_byte _ _ _ (by omega)]
        congr 1; omega
      · rfl
    · rfl
  · rw [State.byteAt_setBytes, if_neg]
    simp only [leBytes, List.length_cons, List.length_nil]
    omega

/-- A translation that takes effect writes at most the low byte of its leaf entry. -/
theorem State.useXlate_byteAt (s : State) (x : Xlate) (a : Nat) (h : (x.walked = false ∧ x.setD = false) ∨ a ≠ x.entry.leaf) :
    (s.useXlate x).byteAt a = s.byteAt a := by
  rw [State.useXlate_eq]
  show (s.leafed x).byteAt a = _
  unfold State.leafed
  rcases h with ⟨h1, h2⟩ | h
  · simp only [h1, h2, Bool.false_eq_true, if_false]
  · repeat' split
    all_goals first
      | rfl
      | exact State.setLeafBits_byteAt _ _ _ _ h
      | exact (State.setLeafBits_byteAt _ _ _ _ h).trans (State.setLeafBits_byteAt _ _ _ _ h)

/-- An access through a cached translation to a clean line leaves no trace. -/
theorem State.touch_quiet (s : State) (x : Xlate) (hw : x.walked = false) (hu : x.entry.unit = x.unit) (hc : s.CleanAt x.pa) :
    s.touch [x] = s := by
  rw [State.touch_one, State.useXlate_quiet s { x with setD := false } hw rfl hu, State.scrub_readUnit s _ hc]

theorem State.accessed_quiet {s : State} {slot : Nat} {va : Word} {x : Xlate} (hv : va = BitVec.ofNat 64 x.va) (h : s.Quiet slot x) :
    s.accessed slot va x = s := by
  obtain ⟨ho, hw, -, hu, hc⟩ := h
  unfold State.accessed
  rw [hv, ho]
  exact s.touch_quiet x hw hu hc

/-! ### The canonical form of memory -/

theorem memOk_of_eq {s t : State} (h : t.mem = s.mem) (hs : MemOk s) : MemOk t := by unfold MemOk at *; rw [h]; exact hs

/-- Writing bytes keeps the canonical form. -/
theorem memOk_setBytes {s : State} (h : MemOk s) (pa : Nat) (l : List Byte) : MemOk (s.setBytes pa l) := SMap.wf_setList l h pa

/-- Writing a line keeps the canonical form. -/
theorem memOk_putLine {s : State} (h : MemOk s) (pa : Nat) (l : Line) : MemOk (s.putLine pa l) := by
  unfold MemOk; rw [State.putLine_mem]; exact SMap.wf_setRange h _ _ _

theorem memOk_modPort {s : State} (h : MemOk s) (n : Nat) (f : Port → Port) : MemOk (s.modPort n f) := h

theorem memOk_reportPort {s : State} (h : MemOk s) (n : Nat) (r : Rec) : MemOk (s.reportPort n r) := by
  unfold State.reportPort
  simp only
  split
  · exact h
  · split
    · exact memOk_modPort h _ _
    · refine memOk_modPort ?_ _ _
      split
      · exact memOk_setBytes h _ _
      · exact h

/-- Error records keep the canonical form. -/
theorem memOk_report {s : State} (h : MemOk s) (r : Rec) : MemOk (s.report r) := memOk_reportPort (memOk_reportPort h 0 r) 1 r

theorem setTags_mem (p : Nat) (t : LineTag) (l : List Nat) (s : State) :
    (l.foldl (fun u i => u.setTag (p + 128 * i) t) s).mem = s.mem := by
  induction l generalizing s with
  | nil => rfl
  | cons i l ih => exact (ih _).trans rfl

theorem memOk_setTag {s : State} (h : MemOk s) (pa : Nat) (t : LineTag) : MemOk (s.setTag pa t) := by
  have e : (s.setTag pa t).mem = s.mem := rfl
  exact memOk_of_eq e h

theorem memOk_scrubTier {s : State} (h : MemOk s) (n pa : Nat) : MemOk (s.scrubTier n pa) := by
  unfold State.scrubTier
  split
  · exact memOk_report (memOk_setTag h _ _) _
  · exact h

/-- The check of a block keeps the canonical form. -/
theorem memOk_scrub {s : State} (h : MemOk s) (pa : Nat) : MemOk (s.scrub pa) := by
  unfold State.scrub
  simp only
  split
  · exact memOk_scrubTier h _ _
  · split
    · exact h
    · split
      · exact memOk_of_eq rfl h
      · refine memOk_report ?_ _
        show SMap.wf 0 (SMap.setRange 0 _ _ _ _) = true
        rw [setTags_mem]
        exact SMap.wf_setRange h _ _ _
  · exact h

theorem memOk_setLeafBits {s : State} (h : MemOk s) (a b : Nat) : MemOk (s.setLeafBits a b) := by
  unfold State.setLeafBits
  simp only
  split
  · split
    · exact memOk_putLine h _ _
    · exact h
  · exact memOk_setBytes h _ _

/-- A translation keeps the canonical form. -/
theorem memOk_useXlate {s : State} (h : MemOk s) (x : Xlate) : MemOk (s.useXlate x) := by
  rw [State.useXlate_eq]
  have step : ∀ (c : Bool) (t : State) (a b : Nat), MemOk t → MemOk (if c = true then t.setLeafBits a b else t) := by
    intro c t a b ht; cases c
    · exact ht
    · exact memOk_setLeafBits ht a b
  exact memOk_of_eq (s := s.leafed x) rfl (step _ _ _ _ (step _ _ _ _ h))

theorem memOk_touch {s : State} (h : MemOk s) (x : Xlate) : MemOk (s.touch [x]) := by
  rw [State.touch_one]; exact memOk_scrub (memOk_useXlate h _) _

theorem memOk_putPageLine {s : State} (h : MemOk s) (x : Xlate) (l : Line) : MemOk (s.putPageLine x l) := by
  unfold State.putPageLine
  simp only
  repeat' split
  · exact memOk_setBytes h _ _
  all_goals exact memOk_putLine h _ _

/-- A line written by physical address keeps the canonical form. -/
theorem memOk_physWriteLine {s : State} (h : MemOk s) (src pa : Nat) (l : List Byte) : MemOk (s.physWriteLine src pa l) := by
  unfold State.physWriteLine
  split
  · exact memOk_setBytes h _ _
  · exact h
  · exact h
  · simp only
    split
    · exact memOk_putLine (memOk_scrub h _) _ _
    · exact memOk_report (memOk_scrub h _) _

theorem memOk_physWriteOne {s : State} (h : MemOk s) (src pa : Nat) (l : List Byte) : MemOk (s.physWriteOne src pa l) := by
  unfold State.physWriteOne
  split
  · exact h
  · exact memOk_of_eq (s := s.physWriteLine src pa l) rfl (memOk_physWriteLine h src pa l)

theorem memOk_physWriteAux (src fuel : Nat) : ∀ {s : State} (_ : MemOk s) (pa : Nat) (l : List Byte),
    MemOk (State.physWriteAux src fuel s pa l) := by
  induction fuel with
  | zero => intro s h pa l; exact h
  | succ n ih =>
    intro s h pa l
    cases l with
    | nil => exact h
    | cons b t => exact ih (memOk_physWriteOne h src pa _) _ _

/-- Writing by physical address keeps the canonical form. -/
theorem memOk_physWrite {s : State} (h : MemOk s) (src pa : Nat) (l : List Byte) : MemOk (s.physWrite src pa l) :=
  memOk_physWriteAux src _ h _ l

/-- The writes that waited for a line keep the canonical form. -/
theorem memOk_flushPhys {s : State} (h : MemOk s) (pa : Nat) : MemOk (s.flushPhys pa) := by
  unfold State.flushPhys
  have : ∀ (l : List (Nat × Nat × List Byte)) (t : State), MemOk t →
      MemOk (l.foldl (fun t w => t.physWriteOne w.1 w.2.1 w.2.2) t) := by
    intro l
    induction l with
    | nil => exact fun t ht => ht
    | cons w l ih => exact fun t ht => ih _ (memOk_physWriteOne ht _ _ _)
  exact this _ _ h

end Sys2Proof.Machine
end

