-- ==== Sys2Proof/Laws/Access.lean ====
section
/-! SUPPORT. What a successful access of a context does: its result, and the state that it leaves. -/

namespace Sys2Proof.Machine

/-- An access whose checks before the line pass. -/
theorem openAccess_go {s : State} {slot : Nat} {k : MemKind} {va : Word} {al : Bool} {x : Xlate} (h : s.Admits slot k va al x) :
    Comp.go (openAccess slot k va al) s = (.ok x, s.accessed slot va x) := by
  obtain ⟨ha, hr⟩ := h
  unfold openAccess
  rw [Comp.go_bind_ok (Comp.go_update s _), Comp.go_bind_ok (Comp.go_get _)]
  show Comp.go (do let x ← ofDeny ((s.opened slot va).access slot k va al); _) (s.opened slot va) = _
  have hr' : (s.prewalk (unitOf slot) (s.ctx slot).asd va).reach slot k x = .ok () := hr
  rw [ha, Comp.go_bind_ok (Comp.go_ofDeny_ok _ x), hr', Comp.go_bind_ok (Comp.go_ofDeny_ok _ ()), Comp.go_bind_ok (Comp.go_update _ _)]
  rfl

theorem State.noteZeroed_nil (s : State) (slot : Nat) (pc info : Word) : s.noteZeroed slot pc info [] = s := rfl

/-- Only a line of host memory makes a record of poisoned host data (R431). -/
theorem State.noteOutside_elsewhere (s : State) (slot : Nat) (pc info : Word) (k : MemKind) (x : Xlate)
    (h : (s.region x.pa == .host && s.extPoison.get false (x.pa / 128)) = false) : s.noteOutside slot pc info k [x] = s := by
  unfold State.noteOutside
  simp [h]

/-- A raw read that succeeds, and what its instruction is to note. -/
theorem ctxRead_go {s : State} {slot : Nat} {k : MemKind} {va : Word} {n : Nat} {x : Xlate} {v : Nat} {z : Bool}
    (h : s.Reads slot k va n x v z) :
    let t := s.accessed slot va x
    Comp.go (ctxRead slot k va n) s
      = (.ok (v, if z then [(t.zeroInfo k x, x.va)] else []), t.noteOutside slot t.instrPc (BitVec.ofNat 64 t.cl.code) k [x]) := by
  obtain ⟨ha, hv⟩ := h
  intro t
  unfold ctxRead
  rw [Comp.go_bind_ok (openAccess_go ha), Comp.go_bind_ok (Comp.go_get _)]
  change (if t.region x.pa = .creel then _ else _) at hv
  split at hv
  · rename_i hc
    obtain ⟨rfl, rfl⟩ := hv
    rw [if_pos hc, State.noteOutside_elsewhere]
    · rfl
    · rw [hc]; rfl
  · rename_i hc
    rw [if_neg hc, Comp.go_bind_ok (Comp.go_update _ _)]
    change Comp.go (match (t.seenLine slot x).readRaw x.typed x.par.w x.par.ppol (x.va % 128) n with
      | .error e => deny (lineDeny k x noLate e)
      | .ok (v, z) => pure (v, if z then [(t.zeroInfo k x, x.va)] else [])) _ = _
    rw [hv]
    rfl

/-- A read that succeeds. -/
theorem ctxLoad_go {s : State} {slot : Nat} {k : MemKind} {va : Word} {n : Nat} {x : Xlate} {v : Nat} {z : Bool}
    (h : s.Reads slot k va n x v z) : Comp.go (ctxLoad slot k va n) s = (.ok v, s.afterRead slot k va x z) := by
  unfold ctxLoad noteReads
  rw [Comp.go_bind_ok (ctxRead_go h), Comp.go_bind_ok (Comp.go_update _ _)]
  unfold State.afterRead
  cases z
  · simp only [Bool.false_eq_true, if_false, List.map_nil, State.noteZeroed_nil, Comp.go_pure]
  · simp only [if_true, List.map_cons, List.map_nil, List.headD_cons, Comp.go_pure]

/-- A read on a cluster. -/
theorem load_go {s : State} {slot : Nat} {c : Cl} (hc : s.cur = .cluster slot c) {k : MemKind} {va : Word} {n : Nat} {x : Xlate}
    {v : Nat} {z : Bool} (h : s.Reads slot k va n x v z) : Comp.go (load k va n) s = (.ok v, s.afterRead slot k va x z) := by
  unfold load
  rw [Comp.go_bind_ok (Comp.go_get s)]
  simp only [hc]
  exact ctxLoad_go h

/-- The clusters of two states are the same, and the same agent executes. -/
def SameClusters (s t : State) : Prop := t.cur = s.cur ∧ ∀ a, t.clusterOf a = s.clusterOf a

theorem SameClusters.refl (s : State) : SameClusters s s := ⟨rfl, fun _ => rfl⟩
theorem SameClusters.trans {s t u : State} (h : SameClusters s t) (k : SameClusters t u) : SameClusters s u :=
  ⟨k.1.trans h.1, fun a => (k.2 a).trans (h.2 a)⟩
theorem SameClusters.me {s t : State} (h : SameClusters s t) : t.me = s.me := by unfold State.me; rw [h.1]; exact h.2 _
theorem SameAgents.clusters {s t : State} (h : SameAgents s t) : SameClusters s t :=
  ⟨h.2.2.1, fun a => by cases a <;> simp only [State.clusterOf, h.ctx, h.core]⟩

/-- A context update that leaves its clusters leaves every cluster. -/
theorem sameClusters_modCtx (s : State) (k : Nat) {f : Ctx → Ctx} (hf : ∀ x c, (f x).cl c = x.cl c) :
    SameClusters s (s.modCtx k f) := by
  refine ⟨rfl, fun a => ?_⟩
  cases a with
  | sup n => rfl
  | cluster j c =>
    simp only [State.clusterOf]
    by_cases h : k = j
    · subst h; rw [State.ctx_modCtx_same, hf]
    · rw [State.ctx_modCtx_ne s f h]

theorem sameClusters_foldl {α : Type} {f : State → α → State} (hf : ∀ s a, SameClusters s (f s a)) (l : List α) :
    ∀ s, SameClusters s (l.foldl f s) := by
  induction l with
  | nil => exact fun s => .refl s
  | cons a l ih => exact fun s => (hf s a).trans (ih _)

theorem sameClusters_contained (s : State) (slot : Nat) (r : Rec) : SameClusters s (s.contained slot r) := by
  unfold State.contained
  split
  · exact sameClusters_modCtx s slot fun x c => by cases c <;> rfl
  · exact (sameAgents_report s r).clusters

/-- Recording zero-substituted lines changes no cluster. -/
theorem sameClusters_noteZeroed (s : State) (slot : Nat) (pc info : Word) (l : List Nat) :
    SameClusters s (s.noteZeroed slot pc info l) := by
  unfold State.noteZeroed
  split
  · exact .refl s
  · refine SameClusters.trans (sameClusters_modCtx s slot (f := fun x => { x with flags := x.flags ||| Flags.pzs })
      fun x c => by cases c <;> rfl) (sameClusters_foldl (fun t b => ?_) _ _)
    dsimp only
    split
    · exact .refl t
    · exact (sameClusters_contained t slot _).trans (sameClusters_modCtx _ slot fun x c => by cases c <;> rfl)

/-- Recording poisoned host data changes no cluster. -/
theorem sameClusters_noteOutside (s : State) (slot : Nat) (pc info : Word) (k : MemKind) (xs : List Xlate) :
    SameClusters s (s.noteOutside slot pc info k xs) := by
  unfold State.noteOutside
  exact sameClusters_foldl (fun t x => sameClusters_contained t slot _) _ _

theorem sameAgents_scrubWalk (bob asd va part : Nat) : ∀ (level table : Nat) (s : State),
    SameAgents s (State.scrubWalk s bob asd va part level table) := by
  intro level
  induction level with
  | zero =>
    intro table s
    unfold State.scrubWalk
    extract_lets a s1 e
    have h1 : SameAgents s s1 := by
      show SameAgents s (match s.walkFind bob asd va 0 with | some _ => s | none => s.scrub (s.homeOf a))
      split
      · exact .refl s
      · exact sameAgents_scrub _ _
    clear_value s1 e
    split
    · exact h1
    · split
      · exact h1.trans (sameAgents_scrub _ _)
      · exact h1
  | succ l ih =>
    intro table s
    unfold State.scrubWalk
    extract_lets a s1 e
    have h1 : SameAgents s s1 := by
      show SameAgents s (match s.walkFind bob asd va (l + 1) with | some _ => s | none => s.scrub (s.homeOf a))
      split
      · exact .refl s
      · exact sameAgents_scrub _ _
    clear_value s1 e
    split
    · exact h1
    · split
      · exact h1.trans (sameAgents_scrub _ _)
      · exact h1.trans (ih _ _)

/-- The check of the blocks that a translation reads changes no context. -/
theorem sameAgents_prewalk (s : State) (u : TlbUnit) (asd : Nat) (va : Word) : SameAgents s (s.prewalk u asd va) := by
  unfold State.prewalk
  simp only
  split
  · exact .refl s
  · split
    · exact (sameAgents_scrub s _).trans (sameAgents_scrub _ _)
    · exact (sameAgents_scrub s _).trans (sameAgents_scrubWalk ..)

theorem sameAgents_opened (s : State) (slot : Nat) (va : Word) : SameAgents s (s.opened slot va) := sameAgents_prewalk ..

/-- What an access does before it meets its line changes no context. -/
theorem sameAgents_accessed (s : State) (slot : Nat) (va : Word) (x : Xlate) : SameAgents s (s.accessed slot va x) :=
  (sameAgents_opened s slot va).trans (sameAgents_touch _ x)

/-- A raw read changes no cluster. -/
theorem sameClusters_afterRead (s : State) (slot : Nat) (k : MemKind) (va : Word) (x : Xlate) (z : Bool) :
    SameClusters s (s.afterRead slot k va x z) :=
  ((sameAgents_accessed s slot va x).clusters.trans (sameClusters_noteOutside ..)).trans (sameClusters_noteZeroed ..)

/-- A raw read through a cached translation of a clean line that is not POISON leaves no trace. -/
theorem State.afterRead_quiet {s : State} {slot : Nat} {k : MemKind} {va : Word} {x : Xlate} (hv : va = BitVec.ofNat 64 x.va)
    (h : s.Quiet slot x) : s.afterRead slot k va x false = s := by
  unfold State.afterRead
  simp only [State.accessed_quiet hv h, Bool.false_eq_true, if_false, State.noteZeroed_nil]
  exact s.noteOutside_elsewhere _ _ _ _ _ (by rw [h.2.2.2.2.2]; simp)

/-! ### Stores -/

theorem leBytes_length (n v : Nat) : (leBytes n v).length = n := by
  induction n generalizing v with
  | zero => rfl
  | succ n ih => simp [leBytes, ih]

/-- The state after a raw write: the line goes to memory, or to the Provisional Line Buffer. -/
theorem ctxStore_go {s : State} {slot : Nat} {k : MemKind} {va : Word} {n v : Nat} {x : Xlate}
    (h : s.Writes slot k va (leBytes n v) x) : ∃ l z u,
      ((s.accessed slot va x).seenLine slot x).storeRaw x.typed x.par.w x.par.ppol x.par.expf (x.va % 128) (leBytes n v) = .ok (l, z)
      ∧ (s.accessed slot va x).commitLine slot x l (rawMask (x.va % 128) n) = .ok u
      ∧ Comp.go (ctxStore slot k va n v) s = (.ok (), (u.useXlate { x with walked := false }).modCtx slot fun c =>
          { c with flags := c.flags ||| Flags.when z Flags.pzs }) := by
  obtain ⟨ha, hlate, hc, ⟨l, z, hl, hp⟩, hroom⟩ := h
  rw [leBytes_length] at ha
  have hs := sameAgents_accessed s slot va x
  generalize ht : s.accessed slot va x = t at *
  obtain ⟨u, hu⟩ : ∃ u, t.commitLine slot x l (rawMask (x.va % 128) n) = .ok u := by
    have hpe : t.plbEntry slot x.va = s.plbEntry slot x.va := by
      unfold State.plbEntry; rw [hs.ctx, hs.2.2.2.1]
    unfold State.commitLine
    simp only [hs.ctx, hpe, hs.2.2.2.1]
    split
    · rename_i task wid hprov hhank
      split
      · exact ⟨_, rfl⟩
      · rename_i hnone
        rw [if_neg]
        · exact ⟨_, rfl⟩
        · rcases hroom with h | h | h | h
          · rw [h] at hprov; cases hprov
          · rw [h] at hhank; cases hhank
          · rw [hnone] at h; cases h
          · omega
    · split <;> exact ⟨_, rfl⟩
  refine ⟨l, z, u, hl, hu, ?_⟩
  unfold ctxStore
  rw [Comp.go_bind_ok (openAccess_go ha), ht, Comp.go_bind_ok (Comp.go_get _), if_neg hc]
  simp only [hl, hp, Bool.false_eq_true, if_false]
  rw [hu]
  rfl

/-- A translation is of the address that was asked for. -/
theorem xlate_va {s : State} {u : TlbUnit} {asd : Nat} {prov : Bool} {k : MemKind} {va : Word} {x : Xlate}
    (h : s.xlate u asd prov k va = .ok x) : x.va = va.toNat := by
  unfold State.xlate at h
  simp only at h
  repeat' split at h
  all_goals first
    | (cases h; rfl)
    | cases h

/-- An access that succeeds is aligned. -/
theorem access_ok {s : State} {slot : Nat} {k : MemKind} {va : Word} {al : Bool} {x : Xlate}
    (h : s.access slot k va al = .ok x) : al = true ∧ x.va = va.toNat := by
  unfold State.access at h
  simp only at h
  split at h
  · cases h
  · cases h
  · exact ⟨rfl, xlate_va h⟩

/-- The bytes of a line after a raw store (R68, R258). -/
theorem storeRaw_bytes {l m : Line} {typed : Bool} {w : Nat} {ppol : Bool} {expf : Fmt} {off : Nat} {data : List Byte} {z : Bool}
    (h : l.storeRaw typed w ppol expf off data = .ok (m, z)) (i : Nat) :
    m.bytes.get 0 i = if off ≤ i ∧ i < off + data.length then data.getD (i - off) 0
      else if l.tag.cls typed w = .valid then l.bytes.get 0 i else 0 := by
  have put : ∀ b : Line, (b.put off data).bytes.get 0 i
      = if off ≤ i ∧ i < off + data.length then data.getD (i - off) 0 else b.bytes.get 0 i :=
    fun b => SMap.get_setList 0 data b.bytes off i
  unfold Line.storeRaw at h
  cases hc : l.tag.cls typed w <;> rw [hc] at h <;> simp only at h
  · cases h; rw [put]; simp
  · cases h; rw [put]; simp [SMap.get]
  · cases h; rw [put]; simp [SMap.get]
  · cases h
  · split at h
    · cases h; rw [put]; simp [SMap.get]
    · cases h
  · cases h

/-- A page that is not folded shows the stored bytes of its line. -/
theorem pageLine_bytes (s : State) (x : Xlate) (h : x.typed = false ∨ x.entry.folded = false) :
    (s.pageLine x).bytes = (s.lineAt x.pa).bytes := by
  unfold State.pageLine
  simp only
  split
  · rfl
  · rename_i ht
    have : (!x.entry.folded) = true := by
      rcases h with h | h
      · exact absurd (by simpa [Xlate.typed] using h) (by simpa using ht)
      · simp [h]
    rw [if_pos this]

/-- Memory after a page's line has been written, where the page is not folded. -/
theorem putPageLine_byteAt (s : State) (x : Xlate) (l : Line) (h : x.typed = false ∨ x.entry.folded = false) (a : Nat) :
    (s.putPageLine x l).byteAt a = if a / 128 = x.pa / 128 then l.bytes.get 0 (a % 128) else s.byteAt a := by
  unfold State.putPageLine
  simp only
  split
  · have hlen : ∀ (m : SMap Byte) (i n : Nat), (m.getList 0 i n).length = n := by
      intro m i n
      induction n generalizing i with
      | zero => rfl
      | succ n ih => simp only [SMap.getList, List.length_cons]; rw [ih]
    have hget : ∀ (m : SMap Byte) (n i j : Nat), j < n → (m.getList 0 i n).getD j 0 = m.get 0 (i + j) := by
      intro m n
      induction n with
      | zero => intro i j hj; omega
      | succ n ih =>
        intro i j hj
        cases j with
        | zero => simp [SMap.getList]
        | succ j => simp only [SMap.getList, List.getD_cons_succ]; rw [ih (i + 1) j (by omega)]; congr 1; omega
    show (s.setBytes (x.pa / 128 * 128) (l.bytes.getList 0 0 128)).byteAt a = _
    rw [State.byteAt_setBytes, hlen]
    by_cases hl : a / 128 = x.pa / 128
    · rw [if_pos hl, if_pos (by omega), hget _ _ _ _ (by omega)]; congr 1; omega
    · rw [if_neg hl, if_neg (by omega)]
  · split
    · rw [State.byteAt_putLine]
    · rename_i ht
      have : (!x.entry.folded) = true := by
        rcases h with h | h
        · exact absurd (by simpa [Xlate.typed] using h) (by simpa using ht)
        · simp [h]
      rw [if_pos this, State.byteAt_putLine]

theorem State.byteAt_cacheWrite (s : State) (sp l a : Nat) : (s.cacheWrite sp l).byteAt a = s.byteAt a := rfl

/-- A line of a context that is written to memory stands there, and no other byte changes. -/
theorem writeLine_byteAt (s : State) (slot : Nat) (x : Xlate) (l : Line) (h : x.typed = false ∨ x.entry.folded = false) (a : Nat) :
    (s.writeLine slot x l).byteAt a = if a / 128 = x.pa / 128 then l.bytes.get 0 (a % 128) else s.byteAt a :=
  putPageLine_byteAt s x l h a

/-- A write on a cluster. -/
theorem store_go {s : State} {slot : Nat} {c : Cl} (hc : s.cur = .cluster slot c) (k : MemKind) (va : Word) (n v : Nat) :
    Comp.go (store k va n v) s = Comp.go (ctxStore slot k va n v) s := by
  unfold store
  rw [Comp.go_bind_ok (Comp.go_get s)]
  simp only [hc]

/-- A context whose hank is not provisional sees memory itself (R157). -/
theorem seenLine_of_confirmed {s : State} {slot x} (h : (s.ctx slot).provisional = false) : s.seenLine slot x = s.pageLine x := by
  unfold State.seenLine; simp [h]

/-- What a raw store leaves of memory, from what it stored into the line: `s` is the state in which the access meets its line. -/
theorem memoryAfterStore_of {s : State} {slot : Nat} {x : Xlate} {data : List Byte}
    (hp : (s.ctx slot).provisional = false) (hoff : x.va % 128 + data.length ≤ 128)
    {l : Line} {z : Bool} (hl : (s.seenLine slot x).storeRaw x.typed x.par.w x.par.ppol x.par.expf (x.va % 128) data = .ok (l, z))
    {t : State} (ht : ∀ a, (x.setD = false ∨ a ≠ x.entry.leaf) → t.byteAt a = (s.writeLine slot x l).byteAt a) :
    MemoryAfterStore s t slot x data := by
  intro hpl a hleaf
  rw [ht a hleaf, writeLine_byteAt _ _ _ _ hpl]
  rw [seenLine_of_confirmed hp] at hl ⊢
  by_cases hli : a / 128 = x.pa / 128
  · rw [if_pos hli, storeRaw_bytes hl]
    have hiff : (x.pa / 128 * 128 + x.va % 128 ≤ a ∧ a < x.pa / 128 * 128 + x.va % 128 + data.length)
        ↔ (x.va % 128 ≤ a % 128 ∧ a % 128 < x.va % 128 + data.length) := by omega
    by_cases hin : x.va % 128 ≤ a % 128 ∧ a % 128 < x.va % 128 + data.length
    · rw [if_pos hin, if_pos (hiff.2 hin)]; congr 1; omega
    · rw [if_neg hin, if_neg (fun h => hin (hiff.1 h))]
      by_cases hc : (s.pageLine x).tag.cls x.typed x.par.w = .valid
      · rw [if_pos hc, if_neg (by simp [hc]), pageLine_bytes _ _ hpl, lineAt_byte _ _ _ (by omega)]
        congr 1; omega
      · rw [if_neg hc, if_pos ⟨hli, hc⟩]
  · have hnin : ¬(x.pa / 128 * 128 + x.va % 128 ≤ a ∧ a < x.pa / 128 * 128 + x.va % 128 + data.length) := by omega
    rw [if_neg hli, if_neg hnin, if_neg (by simp [hli])]

/-- Writing a line changes no context where the store is performed at once. -/
theorem commitLine_agents {s : State} {slot : Nat} {x : Xlate} {l : Line} {m : MaskUpdate} {u : State} (hlate : s.storesLate slot x = false)
    (h : s.commitLine slot x l m = .ok u) : u.ctxs = s.ctxs ∧ u.sup = s.sup ∧ u.cur = s.cur := by
  unfold State.commitLine at h
  simp only [hlate] at h
  split at h
  · split at h
    · cases h; exact ⟨rfl, rfl, rfl⟩
    · split at h
      · cases h
      · cases h; exact ⟨rfl, rfl, rfl⟩
  · cases h
    have := sameAgents_writeLine s slot x l
    exact ⟨this.1, this.2.1, this.2.2.1⟩

/-- A completed access changes no register but the position and FLAGS. -/
theorem onlyCompleted_of {s u : State} {slot c} (hc : s.cur = .cluster slot c) (h1 : u.ctxs = s.ctxs) (h2 : u.sup = s.sup) (h3 : u.cur = s.cur) (fl : Flags) (len) :
    OnlyCompleted s ((u.modCtx slot fun c => { c with flags := c.flags ||| fl }).retire len) len := by
  have hsl : s.slot = slot := by simp [State.slot, hc, agentSlot]
  have hcl : s.cl = c := by simp [State.cl, hc]
  have hx : ∀ k, u.ctx k = s.ctx k := fun k => by unfold State.ctx; rw [h1]
  have hcr : ∀ k, u.core k = s.core k := fun k => by unfold State.core; rw [h2]
  set v := u.modCtx slot fun c => { c with flags := c.flags ||| fl } with hv
  have hvc : v.cur = .cluster slot c := by rw [hv]; simp [h3, hc]
  have hr : v.retire len = v.modCtx slot fun x => x.modCl c fun y => y.retire len := by
    unfold State.retire State.modMe; rw [hvc]; rfl
  have hvx : v.ctx slot = { s.ctx slot with flags := (s.ctx slot).flags ||| fl } := by rw [hv, State.ctx_modCtx_same, hx]
  have hme : s.me = (s.ctx slot).cl c := by unfold State.me; rw [hc]; rfl
  refine ⟨?_, ?_, ?_, ?_, ?_, ?_⟩
  · rw [hr]; simp [hvc, hc]
  · show (v.retire len).me = _
    unfold State.retire; rw [State.me_modMe]
    congr 1
    unfold State.me; rw [hvc, hc]; show (v.ctx slot).cl c = (s.ctx slot).cl c; rw [hvx]; cases c <;> rfl
  · intro k hk
    have hk : slot ≠ k := by
      rcases hk with h | h
      · simp [State.isSup, hc, agentSlot] at h
      · rw [hsl] at h; exact Ne.symm h
    rw [hr, State.ctx_modCtx_ne _ _ hk, hv, State.ctx_modCtx_ne _ _ hk, hx]
  · intro c' hk
    have hk : c ≠ c' := by
      rcases hk with h | h
      · simp [State.isSup, hc, agentSlot] at h
      · rw [hcl] at h; exact Ne.symm h
    rw [hr]
    have : (v.modCtx slot fun x => x.modCl c fun y => y.retire len).myCtx = (v.ctx slot).modCl c fun y => y.retire len := by
      unfold State.myCtx; rw [State.slot_modCtx]; unfold State.slot; rw [hvc]; simp [agentSlot]
    rw [this, Ctx.cl_modCl_ne _ _ hk, hvx]
    unfold State.myCtx; rw [hsl]; cases c' <;> rfl
  · refine ⟨fl, ?_⟩
    have : (v.retire len).myCtx = (v.ctx slot).modCl c fun y => y.retire len := by
      rw [hr]; unfold State.myCtx; rw [State.slot_modCtx]; unfold State.slot; rw [hvc]; simp [agentSlot]
    rw [this, hvx]
    unfold State.myCtx; rw [hsl]
    cases c <;> rfl
  · intro n _
    rw [hr]; exact hcr n

end Sys2Proof.Machine
end

