-- ==== Sys2Proof/Laws/Vector.lean ====
section
/-! SUPPORT. What a vector result does, said once for every instruction that writes one: the destination, the queues, the flags, and
what stays (R225, R292 .. R294). -/

namespace Sys2Proof.Machine

/-! ### Checks -/

/-- Checks that all hold let an instruction go on. -/
theorem firstOf_ok {l : List (Bool × Stop)} (h : Allowed l) : firstOf l = .ok () := by
  induction l with
  | nil => rfl
  | cons p t ih =>
    obtain ⟨b, x⟩ := p
    have hb : b = true := h (b, x) (by simp)
    subst hb
    exact ih fun c hc => h c (by simp [hc])

theorem allowed_append {l m : List (Bool × Stop)} : Allowed (l ++ m) ↔ Allowed l ∧ Allowed m := by
  simp only [Allowed, List.mem_append]
  exact ⟨fun h => ⟨fun c hc => h c (.inl hc), fun c hc => h c (.inr hc)⟩, fun h c hc => hc.elim (h.1 c) (h.2 c)⟩

theorem allowed_cons {b : Bool} {x : Stop} {l : List (Bool × Stop)} : Allowed ((b, x) :: l) ↔ b = true ∧ Allowed l := by
  simp [Allowed]

@[simp] theorem allowed_nil : Allowed [] := by simp [Allowed]

theorem mapM_ok {α β : Type} {f : α → Except Stop β} {l : List α} {m : List β} (h : List.Forall₂ (fun a b => f a = .ok b) l m) :
    l.mapM f = .ok m := by
  induction h with
  | nil => rfl
  | cons h _ ih => rw [List.mapM_cons, h, ih]; rfl

/-- Operands that are usable are read. -/
theorem openVec_ok {s : State} {srcs dsts : List VField} {xs : List VSrc} (h : s.Opens srcs dsts xs) :
    s.openVec srcs dsts = .ok xs := by
  unfold State.openVec
  rw [firstOf_ok h.2.1, mapM_ok h.2.2]
  rfl

theorem vlChecks_ok {s : State} {xs : List VSrc} (h : s.SourcesFit xs) : Allowed (s.vlChecks xs) := by
  intro c hc
  obtain ⟨x, hx, rfl⟩ := List.mem_map.1 hc
  exact decide_eq_true (h x hx).1

theorem countChecks_ok {s : State} {xs : List VSrc} (h : s.SourcesFit xs) : Allowed (s.countChecks xs) := by
  intro c hc
  obtain ⟨x, hx, hxe⟩ := List.mem_filterMap.1 hc
  cases he : x.entry with
  | none => rw [he] at hxe; cases hxe
  | some e =>
    rw [he] at hxe
    cases hxe
    obtain ⟨h1, h2, h3⟩ := (h x hx).2 e he
    simp [h1, h2, h3]

/-- A meaning whose checks hold. -/
theorem settle_ok {g : Guard} {len : Nat} {f : State → Except Stop State} {s t : State} (h : s.guardTrue g = true)
    (hf : f s = .ok t) : settle g len f s = .next (t.retire len) := by
  unfold settle; rw [onGuard_true h, hf]

/-- A meaning that stops. -/
theorem settle_error {g : Guard} {len : Nat} {f : State → Except Stop State} {s : State} {x : Stop} (h : s.guardTrue g = true)
    (hf : f s = .error x) : settle g len f s = .next (s.halt x) := by
  unfold settle; rw [onGuard_true h, hf]

/-! ### Queues -/

theorem Ctx.queue_modQueue (x : Ctx) (q r : Nat) (f : Queue → Queue) :
    (x.modQueue q f).queue r = if q = r then f (x.queue q) else x.queue r := by
  unfold Ctx.modQueue Ctx.queue SMap.modify
  simp only [SMap.get_set]

theorem State.queue_modQueue (s : State) (q r : Nat) (f : Queue → Queue) :
    (s.modQueue q f).queue r = if q = r then f (s.queue q) else s.queue r := by
  unfold State.modQueue State.queue
  rw [State.myCtx_modMyCtx, Ctx.queue_modQueue]

/-- An update of the executing context's queues alone. -/
def OnlyQueues (s u : State) : Prop :=
  InContext s u ∧ u.myCtx = { s.myCtx with queues := u.myCtx.queues }

theorem InContext.refl (s : State) : InContext s s := ⟨rfl, fun _ _ => rfl⟩
theorem InContext.cur {s u : State} (h : InContext s u) : u.cur = s.cur := by rw [h.1]
theorem InContext.slot {s u : State} (h : InContext s u) : u.slot = s.slot := by unfold State.slot; rw [h.cur]
theorem InContext.trans {s t u : State} (h : InContext s t) (k : InContext t u) : InContext s u := by
  refine ⟨?_, fun j hj => ?_⟩
  · have h1 := h.1
    have k1 := k.1
    rw [h1] at k1
    exact k1
  · rw [k.2 j (by rw [h.slot]; exact hj), h.2 j hj]

theorem inContext_modMyCtx (s : State) (f : Ctx → Ctx) : InContext s (s.modMyCtx f) :=
  ⟨rfl, fun _ hk => State.ctx_modCtx_ne s f (Ne.symm hk)⟩

theorem OnlyQueues.refl (s : State) : OnlyQueues s s := ⟨.refl s, rfl⟩
theorem OnlyQueues.trans {s t u : State} (h : OnlyQueues s t) (k : OnlyQueues t u) : OnlyQueues s u := by
  refine ⟨h.1.trans k.1, ?_⟩
  have h2 := h.2
  have k2 := k.2
  rw [h2] at k2
  exact k2

theorem onlyQueues_modQueue (s : State) (q : Nat) (f : Queue → Queue) : OnlyQueues s (s.modQueue q f) := by
  refine ⟨inContext_modMyCtx s _, ?_⟩
  unfold State.modQueue
  rw [State.myCtx_modMyCtx]
  rfl

theorem onlyQueues_popAux (l : List Nat) : ∀ s : State, OnlyQueues s (l.foldl (fun t q => t.modQueue q Queue.pop) s) := by
  induction l with
  | nil => exact fun s => .refl s
  | cons q l ih => exact fun s => (onlyQueues_modQueue s q _).trans (ih _)

/-- Popping changes queues alone. -/
theorem onlyQueues_popAll (s : State) (qs : List Nat) : OnlyQueues s (s.popAll qs) := onlyQueues_popAux _ s

theorem queue_popAux (l : List Nat) (hl : l.Nodup) : ∀ (s : State) (q : Nat),
    (l.foldl (fun t q => t.modQueue q Queue.pop) s).queue q = if q ∈ l then (s.queue q).pop else s.queue q := by
  induction l with
  | nil => intro s q; simp
  | cons p l ih =>
    intro s q
    obtain ⟨hp, hl⟩ := List.nodup_cons.1 hl
    rw [List.foldl_cons, ih hl, State.queue_modQueue]
    by_cases h : p = q
    · subst h; simp [hp]
    · by_cases hq : q ∈ l
      · simp [h, hq]
      · simp [h, hq, Ne.symm h]

theorem nodup_eraseDups (n : Nat) : ∀ l : List Nat, l.length ≤ n → l.eraseDups.Nodup := by
  induction n with
  | zero => intro l h; have h0 : l = [] := List.length_eq_zero_iff.1 (by omega); subst h0; simp
  | succ n ih =>
    intro l h
    cases l with
    | nil => simp
    | cons a l =>
      rw [List.eraseDups_cons, List.nodup_cons]
      refine ⟨by simp, ih _ ?_⟩
      have := List.length_filter_le (fun b => !b == a) l
      simp only [List.length_cons] at h
      omega

/-- Each queue that is named is popped once (R225). -/
theorem queue_popAll (s : State) (qs : List Nat) (q : Nat) :
    (s.popAll qs).queue q = if q ∈ qs then (s.queue q).pop else s.queue q := by
  unfold State.popAll
  rw [queue_popAux _ (nodup_eraseDups _ qs (Nat.le_refl _)) s q]
  simp

/-! ### Unscaled blocks -/

theorem Fmt.width_pos (f : Fmt) : 4 ≤ f.width := by unfold Fmt.width; split <;> omega
theorem Fmt.width_le (f : Fmt) : f.width ≤ 64 := by unfold Fmt.width; split <;> omega
theorem Fmt.perGranule_pos (f : Fmt) : 0 < f.perGranule := by
  have := f.width_pos; have := f.width_le
  unfold Fmt.perGranule; exact Nat.div_pos (by omega) (by omega)

/-- The code that place `i` of an unscaled plan takes. -/
def Plan.code (p : Plan) (i : Nat) : Word :=
  match p.put i with
  | .kept => if p.old.tag.fmt = p.fmt then p.old.code i else (encodeUnder p.fmt p.rm 0x7F (p.oldVal i)).1
  | x => putCode p.fmt p.rm x

/-- One element of an unscaled plan. -/
theorem Plan.element_get {p : Plan} (hs : p.fmt.isScaled = false) (he : p.ef = false) (i : Nat) :
    ∀ (is : List Nat) (st : Form),
      (is.foldl (fun st i =>
        match p.raw i with
        | some (c, _) => { st with elems := st.elems.set 0 i c, scales := st.scales.set 0x7F (p.fmt.granule i) 0x7F }
        | none =>
          let (cs, _, fl, r) := encodeBlock p.fmt p.rm p.rm p.ef [{ val := p.val i, live := (p.put i).live }] st.res
          { elems := st.elems.set 0 i (cs.headD 0), scales := st.scales.set 0x7F (p.fmt.granule i) 0x7F
            flags := st.flags ||| fl, res := r }) st : Form).elems.get 0 i
      = if i ∈ is then p.code i else st.elems.get 0 i := by
  intro is
  induction is with
  | nil => intro st; simp
  | cons j is ih =>
    intro st
    rw [List.foldl_cons, ih]
    by_cases hi : i ∈ is
    · simp [hi]
    · rw [if_neg hi]
      by_cases hj : j = i
      · subst hj
        rw [if_pos (by simp)]
        unfold Plan.raw Plan.code
        cases hp : p.put j with
        | value v =>
          simp only [SMap.get_set_same, putCode]
          unfold encodeBlock
          simp only [hs, Bool.false_eq_true, if_false, encodeWith, Put.live, if_true, he, Plan.val, hp, List.headD]
        | move c e => simp [putCode]
        | supplied => simp [putCode]
        | zeroed => simp [putCode]
        | absent => simp [putCode]
        | kept =>
          by_cases hf : p.old.tag.fmt = p.fmt
          · simp [hf]
          · simp only [beq_iff_eq, hf, if_false, SMap.get_set_same]
            unfold encodeBlock
            simp only [hs, Bool.false_eq_true, if_false, encodeWith, Put.live, Plan.val, hp, List.headD]
      · rw [if_neg (by simp [hi, Ne.symm hj])]
        split
        · exact SMap.get_set_ne _ _ _ hj
        · exact SMap.get_set_ne _ _ _ hj

/-- In an unscaled format every place below `n` takes its own code; a place behind takes it too, or is left as it was. -/
theorem Plan.run_get {p : Plan} (hs : p.fmt.isScaled = false) (he : p.ef = false) {n cap i : Nat} (hc : i < cap) (res : F32) :
    (p.run n cap res).elems.get 0 i = p.code i
      ∨ n ≤ i ∧ (p.run n cap res).elems.get 0 i = if p.old.tag.fmt = p.fmt then p.old.code i else 0 := by
  have hper : p.per = p.fmt.perGranule := by unfold Plan.per; simp [hs]
  have h0 : 0 < p.per := by rw [hper]; exact p.fmt.perGranule_pos
  have blk : ∀ (b : Nat) (st : Form), (p.block (b * p.per * p.fmt.width / 256) ((List.range' (b * p.per) p.per).filter (· < cap)) st).elems.get 0 i
      = if b * p.per ≤ i ∧ i < b * p.per + p.per then p.code i else st.elems.get 0 i := by
    intro b st
    unfold Plan.block
    rw [show (if p.fmt.isScaled then p.copies ((List.range' (b * p.per) p.per).filter (· < cap)) else none) = none by simp [hs]]
    dsimp only
    rw [if_neg (by simp [hs])]
    refine (Plan.element_get hs he i _ st).trans ?_
    by_cases h : b * p.per ≤ i ∧ i < b * p.per + p.per
    · rw [if_pos h, if_pos (by simp [hc, h])]
    · rw [if_neg h, if_neg (by simp only [List.mem_filter, List.mem_range'_1]; exact fun e => h e.1)]
  have fold : ∀ (l : List Nat) (st : Form), (l.foldl (fun st b => p.block (b * p.per * p.fmt.width / 256) ((List.range' (b * p.per) p.per).filter (· < cap)) st) st).elems.get 0 i
        = if (∃ b ∈ l, b * p.per ≤ i ∧ i < b * p.per + p.per) then p.code i else st.elems.get 0 i := by
    intro l
    induction l with
    | nil => intro st; simp
    | cons b l ih =>
      intro st
      rw [List.foldl_cons, ih, blk]
      by_cases h1 : ∃ b ∈ l, b * p.per ≤ i ∧ i < b * p.per + p.per
      · obtain ⟨c, hc1, hc2⟩ := h1
        rw [if_pos ⟨c, hc1, hc2⟩, if_pos ⟨c, by simp [hc1], hc2⟩]
      · rw [if_neg h1]
        by_cases h2 : b * p.per ≤ i ∧ i < b * p.per + p.per
        · rw [if_pos h2, if_pos ⟨b, by simp, h2⟩]
        · rw [if_neg h2, if_neg]
          rintro ⟨c, hc1, hc2⟩
          rcases List.mem_cons.1 hc1 with rfl | hc1
          · exact h2 hc2
          · exact h1 ⟨c, hc1, hc2⟩
  unfold Plan.run
  simp only
  rw [fold]
  by_cases hcov : ∃ b ∈ List.range ((n + p.per - 1) / p.per), b * p.per ≤ i ∧ i < b * p.per + p.per
  · left; rw [if_pos hcov]
  · right
    rw [if_neg hcov]
    constructor
    · apply Nat.le_of_not_lt
      intro hi
      refine hcov ⟨i / p.per, ?_, ?_⟩
      · rw [List.mem_range, Nat.div_lt_iff_lt_mul h0]
        have h2 := Nat.div_add_mod (n + p.per - 1) p.per
        have h3 := Nat.mod_lt (n + p.per - 1) h0
        rw [Nat.mul_comm] at h2
        omega
      · have h1 := Nat.div_add_mod i p.per
        have h3 := Nat.mod_lt i h0
        rw [Nat.mul_comm] at h1
        omega
    · by_cases hf : p.old.tag.fmt = p.fmt
      · simp [hf, Strip.code]
      · simp [hf, SMap.get]

/-! ### The result -/

theorem State.vl_eq {s u : State} (h : u.myCtx.v.vl = s.myCtx.v.vl) : u.vl = s.vl := by unfold State.vl; rw [h]

/-- The place in a queue destination that a result takes. -/
theorem fits_of_room {x : Queue} {f : Fmt} {n : Nat} {e : QEntry} (hu : x.unplaced = []) (hl : x.entries.length < 64)
    (hr : (n * f.width + 2047) / 2048 ≤ x.free) (h0 : n ≠ 0) (hs : e.scal = false) (hc : e.count = n) (hf : e.strip.tag.fmt = f) :
    x.fits [e] = true := by
  unfold Queue.fits
  have hg : e.groups = (n * f.width + 2047) / 2048 := by
    unfold QEntry.groups
    subst hc hf
    simp [hs, h0]
  simp only [hu, List.isEmpty_nil, Bool.true_and, List.length_singleton, List.map_cons, List.map_nil, List.sum_cons, List.sum_nil,
    Nat.add_zero, hg, Bool.and_eq_true, decide_eq_true_eq]
  exact ⟨by omega, hr⟩

theorem active_lt {s : State} {mask : BitVec 4} {i : Nat} (h : s.active mask i = true) : i < s.vl := by
  unfold State.active at h
  simp only [Bool.and_eq_true, decide_eq_true_eq] at h
  exact h.1.1

/-- Of an instruction performed as a whole, Z reaches the elements from ELEM of a reel on (R318). -/
theorem reached_whole {s : State} (hw : s.Whole) (i : Nat) : s.reached i = decide (s.reelElem ≤ i) := by
  unfold State.reached
  rw [hw.1, hw.2]
  simp

/-- An instruction performed as a whole begins its own queue entry. -/
theorem openEntry_whole {s : State} (hw : s.Whole) (d : VField) : s.openEntry d = none := by
  unfold State.openEntry
  rw [if_pos hw.1]

/-- The codes of an unscaled register destination, written and not. -/
theorem vecPlan_code {s : State} (hw : s.Whole) {d : VField} (hd : d.q = false) {z : Bool} {act : Nat → Bool} {r : VResult}
    (hact : ∀ i, act i = true → i < s.vl) (hlive : ∀ i, act i = true → (r.put i).live = true)
    (hs : r.fmt.isScaled = false) (he : r.ef = false) {cap i : Nat} (hi : i < cap) (res : F32) :
    ((s.vecPlan d z act r).run s.vl cap res).elems.get 0 i
      = if act i = true then putCode r.fmt r.rm (r.put i) else s.offCode d.n z r.fmt r.rm i := by
  have hold : (s.vecPlan d z act r).old = s.vreg d.n := by unfold State.vecPlan State.oldStrip; simp [hd]
  have hf : (s.vecPlan d z act r).fmt = r.fmt := rfl
  have hrm : (s.vecPlan d z act r).rm = r.rm := rfl
  have hput : (s.vecPlan d z act r).put i = if act i = true then r.put i
      else if i < s.vl then (if (z && s.reached i) = true then .zeroed else .kept)
      else if ((s.vreg d.n).tag.fmt == r.fmt) = true then .kept else .absent := by
    rw [← hold]; unfold State.vecPlan; simp [hd]
  have hrun := Plan.run_get (p := s.vecPlan d z act r) hs he (n := s.vl) hi res
  rw [hold, hf] at hrun
  by_cases ha : act i = true
  · rw [if_pos ha]
    rcases hrun with h | ⟨h, -⟩
    · rw [h]
      have hp : (s.vecPlan d z act r).put i = r.put i := by rw [hput, if_pos ha]
      have hl := hlive i ha
      unfold Plan.code
      rw [hp]
      cases hc : r.put i <;> simp_all [Put.live]
    · exact absurd (hact i ha) (by omega)
  · rw [if_neg ha] at hput ⊢
    rw [reached_whole hw] at hput
    unfold State.offCode
    dsimp only
    by_cases hv : i < s.vl
    · rcases hrun with h | ⟨h, -⟩
      · rw [h]
        rw [if_pos hv] at hput
        by_cases hz : z = true ∧ s.reelElem ≤ i
        · rw [if_pos ⟨hv, hz⟩]
          have hp : (s.vecPlan d z act r).put i = .zeroed := by rw [hput]; simp [hz.1, hz.2]
          unfold Plan.code
          rw [hp]; rfl
        · rw [if_neg (fun h => hz h.2)]
          have hp : (s.vecPlan d z act r).put i = .kept := by rw [hput]; simp; simpa using hz
          unfold Plan.code
          rw [hp, hold, hf, hrm]
          dsimp only
          split
          · rfl
          · unfold Plan.oldVal; rw [hold, hf]; simp
      · omega
    · rw [if_neg (fun h => hv h.1), if_neg hv]
      rw [if_neg hv] at hput
      rcases hrun with h | ⟨-, h⟩
      · rw [h]
        unfold Plan.code
        rw [hput]
        by_cases hq : (s.vreg d.n).tag.fmt = r.fmt
        · simp [hq, hold, hf]
        · simp [hq, putCode]
      · exact h

/-- What writing a vector result does, wherever a queue destination has room for it. -/
theorem writeVecOn_spec (s : State) (hw : s.Whole) (hc : s.isSup = false) (d : VField) (z : Bool) (act : Nat → Bool) (pops : List Nat) (r : VResult)
    (hroom : s.DestRoom d pops r.fmt) (hact : ∀ i, act i = true → i < s.vl) (hlive : ∀ i, act i = true → (r.put i).live = true) :
    ∃ u, s.writeVec d z act pops r = .ok u ∧ VecWrittenOn s u d z act pops r := by
  have hpq := onlyQueues_popAll s pops
  have hsl : (s.popAll pops).slot = s.slot := hpq.1.slot
  have hsup : (s.popAll pops).isSup = false := by unfold State.isSup; rw [hpq.1.cur]; exact hc
  have hor : ∀ fl, (s.popAll pops).orFlags fl = (s.popAll pops).modMyCtx fun x => { x with flags := x.flags ||| fl } := by
    intro fl; unfold State.orFlags; rw [hsup]; rfl
  have hx := hpq.2
  have hq : ∀ q, ((s.popAll pops).myCtx.queue q) = if q ∈ pops then (s.queue q).pop else s.queue q := queue_popAll s pops
  unfold State.writeVec
  by_cases hv : s.vl = 0
  · rw [if_pos hv]
    refine ⟨_, rfl, ⟨?_, ?_, ?_, ?_⟩, fun _ => rfl, ⟨0, ?_⟩, ?_, ?_, fun h => absurd hv h, fun h => absurd hv h⟩ <;> rw [hor]
    · exact hpq.1.trans (inContext_modMyCtx _ _)
    · rw [State.myCtx_modMyCtx, hx]
    · intro q _; unfold State.vreg; rw [State.myCtx_modMyCtx, hx]
    · intro q hq' _; unfold State.queue; rw [State.myCtx_modMyCtx]; exact (hq q).trans (if_neg hq')
    · rw [State.myCtx_modMyCtx, hx]; simp
    · intro _; rw [State.myCtx_modMyCtx, hx]
    · intro q hq' _; unfold State.queue; rw [State.myCtx_modMyCtx]; exact (hq q).trans (if_pos hq')
  · rw [if_neg hv]
    dsimp only
    have hlo : ¬(s.myCtx.v.lo ≠ 0) := fun h => h hw.1
    simp only [hlo, false_and, if_false]
    have hbc : (VResult.blkCode { r with blk := r.blkCode.toNat }) = r.blkCode := by
      unfold VResult.blkCode
      split
      · apply BitVec.eq_of_toNat_eq; simp
      · rfl
    rw [hbc]
    generalize hfo : Plan.run _ _ _ _ = fo
    generalize hsc : (if d.q = true then fo.scales else copySlots r.fmt r.blkCode.toNat fo.scales) = sc
    obtain ⟨G, hG⟩ : ∃ G : Flags → Ctx → Ctx, G = fun fl x => { x with
        flags := x.flags ||| fl, v := { x.v with efc := if r.ef = true then fo.res else x.v.efc } } := ⟨_, rfl⟩
    have hs2 : ∀ fl, (if r.ef = true then ((s.popAll pops).orFlags fl).modMyCtx fun c => { c with v := { c.v with efc := fo.res } }
        else (s.popAll pops).orFlags fl)
        = (s.popAll pops).modMyCtx (G fl) := by
      intro fl
      rw [hor, hG]
      by_cases he : r.ef = true
      · rw [if_pos he, State.modMyCtx_modMyCtx]; simp [he]
      · rw [if_neg he]; simp [he]
    rw [hs2]
    have hcode : ∀ i, act i = true → d.q = true → r.fmt.isScaled = false → r.ef = false →
        fo.elems.get 0 i = putCode r.fmt r.rm (r.put i) := by
      intro i hi hq hsca hef
      rw [← hfo]
      have hput : (s.vecPlan d z act { r with blk := r.blkCode.toNat }).put i = r.put i := by
        unfold State.vecPlan; simp [hi]
      have hlt := hact i hi
      have hl := hlive i hi
      rcases Plan.run_get (p := s.vecPlan d z act { r with blk := r.blkCode.toNat }) hsca hef (n := s.vl)
        (cap := if d.q = true then s.vl else s.vlmax r.fmt) (i := i) (by rw [if_pos hq]; exact hlt) s.myCtx.v.efc with h | ⟨h, -⟩
      · rw [h]
        unfold Plan.code
        rw [hput]
        split
        · rename_i e; rw [e] at hl; cases hl
        · rfl
      · omega
    by_cases hd : d.q = true
    · rw [if_pos hd]
      obtain ⟨h1, h2, h3⟩ := hroom hd hv
      generalize hen : QEntry.vector _ s.vl act = e
      have hes : e.scal = false ∧ e.count = s.vl ∧ e.strip.tag.fmt = r.fmt ∧ e.strip.tag.blk = r.blkCode ∧ e.strip.elems = fo.elems
          ∧ ∀ i, i < s.vl → e.present.get false i = act i := by
        rw [← hen]
        unfold QEntry.vector
        refine ⟨rfl, rfl, ?_, ?_, ?_, fun i hi => by simp [hi]⟩ <;> (dsimp only; split <;> rfl)
      have hfit : ((s.popAll pops).queue d.n.toNat).fits [e] = true := fits_of_room h1 h2 h3 hv hes.1 hes.2.1 hes.2.2.1
      have hqs : ∀ fl q, ((s.popAll pops).modMyCtx (G fl)).queue q = (s.popAll pops).queue q := by
        intro fl q
        unfold State.queue Ctx.queue
        rw [State.myCtx_modMyCtx, hG]
      unfold State.pushVec
      rw [show ((s.popAll pops).modMyCtx (G _)).openEntry d = none from by
        unfold State.openEntry; rw [if_pos (by rw [State.myCtx_modMyCtx, hG, hx]; exact hw.1)]]
      unfold State.pushWait
      rw [hqs, if_pos hfit]
      refine ⟨_, rfl, ⟨?_, ?_, ?_, ?_⟩, fun h => absurd h hv, ⟨fo.flags, ?_⟩, ?_, ?_, fun _ h => (by rw [hd] at h; cases h), ?_⟩
      · exact (hpq.1.trans (inContext_modMyCtx _ _)).trans (inContext_modMyCtx _ _)
      · unfold State.modQueue; rw [State.myCtx_modMyCtx, State.myCtx_modMyCtx, hG, hx]; rfl
      · intro q _; unfold State.vreg State.modQueue; rw [State.myCtx_modMyCtx, State.myCtx_modMyCtx, hG, hx]; rfl
      · intro q hq' hne
        rw [State.queue_modQueue, if_neg (fun h => hne hd h.symm), hqs]
        exact (hq q).trans (if_neg hq')
      · unfold State.modQueue; rw [State.myCtx_modMyCtx, State.myCtx_modMyCtx, hG, hx]
        simp [Ctx.modQueue, BitVec.or_assoc]
      · intro he; unfold State.modQueue; rw [State.myCtx_modMyCtx, State.myCtx_modMyCtx, hG, hx]; simp [Ctx.modQueue, he]
      · intro q hq' hne
        have hne : q ≠ d.n.toNat := by
          rcases hne with h | h
          · rw [hd] at h; cases h
          · exact h
        rw [State.queue_modQueue, if_neg (Ne.symm hne), hqs]
        exact (hq q).trans (if_pos hq')
      · intro _ _
        refine ⟨e, ?_, hes.1, hes.2.1, hes.2.2.1, hes.2.2.2.1, hes.2.2.2.2.2, ?_⟩
        · rw [State.queue_modQueue, if_pos rfl, hqs]
        · intro hsca hef i hi
          unfold Strip.code
          rw [hes.2.2.2.2.1]
          exact hcode i hi hd hsca hef
    · rw [if_neg hd]
      have hdf : d.q = false := by simpa using hd
      unfold State.setVreg
      refine ⟨_, rfl, ⟨?_, ?_, ?_, ?_⟩, fun h => absurd h hv, ⟨fo.flags, ?_⟩, ?_, ?_, ?_, fun _ h => absurd h hd⟩
      · exact (hpq.1.trans (inContext_modMyCtx _ _)).trans (inContext_modMyCtx _ _)
      · rw [State.myCtx_modMyCtx, State.myCtx_modMyCtx, hG, hx]
      · intro q hne
        have hne : q ≠ d.n := by
          rcases hne with h | h
          · exact absurd h hd
          · exact h
        have hnn : d.n.toNat ≠ q.toNat := fun h => hne (BitVec.eq_of_toNat_eq h).symm
        unfold State.vreg
        rw [State.myCtx_modMyCtx, State.myCtx_modMyCtx, hG, hx]
        simp only [SMap.get_set, hnn, if_false]
      · intro q hq' _
        unfold State.queue Ctx.queue
        rw [State.myCtx_modMyCtx, State.myCtx_modMyCtx, hG]
        exact (hq q).trans (if_neg hq')
      · rw [State.myCtx_modMyCtx, State.myCtx_modMyCtx, hG, hx]; simp [BitVec.or_assoc]
      · intro he; rw [State.myCtx_modMyCtx, State.myCtx_modMyCtx, hG, hx]; simp [he]
      · intro q hq' _
        unfold State.queue Ctx.queue
        rw [State.myCtx_modMyCtx, State.myCtx_modMyCtx, hG]
        exact (hq q).trans (if_pos hq')
      · intro _ _
        unfold State.vreg
        rw [State.myCtx_modMyCtx]
        simp only [SMap.get_set_same]
        refine ⟨?_, fun hsca hef i hi => ?_⟩
        rotate_left
        · unfold Strip.code
          rw [← hfo, if_neg hd]
          exact vecPlan_code hw hdf (r := { r with blk := r.blkCode.toNat }) hact hlive hsca hef hi _
        by_cases hvs : r.vsum = vsVacant
        · simp [hvs]
        · simp [hvs]

/-- The same with the instruction's active elements. -/
theorem writeVec_spec (s : State) (hw : s.Whole) (hc : s.isSup = false) (d : VField) (m : VMods) (pops : List Nat) (r : VResult)
    (hroom : s.DestRoom d pops r.fmt) (hlive : ∀ i, s.active m.mask i = true → (r.put i).live = true) :
    ∃ u, s.writeVec d m.z (s.active m.mask) pops r = .ok u ∧ VecWritten s u d m pops r :=
  writeVecOn_spec s hw hc d m.z _ pops r hroom (fun _ h => active_lt h) hlive

/-- A vector instruction that checks its sources and then writes one result does what `VecDone` says, wherever its checks hold. -/
theorem vecDone_of {s : State} {i : Instr} {fs : List VField} {d : VField} {m : VMods} {len : Nat} {ok : List VSrc → Prop}
    {F : List VSrc → Fmt} {spec : List VSrc → VResult → Prop} {f : State → Except Stop State}
    (chk : List VSrc → List (Bool × Stop)) (res : List VSrc → VResult)
    (hc : s.isSup = false) (hi : ∀ t, f s = .ok t → exec i s = .next (t.retire len))
    (hf : ∀ xs, s.openVec fs [d] = .ok xs →
      f s = (firstOf (chk xs)).bind fun _ => s.writeVec d m.z (s.active m.mask) (queuesOf fs) (res xs))
    (h : ∀ xs, s.Opens fs [d] xs → s.SourcesFit xs → ok xs → s.DestFits d m (F xs) →
      Allowed (chk xs) ∧ (res xs).fmt = F xs ∧ (∀ j, s.active m.mask j = true → ((res xs).put j).live = true)
        ∧ spec xs (res xs)) : VecDone s i fs d m len ok F spec := by
  intro xs ho hs hok hd hr
  obtain ⟨h1, h2, h3, h4⟩ := h xs ho hs hok hd
  obtain ⟨u, hu, hw⟩ := writeVec_spec s ho.1 hc d m (queuesOf fs) (res xs) (by rw [h2]; exact hr) h3
  refine ⟨u, res xs, hi u ?_, hw, h2, h4⟩
  rw [hf xs (openVec_ok ho), firstOf_ok h1]
  exact hu

end Sys2Proof.Machine
end

