-- ==== Sys2Proof/Machine/Bch.lean ====
section
/-! DEFINITION. The sideband of an ECC block as HBM4 stores it (R71): tags, the parity of the BCH code of R72, and metadata. State
keeps what the parity protects and the number of bit errors, so that the parity always matches and is derived here. -/

namespace Sys2Proof.Machine

/-- The length of the code, 2¹³ − 1 (R72). -/
def bchLength : Nat := 8191
/-- Bit errors that the code corrects (R72). -/
def bchCorrects : Nat := 19
/-- Parity bits (R71). -/
def bchParityBits : Nat := 247

/-- Multiplication by α in GF(2¹³), whose primitive polynomial is x¹³ + x⁴ + x³ + x + 1 (R72). -/
def gfTwice (a : Nat) : Nat := if a.testBit 12 then ((a <<< 1) ^^^ 0x201B) % 2 ^ 13 else a <<< 1

/-- The product in GF(2¹³), over the low `n` bits of the second factor. -/
def gfMul (a b : Nat) : Nat → Nat
  | 0 => 0
  | n + 1 => (if b.testBit n then (gfTwice^[n]) a else 0) ^^^ gfMul a b n

/-- α to the power `n`. -/
def gfPow (n : Nat) : Nat := (gfTwice^[n]) 1

/-- The product of a polynomial over GF(2¹³), its constant first, with x + r. -/
def polyTimesRoot (r : Nat) (p : List Nat) : List Nat :=
  List.zipWith (· ^^^ ·) (0 :: p) (p.map (fun c => gfMul c r 13) ++ [0])

/-- The exponents of the conjugates of αⁱ. -/
def conjugates (i : Nat) : List Nat := ((List.range 13).map fun j => i * 2 ^ j % bchLength).eraseDups

/-- The minimal polynomial of αⁱ, bit `k` the coefficient of xᵏ. -/
def minimalPoly (i : Nat) : Nat :=
  (((conjugates i).foldl (fun p c => polyTimesRoot (gfPow c) p) [1]).zipIdx.map fun p => p.1 <<< p.2).foldl (· ^^^ ·) 0

/-- The product of polynomials over GF(2), over the low `n` bits of the second factor. -/
def clMul (a b : Nat) : Nat → Nat
  | 0 => 0
  | n + 1 => (if b.testBit n then a <<< n else 0) ^^^ clMul a b n

/-- The generator polynomial: the least common multiple of the minimal polynomials of α¹, α³ .. α³⁷ (R72). They are all different and
irreducible, so that it is their product. -/
def bchGenerator : Nat := ((List.range bchCorrects).map fun j => minimalPoly (2 * j + 1)).foldl (fun g m => clMul g m 14) 1

/-- The remainder of a message, its first bit the highest power, times x²⁴⁷ (R72). -/
def bchRemainder (g : Nat) (msg : List Bool) : Nat :=
  msg.foldl (fun r b =>
    let top := r.testBit (bchParityBits - 1) != b
    let sh := (r <<< 1) % 2 ^ bchParityBits
    if top then sh ^^^ (g % 2 ^ bchParityBits) else sh) 0

/-- The bits of bytes, each byte from bit 0 upward (R72). -/
def bitsOf (l : List Byte) : List Bool := l.flatMap fun b => (List.range 8).map fun i => b.getLsbD i

/-- Sideband bytes 0 .. 23 of the block at `pa`: the tags of its lines (R71). -/
def State.blockTags (s : State) (pa : Nat) : List Byte :=
  (List.range 4).flatMap fun i =>
    let t := s.tagAt (pa / 512 * 512 + 128 * i)
    leBytes 2 t.desc.toNat ++ leBytes 4 t.sc.toNat

/-- Sideband bytes 56 .. 63: the block's metadata, its reserved bits zero (R71). -/
def State.blockMeta (s : State) (pa : Nat) : List Byte :=
  leBytes 8 ((s.blockAt pa).pm.toNat + 2 * (s.blockAt pa).wiped.toNat)

/-- The message that the parity of a block protects (R72). -/
def State.blockMessage (s : State) (pa : Nat) : List Bool :=
  bitsOf (s.bytesAt (pa / 512 * 512) 512 ++ s.blockTags pa ++ s.blockMeta pa)

/-- Sideband bytes 24 .. 55: the parity, whose bit 0 follows the message in the codeword (R71, R72; log entry 69). -/
def State.blockParity (s : State) (pa : Nat) : List Byte :=
  let r := bchRemainder bchGenerator (s.blockMessage pa)
  let bit (i : Nat) : Bool := decide (i < bchParityBits) && r.testBit (bchParityBits - 1 - i)
  (List.range 32).map fun k => BitVec.ofNat 8 (((List.range 8).map fun i => (bit (8 * k + i)).toNat * 2 ^ i).sum)

/-- The 64 sideband bytes of a block (R71). -/
def State.sideband (s : State) (pa : Nat) : List Byte := s.blockTags pa ++ s.blockParity pa ++ s.blockMeta pa

end Sys2Proof.Machine
end

