-- ==== Sys2Proof/Tests/Slice0.lean ====
section
/-! SUPPORT. Tests: ill-formed terms that the checks refuse, single steps with results taken from the rules, and for each
statement of Certificates/Slice0/Obligations.lean a state and operands that meet its hypotheses (`test_w_<Statement>`). -/

-- The tests are checked one after another, which keeps the number of threads, and with it the memory, small.
set_option Elab.async false

open Sys2Proof Sys2Proof.Machine

namespace Sys2Proof.Tests

/-! ### Small states -/

/-- The guard that is always true. -/
def yes : Guard := ⟨false, 7⟩
/-- A guard that is never true. -/
def no : Guard := ⟨true, 7⟩
/-- The module after reset with a cluster of slot 0 executing. -/
def at_ (c : Cl) : State := { State.reset with cur := .cluster 0 c }
/-- An untyped page of 2 MiB with elements of format `f`. -/
def pageOf (f : Fmt) : TlbEntry :=
  { unit := .spindle 0, asd := 0, pasid := 0, va := 0, size := 2097152, pa := 0x200000, leaf := 0, r := true, w := true, x := true, u := true
    d := true, mig := false, pslot := 0, folded := false, ats := false, par := { Par.raw with expf := f } }
def page : TlbEntry := pageOf Fmt.fp32
/-- The same with the page in the TLB. -/
def memOf (f : Fmt) (c : Cl) : State := { at_ c with tlb := [pageOf f], blocks := [(4096, { Block.initial with wiped := false })] }
def mem (c : Cl) : State := memOf Fmt.fp32 c
def xlOf (f : Fmt) (va : Nat) : Xlate := {
  va := va, pa := 0x200000 + va, raw := 0x200000 + va, unit := .spindle 0, host := false, entry := pageOf f, walked := false, path := [], setD := false }
def xl (va : Nat) : Xlate := xlOf Fmt.fp32 va
/-- A state whose context in slot 0 is changed. -/
def ctx (s : State) (f : Ctx → Ctx) : State := s.modCtx 0 f
/-- A state whose executing cluster is changed. -/
def me (s : State) (f : Cluster → Cluster) : State := s.modMe f
/-- A supervisor core that handles nothing. -/
def core : State := { State.reset with cur := .sup 0 }
/-- A provisional hank's context. -/
def prov (s : State) : State := ctx s fun x => { x with hank := some (0x300000, 0), provisional := true }

/-- An answer that is a value of which `p` holds. -/
def okAnd {ε α : Type} (e : Except ε α) (p : α → Bool) : Bool :=
  match e with
  | .ok x => p x
  | .error _ => false

theorem ok_of {ε α : Type} {e : Except ε α} {p : α → Bool} (h : okAnd e p = true) : ∃ x, e = .ok x ∧ p x = true := by
  cases e with
  | ok x => exact ⟨x, rfl, h⟩
  | error _ => exact absurd h (by simp [okAnd])

/-- A Bool checked on what an optional value holds. -/
theorem some_of {α : Type} {o : Option α} {p : α → Bool} (h : o.all p = true) : ∀ x, o = some x → p x = true := by
  rintro x rfl
  exact h

/-- The context can read, as one checked by evaluation. -/
theorem reads_of {s : State} {slot : Nat} {k : MemKind} {va : Word} {n : Nat} {x : Xlate} {v : Nat} {z : Bool}
    (h1 : (s.opened slot va).access slot k va (decide (va.toNat % n = 0)) = .ok x ∧ (s.opened slot va).reach slot k x = .ok ())
    (h2 : if (s.accessed slot va x).region x.pa = .creel then v = 0 ∧ z = false
      else ((s.accessed slot va x).seenLine slot x).readRaw x.typed x.par.w x.par.ppol (x.va % 128) n = .ok (v, z)) :
    s.Reads slot k va n x v z := ⟨h1, h2⟩

/-- The context can write, as one checked by evaluation. -/
theorem writes_of {s : State} {slot : Nat} {k : MemKind} {va : Word} {data : List Byte} {x : Xlate}
    (h1 : ((s.opened slot va).access slot k va (decide (va.toNat % data.length = 0)) = .ok x ∧ (s.opened slot va).reach slot k x = .ok ())
      ∧ s.me.late = false ∧ (s.accessed slot va x).region x.pa ≠ .creel)
    (h2 : okAnd (((s.accessed slot va x).seenLine slot x).storeRaw x.typed x.par.w x.par.ppol x.par.expf (x.va % 128) data)
      (fun p => !(s.accessed slot va x).plyConflict x p.1) = true)
    (h3 : (s.ctx slot).provisional = false ∨ (s.ctx slot).hank = none ∨ (s.plbEntry slot x.va).isSome = true
      ∨ (s.plb.get [] (bobbinOf slot)).length < plbSize) : s.Writes slot k va data x := by
  obtain ⟨p, hp, hq⟩ := ok_of h2
  exact ⟨h1.1, h1.2.1, h1.2.2, ⟨p.1, p.2, hp, by simpa using hq⟩, h3⟩

/-! ### Ill-formed terms, one or more per check -/

def m0 : VMods := .short
/-- A cluster that does not have the instruction, a supervisor core, and a cluster for a privileged one (R232, R235). -/
theorem test_wf_home : (Instr.vadd yes 1 2 3).wf (.cl .A) = false ∧ (Instr.mrel yes 1).wf (.cl .V) = false ∧ (Instr.tagrd yes 1 2).wf (.cl .C) = false
    ∧ (Instr.bar yes).wf .sup = false ∧ (Instr.svret yes).wf (.cl .C) = false ∧ (Instr.priEnableWrite 0 true).wf (.cl .C) = false := by decide +kernel
/-- Reason 6: register numbers beyond the queues, masks, names, accumulators and bitmaps (R218). -/
theorem test_wf_names : (Instr.vldq yes 16 0).wf (.cl .A) = false ∧ (Instr.knot yes 12 0).wf (.cl .V) = false ∧ (Instr.mrel yes 16).wf (.cl .M) = false
    ∧ (Instr.azero yes 8).wf (.cl .M) = false ∧ (Instr.cwait yes 8 0 0).wf (.cl .A) = false ∧ (Instr.vcmp yes 12 1 2 m0).wf (.cl .V) = false
    ∧ (Instr.vcmp yes 31 1 2 { m0 with vc := 12 }).wf (.cl .V) = false := by decide +kernel
/-- Reason 7: reserved values of a field. -/
theorem test_wf_values : (Instr.fence yes 6).wf (.cl .C) = false ∧ (Instr.cmp yes 1 2 3 4 8).wf (.cl .C) = false
    ∧ (Instr.fcmp yes 1 2 3 4 7).wf (.cl .C) = false ∧ (Instr.bext yes 1 2 60 4).wf (.cl .C) = false
    ∧ (Instr.csrr yes 1 14).wf (.cl .C) = false ∧ (Instr.rdv yes 7 0).wf (.cl .C) = false ∧ (Instr.wid yes 1 6).wf (.cl .C) = false
    ∧ (Instr.tlbi yes 1 3).wf .sup = false ∧ (Instr.setvl yes 1 2 0x0B).wf (.cl .V) = false ∧ (Instr.qfence yes 0 0).wf (.cl .A) = false
    ∧ (Instr.setvcap yes 1 3).wf (.cl .V) = false ∧ (Instr.mclaim yes 1 17).wf (.cl .M) = false ∧ (Instr.msld yes 1 1 1 0).wf (.cl .M) = false
    ∧ (Instr.mladd yes 1 2 3 4 5 2).wf (.cl .M) = false ∧ (Instr.vcvt yes 1 2 m0).wf (.cl .V) = false
    ∧ (Instr.vscaleLong yes 1 2 { m0 with imm := 0x60 }).wf (.cl .V) = false := by decide +kernel
/-- Reasons 3 and 5: lane slices outside the scratchpad, and bits that must be zero (R224, R301). -/
theorem test_wf_bits : (Instr.vldx yes 1 2 3 true false).wf (.cl .V) = false ∧ (Instr.vandLong yes 1 2 3 { m0 with ovr := 2 }).wf (.cl .V) = false
    ∧ (Instr.vaddLong yes 1 2 3 { m0 with mask := 12 }).wf (.cl .V) = false ∧ (Instr.vaddLong yes 1 2 3 { m0 with z := true }).wf (.cl .V) = false
    ∧ (Instr.vaddLong yes 1 2 3 { m0 with rm := 4 }).wf (.cl .V) = false ∧ (Instr.vaddLong yes 1 2 3 { m0 with vc := 1 }).wf (.cl .V) = false
    ∧ (Instr.vaddLong yes 1 2 3 { m0 with imm := 2 }).wf (.cl .V) = false ∧ (Instr.vaddLong yes 1 20 3 { m0 with qa := true }).wf (.cl .V) = false
    ∧ (Instr.vabsLong yes 1 2 { m0 with qb := true }).wf (.cl .V) = false ∧ (Instr.knotLong yes 1 2 { m0 with mask := 0 }).wf (.cl .V) = false
    ∧ (Instr.vstLong yes 1 2 false { m0 with mask := 0, z := true }).wf (.cl .V) = false
    ∧ (Instr.mldSparse yes 1 2 3 1 0).wf (.cl .M) = false := by decide +kernel

/-! ### The hypotheses of each statement are met -/

/-- ScalarArithmetic, CompareAndSelect, ClusterControl: a guard can be true, on a cluster and on a core. -/
theorem test_w_guard_true : (at_ .C).guardTrue yes = true ∧ core.guardTrue yes = true := by decide +kernel
theorem test_w_BitFieldsAndConstants : (at_ .C).guardTrue yes = true ∧ (0#6).toNat + (63#6).toNat + 1 ≤ 64
    ∧ (63#6).toNat + (0#6).toNat + 1 ≤ 64 := by decide +kernel
theorem test_w_FalseGuardDoesNothing : guardOf (.add no 0 0 0) = some no ∧ (at_ .C).guardTrue no = false
    ∧ guardOf (.svret no) = some no ∧ core.isSup = true ∧ core.guardTrue no = false := by decide +kernel
theorem test_w_CompareAndSelect : (7#4).toNat < 8 ∧ 8 ≤ (8#4).toNat ∧ (12#4).toNat < 13 := by decide
theorem test_w_Branches : (at_ .C).guardTrue yes = true ∧ ((at_ .C).readS 5).toNat % 4 = 0
    ∧ ((me (at_ .C) fun x => x.writeS 5 1).readS 5 = 1) ∧ (at_ .C).readS 5 ≠ 1 := by decide +kernel
theorem test_w_ScalarLoads : (mem .C).cur = .cluster 0 .C ∧ (mem .C).guardTrue yes = true
    ∧ (mem .C).Reads 0 .read ((mem .C).readS 0 + BitVec.ofInt 64 ((127#8).toInt * 8)) 8 (xl 1016) 0 false
    ∧ (mem .C).Reads 0 .read ((mem .C).readS 0) 4 (xl 0) 0 false ∧ (mem .C).Quiet 0 (xl 0) :=
  ⟨rfl, by decide +kernel, reads_of (by decide +kernel) (by decide +kernel), reads_of (by decide +kernel) (by decide +kernel),
    by unfold State.Quiet State.CleanAt; decide +kernel⟩
theorem test_w_ScalarStores : (mem .C).cur = .cluster 0 .C ∧ (mem .C).guardTrue yes = true
    ∧ (mem .C).Writes 0 .write ((mem .C).readS 0 + BitVec.ofInt 64 ((127#8).toInt * 8)) (leBytes 8 0) (xl 1016)
    ∧ (mem .C).myCtx.provisional = false ∧ (mem .C).Writes 0 .write ((mem .C).readS 0) (leBytes 4 0) (xl 0) :=
  ⟨rfl, by decide +kernel, writes_of (by decide +kernel) (by decide +kernel) (by decide +kernel), by decide +kernel,
    writes_of (by decide +kernel) (by decide +kernel) (by decide +kernel)⟩
theorem test_w_ScalarStores_provisional : (prov (mem .C)).cur = .cluster 0 .C ∧ (prov (mem .C)).guardTrue yes = true
    ∧ (prov (mem .C)).myCtx.provisional = true ∧ (prov (mem .C)).myCtx.hank.isSome = true
    ∧ (prov (mem .C)).Writes 0 .write ((mem .C).readS 0 + BitVec.ofInt 64 ((127#8).toInt * 8)) (leBytes 8 0) (xl 1016) :=
  ⟨rfl, by decide +kernel, by decide +kernel, by decide +kernel,
    writes_of (by decide +kernel) (by decide +kernel) (by decide +kernel)⟩
/-- A CAS that succeeds and one that fails. -/
theorem test_w_Atomics : (mem .C).cur = .cluster 0 .C ∧ (mem .C).guardTrue yes = true ∧ (mem .C).myCtx.provisional = false
    ∧ (mem .C).region (xl 0).pa ≠ .creel ∧ (mem .C).Reads 0 .amo ((mem .C).readS 0) 8 (xl 0) 0 false
    ∧ (mem .C).Writes 0 .amo ((mem .C).readS 0) (leBytes 8 0) (xl 0) :=
  ⟨rfl, by decide +kernel, by decide +kernel, by decide +kernel, reads_of (by decide +kernel) (by decide +kernel),
    writes_of (by decide +kernel) (by decide +kernel) (by decide +kernel)⟩
/-- A core reads and writes HBM4 and a Creel register. -/
theorem test_w_SupervisorAccesses : core.cur = .sup 0 ∧ core.guardTrue yes = true ∧ core.supCheck .read 0 8 = none
    ∧ core.supCheck .write 0 8 = none ∧ core.region 0 ≠ .creel
    ∧ core.supCheck .read (BitVec.ofNat 64 creelBase) 8 = none ∧ core.region creelBase = .creel
    ∧ core.supPoison 0 8 = false ∧ core.Free 0 ∧ core.exportWait 0 0 = none := by
  unfold State.Free; decide +kernel

/-! ### Vector statements -/

/-- A queue of two banks with producer and consumer codes and entries. -/
def queue (p c : Cl) (es : List QEntry) : Queue := { Queue.initial with prod := queueCode p, cons := queueCode c, nb := 2, entries := es }
/-- A vector entry of `n` elements of format `f`. -/
def entry (f : Fmt) (n : Nat) : QEntry :=
  { scal := false, eos := false, count := n, strip := { Strip.initial with tag := { VTag.initial with fmt := f } }
    present := SMap.tabulate false n fun _ => true, missing := [], inUse := false }
/-- A context whose VL is 2, with a queue q1 that A fills and V reads and a queue q2 that V fills. -/
def vec (s : State) : State := ctx s fun x => { x with
  v := { x.v with vl := 2 }, queues := [(1, queue .A .V [entry Fmt.fp32 2]), (2, queue .V .M [])] }
/-- The same with v1 of format `f`. -/
def vecOf (f : Fmt) : State := ctx (vec (at_ .V)) fun x => { x with
  vregs := [(1, { VReg.initial with strip := { Strip.initial with tag := { VTag.initial with fmt := f } } })] }
/-- A register and a queue as sources. -/
def regSrc (s : State) (r : RegF) (code : Nat) : VSrc := { field := { n := r, q := false, code := code }, strip := s.vreg r, entry := none }
def queSrc (f : Fmt) (q : RegF) (code : Nat) : VSrc :=
  { field := { n := q, q := true, code := code }, strip := (entry f 2).strip, entry := some (entry f 2) }
/-- The modifiers with va and vd in queues. -/
def inQueues : VMods := { VMods.short with qa := true, qd := true }

theorem read_queue {s : State} {q : RegF} {code : Nat} {e : QEntry} (h : (s.queue q.toNat).ready = some e) :
    s.readVec { n := q, q := true, code := code } = .ok { field := { n := q, q := true, code := code }, strip := e.strip, entry := some e } := by
  simp [State.readVec, State.headOf, h, Except.map]

/-- A state, its sources and a destination as the vector statements ask for them: registers, then q1 to q2. -/
def Ready (s : State) (fs : List VField) (d : VField) (m : VMods) (xs : List VSrc) (f : Fmt) : Prop :=
  s.cur = .cluster 0 .V ∧ s.guardTrue yes = true ∧ s.Opens fs [d] xs ∧ s.SourcesFit xs ∧ s.DestFits d m f ∧ s.DestRoom d (queuesOf fs) f

theorem fits_of {s : State} {xs : List VSrc} (h : xs.all (fun x => decide (s.vl ≤ s.vlmax x.fmt) && (match x.entry with
    | some e => !e.scal && decide (e.count = s.vl) && decide (s.vl ≠ 0)
    | none => true)) = true) : s.SourcesFit xs := by
  intro x hx
  have := List.all_eq_true.mp h x hx
  simp only [Bool.and_eq_true, decide_eq_true_eq] at this
  refine ⟨this.1, fun e he => ?_⟩
  have h2 := this.2
  rw [he] at h2
  simpa [Bool.and_eq_true, and_assoc] using h2

theorem test_w_VectorArithmetic : Ready (vec (at_ .V)) (polyFields 2 1 2 .short) (fieldD 3 .short) .short
      [regSrc (vec (at_ .V)) 1 1, regSrc (vec (at_ .V)) 2 2] Fmt.fp32
    ∧ (∀ l ∈ ((vec (at_ .V)).poly [Fmt.fp32, Fmt.fp32] 0).looks, l.2.2.act ≠ .forbidden)
    ∧ ((vec (at_ .V)).poly [Fmt.fp32, Fmt.fp32] 0).result = Fmt.fp32 :=
  ⟨⟨rfl, by decide +kernel, ⟨by unfold State.Whole; decide +kernel, by unfold Allowed; decide +kernel, .cons rfl (.cons rfl .nil)⟩, fits_of (by decide +kernel), by unfold State.DestFits; decide +kernel,
    by unfold State.DestRoom; decide +kernel⟩, by decide +kernel, by decide +kernel⟩
/-- VectorFunctions, VectorConversions, VectorScan: a queue to a queue. -/
theorem test_w_VectorFunctions : Ready (vec (at_ .V)) [fieldA 1 inQueues] (fieldD 2 inQueues) inQueues [queSrc Fmt.fp32 1 1] Fmt.fp32
    ∧ Fmt.fp32 ≠ Fmt.vq2 ∧ Fmt.isInt Fmt.fp32 = false ∧ ((vec (at_ .V)).lookup Fmt.fp32 Fmt.fp32).act ≠ .forbidden
    ∧ ((vec (at_ .V)).poly [Fmt.fp32] 0).result = Fmt.fp32 :=
  ⟨⟨rfl, by decide +kernel, ⟨by unfold State.Whole; decide +kernel, by unfold Allowed; decide +kernel, .cons (read_queue (by decide +kernel)) .nil⟩, fits_of (by decide +kernel),
    by unfold State.DestFits; decide +kernel, by unfold State.DestRoom; decide +kernel⟩, by decide +kernel, by decide +kernel, by decide +kernel, by decide +kernel⟩

theorem test_w_VectorBitwise : Ready (vecOf Fmt.i32) [fieldA 1 .short, fieldB 1 .short] (fieldD 3 .short) .short
      [regSrc (vecOf Fmt.i32) 1 1, regSrc (vecOf Fmt.i32) 1 2] Fmt.i32 ∧ Fmt.isInt Fmt.i32 = true :=
  ⟨⟨rfl, by decide +kernel, ⟨by unfold State.Whole; decide +kernel, by unfold Allowed; decide +kernel, .cons rfl (.cons rfl .nil)⟩, fits_of (by decide +kernel), by unfold State.DestFits; decide +kernel,
    by unfold State.DestRoom; decide +kernel⟩, by decide +kernel⟩
/-- VectorMoves and VectorPermutes: two registers, an index register and none. -/
theorem test_w_VectorMoves : Ready (vecOf Fmt.i32) [] (fieldD 3 .short) .short [] Fmt.fp32 :=
  ⟨rfl, by decide +kernel, ⟨by unfold State.Whole; decide +kernel, by unfold Allowed; decide +kernel, .nil⟩, fits_of (by decide +kernel), by unfold State.DestFits; decide +kernel,
    by unfold State.DestRoom; decide +kernel⟩
theorem test_w_VectorPermutes : Ready (vecOf Fmt.i32) [fieldA 2 .short, fieldB 1 .short] (fieldD 3 .short) .short
      [regSrc (vecOf Fmt.i32) 2 1, regSrc (vecOf Fmt.i32) 1 2] Fmt.fp32
    ∧ (stripOf [regSrc (vecOf Fmt.i32) 2 1, regSrc (vecOf Fmt.i32) 1 2] 1).tag.f.isInt = true
    ∧ srcFmt [regSrc (vecOf Fmt.i32) 2 1, regSrc (vecOf Fmt.i32) 1 2] = Fmt.fp32 ∧ VMods.short.mask = 15 ∧ VMods.short.z = false :=
  ⟨⟨rfl, by decide +kernel, ⟨by unfold State.Whole; decide +kernel, by unfold Allowed; decide +kernel, .cons rfl (.cons rfl .nil)⟩, fits_of (by decide +kernel), by unfold State.DestFits; decide +kernel,
    by unfold State.DestRoom; decide +kernel⟩, by decide +kernel⟩
/-- VCVT to FP32 and VSCALE of a block-scaled register. -/
theorem test_w_VectorConversions : Ready (vecOf (5 : Fmt)) [fieldA 1 .short] (fieldD 3 .short) .short [regSrc (vecOf (5 : Fmt)) 1 1] (5 : Fmt)
    ∧ srcFmt [regSrc (vecOf (5 : Fmt)) 1 1] = (5 : Fmt) ∧ (5 : Fmt) ≠ Fmt.vq2 ∧ (5 : Fmt) ≠ Fmt.none
    ∧ ((VMods.short.imm.extractLsb' 0 5 : Fmt) ≠ Fmt.vq2) :=
  ⟨⟨rfl, by decide +kernel, ⟨by unfold State.Whole; decide +kernel, by unfold Allowed; decide +kernel, .cons rfl .nil⟩, fits_of (by decide +kernel), by unfold State.DestFits; decide +kernel,
    by unfold State.DestRoom; decide +kernel⟩, by decide +kernel⟩
/-- VCVT of a VQ2 register with VL 8. -/
theorem test_w_VectorConversions_vq2 :
    let s := me (vecOf Fmt.vq2) fun x => { x with vl := 8 }
    let m := { VMods.short with imm := 2 }
    m.qa = false ∧ (m.imm.extractLsb' 0 5 : Fmt) ≠ Fmt.vq2 ∧ (s.vreg 1).tag.fmt = Fmt.vq2 ∧ s.vl % 8 = 0 ∧ s.vl / 8 ≤ s.vlmax Fmt.vq2
      ∧ Allowed (s.queueChecks [] (queuesOf [fieldD 3 m])) ∧ s.DestFits (fieldD 3 m) m Fmt.fp32 ∧ s.DestRoom (fieldD 3 m) [] Fmt.fp32 := by
  unfold Allowed State.DestFits State.DestRoom; decide +kernel
theorem test_w_VectorScan :
    let xs := [queSrc Fmt.fp32 1 1]
    srcFmt xs ≠ Fmt.vq2 ∧ srcFmt xs ≠ Fmt.none ∧ (vec (at_ .V)).vl ≤ (vec (at_ .V)).vlmax Fmt.fp32 ∧ Fmt.isReal (srcFmt xs) = true := by
  decide +kernel
/-- VectorToScalar, real and integer sources. -/
theorem test_w_VectorToScalar : (vec (at_ .V)).Opens [fieldA 1 inQueues] [] [queSrc Fmt.fp32 1 1] ∧ (vec (at_ .V)).SourcesFit [queSrc Fmt.fp32 1 1]
    ∧ (queSrc Fmt.fp32 1 1).fmt ≠ Fmt.vq2 ∧ (queSrc Fmt.fp32 1 1).fmt ≠ Fmt.none ∧ ((vecOf Fmt.i32).vreg 1).tag.f.isInt = true :=
  ⟨⟨by unfold State.Whole; decide +kernel, by unfold Allowed; decide +kernel, .cons (read_queue (by decide +kernel)) .nil⟩, fits_of (by decide +kernel), by decide +kernel⟩
theorem test_w_VectorCompare : (vecOf Fmt.i32).Opens [fieldA 1 .short, fieldB 1 .short] [] [regSrc (vecOf Fmt.i32) 1 1, regSrc (vecOf Fmt.i32) 1 2]
    ∧ (vecOf Fmt.i32).SourcesFit [regSrc (vecOf Fmt.i32) 1 1, regSrc (vecOf Fmt.i32) 1 2]
    ∧ ((vecOf Fmt.i32).lookup Fmt.i32 Fmt.i32).act ≠ .forbidden :=
  ⟨⟨by unfold State.Whole; decide +kernel, by unfold Allowed; decide +kernel, .cons rfl (.cons rfl .nil)⟩, fits_of (by decide +kernel), by decide +kernel⟩
theorem test_w_MaskOperations : (vec (at_ .V)).cur = .cluster 0 .V ∧ (vec (at_ .V)).guardTrue yes = true ∧ (vec (at_ .V)).Whole := by
  unfold State.Whole; decide +kernel

/-! ### Queues, lengths, codebooks and streams -/

/-- A cluster with q3 between C and A, q4 empty, full and closed queues. -/
def scalarEntry : QEntry := { entry Fmt.i64 1 with scal := true }
def queues : State := ctx (at_ .C) fun x => { x with queues := [(1, queue .C .A []), (2, queue .A .C [scalarEntry]), (3, queue .A .C []),
  (4, queue .C .A (List.replicate 64 scalarEntry)), (5, { queue .C .A [] with closed := true })] }
theorem test_w_ScalarQueues : queues.guardTrue yes = true ∧ queues.PushRoom 1 ∧ queues.popOk 2 = true ∧ (queues.queue 2).ready = some scalarEntry
    ∧ scalarEntry.scal = true ∧ (queues.queue 1).nb ≠ 0 ∧ queues.pushOk 1 = true := by
  unfold State.PushRoom; decide +kernel
/-- A full queue, one of another cluster, a closed one, and an empty one. -/
theorem test_w_ScalarQueues_waits : queues.pushOk 4 = true ∧ (queues.queue 4).closed = false ∧ 64 ≤ (queues.queue 4).entries.length
    ∧ queues.pushOk 2 = false ∧ queues.pushOk 5 = true ∧ (queues.queue 5).closed = true
    ∧ queues.popOk 3 = true ∧ (queues.queue 3).ready = none ∧ queues.popOk 1 = false := by decide +kernel
theorem test_w_VectorConfiguration :
    let v : Word := 0x0105
    let t : VTag := { fmt := v.extractLsb' 0 5, vsum := v.extractLsb' 5 3, blk := v.extractLsb' 8 2 }
    v.toNat < 2 ^ 10 ∧ t.f.allocated = true ∧ t.vsum ∈ [vsValid, vsZero, vsPoison] ∧ t.blk ≠ 3 ∧ (t.blk = 0 ∨ t.f.isScaled = true)
      ∧ SMap.wf VReg.initial (at_ .V).myCtx.vregs = true ∧ SMap.wf [] (at_ .V).myCtx.masks = true
      ∧ SMap.wf 0 ((at_ .V).vreg 0).elems = true := by decide +kernel

theorem test_w_CodebooksAndVectorPops : (mem .V).guardTrue yes = true ∧ ((mem .V).readS 0).toNat % 1024 = 0
    ∧ (mem .V).ReadsLines 0 ((mem .V).readS 0) (List.replicate 8 0) ∧ (vec (at_ .V)).popOk 1 = true
    ∧ ((vec (at_ .V)).queue 1).ready = some (entry Fmt.fp32 2) ∧ (entry Fmt.fp32 2).count ≤ (vec (at_ .V)).vlmax Fmt.fp32 :=
  ⟨by decide +kernel, by decide +kernel, by
    have h : ∀ k < 8, (((mem .V).opened 0 ((mem .V).readS 0 + BitVec.ofNat 64 (128 * k))).access 0 .read ((mem .V).readS 0 + BitVec.ofNat 64 (128 * k))
            (decide (((mem .V).readS 0 + BitVec.ofNat 64 (128 * k)).toNat % 128 = 0)) = .ok (xl (128 * k))
          ∧ ((mem .V).opened 0 ((mem .V).readS 0 + BitVec.ofNat 64 (128 * k))).reach 0 .read (xl (128 * k)) = .ok ())
        ∧ (if ((mem .V).accessed 0 ((mem .V).readS 0 + BitVec.ofNat 64 (128 * k)) (xl (128 * k))).region (xl (128 * k)).pa = .creel then
            (List.replicate 8 0).getD k 0 = 0 ∧ false = false
          else (((mem .V).accessed 0 ((mem .V).readS 0 + BitVec.ofNat 64 (128 * k)) (xl (128 * k))).seenLine 0 (xl (128 * k))).readRaw (xl (128 * k)).typed
            (xl (128 * k)).par.w (xl (128 * k)).par.ppol ((xl (128 * k)).va % 128) 128 = .ok ((List.replicate 8 0).getD k 0, false))
        ∧ (mem .V).Quiet 0 (xl (128 * k)) := by unfold State.Quiet State.CleanAt; decide +kernel
    intro k hk
    obtain ⟨h1, h2, h3⟩ := h k (by simpa using hk)
    exact ⟨xl (128 * k), reads_of h1 h2, h3⟩, by decide +kernel, by decide +kernel, by decide +kernel⟩
/-- A descriptor of one element and no operator. -/
def descriptor : List Byte :=
  leBytes 8 0 ++ leBytes 8 4 ++ leBytes 16 0 ++ leBytes 4 1 ++ leBytes 4 1 ++ leBytes 4 1 ++ leBytes 2 1 ++ List.replicate 18 0
def streams : State := ctx ((mem .C).setBytes 0x200000 descriptor) fun x => { x with
  queues := [(1, { Queue.initial with prod := streamCode, cons := queueCode .A, nb := 2 })] }
theorem test_w_StreamBindings : streams.guardTrue yes = true ∧ (streams.queue 1).nb ≠ 0 ∧ (streams.queue 1).prod = streamCode
    ∧ (streams.queue 1).stream = none ∧ streams.Reads 0 .read (streams.readS 0) 64 (xl 0) (leNat descriptor) false ∧ streams.Quiet 0 (xl 0)
    ∧ streamOk (leBytes 64 (leNat descriptor)) = true ∧ (streams.queue 1).entries = [] ∧ (streams.queue 1).unplaced = [] :=
  ⟨by decide +kernel, by decide +kernel, by decide +kernel, by decide +kernel, reads_of (by decide +kernel) (by decide +kernel),
    by unfold State.Quiet State.CleanAt; decide +kernel, by decide +kernel, by decide +kernel, by decide +kernel⟩

/-! ### Vector, queue and tile accesses -/

/-- The elements that an access finds. -/
def gots (s : State) (l : List (Spot × Xlate)) : List (Nat × Got) := l.filterMap fun p =>
  ((s.accessLine 0 p.2).read p.2.typed p.2.par.w p.2.par.ppol (p.2.va % 128) p.1.nib).toOption.map fun g => (p.1.i, g)

/-- Walks that leave no trace one by one leave none together. -/
theorem prewalks_quiet {s : State} {l : List Word} (h : ∀ va ∈ l, s.opened 0 va = s) : s.prewalks 0 l = s := by
  unfold State.prewalks
  induction l with
  | nil => rfl
  | cons va l ih =>
    have h0 : s.prewalk (unitOf 0) (s.ctx 0).asd va = s := h va (by simp)
    rw [List.foldl_cons, h0]
    exact ih fun v hv => h v (by simp [hv])

theorem noteOutside_quiet {s : State} {k : MemKind} {xs : List Xlate} {pc info : Word}
    (h : ∀ x ∈ xs, (s.region x.pa == .host && s.extPoison.get false (x.pa / 128)) = false) : s.noteOutside 0 pc info k xs = s := by
  unfold State.noteOutside
  have e : (xs.filter fun x => s.region x.pa == .host && s.extPoison.get false (x.pa / 128)) = [] :=
    List.filter_eq_nil_iff.2 fun x hx => by simp [h x hx]
  simp [e]

theorem basesFit_of {s : State} {rows : List Machine.Row} {rs : List (List Spot × Option Par)} {xs : List Xlate}
    (h : ((rows.zip ((rs.map Prod.snd).zip (cutInto (rs.map fun r => r.1.length) xs))).all fun p => p.2.1.all fun q =>
      (firstFmt (p.2.2.map fun x => (x, s.accessLine 0 x))).all fun f => !q.baseBad f p.1.base) = true) : s.BasesFit 0 rows rs xs := by
  intro p hp q f hq hf
  simpa using some_of (some_of (List.all_eq_true.1 h p hp) q hq) f hf

/-- A gather that leaves no trace, as its parts that evaluation checks. -/
theorem gathersRows_of {s : State} {rows : List Machine.Row} {contig : Bool} {rs : List (List Spot × Option Par)} {xs : List Xlate}
    {gs : List (Nat × Got)} (p1 : ∀ r ∈ rows, s.opened 0 r.base = s) (p2 : ∀ p ∈ rs.flatMap Prod.fst, s.opened 0 p.va = s)
    (h0 : s.touch xs = s) (hn : ∀ x ∈ xs, (s.region x.pa == .host && s.extPoison.get false (x.pa / 128)) = false)
    (h1 : List.Forall₂ (fun r p => s.rowSpots 0 .read r = .ok p) rows rs)
    (h2 : List.Forall₂ (fun p x => s.spotReach 0 .read p = .ok x) (rs.flatMap Prod.fst) xs)
    (h4 : ∀ x ∈ xs, (s.accessLine 0 x).tag.cls x.typed x.par.w ≠ .transit) (h5 : s.BasesFit 0 rows rs xs)
    (h6 : List.Forall₂ (fun p g => (s.accessLine 0 p.2).read p.2.typed p.2.par.w p.2.par.ppol (p.2.va % 128) p.1.nib = .ok g.2
      ∧ g.1 = p.1.i) ((rs.flatMap Prod.fst).zip xs) gs) : s.GathersRows 0 rows contig xs gs s := by
  have e1 : s.prewalks 0 ((rows.filter fun r => !r.is.isEmpty).map Row.base) = s := prewalks_quiet fun va hva => by
    obtain ⟨r, hr, rfl⟩ := List.mem_map.1 hva
    exact p1 r (List.mem_filter.1 hr).1
  have e2 : s.prewalks 0 ((rs.flatMap Prod.fst).map Spot.va) = s := prewalks_quiet fun va hva => by
    obtain ⟨p, hp, rfl⟩ := List.mem_map.1 hva
    exact p2 p hp
  refine ⟨rs, ?_⟩
  simp only [e1, e2]
  exact ⟨h1, h2, by rw [h0, noteOutside_quiet hn], h4, fun _ => ⟨h5, h5⟩, h6⟩

/-- A scatter as its parts that evaluation checks. -/
theorem scatters_of {s : State} {base : Word} {pl : Places} {contig : Bool} {f : Fmt} {els : List (Nat × SElem)} {sps : List Spot}
    {bx : Option Par} {xs : List Xlate} (h0 : s.me.late = false ∧ s.opened 0 base = s)
    (h1 : s.spots 0 .write base pl (els.map Prod.fst) = .ok (sps, bx)) (h2 : (bx.all fun x => !x.baseBad f base) = true)
    (h3 : List.Forall₂ (fun p x => s.spotAccess 0 .write p = .ok x) sps xs) (h4 : ∀ x ∈ xs, s.Storable 0 f x)
    (h5 : ∀ x ∈ xs, ∀ y ∈ xs, x.par = y.par ∧ x.host = y.host ∧ x.entry.pslot = y.entry.pslot) : s.Scatters 0 base pl contig f els sps xs :=
  ⟨h0.1, fun _ => h0.2, ⟨bx, h1, fun _ x hx => by simpa using some_of h2 x hx⟩, h3, h4, h5⟩

def vmem : State := vec (mem .V)
def lane : Places := .positions fun j => j

theorem test_w_VectorLoads : vmem.Opens [] [fieldD 1 .short] [] ∧ vmem.SourcesFit []
    ∧ vmem.Gathers 0 (vmem.readS 0) (.positions (indicesOf []).pos) true
        ((List.range vmem.vl).filter fun j => vmem.active VMods.short.mask j && (indicesOf []).has j)
        [xl 0, xl 4] (gots vmem [(⟨0, 0, false⟩, xl 0), (⟨1, 4, false⟩, xl 4)]) vmem
    ∧ (gots vmem [(⟨0, 0, false⟩, xl 0), (⟨1, 4, false⟩, xl 4)]).length = 2
    ∧ (∀ p ∈ gots vmem [(⟨0, 0, false⟩, xl 0), (⟨1, 4, false⟩, xl 4)], p.2.poison = false ∧ p.2.fmt = Fmt.fp32)
    ∧ (vmem.myCtx.vregs.get .initial 1).missing = [] ∧ vmem.vl ≤ vmem.vlmax Fmt.fp32 ∧ vmem.DestRoom (fieldD 1 .short) [] Fmt.fp32 :=
  ⟨⟨by unfold State.Whole; decide +kernel, by unfold Allowed; decide +kernel, .nil⟩, fits_of (by decide +kernel),
    gathersRows_of (rs := [([⟨0, 0, false⟩, ⟨1, 4, false⟩], some (pageOf Fmt.fp32).par)]) (by simp only [List.mem_singleton, forall_eq]; decide +kernel)
      (by decide +kernel) (by decide +kernel) (by decide +kernel) (.cons (by decide +kernel) .nil) (by decide +kernel) (by decide +kernel)
      (basesFit_of (by decide +kernel)) (by decide +kernel), by decide +kernel, by decide +kernel, by decide +kernel, by decide +kernel,
    by unfold State.DestRoom; decide +kernel⟩
/-- An index operand in a register, and the lack of an active element. -/
theorem test_w_VectorLoads_indexed : (vecOf Fmt.i32).Opens [fieldB 1 .short] [fieldD 2 .short] [regSrc (vecOf Fmt.i32) 1 2]
    ∧ (vecOf Fmt.i32).SourcesFit [regSrc (vecOf Fmt.i32) 1 2] ∧ Fmt.isInt (regSrc (vecOf Fmt.i32) 1 2).fmt = true
    ∧ (vmem.Gathers 0 0 lane false [] [] [] vmem) ∧ ∀ j, (at_ .V).active 15 j = false :=
  ⟨⟨by unfold State.Whole; decide +kernel, by unfold Allowed; decide +kernel, .cons rfl .nil⟩, fits_of (by decide +kernel), by decide +kernel,
    gathersRows_of (rs := [([], none)]) (by simp only [List.mem_singleton, forall_eq]; decide +kernel) (by simp) rfl (by simp) (.cons rfl .nil) .nil
      (by simp) (basesFit_of (by decide +kernel)) .nil, fun j => by
      have : (at_ .V).vl = 0 := by decide +kernel
      simp [State.active, this]⟩
def scratchy : State := { vec (at_ .V) with banks := [(0, .scratch 0)] }
/-- VectorLoads, the scratchpad forms: elements at byte 8, contiguous. -/
theorem test_w_VectorLoads_scratch : scratchy.Opens [] [] [] ∧ Allowed (scratchy.vmemChecks [] [((scratchy.vreg 1).tag.f, 0)] false)
    ∧ scratchy.spPlaces 8 (scratchy.vreg 1).tag.f false true (indicesOf []) ((scratchy.actives 15).filter (indicesOf []).has)
      = .ok [(0, 64), (1, 96)] :=
  ⟨⟨by unfold State.Whole; decide +kernel, by unfold Allowed; decide +kernel, .nil⟩, by unfold Allowed; decide +kernel, by decide +kernel⟩
theorem test_w_VectorStores : vmem.vl ≤ vmem.vlmax (vmem.vreg 1).tag.fmt ∧ vmem.myCtx.provisional = false
    ∧ vmem.Scatters 0 (vmem.readS 0) (.positions (indicesOf []).pos) true (vmem.vreg 1).tag.fmt
        (((vmem.actives 15).filter (indicesOf []).has).map fun j => (j, (vmem.vreg 1).selem j)) [⟨0, 0, false⟩, ⟨1, 4, false⟩] [xl 0, xl 4] :=
  ⟨by decide +kernel, by decide +kernel, scatters_of (bx := some (pageOf Fmt.fp32).par) (by decide +kernel) (by decide +kernel) (by decide +kernel) (by decide +kernel)
    (by unfold State.Storable State.Quiet State.CleanAt; decide +kernel) (by decide +kernel)⟩
/-- An A cluster with VL 2, a queue to fill and queues with data and with indices. -/
def access : State := ctx (mem .A) fun x => { x with
  a := { x.a with vl := 2 }, queues := [(1, queue .A .V []), (2, queue .V .A [entry Fmt.fp32 2]), (3, queue .V .A [entry Fmt.i32 2])] }
theorem test_w_QueueLoadsAndStores : access.pushOk 1 = true ∧ (access.queue 1).closed = false ∧ access.me.vl.toNat = 2
    ∧ (∀ e ∈ (access.queue 1).entries, e.missing = [])
    ∧ access.Gathers 0 (access.readS 0) lane true [0, 1] [xl 0, xl 4] (gots access [(⟨0, 0, false⟩, xl 0), (⟨1, 4, false⟩, xl 4)]) access
    ∧ access.popOk 3 = true ∧ (access.queue 3).ready = some (entry Fmt.i32 2) ∧ Fmt.isInt Fmt.i32 = true
    ∧ access.popOk 2 = true ∧ (access.queue 2).ready = some (entry Fmt.fp32 2) ∧ (entry Fmt.fp32 2).places = [0, 1]
    ∧ access.myCtx.provisional = false
    ∧ access.Scatters 0 (access.readS 0) lane true Fmt.fp32 ([0, 1].map fun j => (j, (entry Fmt.fp32 2).strip.selem j))
        [⟨0, 0, false⟩, ⟨1, 4, false⟩] [xl 0, xl 4] :=
  ⟨by decide +kernel, by decide +kernel, by decide +kernel, by decide +kernel,
    gathersRows_of (rs := [([⟨0, 0, false⟩, ⟨1, 4, false⟩], some (pageOf Fmt.fp32).par)]) (by simp only [List.mem_singleton, forall_eq]; decide +kernel)
      (by decide +kernel) (by decide +kernel) (by decide +kernel) (.cons (by decide +kernel) .nil) (by decide +kernel) (by decide +kernel)
      (basesFit_of (by decide +kernel)) (by decide +kernel), by decide +kernel, by decide +kernel, by decide +kernel, by decide +kernel, by decide +kernel,
    by decide +kernel, by decide +kernel,
    scatters_of (bx := some (pageOf Fmt.fp32).par) (by decide +kernel) (by decide +kernel) (by decide +kernel) (by decide +kernel)
      (by unfold State.Storable State.Quiet State.CleanAt; decide +kernel) (by decide +kernel)⟩
theorem test_w_QueueLoadsAndStores_zero : ((at_ .A).me.vl.toNat = 0) ∧ queues.pushOk 1 = true := by decide +kernel

/-! ### Matrix statements -/

/-- A name that holds a content: fixed claims of 4 slots. -/
def tile (k : TileKind) (n : Nat) (f : Fmt) : Tile := { Tile.unbound with kind := k, ncl := 4, held := [0, 1, 2, 3], rank := n, fmt := f }
/-- m0 unbound, m1 a pair of rank 1, m2 dense FP32, m3 dense I8, m4 free of content; a quota of 16 slots. -/
def matrix : State := ctx (mem .M) fun x => { x with
  tosq := 16, tiles := [(1, tile .factor 1 0), (2, tile .dense 0 Fmt.fp32), (3, tile .dense 0 Fmt.i8), (4, tile .factor 0 0), (5, tile .dense 0 Fmt.bf16)] }
theorem test_w_MatrixNames : matrix.guardTrue yes = true ∧ (matrix.tile 0).kind = .unbound ∧ (4 : Nat) ≤ matrix.myCtx.freeSlots.length
    ∧ (matrix.tile 1).kind = .factor ∧ matrix.Room 4 (pairNeed (matrix.tile 1).rank) ∧ (matrix.tile 1).rank ≤ matrix.myCtx.rkcap.toNat
    ∧ (matrix.tile 2).kind = .dense ∧ (matrix.tile 2).fmt ≠ Fmt.vq2 ∧ matrix.Room 4 (denseNeed (matrix.tile 2).fmt) ∧ matrix.Room 4 4 := by
  unfold State.Room; decide +kernel
/-- Ranks within and above the cap. -/
def capped : State := ctx matrix fun x => { x with rkcap := 1 }
theorem test_w_LowRankOperations : min (matrix.tile 1).rank (matrix.tile 1).rank ≤ matrix.myCtx.rkcap.toNat ∧ matrix.Room 4 (pairNeed 1)
    ∧ (matrix.tile 1).rank + (matrix.tile 1).rank ≤ matrix.myCtx.rkcap.toNat ∧ matrix.Room 4 (pairNeed 2)
    ∧ capped.myCtx.rkcap.toNat < (capped.tile 1).rank + (capped.tile 1).rank ∧ capped.Room 4 4 ∧ (matrix.tile 4).kind ≠ .unbound := by
  unfold State.Room; decide +kernel
theorem test_w_MatrixProducts : (matrix.lookup Fmt.bf16 Fmt.bf16).act ≠ .forbidden ∧ accKind (matrix.lookup Fmt.bf16 Fmt.bf16).cf = some .fp32
    ∧ (matrix.acc 0).kind = .free ∧ (matrix.lookup Fmt.i8 Fmt.i8).act ≠ .forbidden ∧ accKind (matrix.lookup Fmt.i8 Fmt.i8).cf = some .i32
    ∧ (matrix.tile 1).kind = .factor ∧ (matrix.tile 5).kind = .dense := by decide +kernel
def matrixQueue : State := ctx matrix fun x => { x with queues := [(1, { queue .M .V [] with nb := 8 })] }
theorem test_w_Accumulators : matrix.Room 4 (denseNeed Fmt.fp32) ∧ 2 ^ (0#2).toNat * 256 ≤ 64 * Fmt.width Fmt.fp32 ∧ matrixQueue.pushOk 1 = true
    ∧ (matrixQueue.queue 1).closed = false ∧ (matrixQueue.queue 1).unplaced = []
    ∧ (matrixQueue.queue 1).entries.length + (64 - (matrixQueue.me.start.get 0 0).toNat) ≤ 64
    ∧ (64 - (matrixQueue.me.start.get 0 0).toNat) * ((64 * Fmt.width Fmt.fp32 + 2047) / 2048) ≤ (matrixQueue.queue 1).free := by
  unfold State.Room; decide +kernel

/-! The 64 rows of a tile may all lie at address 0. -/

def flat (n : Nat) : List Machine.Row := tileRows 0 0 fun _ => n
def cells (f : Fmt) (n i : Nat) : List Spot := (List.range n).map fun j => ⟨64 * i + j, BitVec.ofNat 64 (f.width / 8 * j), false⟩
def places (f : Fmt) (n : Nat) : List (List Spot × Option Par) := (List.range 64).map fun i => (cells f n i, some (pageOf f).par)
def reached (f : Fmt) (n : Nat) : List Xlate := (List.range 64).flatMap fun _ => (List.range n).map fun j => xlOf f (f.width / 8 * j)
def zeroGot : Got := { fmt := Fmt.fp32, blk := 0, code := 0, scale := 0x7F, zero := false, poison := false }
def zeros (n : Nat) : List (Nat × Got) := (List.range 64).flatMap fun i => (List.range n).map fun j => (64 * i + j, zeroGot)

theorem flat_spots {s : State} {f : Fmt} {k : MemKind} {n : Nat} (h : s.spots 0 k 0 lane (List.range n)
    = .ok ((List.range n).map fun j => ⟨j, BitVec.ofNat 64 (f.width / 8 * j), false⟩, some (pageOf f).par)) :
    List.Forall₂ (fun r p => s.rowSpots 0 k r = .ok p) (flat n) (places f n) := by
  unfold flat tileRows places
  rw [List.forall₂_map_left_iff, List.forall₂_map_right_iff, List.forall₂_same]
  intro i _
  have hb : (0 : Word) + BitVec.ofInt 64 ((i : Int) * (0 : Word).toInt) = 0 := by simp
  unfold lane at h
  simp only [State.rowSpots, cells, rowBase]
  rw [hb, h]
  simp [Except.map]

theorem flat_access {acc : Spot → Except Deny Xlate} (ha : ∀ p q, p.va = q.va → acc p = acc q) {f : Fmt} {n : Nat}
    (h : ∀ j < n, acc ⟨0, BitVec.ofNat 64 (f.width / 8 * j), false⟩ = .ok (xlOf f (f.width / 8 * j))) :
    List.Forall₂ (fun p x => acc p = .ok x) ((places f n).flatMap Prod.fst) (reached f n) := by
  have e : (places f n).flatMap Prod.fst = (List.range 64).flatMap (cells f n) := by simp [places, List.flatMap_map]
  rw [e]
  unfold reached
  generalize List.range 64 = l
  induction l with
  | nil => exact .nil
  | cons i t ih =>
    rw [List.flatMap_cons, List.flatMap_cons]
    refine List.rel_append ?_ ih
    unfold cells
    rw [List.forall₂_map_left_iff, List.forall₂_map_right_iff, List.forall₂_same]
    intro j hj
    exact (ha ⟨64 * i + j, BitVec.ofNat 64 (f.width / 8 * j), false⟩ ⟨0, BitVec.ofNat 64 (f.width / 8 * j), false⟩ rfl).trans (h j (List.mem_range.mp hj))

theorem reached_all {f : Fmt} {n : Nat} {p : Xlate → Prop} (h : ∀ j < n, p (xlOf f (f.width / 8 * j))) : ∀ x ∈ reached f n, p x := by
  intro x hx
  simp only [reached, List.mem_flatMap, List.mem_map, List.mem_range] at hx
  obtain ⟨_, _, j, hj, rfl⟩ := hx
  exact h j hj

theorem reach_same (s : State) (k : MemKind) : ∀ p q : Spot, p.va = q.va → s.spotReach 0 k p = s.spotReach 0 k q := by
  intro p q h; simp only [State.spotReach, State.spotAccess, h]
theorem access_same (s : State) (k : MemKind) : ∀ p q : Spot, p.va = q.va → s.spotAccess 0 k p = s.spotAccess 0 k q := by
  intro p q h; simp only [State.spotAccess, h]

theorem flat_touch {s : State} {f : Fmt} {n : Nat} (h : ∀ j < n, s.Quiet 0 (xlOf f (f.width / 8 * j))) : s.touch (reached f n) = s := by
  have h1 : ∀ l : List Xlate, (∀ x ∈ l, x.walked = false ∧ x.setD = false ∧ x.entry.unit = x.unit) → ∀ s : State, s.useAll l = s := by
    intro l
    induction l with
    | nil => intro _ s; rfl
    | cons x t ih =>
      intro h s
      have hx := h x (by simp)
      rw [State.useAll, List.foldl_cons, State.useXlate_quiet s x hx.1 hx.2.1 hx.2.2]
      exact ih (fun y hy => h y (by simp [hy])) s
  have h2 : ∀ (l : List Nat) (s : State), (∀ b ∈ l, s.scrub b = s) → l.foldl State.scrub s = s := by
    intro l
    induction l with
    | nil => intro s _; rfl
    | cons b t ih => intro s h; rw [List.foldl_cons, h b (by simp)]; exact ih s (fun y hy => h y (by simp [hy]))
  unfold State.touch
  rw [h1 _ (by
    intro x hx
    obtain ⟨y, hy, rfl⟩ := List.mem_map.mp hx
    exact ⟨reached_all (p := fun y => y.walked = false) (fun _ _ => rfl) y hy, rfl, reached_all (p := fun y => y.entry.unit = y.unit) (fun _ _ => rfl) y hy⟩)]
  refine h2 _ _ fun b hb => ?_
  obtain ⟨x, hx, rfl⟩ := List.mem_map.1 (List.mem_eraseDups.1 hb)
  exact s.scrub_readUnit x.pa (reached_all (p := fun x => s.CleanAt x.pa) (fun j hj => (h j hj).2.2.2.2) x hx)

theorem flat_gathers {s : State} {n : Nat} {contig : Bool} (h0 : ∀ j < n, s.Quiet 0 (xlOf Fmt.fp32 (4 * j)))
    (hn : ∀ j < n, s.region (xl (4 * j)).pa ≠ .host) (hb : s.opened 0 0 = s)
    (h1 : s.spots 0 .read 0 lane (List.range n)
      = .ok ((List.range n).map fun j => ⟨j, BitVec.ofNat 64 (4 * j), false⟩, some (pageOf Fmt.fp32).par))
    (h2 : ∀ j < n, s.spotReach 0 .read ⟨0, BitVec.ofNat 64 (4 * j), false⟩ = .ok (xl (4 * j)))
    (h4 : ∀ j < n, (s.accessLine 0 (xl (4 * j))).tag.cls false 1 ≠ .transit)
    (h5 : ∀ j < n, (s.accessLine 0 (xl (4 * j))).read false 1 false (4 * j % 128) false = .ok zeroGot) :
    s.GathersRows 0 (flat n) contig (reached Fmt.fp32 n) (zeros n) s := by
  refine gathersRows_of (rs := places Fmt.fp32 n) ?_ ?_ (flat_touch h0) (reached_all fun j hj => ?_) (flat_spots h1)
    (flat_access (reach_same s .read) h2) (reached_all h4) ?_ ?_
  · intro r hr
    obtain ⟨i, _, rfl⟩ := List.mem_map.1 hr
    have hbase : rowBase (0 : Word) 0 i = 0 := by simp [rowBase]
    rw [hbase]; exact hb
  · intro p hp
    obtain ⟨q, hq, hqp⟩ := List.mem_flatMap.1 hp
    obtain ⟨i, _, rfl⟩ := List.mem_map.1 hq
    obtain ⟨j, hj, rfl⟩ := List.mem_map.1 hqp
    exact (h0 j (List.mem_range.1 hj)).1
  · have : s.region (xlOf Fmt.fp32 (Fmt.width Fmt.fp32 / 8 * j)).pa ≠ .host := hn j hj
    simp [this]
  · intro p hp q f hq hf
    have h := (List.of_mem_zip (List.of_mem_zip hp).2).1
    obtain ⟨a, ha, hax⟩ := List.mem_map.mp h
    obtain ⟨i, _, rfl⟩ := List.mem_map.mp ha
    rw [← hax] at hq
    cases hq
    rfl
  · have e : (places Fmt.fp32 n).flatMap Prod.fst = (List.range 64).flatMap (cells Fmt.fp32 n) := by simp [places, List.flatMap_map]
    rw [e]
    unfold reached zeros
    generalize List.range 64 = l
    induction l with
    | nil => exact .nil
    | cons i t ih =>
      rw [List.flatMap_cons, List.flatMap_cons, List.flatMap_cons, List.zip_append (by simp [cells])]
      refine List.rel_append ?_ ih
      unfold cells
      rw [List.zip_map', List.forall₂_map_left_iff, List.forall₂_map_right_iff, List.forall₂_same]
      intro j hj
      exact ⟨h5 j (List.mem_range.mp hj), rfl⟩

theorem zeros_all {n : Nat} {p : Got → Prop} (h : p zeroGot) : ∀ q ∈ zeros n, p q.2 := by
  intro q hq
  simp only [zeros, List.mem_flatMap, List.mem_map, List.mem_range] at hq
  obtain ⟨_, _, _, _, rfl⟩ := hq
  exact h

/-- Rows that hold no VQ2 line read 64 elements. -/
theorem flat_rows {vq : List Bool} (h : ∀ i < 64, vq.getD i false = false) : tileRows 0 0 (rowReads vq) = flat 64 := by
  unfold flat tileRows
  refine List.map_congr_left fun i hi => ?_
  simp only [rowReads, h i (List.mem_range.1 hi), Bool.false_eq_true, if_false]
/-- MatrixLoads: dense rows of 64 elements, and rows for an accumulator. -/
theorem test_w_MatrixLoads : (mem .M).readS 0 = 0
    ∧ (mem .M).GathersRows 0 (tileRows 0 0 (rowReads ((mem .M).vq2Rows 0 0 0))) true (reached Fmt.fp32 64) (zeros 64) (mem .M)
    ∧ (∀ q ∈ zeros 64, q.2.poison = false ∧ q.2.fmt = Fmt.fp32) :=
  ⟨by decide +kernel, by
    rw [flat_rows (by decide +kernel)]
    exact flat_gathers (by unfold State.Quiet State.CleanAt; decide +kernel) (by decide +kernel) (by decide +kernel) (by decide +kernel) (by decide +kernel)
      (by decide +kernel) (by decide +kernel), zeros_all (p := fun g => g.poison = false ∧ g.fmt = Fmt.fp32) ⟨rfl, rfl⟩⟩
/-- The sparse form: rows of 32 elements, and, in a state that holds one, a metadata word whose groups keep elements 0 and 1. -/
def sparse : State := { mem .M with mem := (List.range 8).map fun i => (0x201000 + i, 0x44) }
theorem test_w_MatrixLoads_sparse : (mem .M).GathersRows 0 (flat 32) true (reached Fmt.fp32 32) (zeros 32) (mem .M)
    ∧ badMeta false (List.replicate 64 0x4444444444444444) = none
    ∧ sparse.Reads 0 .read 0x1000 8 (xl 0x1000) 0x4444444444444444 false ∧ sparse.Quiet 0 (xl 0x1000) :=
  ⟨flat_gathers (by unfold State.Quiet State.CleanAt; decide +kernel) (by decide +kernel) (by decide +kernel) (by decide +kernel) (by decide +kernel)
      (by decide +kernel) (by decide +kernel), by decide +kernel, reads_of (by decide +kernel) (by decide +kernel),
    by unfold State.Quiet State.CleanAt; decide +kernel⟩
/-- A pair of rank 1 read from and stored to address 0. -/
theorem test_w_PairLoadsAndStores : matrix.Room 4 (pairNeed 1)
    ∧ matrix.headFmt 0 ((List.range (1 / 4 + 1)).map fun i => 0 + BitVec.ofNat 64 (128 * i)) = some Fmt.fp32
    ∧ matrix.Gathers 0 0 lane true (List.range (128 * 1)) ((List.range 128).map fun j => xl (4 * j)) ((List.range 128).map fun j => (j, zeroGot)) matrix
    ∧ (matrix.tile 1).kind = .factor ∧ (matrix.tile 1).rank = 1 ∧ matrix.myCtx.provisional = false
    ∧ matrix.Scatters 0 0 lane true Fmt.fp32 ((List.range (128 * 1)).map fun k => (k, ({ tag := ⟨Fmt.fp32, vsValid, 0⟩, elems := [], scales := [] } : Strip).selem k))
        ((List.range 128).map fun j => ⟨j, BitVec.ofNat 64 (4 * j), false⟩) ((List.range 128).map fun j => xl (4 * j)) :=
  ⟨by unfold State.Room; decide +kernel, by decide +kernel,
    gathersRows_of (rs := [((List.range 128).map fun j => ⟨j, BitVec.ofNat 64 (4 * j), false⟩, some (pageOf Fmt.fp32).par)])
      (by simp only [List.mem_singleton, forall_eq]; decide +kernel) (by decide +kernel) (by decide +kernel) (by decide +kernel)
      (.cons (by decide +kernel) .nil) (by decide +kernel) (by decide +kernel) (basesFit_of (by decide +kernel)) (by decide +kernel),
    by decide +kernel, by decide +kernel, by decide +kernel,
    scatters_of (bx := some (pageOf Fmt.fp32).par) (by decide +kernel) (by decide +kernel) (by decide +kernel) (by decide +kernel)
      (by unfold State.Storable State.Quiet State.CleanAt; decide +kernel) (by rintro x hx y hy; obtain ⟨_, _, rfl⟩ := List.mem_map.mp hx; obtain ⟨_, _, rfl⟩ := List.mem_map.mp hy; exact ⟨rfl, rfl, rfl⟩)⟩

/-- A dense VQ2 name, whose rows are 8 indices, on a page of VQ2. -/
def indices : State := ctx (memOf Fmt.vq2 .M) fun x => { x with tiles := [(1, tile .dense 0 Fmt.vq2)] }
def zrow (i : Nat) : List (Nat × SElem) := rowElems (indices.tile 1).strip { base := 0, pl := lane, is := List.range 8, off := 64 * i }
theorem zrow_run : ∀ i < 64, ((scatter 0 .write 0 lane true Fmt.vq2 0 0 (zrow i) 0).run.run indices : Except Stop (BitVec 32) × State).2 = indices := by
  decide +kernel
theorem zrow_scatters : ∀ i < 64, indices.Scatters 0 0 lane true Fmt.vq2 (zrow i)
    ((List.range 8).map fun j => ⟨j, BitVec.ofNat 64 (2 * j), false⟩) ((List.range 8).map fun j => xlOf Fmt.vq2 (2 * j)) := fun i _ =>
  have e : (zrow i).map Prod.fst = List.range 8 := by
    rw [zrow, rowElems, List.map_map]
    exact List.map_id _
  scatters_of (bx := some (pageOf Fmt.vq2).par) (by decide +kernel) (by rw [e]; decide +kernel) (by decide +kernel) (by decide +kernel)
    (by unfold State.Storable State.Quiet State.CleanAt; decide +kernel) (by decide +kernel)
/-- PairLoadsAndStores, MST, and AST alike: 64 rows that can be stored one after another. -/
theorem test_w_StripStore : (indices.tile 1).kind = .dense ∧ (indices.tile 1).strip.tag.fmt = Fmt.vq2 ∧ indices.readS 0 = 0
    ∧ List.Forall₂ (fun r p => indices.rowSpots 0 .write r = .ok p) (flat 8) (places Fmt.vq2 8)
    ∧ List.Forall₂ (fun p y => indices.spotAccess 0 .write p = .ok y) ((places Fmt.vq2 8).flatMap Prod.fst) (reached Fmt.vq2 8)
    ∧ (∀ r ∈ flat 8, indices.opened 0 r.base = indices)
    ∧ (∀ y ∈ reached Fmt.vq2 8, indices.reach 0 .write y = .ok () ∧ indices.Quiet 0 y)
    ∧ (∀ p ∈ (flat 8).zip (places Fmt.vq2 8), ∀ y, p.2.2 = some y → y.baseBad Fmt.vq2 p.1.base = false)
    ∧ indices.myCtx.provisional = false ∧ State.RowsStorable 0 (indices.tile 1).strip (flat 8) indices := by
  refine ⟨by decide +kernel, by decide +kernel, by decide +kernel, flat_spots (by decide +kernel),
    flat_access (access_same indices .write) (by decide +kernel), ?_, reached_all (by unfold State.Quiet State.CleanAt; decide +kernel), ?_, by decide +kernel, ?_⟩
  · intro r hr
    obtain ⟨i, _, rfl⟩ := List.mem_map.1 hr
    have hbase : rowBase (0 : Word) 0 i = 0 := by simp [rowBase]
    show indices.opened 0 (rowBase 0 0 i) = indices
    rw [hbase]; decide +kernel
  · intro p hp y hy
    obtain ⟨i, _, hi⟩ := List.mem_map.mp (List.of_mem_zip hp).2
    rw [← hi] at hy
    cases hy
    rfl
  · have h : ∀ l : List Nat, (∀ i ∈ l, i < 64) → State.RowsStorable 0 (indices.tile 1).strip
        (l.map fun i => { base := 0, pl := lane, is := List.range 8, off := 64 * i }) indices := by
      intro l
      induction l with
      | nil => intro _; trivial
      | cons i t ih =>
        intro hl
        refine ⟨⟨_, _, zrow_scatters i (hl i (by simp))⟩, fun v e hv => ?_⟩
        have hr := zrow_run i (hl i (by simp))
        have : v = indices := by
          have h2 := congrArg Prod.snd hv
          exact h2.symm.trans hr
        rw [this]
        exact ih fun j hj => hl j (by simp [hj])
    have e : flat 8 = (List.range 64).map fun i => { base := 0, pl := lane, is := List.range 8, off := 64 * i } := by
      unfold flat tileRows lane
      refine List.map_congr_left fun i _ => ?_
      simp [rowBase]
    rw [e]
    exact h _ fun i hi => List.mem_range.mp hi

/-! ### Reels, convoys, copies, registers and control -/

/-- Memory with a NOP at address 4. -/
def hinted : State := { mem .V with mem := [(0x200006, 0xE0), (0x200007, 0x7C)] }
theorem test_w_ReelsAndConvoys : hinted.cur = .cluster 0 .V ∧ hinted.guardTrue yes = true ∧ hinted.guardTrue no = false ∧ hinted.readS 0 = 0
    ∧ hinted.ReadsParcels 0 (hinted.me.pc + BitVec.ofNat 64 4) [0x7CE00000] ∧ bodyFault 2 0 [0x7CE00000] = none
    ∧ (me hinted fun x => x.writeS 5 1).readS 5 ≠ 0 := by
  refine ⟨rfl, by decide +kernel, by decide +kernel, by decide +kernel, ?_, by decide +kernel, by decide +kernel⟩
  intro k hk
  have : k = 0 := by simpa using hk
  subst this
  exact ⟨xl 4, reads_of (by decide +kernel) (by decide +kernel), by unfold State.Quiet State.CleanAt; decide +kernel⟩
/-- The same with the long bit, whose second parcel the body lacks. -/
def cutShort : State := { mem .V with mem := [(0x200006, 0xE0), (0x200007, 0xFC)] }
theorem test_w_ReelsAndConvoys_barred : cutShort.ReadsParcels 0 (cutShort.me.pc + BitVec.ofNat 64 4) [0xFCE00000]
    ∧ bodyFault 2 0 [0xFCE00000] = some (0, 0) := by
  refine ⟨?_, by decide +kernel⟩
  intro k hk
  have : k = 0 := by simpa using hk
  subst this
  exact ⟨xl 4, reads_of (by decide +kernel) (by decide +kernel), by unfold State.Quiet State.CleanAt; decide +kernel⟩
/-- VADD and VAND as members of a convoy in a reel. -/
def members : List (Parcel × Parcel) := [Instr.vaddLong yes 3 1 2 .short, .vandLong yes 4 1 2 .short].map fun i =>
  match encode i with
  | [p, q] => (p, q)
  | _ => (0, 0)
def reeled : State := me (at_ .V) fun x => { x with
  reel := some { rpc := 0, long := false, body := 0 :: members.flatMap fun m => [m.1, m.2], pos := 0, trips := 1, elem := 0 } }
theorem test_w_ReelsAndConvoys_convoy : (0#3).toNat + 2 ≤ 6 ∧ unitsFault 2 [0, 2, 7, 7, 7, 7] = none ∧ members.length = 2 ∧ reeled.me.atConvoy = false
    ∧ ∀ j < 2, reeled.Packet 0 (1 + 2 * j) (members.getD j (0, 0)).1 ∧ reeled.Packet 0 (2 + 2 * j) (members.getD j (0, 0)).2
      ∧ memberFault ([0, 2].getD j 0) (members.getD j (0, 0)) = none := by
  refine ⟨by decide, by decide +kernel, by decide +kernel, by decide +kernel, fun j hj => ?_⟩
  have h : ∀ j < 2, (reeled.me.reel.map fun r => r.body.getD (r.pos + (1 + 2 * j)) 0) = some (members.getD j (0, 0)).1
      ∧ (reeled.me.reel.map fun r => r.body.getD (r.pos + (2 + 2 * j)) 0) = some (members.getD j (0, 0)).2
      ∧ memberFault ([0, 2].getD j 0) (members.getD j (0, 0)) = none := by decide +kernel
  obtain ⟨h1, h2, h3⟩ := h j hj
  exact ⟨Option.some.inj h1, Option.some.inj h2, h3⟩

/-- One row of 512 bytes from global to global memory, no signal. -/
def oneRow : CopyArgs := { dst := 0, src := 512, len := 512, rows := 1, sstr := 0, dstr := 0, dsp := false, ssp := false, signal := none }
theorem test_w_CopyCommands : oneRow.rows ≠ 0 ∧ oneRow.len ≤ 2097152 ∧ oneRow.span ≤ 2097152 ∧ okAnd ((at_ .A).copySpace oneRow) (fun _ => true) = true
    ∧ (at_ .A).myCtx.provisional = false ∧ ((at_ .A).myCtx.copyQueue 0).length < 32 := by decide +kernel
/-- Bits from the last chunk on: none set, one set, all set. -/
theorem test_w_CopyCommands_bits : ((at_ .A).readS 0).toNat + ((at_ .A).readS 0).toNat ≤ 4096
    ∧ (∀ i ∈ List.range' 4095 1, (ctx (at_ .A) fun x => x.setBits 0 [4095] true).cbBit 0 i = true)
    ∧ ((∃ i ∈ List.range' 4095 1, (at_ .A).cbBit 0 i = false)) := by decide +kernel

/-- A typed page of slot width 4. -/
def typed : State := { mem .C with tlb := [{ page with par := { Par.raw with typed := true, slotw := 2 } }] }
def xt : Xlate := { xl 0 with entry := { page with par := { Par.raw with typed := true, slotw := 2 } } }
theorem test_w_LineTags : typed.Admits 0 .tagRead 0 true xt ∧ tagOk 0x7F7F7F7F0002 = true ∧ typed.Admits 0 .tagWrite 0 true xt
    ∧ typed.opened 0 0 = typed ∧ typed.Quiet 0 xt ∧ typed.region xt.pa ≠ .creel ∧ typed.region xt.pa ≠ .host
    ∧ xt.typed = true ∧ xt.entry.folded = false ∧ (typed.seenLine 0 xt).tag.cls xt.typed xt.par.w ≠ .transit ∧ slotHolds Fmt.fp32 xt.par.w = true
    ∧ typed.myCtx.provisional = false := by unfold State.Quiet State.Admits State.CleanAt; decide +kernel

/-- Bank 63 to SCRATCH, and q1 set to no banks. -/
theorem test_w_ControlRegisters : (at_ .C).bankOutcome 0 63 1 = some 0 ∧ (at_ .C).QcfgFits 0 15 0 ∧ Cl.A ≠ .C
    ∧ (64#64).toNat % 128 ≤ 64 ∧ ¬ (65#64).toNat % 128 ≤ 64 ∧ (2#64).toNat % 4 ≠ 3 := by unfold State.QcfgFits; decide +kernel

/-- A running C cluster beside idle ones, and one whose A cluster runs. -/
def started (s : State) : State := ctx s fun x => { x with hank := some (0x300000, 0), c := { x.c with run := .running } }
def hank : Hank :=
  { task := 0x300000, wid := 0, ord := 0, member := 0, state := .running, bobbin := 0, slot := some 0, prov := false, landed := [], ended := []
    stageFault := none, cls := 0, aged := false, suspendedAt := 0, agedMs := 0, claim := false, resumedAt := 0, seq := 0, dispSeq := 0
    frame := none, runNs := 0, held := [], pzrDone := false, unplaced := [], barGens := [], vregBanks := [], dropped := []
    doomed := [], stgabn := 0 }
def hosted (s : State) : State := { started s with hanks := [hank] }
theorem test_w_ClusterControl :
    let s := hosted (at_ .C)
    s.cur = .cluster 0 .C ∧ s.guardTrue yes = true ∧ (∀ j : Cl, ((s.ctx 0).cl j).atRdv = none) ∧ s.hankAt 0 = some hank ∧ hank.state = .running
      ∧ (∀ j : Cl, j ≠ .C → ((s.ctx 0).cl j).run = .idle) ∧ s.me.started = 0 := by
  refine ⟨rfl, by decide +kernel, fun j => ?_, by decide +kernel, rfl, fun j hj => ?_, by decide +kernel⟩ <;> cases j <;> first | rfl | exact absurd rfl hj
/-- RDV of C and A: A waits at it, or still runs; BAR not yet counted. -/
def metAt (w : Option WaitFor) : State := ctx (hosted (at_ .C)) fun x => { x with a := { x.a with run := .waiting, wait := w } }
theorem test_w_BarriersAndRendezvous : (hosted (at_ .C)).me.wait = none ∧ (hosted (at_ .C)).me.firstEffect = false
    ∧ names 12 .C = true ∧ names 12 .A = true ∧ names 12 .V = false ∧ names 12 .M = false
    ∧ (((metAt (some (.rdv 12 5))).ctx 0).cl .A).atRdv = some (12, 5) ∧ (((metAt (some (.rdv 12 5))).ctx 0).cl .A).run ≠ .idle
    ∧ (((metAt none).ctx 0).cl .A).atRdv = none ∧ (((metAt none).ctx 0).cl .V).atRdv = none ∧ (((metAt none).ctx 0).cl .M).atRdv = none
    ∧ (metAt none).mayIssue 0 = true := by decide +kernel

/-- An enabled launch queue of 64 entries, empty and full, and one that is disabled. -/
def launch (full : Bool) : State := (mem .C).modCreel fun c => { c with
  lqcfg := [(1, 0x8000000000400000)], lqptr := if full then [(1, 0x4000000000)] else [] }
theorem test_w_SignalsAndTasks : (mem .C).Reads 0 .read ((mem .C).readS 0) 8 (xl 0) 0 false ∧ (mem .C).Quiet 0 (xl 0)
    ∧ (mem .C).Writes 0 .write ((mem .C).readS 0) (leBytes 8 0) (xl 0) ∧ (mem .C).Writes 0 .write ((mem .C).readS 0) (leBytes 8 (2 ^ 63)) (xl 0)
    ∧ (launch false).access 0 .read 0 true = .ok (xl 0) ∧ (launch false).opened 0 0 = launch false ∧ (launch false).Quiet 0 (xl 0)
    ∧ (launch false).region (xl 0).pa = .hbm ∧ (launch false).lqEnabled 1 = true
    ∧ (launch false).lqCount 1 ≠ (launch false).lqSize 1 ∧ (launch true).lqCount 1 = (launch true).lqSize 1 ∧ (launch false).lqEnabled 0 = false :=
  ⟨reads_of (by decide +kernel) (by decide +kernel), by unfold State.Quiet State.CleanAt; decide +kernel,
    writes_of (by decide +kernel) (by decide +kernel) (by decide +kernel), writes_of (by decide +kernel) (by decide +kernel) (by decide +kernel),
    by decide +kernel, by decide +kernel, by unfold State.Quiet State.CleanAt; decide +kernel, by decide +kernel⟩

/-! ### Exceptions and the supervisor -/

/-- Supervisor code enabled in bobbin 0. -/
def handled (s : State) : State := s.modCreel fun c => { c with svvec := [(0, 1)] }
theorem test_w_EventsAreTaken : (handled (hosted (at_ .C))).myCtx.hank = some (0x300000, 0) ∧ (handled (hosted (at_ .C))).myCtx.event = none
    ∧ (handled (hosted (at_ .C))).region ((handled (hosted (at_ .C))).eventSlot 0) = .hbm
    ∧ (handled (hosted (at_ .C))).eventSlot 0 % 64 = 0 ∧ ((handled (hosted (at_ .C))).creel.svvec.get 0 0).getLsbD 0 = true
    ∧ (handled (hosted (at_ .C))).Free ((handled (hosted (at_ .C))).eventSlot 0)
    ∧ (∀ j ∈ Cl.all, (((handled (hosted (at_ .C))).ctx 0).cl j).stores = [])
    ∧ ((hosted (at_ .C)).creel.svvec.get 0 0).getLsbD 0 = false := by unfold State.Free; decide +kernel

/-- A task of one hank, and with the fields that a statement needs. -/
def body : TaskRec :=
  { site := 0, mode := [], skein := 0, bind := 0, width := [], extent := (List.range 6).map fun j => (j, 1), marg := [], asd := 0, param := 7
    code := 0x1000, entry := [(0, 4)], nscr := 0, nfifo := 0, tosq := 0, cbtp := 0, regions := [], qseed := []
    waits := List.replicate 4 { va := 0, op := 0, v := 0 }, shapes := [] }
def task : Task := Task.taken 0x300000 1 0 body
def tasked (s : State) (f : Task → Task) (h : Hank → Hank) : State := { s with tasks := [f task], hanks := [h hank] }
def bound (s : State) : State := ctx s fun x => { x with hank := some (0x300000, 0) }

theorem test_w_Termination :
    let s := tasked (bound (at_ .C)) id id
    (s.ctx 0).hank = some (0x300000, 0) ∧ (s.ctx 0).dying = none ∧ s.hankAt 0 = some hank ∧ s.findTask 0x300000 = some task
      ∧ hank.task = 0x300000 ∧ hank.wid = 0 ∧ hank.slot = some 0 ∧ (s.ctx 0).provisional = false ∧ (s.ctx 0).cq = [] ∧ task.failed = false
      ∧ ((prov s).ctx 0).provisional = true ∧ ((prov s).ctx 0).held = [] := by decide +kernel

/-- A core that handles an event of slot 0 whose DISP is 0 or 1, and one without a target. -/
def event : Event := { record := State.reset.rec3 0 1 0, source := .cluster, core := some 0, takenAt := 0 }
def handling (withdrawn : Bool) (disp : Byte) : State :=
  let s := ctx (started (at_ .C)) fun x => { x with event := some event }
  { s.setCore 0 { SupCore.initial with busy := true, target := some 0, withdrawn := withdrawn, record := 0x1000 } with
    cur := .sup 0, mem := if disp = 0 then [] else [(0x1038, disp)] }
theorem test_w_SupervisorCores : core.cur = .sup 0 ∧ core.guardTrue yes = true ∧ (core.core 0).target = none
    ∧ ((handling true 0).core 0).target = some 0 ∧ ((handling true 0).core 0).withdrawn = true ∧ ((handling true 0).readS 0).toNat % 16777216 = 0
    ∧ ((handling false 0).core 0).withdrawn = false ∧ ((handling false 0).ctx 0).event = some event ∧ (handling false 0).byteAt 0x1038 = 0
    ∧ ((handling false 0).ctx 0).waiting = [] ∧ ((handling false 0).ctx 0).allIdle = false ∧ (handling false 1).byteAt 0x1038 ≠ 0
    ∧ (handling false 0).supCheck .write 0 8 = none ∧ (handling false 0).supCheck .read 0 8 = none := by decide +kernel
/-- A frame of the target at 0x1000000: RVER 1, its task and hank WID. -/
def framed : State := me { handling false 0 with mem := [(0x1000000, 1), (0x100000A, 0x30)] } fun x => x.writeS 5 0x1000000
theorem test_w_SupervisorCores_frame : (framed.readS 5).toNat = 0x1000000 ∧ framed.supCheck .read 0x1000000 8 = none
    ∧ (framed.scrubFrame 0x1000000).frameFits 0 0x1000000 = true := by decide +kernel
theorem supReads_of {s : State} {va : Word} {unit n : Nat} {l : List Byte}
    (h : (∀ i < n, s.supCheck .read (va + BitVec.ofNat 64 (unit * i)) unit = none ∧ s.region (va + BitVec.ofNat 64 (unit * i)).toNat ≠ .creel
      ∧ s.CleanAt (s.homeOf (va + BitVec.ofNat 64 (unit * i)).toNat) ∧ s.supPoison (s.homeOf (va + BitVec.ofNat 64 (unit * i)).toNat) unit = false)
      ∧ l = (List.range n).flatMap fun i => s.bytesAt (s.homeOf (va + BitVec.ofNat 64 (unit * i)).toNat) unit) : s.SupReads va unit n l := h
/-- Bytes for TLBI, LTLD and RECODE: zeros; no cluster holds a store. -/
theorem test_w_SupervisorCores_reads : core.SupReads 0 1 16 (List.replicate 16 0) ∧ core.SupReads 0 128 8 (List.replicate 1024 0)
    ∧ Lattice.setOk (List.replicate 1024 0) = true ∧ core.SupReads 0 1 32 (List.replicate 32 0) ∧ core.NoStores :=
  ⟨supReads_of (by unfold State.CleanAt; decide +kernel), supReads_of (by unfold State.CleanAt; decide +kernel), by decide +kernel,
    supReads_of (by unfold State.CleanAt; decide +kernel), fun k j => by cases j <;> rfl⟩

/-! ### Events -/

/-- A host port is up, and a cluster waits for an address of PASID 5. -/
def linked (s : State) : State := s.modCreel fun c => { c with lnkUp := [(0, true), (1, true), (32, true)] }
def pasid : State := { State.reset with mem := [(0x10, 5)] }
def waitingFor (w : WaitFor) (s : State) : State := ctx (started s) fun x => { x with c := { x.c with run := .waiting, wait := some w } }
def awaited : State := linked (waitingFor (.memory 0x0109 0 0x7000 0) pasid)
def requested (g : Bool) (s : State) : State := { s with pageReqs := [{ pasid := 5, va := 0x7000, since := 0, granted := g, sent := true }] }
theorem test_w_TranslationsAndPages : awaited.hostUp = true ∧ 0x7000 % 2 ^ 12 = 0 ∧ awaited.pageReqs = []
    ∧ awaited.pageWaited (pageAt 5 0x7000) = true ∧ awaited.pageWaited (pageAt 5 0x8000) = false
    ∧ awaited.priEnable = true ∧ awaited.priFailed = false
    ∧ (∃ q ∈ (requested false awaited).pageReqs, (q.pasid = 5 ∧ q.va / 4096 = 0x7000 / 4096) ∧ q.granted = false ∧ q.sent = true)
    ∧ awaited.creel.pricfg.toNat % 65536 = 100 ∧ awaited.linkUp 0 = true := by decide +kernel
/-- The request is due, the timeout off, PRI refused; a wait for a migration; lines of the host. -/
theorem test_w_TranslationsAndPages_more :
    let due := { requested false awaited with timeNs := 100000000 }
    (∃ q ∈ due.pageReqs, q.granted = false ∧ q.sent = true ∧ q.since + due.creel.pricfg.toNat % 65536 * 1000000 ≤ due.timeNs)
      ∧ (awaited.modCreel fun c => { c with pricfg := 0 }).creel.pricfg.toNat % 65536 = 0 ∧ ({ awaited with priFailed := true }).priFailed = true
      ∧ awaited.waiters (waitsMig 0 0) = [] ∧ ({ waitingFor (.memory 0x0105 0 0 0) (mem .C) with cur := .cluster 0 .C }).waiters (waitsMig 0 0) ≠ []
      ∧ (waitingFor (.memory 0x0105 0 0 0) (mem .C)).prewalk (unitOf 0) 0 0 = waitingFor (.memory 0x0105 0 0 0) (mem .C)
      ∧ (waitingFor (.memory 0x0105 0 0 0) (mem .C)).xlate (unitOf 0) 0 false .read 0 = .ok (xl 0) := by decide +kernel
/-- Line 5 in the host's hands: nobody waits for it, or one cluster does and the limit is over. -/
def hostHas (w : WaitFor) : State := { waitingFor w awaited with hostOwned := [(5, true)], snoops := [(5, 1)], timeNs := 1000000000000 }
theorem test_w_TranslationsAndPages_lines : awaited.creel.ready = true ∧ awaited.region (5 * 128) = .hbm ∧ awaited.physHeld (5 * 128) = false
    ∧ (hostHas (.queueSpace 0)).hostOwned.get false 5 = true ∧ (hostHas (.queueSpace 0)).physWaits = []
    ∧ (hostHas (.queueSpace 0)).protectedAt (5 * 128) = false ∧ ({ hostHas (.queueSpace 0) with ranges := [(0, 4096)] }).protectedAt (5 * 128) = true
    ∧ awaited.snoopOver 5 = false ∧ (hostHas (.host 640 0 0 0)).snoopOver 5 = true
    ∧ (hostHas (.host 640 0 0 0)).snoops.get 0 5 = 0 + 1
    ∧ (hostHas (.host 640 0 0 0)).waiters (waitsHost 5) = [(0, .C)] ∧ ((hostHas (.host 640 0 0 0)).ctx 0).c.wait = some (.host 640 0 0 0)
    ∧ (hostHas (.host 640 0 0 0)).sup = [] := by decide +kernel
theorem test_w_TranslationsAndPages_stores : State.reset.NoStores := fun k j => by cases j <;> rfl

theorem test_w_HostsAndPeers : (linked State.reset).linkUp 0 = true ∧ (linked State.reset).linkUp (32 + 0) = true ∧ (linked State.reset).creel.ready = true
    ∧ (linked State.reset).physWaits = [] ∧ (linked State.reset).distaffRuns = true
    ∧ ({ State.reset with creel := { Creel.initial with lcs := 3 } }).distaffRuns = false
    ∧ taggedOk 256 128 (List.replicate 128 0) (List.replicate 6 0) = true ∧ (∀ a < 384, 256 ≤ a → (linked State.reset).ownedByHost a = false)
    ∧ ((linked State.reset).modCreel fun c => { c with ready := false }).creel.ready = false
    ∧ (linked State.reset).Plain 256 128 := by
  refine ⟨by decide +kernel, by decide +kernel, rfl, rfl, by decide +kernel, by decide +kernel, by decide +kernel, by decide +kernel, rfl, ⟨by decide, ?_⟩⟩
  have h : ∀ a, a < 384 → 256 ≤ a → (linked State.reset).region a = .hbm ∧ ((linked State.reset).blockAt a).errors = 0
      ∧ ((linked State.reset).tagAt a).vcls ≠ 3 ∧ ((linked State.reset).tagAt a).vcls ≠ 4 ∧ (linked State.reset).protectedAt a = false := by
    decide +kernel
  exact fun a h1 h2 => h a h2 h1
/-- Launch ports that take and refuse, job records that are malformed, and a queue that is full. -/
def exportGood : List Byte := leBytes 24 0 ++ leBytes 4 1 ++ List.replicate 36 0
theorem test_w_HostsAndPeers_posts : (launch false).lqEnabled 1 = true ∧ (launch false).lqCount 1 + 64 ≤ (launch false).lqSize 1
    ∧ (launch false).lqSize 1 < (launch false).lqCount 1 + 65 ∧ (launch false).lqEnabled 0 = false
    ∧ natIn (List.replicate 64 0) 16 4 = 0 ∧ natIn exportGood 24 4 = 1 ∧ (List.replicate 16 (0 : Nat)).length = 16 := by decide +kernel
theorem test_w_HostsAndPeers_export : exportBad (List.replicate 64 0) ∧ ¬ exportBad exportGood ∧ State.reset.CleanAt 0
    ∧ State.reset.physClass 0 64 4 = false := by
  unfold exportBad State.CleanAt; decide +kernel
/-- A decryption record that is accepted: key 0 is set, and the destination is protected. -/
def decryptGood : List Byte := leBytes 16 0 ++ leBytes 4 16 ++ List.replicate 44 0
def decrypting : State := { linked State.reset with keys := [(0, some 0)], ranges := [(0, 4096)] }
theorem test_w_HostsAndPeers_decrypt : (linked State.reset).decryptBad (List.replicate 64 0) ∧ ¬ decrypting.decryptBad decryptGood
    ∧ decrypting.creel.lcs = 1 := by unfold State.decryptBad; decide +kernel

theorem test_w_ResetAndLinks : (State.reset.creel.lcs.toNat, (2#2).toNat) ∈ [(0, 1), (0, 3), (1, 2), (1, 3), (2, 3)] ∧ portNumber 0 = true
    ∧ (linked State.reset).linkUp 0 = true ∧ (linked State.reset).linkUp (1 - 0) = true
    ∧ ((linked State.reset).modCreel fun c => { c with lnkUp := [(0, true)] }).linkUp (1 - 0) = false
    ∧ State.reset.creel.lnkcfg.toNat % 65536 = 1000 ∧ (({ State.reset with replays := [(0, (1001, 0))] }).replays.get (0, 0) 0).1 = 1001
    ∧ ({ State.reset with timeNs := 10000000 }).distaffServed + 10000000 ≤ 10000000 ∧ State.reset.timeNs < State.reset.distaffServed + 10000000
    ∧ ((State.reset.distaffRestarts.filter fun t => decide (State.reset.timeNs < t + 1000000000)) ++ [State.reset.timeNs]).length < 3
    ∧ 3 ≤ (({ State.reset with distaffRestarts := [0, 0] }.distaffRestarts.filter fun t => decide (0 < t + 1000000000)) ++ [0]).length := by decide +kernel

/-- The limits' boundary values: 60 and 360, one more than 110 % of the ceiling, 105 and 100 °C. -/
theorem test_w_PowerTemperatureAndParking : (59#64).toNat % 512 < 60 ∧ 360 < (361#64).toNat % 512 ∧ (360#64).toNat % 512 = State.reset.creel.pwrCap.toNat
    ∧ (60#64).toNat % 512 ≠ State.reset.creel.pwrCap.toNat ∧ 110 * (5 * State.reset.creel.pwrCap.toNat) < 100 * 1981
    ∧ 100 * 1980 ≤ 110 * (5 * State.reset.creel.pwrCap.toNat) ∧ State.reset.overshoot = false ∧ ({ State.reset with overshoot := true }).overshoot = true
    ∧ (let s := { State.reset with dieTemps := [(0, 106)], dieLim := 1, timeNs := 100000 }
       105 < s.hottest ∧ s.dieLim ≠ 0 ∧ s.dieLim ≠ 7 ∧ s.limitSince + 100000 ≤ s.timeNs)
    ∧ (let s := { State.reset with dieTemps := [(0, 99)], dieLim := 7, timeNs := 1000000 }
       s.hottest < 100 ∧ s.dieLim ≠ 0 ∧ s.coolSince + 1000000 ≤ s.timeNs ∧ s.limitSince + 1000000 ≤ s.timeNs)
    ∧ ({ State.reset with creel := { Creel.initial with pstateBusy := true } }).creel.pstateBusy = true := by decide +kernel
/-- Bobbin 7 to park, parking since 0, parked. -/
def parking (t : Option Nat) : State :=
  { State.reset with creel := { Creel.initial with parkReq := 0x80, parkBusy := 0x80 }, parkSince := [(7, t)], timeNs := 1000001 }
theorem test_w_PowerTemperatureAndParking_park : State.reset.creel.bobfail = 0
    ∧ (∀ k < 8, k ≠ 7 → State.reset.creel.parkBusy.getLsbD k = true ∨ State.reset.creel.parkReq.getLsbD k = State.reset.creel.parked.getLsbD k)
    ∧ State.reset.creel.parkBusy.getLsbD 7 = false ∧ State.reset.creel.parked.getLsbD 7 = false
    ∧ (parking none).parkEmpty 7 = true ∧ (parking none).plb.get [] 7 = [] ∧ (parking none).creel.parkReq.getLsbD 7 = true
    ∧ ((parking none).parkSince.get none 7) = none ∧ (parking (some 0)).parkSince.get none 7 = some 0 ∧ 0 + 1000000 < (parking (some 0)).timeNs
    ∧ (let c := { Creel.initial with parked := 0x80, parkReq := 0x80 }
       (∀ k < 8, k ≠ 7 → c.parkBusy.getLsbD k = true ∨ c.parkReq.getLsbD k = c.parked.getLsbD k) ∧ c.parkBusy.getLsbD 7 = false ∧ c.parked.getLsbD 7 = true)
    ∧ (let c := { Creel.initial with parked := 0x80, parkBusy := 0x80 }
       c.parkBusy.getLsbD 7 = true ∧ c.parked.getLsbD 7 = true ∧ c.parkReq.getLsbD 7 = false) := by decide +kernel

/-- What a read of an agent gives. -/
def readValue {α : Type} : AgentRead α → Bool
  | .value .. => true
  | _ => false
def readWait {α : Type} : AgentRead α → Bool
  | .wait .. => true
  | _ => false
def readCause {α : Type} : AgentRead α → Bool
  | .cause .. => true
  | _ => false
/-- Queue 1 with one entry whose record lies at 0, at 0x500000, at 1 or outside HBM4. -/
def ring (m : List Host.Cell) : State :=
  { State.reset with creel := { Creel.initial with lqcfg := [(1, 0x8000000000400000)], lqptr := [(1, 0x100000000)] }, mem := m }
/-- A record of one hank: version 1 and all extents 1. -/
def record : List Host.Cell := (0x400002, 0x50) :: (0x500000, 1) :: (List.range 6).map fun j => (0x500010 + 8 * j, 1)
theorem test_w_TaskFront : (ring record).creel.ready = true ∧ (ring record).lqEnabled 1 = true
    ∧ ((ring record).queueTasks 1).length < (ring record).lqCount 1 ∧ (ring record).mayTake 1 = true ∧ (ring record).CleanAt 0x400000
    ∧ (ring record).physHeldRange 0x400000 8 = false ∧ (ring record).physBad 0x400000 8 = false ∧ (ring record).natAt 0x400000 8 = 0x500000
    ∧ 0x500000 % 256 = 0 ∧ (ring record).region 0x500000 = .hbm ∧ ((ring record).blockAt 0x500000).errors = 0
    ∧ (ring record).physHeldRange 0x500000 256 = false ∧ (ring record).physBad 0x500000 256 = false ∧ (ring record).physWaits = []
    ∧ (ring record).CleanAt 0 ∧ (ring record).physHeldRange 0 64 = false ∧ (ring record).findTask 0x500000 = none
    ∧ (let l := (ring record).bytesAt 0x500000 256
       headerFaults l (taskOf l) ++ seedFaults (taskOf l) ++ waitFaults l ++ shapeFaults l (taskOf l) = [] ∧ (ring record).asdOk (taskOf l).asd = true
         ∧ (wsetOf l).2 = 0 ∧ (taskOf l).shape 0 = none ∧ (taskOf l).shape 1 = none)
    ∧ (let l := (ring []).bytesAt 0 256
       0 ∈ headerFaults l (taskOf l) ++ seedFaults (taskOf l) ++ waitFaults l ++ shapeFaults l (taskOf l))
    ∧ (ring [(0x400000, 1)]).natAt 0x400000 8 % 256 ≠ 0 ∧ (ring [(0x400004, 0xF0)]).region ((ring [(0x400004, 0xF0)]).natAt 0x400000 8) ≠ .hbm := by
  unfold State.CleanAt; decide +kernel
/-- The page in the second-level TLB of bobbin 0. -/
def front : State := { mem .C with tlb := [{ page with unit := .bobbin 0 }] }
/-- A wait condition that can be read, must wait, or cannot be translated; a shape whose time has run out. -/
def shaped : Shape := { va := 0x100, lvl := 1, floor := 1, cap := 1 }
theorem test_w_TaskFront_waits :
    let f (t : Task) : Task := { t with body := { body with waits := [{ va := 0, op := 1, v := 0 }], shapes := [(0, some shaped)] } }
    let s := tasked front f id
    s.findTask 0x300000 = some (f task) ∧ (f task).body.waits[0]? = some { va := 0, op := 1, v := 0 } ∧ (f task).failed = false ∧ (f task).done = false
      ∧ readValue (agentRead (asdLoad (.bobbin 0) 0 false 0 8) s) = true
      ∧ readWait (agentRead (asdLoad (.bobbin 0) 0 false 0 8) { s with hostOwned := [(0x200000 / 128, true)] }) = true
      ∧ readCause (agentRead (asdLoad (.bobbin 0) 0 false 0 8) { s with tlb := [] }) = true
      ∧ (f task).body.shape 0 = some shaped ∧ (f task).learntOf 0 = none ∧ s.creel.spcfg.toNat % 65536 ≠ 0
      ∧ (f task).takenAt + s.creel.spcfg.toNat % 65536 * 1000000 ≤ 1000000000 := by decide +kernel
/-- A task whose hank may be admitted, and one with an act to perform. -/
def waitless : Task := { task with met := (List.range 4).map fun k => (k, true) }
theorem test_w_TaskFront_admit : ({ State.reset with tasks := [waitless] }).turnQueue = some (1, waitless, 0, 0)
    ∧ ({ waitless with toAct := [(0, true)] }).toAct.get false 0 = true ∧ (Writer.distaff ≠ .hostPort 0)
    ∧ (1#64).getLsbD 0 = true ∧ State.reset.hanks.filter (fun _ => true) = [] ∧ State.reset.confirmWait hank = none := by decide +kernel

def region (tgt : Nat) : Region := { va := 0, hstr := 0, lines := 1, tgt := tgt, req := true, acc := 0, spri := 0, soff := 0 }
def staged (r : List Region) (h : Hank → Hank) : State := tasked front (fun t => { t with body := { body with regions := r } }) h
def early (st : HankState) (h : Hank) : Hank := { h with state := st, slot := none }
theorem test_w_StagingAndDispatch :
    let h := early .admitted hank
    (staged [region 0] (early .admitted)).findHank 0x300000 0 = some h ∧ ((staged [region 0] (early .admitted)).findTask 0x300000).isSome = true
      ∧ (staged [region 0] (early .admitted)).stageRequest h (region 0) 0 = true
      ∧ (∀ k ∈ (staged [region 0] (early .admitted)).stageRequests h.bobbin, ¬ k < h.stageKey (region 0) 0)
      ∧ (staged [region 0] (early .admitted)).regionMove task h (region 0) 0 = none ∧ (staged [region 0] (early .admitted)).promotable task h (region 0) 0 = none
      ∧ readValue (State.stageRead (staged [region 0] (early .admitted)) task h (region 0) 0) = true
      ∧ readWait (State.stageRead { staged [region 0] (early .admitted) with hostOwned := [(0x200000 / 128, true)] } task h (region 0) 0) = true
      ∧ readCause (State.stageRead { staged [region 0] (early .admitted) with tlb := [] } task h (region 0) 0) = true
      ∧ (early .admitted hank).staged [] = true
      ∧ (staged [region 1] (early .admitted)).unparked 0 = true ∧ (region 1).tgt = 1
      ∧ (staged [region 1] (early .admitted)).pickSlot 0 body.demand = some 0 := by decide +kernel
/-- A READY hank with its slot, and an ENDING one. -/
theorem test_w_StagingAndDispatch_dispatch :
    let s := tasked (bound (at_ .C)) id fun h => { h with state := .ready }
    let h := { hank with state := .ready }
    s.findHank 0x300000 0 = some h ∧ s.skeinOf h = [h] ∧ h.slot = some 0 ∧ (s.ctx 0).hank = some (0x300000, 0) ∧ h.stageFault = none
      ∧ task.body.cbtp = 0 ∧ s.unparked h.bobbin = true ∧ s.inOrder task h = true ∧ s.outbid h.bobbin [h] h.cls none = false
      ∧ task.body.entry.get 0 Cl.C.code ≠ 0
      ∧ (tasked (bound (at_ .C)) id fun h => { h with state := .ending }).hankAt 0 = some { hank with state := .ending } := by decide +kernel

/-- Every spindle of bobbin 0 has a context with a quota; a READY hank of class 5 wants all 64 slots; slot 0 may be taken. -/
def crowded : State :=
  let ready : Hank := { hank with wid := 1, ord := 1, state := .ready, slot := none, cls := 5 }
  { State.reset with
    ctxs := (List.range 60).map fun i => (2 * i, { Ctx.free with hank := some (0x300000, 0), tosq := 1 })
    tasks := [{ task with body := { body with tosq := 64 } }], hanks := [hank, ready], creel := { Creel.initial with savepool := 0x01000001 } }
theorem test_w_PreemptionAndResumption :
    let h : Hank := { hank with wid := 1, ord := 1, state := .ready, slot := none, cls := 5 }
    crowded.findHank 0x300000 1 = some h ∧ crowded.skeinIn h .ready = true ∧ crowded.bindable h = false ∧ h.claim = false
      ∧ crowded.takeVictims h (crowded.victimOrder h) [] = some [hank] := by decide +kernel
/-- A hank that is being saved, with its frame in HBM4 or not; a suspended one that can resume and age. -/
theorem test_w_PreemptionAndResumption_save :
    let saving : Hank := { hank with state := .saving, frame := some 0x1000000 }
    let s := tasked (bound (at_ .C)) id fun _ => saving
    s.hankAt 0 = some saving ∧ (s.ctx 0).event = none ∧ (s.ctx 0).waiting = [] ∧ (s.ctx 0).dying = none ∧ (s.ctx 0).heldFatal = false
      ∧ (s.ctx 0).cq = [] ∧ s.frameInHbm 0x1000000 = true ∧ s.frameInHbm 0xF000000000 = false
      ∧ s.frameWait 0x1000000 (s.frameSections 0 false) = none ∧ s.frameErrors 0x1000000 (s.frameSections 0 false) = [] := by decide +kernel
theorem test_w_PreemptionAndResumption_resume :
    let h : Hank := { hank with state := .suspended, slot := none, frame := some 0x1000000 }
    let s := tasked (at_ .C) id fun _ => h
    s.findHank 0x300000 0 = some h ∧ s.findTask h.task = some task ∧ s.skeinOf h = [h] ∧ s.resumeBobbin h = some 0
      ∧ s.outbid 0 [h] h.cls (some h.suspendedAt) = false ∧ s.pickSlot 0 (s.resumeDemand task h) = some 0
      ∧ h.suspendedAt + (h.agedMs + 1) * 1000000 ≤ ({ s with timeNs := 1000000 }).timeNs ∧ h.cls < 7 := by decide +kernel

/-- The watchdogs' limits have run out, an event waits for a core, and queues serve their waiters. -/
theorem test_w_WatchdogsWaitsAndLoads :
    let s := { (tasked (bound (at_ .C)) id id).modCreel fun c => { c with wdcfg := 0x1000A } with timeNs := 10000001 }
    s.hankAt 0 = some hank ∧ hank.state = .running ∧ s.creel.wdcfg.toNat / 65536 % 65536 ≠ 0
      ∧ s.creel.wdcfg.toNat / 65536 % 65536 * 1000000 < hank.runNs + (s.timeNs - hank.resumedAt)
      ∧ ((handling true 0).core 0).busy = true ∧ ((handling true 0).core 0).takenAt + max 1 ((handling true 0).creel.wdcfg.toNat % 256) * 1000000 ≤ 10000000
      ∧ ((handling false 0).ctx 0).event = some event
      ∧ s.canRun (.cluster 0 .C) = false ∧ (started (at_ .C)).canRun (.cluster 0 .C) = true ∧ (started (at_ .C)).mayIssue 0 = true := by decide +kernel
/-- One event in bobbin 0, all cores idle. -/
def eventful : State := ctx (at_ .C) fun x => { x with event := some { event with core := none } }
theorem test_w_WatchdogsWaitsAndLoads_take : (eventful.core 0).busy = false ∧ (eventful.ctx 0).event = some { event with core := none }
    ∧ ∀ j f, 120 * 0 ≤ j → j < 120 * 0 + 120 → j ≠ 0 → (eventful.ctx j).event = some f → f.core = none →
      event.record.ts < f.record.ts ∨ (event.record.ts = f.record.ts ∧ event.record.src < f.record.src) := by
  refine ⟨by decide +kernel, by decide +kernel, fun j f _ _ hj hf _ => ?_⟩
  have : (eventful.ctx j).event = none := by
    have e : eventful.ctxs = [(0, { Ctx.free with event := some { event with core := none } })] := by decide +kernel
    unfold State.ctx
    rw [e]
    simp [SMap.get, Ne.symm hj, Ctx.free]
  rw [this] at hf
  cases hf
def waking (w : WaitFor) : State := ctx (waitingFor w (at_ .C)) fun x => { x with
  queues := [(1, queue .C .A []), (2, queue .A .C [scalarEntry]), (3, { queue .C .A [] with unplaced := [scalarEntry] })]
  vregs := [(3, { VReg.initial with missing := [0] })], v := { x.v with pend := [.vector 3 .initial] }
  c := { x.c with pend := [.scalar 5 7] } }
theorem test_w_WatchdogsWaitsAndLoads_wakes : (waking (.queueSpace 1)).mayIssue 0 = true ∧ ((waking (.queueSpace 1)).ctx 0).c.run = .waiting
    ∧ ((waking (.queueSpace 1)).ctx 0).c.wait = some (.queueSpace 1) ∧ (((waking (.queueSpace 1)).ctx 0).queue 1).unplaced = []
    ∧ (((waking (.queueSpace 1)).ctx 0).queue 1).entries.length < 64 ∧ 0 < (((waking (.queueSpace 1)).ctx 0).queue 1).free
    ∧ (∃ e, (((waking (.queueEntry 2)).ctx 0).queue 2).head = some e ∧ e.missing = []) ∧ (((waking (.queueEntry 2)).ctx 0).queue 3).unplaced = [scalarEntry]
    ∧ ({ ((waking (.queueEntry 2)).ctx 0).queue 3 with unplaced := [] } : Queue).fits [scalarEntry] = true
    ∧ 0 ∈ (((waking (.queueEntry 2)).ctx 0).vregs.get .initial 3).missing ∧ ((waking (.queueEntry 2)).ctx 0).v.pend = [.vector 3 .initial]
    ∧ ((waking (.queueEntry 2)).ctx 0).c.pend[0]? = some (.scalar 5 7) ∧ ((waking (.queueEntry 2)).ctx 0).c.run ≠ .idle := by decide +kernel

/-- A command of one chunk at the head of a copy queue, started or not, with its chunks done and a signal or none. -/
def command (started : Bool) (chunks : List Nat) (sig : Option (Word × Word)) : CopyCmd :=
  { pc := 0, dst := 0, src := 512, len := 64, cb := 0, scope := 0, signal := sig, dstSp := false, srcSp := false, rows := 1, sstr := 0, dstr := 0
    started := started, chunks := chunks, zeroed := [], pzs := false, stalled := false, stopChunk := none }
def copying (c : CopyCmd) : State := ctx (started (mem .C)) fun x => { x with cq := [(1, [.cmd c])] }
theorem test_w_Engines : (SegXlate.mk ⟨512, 0, 64⟩ (some (xl 512)) (some (xl 0))).lineCopy = false ∧ ((copying (command false [0] none)).ctx 0).copyQueue 1 = [.cmd (command false [0] none)]
    ∧ (copying (command false [0] none)).enginesRun 0 = true ∧ ((command true [0] none).segs 0).map (fun g => (g.src, g.dst, g.n)) = [(512, 0, 64)]
    ∧ okAnd ((copying (command true [0] none)).engineXlate 0 (.engine false 1 false) 512) (fun x => x == xl 512) = true
    ∧ okAnd ((copying (command true [0] none)).engineXlate 0 (.engine false 1 true) 0) (fun x => x == xl 0) = true
    ∧ ((copying (command true [0] none)).ctx 0).provisional = false ∧ ((copying (command true [0] none)).ctx 0).dying = none
    ∧ okAnd (((copying (command true [0] none)).seenLine 0 (xl 512)).readRaw false 1 false 0 64) (fun p => p == (0, false)) = true
    ∧ okAnd (((copying (command true [0] none)).seenLine 0 (xl 0)).storeRaw false 1 false Fmt.fp32 0 (leBytes 64 0))
        (fun p => !p.2 && !(copying (command true [0] none)).plyConflict (xl 0) p.1) = true := by decide +kernel
theorem test_w_Engines_signal : (copying (command true [] (some (0, 5)))).Writes 0 (.engine false 1 true) 0 (leBytes 8 (5#64).toNat) (xl 0)
    ∧ okAnd ((copying (command true [] (some (0, 5)))).engineXlate 0 (.engine false 1 true) 0) (fun x => x == xl 0) = true :=
  ⟨writes_of (by decide +kernel) (by decide +kernel) (by decide +kernel), by decide +kernel⟩

/-- A QFENCE on cq0 whose mark stands at the head. -/
def fencing : State := ctx (at_ .A) fun x => { x with cq := [(0, [.fence 1])], fences := [{ id := 1, cqs := 1, qs := 0, owed := 0 }] }
theorem test_w_Engines_fence : (fencing.ctx 0).fences.find? (fencing.ctx 0).fenceMet = some { id := 1, cqs := 1, qs := 0, owed := 0 } := by
  decide +kernel
/-- A stream of four FP32 elements in strips of two, on q1. -/
def pattern : Stream :=
  { base := 0, s0 := 4, s1 := 0, s2 := 0, n0 := 4, n1 := 1, n2 := 1, slen := 2, sflg := 0, ops := [], parm := 0, pk := 0, lo := 0, hi := 0
    i0 := 0, i1 := 0, i2 := 0, exh := false, flt := false }
def streaming : State := ctx (tasked (bound (mem .C)) id id) fun x => { x with queues := [(1, { queue .C .A [] with stream := some pattern })] }
theorem test_w_Engines_stream : streaming.streamReady 0 1 = some pattern ∧ ((streaming.ctx 0).queue 1).free ≠ 0 ∧ streaming.stripContig 0 1 pattern = true
    ∧ (pattern.after pattern.strip).exh = false
    ∧ ∃ got t, ((gather 0 (.engine true 1 false) pattern.va (.positions fun i => i) true (List.range pattern.strip)).run.run streaming : Except Stop Gathered × State)
        = (.ok got, t) ∧ ((t.ctx 0).queue 1).fits ((t.stripEntries 0 pattern true (t.stripDrafts 0 pattern got)).map Prod.fst) = true
          ∧ ∀ d ∈ t.stripDrafts 0 pattern got, convertsNone pattern.ops d.fmt = false := by
  refine ⟨by decide +kernel, by decide +kernel, by decide +kernel, by decide +kernel, ?_⟩
  have h : (let r := ((gather 0 (.engine true 1 false) pattern.va (.positions fun i => i) true (List.range pattern.strip)).run.run streaming : Except Stop Gathered × State)
    okAnd r.1 fun got => ((r.2.ctx 0).queue 1).fits ((r.2.stripEntries 0 pattern true (r.2.stripDrafts 0 pattern got)).map Prod.fst)) = true := by
    decide +kernel
  obtain ⟨got, h1, h2⟩ := ok_of h
  exact ⟨got, _, Prod.ext h1 rfl, h2, fun _ _ => rfl⟩

/-- Tables at 0x200000 that map page 0 of 2 MiB at 0x400000, typed, of slot width 4 and with RCOD set; its first line has the format `f`. -/
def jobTables (f : Fmt) (vcls : Nat) : State :=
  { State.reset with
    mem := [(0x1002, 0x20), (0x1009, 0x18), (0x1800, 0x05), (0x1801, 0x08), (0x200000, 1), (0x200001, 0x10), (0x200002, 0x20)
            , (0x201000, 1), (0x201001, 0x20), (0x201002, 0x20), (0x202000, 3), (0x202002, 0x40)]
    tags := [(0x8000, { desc := descOf f vcls 0, sc := 0x7F7F7F7F })] }
def recoding (next : Nat) (t : Option (Nat × LineTag × List Byte)) : RecJob :=
  { asd := 0x1000, va := 0, lines := 1, fmt := Fmt.fp16, rtz := false, ply := false, cmpl := 0x500000, fromHost := true, next := next
    rewritten := 0, skipped := 0, refused := 0, freed := 0, stuckSince := none, transit := t, fold := none }
def pageIs (r : JobPage) (p : Xlate → Bool) : Bool :=
  match r with
  | .page x => p x
  | _ => false
theorem page_of {r : JobPage} {p : Xlate → Bool} (h : pageIs r p = true) : ∃ x, r = .page x ∧ p x = true := by
  cases r with
  | page x => exact ⟨x, rfl, h⟩
  | wait => cases h
  | none => cases h
theorem noStores_of {s : State} (h : s.ctxs = []) : s.NoStores := by
  intro k j
  unfold State.ctx
  rw [h]
  cases j <;> rfl
/-- What a recode job finds out about its page, as a Bool. -/
def meets (s : State) (cls : LCls) (f : Fmt) (x : Xlate) : Bool :=
  decide ((recoding 0 none).refuses x = false ∧ x.entry.mig = false ∧ s.ownedByHost x.pa = false)
    && decide ((s.blockAt x.pa).errors = 0 ∧ s.extPoison.get false (x.pa / 128) = false)
    && decide ((s.tagAt x.pa).cls true x.par.w = cls ∧ (s.tagAt x.pa).fmt = f)
/-- The classes ZERO and VALID, the latter narrower or not. -/
theorem test_w_Engines_recode : ∀ c ∈ ([(Fmt.fp32, 1, .zero), (Fmt.fp32, 0, .valid), (Fmt.fp16, 0, .valid)] : List (Fmt × Nat × LCls)),
    (jobTables c.1 c.2.1).NoStores
      ∧ (jobTables c.1 c.2.1).prewalk recodeUnit 0x1000 (BitVec.ofNat 64 ((recoding 0 none).lineVa 0)) = jobTables c.1 c.2.1
      ∧ ∃ x, (jobTables c.1 c.2.1).jobPage 0x1000 ((recoding 0 none).lineVa 0) = .page x ∧ meets (jobTables c.1 c.2.1) c.2.2 c.1 x = true := by
  have h : ∀ c ∈ ([(Fmt.fp32, 1, .zero), (Fmt.fp32, 0, .valid), (Fmt.fp16, 0, .valid)] : List (Fmt × Nat × LCls)),
      (jobTables c.1 c.2.1).prewalk recodeUnit 0x1000 (BitVec.ofNat 64 ((recoding 0 none).lineVa 0)) = jobTables c.1 c.2.1
        ∧ pageIs ((jobTables c.1 c.2.1).jobPage 0x1000 ((recoding 0 none).lineVa 0)) (meets (jobTables c.1 c.2.1) c.2.2 c.1) = true := by decide +kernel
  exact fun c hc => ⟨noStores_of rfl, (h c hc).1, page_of (h c hc).2⟩
theorem test_w_Engines_jobs : (recoding 0 none).finished = false ∧ (recoding 0 none).next < (recoding 0 none).lines
    ∧ (recoding 1 none).finished = true ∧ State.reset.region (recoding 1 none).cmpl = .hbm ∧ (recoding 1 none).cmpl % 64 = 0
    ∧ ((jobTables Fmt.fp32 3).tagAt (0x8000 * 128)).vcls = 3
    ∧ (recoding 0 (some (0x8000, LineTag.wiped, []))).transit = some (0x8000, LineTag.wiped, []) := by decide +kernel
/-- An export of one page, whose MIG is clear: nothing keeps the job waiting. -/
theorem test_w_Engines_export : let j : ExpJob := { asd := 0x1000, va := 0, dst := 0, pages := 1, tagged := false, cmpl := 0x500000 }
    (∀ i < j.pages, j.stalls (jobTables Fmt.fp32 0) i = false)
      ∧ (jobTables Fmt.fp32 0).region j.cmpl = .hbm ∧ j.cmpl % 64 = 0 := by decide +kernel

/-! ### The machine as a whole -/

theorem test_w_HostsAndPeers_jobs :
    let j : DecJob := { src := 0, dst := 0, len := 16, key := 0, iv := List.replicate 12 0, tag := List.replicate 16 0, cmpl := 0 }
    decrypting.plaintext j = none ∧ decrypting.creel.lcs = 1 := by decide +kernel
theorem test_w_MemoryStaysCanonical : MemOk State.reset := by unfold MemOk; decide +kernel
theorem test_w_EncodingRoundTrip : (Instr.add yes 3 5 9).home ≠ .event ∧ (Instr.add yes 3 5 9).wf (.cl .C) = true
    ∧ (Instr.add yes 3 5 9).wf .sup = true ∧ (Instr.vfma yes 3 5 9 ⟨7, 3, 4, true, 2, true, false, true, true, 0x1⟩).wf (.cl .V) = true := by
  decide +kernel
theorem test_w_Hints : Parcel.major 0x7C000001 = 0x3E ∧ Parcel.long 0x7C000001 = false ∧ Parcel.long 0xFC000001 = true := by decide +kernel
/-- `WID s3, wid5`, and two forms that are refused. -/
theorem test_w_WorkIdentifiers : (let p : Parcel := 0x3CE30142; p.major = 0x1E ∧ p.long = false ∧ p.minor = 2 ∧ p.ra = 0 ∧ p.rb.toNat = 5) := by
  decide +kernel
/-- A running C cluster at a NOP, and an idle one; a convoy; a reel; a core at a NOP; a load that is still missing. -/
def ready (f : Cluster → Cluster) : State :=
  let s := ctx (tasked (bound (mem .C)) id id) fun x => { x with c := f { x.c with run := .running } }
  { s with mem := [(0x200002, 0xE0), (0x200003, 0x7C)], turns := [.run (.cluster 0 .C) false] }
theorem test_w_Step : (ready id).powered = true ∧ (ready id).turn = some (.run (.cluster 0 .C) false)
    ∧ (ready id).afterTurn.canRun (.cluster 0 .C) = true ∧ (ready id).afterTurn.canRun (.cluster 0 .A) = false
    ∧ ((ready id).afterTurn.begin (.cluster 0 .C)).loadPending = false ∧ ((ready id).afterTurn.begin (.cluster 0 .C)).me.convoy = none
    ∧ ((ready id).afterTurn.begin (.cluster 0 .C)).mustReissue = false ∧ ((ready id).afterTurn.begin (.cluster 0 .C)).vregsPart (.add yes 0 0 0) = false
    ∧ ((ready id).afterTurn.begin (.cluster 0 .C)).me.reel = none ∧ ((ready id).afterTurn.begin (.cluster 0 .C)).me.pc = 0 := by decide +kernel

theorem test_w_SupervisorCores_restore : let t := framed.scrubFrame 0x1000000
    let secs := (t.loadFrame 0 0x1000000 (t.vregBanks 0)).frameSections 0 false
    t.frameWait 0x1000000 secs = none ∧ t.frameBad 0x1000000 secs = false := by
  have h : (framed.scrubFrame 0x1000000).tags = [] ∧ (framed.scrubFrame 0x1000000).hostOwned = [] := by decide +kernel
  simp [State.frameBad, State.frameWait, h]

/-! ### One step of an instruction, with results taken from the rules -/

/-- What holds of the next state. -/
def next (a : Answer) (p : State → Bool) : Bool :=
  match a with
  | .next t => p t
  | _ => false
/-- Cluster C with values in scalar registers. -/
def regs (l : List (Nat × Word)) : State := me (at_ .C) fun x => { x with s := l }
/-- The scalar result of an instruction. -/
def gives (i : Instr) (l : List (Nat × Word)) (d : RegF) (v : Word) : Bool := next (exec i (regs l)) fun t => t.readS d == v && t.me.pc == 4

/-- R247: the clamped sum, with SAT; s0 stays 0. -/
theorem test_adds_clamps : next (exec (.adds yes 1 2 3) (regs [(2, 0x7FFFFFFFFFFFFFFF), (3, 1)])) (fun t =>
    t.readS 1 == 0x7FFFFFFFFFFFFFFF && t.myCtx.flags == Flags.sat) = true ∧ gives (.add yes 0 2 3) [(2, 5), (3, 6)] 0 0 = true := by decide +kernel
/-- R247: a sum that wraps, where a source is the destination. -/
theorem test_add_wraps : gives (.add yes 2 2 3) [(2, 0xFFFFFFFFFFFFFFFF), (3, 2)] 2 1 = true := by decide +kernel
/-- R249: division by zero gives all ones and DZ; the most negative number by −1 stays. -/
theorem test_div_corners : next (exec (.div yes 1 2 0) (regs [(2, 7)])) (fun t => t.readS 1 == 0xFFFFFFFFFFFFFFFF && t.myCtx.flags == Flags.dz) = true
    ∧ gives (.div yes 1 2 3) [(2, 0x8000000000000000), (3, 0xFFFFFFFFFFFFFFFF)] 1 0x8000000000000000 = true := by decide +kernel
/-- R249: a remainder takes the dividend's sign. -/
theorem test_rem_sign : gives (.rem yes 1 2 3) [(2, 0xFFFFFFFFFFFFFFF9), (3, 2)] 1 0xFFFFFFFFFFFFFFFF = true := by decide +kernel
/-- R249: the high half of −1 times 2. -/
theorem test_mulh_negative : gives (.mulh yes 1 2 3) [(2, 0xFFFFFFFFFFFFFFFF), (3, 2)] 1 0xFFFFFFFFFFFFFFFF = true := by decide +kernel
/-- R251: the field [19:8], signed. -/
theorem test_bext_sign : next (exec (.bext yes 1 2 8 11) (regs [(2, 0xABC80)])) (fun t => t.readS 1 == 0xFFFFFFFFFFFFFABC) = true := by decide +kernel
/-- R250: LIMMH keeps the low 48 bits. -/
theorem test_limmh : gives (.limmh yes 5 0x1234) [(5, 0x56789ABCDEF0)] 5 0x123456789ABCDEF0 = true := by decide +kernel
/-- R254: JRL with one register for both. -/
theorem test_jrl_same : next (exec (.jrl yes 1 1) (regs [(1, 0x100)])) (fun t => t.readS 1 == 4 && t.me.pc == 0x100) = true := by decide +kernel
/-- R254, R220: a misaligned target takes the illegal-operand trap at the JR. -/
theorem test_jr_misaligned : next (exec (.jr yes 1) (handled (hosted (regs [(1, 0x102)])))) (fun t =>
    t.myCtx.event.any fun e => e.record.cause == 0x0010 && e.record.pc == 0) = true := by decide +kernel
/-- R357, R407: TRAP takes the event with its code, and the restart PC lies behind it. -/
theorem test_trap : next (exec (.trap yes 0x155) (handled (hosted (at_ .C)))) (fun t =>
    t.me.pc == 4 && t.myCtx.event.any fun e => e.record.cls == 1 && e.record.cause == 0x8155 && e.record.pc == 4) = true := by decide +kernel
/-- R36, R271: QPUSH waits on a full queue and is not carried out. -/
theorem test_qpush_waits : next (exec (.qpush yes 1 4) queues) (fun t =>
    t.me.run == .waiting && t.me.wait == some (.queueSpace 4) && t.me.pc == 0) = true := by decide +kernel
/-- R271: QPEEK of a closed and drained queue. -/
theorem test_qpeek_closed : next (exec (.qpeek yes 1 3) (ctx queues fun x => { x with queues := [(3, { queue .A .C [] with closed := true })] }))
    (fun t => t.readS 1 == 0x0000000200000040) = true := by decide +kernel
/-- R305: FP32 1 + 2 = 3 in both elements below VL. -/
def summands : State := ctx (vec (at_ .V)) fun x => { x with vregs := [1, 2].map fun r =>
  (r, { VReg.initial with strip := { Strip.initial with elems := [(0, if r = 1 then 0x3F800000 else 0x40000000)] } }) }
theorem test_vadd : next (exec (.vadd yes 3 1 2) summands) (fun t =>
    (t.vreg 3).elems.get 0 0 == 0x40400000 && (t.vreg 3).elems.get 0 1 == 0 && (t.vreg 3).tag.fmt == Fmt.fp32) = true := by decide +kernel
/-- R338: an accumulator is FREE again. -/
theorem test_azero : next (exec (.azero yes 2) (ctx (at_ .M) fun x => { x with accs := [(2, { kind := .fp32, words := [(0, 1)] })] }))
    (fun t => (t.acc 2).kind == .free && (t.acc 2).words == []) = true := by decide +kernel
/-- R72: α¹³ is α⁴ + α³ + α + 1. -/
theorem test_gf_reduces : gfTwice 0x1000 = 0x1B := by decide +kernel

end Sys2Proof.Tests
end

section
/-! PROOFS. The turn that a step takes, and that the step answers: no meaning of the opcode table ends in a fault or a refusal. -/

namespace Sys2Proof.Machine

/-! ### Turns -/

theorem State.turn_cons {s : State} {x : Turn} {l : List Turn} (h : s.turns = x :: l) : s.turn = some x := by
  unfold State.turn; rw [h]

/-- A turn is used up and time passes: nothing else changes before the step. -/
theorem State.afterTurn_eq (s : State) :
    s.afterTurn = { s with turns := s.turns.tail, timeNs := s.afterTurn.timeNs, stepNo := s.stepNo + 1 } := rfl

theorem State.timeNs_le_afterTurn (s : State) : s.timeNs ≤ s.afterTurn.timeNs := Nat.le_add_right _ _

theorem step_unpowered {s : State} (h : s.powered = false) : step s = .fault .unpowered := by simp [step, h]

section
variable {s : State} (hp : s.powered = true)
include hp

theorem step_none (ht : s.turn = none) : step s = .next s.afterTurn := by simp [step, hp, ht]

theorem step_run {a : Agent} {late : Bool} (ht : s.turn = some (.run a late)) : step s = s.afterTurn.runAgent a late := by
  simp [step, hp, ht]

theorem step_event {i : Instr} (ht : s.turn = some (.event i)) (hi : isEvent i = true) : step s = exec i s.afterTurn := by
  simp [step, hp, ht, hi]

/-- A turn that names an instruction as an event passes. -/
theorem step_not_event {i : Instr} (ht : s.turn = some (.event i)) (hi : isEvent i = false) : step s = .next s.afterTurn := by
  simp [step, hp, ht, hi]

theorem step_happen {h : Happening} (ht : s.turn = some (.happen h)) : step s = .next (s.afterTurn.happens h) := by
  simp [step, hp, ht]
end

/-- Settles O58: each kind of turn by its equation of `step`. -/
theorem turns : Obligations.Turns :=
  ⟨fun s hp => ⟨fun _ => step_event hp, fun _ => step_happen hp, step_none hp, s.afterTurn_eq, s.timeNs_le_afterTurn,
    fun _ _ => State.turn_cons⟩, fun _ => step_unpowered⟩

/-! ### Answers of the shared forms -/

/-- The answer is a next state. -/
def Answers (o : Answer) : Prop := ∃ t, o = .next t

theorem answers_next (t : State) : Answers (.next t) := ⟨t, rfl⟩

/-- Every stop of a computation (a trap, a fault, a fatal error or a wait) is an event of the module and gives a next state. -/
theorem answers_finish (c : Comp Unit) (s : State) : Answers (finish c s) := by
  rcases h : Comp.go c s with ⟨_ | _, t⟩
  · exact ⟨_, finish_error h⟩
  · exact ⟨_, finish_ok h⟩

theorem answers_onGuard {g : Guard} {len : Nat} {s : State} {f : State → Answer} (h : Answers (f s)) :
    Answers (onGuard g len s f) := by
  cases hg : s.guardTrue g with
  | true => rwa [onGuard_true hg]
  | false => exact ⟨_, onGuard_false hg⟩

theorem answers_ite (p : Prop) [Decidable p] (t u : State) : Answers (if p then .next t else .next u) := by
  split <;> exact answers_next _

/-- A meaning under its guard that always completes. -/
theorem answers_guarded (g : Guard) (len : Nat) (f : State → State) (s : State) :
    Answers (onGuard g len s fun s => .next (f s)) := answers_onGuard (answers_next _)

theorem answers_run (g : Guard) (len : Nat) (c : Comp Unit) (s : State) : Answers (run g len c s) :=
  answers_onGuard (answers_finish _ s)

theorem answers_settle (g : Guard) (len : Nat) (f : State → Except Stop State) (s : State) : Answers (settle g len f s) := by
  refine answers_onGuard ?_
  cases f s with
  | ok t => exact answers_next _
  | error x => exact answers_next _

/-- A privileged instruction is an illegal encoding outside the supervisor cores, which is a trap. -/
theorem answers_privileged {f : State → Answer} (g : Guard) (s : State) (h : ∀ s, Answers (f s)) :
    Answers (privileged g f s) := by
  unfold privileged
  split
  · exact answers_onGuard (h s)
  · exact answers_next _

/-! ### Answers of the forms of scalar instructions and accesses -/

theorem answers_alu1 (g : Guard) (d a : RegF) (f : Word → Word) (s : State) : Answers (alu1 g d a f s) :=
  answers_guarded _ _ _ s

theorem answers_alu2 (g : Guard) (d a b : RegF) (f : Word → Word → Word) (s : State) : Answers (alu2 g d a b f s) :=
  answers_guarded _ _ _ s

theorem answers_alu2f (g : Guard) (d a b : RegF) (f : Word → Word → Word × Flags) (s : State) :
    Answers (alu2f g d a b f s) := answers_guarded _ _ _ s

theorem answers_fp1 (g : Guard) (d a : RegF) (f : Word → Word × Flags) (s : State) : Answers (fp1 g d a f s) :=
  answers_guarded _ _ _ s

theorem answers_bitOp (g : Guard) (d : RegF) (f : State → Word) (s : State) : Answers (bitOp g d f s) :=
  answers_guarded _ _ _ s

theorem answers_compare (g : Guard) (gt gf : BitVec 3) (a b : State → Word) (cond : BitVec 4) (len : Nat) (s : State) :
    Answers (compare g gt gf a b cond len s) := answers_guarded _ _ _ s

theorem answers_scalarLoad (g : Guard) (d : RegF) (addr : State → Word) (n : Nat) (signed : Bool) (s : State) :
    Answers (scalarLoad g d addr n signed s) := answers_run _ _ _ s

theorem answers_scalarStore (g : Guard) (d : RegF) (addr : State → Word) (n : Nat) (s : State) :
    Answers (scalarStore g d addr n s) := answers_run _ _ _ s

theorem answers_releaseStore (g : Guard) (d a : RegF) (n : Nat) (s : State) : Answers (releaseStore g d a n s) :=
  answers_run _ _ _ s

theorem answers_amo (g : Guard) (d a b : RegF) (w : Bool) (f : Nat → Nat → Nat → Nat → Option Nat) (s : State) :
    Answers (amo g d a b w f s) := answers_run _ _ _ s

theorem answers_reelOf (long : Bool) (g : Guard) (n : Nat) (a : RegF) (elem : State → Word) (s : State) :
    Answers (reelOf long g n a elem s) := answers_finish _ s

/-! ### Answers of the forms with more than one outcome -/

theorem answers_forkClusters (len : Nat) (g : Guard) (mask : BitVec 4) (rs : List RegF) (s : State) :
    Answers (forkClusters len g mask rs s) := by
  refine answers_onGuard ?_
  dsimp only
  split <;> exact answers_next _

theorem answers_loadInstr (g : Guard) (len : Nat) (d a : RegF) (srcs : List VField) (ls sp : Bool) (m : VMods) (s : State) :
    Answers (loadInstr g len d a srcs ls sp m s) := by
  cases sp with
  | true => exact answers_settle _ _ _ s
  | false => exact answers_run _ _ _ s

theorem answers_storeInstr (g : Guard) (len : Nat) (d a : RegF) (srcs : List VField) (ls sp : Bool) (m : VMods) (s : State) :
    Answers (storeInstr g len d a srcs ls sp m s) := by
  cases sp with
  | true => exact answers_settle _ _ _ s
  | false => exact answers_run _ _ _ s

theorem answers_acvt (g : Guard) (d a fmt : RegF) (blk : BitVec 2) (rm : BitVec 3) (qd : Bool) (s : State) :
    Answers (execAcvt g d a fmt blk rm qd s) := by
  cases qd with
  | true =>
    refine answers_onGuard ?_
    unfold acvtQueue
    split <;> exact answers_next _
  | false => exact answers_settle _ _ _ s

theorem answers_svret (g : Guard) (s : State) : Answers (execSvret g s) := by
  refine answers_privileged g s fun s => ?_
  dsimp only
  split <;> exact answers_next _

/-- A posted write of BANKCFG or QCFG that is not the next instruction of its C cluster passes; one that is settles. -/
theorem answers_dueCsrw (slot n : Nat) (value : Word) (s : State) : Answers (dueCsrw slot n value s) := by
  unfold dueCsrw
  dsimp only
  split
  · split
    · split
      · exact answers_settle _ _ _ _
      · exact answers_next _
    · exact answers_next _
  · exact answers_next _

/-! ### Every row of the opcode table -/

/-- The rows of the opcode table by the form of their meaning: guarded ones that always complete, computations, settled checks,
privileged ones, jumps and forks, vector accesses, and hints and events, which are total functions of the state. -/
theorem exec_answers (i : Instr) (s : State) : Answers (exec i s) := by
  unfold exec
  cases i with
  | add | sub | and | or | xor | andn | shl | shr | sra | ror | min | max | minu | maxu | mul | mulh | mulhu | fmin | fmax =>
    exact answers_alu2 _ _ _ _ _ s
  | adds | subs | shls | div | divu | rem | remu | muls | fadd | fsub | fmul => exact answers_alu2f _ _ _ _ _ s
  | clz | ctz | popc | addi | andi | ori | xori | shli | shri | srai | rori | fabs | fneg => exact answers_alu1 _ _ _ _ s
  | fcvtf | fcvtfu | fcvti | fcvtiu => exact answers_fp1 _ _ _ _ s
  | bextu | bext | bins => exact answers_bitOp _ _ _ s
  | cmp | fcmp | cmpi => exact answers_compare _ _ _ _ _ _ _ s
  | limmh | limm | sel | fma | br | brl | fence | end_ | yield | bar | rdv | getts | trap | wid | pfl2 =>
    exact answers_guarded _ _ _ s
  | ldb | ldbu | ldh | ldhu | ldw | ldwu | ldd | ldacq | ldacqw => exact answers_scalarLoad _ _ _ _ _ s
  | stb | sth | stw | std => exact answers_scalarStore _ _ _ _ s
  | strel | strelw => exact answers_releaseStore _ _ _ _ s
  | amoswap | amoadd | amoand | amoor | amoxor | amomin | amomax | amominu | amomaxu | cas => exact answers_amo _ _ _ _ _ _ s
  | sigwait | sigset | taskq | shpost | vldq | vldsq | vldxq | vstq | vstsq | vstxq | sbind | tagrd | tagset | cbtld | mld
  | mldSparse | mldf | mst | mstf | ald | ast =>
    exact answers_run _ _ _ s
  | qpush | qpushu | qpushf | qpops | qpeek | qstat | qclose | csrr | csrw | setvlAccess | sunbind | copy | copyt
  | cwait | ctest | cclr | qfence | setvl | setvcap | vtagr | vtagw | qpopv | vadd | vaddLong | vsub | vsubLong | vmul
  | vmulLong | vmin | vminLong | vmax | vmaxLong | vabs | vabsLong | vneg | vnegLong | vfma | vfms | vnfma | vand
  | vandLong | vor | vorLong | vxor | vxorLong | vshl | vshlLong | vshr | vshrLong | vsra | vsraLong | vcmp | vsel | vmov
  | vmovLong | vsplat | vsplatLong | vextr | vextrLong | vcvt | vscale | vscaleLong | vexp2 | vexp2Long | vlog2
  | vlog2Long | vrcp | vrcpLong | vrsq | vrsqLong | vssmx | vredsum | vredsumLong | vredmax | vredmaxLong | vredmin
  | vredminLong | vscan | vscanLong | vperm | vpermLong | vslide | vcompress | vexpand | kand | kandLong | kor | korLong
  | kxor | kxorLong | kandn | kandnLong | knot | knotLong | kmov | kmovLong | kfirst | kfirstLong | kpop | kpopLong
  | mclaim | mclaimElastic | mrel | mzero | mrank | mtr | mdense | mma | msld | mlmul | mladd | mlrc | azero =>
    exact answers_settle _ _ _ s
  | convoy => exact answers_finish _ s
  | reel | reelx => exact answers_reelOf _ _ _ _ _ s
  | rsave | rrest | tlbi | ltld | recode => exact answers_privileged _ s (answers_finish _)
  | svret g => exact answers_svret g s
  | jr | jrl | loop => exact answers_onGuard (answers_ite _ _ _)
  | cfork | cforkLong => exact answers_forkClusters _ _ _ _ s
  | vld | vldLong | vldx | vldxLong => exact answers_loadInstr _ _ _ _ _ _ _ _ s
  | vst | vstLong | vstx | vstxLong => exact answers_storeInstr _ _ _ _ _ _ _ _ s
  | acvt g d a fmt blk rm qd => exact answers_acvt g d a fmt blk rm qd s
  | bankcfgWrite | qcfgWrite => exact answers_dueCsrw _ _ _ s
  | hint | hintLong | pageWalk | atsTranslationCompletion | priResponse | pageRequestTimeout | atsInvalidate
  | hostOwnership | backInvalidationTimeout | hostMemAccess | peerAccess | lportPost | hostRecodePort | hostDecryptionPort
  | decryptionJobComplete | keySlotWrite | pstateRequest | pstateTransitionDone | pwrcapWrite | powerSample | powerTrip
  | thermalLimit | thermalStepDown | thermalStepUp | thermalTrip | hbmTempHot | bobbinPark | parkComplete | parkAbandon
  | bobbinUnpark | unparkComplete | predctlClr | expqSubmit | exportJobComplete | registerWrite | msixUnmask
  | moduleReset | lifeCycleChange | linkReplay | linkReplayThreshold | linkDown | linkTrained | distaffRestart
  | distaffWatchdog | uncontainedError | taskTake | waitConditionRecheck | hankAdmit | stagingCopy | stagingLanded
  | stagingWindow | slotReserve | hankDispatch | hankEnd | preempt | saveComplete | resume | hankAgeing | issueStarvation
  | shapeLearn | shapeTimeout | hankWatchdog | eventWatchdog | supervisorEventTake | queueSpaceWake | queueEntryWake
  | queueEntryPlaced | elementGroupArrival | barrierComplete | rendezvousComplete | sigwaitRetest | copyCommandStart
  | completionBitSet | copyCommandComplete | qfenceComplete | streamRefill | recodeLineRewrite | recodeJobComplete
  | modulePowerOff | hbmStackCooled | backInvalidationResponse | priEnableWrite | loadDataReturn | spdmMeasurementRequest =>
    exact answers_next _

/-! ### Every step of a powered module -/

theorem execLate_answers (i : Instr) (late : Bool) (s : State) : Answers (s.execLate i late) := by
  obtain ⟨t, ht⟩ := exec_answers i (s.enter i late)
  unfold State.execLate
  rw [ht]
  exact answers_next _

/-- The turn of an agent answers, whether it may not run, waits for a load, loads again, executes or fails to decode. -/
theorem runAgent_answers (s : State) (a : Agent) (late : Bool) : Answers (s.runAgent a late) := by
  unfold State.runAgent
  split
  · exact answers_next _
  · dsimp only
    split
    · exact answers_next _
    · split
      · exact answers_finish _ _
      · split
        · split
          · exact answers_next _
          · exact execLate_answers _ _ _
        · exact answers_next _

theorem step_answers {s : State} (hp : s.powered = true) : Answers (step s) := by
  rcases ht : s.turn with _ | ⟨a, late⟩ | i | h
  · exact ⟨_, step_none hp ht⟩
  · rw [step_run hp ht]; exact runAgent_answers _ a late
  · cases hi : isEvent i with
    | true => rw [step_event hp ht hi]; exact exec_answers i _
    | false => exact ⟨_, step_not_event hp ht hi⟩
  · exact ⟨_, step_happen hp ht⟩

/-- Settles O54: each row by the form of its meaning, and each turn by the row or the happening that it runs. -/
theorem executionAnswers : Obligations.ExecutionAnswers := ⟨exec_answers, fun _ => step_answers⟩

end Sys2Proof.Machine
end

section
/-! PROOFS. The module right after reset (R389). -/

namespace Sys2Proof.Machine

/-! ### Banks of Creel registers (R390) -/

section
variable (s : State) {n : Nat}

/-- The scheduler's registers answer from the arrays that hold them. -/
theorem State.creelRead_lqcfg (h : n < 64) : s.creelRead (0x10000 + 8 * n) = s.lqcfg n := by
  unfold State.creelRead
  dsimp only
  rw [if_neg (by omega), if_neg (by omega), if_pos (by omega), show (0x10000 + 8 * n - 0x10000) / 8 = n by omega]

theorem State.creelRead_lqptr (h : n < 64) : s.creelRead (0x10200 + 8 * n) = s.creel.lqptr.get 0 n := by
  unfold State.creelRead
  dsimp only
  rw [if_neg (by omega), if_neg (by omega), if_neg (by omega), if_pos (by omega),
    show (0x10200 + 8 * n - 0x10200) / 8 = n by omega]

theorem State.creelRead_stgbud (h : n < 8) : s.creelRead (0x10400 + 8 * n) = s.creel.stgbud.get Creel.stgbudReset n := by
  interval_cases n <;> rfl

theorem State.creelRead_svvec (h : n < 8) : s.creelRead (0x10800 + 8 * n) = s.creel.svvec.get 0 n := by
  interval_cases n <;> rfl

theorem State.creelRead_svring (h : n < 8) : s.creelRead (0x10840 + 8 * n) = s.creel.svring.get 0 n := by
  interval_cases n <;> rfl

/-- TALLOW lies above every single register: its place passes all their tests. -/
theorem State.creelRead_tallow (h : n < 480) :
    s.creelRead (0x11000 + 8 * n) = (s.creel.tallow.get Creel.tallowReset n).setWidth 64 := by
  unfold State.creelRead
  dsimp only
  repeat rw [if_neg (by omega)]
  rw [if_pos (by omega), show (0x11000 + 8 * n - 0x11000) / 8 = n by omega]
end

/-- Settles O52: each field of the reset state by evaluation, each bank of registers by its equation. -/
theorem resetState : Obligations.ResetState := by
  refine ⟨⟨rfl, rfl, rfl, rfl, rfl, rfl, rfl, rfl, rfl, rfl, rfl, rfl, rfl, rfl, rfl, fun _ => rfl, fun _ => rfl, fun _ => rfl,
    fun _ => ⟨rfl, rfl⟩, fun _ _ => rfl, ?contexts, ?queues, ?bobbins, rfl, rfl, rfl, rfl, rfl, ?tallow, rfl, fun _ _ _ _ => rfl⟩, rfl⟩
  case contexts =>
    refine fun k => ⟨rfl, rfl, rfl, rfl, rfl, rfl, fun c => ?_, fun _ => rfl, fun _ => rfl⟩
    cases c <;> exact ⟨rfl, fun r => ite_self _⟩
  case queues => exact fun n h => ⟨State.creelRead_lqcfg _ h, State.creelRead_lqptr _ h⟩
  case bobbins => exact fun b h => ⟨State.creelRead_stgbud _ h, State.creelRead_svvec _ h, State.creelRead_svring _ h⟩
  case tallow => exact fun n h => State.creelRead_tallow _ h

end Sys2Proof.Machine
end

section
/-! PROOFS. The step of an agent: what comes before the fetch, the parcels that it fetches and the instruction that it runs (R33, R194,
R215, R230, R317). -/

namespace Sys2Proof.Machine

/-! ### Quiet reads of the executing agent -/

/-- A read of a cluster that leaves no trace. -/
theorem load_quiet {s : State} {slot : Nat} {c : Cl} (hc : s.cur = .cluster slot c) {k : MemKind} {va : Word} {n : Nat} {x : Xlate}
    {v : Nat} (h : s.Reads slot k va n x v false) (hq : s.Quiet slot x) : Comp.go (load k va n) s = (.ok v, s) := by
  have hv : va = BitVec.ofNat 64 x.va := by
    have hx := access_ok h.1.1
    rw [hx.2, BitVec.ofNat_toNat, BitVec.setWidth_eq]
  rw [load_go hc h, State.afterRead_quiet hv hq]

/-- What a supervisor core meets before an access does not depend on the kind of access. -/
theorem State.supCheck_none {s : State} {k : MemKind} {va : Word} {n : Nat} (h : s.supCheck k va n = none) (j : MemKind) :
    s.supCheck j va n = none := by
  unfold State.supCheck at *
  dsimp only at *
  repeat' split at h
  all_goals simp_all

/-- A read of a supervisor core that leaves no trace. -/
theorem supLoad_quiet {s : State} {va : Word} {n : Nat} {l : List Byte} (h : s.SupReads va n 1 l) (k : MemKind) :
    Comp.go (supLoad k va n) s = (.ok (leNat l), s) := by
  obtain ⟨hl, rfl⟩ := h
  obtain ⟨hcheck, hcreel, hclean, hpoison⟩ := hl 0 Nat.one_pos
  simp only [Nat.mul_zero, BitVec.add_zero] at hcheck hcreel hclean hpoison
  unfold supLoad
  rw [Comp.go_bind_ok (Comp.go_get s), State.supCheck_none hcheck k]
  dsimp only
  rw [if_neg hcreel, Comp.go_bind_ok (Comp.go_update s _), State.scrub_clean s _ hclean.1 hclean.2,
    Comp.go_bind_ok (Comp.go_get s), hpoison, Bool.not_false, Comp.go_bind_ok (Comp.go_need_true s _), Comp.go_pure]
  simp [State.natAt, List.range_succ, Nat.mod_eq_of_lt va.isLt]

theorem leNat_leBytes (n v : Nat) : leNat (leBytes n v) = v % 256 ^ n := by
  induction n generalizing v with
  | zero => simp [leBytes, leNat, Nat.mod_one]
  | succ n ih => rw [leBytes, leNat, ih, Nat.pow_succ', Nat.mod_mul, BitVec.toNat_ofNat]

/-! ### Fetching (R215) -/

/-- A parcel that can be fetched is fetched, and the fetch leaves no trace. -/
theorem fetchParcel_go {s : State} {va : Word} {ps : List Parcel} (h : s.FetchesParcels s.cur va ps) {k : Nat} (hk : k < ps.length) :
    Comp.go (fetchParcel (va + BitVec.ofNat 64 (4 * k))) s = (.ok (ps.getD k 0), s) := by
  have hload : Comp.go (load .fetch (va + BitVec.ofNat 64 (4 * k)) 4) s = (.ok (ps.getD k 0).toNat, s) := by
    cases hc : s.cur with
    | cluster slot c =>
      rw [hc] at h
      obtain ⟨x, hx, hq⟩ := h k hk
      exact load_quiet hc hx hq
    | sup n =>
      rw [hc] at h
      unfold load
      rw [Comp.go_bind_ok (Comp.go_get s)]
      simp only [hc]
      rw [supLoad_quiet (h k hk), leNat_leBytes, Nat.mod_eq_of_lt (show _ < 256 ^ 4 from (ps.getD k 0).isLt)]
  unfold fetchParcel
  rw [Comp.go_bind_ok hload, Comp.go_pure, BitVec.ofNat_toNat, BitVec.setWidth_eq]

section
variable {s : State} {p q : Parcel} (hcv : s.me.convoy = none) (hreel : s.me.reel = none)
include hcv hreel

/-- A short parcel is decoded by itself, and so is a long one that alone shows its reason (R416). -/
theorem fetchNext_one (h : s.FetchesParcels s.cur s.me.pc [p]) (hl : (p.long && !firstOnly s.site p) = false) :
    Comp.go fetchNext s = Comp.go (decodeHere p 0) s := by
  have h0 := fetchParcel_go h (k := 0) (by simp)
  simp only [Nat.mul_zero, BitVec.ofNat_eq_ofNat, BitVec.add_zero, List.getD_cons_zero] at h0
  unfold fetchNext
  rw [Comp.go_bind_ok (Comp.go_get s)]
  dsimp only
  simp only [hcv, hreel]
  rw [Comp.go_bind_ok h0]
  simp [hl]

/-- A long parcel is decoded with the one behind it. -/
theorem fetchNext_two (h : s.FetchesParcels s.cur s.me.pc [p, q]) (hl : (p.long && !firstOnly s.site p) = true) :
    Comp.go fetchNext s = Comp.go (decodeHere p q) s := by
  have h0 := fetchParcel_go h (k := 0) (by simp)
  have h1 : Comp.go (fetchParcel (s.me.pc + 4)) s = (.ok q, s) := fetchParcel_go h (k := 1) (by simp)
  simp only [Nat.mul_zero, BitVec.ofNat_eq_ofNat, BitVec.add_zero, List.getD_cons_zero] at h0
  unfold fetchNext
  rw [Comp.go_bind_ok (Comp.go_get s)]
  dsimp only
  simp only [hcv, hreel]
  rw [Comp.go_bind_ok h0, if_pos hl, Comp.go_bind_ok h1]
end

/-- In a reel the captured body is decoded (R317). -/
theorem fetchNext_reel {s : State} {r : Reel} (hcv : s.me.convoy = none) (hr : s.me.reel = some r) :
    Comp.go fetchNext s = Comp.go (decodeHere (r.body.getD r.pos 0) (r.body.getD (r.pos + 1) 0)) s := by
  unfold fetchNext
  rw [Comp.go_bind_ok (Comp.go_get s)]
  dsimp only
  simp only [hcv, hr]

/-- In a convoy the next member is decoded (R230). -/
theorem fetchNext_convoy {s : State} {v : Convoy} (hcv : s.me.convoy = some v) :
    Comp.go fetchNext s = Comp.go (decodeHere (v.members.getD v.next (0, 0)).1 (v.members.getD v.next (0, 0)).2) s := by
  unfold fetchNext
  rw [Comp.go_bind_ok (Comp.go_get s)]
  dsimp only
  simp only [hcv]

theorem decodeHere_ok {s : State} {p q : Parcel} {i : Instr} (h : decode s.site p q = .ok i) :
    Comp.go (decodeHere p q) s = (.ok i, s) := by
  unfold decodeHere
  rw [Comp.go_bind_ok (Comp.go_get s)]
  simp only [h, Comp.go_pure]

theorem decodeHere_error {s : State} {p q : Parcel} {x : Bad} (h : decode s.site p q = .error x) :
    Comp.go (decodeHere p q) s = (.error (badTrap p x), s) := by
  unfold decodeHere
  rw [Comp.go_bind_ok (Comp.go_get s)]
  simp only [h, Comp.go_throw]

/-! ### The turn of an agent -/

/-- An agent that may not issue passes. -/
theorem runAgent_stopped {s : State} {a : Agent} (h : s.canRun a = false) (late : Bool) : s.runAgent a late = .next s := by
  unfold State.runAgent; simp [h]

/-- A load that is still to land is waited for (R33). -/
theorem runAgent_pending {s : State} {a : Agent} (h : s.canRun a = true) (hl : (s.begin a).loadPending = true) (late : Bool) :
    s.runAgent a late = .next ((s.begin a).halt (.wait .load)) := by
  unfold State.runAgent; simp [h, hl]

/-- Queue loads that pre-emption has cut short are made again first (R194). -/
theorem runAgent_reissues {s : State} {a : Agent} (h : s.canRun a = true) (hl : (s.begin a).loadPending = false)
    (hm : (s.begin a).mustReissue = true) (late : Bool) :
    s.runAgent a late = finish (reissueLoads (s.begin a).myCtx.reissue) (s.begin a) := by
  unfold State.runAgent; simp [h, hl, hm]

/-- The agent runs the instruction: it waits where the instruction needs a register that is held in part (R116), else `exec` decides,
and the result of a late load is to land. -/
def RunsHere (o : Answer) (b : State) (late : Bool) (i : Instr) : Prop :=
  (b.vregsPart i = true → o = .next (b.halt (.wait .load)))
    ∧ (b.vregsPart i = false → (late = false → o = exec i (b.enter i false))
        ∧ (late = true → ∀ t, exec i (b.enter i true) = .next t → o = .next (b.defer i t)))

theorem execLate_false (i : Instr) (s : State) : s.execLate i false = exec i (s.enter i false) := by
  obtain ⟨t, ht⟩ := exec_answers i (s.enter i false)
  unfold State.execLate
  rw [ht]; rfl

theorem execLate_true {i : Instr} {s t : State} (h : exec i (s.enter i true) = .next t) : s.execLate i true = .next (s.defer i t) := by
  unfold State.execLate
  rw [h]; rfl

section
variable {s : State} {a : Agent} {late : Bool} (hr : s.canRun a = true) (hl : (s.begin a).loadPending = false)
  (hm : (s.begin a).mustReissue = false)
include hr hl hm

theorem runAgent_runs {i : Instr} (h : Comp.go fetchNext (s.begin a) = (.ok i, s.begin a)) :
    RunsHere (s.runAgent a late) (s.begin a) late i := by
  have heq : s.runAgent a late = if (s.begin a).vregsPart i then .next ((s.begin a).halt (.wait .load))
      else (s.begin a).execLate i late := by
    unfold State.runAgent
    dsimp only
    rw [show (fetchNext.run.run (s.begin a) : Except Stop Instr × State) = _ from h]
    simp [hr, hl, hm]
  refine ⟨fun hv => ?_, fun hv => ⟨?_, ?_⟩⟩
  · rw [heq, if_pos hv]
  · rintro rfl
    rw [heq, if_neg (by simp [hv]), execLate_false]
  · rintro rfl t ht
    rw [heq, if_neg (by simp [hv]), execLate_true ht]

theorem runAgent_traps {x : Stop} (h : Comp.go fetchNext (s.begin a) = (.error x, s.begin a)) :
    s.runAgent a late = .next ((s.begin a).halt x) := by
  unfold State.runAgent
  dsimp only
  rw [show (fetchNext.run.run (s.begin a) : Except Stop Instr × State) = _ from h]
  simp [hr, hl, hm]

/-- Parcels that have been fetched run as they decode, or trap. -/
theorem runAgent_decodes {p q : Parcel} (h : Comp.go fetchNext (s.begin a) = Comp.go (decodeHere p q) (s.begin a)) :
    (∀ i, decode (s.begin a).site p q = .ok i → RunsHere (s.runAgent a late) (s.begin a) late i)
      ∧ ∀ x, decode (s.begin a).site p q = .error x → s.runAgent a late = .next ((s.begin a).halt (badTrap p x)) :=
  ⟨fun _ hi => runAgent_runs hr hl hm (h.trans (decodeHere_ok hi)),
    fun _ hx => runAgent_traps hr hl hm (h.trans (decodeHere_error hx))⟩
end

/-- Settles O57: what comes before the fetch by the equations of the agent's turn, and the fetched parcels by where they come from. -/
theorem stepRunsTheDecodedInstruction : Obligations.StepRunsTheDecodedInstruction := by
  intro s a late hp ht
  rw [step_run hp ht]
  refine ⟨fun hr => runAgent_stopped hr late, fun hr hl => runAgent_pending hr hl late,
    fun hr hl hm => runAgent_reissues hr hl hm late, fun hr hl hm => ⟨fun hcv hreel p q h1 => ⟨?short, ?alone, ?long⟩, ?reel, ?convoy⟩⟩
  case short => exact fun hs => runAgent_decodes hr hl hm (fetchNext_one hcv hreel h1 (by simp [hs]))
  case alone => exact fun _ hf => (runAgent_decodes hr hl hm (fetchNext_one hcv hreel h1 (by simp [hf]))).2
  case long => exact fun hs hf h2 => runAgent_decodes hr hl hm (fetchNext_two hcv hreel h2 (by simp [hs, hf]))
  case reel => exact fun r hcv hreel => runAgent_decodes hr hl hm (fetchNext_reel hcv hreel)
  case convoy => exact fun v hcv => runAgent_decodes hr hl hm (fetchNext_convoy hcv)

end Sys2Proof.Machine
end

section
/-! PROOFS. Scalar queue instructions (R36, R37, R262, R271 .. R273): the pushes, pops, looks and closures that complete, those that wait
and those that trap. -/

namespace Sys2Proof.Machine

/-! ### Queues of the executing context -/

/-- An update of one queue changes nothing else. -/
theorem queueBecomes_modQueue (s : State) (q : Nat) (f : Queue → Queue) : QueueBecomes s (s.modQueue q f) q (f (s.queue q)) := by
  obtain ⟨hin, hctx⟩ := onlyQueues_modQueue s q f
  refine ⟨hin, hctx, fun r => ?_⟩
  rw [State.queue_modQueue]
  by_cases h : q = r
  · rw [if_pos h, if_pos h.symm]
  · rw [if_neg h, if_neg (Ne.symm h)]

theorem State.popAll_one (s : State) (q : Nat) : s.popAll [q] = s.modQueue q Queue.pop := rfl

/-- A scalar entry occupies one element group (R36, R65). -/
theorem Queue.fits_scalar (x : Queue) (f : Fmt) (v : Word) :
    x.fits [QEntry.scalar f v] = true ↔ x.unplaced = [] ∧ x.entries.length < 64 ∧ 1 ≤ x.free := by
  have hg : (QEntry.scalar f v).groups = 1 := rfl
  simp only [Queue.fits, Bool.and_eq_true, List.isEmpty_iff, decide_eq_true_eq, List.length_singleton, List.map_cons, List.map_nil,
    List.sum_singleton, hg, and_assoc, Nat.succ_le_iff]

/-! ### The checks of a push and of a pop -/

section
variable {s : State} {q : Nat}

theorem pushChecks_ok (hp : s.pushOk q = true) (hc : (s.queue q).closed = false) : firstOf (s.queueChecks [] [q]) = .ok () := by
  simp [State.queueChecks, firstOf, hp, hc]

/-- A cluster that is not the queue's producer is refused first (R262, R411). -/
theorem pushChecks_notProducer (hp : s.pushOk q = false) : firstOf (s.queueChecks [] [q]) = .error (queueTrap 0x01 q) := by
  simp [State.queueChecks, firstOf, hp]

/-- A closed queue takes no push (R273). -/
theorem pushChecks_closed (hp : s.pushOk q = true) (hc : (s.queue q).closed = true) :
    firstOf (s.queueChecks [] [q]) = .error (queueTrap 0x02 q) := by
  simp [State.queueChecks, firstOf, hp, hc]

theorem popChecks_ok (hp : s.popOk q = true) : firstOf (s.queueChecks [q] []) = .ok () := by
  simp [State.queueChecks, firstOf, hp]

theorem popChecks_notConsumer (hp : s.popOk q = false) : firstOf (s.queueChecks [q] []) = .error (queueTrap 0x01 q) := by
  simp [State.queueChecks, firstOf, hp]

theorem headOf_ready {e : QEntry} (he : (s.queue q).ready = some e) : s.headOf q = .ok e := by simp [State.headOf, he]

theorem headOf_none (he : (s.queue q).ready = none) : s.headOf q = .error (.wait (.queueEntry q)) := by simp [State.headOf, he]
end

/-! ### Pushing -/

/-- The three pushes and the formats of their entries (R271). -/
def scalarPushes (g : Guard) (d : RegF) (q : BitVec 4) : List (Instr × Fmt) :=
  [(.qpush g d q, Fmt.i64), (.qpushu g d q, Fmt.u64), (.qpushf g d q, Fmt.fp64)]

theorem exec_scalarPush {g : Guard} {d : RegF} {q : BitVec 4} {p : Instr × Fmt} (h : p ∈ scalarPushes g d q) (s : State) :
    exec p.1 s = settle g 4 (pushScalar p.2 d q) s := by
  simp only [scalarPushes, List.mem_cons, List.not_mem_nil, or_false] at h
  rcases h with rfl | rfl | rfl <;> rfl

section
variable {s : State} {q : BitVec 4} (f : Fmt) (d : RegF)

theorem pushScalar_room (h : s.PushRoom q.toNat) :
    pushScalar f d q s = .ok (s.modQueue q.toNat fun x => x.push [QEntry.scalar f (s.readS d)]) := by
  obtain ⟨hp, hc, hu, hl, hf⟩ := h
  unfold pushScalar State.pushWait
  rw [pushChecks_ok hp hc, if_pos ((Queue.fits_scalar ..).2 ⟨hu, hl, hf⟩)]
  rfl

/-- Without space the push waits (R36). -/
theorem pushScalar_full (hp : s.pushOk q.toNat = true) (hc : (s.queue q.toNat).closed = false)
    (h : 64 ≤ (s.queue q.toNat).entries.length ∨ (s.queue q.toNat).free = 0) :
    pushScalar f d q s = .error (.wait (.queueSpace q.toNat)) := by
  have hfits : ¬ (s.queue q.toNat).fits [QEntry.scalar f (s.readS d)] = true := by
    rw [Queue.fits_scalar]
    rintro ⟨-, hl, hf⟩
    omega
  unfold pushScalar State.pushWait
  rw [pushChecks_ok hp hc, if_neg hfits]
  rfl

theorem pushScalar_refused {x : Stop} (h : firstOf (s.queueChecks [] [q.toNat]) = .error x) : pushScalar f d q s = .error x := by
  unfold pushScalar
  rw [h]
  rfl
end

/-! ### Popping and looking -/

section
variable {s : State} {q : BitVec 4} (d : RegF)

theorem peekQueue_ready {e : QEntry} (hp : s.popOk q.toNat = true) (he : (s.queue q.toNat).ready = some e) :
    peekQueue d q s = .ok (s.writeS d e.desc) := by
  unfold peekQueue
  rw [popChecks_ok hp, headOf_ready he]
  rfl

/-- A scalar entry gives its value, and an entry of COUNT 0 gives 0 (R271). -/
theorem popScalar_ready {e : QEntry} (hp : s.popOk q.toNat = true) (he : (s.queue q.toNat).ready = some e)
    (hs : e.scal = true ∨ e.count = 0) :
    popScalar d q s = .ok ((s.modQueue q.toNat Queue.pop).writeS d (if e.scal then e.strip.code 0 else 0)) := by
  have hkind : (e.scal || e.count == 0) = true := by simpa using hs
  unfold popScalar
  rw [popChecks_ok hp, headOf_ready he]
  show (do firstOf [(e.scal || e.count == 0, _)]; Except.ok _) = _
  rw [hkind]
  rfl

/-- The two instructions that read the head of a queue stop alike. -/
theorem popInstr_stops {g : Guard} (hg : s.guardTrue g = true) {x : Stop} {i : Instr} (hi : i ∈ [Instr.qpops g d q, .qpeek g d q])
    (h : firstOf (s.queueChecks [q.toNat] []) = .error x
      ∨ firstOf (s.queueChecks [q.toNat] []) = .ok () ∧ s.headOf q.toNat = .error x) :
    exec i s = .next (s.halt x) := by
  have hpop : popScalar d q s = .error x := by
    unfold popScalar
    rcases h with h | ⟨h, hh⟩
    · rw [h]; rfl
    · rw [h, hh]; rfl
  have hpeek : peekQueue d q s = .error x := by
    unfold peekQueue
    rcases h with h | ⟨h, hh⟩
    · rw [h]; rfl
    · rw [h, hh]; rfl
  simp only [List.mem_cons, List.not_mem_nil, or_false] at hi
  rcases hi with rfl | rfl
  · exact settle_error hg hpop
  · exact settle_error hg hpeek

theorem statQueue_ok (h : (s.queue q.toNat).nb ≠ 0) : statQueue d q s = .ok (s.writeS d (s.queue q.toNat).status) := by
  unfold statQueue State.banksCheck
  rw [firstOf_ok (allowed_cons.2 ⟨bne_iff_ne.2 h, allowed_nil⟩)]
  rfl
end

theorem closeQueue_ok {s : State} {q : BitVec 4} (h : s.pushOk q.toNat = true) :
    closeQueue q s = .ok (s.modQueue q.toNat fun x => { x with closed := true }) := by
  unfold closeQueue
  rw [firstOf_ok (allowed_cons.2 ⟨h, allowed_nil⟩)]
  rfl

/-- Settles O20: each instruction by what its checks find of the queue. -/
theorem scalarQueues : Obligations.ScalarQueues := by
  refine ⟨fun s slot c g d q _ hg => ⟨?push, fun e hp he => ⟨?peek, ?pop⟩, ?stat, ?close⟩,
    fun s slot c g d q _ hg => ⟨fun i hi => ?pushStops, fun i hi => ⟨?popWaits, ?popRefused⟩⟩⟩
  case push =>
    intro p hp hr
    refine ⟨_, QEntry.scalar p.2 (s.readS d), (exec_scalarPush hp s).trans (settle_ok hg (pushScalar_room p.2 d hr)),
      queueBecomes_modQueue s _ _, rfl, rfl, rfl, rfl, ?_, rfl, rfl⟩
    simp [QEntry.scalar, Strip.code]
  case peek => exact ⟨_, settle_ok hg (peekQueue_ready d hp he), State.pass_spec ..⟩
  case pop =>
    exact fun hs => ⟨_, _, settle_ok hg (popScalar_ready d hp he hs), queueBecomes_modQueue s _ Queue.pop, State.pass_spec ..⟩
  case stat => exact fun h => ⟨_, settle_ok hg (statQueue_ok d h), State.pass_spec ..⟩
  case close => exact fun h => ⟨_, settle_ok hg (closeQueue_ok h), queueBecomes_modQueue s _ _⟩
  case pushStops =>
    obtain ⟨f, hf⟩ : ∃ f, (i, f) ∈ scalarPushes g d q := by
      simpa [scalarPushes, exists_or] using hi
    have hi := exec_scalarPush hf s
    refine ⟨fun hp hc h => ?_, fun hp => ?_, fun hp hc => ?_⟩
    · exact hi.trans (settle_error hg (pushScalar_full f d hp hc h))
    · exact hi.trans (settle_error hg (pushScalar_refused f d (pushChecks_notProducer hp)))
    · exact hi.trans (settle_error hg (pushScalar_refused f d (pushChecks_closed hp hc)))
  case popWaits => exact fun hp he => popInstr_stops d hg hi (.inr ⟨popChecks_ok hp, headOf_none he⟩)
  case popRefused => exact fun hp => popInstr_stops d hg hi (.inl (popChecks_notConsumer hp))

end Sys2Proof.Machine
end

section
/-! PROOFS. The four clusters of a context: updates of a context that change only clusters, and what completing depends on (R27, R30). -/

namespace Sys2Proof.Machine

/-! ### Clusters of a context -/

/-- The context with other clusters. -/
def Ctx.withClusters (x : Ctx) (g : Cl → Cluster) : Ctx := { x with c := g .C, a := g .A, v := g .V, m := g .M }

@[simp] theorem Ctx.cl_withClusters (x : Ctx) (g : Cl → Cluster) (j : Cl) : (x.withClusters g).cl j = g j := by cases j <;> rfl

theorem Ctx.withClusters_twice (x : Ctx) (f g : Cl → Cluster) : (x.withClusters f).withClusters g = x.withClusters g := rfl

theorem Ctx.withClusters_self (x : Ctx) : x.withClusters x.cl = x := rfl

/-- Contexts with clusters that agree one by one are the same. -/
theorem Ctx.withClusters_congr (x : Ctx) {f g : Cl → Cluster} (h : ∀ j, f j = g j) : x.withClusters f = x.withClusters g :=
  congrArg x.withClusters (funext h)

/-- An update of one cluster of a context. -/
theorem Ctx.modCl_eq (x : Ctx) (c : Cl) (f : Cluster → Cluster) :
    x.modCl c f = x.withClusters fun j => if j = c then f (x.cl c) else x.cl j := by cases c <;> rfl

theorem Ctx.modAll_eq (x : Ctx) (f : Cluster → Cluster) : x.modAll f = x.withClusters fun j => f (x.cl j) := rfl

/-- The same update of several clusters, one after another. -/
theorem Ctx.foldl_modCl (f : Cluster → Cluster) : ∀ (l : List Cl) (_ : l.Nodup) (x : Ctx),
    l.foldl (fun x c => x.modCl c f) x = x.withClusters fun j => if j ∈ l then f (x.cl j) else x.cl j := by
  intro l
  induction l with
  | nil => intro _ x; simp [Ctx.withClusters_self]
  | cons c l ih =>
    intro hl x
    obtain ⟨hc, hl⟩ := List.nodup_cons.1 hl
    rw [List.foldl_cons, ih hl, Ctx.modCl_eq, Ctx.withClusters_twice]
    refine Ctx.withClusters_congr x fun j => ?_
    rw [Ctx.cl_withClusters]
    by_cases hj : j = c
    · subst hj; simp [hc]
    · simp [hj]

theorem mem_maskClusters {m : BitVec 4} {j : Cl} : j ∈ maskClusters m ↔ names m j = true := by
  cases j <;> simp [maskClusters, names, Cl.all]

theorem nodup_maskClusters (m : BitVec 4) : (maskClusters m).Nodup := (by decide : Cl.all.Nodup).filter _

/-! ### Only clusters change -/

/-- An update of a context that changes only its clusters. -/
theorem clustersBecome_modCtx {s : State} {slot : Nat} {f : Ctx → Ctx} {g : Cl → Cluster}
    (h : f (s.ctx slot) = (s.ctx slot).withClusters g) : ClustersBecome s (s.modCtx slot f) slot g :=
  ⟨rfl, fun _ hk => State.ctx_modCtx_ne s f (Ne.symm hk), (State.ctx_modCtx_same s slot f).trans h⟩

theorem clustersBecome_self (s : State) (slot : Nat) : ClustersBecome s s slot (s.ctx slot).cl := ⟨rfl, fun _ _ => rfl, rfl⟩

/-- Clusters that agree one by one. -/
theorem ClustersBecome.congr {s t : State} {slot : Nat} {f g : Cl → Cluster} (h : ClustersBecome s t slot f) (e : ∀ j, f j = g j) :
    ClustersBecome s t slot g := by
  rwa [show g = f from (funext e).symm]

section
variable {s : State} {slot : Nat} {c : Cl} (hc : s.cur = .cluster slot c)
include hc

theorem State.slot_of_cluster : s.slot = slot := by simp [State.slot, agentSlot, hc]
theorem State.cl_of_cluster : s.cl = c := by simp [State.cl, hc]
theorem State.me_of_cluster : s.me = (s.ctx slot).cl c := by simp [State.me, State.clusterOf, hc]
theorem State.myCtx_of_cluster : s.myCtx = s.ctx slot := by rw [State.myCtx, State.slot_of_cluster hc]
theorem State.modMyCtx_of_cluster (f : Ctx → Ctx) : s.modMyCtx f = s.modCtx slot f := by
  rw [State.modMyCtx, State.slot_of_cluster hc]

/-- On a cluster the executing agent's update is one of its context. -/
theorem State.modMe_of_cluster (f : Cluster → Cluster) : s.modMe f = s.modCtx slot fun x => x.modCl c f := by
  simp [State.modMe, State.modCluster, hc]

/-- An update of the executing cluster changes no other. -/
theorem clustersBecome_modMe (f : Cluster → Cluster) :
    ClustersBecome s (s.modMe f) slot fun j => if j = c then f s.me else (s.ctx slot).cl j := by
  rw [State.modMe_of_cluster hc, State.me_of_cluster hc]
  exact clustersBecome_modCtx (Ctx.modCl_eq ..)
end

theorem State.modCtx_modCtx (s : State) (k : Nat) (f g : Ctx → Ctx) : (s.modCtx k f).modCtx k g = s.modCtx k fun x => g (f x) := by
  simp [State.modCtx, State.setCtx, State.ctx]

/-! ### Completing -/

/-- Completing an instruction forgets the wait, and what a waiting instruction had begun. -/
theorem Cluster.retire_congr {x y : Cluster} (h : x.proceed = y.proceed) (len : Nat) : x.retire len = y.retire len := by
  have hcv : x.convoy = y.convoy := show x.proceed.convoy = y.proceed.convoy by rw [h]
  have hst : x.start = y.start := show x.proceed.start = y.proceed.start by rw [h]
  unfold Cluster.retire
  rw [hcv, hst, h]

end Sys2Proof.Machine
end

section
/-! PROOFS. Hanks by their names: which one is found, what an update of it changes, and what leaves hanks, banks and free slots as they
are (R28, R109, R185). -/

namespace Sys2Proof.Machine

/-! ### Looking a hank up -/

/-- Whichever hanks are updated, the first one with a name stays the first, updated where the update concerns its name. -/
theorem State.findHank_modHank_any (s : State) (task : Nat) (wid : Word) {f : Hank → Hank}
    (hf : ∀ h, (f h).task = h.task ∧ (f h).wid = h.wid) (t : Nat) (w : Word) :
    (s.modHank task wid f).findHank t w
      = (s.findHank t w).map fun h => if h.task == task && h.wid == wid then f h else h := by
  have hkeep : ∀ h : Hank, ((if h.task == task && h.wid == wid then f h else h).task == t
      && (if h.task == task && h.wid == wid then f h else h).wid == w) = (h.task == t && h.wid == w) := fun h => by
    split
    · rw [(hf h).1, (hf h).2]
    · rfl
  unfold State.findHank State.modHank
  simp only [List.find?_map, Function.comp_def, hkeep]

theorem State.findHank_name {s : State} {task : Nat} {wid : Word} {h : Hank} (hh : s.findHank task wid = some h) :
    h.task = task ∧ h.wid = wid := by
  have := List.find?_some hh
  simpa using this

/-- The first hank with a name is updated where the hanks of that name are, and keeps its name. -/
theorem State.findHank_modHank (s : State) (task : Nat) (wid : Word) {f : Hank → Hank}
    (hf : ∀ h, (f h).task = h.task ∧ (f h).wid = h.wid) :
    (s.modHank task wid f).findHank task wid = (s.findHank task wid).map f := by
  rw [State.findHank_modHank_any s task wid hf]
  cases hh : s.findHank task wid with
  | none => rfl
  | some h =>
    obtain ⟨rfl, rfl⟩ := State.findHank_name hh
    simp

/-- The bound hank's name, under which it is found. -/
theorem State.hankAt_some {s : State} {k : Nat} {h : Hank} (hh : s.hankAt k = some h) :
    (s.ctx k).hank = some (h.task, h.wid) ∧ s.findHank h.task h.wid = some h := by
  unfold State.hankAt at hh
  split at hh
  · cases hh
  · rename_i t w hc
    obtain ⟨rfl, rfl⟩ := State.findHank_name hh
    exact ⟨hc, hh⟩

theorem State.hankAt_of {s : State} {k : Nat} {t : Nat} {w : Word} (hc : (s.ctx k).hank = some (t, w)) :
    s.hankAt k = s.findHank t w := by simp [State.hankAt, hc]

end Sys2Proof.Machine
end

section
/-! PROOFS. What leaves every hank, bank and free slot as they are: writes of memory, records, messages, moves that end, tasks that
complete and saves (R29, R109, R173, R188, R476). What only removes hanks or takes their frames: the end of a context (R403). -/

namespace Sys2Proof.Machine

/-- Hanks, banks and the time stay, and a free slot stays free. -/
structure KeepsHanks (s t : State) : Prop where
  hanks : t.hanks = s.hanks
  banks : t.banks = s.banks
  timeNs : t.timeNs = s.timeNs
  free : ∀ k, s.ctx k = .free → t.ctx k = .free

theorem KeepsHanks.refl (s : State) : KeepsHanks s s := ⟨rfl, rfl, rfl, fun _ h => h⟩

theorem KeepsHanks.trans {s t u : State} (h : KeepsHanks s t) (k : KeepsHanks t u) : KeepsHanks s u :=
  ⟨k.hanks.trans h.hanks, k.banks.trans h.banks, k.timeNs.trans h.timeNs, fun n hn => k.free n (h.free n hn)⟩

theorem KeepsHanks.foldl {α : Type} {f : State → α → State} (hf : ∀ t a, KeepsHanks t (f t a)) (l : List α) (s : State) :
    KeepsHanks s (l.foldl f s) := by
  induction l generalizing s with
  | nil => exact .refl s
  | cons a l ih => exact (hf s a).trans (ih _)

theorem KeepsHanks.ite {s t u : State} {p : Prop} [Decidable p] (ht : KeepsHanks s t) (hu : KeepsHanks s u) :
    KeepsHanks s (if p then t else u) := by
  split
  · exact ht
  · exact hu

theorem SameAgents.keepsHanks {s t : State} (h : SameAgents s t) : KeepsHanks s t := by
  refine ⟨?_, ?_, ?_, fun k hk => (h.ctx k).trans hk⟩ <;> simp [SameAgents] at h <;> simp [h]

theorem KeepsHanks.findHank {s t : State} (h : KeepsHanks s t) (task : Nat) (wid : Word) :
    t.findHank task wid = s.findHank task wid := by rw [State.findHank, h.hanks, State.findHank]

theorem KeepsHanks.bank {s t : State} (h : KeepsHanks s t) (sp b : Nat) : t.bank sp b = s.bank sp b := by
  rw [State.bank, h.banks, State.bank]

/-! ### Memory and waiters -/

/-- A cluster that does not run is not woken. -/
theorem Cluster.wakeIf_initial (f : Option WaitFor → Bool) : Cluster.initial.wakeIf f = .initial := by
  unfold Cluster.wakeIf
  split <;> rfl

theorem Ctx.wakeAll_free (f : Option WaitFor → Bool) : Ctx.free.modAll (Cluster.wakeIf f) = .free := by
  rw [Ctx.modAll_eq]
  refine (Ctx.withClusters_congr _ fun j => ?_).trans (Ctx.withClusters_self _)
  cases j <;> exact Cluster.wakeIf_initial f

/-- A map of the values that keeps the default. -/
theorem SMap.get_map {α : Type} {d : α} {f : α → α} (hd : f d = d) (m : SMap α) (i : Nat) :
    SMap.get d (m.map fun p => (p.1, f p.2)) i = f (SMap.get d m i) := by
  induction m with
  | nil => exact hd.symm
  | cons p m ih =>
    obtain ⟨k, v⟩ := p
    simp only [List.map_cons, SMap.get]
    split
    · rfl
    · exact ih

theorem State.ctx_wakeAll (s : State) (f : Option WaitFor → Bool) (k : Nat) :
    (s.wakeAll f).ctx k = (s.ctx k).modAll (Cluster.wakeIf f) := 
  SMap.get_map (d := Ctx.free) (f := fun x : Ctx => x.modAll (Cluster.wakeIf f)) (Ctx.wakeAll_free f) s.ctxs k

theorem keepsHanks_wakeAll (s : State) (f : Option WaitFor → Bool) : KeepsHanks s (s.wakeAll f) :=
  ⟨rfl, rfl, rfl, fun k hk => by rw [State.ctx_wakeAll, hk, Ctx.wakeAll_free]⟩

theorem keepsHanks_wakeLine (s : State) (pa : Nat) : KeepsHanks s (s.wakeLine pa) := keepsHanks_wakeAll s _

theorem keepsHanks_physWriteLine (s : State) (src pa : Nat) (l : List Byte) : KeepsHanks s (s.physWriteLine src pa l) := by
  unfold State.physWriteLine
  split
  · exact ⟨rfl, rfl, rfl, fun _ h => h⟩
  · exact .refl s
  · exact .refl s
  · simp only
    split
    · exact ((sameAgents_scrub ..).trans (sameAgents_putLine ..)).keepsHanks
    · exact ((sameAgents_scrub ..).trans (sameAgents_report ..)).keepsHanks

theorem keepsHanks_physWriteOne (s : State) (src pa : Nat) (l : List Byte) : KeepsHanks s (s.physWriteOne src pa l) := by
  refine .ite ⟨rfl, rfl, rfl, fun _ h => h⟩ ((keepsHanks_physWriteLine s src pa l).trans ?_)
  refine KeepsHanks.trans ?_ (keepsHanks_wakeLine _ pa)
  exact ⟨rfl, rfl, rfl, fun _ h => h⟩

theorem keepsHanks_physWriteAux (src : Nat) : ∀ (fuel : Nat) (s : State) (pa : Nat) (l : List Byte),
    KeepsHanks s (State.physWriteAux src fuel s pa l)
  | 0, s, _, _ => .refl s
  | _ + 1, s, _, [] => .refl s
  | fuel + 1, s, pa, _ :: _ => (keepsHanks_physWriteOne s src pa _).trans (keepsHanks_physWriteAux src fuel _ _ _)

theorem keepsHanks_physWrite (s : State) (src pa : Nat) (l : List Byte) : KeepsHanks s (s.physWrite src pa l) :=
  keepsHanks_physWriteAux ..

/-! ### Stores that are performed -/

theorem keepsHanks_performStore (s : State) (slot : Nat) (a : LateStore) : KeepsHanks s (s.performStore slot a) :=
  (sameAgents_writeLine ..).keepsHanks.trans (keepsHanks_wakeLine ..)

/-- An update that leaves a free context as it is. -/
theorem keepsHanks_modCtx (s : State) (k : Nat) {f : Ctx → Ctx} (hf : f .free = .free) : KeepsHanks s (s.modCtx k f) := by
  refine ⟨rfl, rfl, rfl, fun n hn => ?_⟩
  by_cases hk : k = n
  · rw [hk, State.ctx_modCtx_same, hn, hf]
  · rw [State.ctx_modCtx_ne s f hk, hn]

theorem keepsHanks_performStores (s : State) (slot : Nat) (c : Cl) : KeepsHanks s (s.performStores slot c) := by
  refine .ite (.refl s) ((KeepsHanks.foldl (fun t a => keepsHanks_performStore t slot a) _ s).trans (keepsHanks_modCtx _ slot ?_))
  cases c <;> rfl

theorem keepsHanks_performAll (s : State) (slot : Nat) : KeepsHanks s (s.performAll slot) :=
  (((keepsHanks_performStores ..).trans (keepsHanks_performStores ..)).trans (keepsHanks_performStores ..)).trans
    (keepsHanks_performStores ..)

/-! ### Tasks that complete -/

theorem keepsHanks_tasks (s : State) (l : List Task) : KeepsHanks s { s with tasks := l } := ⟨rfl, rfl, rfl, fun _ h => h⟩

theorem keepsHanks_modCreel (s : State) (f : Creel → Creel) : KeepsHanks s (s.modCreel f) := ⟨rfl, rfl, rfl, fun _ h => h⟩

theorem keepsHanks_modPort (s : State) (n : Nat) (f : Port → Port) : KeepsHanks s (s.modPort n f) := ⟨rfl, rfl, rfl, fun _ h => h⟩

theorem keepsHanks_message (s : State) (v : Nat) : KeepsHanks s (s.message v) :=
  (keepsHanks_modPort s 0 _).trans (keepsHanks_modPort _ 1 _)

theorem keepsHanks_advanceHead (q : Nat) : ∀ (n : Nat) (s : State), KeepsHanks s (s.advanceHead q n)
  | 0, s => .refl s
  | n + 1, s => by
    unfold State.advanceHead
    split
    · refine .ite (KeepsHanks.trans ?_ (keepsHanks_advanceHead q n _)) (.refl s)
      exact ((keepsHanks_modCreel s _).trans (keepsHanks_tasks _ _)).trans (keepsHanks_tasks _ _)
    · exact .refl s

theorem keepsHanks_tidyQueue (s : State) (q : Nat) : KeepsHanks s (s.tidyQueue q) :=
  (keepsHanks_advanceHead q _ s).trans (keepsHanks_tasks _ _)

theorem keepsHanks_checkTask (s : State) (pa : Nat) : KeepsHanks s (s.checkTask pa) := by
  unfold State.checkTask
  split
  · exact .refl s
  · refine .ite (KeepsHanks.trans ?_ (keepsHanks_tidyQueue _ _)) (.refl s)
    exact ((keepsHanks_physWrite s 0x630 (pa + 3) _).trans (keepsHanks_message _ _)).trans (keepsHanks_tasks _ _)

/-! ### Pages and charges of a hank that leaves -/

theorem keepsHanks_abortMoves (s : State) (f : PageMove → Bool) : KeepsHanks s (s.abortMoves f) := by
  refine KeepsHanks.trans (t := { s with moves := _ }) ?_ (KeepsHanks.foldl (fun t m => ?_) _ _)
  · exact ⟨rfl, rfl, rfl, fun _ h => h⟩
  · exact KeepsHanks.trans (.ite (keepsHanks_physWrite ..) (.refl t)) ⟨rfl, rfl, rfl, fun _ h => h⟩

theorem keepsHanks_releaseCharge (s : State) (task : Nat) (wid : Word) : KeepsHanks s (s.releaseCharge task wid) := by
  refine KeepsHanks.foldl (fun t b => ?_) _ s
  exact ⟨rfl, rfl, rfl, fun _ h => h⟩

/-- A hank that leaves takes nothing but itself along (R185). -/
theorem keepsHanks_dropHank (s : State) (h : Hank) :
    ∃ u, KeepsHanks s u ∧ (s.dropHank h).hanks = u.hanks.filter (fun x => !(x.task == h.task && x.wid == h.wid))
      ∧ (s.dropHank h).banks = u.banks ∧ (s.dropHank h).ctxs = u.ctxs :=
  ⟨_, (keepsHanks_releaseCharge ..).trans (keepsHanks_abortMoves ..), rfl, rfl, rfl⟩

/-! ### Saves -/

theorem keepsHanks_fillBlocks (s : State) (base : Nat) (x : FrameSection) : KeepsHanks s (s.fillBlocks base x) :=
  .ite (.refl s) ⟨rfl, rfl, rfl, fun _ h => h⟩

theorem keepsHanks_saveFrame (s : State) (slot base : Nat) (prov : Bool) : KeepsHanks s (s.saveFrame slot base prov) := by
  refine (KeepsHanks.foldl (fun t x => keepsHanks_fillBlocks t base x) _ s).trans (KeepsHanks.foldl (fun t x => ?_) _ _)
  exact ⟨rfl, rfl, rfl, fun _ h => h⟩

/-! ### Hanks that stay, or lose their frames -/

/-- Every hank was there before, but perhaps for its frame. -/
def HanksFrom (s t : State) : Prop := ∀ x ∈ t.hanks, ∃ y ∈ s.hanks, x = { y with frame := x.frame }

theorem HanksFrom.of_sublist {s t : State} (h : ∀ x ∈ t.hanks, x ∈ s.hanks) : HanksFrom s t := fun x hx => ⟨x, h x hx, rfl⟩

theorem HanksFrom.refl (s : State) : HanksFrom s s := .of_sublist fun _ h => h

theorem HanksFrom.trans {s t u : State} (h : HanksFrom s t) (k : HanksFrom t u) : HanksFrom s u := fun x hx => by
  obtain ⟨y, hy, hxy⟩ := k x hx
  obtain ⟨z, hz, hyz⟩ := h y hy
  exact ⟨z, hz, by rw [hxy, hyz]⟩

theorem KeepsHanks.hanksFrom {s t : State} (h : KeepsHanks s t) : HanksFrom s t := .of_sublist fun x hx => by rwa [← h.hanks]

theorem HanksFrom.foldl {α : Type} {f : State → α → State} (hf : ∀ t a, HanksFrom t (f t a)) (l : List α) (s : State) :
    HanksFrom s (l.foldl f s) := by
  induction l generalizing s with
  | nil => exact .refl s
  | cons a l ih => exact (hf s a).trans (ih _)

theorem HanksFrom.ite {s t u : State} {p : Prop} [Decidable p] (ht : HanksFrom s t) (hu : HanksFrom s u) :
    HanksFrom s (if p then t else u) := by
  split
  · exact ht
  · exact hu

theorem hanksFrom_dropHank (s : State) (h : Hank) : HanksFrom s (s.dropHank h) := by
  obtain ⟨u, hu, hhanks, -, -⟩ := keepsHanks_dropHank s h
  refine .of_sublist fun x hx => ?_
  rw [hhanks, hu.hanks] at hx
  exact (List.mem_filter.1 hx).1

theorem hanksFrom_freeSlot (s : State) (k : Nat) : HanksFrom s (s.freeSlot k) := .of_sublist fun _ h => h

theorem hanksFrom_dropHeld (s : State) (task : Nat) (wid : Word) : HanksFrom s (s.dropHeld task wid) := by
  refine HanksFrom.foldl (fun t b => ?_) _ s
  exact .of_sublist fun _ h => h

theorem hanksFrom_cancel (s : State) (h : Hank) : HanksFrom s (s.cancel h) := by
  have hfree : HanksFrom s (match h.slot with | some k => s.freeSlot k | none => s) := by
    split
    · exact hanksFrom_freeSlot s _
    · exact .refl s
  exact (hfree.trans (hanksFrom_dropHank _ h)).trans (.of_sublist fun _ h => h)

theorem hanksFrom_squash (s : State) (h : Hank) : HanksFrom s (s.squash h) := by
  have hfree (t : State) : HanksFrom t (match h.slot with | some k => (t.withdraw k).freeSlot k | none => t) := by
    split
    · exact .of_sublist fun _ h => h
    · exact .refl t
  exact (((hanksFrom_dropHeld s _ _).trans (hfree _)).trans (hanksFrom_dropHank _ h)).trans (.of_sublist fun _ h => h)

theorem hanksFrom_failTask (s : State) (pa : Nat) : HanksFrom s (s.failTask pa) := by
  unfold State.failTask
  split
  · exact .refl s
  · rename_i t _
    refine HanksFrom.trans (.ite (.refl s) ?_) (keepsHanks_checkTask _ pa).hanksFrom
    refine HanksFrom.trans ?_ (keepsHanks_tidyQueue _ t.queue).hanksFrom
    refine HanksFrom.trans ?_ (HanksFrom.of_sublist fun _ h => h)
    have hcancel (a : State) (l : List Hank) : HanksFrom a (l.foldl State.cancel a) := HanksFrom.foldl hanksFrom_cancel l a
    have hcount (n : Nat) : HanksFrom s (s.countCancelled n) := .of_sublist fun _ h => h
    refine .ite ((hcount _).trans (hcancel _ _)) (((hcount _).trans (hcancel _ _)).trans (HanksFrom.foldl hanksFrom_squash _ _))

theorem hanksFrom_finishDying (s : State) (slot : Nat) : HanksFrom s (s.finishDying slot) := by
  unfold State.finishDying
  split
  · rename_i h _ _
    refine .ite ?_ (.refl s)
    refine HanksFrom.trans (HanksFrom.trans ((hanksFrom_freeSlot s slot).trans (hanksFrom_dropHank _ h)) ?_) (hanksFrom_failTask _ _)
    exact HanksFrom.foldl (fun t r => (sameAgents_report t r).keepsHanks.hanksFrom) _ _
  · exact .refl s

theorem hanksFrom_framesUsed (s : State) (l : List Nat) : HanksFrom s { s with framesUsed := l } := .of_sublist fun _ h => h

/-- Hanks of a name lose their frames. -/
theorem hanksFrom_modHank_frame (s : State) (task : Nat) (wid : Word) :
    HanksFrom s (s.modHank task wid fun h => { h with frame := none }) := fun x hx => by
  obtain ⟨y, hy, rfl⟩ := List.mem_map.1 hx
  refine ⟨y, hy, ?_⟩
  split <;> rfl

/-- A termination removes hanks and takes frames, and changes nothing else of any hank (R403). -/
theorem hanksFrom_terminate (s : State) (slot : Nat) (r : Rec) : HanksFrom s (s.terminate slot r) := by
  unfold State.terminate
  split
  · exact .refl s
  · rename_i task wid _
    refine .ite (.refl s) (.ite (.ite (.refl s) (.of_sublist fun _ h => h)) ?_)
    refine HanksFrom.trans ?_ (hanksFrom_finishDying _ slot)
    have hdying (f : Ctx → Ctx) : HanksFrom s ((((s.performAll slot).withdraw slot).dropHeld task wid).modCtx slot f) :=
      ((keepsHanks_performAll s slot).hanksFrom.trans ((HanksFrom.of_sublist fun _ h => h).trans
        (hanksFrom_dropHeld ((s.performAll slot).withdraw slot) task wid))).trans (.of_sublist fun _ h => h)
    split
    · refine HanksFrom.trans ?_ (hanksFrom_modHank_frame _ task wid)
      exact (hdying _).trans (hanksFrom_framesUsed _ _)
    · exact hdying _

end Sys2Proof.Machine
end

section
/-! PROOFS. Cluster control (R29 .. R31, R239, R345): END, YIELD, CFORK, FENCE and hints. -/

namespace Sys2Proof.Machine

/-! ### END -/

/-- No rendezvous waits for an actor that no waiter names (R32). -/
theorem Ctx.rdvClash_idle {x : Ctx} {c : Cl} (h : ∀ j, j ≠ c → ∀ y, (x.cl j).atRdv = some y → names y.1 c = false) :
    x.rdvClash c true = false := by
  refine List.any_eq_false.2 fun j _ => ?_
  by_cases hj : j = c
  · simp [hj]
  · cases hy : (x.cl j).atRdv with
    | none => simp
    | some y => simp [h j hj y hy]

/-- The end of the last cluster changes the state of the hank alone. -/
theorem State.endingIfIdle_frame (s : State) (k : Nat) : ∃ hs, s.endingIfIdle k = { s with hanks := hs } := by
  unfold State.endingIfIdle
  repeat' split
  all_goals exact ⟨_, rfl⟩

/-- A context with a cluster that is not idle goes on. -/
theorem State.endingIfIdle_busy {s : State} {k : Nat} {j : Cl} (h : ((s.ctx k).cl j).run ≠ .idle) : s.endingIfIdle k = s := by
  have hb : (s.ctx k).allIdle = false := by
    refine List.all_eq_false.2 ⟨j, by cases j <;> simp [Cl.all], ?_⟩
    simpa using h
  simp [State.endingIfIdle, hb]

/-- Once all its clusters are idle a running hank is ending (R29). -/
theorem State.endingIfIdle_last {s : State} {k : Nat} {h : Hank} (hi : (s.ctx k).allIdle = true) (hh : s.hankAt k = some h)
    (hr : h.state = .running) : ((s.endingIfIdle k).hankAt k).map Hank.state = some .ending := by
  obtain ⟨hname, hfind⟩ := State.hankAt_some hh
  unfold State.endingIfIdle
  simp only [hi, if_true, hh, hr]
  rw [State.hankAt_of (show ((s.modHank _ _ _).ctx k).hank = _ from hname)]
  refine (congrArg (Option.map Hank.state) (State.findHank_modHank s h.task h.wid ?_)).trans ?_
  · exact fun _ => ⟨rfl, rfl⟩
  · rw [hfind]; rfl

/-- END without a rendezvous that waits for the cluster. -/
theorem exec_end {s : State} {slot : Nat} {c : Cl} {g : Guard} (hc : s.cur = .cluster slot c) (hg : s.guardTrue g = true)
    (h : ∀ j, j ≠ c → ∀ y, ((s.ctx slot).cl j).atRdv = some y → names y.1 c = false) :
    exec (.end_ g) s = .next ((s.modMe Cluster.idled).endingIfIdle slot) := by
  obtain ⟨-, -, hctx⟩ := clustersBecome_modMe hc Cluster.idled
  have hclash : ((s.modMe Cluster.idled).ctx slot).rdvClash c true = false := by
    refine Ctx.rdvClash_idle fun j hj y hy => h j hj y ?_
    rw [hctx] at hy
    cases j <;> simpa [Ctx.cl, hj] using hy
  show execEnd g s = _
  unfold execEnd
  rw [onGuard_true hg]
  simp only [State.slot_of_cluster hc, State.cl_of_cluster hc, hclash, Bool.false_eq_true, if_false]

/-! ### CFORK -/

/-- A cluster that has started others: nothing but what it has begun has changed. -/
theorem Cluster.retire_begun (x : Cluster) (st : BitVec 4) (fe : Bool) (len : Nat) :
    Cluster.retire { x with started := st, firstEffect := fe } len = x.retire len := Cluster.retire_congr rfl len

/-- The clusters of a context after the starts of `ts`, the forking cluster `c` being `y`. -/
def Ctx.forked (x : Ctx) (c : Cl) (y : Cluster) (ts : List (Cl × Word)) (j : Cl) : Cluster :=
  match ts.find? fun p => p.1 == j with
  | some p => (x.cl j).startAt p.2
  | none => if j = c then y else x.cl j

theorem Ctx.forked_nil (x : Ctx) (c : Cl) (y : Cluster) (j : Cl) : x.forked c y [] j = if j = c then y else x.cl j := rfl

theorem Ctx.forked_cons (x : Ctx) (c : Cl) (y : Cluster) (p : Cl × Word) (ts : List (Cl × Word)) (j : Cl) :
    x.forked c y (p :: ts) j = if p.1 = j then (x.cl j).startAt p.2 else x.forked c y ts j := by
  unfold Ctx.forked
  rw [List.find?_cons]
  by_cases h : p.1 = j
  · rw [if_pos h, beq_iff_eq.2 h]
  · rw [if_neg h, beq_eq_false_iff_ne.2 h]

theorem Ctx.forked_congr {x z : Ctx} {j : Cl} (h : x.cl j = z.cl j) (c : Cl) (y : Cluster) (ts : List (Cl × Word)) :
    x.forked c y ts j = z.forked c y ts j := by
  unfold Ctx.forked
  rw [h]

theorem Ctx.forked_of_not_mem (x : Ctx) {c : Cl} {ts : List (Cl × Word)} {j : Cl} (h : ∀ p ∈ ts, p.1 ≠ j) (y : Cluster) :
    x.forked c y ts j = if j = c then y else x.cl j := by
  unfold Ctx.forked
  rw [List.find?_eq_none.2 fun p hp => by simpa using h p hp]

/-- A start of an idle cluster, of which the forking one takes note (R31). -/
theorem forkOne_idle {c : Cl} {x : Ctx} {p : Cl × Word} (hs : (x.cl c).started.getLsbD p.1.maskBit = false) (hp : p.1 ≠ c)
    (hi : (x.cl p.1).run = .idle) :
    forkOne c x p = x.withClusters (x.forked c
      { x.cl c with started := (x.cl c).started ||| (1#4 <<< p.1.maskBit), firstEffect := true } [p]) := by
  unfold forkOne
  simp only [hs, hi, bne_self_eq_false, Bool.or_self, Bool.false_eq_true, if_false]
  rw [Ctx.modCl_eq, Ctx.modCl_eq, Ctx.withClusters_twice]
  refine Ctx.withClusters_congr x fun j => ?_
  rw [Ctx.forked_cons, Ctx.forked_nil, Ctx.cl_withClusters, Ctx.cl_withClusters, if_neg (Ne.symm hp)]
  by_cases hj : p.1 = j
  · subst hj; rw [if_neg hp, if_pos rfl, if_pos rfl]
  · rw [if_neg hj, if_neg (Ne.symm hj)]

/-- A bit of a mask of clusters after one has been added. -/
theorem started_or_bit (st : BitVec 4) (i j : Cl) :
    (st ||| (1#4 <<< i.maskBit)).getLsbD j.maskBit = (st.getLsbD j.maskBit || decide (i = j)) := by
  rw [BitVec.getLsbD_or]
  congr 1
  cases i <;> cases j <;> decide

/-- The starts of idle clusters that are named once each: every one starts, and the forking cluster has noted them all. -/
theorem foldl_forkOne {c : Cl} : ∀ (ts : List (Cl × Word)) (x : Ctx), (ts.map Prod.fst).Nodup →
    (∀ p ∈ ts, p.1 ≠ c ∧ (x.cl p.1).run = .idle ∧ (x.cl c).started.getLsbD p.1.maskBit = false) →
    ∃ st fe, ts.foldl (forkOne c) x = x.withClusters (x.forked c { x.cl c with started := st, firstEffect := fe } ts)
      ∧ ∀ j : Cl, (j ∈ ts.map Prod.fst ∨ (x.cl c).started.getLsbD j.maskBit = true) → st.getLsbD j.maskBit = true := by
  intro ts
  induction ts with
  | nil =>
    refine fun x _ _ => ⟨(x.cl c).started, (x.cl c).firstEffect, ?_, fun j hj => by simpa using hj⟩
    refine x.withClusters_self.symm.trans (Ctx.withClusters_congr x fun j => ?_)
    by_cases hj : j = c
    · subst hj; rw [Ctx.forked_nil, if_pos rfl]
    · rw [Ctx.forked_nil, if_neg hj]
  | cons p ts ih =>
    intro x hnd h
    obtain ⟨hp, hnd⟩ := List.nodup_cons.1 hnd
    obtain ⟨hpc, hpi, hps⟩ := h p (by simp)
    have hne : ∀ q ∈ ts, q.1 ≠ p.1 := fun q hq e => hp (e ▸ List.mem_map_of_mem hq)
    have hone : ∀ j, (forkOne c x p).cl j = if p.1 = j then (x.cl j).startAt p.2 else if j = c then
        { x.cl c with started := (x.cl c).started ||| (1#4 <<< p.1.maskBit), firstEffect := true } else x.cl j := fun j => by
      rw [forkOne_idle hps hpc hpi, Ctx.cl_withClusters, Ctx.forked_cons, Ctx.forked_nil]
    have hme := hone c
    rw [if_neg hpc, if_pos rfl] at hme
    obtain ⟨st, fe, hfold, hst⟩ := ih (forkOne c x p) hnd fun q hq => by
      obtain ⟨hqc, hqi, hqs⟩ := h q (by simp [hq])
      rw [hone q.1, if_neg (Ne.symm (hne q hq)), if_neg hqc, hme]
      exact ⟨hqc, hqi, by rw [started_or_bit, hqs, decide_eq_false (Ne.symm (hne q hq))]; rfl⟩
    refine ⟨st, fe, ?_, fun j hj => hst j ?_⟩
    · rw [List.foldl_cons, hfold, hme, show forkOne c x p = _ from forkOne_idle hps hpc hpi, Ctx.withClusters_twice]
      refine Ctx.withClusters_congr x fun j => ?_
      rw [Ctx.forked_cons]
      by_cases hj : p.1 = j
      · subst hj
        rw [if_pos rfl, Ctx.forked_of_not_mem _ hne, if_neg hpc, Ctx.cl_withClusters, Ctx.forked_cons, if_pos rfl]
      · rw [if_neg hj]
        by_cases hjc : j = c
        · subst hjc
          have hn : ∀ q ∈ ts, q.1 ≠ j := fun q hq => (h q (by simp [hq])).1
          rw [Ctx.forked_of_not_mem _ hn, Ctx.forked_of_not_mem _ hn, if_pos rfl, if_pos rfl]
        · refine Ctx.forked_congr ?_ c _ ts
          rw [Ctx.cl_withClusters, Ctx.forked_cons, if_neg hj, Ctx.forked_nil, if_neg hjc]
    · rw [hme]
      simp only [started_or_bit, Bool.or_eq_true, decide_eq_true_eq]
      rcases hj with hj | hj
      · rcases List.mem_cons.1 hj with rfl | hj
        · exact .inr (.inr rfl)
        · exact .inl hj
      · exact .inr (.inl hj)

theorem zip_map_fst_sublist {α β : Type} : ∀ (l : List α) (m : List β), ((l.zip m).map Prod.fst).Sublist l
  | [], _ => by simp
  | _ :: _, [] => by simp
  | a :: l, _ :: m => by simpa using zip_map_fst_sublist l m

/-- CFORK whose targets are idle and other clusters, with program counters that can be fetched at (R31). -/
theorem forkClusters_idle {s : State} {slot : Nat} {c : Cl} {g : Guard} {mask : BitVec 4} {rs : List RegF} (len : Nat)
    (hc : s.cur = .cluster slot c) (hg : s.guardTrue g = true) (hs : s.me.started = 0)
    (h : ∀ p ∈ s.forkTargets mask rs, p.1 ≠ c ∧ ((s.ctx slot).cl p.1).run = .idle ∧ p.2.toNat % 4 = 0) :
    ∃ t, forkClusters len g mask rs s = .next t
      ∧ ClustersBecome s t slot ((s.ctx slot).forked c (s.me.retire len) (s.forkTargets mask rs)) := by
  have hnd : ((s.forkTargets mask rs).map Prod.fst).Nodup := (nodup_maskClusters mask).sublist (zip_map_fst_sublist _ _)
  have hunfold : forkClusters len g mask rs s = _ := onGuard_true hg
  generalize s.forkTargets mask rs = ts at *
  have hme := State.me_of_cluster hc
  have hother : ∀ p ∈ ts, p.1 ≠ c := fun p hp => (h p hp).1
  obtain ⟨st, fe, hfold, hst⟩ := foldl_forkOne (c := c) ts (s.ctx slot) hnd fun p hp => by
    obtain ⟨hpc, hpi, -⟩ := h p hp
    refine ⟨hpc, hpi, ?_⟩
    rw [← hme, hs]; simp
  have haligned : Allowed (ts.zipIdx.map fun p => (p.1.2.toNat % 4 == 0, illegalOperand 0x0E p.1.2.toNat (p.2 + 1))) := by
    intro q hq
    obtain ⟨p, hp, rfl⟩ := List.mem_map.1 hq
    simpa using (h p.1 (List.fst_mem_of_mem_zipIdx hp)).2.2
  have hstart : (s.modMyCtx fun x => ts.foldl (forkOne s.cl) x) = s.modCtx slot fun x => ts.foldl (forkOne c) x := by
    rw [State.modMyCtx_of_cluster hc, State.cl_of_cluster hc]
  have hcur : (s.modCtx slot fun x => ts.foldl (forkOne c) x).cur = .cluster slot c := hc
  have hmine : (s.modCtx slot fun x => ts.foldl (forkOne c) x).me = { s.me with started := st, firstEffect := fe } := by
    rw [State.me_of_cluster hcur, State.ctx_modCtx_same, hfold, Ctx.cl_withClusters, Ctx.forked_of_not_mem _ hother, if_pos rfl, hme]
  have hall : (ts.all fun p => (s.modCtx slot fun x => ts.foldl (forkOne c) x).me.started.getLsbD p.1.maskBit) = true := by
    refine List.all_eq_true.2 fun p hp => ?_
    rw [hmine]
    exact hst p.1 (.inl (List.mem_map_of_mem hp))
  refine ⟨(s.modCtx slot fun x => ts.foldl (forkOne c) x).retire len, ?_, ?_⟩
  · rw [hunfold]
    simp only [firstOf_ok haligned, hstart, hall, if_true]
  · rw [State.retire, State.modMe_of_cluster hcur, State.modCtx_modCtx]
    refine clustersBecome_modCtx ?_
    rw [hfold, Ctx.modCl_eq, Ctx.withClusters_twice]
    refine Ctx.withClusters_congr _ fun j => ?_
    rw [Ctx.cl_withClusters, Ctx.cl_withClusters]
    by_cases hj : j = c
    · subst hj
      rw [if_pos rfl, Ctx.forked_of_not_mem _ hother, Ctx.forked_of_not_mem _ hother, if_pos rfl, if_pos rfl, ← hme,
        Cluster.retire_begun]
    · rw [if_neg hj]
      unfold Ctx.forked
      simp only [if_neg hj]

theorem exec_yield {s : State} {g : Guard} (hg : s.guardTrue g = true) :
    exec (.yield g) s = .next ((s.retire 4).modMe fun y => { y with yielded := true }) := by
  show execYield g s = _
  unfold execYield
  rw [onGuard_true hg]

theorem exec_fence {s : State} {g : Guard} (hg : s.guardTrue g = true) (sc : BitVec 3) :
    exec (.fence g sc) s = .next (s.retire 4) := by
  show execFence g sc s = _
  unfold execFence
  rw [onGuard_true hg]

/-- Settles O37: END by the state of the other clusters, CFORK by its starts, and the others by their meaning. -/
theorem clusterControl : Obligations.ClusterControl := by
  refine ⟨fun s slot c g hc hg => ⟨fun h => ?end_, exec_yield hg, fun _ => rfl, fun _ _ => rfl,
    fun mask a b d => ⟨fun hs h => forkClusters_idle 4 hc hg hs h, fun hs h => forkClusters_idle 8 hc hg hs h⟩⟩,
    fun s g sc hg => exec_fence hg sc⟩
  have hcl : ∀ j, ((s.modMe Cluster.idled).ctx slot).cl j = if j = c then s.me.idled else (s.ctx slot).cl j := fun j => by
    rw [State.modMe_of_cluster hc, State.ctx_modCtx_same, Ctx.modCl_eq, Ctx.cl_withClusters, State.me_of_cluster hc]
  refine ⟨_, exec_end hc hg h, ?frame, ?busy, ?last⟩
  case frame =>
    obtain ⟨hs, heq⟩ := (s.modMe Cluster.idled).endingIfIdle_frame slot
    obtain ⟨-, hother, hctx⟩ := clustersBecome_modMe hc Cluster.idled
    rw [heq]
    refine ⟨?_, hother, hctx⟩
    rw [State.modMe_of_cluster hc]
    rfl
  case busy =>
    rintro ⟨j, hj, hrun⟩
    rw [State.endingIfIdle_busy (j := j) (by rwa [hcl, if_neg hj]), State.modMe_hanks]
  case last =>
    intro hidle x hx hrun
    refine State.endingIfIdle_last (h := x) (List.all_eq_true.2 fun j _ => ?_) ?_ hrun
    · rw [hcl]
      by_cases hj : j = c
      · simp [hj, Cluster.idled]
      · simp [hj, hidle j hj]
    · rw [State.modMe_of_cluster hc]
      unfold State.hankAt at hx ⊢
      rw [State.ctx_modCtx_same, show ∀ y : Ctx, (y.modCl c Cluster.idled).hank = y.hank from fun y => by cases c <;> rfl]
      exact hx

end Sys2Proof.Machine
end

section
/-! PROOFS. Barriers, rendezvous and the events that release their waiters (R32, R47, R345, R346). -/

namespace Sys2Proof.Machine

/-! ### Waiting -/

/-- A wait of a cluster that the home and the tables have no part in changes the cluster alone. -/
theorem halt_wait {s : State} {slot : Nat} {c : Cl} (hc : s.cur = .cluster slot c) {w : WaitFor}
    (hw : s.agentHolds (unitOf slot) w = s) : s.halt (.wait w) = s.modMe fun y => { y with run := .waiting, wait := some w } := by
  unfold State.halt
  simp only [hc, hw]

/-! ### Rendezvous -/

/-- An RDV mismatches none where every other cluster at an RDV is at the same set and tag, or neither names the other (R32). -/
theorem Ctx.rdvClash_none {x : Ctx} {c : Cl} {y : BitVec 4 × BitVec 4} (hc : (x.cl c).atRdv = some y)
    (h : ∀ j, j ≠ c → (x.cl j).atRdv = none ∨ (x.cl j).atRdv = some y) : x.rdvClash c false = false := by
  refine List.any_eq_false.2 fun j _ => ?_
  by_cases hj : j = c
  · simp [hj]
  · rcases h j hj with hn | hs
    · simp [hn]
    · simp [hs, hc]

/-- The clusters of a set pass their RDV. -/
theorem Ctx.rdvPass_eq (x : Ctx) (m : BitVec 4) :
    x.rdvPass m = x.withClusters fun j => if names m j then (x.cl j).retire 4 else x.cl j := by
  unfold Ctx.rdvPass
  rw [Ctx.foldl_modCl _ _ (nodup_maskClusters m)]
  simp only [mem_maskClusters]

theorem Ctx.rdvMet_iff (x : Ctx) (y : BitVec 4 × BitVec 4) :
    x.rdvMet y = true ↔ ∀ j, names y.1 j = true → (x.cl j).atRdv = some y := by
  simp [Ctx.rdvMet, List.all_eq_true, mem_maskClusters]

/-- No cluster of the set is idle but, maybe, the one that has come. -/
theorem find_idle_none {x : Ctx} {m : BitVec 4} {c : Cl} (h : ∀ j, j ≠ c → names m j = true → (x.cl j).run ≠ .idle) :
    (maskClusters m).find? (fun j => j != c && (x.cl j).run == .idle) = none := by
  refine List.find?_eq_none.2 fun j hj => ?_
  by_cases hjc : j = c
  · simp [hjc]
  · simpa [hjc] using h j hjc (mem_maskClusters.1 hj)

section
variable {s : State} {slot : Nat} {c : Cl} (hc : s.cur = .cluster slot c) {g : Guard} (hg : s.guardTrue g = true) {mask tag : BitVec 4}
include hc

/-- The clusters once the executing one waits at its RDV. -/
theorem atRdv_cl (j : Cl) : ((s.halt (.wait (.rdv mask tag))).ctx slot).cl j
    = if j = c then { s.me with run := .waiting, wait := some (.rdv mask tag) } else (s.ctx slot).cl j := by
  rw [halt_wait hc rfl, State.modMe_of_cluster hc, State.ctx_modCtx_same, Ctx.modCl_eq, Ctx.cl_withClusters, State.me_of_cluster hc]

include hg

/-- An RDV that mismatches none, in a set without an idle cluster: the rendezvous, or a wait (R32). -/
theorem exec_rdv (hother : ∀ j, j ≠ c → names mask j = false → ((s.ctx slot).cl j).atRdv = none)
    (hset : ∀ j, j ≠ c → names mask j = true → ((s.ctx slot).cl j).run ≠ .idle
      ∧ (((s.ctx slot).cl j).atRdv = none ∨ ((s.ctx slot).cl j).atRdv = some (mask, tag))) :
    exec (.rdv g mask tag) s = .next (if ((s.halt (.wait (.rdv mask tag))).ctx slot).rdvMet (mask, tag)
      then (s.halt (.wait (.rdv mask tag))).modCtx slot fun x => x.rdvPass mask else s.halt (.wait (.rdv mask tag))) := by
  have hcl := atRdv_cl hc (mask := mask) (tag := tag)
  have hclash : ((s.halt (.wait (.rdv mask tag))).ctx slot).rdvClash c false = false := by
    refine Ctx.rdvClash_none (y := (mask, tag)) (by rw [hcl, if_pos rfl]; rfl) fun j hj => ?_
    rw [hcl, if_neg hj]
    cases hn : names mask j with
    | true => exact (hset j hj hn).2
    | false => exact .inl (hother j hj hn)
  have hidle := find_idle_none (x := (s.halt (.wait (.rdv mask tag))).ctx slot) (m := mask) (c := c) fun j hj hn => by
    rw [hcl, if_neg hj]; exact (hset j hj hn).1
  show execRdv g mask tag s = _
  unfold execRdv State.rdvReached
  rw [onGuard_true hg, State.slot_of_cluster hc, State.cl_of_cluster hc]
  simp only [hclash, Bool.false_eq_true, if_false, hidle]
end

theorem Ctx.rdvWaiters_at (x : Ctx) : (x.rdvWaiters.filterMap fun c => (x.cl c).atRdv) = Cl.all.filterMap fun j => (x.cl j).atRdv := by
  unfold Ctx.rdvWaiters
  rw [List.filterMap_filter]
  refine List.filterMap_congr fun j _ => ?_
  cases (x.cl j).atRdv <;> rfl

section
variable {s : State} {slot : Nat} (h : s.mayIssue slot = true)
include h

/-- RENDEZVOUS_COMPLETE lets the first set pass that is met. -/
theorem exec_rendezvousComplete_met {y : BitVec 4 × BitVec 4}
    (hf : (Cl.all.filterMap fun j => ((s.ctx slot).cl j).atRdv).find? (s.ctx slot).rdvMet = some y) :
    exec (.rendezvousComplete slot) s = .next (s.modCtx slot fun x => x.rdvPass y.1) := by
  show execRendezvousComplete slot s = _
  unfold execRendezvousComplete
  simp only [h, if_true, Ctx.rdvWaiters_at, hf]

theorem exec_rendezvousComplete_none
    (hf : (Cl.all.filterMap fun j => ((s.ctx slot).cl j).atRdv).find? (s.ctx slot).rdvMet = none) :
    exec (.rendezvousComplete slot) s = .next s := by
  show execRendezvousComplete slot s = _
  unfold execRendezvousComplete
  simp only [h, if_true, Ctx.rdvWaiters_at, hf]
end

/-! ### Barriers -/

/-- The state in which a BAR has counted its generation (R47). -/
def State.counted (s : State) (slot : Nat) : State :=
  (s.modCtx slot fun y => { y with barCount := max y.barCount s.barGeneration }).modMe fun y => { y with firstEffect := true }

/-- A cluster that waits at a barrier whose generation has been reached passes it (R47). -/
def Cluster.barPassed (reached : Nat → Bool) (y : Cluster) : Cluster :=
  match y.wait with
  | some (.bar n) => if reached n then y.retire 4 else y
  | _ => y

theorem exec_bar {s : State} {slot : Nat} {c : Cl} {g : Guard} (hc : s.cur = .cluster slot c) (hg : s.guardTrue g = true) :
    exec (.bar g) s = .next (if (s.counted slot).barReached slot s.barGeneration then (s.counted slot).retire 4
      else (s.counted slot).halt (.wait (.bar s.barGeneration))) := by
  show execBar g s = _
  unfold execBar State.counted
  rw [onGuard_true hg]
  simp only [State.slot_modMe, State.slot_modCtx, State.slot_of_cluster hc, State.modMyCtx_of_cluster hc]

theorem exec_barrierComplete {s : State} {slot : Nat} (h : s.mayIssue slot = true) :
    exec (.barrierComplete slot) s = .next (s.modCtx slot fun x => x.modAll (Cluster.barPassed (s.barReached slot))) := by
  show execBarrierComplete slot s = _
  unfold execBarrierComplete
  rw [if_pos h]
  rfl

/-- Settles O38: RDV and BAR by what the context's clusters wait for, the events by the clusters that they release. -/
theorem barriersAndRendezvous : Obligations.BarriersAndRendezvous := by
  refine fun s slot => ⟨fun c g hc hg => ⟨?bar, fun mask tag hme hother => ⟨fun hall => ?met, fun hset hlate => ?waits⟩⟩,
    fun hm => ⟨?barComplete, ?rdvComplete⟩, fun c => ?retest⟩
  case bar =>
    refine (exec_bar hc hg).trans ?_
    unfold State.counted State.barGeneration
    rw [State.myCtx_of_cluster hc, State.modMyCtx_of_cluster hc]
    rfl
  case met =>
    have hcl := atRdv_cl hc (mask := mask) (tag := tag)
    have hmet : ((s.halt (.wait (.rdv mask tag))).ctx slot).rdvMet (mask, tag) = true := by
      refine (Ctx.rdvMet_iff ..).2 fun j hj => ?_
      rw [hcl]
      by_cases hjc : j = c
      · rw [if_pos hjc]; rfl
      · rw [if_neg hjc]; exact (hall j hjc hj).1
    refine ⟨_, (exec_rdv hc hg hother fun j hj hn => ⟨(hall j hj hn).2, .inr (hall j hj hn).1⟩).trans (by rw [if_pos hmet]), ?_⟩
    rw [halt_wait hc rfl, State.modMe_of_cluster hc, State.modCtx_modCtx]
    refine clustersBecome_modCtx ?_
    rw [Ctx.rdvPass_eq, Ctx.modCl_eq, Ctx.withClusters_twice]
    refine Ctx.withClusters_congr _ fun j => ?_
    rw [Ctx.cl_withClusters]
    by_cases hjc : j = c
    · subst hjc
      rw [if_pos hme, if_pos hme, if_pos rfl]
      exact Cluster.retire_congr rfl 4
    · rw [if_neg hjc]
  case waits =>
    have hmet : ¬ ((s.halt (.wait (.rdv mask tag))).ctx slot).rdvMet (mask, tag) = true := by
      obtain ⟨j, hj, hn, hnone⟩ := hlate
      intro h
      have := (Ctx.rdvMet_iff ..).1 h j hn
      rw [atRdv_cl hc, if_neg hj, hnone] at this
      cases this
    exact (exec_rdv hc hg hother hset).trans (by rw [if_neg hmet])
  case barComplete =>
    refine ⟨_, exec_barrierComplete hm, clustersBecome_modCtx ?_⟩
    exact Ctx.modAll_eq ..
  case rdvComplete =>
    cases hf : (Cl.all.filterMap fun j => ((s.ctx slot).cl j).atRdv).find? (s.ctx slot).rdvMet with
    | none => exact ⟨_, exec_rendezvousComplete_none hm hf, .inl ⟨fun y hy => by simpa using List.find?_eq_none.1 hf y hy, rfl⟩⟩
    | some y =>
      exact ⟨_, exec_rendezvousComplete_met hm hf,
        .inr ⟨y, List.mem_of_find?_eq_some hf, List.find?_some hf, clustersBecome_modCtx (Ctx.rdvPass_eq ..)⟩⟩
  case retest =>
    refine ⟨_, rfl, clustersBecome_modCtx ?_⟩
    rw [Ctx.modCl_eq]
    refine Ctx.withClusters_congr _ fun j => ?_
    by_cases hj : j = c
    · subst hj
      cases hw : ((s.ctx slot).cl j).wait with
      | none => simp [hw]
      | some w => cases w <;> simp [hw, Cluster.wake]
    · simp only [hj, if_false, false_and]
      split <;> rfl

end Sys2Proof.Machine
end

section
/-! PROOFS. BANKCFG_WRITE and the caches: a bank that leaves CACHE takes the lines of its L1 way with it (R110, R118), which the frame of
`BankConfigured` does not admit. -/

namespace Sys2Proof.Machine

/-! ### A write of BANKCFG that evicts a line -/

/-- CSRW of s1 to BANKCFG, under g7. -/
def bankWrite : Instr := .csrw { neg := false, sel := 7 } 1 11

/-- A C cluster that stands at the write with s1 asking for bank 0 as SCRATCH, in a spindle whose L1 holds a line in the way of that
bank. -/
def lineInWay : State :=
  { State.reset.setBytes fetchBase (leBytes 4 ((encode bankWrite).getD 0 0).toNat) with
    ctxs := [(0, { Ctx.free with
      hank := some (0, 0), c := { Cluster.initial with run := .running, pc := BitVec.ofNat 64 fetchBase, s := [(1, 0x100)] } })]
    tlb := [fetchEntry 0]
    l1 := [(0, some { line := 0, dirty := true })] }

/-- The write at the PC is fetched and read off, and the fetch leaves no trace. -/
theorem lineInWay_due : (dueWrite.run.run lineInWay : Except Stop (Option (Nat × Word)) × State) = (.ok (some (11, 0x100)), lineInWay) := by
  rfl

/-- The bank may change its mode (R110). -/
theorem lineInWay_outcome : lineInWay.bankOutcome 0 0 1 = some 0 := by decide +kernel

/-- The write succeeds, and the line has left L1 (R118). -/
theorem lineInWay_after : ∃ t, exec (.bankcfgWrite 0 0x100) lineInWay = .next t ∧ t.l1 = [] := by
  refine ⟨_, rfl, ?_⟩
  decide +kernel

/-- Refutes O50: BANKCFG_WRITE on a bank that leaves CACHE drops the lines of the bank's way from L1 (R110, R118), where the statement
lets only contexts, banks and scratchpad change. -/
theorem not_watchdogsWaitsAndLoads : ¬ Obligations.WatchdogsWaitsAndLoads := by
  intro h
  obtain ⟨-, -, -, -, -, -, -, -, hwrite⟩ := h lineInWay 0 .C
  obtain ⟨hbank, -, -⟩ := hwrite (by decide +kernel) (by decide +kernel) (by decide +kernel) 0x100 (11, 0x100) lineInWay lineInWay_due
  obtain ⟨w, hexec, hframe, -⟩ := hbank rfl 0 lineInWay_outcome
  obtain ⟨t, ht, hl1⟩ := lineInWay_after
  have hsame : t.l1 = lineInWay.l1 := by
    have hw : t = w.retire 4 := Host.Outcome.next.inj (ht.symm.trans hexec)
    rw [hw, State.retire, State.modMe_l1, hframe]
  rw [hl1] at hsame
  cases hsame

end Sys2Proof.Machine
end

section
/-! PROOFS. Staging, reservation, dispatch and the end of a hank (R29, R40, R109, R177 .. R183, R209). -/

namespace Sys2Proof.Machine

/-! ### An agent's reads change no agent -/

/-- A computation that changes neither agents nor hanks. -/
def Comp.Reads {α : Type} (c : Comp α) : Prop := ∀ s, SameAgents s (c.go s).2

theorem Comp.reads_pure {α : Type} (a : α) : (pure a : Comp α).Reads := .refl

theorem Comp.reads_get : (get : Comp State).Reads := .refl

theorem Comp.reads_update {f : State → State} (hf : ∀ s, SameAgents s (f s)) : (update f).Reads := hf

theorem Comp.reads_ofDeny {α : Type} (r : Except Deny α) : (ofDeny r).Reads := by
  cases r <;> exact SameAgents.refl

theorem Comp.reads_bind {α β : Type} {c : Comp α} {f : α → Comp β} (hc : c.Reads) (hf : ∀ a, (f a).Reads) : (c >>= f).Reads :=
  fun s => by
    have h := hc s
    rw [Comp.go_bind]
    rcases hgo : Comp.go c s with ⟨r | a, t⟩ <;> rw [hgo] at h
    · exact h
    · exact h.trans (hf a t)

theorem sameAgents_notePort (s : State) (x : Xlate) : SameAgents s (s.notePort x) := by
  unfold State.notePort
  split
  · exact sameAgents_report ..
  · exact .refl s

theorem asdLoad_reads (u : TlbUnit) (asd : Nat) (prov : Bool) (va : Word) (n : Nat) : (asdLoad u asd prov va n).Reads := by
  refine Comp.reads_bind (Comp.reads_update fun s => sameAgents_prewalk ..) fun _ => Comp.reads_bind Comp.reads_get fun s => ?_
  refine Comp.reads_bind (Comp.reads_ofDeny _) fun x => Comp.reads_bind (Comp.reads_ofDeny _) fun _ => ?_
  refine Comp.reads_bind (Comp.reads_update fun s => (sameAgents_touch s x).trans (sameAgents_notePort ..)) fun _ => ?_
  refine Comp.reads_bind Comp.reads_get fun t => ?_
  split
  · exact Comp.reads_pure _
  · split
    · exact Comp.reads_ofDeny (.error _)
    · exact Comp.reads_pure _

/-- A read that ends with a value has changed no agent. -/
theorem agentRead_value {α : Type} {c : Comp α} (hc : c.Reads) {s t : State} {v : α} (h : agentRead c s = .value v t) :
    SameAgents s t := by
  have hgo := hc s
  unfold agentRead at h
  change SameAgents s (c.run.run s : Except Stop α × State).2 at hgo
  split at h
  case h_1 heq => rw [heq] at hgo; cases h; exact hgo
  all_goals cases h

/-! ### Staging -/

/-- The smallest of the keys is served (R178). -/
theorem served_iff {l : List (List Nat)} {k : List Nat} : (l.all fun x => !decide (x < k)) = true ↔ ∀ x ∈ l, ¬ x < k := by simp

section
variable {s : State} {task : Nat} {wid : Word} {h : Hank} {t : Task} {i : Nat} {r : Region}
  (hh : s.findHank task wid = some h) (ht : s.findTask task = some t) (hr : t.body.regions[i]? = some r)
  (hreq : s.stageRequest h r i = true) (hmax : ∀ k ∈ s.stageRequests h.bobbin, ¬ k < h.stageKey r i)
include hh ht hr hreq hmax

/-- The page that the line lies in is on its way to HBM4. -/
theorem State.stageLine_move {m : PageMove} (hm : s.regionMove t h r i = some m) :
    s.stageLine task wid i = s.moveLine (some h.bobbin) m := by
  simp only [State.stageLine, hh, ht, hr, hreq, served_iff.2 hmax, Bool.and_self, if_true, hm]

variable (hm : s.regionMove t h r i = none)
include hm

theorem State.stageLine_wait {w : WaitFor} {u : State} (hv : s.stageRead t h r i = .wait w u) :
    s.stageLine task wid i = s.agentHolds (.bobbin h.bobbin) w := by
  simp only [State.stageLine, hh, ht, hr, hreq, served_iff.2 hmax, Bool.and_self, if_true, hm, hv]

theorem State.stageLine_cause {c : BitVec 32} {fatal : Bool} {a : Word} {u : State} (hv : s.stageRead t h r i = .cause c fatal a u) :
    s.stageLine task wid i = u.stageFails h r i c fatal a := by
  simp only [State.stageLine, hh, ht, hr, hreq, served_iff.2 hmax, Bool.and_self, if_true, hm, hv]

variable {v : Nat} {u : State} (hv : s.stageRead t h r i = .value v u)
include hv

theorem State.stageLine_land (hp : u.promotable t h r i = none) : s.stageLine task wid i = u.stageLand h r i v := by
  simp only [State.stageLine, hh, ht, hr, hreq, served_iff.2 hmax, Bool.and_self, if_true, hm, hv, hp]

theorem State.stageLine_begin {x : Xlate} (hp : u.promotable t h r i = some x) : s.stageLine task wid i = u.beginMove h x := by
  simp only [State.stageLine, hh, ht, hr, hreq, served_iff.2 hmax, Bool.and_self, if_true, hm, hv, hp]

end

/-- What a landed line changes beside its hank: staging's counters and a scratchpad (R177). -/
theorem State.stageLand_hanks (s : State) (h : Hank) (r : Region) (i v : Nat) :
    (s.stageLand h r i v).hanks
      = (s.modHank h.task h.wid fun y => { y with landed := y.landed.set 0 i (h.stageNext r i + 1) }).hanks := by
  unfold State.stageLand
  simp only
  split
  · split <;> rfl
  · rfl

/-- A landed line counts for its region. -/
theorem State.stageLand_landed {s : State} {h x : Hank} (hx : s.findHank h.task h.wid = some x) (r : Region) (i v : Nat) :
    ((s.stageLand h r i v).findHank h.task h.wid).map (fun y => y.landed.get 0 i) = some (h.stageNext r i + 1) := by
  have hmod := State.findHank_modHank s h.task h.wid
    (f := fun y => { y with landed := y.landed.set 0 i (h.stageNext r i + 1) }) fun _ => ⟨rfl, rfl⟩
  rw [State.findHank, State.stageLand_hanks, ← State.findHank, hmod, hx]
  simp

/-! ### Banks -/

theorem SMap.get_foldl_set {α : Type} [DecidableEq α] {d v : α} {f : Nat → Nat} (l : List Nat) (m : SMap α) (j : Nat) :
    SMap.get d (l.foldl (fun t b => SMap.set d t (f b) v) m) j = if j ∈ l.map f then v else SMap.get d m j := by
  induction l generalizing m with
  | nil => simp
  | cons b l ih =>
    rw [List.foldl_cons, ih, SMap.get_set]
    by_cases hb : j = f b
    · simp [hb]
    · simp [hb, Ne.symm hb]

/-- The banks that are given a mode have it, and no other bank of the spindle changes (R110). -/
theorem State.bank_setBanks (s : State) (sp : Nat) (l : List Nat) (m : Bank) (b : Nat) :
    (s.setBanks sp l m).bank sp b = if b ∈ l then m else s.bank sp b := by
  refine (SMap.get_foldl_set (f := fun b => sp * 64 + b) l s.banks (sp * 64 + b)).trans ?_
  simp [State.bank]

/-- A freed slot owns no bank (R109). -/
theorem State.bank_freeSlot (s : State) (slot b : Nat) (hb : b < 64) :
    ((s.freeSlot slot).bank (spindleOf slot) b).ownedBy (slot % 2) = false := by
  show ((s.freeBanks slot).bank (spindleOf slot) b).ownedBy (slot % 2) = false
  rw [State.freeBanks, State.bank_setBanks]
  split
  · rfl
  · rename_i hout
    simpa [State.banksWith, hb] using hout

/-! ### Reserving a slot -/

@[simp] theorem State.ctx_modHank (s : State) (task : Nat) (wid : Word) (f : Hank → Hank) (k : Nat) :
    (s.modHank task wid f).ctx k = s.ctx k := rfl
@[simp] theorem State.ctx_modTask (s : State) (pa : Nat) (f : Task → Task) (k : Nat) : (s.modTask pa f).ctx k = s.ctx k := rfl
@[simp] theorem State.findHank_setCtx (s : State) (k : Nat) (x : Ctx) (task : Nat) (wid : Word) :
    (s.setCtx k x).findHank task wid = s.findHank task wid := rfl
@[simp] theorem State.findHank_modTask (s : State) (pa : Nat) (f : Task → Task) (task : Nat) (wid : Word) :
    (s.modTask pa f).findHank task wid = s.findHank task wid := rfl
@[simp] theorem State.findHank_setBanks (s : State) (sp : Nat) (l : List Nat) (m : Bank) (task : Nat) (wid : Word) :
    (s.setBanks sp l m).findHank task wid = s.findHank task wid := rfl
@[simp] theorem State.bank_setCtx (s : State) (k : Nat) (x : Ctx) (sp b : Nat) : (s.setCtx k x).bank sp b = s.bank sp b := rfl
@[simp] theorem State.bank_modHank (s : State) (task : Nat) (wid : Word) (f : Hank → Hank) (sp b : Nat) :
    (s.modHank task wid f).bank sp b = s.bank sp b := rfl

/-- The context of a hank that has been given a slot (R40, R179). -/
theorem State.ctx_takeSlot (s : State) (t : Task) (h : Hank) (k : Nat) :
    (s.takeSlot t h k).ctx k
      = { Ctx.free with hank := some (h.task, h.wid), asd := t.body.asd, tosq := t.body.tosq, provisional := h.prov } := by
  rw [State.takeSlot, State.ctx_modHank, State.ctx_setCtx_same]

theorem State.findHank_takeSlot {s : State} {h : Hank} (t : Task) (hh : s.findHank h.task h.wid = some h) (k : Nat) :
    (s.takeSlot t h k).findHank h.task h.wid = some { h with slot := some k } := by
  rw [State.takeSlot, State.findHank_modHank]
  · simp [hh]
  · exact fun _ => ⟨rfl, rfl⟩

/-- SCRATCH banks come first, and FIFO banks next (R182). -/
theorem State.bank_takeSlot (s : State) (t : Task) (h : Hank) (k b : Nat) :
    (s.takeSlot t h k).bank (spindleOf k) b =
      if b ∈ ((s.cacheBanks k).drop t.body.nscr).take t.body.nfifo then .fifo (k % 2)
      else if b ∈ (s.cacheBanks k).take t.body.nscr then .scratch (k % 2) else s.bank (spindleOf k) b := by
  simp only [State.takeSlot, State.bank_modHank, State.bank_setCtx, State.bank_setBanks]

/-! ### Dispatch -/

theorem State.skeinClass_alone {s : State} {h : Hank} (hs : s.skeinOf h = [h]) : s.skeinClass h = h.cls := by
  simp [State.skeinClass, hs]

/-- A cluster at dispatch (R183). -/
theorem Cluster.entry_run (param wid code : Word) (e : Nat) :
    (Cluster.entry param wid code e).run = (if e = 0 then .idle else .running)
      ∧ (Cluster.entry param wid code e).pc = (if e = 0 then 0 else code + BitVec.ofNat 64 e)
      ∧ (Cluster.entry param wid code e).wait = none ∧ (Cluster.entry param wid code e).reel = none := by
  unfold Cluster.entry
  split
  · exact ⟨rfl, rfl, rfl, rfl⟩
  · exact ⟨rfl, rfl, rfl, rfl⟩

/-- PARAM stands in s1 and the hank's WID in s2 (R183). -/
theorem Cluster.entry_readS (param wid code : Word) (e : Nat) (r : RegF) :
    (Cluster.entry param wid code e).readS r = if r = 1 then param else if r = 2 then wid else 0 := by
  have hs : (Cluster.entry param wid code e).s = SMap.set 0 (SMap.set 0 [] 1 param) 2 wid := by
    unfold Cluster.entry
    split <;> rfl
  have h1 : (1 = r.toNat) ↔ r = 1 := by rw [← BitVec.toNat_inj, eq_comm]; rfl
  have h2 : (2 = r.toNat) ↔ r = 2 := by rw [← BitVec.toNat_inj, eq_comm]; rfl
  rw [Cluster.readS, hs, SMap.get_set, SMap.get_set]
  simp only [h1, h2]
  by_cases hr : r = 1
  · subst hr; simp
  · by_cases hr2 : r = 2
    · subst hr2; simp
    · simp only [if_neg hr, if_neg hr2, SMap.get, ite_self]

theorem Ctx.cl_dispatched (x : Ctx) (t : TaskRec) (h : Hank) (c : Cl) :
    (x.dispatched t h).cl c = .entry t.param h.wid t.code (t.entry.get 0 c.code) := by cases c <;> rfl

/-- The hank as it runs from its dispatch on (R183). -/
def Hank.bound (h : Hank) (now no : Nat) : Hank := { h with state := .running, resumedAt := now, dispSeq := no, claim := false }

/-- A hank that is bound: its context, itself and the count of dispatches (R183). -/
def State.boundAt (s : State) (k : Nat) (t : Task) (h : Hank) : State :=
  { (s.modCtx k fun x => x.dispatched t.body h).modHank h.task h.wid (fun y => y.bound s.timeNs s.dispNo) with dispNo := s.dispNo + 1 }

theorem State.ctx_boundAt (s : State) (k : Nat) (t : Task) (h : Hank) : (s.boundAt k t h).ctx k = (s.ctx k).dispatched t.body h :=
  State.ctx_modCtx_same s k fun x => x.dispatched t.body h

section
variable {s : State} {h : Hank} {k : Nat} (hh : s.findHank h.task h.wid = some h)
include hh

theorem State.findHank_boundAt (t : Task) : (s.boundAt k t h).findHank h.task h.wid = some (h.bound s.timeNs s.dispNo) := by
  refine (State.findHank_modHank (s.modCtx k _) h.task h.wid ?_).trans (congrArg (Option.map _) hh)
  exact fun _ => ⟨rfl, rfl⟩

variable (hctx : (s.ctx k).hank = some (h.task, h.wid))
include hctx

theorem State.hankAt_boundAt (t : Task) : (s.boundAt k t h).hankAt k = some (h.bound s.timeNs s.dispNo) := by
  rw [State.hankAt_of ((congrArg Ctx.hank (State.ctx_boundAt s k t h)).trans hctx), State.findHank_boundAt hh]

/-- The binding of a hank with an entry point, no staging fault and no Codebook Table (R183). -/
theorem State.bind_plain {t : Task} (ht : s.findTask h.task = some t) (hk : h.slot = some k) (hf : h.stageFault = none)
    (hcb : t.body.cbtp = 0) (he : ∃ c : Cl, t.body.entry.get 0 c.code ≠ 0) : s.bind h = s.boundAt k t h := by
  obtain ⟨c, hc⟩ := he
  have hrun : (((s.boundAt k t h).ctx k).cl c).run ≠ .idle := by
    rw [State.ctx_boundAt, Ctx.cl_dispatched, (Cluster.entry_run ..).1, if_neg hc]
    simp
  have hraise : (s.boundAt k t h).raiseStageFault k = s.boundAt k t h := by
    unfold State.raiseStageFault
    simp only [State.hankAt_boundAt hh hctx, Hank.bound, hf]
  unfold State.bind
  simp only [hh, ht, hk, hcb, if_true]
  exact (congrArg (State.endingIfIdle · k) hraise).trans (State.endingIfIdle_busy (j := c) hrun)

end

section
variable {s : State} {task : Nat} {wid : Word} {h : Hank} {t : Task} (hh : s.findHank task wid = some h)
  (ht : s.findTask task = some t)
include hh ht

/-- A READY hank without a skein that is first in every order is bound in its slot (R28, R46, R183). -/
theorem exec_hankDispatch {k : Nat} (hst : h.state = .ready) (hsk : s.skeinOf h = [h]) (hk : h.slot = some k)
    (hctx : (s.ctx k).hank = some (task, wid)) (hf : h.stageFault = none) (hcb : t.body.cbtp = 0) (hup : s.unparked h.bobbin = true)
    (hord : s.inOrder t h = true) (hbid : h.claim = true ∨ s.outbid h.bobbin [h] h.cls none = false)
    (he : ∃ c : Cl, t.body.entry.get 0 c.code ≠ 0) :
    exec (.hankDispatch task wid) s = .next ((s.boundAt k t h).modTask task fun x => { x with dispatched := true }) := by
  have hin : s.skeinIn h .ready = true := by simp [State.skeinIn, hsk, hst]
  have hgo : (h.claim || !s.outbid h.bobbin [h] (s.skeinClass h) none) = true := by
    rw [State.skeinClass_alone hsk]
    simpa using hbid
  have hplace : s.placeAll h.bobbin [h] = some s := by simp [State.placeAll, hk]
  have hbind : s.bind h = s.boundAt k t h := by
    obtain ⟨rfl, rfl⟩ := State.findHank_name hh
    exact State.bind_plain hh hctx ht hk hf hcb he
  show execHankDispatch task wid s = _
  unfold execHankDispatch State.dispatch
  simp only [hh, ht, hst, hin, hup, hord, hsk, hgo, Bool.and_self, if_true, hplace, List.foldl_cons, List.foldl_nil, hbind]

/-- A reservation takes the slot that is picked (R179, R182). -/
theorem exec_slotReserve {k : Nat} (hst : h.state = .admitted) (hup : s.unparked h.bobbin = true)
    (hr : ∃ r ∈ t.body.regions, r.tgt = 1) (hpick : s.pickSlot h.bobbin t.body.demand = some k) :
    exec (.slotReserve task wid) s = .next ((s.takeSlot t h k).modHank task wid fun y => { y with state := .reserved }) := by
  have hany : (t.body.regions.any fun r => r.tgt == 1) = true := by simpa using hr
  have hdem : s.demandOf h = some (t, t.body.demand) := by
    rw [State.demandOf, (State.findHank_name hh).1, ht]
    rfl
  show execSlotReserve task wid s = _
  unfold execSlotReserve State.reserve
  simp only [hh, hdem, hst, hup, hany, and_self, if_true, hpick]

end

/-! ### The end of a hank -/

/-- An ended hank whose stores and copies are performed leaves (R29, R209). -/
theorem exec_hankEnd {s : State} {slot : Nat} {h : Hank} (hh : s.hankAt slot = some h) (hst : h.state = .ending)
    (hp : (s.ctx slot).provisional = false) (hev : (s.ctx slot).event = none) (hw : (s.ctx slot).waiting = [])
    (hd : (s.ctx slot).dying = none) (hcq : ∀ p ∈ (s.ctx slot).cq, p.2 = []) :
    exec (.hankEnd slot) s = .next (((s.freeSlot slot).dropHank h).checkTask h.task) := by
  have hall : ((s.ctx slot).cq.all fun p => p.2.isEmpty) = true := by simpa using hcq
  show execHankEnd slot s = _
  unfold execHankEnd State.endHank
  simp [hh, hst, hp, hev, hw, hd, hall]

/-- A hank that leaves its slot leaves it free, with its banks in CACHE mode, and is itself gone (R109, R185). -/
theorem leave_slot (s : State) (slot : Nat) (h : Hank) :
    ((((s.freeSlot slot).dropHank h).checkTask h.task).ctx slot = .free
      ∧ ∀ x ∈ (((s.freeSlot slot).dropHank h).checkTask h.task).hanks, ¬ (x.task = h.task ∧ x.wid = h.wid))
      ∧ ∀ b < 64, ((((s.freeSlot slot).dropHank h).checkTask h.task).bank (spindleOf slot) b).ownedBy (slot % 2) = false := by
  obtain ⟨u, hu, hhanks, hbanks, hctxs⟩ := keepsHanks_dropHank (s.freeSlot slot) h
  have hcheck := keepsHanks_checkTask ((s.freeSlot slot).dropHank h) h.task
  refine ⟨⟨hcheck.free slot ?_, fun x hx => ?_⟩, fun b hb => ?_⟩
  · rw [State.ctx, hctxs]
    exact hu.free slot (State.ctx_setCtx_same _ slot .free)
  · rw [hcheck.hanks, hhanks] at hx
    simpa [imp_iff_not_or] using (List.mem_filter.1 hx).2
  · rw [hcheck.bank, State.bank, hbanks, ← State.bank, hu.bank]
    exact State.bank_freeSlot s slot b hb

/-- Settles O48: each of these instructions is one update of the hank that it names, of its slot and of its context, and what
else it touches (memory, waiters, charges, the task's record) leaves hanks, banks and free slots as they are. -/
theorem stagingAndDispatch : Obligations.StagingAndDispatch := by
  intro s task wid h t hh ht
  refine ⟨?stage, ?landed, ?window, ?reserve, ?dispatch, ?leave⟩
  case stage =>
    intro i r hr hreq hmax
    have hexec : exec (.stagingCopy task wid i 1) s = .next (s.stageLine task wid i) := rfl
    refine ⟨fun hm => ⟨fun v u hv => ⟨fun hp => ⟨_, ?_, rfl, ?_⟩, fun x hp => ?_⟩, fun c f a u hv => ?_, fun x u hv => ?_⟩,
      fun m hm => ?_⟩
    · rw [hexec, State.stageLine_land hh ht hr hreq hmax hm hv hp]
    · have hu := agentRead_value (asdLoad_reads _ _ _ _ _) hv
      obtain ⟨rfl, rfl⟩ := State.findHank_name hh
      exact State.stageLand_landed ((hu.keepsHanks.findHank ..).trans hh) r i v
    · rw [hexec, State.stageLine_begin hh ht hr hreq hmax hm hv hp]
    · rw [hexec, State.stageLine_cause hh ht hr hreq hmax hm hv]
    · rw [hexec, State.stageLine_wait hh ht hr hreq hmax hm hv]
    · rw [hexec, State.stageLine_move hh ht hr hreq hmax hm]
  case landed =>
    intro hst hall
    show execStagingLanded task wid s = _
    unfold execStagingLanded State.becomeReady
    simp only [hh, ht, hst, hall, and_self, if_true]
  case window =>
    intro b
    refine ⟨_, rfl, rfl, fun c => ?_⟩
    simp only [SMap.modify, SMap.get_set]
    by_cases hb : b = c
    · simp [hb]
    · simp [hb, Ne.symm hb]
  case reserve =>
    intro k hst hup hr hpick
    refine ⟨_, exec_slotReserve hh ht hst hup hr hpick, State.ctx_takeSlot s t h k, ?_, fun b _ => State.bank_takeSlot s t h k b⟩
    obtain ⟨rfl, rfl⟩ := State.findHank_name hh
    rw [State.findHank_modHank, State.findHank_takeSlot t hh k]
    · rfl
    · exact fun _ => ⟨rfl, rfl⟩
  case dispatch =>
    intro k hst hsk hk hctx hf hcb hup hord hbid he
    refine ⟨_, exec_hankDispatch hh ht hst hsk hk hctx hf hcb hup hord hbid he, rfl, ?_, State.ctx_boundAt s k t h, fun c => ?_⟩
    · obtain ⟨rfl, rfl⟩ := State.findHank_name hh
      rw [State.findHank_modTask, State.findHank_boundAt hh]
      rfl
    · obtain ⟨hrun, hpc, hwait, hreel⟩ := Cluster.entry_run t.body.param h.wid t.body.code (t.body.entry.get 0 c.code)
      have hcl : (((s.boundAt k t h).modTask task fun x => { x with dispatched := true }).ctx k).cl c
          = .entry t.body.param h.wid t.body.code (t.body.entry.get 0 c.code) := by
        rw [State.ctx_modTask, State.ctx_boundAt, Ctx.cl_dispatched]
      simp only [hcl]
      exact ⟨hrun, hpc, Cluster.entry_readS _ _ _ _, hwait, hreel⟩
  case leave =>
    intro slot hat hst hp hev hw hd hcq
    obtain ⟨⟨hctx, hgone⟩, hbanks⟩ := leave_slot s slot h
    exact ⟨_, exec_hankEnd hat hst hp hev hw hd hcq, hctx, hgone, hbanks⟩

end Sys2Proof.Machine
end

section
/-! PROOFS. Victims and their saves, the completion of a save, resumption and ageing (R48, R186 .. R196, R208, R451). -/

namespace Sys2Proof.Machine

/-! ### Hanks that are found, and hanks that are there -/

theorem State.mem_modHank {s : State} {task : Nat} {wid : Word} {f : Hank → Hank} {x : Hank} (hx : x ∈ (s.modHank task wid f).hanks) :
    ∃ y ∈ s.hanks, (y.task = task ∧ y.wid = wid ∧ x = f y) ∨ (¬ (y.task = task ∧ y.wid = wid) ∧ x = y) := by
  obtain ⟨y, hy, rfl⟩ := List.mem_map.1 hx
  refine ⟨y, hy, ?_⟩
  by_cases h : y.task = task ∧ y.wid = wid
  · exact .inl ⟨h.1, h.2, if_pos (by simp [h])⟩
  · exact .inr ⟨h, if_neg (by simpa using h)⟩

theorem State.findHank_mem {s : State} {task : Nat} {wid : Word} {h : Hank} (hh : s.findHank task wid = some h) : h ∈ s.hanks :=
  List.mem_of_find?_eq_some hh

theorem State.findHank_of_mem {s : State} {v : Hank} (hv : v ∈ s.hanks) : ∃ x, s.findHank v.task v.wid = some x :=
  Option.isSome_iff_exists.1 (List.find?_isSome.2 ⟨v, hv, by simp⟩)

/-! ### Skeins and victims are hanks of the module -/

theorem State.skeinOf_subset {s : State} {h : Hank} (hh : h ∈ s.hanks) : ∀ x ∈ s.skeinOf h, x ∈ s.hanks := by
  intro x hx
  unfold State.skeinOf at hx
  split at hx
  · rwa [List.mem_singleton.1 hx]
  · exact (List.mem_filter.1 hx).1

theorem State.mem_skeinOf {s : State} {h : Hank} (hh : h ∈ s.hanks) : h ∈ s.skeinOf h := by
  unfold State.skeinOf
  split
  · exact List.mem_singleton_self h
  · exact List.mem_filter.2 ⟨hh, by simp⟩

theorem State.state_of_skeinIn {s : State} {h : Hank} {st : HankState} (hh : h ∈ s.hanks) (hin : s.skeinIn h st = true) :
    h.state = st := by
  simpa using List.all_eq_true.1 hin h (State.mem_skeinOf hh)

theorem mem_insertVictim {le : Int × Nat → Int × Nat → Bool} {x y : (Int × Nat) × List Hank} {l : List ((Int × Nat) × List Hank)}
    (hy : y ∈ insertVictim le x l) : y = x ∨ y ∈ l := by
  induction l with
  | nil => exact .inl (List.mem_singleton.1 hy)
  | cons z l ih =>
    unfold insertVictim at hy
    split at hy
    · exact List.mem_cons.1 hy
    · rcases List.mem_cons.1 hy with rfl | hy
      · exact .inr List.mem_cons_self
      · exact (ih hy).imp_right (List.mem_cons_of_mem z)

theorem mem_foldl_insertVictim {le : Int × Nat → Int × Nat → Bool} {y : (Int × Nat) × List Hank}
    (l m : List ((Int × Nat) × List Hank)) (hy : y ∈ l.foldl (fun m x => insertVictim le x m) m) : y ∈ l ∨ y ∈ m := by
  induction l generalizing m with
  | nil => exact .inr hy
  | cons x l ih =>
    rcases ih _ hy with hl | hm
    · exact .inl (List.mem_cons_of_mem x hl)
    · rcases mem_insertVictim hm with rfl | hm
      · exact .inl List.mem_cons_self
      · exact .inr hm

/-- The victims that may be taken are running skeins. -/
theorem State.victimOrder_subset {s : State} {inc : Hank} {hs : List Hank} (h : hs ∈ s.victimOrder inc) :
    hs ∈ s.runningSkeins inc.bobbin := by
  unfold State.victimOrder at h
  simp only [List.mem_map, List.mem_append] at h
  obtain ⟨y, hy | hy, rfl⟩ := h
  all_goals
    rcases mem_foldl_insertVictim _ _ hy with hl | hl
    · obtain ⟨x, hx, rfl⟩ := List.mem_map.1 hl
      exact (List.mem_filter.1 (List.mem_filter.1 hx).1).1
    · cases hl

theorem State.runningSkeins_hanks {s : State} {b : Nat} {hs : List Hank} (h : hs ∈ s.runningSkeins b) : ∀ v ∈ hs, v ∈ s.hanks := by
  obtain ⟨x, hx, heq⟩ := List.mem_filterMap.1 h
  simp only at heq
  split at heq
  · split at heq
    · cases heq
      exact State.skeinOf_subset hx
    · cases heq
  · cases heq

/-- What is taken comes from the order or was taken before, and every victim finds a frame (R187, R196). -/
theorem State.takeVictims_spec {s : State} {inc : Hank} {vs : List Hank} : ∀ (l : List (List Hank)) (took : List Hank),
    s.takeVictims inc l took = some vs →
      vs.length ≤ s.freeFrames.length ∧ ∀ v ∈ vs, v ∈ took ∨ ∃ hs ∈ l, v ∈ hs := by
  intro l
  induction l with
  | nil => intro took h; cases h
  | cons hs l ih =>
    intro took h
    unfold State.takeVictims at h
    simp only at h
    split at h
    · cases h
    · rename_i hlen
      split at h
      · cases h
        refine ⟨Nat.le_of_not_lt hlen, fun v hv => (List.mem_append.1 hv).imp_right fun hv => ⟨hs, List.mem_cons_self, hv⟩⟩
      · obtain ⟨hle, hmem⟩ := ih _ h
        refine ⟨hle, fun v hv => ?_⟩
        rcases hmem v hv with hv | ⟨m, hm, hv⟩
        · exact (List.mem_append.1 hv).imp_right fun hv => ⟨hs, List.mem_cons_self, hv⟩
        · exact .inr ⟨m, List.mem_cons_of_mem hs hm, hv⟩

theorem State.victims_hanks {s : State} {inc : Hank} {vs : List Hank} (h : s.takeVictims inc (s.victimOrder inc) [] = some vs) :
    ∀ v ∈ vs, v ∈ s.hanks := fun v hv => by
  rcases (State.takeVictims_spec _ _ h).2 v hv with hv | ⟨hs, hhs, hv⟩
  · cases hv
  · exact State.runningSkeins_hanks (State.victimOrder_subset hhs) v hv

/-! ### Saves that start -/

/-- The hank found under a name is being saved, and has a frame. -/
def State.Saving (s : State) (task : Nat) (wid : Word) : Prop :=
  ∃ x, s.findHank task wid = some x ∧ x.state = .saving ∧ x.frame.isSome = true

theorem State.Saving.modHank {s : State} {task : Nat} {wid : Word} (h : s.Saving task wid) (t : Nat) (w : Word) {f : Hank → Hank}
    (hf : ∀ h, (f h).task = h.task ∧ (f h).wid = h.wid)
    (hsave : ∀ x, x.state = .saving → x.frame.isSome = true → (f x).state = .saving ∧ (f x).frame.isSome = true) :
    (s.modHank t w f).Saving task wid := by
  obtain ⟨x, hx, hst, hfr⟩ := h
  refine ⟨if x.task == t && x.wid == w then f x else x, ?_, ?_⟩
  · rw [State.findHank_modHank_any s t w hf, hx]
    rfl
  · split
    · exact hsave x hst hfr
    · exact ⟨hst, hfr⟩

/-- The frames of SAVEPOOL do not overlap (R195). -/
theorem State.nodup_freeFrames (s : State) : s.freeFrames.Nodup := by
  refine List.Nodup.filter _ (List.Nodup.map (fun i j h => ?_) List.nodup_range)
  simp only [State.framePa, frameBytes] at h
  omega

/-- The hank as its save starts with frame `f`, of a task with `n` regions (R181, R187, R188). -/
def Hank.saved (h : Hank) (now f n : Nat) : Hank :=
  { h with state := .saving, frame := some f, runNs := h.runNs + (now - h.resumedAt), ended := SMap.tabulate false n fun _ => true,
           stageFault := none }

/-- A state that has taken a frame from SAVEPOOL. -/
def State.takeFrame (s : State) (f : Nat) : State := { s with framesUsed := s.framesUsed ++ [f] }

section
variable {s : State} {f : Nat} {fs : List Nat} (hs : s.freeFrames = f :: fs)
include hs

/-- A save takes the first free frame. -/
theorem State.startSave_eq (v : Hank) : ∃ n, s.startSave v = (s.takeFrame f).modHank v.task v.wid fun h => h.saved s.timeNs f n := by
  unfold State.startSave
  simp only [hs]
  exact ⟨_, rfl⟩

theorem State.freeFrames_takeFrame : (s.takeFrame f).freeFrames = fs := by
  have hfilter : (s.takeFrame f).freeFrames = s.freeFrames.filter (· != f) := by
    show List.filter (fun x => !(s.framesUsed ++ [f]).contains x) _ = _
    rw [State.freeFrames, List.filter_filter]
    refine List.filter_congr fun x _ => ?_
    rw [Bool.eq_iff_iff]
    simp [and_comm]
  rw [hfilter, ← s.nodup_freeFrames.erase_eq_filter, hs, List.erase_cons_head]

theorem State.freeFrames_startSave (v : Hank) : (s.startSave v).freeFrames = fs := by
  obtain ⟨n, heq⟩ := State.startSave_eq hs v
  rw [heq]
  exact State.freeFrames_takeFrame hs

theorem State.saving_startSave {v x : Hank} (hx : s.findHank v.task v.wid = some x) : (s.startSave v).Saving v.task v.wid := by
  obtain ⟨n, heq⟩ := State.startSave_eq hs v
  refine ⟨x.saved s.timeNs f n, ?_, rfl, rfl⟩
  rw [heq, State.findHank_modHank]
  · exact congrArg (Option.map _) hx
  · exact fun _ => ⟨rfl, rfl⟩

end

/-- A later save leaves an earlier one under way. -/
theorem State.Saving.startSave {s : State} {task : Nat} {wid : Word} (h : s.Saving task wid) (v : Hank) :
    (s.startSave v).Saving task wid := by
  cases hs : s.freeFrames with
  | nil =>
    unfold State.startSave
    simpa only [hs] using h
  | cons f fs =>
    obtain ⟨n, heq⟩ := State.startSave_eq hs v
    rw [heq]
    exact State.Saving.modHank (s := s.takeFrame f) h _ _ (fun _ => ⟨rfl, rfl⟩) fun _ _ _ => ⟨rfl, rfl⟩

/-- A name stays. -/
theorem State.findHank_startSave {s : State} {v y x : Hank} (hx : s.findHank y.task y.wid = some x) :
    ∃ z, (s.startSave v).findHank y.task y.wid = some z := by
  cases hs : s.freeFrames with
  | nil =>
    refine ⟨x, ?_⟩
    unfold State.startSave
    simpa only [hs] using hx
  | cons f fs =>
    obtain ⟨n, heq⟩ := State.startSave_eq hs v
    rw [heq, State.findHank_modHank_any]
    · exact ⟨_, congrArg (Option.map _) hx⟩
    · exact fun _ => ⟨rfl, rfl⟩

theorem State.Saving.foldl_startSave {task : Nat} {wid : Word} (vs : List Hank) : ∀ {s : State}, s.Saving task wid →
    (vs.foldl State.startSave s).Saving task wid := by
  induction vs with
  | nil => exact fun h => h
  | cons v vs ih => exact fun h => ih (h.startSave v)

/-- Victims that do not outnumber the free frames are all saved (R187, R196). -/
theorem State.saving_foldl_startSave (vs : List Hank) : ∀ (s : State), vs.length ≤ s.freeFrames.length →
    (∀ v ∈ vs, ∃ x, s.findHank v.task v.wid = some x) → ∀ v ∈ vs, (vs.foldl State.startSave s).Saving v.task v.wid := by
  induction vs with
  | nil => intro s _ _ v hv; cases hv
  | cons w vs ih =>
    intro s hlen hnamed v hv
    rcases hfr : s.freeFrames with _ | ⟨f, fs⟩
    · rw [hfr] at hlen
      cases hlen
    · rw [hfr] at hlen
      rcases List.mem_cons.1 hv with rfl | hv
      · obtain ⟨x, hx⟩ := hnamed v List.mem_cons_self
        exact (State.saving_startSave hfr hx).foldl_startSave vs
      · refine ih _ ?_ (fun y hy => ?_) v hv
        · rw [State.freeFrames_startSave hfr]
          exact Nat.le_of_succ_le_succ hlen
        · obtain ⟨x, hx⟩ := hnamed y (List.mem_cons_of_mem w hy)
          exact State.findHank_startSave hx

/-- Victims are marked for a skein. -/
theorem State.Saving.foldl_claim {task : Nat} {wid : Word} (hs : List Hank) : ∀ {s : State}, s.Saving task wid →
    (hs.foldl (fun t m => t.modHank m.task m.wid fun x => { x with claim := true }) s).Saving task wid := by
  induction hs with
  | nil => exact fun h => h
  | cons m hs ih =>
    exact fun h => ih (h.modHank m.task m.wid (fun _ => ⟨rfl, rfl⟩) fun _ hst hfr => ⟨hst, hfr⟩)

/-- A READY skein that its bobbin cannot bind takes its victims (R187). -/
theorem exec_preempt {s : State} {task : Nat} {wid : Word} {h : Hank} {vs : List Hank} (hh : s.findHank task wid = some h)
    (hin : s.skeinIn h .ready = true) (hb : s.bindable h = false) (hc : h.claim = false)
    (hvs : s.takeVictims h (s.victimOrder h) [] = some vs) :
    exec (.preempt task wid) s = .next ((s.skeinOf h).foldl (fun t m => t.modHank m.task m.wid fun x => { x with claim := true })
      (vs.foldl State.startSave s)) := by
  have hst : h.state = .ready := State.state_of_skeinIn (State.findHank_mem hh) hin
  show execPreempt task wid s = _
  unfold execPreempt State.preempt
  simp only [hh, hst, hin, hb, hc, hvs, reduceCtorEq, if_false, Bool.not_false, Bool.false_and, Bool.and_self, if_true]

/-! ### The completion of a save -/

section
variable {s : State} {slot : Nat} {h : Hank} {f : Nat} (hh : s.hankAt slot = some h) (hst : h.state = .saving) (hf : h.frame = some f)
  (hev : (s.ctx slot).event = none) (hw : (s.ctx slot).waiting = []) (hd : (s.ctx slot).dying = none)
  (hfat : (s.ctx slot).heldFatal = false) (hcq : ∀ p ∈ (s.ctx slot).cq, p.2 = [])
include hh hst hf hev hw hd hfat hcq

/-- Once nothing of the context is under way, its frame decides (R188, R451). -/
theorem State.completeSave_of :
    s.completeSave slot =
      if s.frameInHbm f = false then s.terminate slot (s.frameRec slot 0x0220 f)
      else if (s.frameWait f (s.frameSections slot (s.ctx slot).provisional)).isSome = true then s
      else if s.frameErrors f (s.frameSections slot (s.ctx slot).provisional) = [] then s.suspend h slot f
      else ((s.frameErrors f (s.frameSections slot (s.ctx slot).provisional)).foldl (fun t b => t.scrub (512 * b)) s).terminate slot
        (s.frameRec slot 0x0220 f) := by
  have hall : ((s.ctx slot).cq.all fun p => p.2.isEmpty) = true := by simpa using hcq
  unfold State.completeSave
  simp only [hh, hst, hf, hev, hw, hd, hfat, hall, Option.isNone_none, List.isEmpty_nil, Bool.not_false, Bool.and_self, if_true,
    Bool.not_eq_true']
  cases s.frameErrors f (s.frameSections slot (s.ctx slot).provisional) <;> rfl

end

/-- A suspended hank keeps its frame and leaves its slot free (R188). -/
theorem State.suspend_spec {s : State} {h : Hank} (hh : s.findHank h.task h.wid = some h) (slot f : Nat) :
    (s.suspend h slot f).ctx slot = .free ∧ ∃ x, (s.suspend h slot f).findHank h.task h.wid = some x
      ∧ x.state = .suspended ∧ x.slot = none ∧ x.suspendedAt = s.timeNs ∧ x.frame = h.frame := by
  have hperf := keepsHanks_performAll s slot
  have hsave := hperf.trans (keepsHanks_saveFrame _ slot f ((s.performAll slot).ctx slot).provisional)
  refine ⟨by simp only [State.suspend, State.ctx_modHank, State.freeSlot, State.ctx_setCtx_same], ?_⟩
  rw [State.suspend, State.findHank_modHank]
  · rw [State.freeSlot, State.findHank_setCtx, State.freeBanks, State.findHank_setBanks, hsave.findHank, hh]
    exact ⟨_, rfl, rfl, rfl, hperf.timeNs, rfl⟩
  · exact fun _ => ⟨rfl, rfl⟩

/-! ### Resuming -/

/-- Every hank of a name is in bobbin `b` and runs, or has ended. -/
def State.Resumed (s : State) (b task : Nat) (wid : Word) : Prop :=
  ∀ x ∈ s.hanks, x.task = task → x.wid = wid → x.bobbin = b ∧ (x.state = .running ∨ x.state = .ending)

theorem State.Resumed.hanksFrom {s t : State} {b task : Nat} {wid : Word} (h : s.Resumed b task wid) (k : HanksFrom s t) :
    t.Resumed b task wid := fun x hx ht hw => by
  obtain ⟨y, hy, heq⟩ := k x hx
  rw [heq] at ht hw ⊢
  exact h y hy ht hw

theorem State.Resumed.endingIfIdle {s : State} {b task : Nat} {wid : Word} (h : s.Resumed b task wid) (k : Nat) :
    (s.endingIfIdle k).Resumed b task wid := by
  unfold State.endingIfIdle
  split
  · split
    · split
      · intro x hx ht hw
        obtain ⟨y, hy, ⟨-, -, rfl⟩ | ⟨-, rfl⟩⟩ := State.mem_modHank hx
        · exact ⟨(h y hy ht hw).1, .inr rfl⟩
        · exact h x hy ht hw
      · exact h
    · exact h
  · exact h

/-- An update that makes the hanks of a name run in a bobbin. -/
theorem State.resumed_modHank (s : State) (b task : Nat) (wid : Word) {f : Hank → Hank}
    (hf : ∀ h, (f h).bobbin = b ∧ (f h).state = .running) : (s.modHank task wid f).Resumed b task wid := by
  intro x hx ht hw
  obtain ⟨y, -, ⟨-, -, rfl⟩ | ⟨hne, rfl⟩⟩ := State.mem_modHank hx
  · exact ⟨(hf y).1, .inl (hf y).2⟩
  · exact absurd ⟨ht, hw⟩ hne

/-- A hank whose frame has been read runs in the bobbin chosen for it, or has ended at once (R194). -/
theorem State.restore_resumed {s u : State} {b : Nat} {m h : Hank} {k f : Nat} (hh : s.findHank m.task m.wid = some h)
    (hk : h.slot = some k) (hf : h.frame = some f) (hu : s.restore b m = some u) : u.Resumed b m.task m.wid := by
  obtain ⟨ht, hw⟩ := State.findHank_name hh
  unfold State.restore at hu
  simp only [hh, hk, hf] at hu
  split at hu
  · cases hu
  · cases hu
    rw [← ht, ← hw]
    split
    · refine State.Resumed.hanksFrom ?_ (hanksFrom_terminate _ k _)
      exact State.resumed_modHank _ b h.task h.wid fun _ => ⟨rfl, rfl⟩
    · refine State.Resumed.endingIfIdle ?_ k
      exact State.resumed_modHank _ b h.task h.wid fun _ => ⟨rfl, rfl⟩

/-- A suspended hank without a skein that is first in every order is restored in its slot (R194). -/
theorem exec_resume {s : State} {task : Nat} {wid : Word} {h : Hank} {t : Task} {b k : Nat} (hh : s.findHank task wid = some h)
    (ht : s.findTask h.task = some t) (hsk : s.skeinOf h = [h]) (hst : h.state = .suspended) (hb : s.resumeBobbin h = some b)
    (hbid : s.outbid b [h] h.cls (some h.suspendedAt) = false) (hpick : s.pickSlot b (s.resumeDemand t h) = some k) :
    exec (.resume task wid) s = .next (((s.claimSlot t h k).restore b h).getD s) := by
  have hin : s.skeinIn h .suspended = true := by simp [State.skeinIn, hsk, hst]
  have hplace : s.placeSuspended b [h] = some (s.claimSlot t h k) := by simp [State.placeSuspended, ht, hpick]
  show execResume task wid s = _
  unfold execResume State.resume
  simp only [hh, hin, if_true, hb, hsk, State.skeinClass_alone hsk, hbid, hplace, List.foldlM_cons, List.foldlM_nil, bind_pure,
    Bool.false_eq_true, if_false]

theorem State.findHank_claimSlot {s : State} {h : Hank} (t : Task) (hh : s.findHank h.task h.wid = some h) (k : Nat) :
    (s.claimSlot t h k).findHank h.task h.wid = some { h with slot := some k } := by
  rw [State.claimSlot, State.findHank_modHank]
  · simp [hh]
  · exact fun _ => ⟨rfl, rfl⟩

/-- Settles O49: a save needs a frame, of which each victim finds one; what the save and the end of a context do beside leaves every
other field of the hanks as it is. -/
theorem preemptionAndResumption : Obligations.PreemptionAndResumption := by
  intro s task wid h hh
  refine ⟨?preempt, ?save, ?resume, ?age⟩
  case preempt =>
    intro vs hin hb hc hvs
    refine ⟨_, exec_preempt hh hin hb hc hvs, fun v hv => ?_⟩
    have hsaving := State.saving_foldl_startSave vs s (State.takeVictims_spec _ _ hvs).1
      (fun y hy => State.findHank_of_mem (State.victims_hanks hvs y hy)) v hv
    exact hsaving.foldl_claim _
  case save =>
    intro slot f hat hst hf hev hw hd hfat hcq
    have hexec : exec (.saveComplete slot) s = .next (s.completeSave slot) := rfl
    have hcase := State.completeSave_of hat hst hf hev hw hd hfat hcq
    refine ⟨fun hin hwait herr => ?_, fun hin hwait => ?_, fun hin hwait herr => ?_, fun hin => ?_⟩
    · obtain ⟨hctx, x, hx, hsus, hslot, hat, hfr⟩ := State.suspend_spec (State.hankAt_some hat).2 slot f
      refine ⟨_, x, ?_, hctx, hx, hsus, hslot, hat, hfr.trans hf⟩
      rw [hexec, hcase]
      simp [hin, hwait, herr]
    · rw [hexec, hcase]
      simp [hin, hwait]
    · rw [hexec, hcase]
      simp [hin, hwait, herr]
    · rw [hexec, hcase]
      simp [hin]
  case resume =>
    intro t f b k ht hsk hst hf hb hbid hpick
    have hexec := exec_resume hh ht hsk hst hb hbid hpick
    obtain ⟨rfl, rfl⟩ := State.findHank_name hh
    cases hr : (s.claimSlot t h k).restore b h with
    | none => rwa [hr] at hexec
    | some u =>
      rw [hr] at hexec
      have hres := State.restore_resumed (State.findHank_claimSlot t hh k) rfl hf hr
      exact ⟨hexec, fun x hx => hres x (State.findHank_mem hx) (State.findHank_name hx).1 (State.findHank_name hx).2⟩
  case age =>
    intro hst hdue hcls
    refine ⟨s.age task wid, rfl, ?_⟩
    rw [State.age, State.findHank_modHank]
    · rw [hh, Option.map_some, if_pos ⟨hst, hdue, hcls⟩]
    · intro y
      split <;> exact ⟨rfl, rfl⟩

end Sys2Proof.Machine
end

section
/-! PROOFS. QPOPV of an entry whose COUNT no VL holds (R300): in the model the capacity of a context is a number without a bound, and so
is VLMAX (R113, R114). -/

namespace Sys2Proof.Machine

/-! ### A pop whose COUNT is wider than VL -/

/-- An entry of 2^64 FP32 elements, of which none is present (R65). -/
def wideEntry : QEntry :=
  { scal := false, eos := false, count := 2 ^ 64, strip := { tag := { fmt := Fmt.fp32, vsum := vsVacant, blk := 0 }, elems := [], scales := [] }
    present := [], missing := [], inUse := false }

/-- The V cluster of a context of capacity 2^54, whose queue 1 holds the entry. -/
def wideContext : State :=
  { State.reset with
    cur := .cluster 0 .V
    ctxs := [(0, { Ctx.free with
      vcap := 2 ^ 54, queues := [(1, { Queue.initial with cons := queueCode .V, nb := 1, entries := [wideEntry] })] })] }

/-- The entry is as long as the register file (R58, R114). -/
theorem wideContext_vlmax : wideContext.vlmax Fmt.fp32 = 2 ^ 64 := by decide +kernel

/-- The pop completes, and VL takes the low 64 bits of COUNT, which are 0. -/
theorem wideContext_popped : ∃ t, exec (.qpopv ⟨false, 7⟩ 1 1) wideContext = .next t ∧ t.me.vl = 0 := by
  refine ⟨_, rfl, ?_⟩
  decide +kernel

/-- Refutes O22: QPOPV of an entry of 2^64 elements completes where VLMAX admits them, and VL, a word of 64 bits, cannot equal its COUNT.
The statement does not confine the capacity to the values of R113, with which VLMAX is far below 2^64. -/
theorem not_codebooksAndVectorPops : ¬ Obligations.CodebooksAndVectorPops := by
  rintro ⟨-, hpop⟩
  obtain ⟨u, hexec, ⟨hframe, -⟩, hcount, -⟩ := hpop wideContext 0 ⟨false, 7⟩ 1 1 wideEntry rfl (by decide +kernel) (by decide +kernel)
    (by decide +kernel) rfl wideContext_vlmax.ge
  obtain ⟨t, ht, hvl⟩ := wideContext_popped
  have hcur : u.cur = .cluster 0 .V := by rw [hframe]; rfl
  have hzero : u.vl = 0 := by
    have hu : t = u.retire 4 := Host.Outcome.next.inj (ht.symm.trans hexec)
    rw [hu, State.retire, State.me_modMe, Cluster.retire_vl, State.me_of_cluster hcur] at hvl
    rw [State.vl, State.myCtx_of_cluster hcur]
    exact congrArg BitVec.toNat hvl
  rw [hzero] at hcount
  exact absurd hcount (by decide)

end Sys2Proof.Machine
end

section
/-! PROOFS. COPY_COMMAND_COMPLETE after a store that waits: the engines clear the executing cluster's mark that its stores are performed
later (R138, R150), which the frame of `CopyQueuesBecome` does not admit. -/

namespace Sys2Proof.Machine

/-! ### A command that completes while a store waits -/

/-- A COPY whose every chunk has been performed, at the head of its queue; it names no signal word. -/
def doneCopy : CopyCmd :=
  { pc := 0, dst := 0, src := 512, len := 64, cb := 0, scope := 0, signal := none, dstSp := false, srcSp := false, rows := 1, sstr := 0, dstr := 0
    started := true, chunks := [], zeroed := [], pzs := false, stalled := false, stopChunk := none }

/-- The copy in cq0 of a context whose A cluster has executed last: it waits for a line that it has met in TRANSIT, at a store that is to
be performed later (R70, R138). -/
def waitingStore : State :=
  { State.reset with
    cur := .cluster 0 .A
    ctxs := [(0, { Ctx.free with
      hank := some (0, 0), a := { Cluster.initial with run := .waiting, wait := some (.transit 0), late := true }, cq := [(0, [.cmd doneCopy])] })] }

theorem waitingStore_head : (waitingStore.ctx 0).copyQueue 0 = [.cmd doneCopy] := rfl

/-- The command leaves its queue, and the A cluster's mark that its store is performed later has gone with it. -/
theorem waitingStore_after : ∃ t, exec (.copyCommandComplete 0 0) waitingStore = .next t ∧ (t.ctx 0).a.late = false := by
  refine ⟨_, rfl, ?_⟩
  decide +kernel

/-- Refutes O51: before a command completes, `State.prompt` clears the executing cluster's mark that its stores are performed later, where
the clause of a command without a signal word lets nothing but copy queues change. That clause lacks the hypothesis on the mark that the
clauses of the chunk and of the signal word have. -/
theorem not_engines : ¬ Obligations.Engines := by
  intro h
  obtain ⟨hcopy, -⟩ := h waitingStore 0 0
  obtain ⟨-, hstarted⟩ := hcopy doneCopy [] waitingStore_head (by decide +kernel)
  obtain ⟨-, hdone⟩ := hstarted rfl rfl
  obtain ⟨hleaves, -⟩ := hdone rfl rfl
  obtain ⟨u, hexec, -, -, hctx, -⟩ := hleaves rfl rfl rfl
  obtain ⟨t, ht, hlate⟩ := waitingStore_after
  have hu : t = u := Host.Outcome.next.inj (ht.symm.trans hexec)
  have hsame : (u.ctx 0).a.late = (waitingStore.ctx 0).a.late := by rw [hctx]
  rw [← hu, hlate] at hsame
  cases hsame

end Sys2Proof.Machine
end

section
/-! PROOFS. Vector instructions of one source: what they put at their active elements and what they deliver to scalar registers (special
functions, scans, the soft-max step, reductions and extraction; R88, R89, R93, R306, R309, R312 .. R314). -/

namespace Sys2Proof.Machine

/-! ### Active elements and what is put there -/

theorem State.mem_actives {s : State} {mask : BitVec 4} {j : Nat} : j ∈ s.actives mask ↔ s.active mask j = true := by
  simp only [State.actives, List.mem_filter, List.mem_range]
  exact ⟨And.right, fun h => ⟨active_lt h, h⟩⟩

theorem State.actives_sorted (s : State) (mask : BitVec 4) : (s.actives mask).Pairwise (· < ·) := List.pairwise_lt_range.filter _

/-- The list of what is put follows the active elements. -/
theorem putsAt_of_mem {is : List Nat} {j : Nat} (hj : j ∈ is) (ps : List Put) : putsAt is ps j = ps.getD (is.idxOf j) .supplied := by
  induction is generalizing ps with
  | nil => cases hj
  | cons i is ih =>
    cases ps with
    | nil => rfl
    | cons p ps =>
      by_cases hij : i = j
      · subst hij; simp [putsAt]
      · have hmem : j ∈ is := (List.mem_cons.1 hj).resolve_left (Ne.symm hij)
        rw [List.idxOf_cons_ne _ hij, Nat.succ_eq_add_one, List.getD_cons_succ, ← ih hmem]
        simp [putsAt, hij]

theorem putsAt_map {is : List Nat} {j : Nat} (hj : j ∈ is) (f : Nat → Put) : putsAt is (is.map f) j = f j := by
  rw [putsAt_of_mem hj]
  simp [List.getD, List.getElem?_idxOf hj]

/-! ### Sources and checks -/

/-- One field gives one source. -/
theorem State.Opens.single {s : State} {f : VField} {ds : List VField} {xs : List VSrc} (h : s.Opens [f] ds xs) : ∃ x, xs = [x] := by
  obtain ⟨-, -, hread⟩ := h
  cases hread with
  | cons _ ht => cases ht; exact ⟨_, rfl⟩

/-- Sources that can be read are read, whatever would have been checked while one was empty. -/
theorem openVec_ok_pre {s : State} {srcs dsts : List VField} {xs : List VSrc} (h : s.Opens srcs dsts xs)
    (pre : List VSrc → List (Bool × Stop)) : s.openVec srcs dsts pre = .ok xs := by
  obtain ⟨-, hqueues, hread⟩ := h
  unfold State.openVec
  rw [firstOf_ok hqueues, mapM_ok hread]
  rfl

/-- VL fits the result's format, and the destination may keep its masked-off elements. -/
theorem State.DestFits.allowed {s : State} {d : VField} {m : VMods} {f : Fmt} (h : s.DestFits d m f) (n : Nat) :
    Allowed [s.vlCheck f n] ∧ Allowed [s.keepCheck d m.z (s.active m.mask) f] :=
  ⟨allowed_cons.2 ⟨decide_eq_true h.1, allowed_nil⟩, allowed_cons.2 ⟨h.2, allowed_nil⟩⟩

theorem allowed_fmtCheck {x : VSrc} {ok : Fmt → Bool} (h : ok x.fmt = true) : Allowed ([x].map fun y => fmtCheck y ok) :=
  allowed_cons.2 ⟨h, allowed_nil⟩

/-- A settled instruction that ends by writing a vector result. -/
theorem settle_writeVec {s : State} {g : Guard} {len : Nat} {F : State → Except Stop State} {d : VField} {m : VMods} {pops : List Nat}
    {r : VResult} (hc : s.isSup = false) (hg : s.guardTrue g = true) (hw : s.Whole)
    (hF : F s = s.writeVec d m.z (s.active m.mask) pops r) (hroom : s.DestRoom d pops r.fmt)
    (hlive : ∀ j, s.active m.mask j = true → (r.put j).live = true) :
    ∃ u, settle g len F s = .next (u.retire len) ∧ VecWritten s u d m pops r := by
  obtain ⟨u, hu, hwritten⟩ := writeVec_spec s hw hc d m pops r hroom hlive
  exact ⟨u, settle_ok hg (hF.trans hu), hwritten⟩

/-! ### Special functions (R93, R306) -/

/-- What is put at an element: the function of the element's FP32 value, rounded to FP32. -/
def funcPut (f : Val → Val × Flags) (x : Strip) (j : Nat) : Put := .value (rnOf (f (rn (x.val j)).1.val)).1.val

theorem polyFunc_checks {s : State} {d : VField} {m : VMods} {x : VSrc} (hs : s.SourcesFit [x]) (hv : x.fmt ≠ Fmt.vq2)
    (hi : x.fmt.isInt = false) (hl : (s.lookup x.fmt x.fmt).act ≠ .forbidden) (hd : s.DestFits d m (s.poly [x.fmt] m.ovr).result) :
    Allowed (s.polyAll d m [x] (s.poly [x.fmt] m.ovr) fun t => t != Fmt.vq2 && !t.isInt) := by
  have hact : (s.poly [x.fmt] m.ovr).act ≠ .forbidden := hl
  have hpoly : Allowed (s.polyChecks (s.poly [x.fmt] m.ovr)) := by
    have : ((s.lookup x.fmt x.fmt).act != .forbidden) = true := bne_iff_ne.2 hl
    exact allowed_cons.2 ⟨this, allowed_nil⟩
  obtain ⟨hvl, hkeep⟩ := hd.allowed 0
  unfold State.polyAll
  rw [if_neg hact, if_neg hact]
  simp only [allowed_append]
  exact ⟨⟨⟨⟨⟨vlChecks_ok hs, hvl⟩, allowed_fmtCheck (by simp [hv, hi])⟩, hkeep⟩, countChecks_ok hs⟩, hpoly⟩

/-- The result of a special function (R306). -/
def State.funcResult (s : State) (f : Val → Val × Flags) (m : VMods) (x : VSrc) : VResult :=
  let is := s.actives m.mask
  { fmt := (s.poly [x.fmt] m.ovr).result, blk := polyBlk [x] (s.poly [x.fmt] m.ovr).result, rm := Rm.ofCode m.rm.toNat, ef := false
    vsum := computedVsum [x] is
    flags := scnOf x.strip is
      ||| Flags.all (is.map fun i => (rn (x.strip.val i)).2 ||| (rnOf (f (rn (x.strip.val i)).1.val)).2)
    put := putsAt is (is.map (funcPut f x.strip)) }

/-- A special function writes its result. -/
theorem polyFunc_writes {s : State} {d a : RegF} {m : VMods} {x : VSrc} (f : Val → Val × Flags)
    (ho : s.Opens [fieldA a m] [fieldD d m] [x])
    (hchk : Allowed (s.polyAll (fieldD d m) m [x] (s.poly [x.fmt] m.ovr) fun t => t != Fmt.vq2 && !t.isInt)) :
    polyFunc f d a m s = s.writeVec (fieldD d m) m.z (s.active m.mask) (queuesOf [fieldA a m]) (s.funcResult f m x) := by
  unfold polyFunc
  rw [openVec_ok ho]
  show (firstOf (s.polyAll (fieldD d m) m [x] (s.poly [x.fmt] m.ovr) fun t => t != Fmt.vq2 && !t.isInt)).bind _ = _
  rw [firstOf_ok hchk]
  unfold State.funcResult
  simp only [Except.bind, List.map_map]
  rfl

theorem funcDone_of {s : State} {i : Instr} {f : Val → Val × Flags} {g : Guard} {d a : RegF} {m : VMods} {len : Nat}
    (hc : s.isSup = false) (hg : s.guardTrue g = true) (hi : exec i s = settle g len (polyFunc f d a m) s) : FuncDone s i f d a m len := by
  intro x ho hs hv hint hl hd hroom
  have hput : ∀ j, s.active m.mask j = true → (s.funcResult f m x).put j = funcPut f x.strip j :=
    fun j hj => putsAt_map (State.mem_actives.2 hj) _
  obtain ⟨u, hu, hwritten⟩ := settle_writeVec (len := len) hc hg ho.1 (polyFunc_writes f ho (polyFunc_checks hs hv hint hl hd)) hroom
    fun j hj => by rw [hput j hj]; rfl
  exact ⟨u, _, hi.trans hu, hwritten, rfl, rfl, rfl, rfl, hput⟩

/-- Settles O11: the four functions are one meaning with another function in it. -/
theorem vectorFunctions : Obligations.VectorFunctions := by
  intro p hp s slot g d a hc hg
  have hsup := State.isSup_of_cluster hc
  simp only [vecFuncs, List.mem_cons, List.not_mem_nil, or_false] at hp
  rcases hp with rfl | rfl | rfl | rfl <;> exact ⟨funcDone_of hsup hg rfl, fun m => funcDone_of hsup hg rfl⟩

end Sys2Proof.Machine
end

section
/-! PROOFS. Scans and the soft-max step (R89, R312, R314). -/

namespace Sys2Proof.Machine

/-! ### Prefix sums -/

/-- The prefix sums of integers, as they follow one another, are the sums of the first elements. -/
theorem scanInt_getD (l : List Int) : ∀ (p : Int) (k : Nat), k < l.length → (scanInt p l).getD k 0 = p + (l.take (k + 1)).sum := by
  induction l with
  | nil => intro p k hk; cases hk
  | cons x t ih =>
    intro p k hk
    cases k with
    | zero => simp [scanInt]
    | succ k =>
      rw [scanInt, List.getD_cons_succ, ih _ _ (Nat.lt_of_succ_lt_succ hk), List.take_succ_cons, List.sum_cons, Int.add_assoc]

theorem scanInt_length (l : List Int) : ∀ p : Int, (scanInt p l).length = l.length := by
  induction l with
  | nil => exact fun _ => rfl
  | cons x t ih => exact fun p => congrArg (· + 1) (ih (p + x))

/-- Of a list that rises strictly, the elements up to one of them are a first part. -/
theorem filter_le_of_sorted {l : List Nat} (hl : l.Pairwise (· < ·)) {j : Nat} (hj : j ∈ l) :
    l.filter (· ≤ j) = l.take (l.idxOf j + 1) := by
  induction l with
  | nil => cases hj
  | cons a t ih =>
    obtain ⟨hlt, ht⟩ := List.pairwise_cons.1 hl
    by_cases ha : a = j
    · subst ha
      have hnone : t.filter (· ≤ a) = [] := List.filter_eq_nil_iff.2 fun x hx => by simpa using hlt x hx
      simp [hnone]
    · have hmem : j ∈ t := (List.mem_cons.1 hj).resolve_left (Ne.symm ha)
      rw [List.idxOf_cons_ne _ ha, List.take_succ_cons, ← ih ht hmem, List.filter_cons_of_pos]
      simpa using (hlt j hmem).le

theorem getD_map_of_lt {α β : Type} {l : List α} {k : Nat} (h : k < l.length) (f : α → β) (d : β) (e : α) :
    (l.map f).getD k d = f (l.getD k e) := by simp [List.getD, h]

/-- The value after `x` in a real scan, `p` being the one before, if any (R89). -/
def scanNext (f : Fmt) (p : Option Val) (x : Val) : Val :=
  decodeElem f (roundTo f .rne (p.elim x fun q => (Val.add .rne q x).1)).1 0x7F

theorem scanReal_cons (f : Fmt) (p : Option Val) (x : Val) (t : List Val) (fl : Flags) :
    ∃ fl', ((scanReal f p (x :: t)).run fl).1 = scanNext f p x :: ((scanReal f (some (scanNext f p x)) t).run fl').1 := by
  cases p <;> exact ⟨_, rfl⟩

theorem scanReal_length (f : Fmt) (l : List Val) : ∀ (p : Option Val) (fl : Flags), ((scanReal f p l).run fl).1.length = l.length := by
  induction l with
  | nil => intro p fl; cases p <;> rfl
  | cons x t ih =>
    intro p fl
    obtain ⟨fl', h⟩ := scanReal_cons f p x t fl
    rw [h, List.length_cons, ih, List.length_cons]

/-- Each prefix sum follows from the one before. -/
theorem scanReal_getD (f : Fmt) (l : List Val) : ∀ (p : Option Val) (fl : Flags) (k : Nat), k < l.length →
    (((scanReal f p l).run fl).1).getD k .zero
      = scanNext f (if k = 0 then p else some ((((scanReal f p l).run fl).1).getD (k - 1) .zero)) (l.getD k .zero) := by
  induction l with
  | nil => intro p fl k hk; cases hk
  | cons x t ih =>
    intro p fl k hk
    obtain ⟨fl', h⟩ := scanReal_cons f p x t fl
    rw [h]
    cases k with
    | zero => rfl
    | succ k =>
      rw [List.getD_cons_succ, List.getD_cons_succ, ih _ _ _ (Nat.lt_of_succ_lt_succ hk)]
      cases k <;> rfl

/-! ### VSCAN (R314) -/

/-- The code of an integer modulo 2^n. -/
theorem ofNat_wrapCode (n : Nat) (x : Int) : BitVec.ofNat 64 (wrapCode n x) = BitVec.ofInt 64 (x % 2 ^ n) := by
  rw [← BitVec.ofInt_natCast, wrapCode, Int.toNat_of_nonneg (Int.emod_nonneg x (by positivity))]

/-- What VSCAN puts at the active elements, in order. -/
def State.scanned (s : State) (m : VMods) (x : Strip) : List Put × Flags :=
  let is := s.actives m.mask
  if (scanFmt x.tag.f).isInt then
    ((scanInt 0 (is.map fun i => (x.val i).toInt)).map fun n => .move (BitVec.ofNat 64 (wrapCode (scanFmt x.tag.f).width n)) 0x7F, 0)
  else
    let t := (scanReal (scanFmt x.tag.f) none (is.map x.val)).go
    (t.1.map .value, t.2 ||| scnOf x is)

/-- The result of VSCAN. -/
def State.scanResult (s : State) (m : VMods) (xs : List VSrc) : VResult :=
  let x := stripOf xs 0
  { fmt := scanFmt x.tag.f, blk := 0, rm := Rm.ofCode m.rm.toNat, ef := false, vsum := computedVsum xs (s.actives m.mask)
    flags := (s.scanned m x).2, put := putsAt (s.actives m.mask) (s.scanned m x).1 }

/-- The checks of VSCAN. -/
def State.scanChecks (s : State) (d : RegF) (m : VMods) (xs : List VSrc) : List (Bool × Stop) :=
  s.vlChecks xs ++ [s.vlCheck (scanFmt (stripOf xs 0).tag.f) 0] ++ xs.map (fun y => fmtCheck y fun t => t != Fmt.vq2 && t != Fmt.none)
    ++ [s.keepCheck (fieldD d m) m.z (s.active m.mask) (scanFmt (stripOf xs 0).tag.f)] ++ s.countChecks xs

theorem scanVec_run {s : State} {d a : RegF} {m : VMods} {xs : List VSrc} (h : s.openVec [fieldA a m] [fieldD d m] = .ok xs) :
    scanVec d a m s = (firstOf (s.scanChecks d m xs)).bind fun _ =>
      s.writeVec (fieldD d m) m.z (s.active m.mask) (queuesOf [fieldA a m]) (s.scanResult m xs) := by
  unfold scanVec
  rw [h]
  cases xs <;> rfl

theorem scanFmt_isInt (f : Fmt) : (scanFmt f).isInt = f.isInt := by
  unfold scanFmt
  by_cases h : f = Fmt.fp64
  · simp [h]
  · cases hi : f.isInt with
    | true => simp [hi]
    | false => simp [h]; rfl

theorem scanFmt_of_isInt {f : Fmt} (h : f.isInt = true) : scanFmt f = f := by simp [scanFmt, h]

section
variable (s : State) (m : VMods) (xs : List VSrc)

/-- Integers take their running sums, wrapped to the width. -/
theorem scanResult_int (hi : (srcFmt xs).isInt = true) {j : Nat} (hj : s.active m.mask j = true) :
    (s.scanResult m xs).put j = .move (BitVec.ofInt 64 ((((s.actives m.mask).filter (· ≤ j)).map fun k => ((stripOf xs 0).val k).toInt).sum
      % 2 ^ (srcFmt xs).width)) 0x7F := by
  have hmem := State.mem_actives.2 hj
  have hk := List.idxOf_lt_length_of_mem hmem
  have hf : scanFmt (stripOf xs 0).tag.f = srcFmt xs := scanFmt_of_isInt hi
  have hput : (s.scanResult m xs).put j = _ := putsAt_of_mem hmem (s.scanned m (stripOf xs 0)).1
  have hlen : ∀ l : List Int, l.length = (s.actives m.mask).length → (s.actives m.mask).idxOf j < (scanInt 0 l).length :=
    fun l hl => by rw [scanInt_length, hl]; exact hk
  rw [hput, State.scanned, hf, if_pos hi, filter_le_of_sorted (s.actives_sorted m.mask) hmem,
    getD_map_of_lt (hlen _ (List.length_map ..)) _ _ 0, scanInt_getD _ _ _ (by rwa [List.length_map]), Int.zero_add, List.map_take]
  exact congrArg (Put.move · 0x7F) (ofNat_wrapCode _ _)

/-- Reals take their prefix sums, each rounded once (R89). -/
theorem scanResult_real (hi : (srcFmt xs).isInt = false) : ∃ y, Scanned (s.scanResult m xs).fmt (stripOf xs 0).val (s.actives m.mask) y
    ∧ ∀ j, s.active m.mask j = true → (s.scanResult m xs).put j = .value (y j) := by
  have hf : (scanFmt (stripOf xs 0).tag.f).isInt = false := (scanFmt_isInt _).trans hi
  generalize hv : (scanReal (scanFmt (stripOf xs 0).tag.f) none ((s.actives m.mask).map (stripOf xs 0).val)).go = v
  have hlen : v.1.length = (s.actives m.mask).length := by
    rw [← hv]; exact (scanReal_length ..).trans (List.length_map ..)
  refine ⟨fun j => v.1.getD ((s.actives m.mask).idxOf j) .zero, fun k hk => ?_, fun j hj => ?_⟩
  · have hidx : ∀ n, n < (s.actives m.mask).length → (s.actives m.mask).idxOf ((s.actives m.mask).getD n 0) = n := fun n hn => by
      rw [List.getD_eq_getElem _ _ hn]
      exact List.Nodup.idxOf_getElem ((s.actives_sorted m.mask).imp Nat.ne_of_lt) n hn
    have hstep := scanReal_getD (scanFmt (stripOf xs 0).tag.f) ((s.actives m.mask).map (stripOf xs 0).val) none 0 k (by simpa using hk)
    dsimp only
    rw [hidx k hk, hidx (k - 1) (by omega)]
    change v.1.getD k .zero = _
    rw [← hv]
    refine hstep.trans ?_
    rw [getD_map_of_lt hk _ _ 0]
    by_cases h0 : k = 0
    · subst h0; rfl
    · rw [if_neg h0, if_neg h0]; rfl
  · have hmem := State.mem_actives.2 hj
    have hput : (s.scanResult m xs).put j = _ := putsAt_of_mem hmem (s.scanned m (stripOf xs 0)).1
    rw [hput, State.scanned, hf, if_neg Bool.false_ne_true, hv]
    exact getD_map_of_lt (by rw [hlen]; exact List.idxOf_lt_length_of_mem hmem) _ _ _
end

theorem vecDone_scan {s : State} {i : Instr} {g : Guard} {d a : RegF} {m : VMods} {len : Nat} (hc : s.isSup = false)
    (hg : s.guardTrue g = true) (hi : exec i s = settle g len (scanVec d a m) s) :
    VecDone s i [fieldA a m] (fieldD d m) m len
      (fun xs => srcFmt xs ≠ Fmt.vq2 ∧ srcFmt xs ≠ Fmt.none ∧ s.vl ≤ s.vlmax (scanFmt (srcFmt xs))) (fun xs => scanFmt (srcFmt xs))
      fun xs r => r = s.scanResult m xs := by
  refine vecDone_of (f := scanVec d a m) (s.scanChecks d m) (s.scanResult m) hc (fun t ht => hi.trans (settle_ok hg ht))
    (fun xs h => scanVec_run h) fun xs ho hs hok hd => ?_
  obtain ⟨x, rfl⟩ := ho.single
  obtain ⟨hvq, hnone, hvl⟩ := hok
  obtain ⟨hvlf, hkeep⟩ := hd.allowed 0
  refine ⟨?checks, rfl, fun j hj => ?live, rfl⟩
  case checks =>
    unfold State.scanChecks
    simp only [allowed_append]
    exact ⟨⟨⟨⟨vlChecks_ok hs, hvlf⟩, allowed_fmtCheck (by simpa using ⟨hvq, hnone⟩)⟩, hkeep⟩, countChecks_ok hs⟩
  case live =>
    cases hint : (srcFmt [x]).isInt with
    | true => rw [scanResult_int s m [x] hint hj]; rfl
    | false =>
      obtain ⟨y, -, hy⟩ := scanResult_real s m [x] hint
      rw [hy j hj]; rfl

/-- What holds of a vector instruction's results under stronger conditions holds as well of what follows from them. -/
theorem VecDone.imp {s : State} {i : Instr} {fs : List VField} {d : VField} {m : VMods} {len : Nat} {ok ok' : List VSrc → Prop}
    {f f' : List VSrc → Fmt} {spec spec' : List VSrc → VResult → Prop} (h : VecDone s i fs d m len ok f spec)
    (hok : ∀ xs, ok' xs → ok xs) (hf : ∀ xs, f xs = f' xs) (hspec : ∀ xs r, spec xs r → spec' xs r) :
    VecDone s i fs d m len ok' f' spec' := by
  intro xs ho hs hx hd hr
  rw [← hf xs] at hd hr
  obtain ⟨u, r, hu, hw, hfmt, hr⟩ := h xs ho hs (hok xs hx) hd hr
  exact ⟨u, r, hu, hw, hfmt.trans (hf xs), hspec xs r hr⟩

/-! ### VSSMX (R312) -/

/-- The elements, c, m′ and z′ that VSSMX computes; with VL 0 it computes none (R314). -/
def State.softmaxOf (s : State) (b : RegF) (m : VMods) (x : VSrc) : (List (Option F32) × F32 × F32 × F32) × Flags :=
  if s.vl = 0 then (([], 0x3F800000, (s.readS b).extractLsb' 0 32, (s.readS m.vc).extractLsb' 0 32), 0)
  else (softmax (s.positions m.mask fun i => (rn (x.strip.val i)).1) ((s.readS b).extractLsb' 0 32) ((s.readS m.vc).extractLsb' 0 32)).go

/-- The vector result of VSSMX. -/
def State.softmaxResult (s : State) (b : RegF) (m : VMods) (x : VSrc) : VResult :=
  let is := s.actives m.mask
  { fmt := Fmt.fp32, blk := 0, rm := Rm.ofCode m.rm.toNat, ef := false, vsum := computedVsum [x] is
    flags := scnOf x.strip is ||| Flags.all ((is.map fun i => rn (x.strip.val i)).map Prod.snd) ||| (s.softmaxOf b m x).2
    put := fun i => .value (F32.val (((s.softmaxOf b m x).1.1.getD i none).getD 0)) }

/-- The checks of VSSMX. -/
def State.softmaxChecks (s : State) (d : RegF) (m : VMods) (x : VSrc) : List (Bool × Stop) :=
  s.vlChecks [x] ++ [s.vlCheck Fmt.fp32 0] ++ [x].map (fun y => fmtCheck y fun f => f.isReal && f != Fmt.vq2)
    ++ [s.keepCheck (fieldD d m) m.z (s.active m.mask) Fmt.fp32] ++ s.countChecks [x]

/-- The scalar results of VSSMX. -/
def State.softmaxScalars (s u : State) (b : RegF) (m : VMods) (x : VSrc) : State :=
  let y := (s.softmaxOf b m x).1
  (u.writeS b (y.2.1 ++ y.2.2.1)).writeS m.vc (y.2.2.2.setWidth 64)

theorem softmaxVec_run {s : State} {d a b : RegF} {m : VMods} {x : VSrc} (ho : s.Opens [fieldA a m] [fieldD d m] [x]) :
    softmaxVec d a b m s = (firstOf (s.softmaxChecks d m x)).bind fun _ =>
      (s.writeVec (fieldD d m) m.z (s.active m.mask) (queuesOf [fieldA a m]) (s.softmaxResult b m x)).bind fun u =>
        .ok (s.softmaxScalars u b m x) := by
  unfold softmaxVec
  rw [openVec_ok_pre ho]
  rfl

theorem softmaxChecks_allowed {s : State} {d : RegF} {m : VMods} {x : VSrc} (hs : s.SourcesFit [x]) (hr : x.fmt.isReal = true)
    (hv : x.fmt ≠ Fmt.vq2) (hd : s.DestFits (fieldD d m) m Fmt.fp32) : Allowed (s.softmaxChecks d m x) := by
  obtain ⟨hvl, hkeep⟩ := hd.allowed 0
  unfold State.softmaxChecks
  simp only [allowed_append]
  exact ⟨⟨⟨⟨vlChecks_ok hs, hvl⟩, allowed_fmtCheck (by simpa using ⟨hr, hv⟩)⟩, hkeep⟩, countChecks_ok hs⟩

/-- Settles O16: each prefix sum follows from the one before, and VSSMX writes what its algorithm gives. -/
theorem vectorScan : Obligations.VectorScan := by
  refine ⟨fun s slot g d a hc hg => ?scan, fun s slot g d a b m x hc hg ho hs hr hv hd hroom => ?softmax⟩
  case scan =>
    intro f spec ok
    have hsup := State.isSup_of_cluster hc
    have hf : ∀ xs, scanFmt (srcFmt xs) = f xs := fun xs => by simp [f, scanFmt]
    have hspec : ∀ (m : VMods) (xs : List VSrc) (r : VResult), r = s.scanResult m xs → spec m xs r := by
      rintro m xs _ rfl
      refine ⟨rfl, rfl, ?_⟩
      cases hi : (srcFmt xs).isInt with
      | true => exact fun j hj => scanResult_int s m xs hi hj
      | false => exact scanResult_real s m xs hi
    have hok : ∀ xs, ok xs → srcFmt xs ≠ Fmt.vq2 ∧ srcFmt xs ≠ Fmt.none ∧ s.vl ≤ s.vlmax (scanFmt (srcFmt xs)) :=
      fun xs h => by rw [hf]; exact h
    exact ⟨(vecDone_scan hsup hg rfl).imp hok hf (hspec .short), fun m => (vecDone_scan hsup hg rfl).imp hok hf (hspec m)⟩
  case softmax =>
    intro m0 z0 y
    have hy : y = (s.softmaxOf b m x).1 := by
      simp only [y, m0, z0, BitVec.setWidth_eq_extractLsb' (by decide : 32 ≤ 64), State.softmaxOf]
      split <;> rfl
    obtain ⟨u, hu, hw⟩ := writeVec_spec s ho.1 (State.isSup_of_cluster hc) (fieldD d m) m (queuesOf [fieldA a m]) (s.softmaxResult b m x)
      hroom fun _ _ => rfl
    have hrun : softmaxVec d a b m s = .ok (s.softmaxScalars u b m x) := by
      rw [softmaxVec_run ho, firstOf_ok (softmaxChecks_allowed hs hr hv hd), hu]
      rfl
    have hexec : exec (.vssmx g d a b m) s = _ := settle_ok hg hrun
    rw [hy]
    exact ⟨u, s.softmaxResult b m x, _, hexec, hw, rfl, rfl, rfl, fun _ _ => rfl, rfl⟩

end Sys2Proof.Machine
end

section
/-! PROOFS. Reductions and extraction to a scalar register (R88, R309, R313). -/

namespace Sys2Proof.Machine

/-- A settled instruction that delivers one number into a scalar register. -/
theorem vecToScalar_of {s : State} {i : Instr} {g : Guard} {d : RegF} {f : VField} {len : Nat} {ok : Fmt → Prop} {val : Strip → Word × Flags}
    {F : State → Except Stop State} (hg : s.guardTrue g = true) (hi : exec i s = settle g len F s)
    (hF : ∀ x, s.Opens [f] [] [x] → s.SourcesFit [x] → ok x.fmt →
      F s = .ok (((s.popAll (queuesOf [f])).writeS d (val x.strip).1).orFlags (val x.strip).2)) :
    VecToScalar s i d f len ok val :=
  fun x ho hs hok => ⟨_, hi.trans (settle_ok hg (hF x ho hs hok)), State.result_spec ..⟩

/-! ### VEXTR (R309) -/

/-- What VEXTR delivers of a source: the element, or 0 with XR where VL does not reach it. -/
def State.extractedAt (s : State) (b : RegF) (x : Strip) : Word × Flags :=
  if s.vl ≤ (s.readS b).toNat then (0, Flags.xr) else extracted x (s.readS b).toNat

theorem extractVec_run {s : State} {d a b : RegF} {m : VMods} {x : VSrc} (hm : m.mask = 15) (hz : m.z = false)
    (ho : s.Opens [fieldA a m] [] [x]) (hs : s.SourcesFit [x]) :
    extractVec d a b m s
      = .ok (((s.popAll (queuesOf [fieldA a m])).writeS d (s.extractedAt b x.strip).1).orFlags (s.extractedAt b x.strip).2) := by
  have hchk : Allowed (s.vlChecks [x] ++ [(m.mask == 15 && !m.z, illegalOperand 0x07 m.mask.toNat)] ++ s.countChecks [x]) := by
    simp only [allowed_append]
    exact ⟨⟨vlChecks_ok hs, allowed_cons.2 ⟨by simp [hm, hz], allowed_nil⟩⟩, countChecks_ok hs⟩
  unfold extractVec
  rw [openVec_ok_pre ho]
  show (firstOf (s.vlChecks [x] ++ [(m.mask == 15 && !m.z, illegalOperand 0x07 m.mask.toNat)] ++ s.countChecks [x])).bind _ = _
  rw [firstOf_ok hchk, State.extractedAt]
  by_cases h : s.vl ≤ (s.readS b).toNat
  · simp only [Except.bind, if_pos h]
  · simp only [Except.bind, if_neg h]; rfl

/-! ### Reductions (R313) -/

theorem reduceVec_run {s : State} {op : Reduce} {d a : RegF} {m : VMods} {x : VSrc} (hv : x.fmt ≠ Fmt.vq2) (hn : x.fmt ≠ Fmt.none)
    (ho : s.Opens [fieldA a m] [] [x]) (hs : s.SourcesFit [x]) :
    reduceVec op d a m s
      = .ok (((s.popAll (queuesOf [fieldA a m])).writeS d (s.reduce op m.mask x.strip).1).orFlags (s.reduce op m.mask x.strip).2) := by
  have hchk : Allowed (s.vlChecks [x] ++ [x].map (fun y => fmtCheck y fun f => f != Fmt.vq2 && f != Fmt.none) ++ s.countChecks [x]) := by
    simp only [allowed_append]
    exact ⟨⟨vlChecks_ok hs, allowed_fmtCheck (by simpa using ⟨hv, hn⟩)⟩, countChecks_ok hs⟩
  unfold reduceVec
  rw [openVec_ok ho]
  show (firstOf (s.vlChecks [x] ++ [x].map (fun y => fmtCheck y fun f => f != Fmt.vq2 && f != Fmt.none) ++ s.countChecks [x])).bind _ = _
  rw [firstOf_ok hchk]
  rfl

/-- The reduction of integers (R313). -/
theorem Reduce.ofInt_int (op : Reduce) (l : List Int) : BitVec.ofInt 64 (op.int l) = intReduced op l := by
  cases l with
  | nil => cases op <;> rfl
  | cons x t => cases op <;> rfl

theorem State.reduce_int {s : State} {x : Strip} (hi : x.tag.f.isInt = true) (op : Reduce) (mask : BitVec 4) :
    s.reduce op mask x = (intReduced op ((s.actives mask).map fun i => (x.val i).toInt), 0) := by
  unfold State.reduce
  simp only [hi, if_true, Reduce.ofInt_int]

theorem vecToScalar_reduce {s : State} {i : Instr} {op : Reduce} {g : Guard} {d a : RegF} {m : VMods} {len : Nat} (hg : s.guardTrue g = true)
    (hi : exec i s = settle g len (reduceVec op d a m) s) :
    VecToScalar s i d (fieldA a m) len (fun f => f ≠ Fmt.vq2 ∧ f ≠ Fmt.none) (s.reduce op m.mask) :=
  vecToScalar_of hg hi fun _ ho hs hok => reduceVec_run hok.1 hok.2 ho hs

/-- Settles O17: each instruction pops its source and writes one number. -/
theorem vectorToScalar : Obligations.VectorToScalar := by
  intro s slot g d a b hc hg
  refine ⟨fun m hm hz => ?long, ?short, fun p hp => ⟨?redShort, ?redLong, fun x mask hi => State.reduce_int hi _ _⟩⟩
  case long => exact vecToScalar_of hg rfl fun _ ho hs _ => extractVec_run hm hz ho hs
  case short => exact vecToScalar_of hg rfl fun _ ho hs _ => extractVec_run rfl rfl ho hs
  all_goals
    simp only [vecReduces, List.mem_cons, List.not_mem_nil, or_false] at hp
  case redShort => rcases hp with rfl | rfl | rfl <;> exact vecToScalar_reduce hg rfl
  case redLong => rcases hp with rfl | rfl | rfl <;> exact fun m => vecToScalar_reduce hg rfl

end Sys2Proof.Machine
end

section
/-! PROOFS. Computations that raise flags: their values do not depend on the flags raised before them, so that the value of a matrix
algorithm is the value of its steps (R86, R100 .. R104, R332 .. R336). -/

namespace Sys2Proof.Machine

/-! ### Steady computations -/

/-- The value of a computation does not depend on the flags raised before it. -/
def Flagged.Steady {α : Type} (c : Flagged α) : Prop := ∀ f, (c.run f).1 = c.go.1

section
variable {α β : Type}

theorem Flagged.Steady.pure (a : α) : Flagged.Steady (pure a) := fun _ => rfl

theorem Flagged.Steady.of (x : α × Flags) : Flagged.Steady (.of x) := fun _ => rfl

theorem Flagged.Steady.raise (f : Flags) : Flagged.Steady (.raise f) := fun _ => rfl

theorem Flagged.go_pure (a : α) : (Pure.pure a : Flagged α).go.1 = a := rfl

/-- The value of two steps is that of the second at the value of the first. -/
theorem Flagged.go_bind (c : Flagged α) {f : α → Flagged β} (hf : ∀ a, (f a).Steady) : (c >>= f).go.1 = (f c.go.1).go.1 := hf _ _

theorem Flagged.Steady.bind {c : Flagged α} {f : α → Flagged β} (hc : c.Steady) (hf : ∀ a, (f a).Steady) : (c >>= f).Steady := fun g => by
  rw [go_bind c hf, ← hc g]
  exact hf _ _

theorem Flagged.Steady.map {c : Flagged α} (hc : c.Steady) (f : α → β) : (f <$> c).Steady := fun g => congrArg f (hc g)

theorem Flagged.Steady.ite {p : Prop} [Decidable p] {c d : Flagged α} (hc : c.Steady) (hd : d.Steady) :
    (if p then c else d).Steady := by
  split <;> assumption

theorem Flagged.Steady.mapM {f : α → Flagged β} (hf : ∀ a, (f a).Steady) (l : List α) : (l.mapM f).Steady := by
  induction l with
  | nil => exact .pure []
  | cons a l ih =>
    rw [List.mapM_cons]
    exact (hf a).bind fun _ => ih.bind fun _ => .pure _

theorem Flagged.Steady.foldlM {f : β → α → Flagged β} (hf : ∀ b a, (f b a).Steady) (l : List α) : ∀ b, (l.foldlM f b).Steady := by
  induction l with
  | nil => exact .pure
  | cons a l ih => exact fun b => (hf b a).bind ih

/-- The values of a list's steps are the list of their values. -/
theorem Flagged.go_mapM {f : α → Flagged β} (hf : ∀ a, (f a).Steady) (l : List α) : (l.mapM f).go.1 = l.map fun a => (f a).go.1 := by
  induction l with
  | nil => rfl
  | cons a l ih =>
    rw [List.mapM_cons, go_bind _ fun _ => (Steady.mapM hf l).bind fun _ => .pure _, go_bind _ fun _ => .pure _, ih]
    rfl
end

/-! ### The algorithms are steady -/

theorem steady_dot (x y : List F32) : (dot x y).Steady := .foldlM (fun _ _ => .of _) _ _

theorem steady_toCf (cf : Fmt) (v : Val) : (toCf cf v).Steady := .bind (.of _) fun _ => .pure _

theorem steady_accumulate (acc : F32) (l : List (Val × Val)) : (accumulate acc l).Steady :=
  .foldlM (fun _ _ => .bind (.of _) fun _ => .of _) _ _

theorem steady_scaleBy (m : Mat) (k : F32) : (m.scaleBy k).Steady := .mapM (fun _ => .mapM (fun _ => .of _) _) _

theorem steady_apply (r : Reflector) (c : List F32) : (r.apply c).Steady :=
  .bind (steady_dot _ _) fun _ => .bind (.of _) fun _ => .bind (.mapM (fun _ => .of _) _) fun _ => .pure _

theorem steady_houseColumn (j : Nat) (c : List F32) : (houseColumn j c).Steady :=
  .bind (steady_dot _ _) fun _ => .bind (.of _) fun _ => .ite (.pure _)
    (.bind (.of _) fun _ => .bind (steady_dot _ _) fun _ => .bind (.of _) fun _ => .pure _)

theorem steady_houseLoop (fuel : Nat) : ∀ (j : Nat) (m : Mat), (houseLoop fuel j m).Steady := by
  induction fuel with
  | zero => exact fun _ _ => .pure _
  | succ fuel ih =>
    intro j m
    cases m with
    | nil => exact .pure _
    | cons c cs =>
      refine .bind (steady_houseColumn j c) fun x => ?_
      have hrest : ∀ cs', Flagged.Steady (houseLoop fuel (j + 1) cs' >>= fun y => pure (x.2.2 :: y.1, x.1 :: y.2)) :=
        fun cs' => .bind (ih _ _) fun _ => .pure _
      exact .ite (.bind (.mapM (steady_apply _) _) hrest) (.bind (.pure _) hrest)

theorem steady_houseQR (a : Mat) : (houseQR a).Steady :=
  .bind (steady_houseLoop _ _ _) fun _ => .bind (.foldlM (fun _ _ => .mapM (steady_apply _) _) _ _) fun _ => .pure _

theorem steady_rotate (cs sn : F32) (x y : List F32) : (rotate cs sn x y).Steady :=
  .bind (.mapM (fun _ => .bind (.of _) fun _ => .of _) _) fun _ => .bind (.mapM (fun _ => .bind (.of _) fun _ => .of _) _) fun _ => .pure _

theorem steady_jacobiStep (wy : Mat × Mat) (p q : Nat) : (jacobiStep wy p q).Steady :=
  .bind (steady_dot _ _) fun _ => .bind (steady_dot _ _) fun _ => .bind (steady_dot _ _) fun _ => .ite (.pure _)
    (.bind (.of _) fun _ => .bind (.of _) fun _ => .bind (.of _) fun _ => .bind (.of _) fun _ => .bind (.of _) fun _ =>
      .bind (.of _) fun _ => .bind (.of _) fun _ => .bind (.of _) fun _ => .bind (.of _) fun _ => .bind (.of _) fun _ =>
      .bind (.of _) fun _ => .bind (steady_rotate _ _ _ _) fun _ => .bind (steady_rotate _ _ _ _) fun _ => .pure _)

/-- The columns of two orthogonal matrices, combined by the columns of two others. -/
theorem steady_combined (qu qv w y : Mat) (keep : List Nat) : Flagged.Steady (do
    let u' ← keep.mapM fun i => (qu.rows 64).mapM fun r => dot r (w.getD i [])
    let v' ← keep.mapM fun i => (qv.rows 64).mapM fun r => dot r (y.getD i [])
    pure (u', v')) :=
  .bind (.mapM (fun _ => .mapM (fun _ => steady_dot _ _) _) _) fun _ =>
    .bind (.mapM (fun _ => .mapM (fun _ => steady_dot _ _) _) _) fun _ => .pure _

theorem steady_mlrcPair (absolute : Bool) (tau : F32) (cap : Nat) (u v : Mat) : (mlrcPair absolute tau cap u v).Steady := by
  refine .bind (steady_houseQR _) fun x => .bind (steady_houseQR _) fun y => .bind (.mapM (fun _ => .mapM (fun _ => steady_dot _ _) _) _)
    fun _ => .bind (.foldlM (fun _ _ => steady_jacobiStep _ _ _) _ _) fun z =>
    .bind (.mapM (fun _ => .bind (steady_dot _ _) fun _ => .of _) _) fun sig => ?_
  dsimp only
  split
  · exact .bind (.pure _) fun _ => steady_combined _ _ _ _ _
  · exact .ite (.bind (.pure _) fun _ => steady_combined _ _ _ _ _) (.bind (.of _) fun _ => steady_combined _ _ _ _ _)

/-! ### What the algorithms give -/

theorem length_go_mapM {α β : Type} {f : α → Flagged β} (hf : ∀ a, (f a).Steady) (l : List α) : (l.mapM f).go.1.length = l.length := by
  rw [Flagged.go_mapM hf, List.length_map]

/-- A product of pairs has the smaller rank (R101). -/
theorem length_mlmulPair (ua va ub vb : Mat) : (mlmulPair ua va ub vb).go.1.1.length = min ua.length ub.length := by
  unfold mlmulPair
  rw [Flagged.go_bind _ fun _ => .ite (.bind (.mapM (fun _ => .mapM (fun _ => steady_dot _ _) _) _) fun _ => .pure _)
    (.bind (.mapM (fun _ => .mapM (fun _ => steady_dot _ _) _) _) fun _ => .pure _)]
  split
  case isTrue h => exact (min_eq_left h).symm
  case isFalse h =>
    rw [Flagged.go_bind _ fun _ => .pure _, min_eq_right (by omega)]
    exact (length_go_mapM (fun _ => .mapM (fun _ => steady_dot _ _) _) _).trans List.length_range

/-- A sum of pairs has the sum of the ranks (R102). -/
theorem length_mladdPair (al be : F32) (ua va ub vb : Mat) : (mladdPair al be ua va ub vb).go.1.1.length = ua.length + ub.length := by
  have hscale : ∀ (m : Mat) (k : F32), (m.scaleBy k).go.1.length = m.length := fun m k => length_go_mapM (fun _ => .mapM (fun _ => .of _) _) m
  unfold mladdPair
  rw [Flagged.go_bind _ fun _ => .bind (steady_scaleBy _ _) fun _ => .pure _, Flagged.go_bind _ fun _ => .pure _]
  exact List.length_append.trans (congrArg₂ _ (hscale _ _) (hscale _ _))

/-- The element of a list of blocks of one length. -/
theorem getD_flatMap {α β : Type} {f : α → List β} {n : Nat} (hf : ∀ a, (f a).length = n) {l : List α} {i j : Nat} (hi : i < l.length)
    (hj : j < n) (d : β) : (l.flatMap f).getD (n * i + j) d = (f l[i]).getD j d := by
  induction l generalizing i with
  | nil => cases hi
  | cons a l ih =>
    rw [List.flatMap_cons]
    cases i with
    | zero =>
      rw [Nat.mul_zero, Nat.zero_add]
      exact List.getD_append _ _ _ _ (by rwa [hf])
    | succ i =>
      rw [List.getD_append_right _ _ _ _ (by rw [hf, Nat.mul_succ]; omega), hf, List.getElem_cons_succ, ← ih (by simpa using hi)]
      congr 1
      rw [Nat.mul_succ]; omega

/-- The element of a list over a grid of `n` columns. -/
theorem getD_grid {β : Type} (f : Nat → Nat → β) {m n i j : Nat} (hi : i < m) (hj : j < n) (d : β) :
    ((List.range m).flatMap fun i => (List.range n).map (f i)).getD (n * i + j) d = f i j := by
  rw [getD_flatMap (n := n) (fun _ => by simp) (by simpa using hi) hj]
  simp [List.getD, hj]

/-- The element of a list over the 64 rows and columns of a tile. -/
theorem getD_square {β : Type} (f : Nat → Nat → β) {e : Nat} (he : e < 4096) (d : β) :
    ((List.range 64).flatMap fun i => (List.range 64).map (f i)).getD e d = f (e / 64) (e % 64) := by
  have h := getD_grid f (m := 64) (n := 64) (i := e / 64) (j := e % 64) (by omega) (by omega) d
  rwa [Nat.div_add_mod] at h

theorem getD_map_range {β : Type} (f : Nat → β) {n k : Nat} (hk : k < n) (d : β) : ((List.range n).map f).getD k d = f k := by
  simp [List.getD, hk]

/-! ### Products (R90, R91) -/

theorem steady_products (k : AccKind) (cf : Fmt) (n : Nat) (a b : Nat → Nat → Val) (acc : Acc) : (products k cf n a b acc).Steady := by
  have hreal : Flagged.Steady (products .fp32 cf n a b acc) := .bind (.mapM (fun _ => .mapM (fun _ => steady_accumulate _ _) _) _) fun _ => .pure _
  cases k with
  | i32 => exact .bind (.mapM (fun _ => .mapM (fun _ => steady_toCf _ _) _) _) fun _ => .bind (.mapM (fun _ => steady_toCf _ _) _) fun _ => .pure _
  | free => exact hreal
  | fp32 => exact hreal

/-- The sum of products of integers that stand in two lists. -/
theorem accWord_i32 (cf : Fmt) (old : BitVec 32) (n : Nat) (a b : Nat → Val) {x y : Nat → Int} (hx : ∀ q < n, x q = (toCf cf (a q)).go.1)
    (hy : ∀ q < n, y q = (toCf cf (b q)).go.1) :
    old + BitVec.ofInt 32 ((List.range n).map fun q => x q * y q).sum = accWord .i32 cf old ((List.range n).map fun q => (a q, b q)) := by
  rw [accWord, List.map_map]
  congr 3
  exact List.map_congr_left fun q hq => by rw [hx q (List.mem_range.1 hq), hy q (List.mem_range.1 hq)]; rfl

section
variable (cf : Fmt) (n : Nat) (a b : Nat → Nat → Val) (acc : Acc) {e : Nat} (he : e < 4096)
include he

theorem products_fp32 : (products .fp32 cf n a b acc).go.1.getD e 0
    = accWord .fp32 cf (acc.words.get 0 e) ((List.range n).map fun q => (a (e / 64) q, b q (e % 64))) := by
  have hgo : (products .fp32 cf n a b acc).go.1 = (List.range 64).flatMap fun i => (List.range 64).map fun j =>
      (accumulate (acc.words.get 0 (64 * i + j)) ((List.range n).map fun q => (a i q, b q j))).go.1 := by
    unfold products
    rw [Flagged.go_bind _ fun _ => .pure _, Flagged.go_mapM fun _ => .mapM (fun _ => steady_accumulate _ _) _]
    simp only [Flagged.go_mapM fun _ => steady_accumulate _ _, Flagged.go_pure]
    rfl
  rw [hgo, getD_square _ he, Nat.div_add_mod]
  rfl

theorem products_i32 : (products .i32 cf n a b acc).go.1.getD e 0
    = accWord .i32 cf (acc.words.get 0 e) ((List.range n).map fun q => (a (e / 64) q, b q (e % 64))) := by
  unfold products
  rw [Flagged.go_bind _ fun _ => .bind (.mapM (fun _ => steady_toCf _ _) _) fun _ => .pure _, Flagged.go_bind _ fun _ => .pure _,
    Flagged.go_mapM fun _ => .mapM (fun _ => steady_toCf _ _) _, Flagged.go_mapM fun _ => steady_toCf _ _, Flagged.go_pure, getD_square _ he,
    Nat.div_add_mod]
  refine accWord_i32 cf _ n (a (e / 64)) (fun q => b q (e % 64)) (fun q hq => ?_) fun q hq => ?_
  · rw [getD_map_range _ (by omega), Flagged.go_mapM fun _ => steady_toCf _ _, getD_map_range _ hq]
  · rw [getD_map_range _ (by omega), show (64 * q + e % 64) / 64 = q by omega, show (64 * q + e % 64) % 64 = e % 64 by omega]
end

end Sys2Proof.Machine
end

section
/-! PROOFS. What a write of a matrix name or of an accumulator gives: the words at their places and the slots held (R319, R321, R338). -/

namespace Sys2Proof.Machine

/-! ### Maps of lists -/

theorem mapOfList_get {α : Type} [DecidableEq α] (d : α) (l : List α) : ∀ i j, (mapOfList d i l).get d (i + j) = l.getD j d := by
  have hlow : ∀ (l : List α) (i j : Nat), j < i → (mapOfList d i l).get d j = d := by
    intro l
    induction l with
    | nil => exact fun _ _ _ => rfl
    | cons v l ih =>
      intro i j hj
      unfold mapOfList
      split
      · exact ih _ _ (by omega)
      · simp only [SMap.get, if_neg (show ¬ i = j by omega), ih _ _ (show j < i + 1 by omega)]
  induction l with
  | nil => exact fun _ _ => rfl
  | cons v l ih =>
    intro i j
    unfold mapOfList
    cases j with
    | zero =>
      rw [Nat.add_zero]
      split
      case isTrue h => exact (hlow _ _ _ (Nat.lt_succ_self i)).trans h.symm
      case isFalse => simp [SMap.get]
    | succ j =>
      rw [List.getD_cons_succ, ← ih (i + 1) j, Nat.add_right_comm i 1 j]
      split
      · rfl
      · exact if_neg (by omega)

theorem mapOfList_get_zero {α : Type} [DecidableEq α] (d : α) (l : List α) (j : Nat) : (mapOfList d 0 l).get d j = l.getD j d := by
  rw [← mapOfList_get d l 0 j, Nat.zero_add]

/-- A map of FP32 words as codes. -/
theorem mapOfWords_get (l : List F32) (j : Nat) : (mapOfList (0 : Word) 0 (l.map fun w => w.setWidth 64)).get 0 j = (l.getD j 0).setWidth 64 := by
  rw [mapOfList_get_zero]
  simp only [List.getD, List.getElem?_map]
  cases l[j]? <;> rfl

theorem length_columnWords (m : Mat) : (columnWords m).length = 64 * m.length := by
  simp [columnWords, Nat.mul_comm]

theorem columnWords_getD (m : Mat) {c i : Nat} (hc : c < m.length) (hi : i < 64) : (columnWords m).getD (64 * c + i) 0 = (m.getD c []).getD i 0 := by
  unfold columnWords
  rw [getD_flatMap (n := 64) (fun _ => by simp) hc hi, getD_map_range _ hi, List.getD_eq_getElem _ _ hc]

/-- The words of the dense tile of a pair (R336, R337). -/
theorem densePair_get (p : Mat × Mat) {k : Nat} (hk : k < 4096) :
    (wordTile (densePair p).go.1).get 0 k = (dot (p.1.row (k / 64)) (p.2.row (k % 64))).go.1.setWidth 64 := by
  have hgo : (densePair p).go.1.flatten
      = (List.range 64).flatMap fun i => (List.range 64).map fun j => (dot (p.1.row i) (p.2.row j)).go.1 := by
    unfold densePair
    rw [Flagged.go_mapM fun _ => .mapM (fun _ => steady_dot _ _) _]
    simp only [Flagged.go_mapM fun _ => steady_dot _ _, Mat.rows, List.map_map]
    rfl
  rw [wordTile, mapOfWords_get, hgo, getD_square _ hk]

/-! ### Slots (R321) -/

theorem length_insertSlot (n : Nat) (l : List Nat) : (insertSlot n l).length = l.length + 1 := by
  induction l with
  | nil => rfl
  | cons x l ih => unfold insertSlot; split <;> simp [ih]

theorem mem_insertSlot {n i : Nat} {l : List Nat} (h : i ∈ insertSlot n l) : i = n ∨ i ∈ l := by
  induction l with
  | nil => exact .inl (List.mem_singleton.1 h)
  | cons x l ih =>
    unfold insertSlot at h
    split at h
    · exact List.mem_cons.1 h
    · exact (List.mem_cons.1 h).elim (fun h => .inr (h ▸ List.mem_cons_self)) fun h => (ih h).imp id (List.mem_cons_of_mem _)

/-- Slots inserted one after another: their number, and where they come from. -/
theorem foldl_insertSlot (new : List Nat) : ∀ l : List Nat, (new.foldl (fun l n => insertSlot n l) l).length = l.length + new.length
    ∧ ∀ i ∈ new.foldl (fun l n => insertSlot n l) l, i ∈ l ∨ i ∈ new := by
  induction new with
  | nil => exact fun l => ⟨rfl, fun _ h => .inl h⟩
  | cons n new ih =>
    intro l
    obtain ⟨hlen, hmem⟩ := ih (insertSlot n l)
    refine ⟨?_, fun i hi => ?_⟩
    · rw [List.foldl_cons, hlen, length_insertSlot, List.length_cons]; omega
    · rcases hmem i hi with h | h
      · exact (mem_insertSlot h).elim (fun h => .inr (h ▸ List.mem_cons_self)) .inl
      · exact .inr (List.mem_cons_of_mem _ h)

theorem Ctx.resized_fixed {x : Ctx} {t : Tile} (h : t.elas = false) (need : Nat) : x.resized t need = t.held := by simp [Ctx.resized, h]

theorem Ctx.resized_elastic {x : Ctx} {t : Tile} {need : Nat} (h : t.elas = true) (hn : need ≤ t.held.length + x.freeSlots.length) :
    (x.resized t need).length = need ∧ ∀ i ∈ x.resized t need, i ∈ t.held ∨ i ∈ x.freeSlots := by
  unfold Ctx.resized
  rw [if_neg (by simp [h])]
  split
  case isTrue hle => exact ⟨by simpa using hle, fun i hi => .inl (List.mem_of_mem_take hi)⟩
  case isFalse hgt =>
    obtain ⟨hlen, hmem⟩ := foldl_insertSlot (x.freeSlots.take (need - t.held.length)) t.held
    refine ⟨?_, fun i hi => (hmem i hi).imp id List.mem_of_mem_take⟩
    rw [hlen, List.length_take]; omega

/-! ### Checks -/

theorem State.Room.fits {s : State} {d : RegF} {need : Nat} (h : s.Room d need) : Allowed [s.fitCheck d need] := by
  obtain ⟨-, hncl, hfree⟩ := h
  refine allowed_cons.2 ⟨?_, allowed_nil⟩
  cases he : (s.tile d).elas with
  | false => simpa [he] using hncl
  | true => simpa [he] using ⟨hncl, hfree he⟩

theorem boundChecks_ok {s : State} {l : List (RegF × Nat)} (h : ∀ p ∈ l, (s.tile p.1).kind ≠ .unbound) : Allowed (s.boundChecks l) := by
  intro c hc
  obtain ⟨p, hp, rfl⟩ := List.mem_map.1 hc
  exact bne_iff_ne.2 (h p hp)

theorem kindCheck_ok {s : State} {m : RegF} {k : TileKind} (h : (s.tile m).kind = k) (operand : Nat) : (s.kindCheck m operand k).1 = true :=
  beq_iff_eq.2 h

/-! ### Writes -/

section
variable {s : State} (hs : s.isSup = false) (d : RegF) (fl : Flags)
include hs

theorem State.orFlags_modMyCtx (f : Ctx → Ctx) (fl : Flags) :
    (s.modMyCtx f).orFlags fl = s.modMyCtx fun x => { f x with flags := (f x).flags ||| fl } := by
  rw [State.orFlags, State.isSup_modMyCtx, hs, if_neg Bool.false_ne_true, State.modMyCtx_modMyCtx]

/-- A name that takes a tile of its claim. -/
theorem tileWritten_setTile {t : Tile} {need : Nat} {p : Tile → Prop} (hp : p t) (helas : t.elas = (s.tile d).elas) (hncl : t.ncl = (s.tile d).ncl)
    (hheld : t.held = s.myCtx.resized (s.tile d) need) (hroom : s.Room d need) : TileWritten s ((s.setTile d t).orFlags fl) d need p := by
  have hctx := congrArg State.myCtx (State.orFlags_modMyCtx hs (fun x => { x with tiles := x.tiles.set .unbound d.toNat t }) fl)
  rw [State.myCtx_modMyCtx] at hctx
  have htile : ((s.setTile d t).orFlags fl).tile d = t := by
    rw [State.tile, Ctx.tile, State.setTile, hctx]
    exact SMap.get_set_same ..
  have hkeep : ∀ m, m ≠ d → ((s.setTile d t).orFlags fl).tile m = s.tile m := fun m hm => by
    rw [State.tile, Ctx.tile, State.setTile, hctx]
    exact SMap.get_set_ne _ _ _ fun h => hm (BitVec.eq_of_toNat_eq h.symm)
  refine ⟨?_, ?_, hkeep, htile.symm ▸ hp, (congrArg _ htile).trans helas, (congrArg _ htile).trans hncl, ?_⟩
  · rw [State.setTile, State.orFlags_modMyCtx hs]
    exact inContext_modMyCtx ..
  · rw [State.setTile, hctx]
  · obtain ⟨-, -, hfree⟩ := hroom
    rw [htile, hheld]
    split
    case isTrue he => exact Ctx.resized_elastic he (hfree he)
    case isFalse he => exact Ctx.resized_fixed (by simpa using he) need

/-- A name that takes a pair. -/
theorem tileWritten_pair {p : Mat × Mat} (hroom : s.Room d (pairNeed p.1.length)) :
    TileWritten s ((s.writePair d p).orFlags fl) d (pairNeed p.1.length) fun t => t.HoldsPair p := by
  refine tileWritten_setTile hs d fl ⟨rfl, rfl, fun c i hi => ⟨fun hc => ?_, fun hc => ?_⟩⟩ rfl rfl rfl hroom
  · have hlt : 64 * c + i < (columnWords p.1).length := by rw [length_columnWords]; omega
    exact (mapOfWords_get ..).trans (congrArg _ ((List.getD_append _ _ _ _ hlt).trans (columnWords_getD _ hc hi)))
  · have hge : (columnWords p.1).length ≤ 64 * (p.1.length + c) + i := by rw [length_columnWords]; omega
    have hidx : 64 * (p.1.length + c) + i - (columnWords p.1).length = 64 * c + i := by rw [length_columnWords]; omega
    refine (mapOfWords_get ..).trans (congrArg _ ((List.getD_append_right _ _ _ _ hge).trans ?_))
    rw [hidx]
    exact columnWords_getD _ hc hi

/-- A name that takes a dense FP32 tile. -/
theorem tileWritten_words {rows : List (List F32)} {code : Nat → Option Word} (hroom : s.Room d 4)
    (hcode : ∀ k w, code k = some w → (wordTile rows).get 0 k = w) :
    TileWritten s ((s.writeDense d Fmt.fp32 (wordTile rows) []).orFlags fl) d 4 fun t => t.HoldsDense Fmt.fp32 code :=
  have hneed : denseNeed Fmt.fp32 = 4 := by decide
  tileWritten_setTile hs d fl ⟨rfl, rfl, rfl, hcode⟩ rfl rfl (by rw [hneed]) hroom

/-- A name that takes the dense tile of a pair (R336, R337). -/
theorem tileWritten_densePair {p : Mat × Mat} (hroom : s.Room d 4) :
    TileWritten s ((s.writeDense d Fmt.fp32 (wordTile (densePair p).go.1) []).orFlags fl) d 4 fun t => t.HoldsDense Fmt.fp32 fun k =>
      if k < 4096 then some ((dot (p.1.row (k / 64)) (p.2.row (k % 64))).go.1.setWidth 64) else none := by
  refine tileWritten_words hs d fl hroom fun k w hw => ?_
  obtain ⟨hk, hw⟩ := Option.ite_none_right_eq_some.1 hw
  exact (densePair_get p hk).trans (Option.some.inj hw)

/-- An accumulator that takes the words of a list. -/
theorem accWritten_put {k : AccKind} {w : List (BitVec 32)} {word : Nat → BitVec 32} (hw : ∀ e < 4096, w.getD e 0 = word e) :
    AccWritten s ((s.setAcc d (.put k w)).orFlags fl) d k word := by
  have hctx := congrArg State.myCtx (State.orFlags_modMyCtx hs (fun x => { x with accs := x.accs.set .initial d.toNat (.put k w) }) fl)
  rw [State.myCtx_modMyCtx] at hctx
  have hacc : ((s.setAcc d (.put k w)).orFlags fl).acc d = .put k w := by
    rw [State.acc, State.setAcc, hctx]
    exact SMap.get_set_same ..
  refine ⟨?_, ?_, fun m hm => ?_, by rw [hacc]; rfl, fun e he => ?_⟩
  · rw [State.setAcc, State.orFlags_modMyCtx hs]
    exact inContext_modMyCtx ..
  · rw [State.setAcc, hctx]
  · rw [State.acc, State.setAcc, hctx]
    exact SMap.get_set_ne _ _ _ fun h => hm (BitVec.eq_of_toNat_eq h.symm)
  · rw [hacc, ← hw e he]
    exact mapOfList_get_zero ..
end

end Sys2Proof.Machine
end

section
/-! PROOFS. Operations on low-rank pairs (R101, R102, R104, R335, R336). -/

namespace Sys2Proof.Machine

theorem Tile.length_pair (t : Tile) : t.pair.1.length = t.rank ∧ t.pair.2.length = t.rank := by simp [Tile.pair]

theorem rankCheck_ok {s : State} {n : Nat} (h : n ≤ s.myCtx.rkcap.toNat) : (s.rankCheck n).1 = true := decide_eq_true h

section
variable {s : State} {d a b : RegF}

/-- The checks of the operands of a product or a sum of pairs. -/
theorem pairOperands_ok {need : Nat} (hroom : s.Room d need) (hx : (s.tile a).kind = .factor) (hy : (s.tile b).kind = .factor) :
    Allowed (s.boundChecks [(d, 0), (a, 1), (b, 2)]) ∧ Allowed [s.kindCheck a 1 .factor, s.kindCheck b 2 .factor] := by
  refine ⟨boundChecks_ok fun p hp => ?_, allowed_cons.2 ⟨kindCheck_ok hx 1, allowed_cons.2 ⟨kindCheck_ok hy 2, allowed_nil⟩⟩⟩
  simp only [List.mem_cons, List.not_mem_nil, or_false] at hp
  rcases hp with rfl | rfl | rfl
  · exact hroom.1
  · simp [hx]
  · simp [hy]

/-- The checks of a result of a rank. -/
theorem rankFit_ok {n : Nat} (hn : n ≤ s.myCtx.rkcap.toNat) (hroom : s.Room d (pairNeed n)) :
    Allowed [s.rankCheck n, s.fitCheck d (pairNeed n)] := allowed_cons.2 ⟨rankCheck_ok hn, hroom.fits⟩

/-- A settled instruction that writes a pair of rank `n`. -/
theorem settle_pair {g : Guard} {len n : Nat} {F : State → Except Stop State} {p : Mat × Mat} {fl : Flags} (hs : s.isSup = false)
    (hg : s.guardTrue g = true) (hn : p.1.length = n) (hroom : s.Room d (pairNeed n)) (hF : F s = .ok ((s.writePair d p).orFlags fl)) :
    ∃ u, settle g len F s = .next (u.retire len) ∧ TileWritten s u d (pairNeed n) fun t => t.HoldsPair p := by
  subst hn
  exact ⟨_, settle_ok hg hF, tileWritten_pair hs d fl hroom⟩

theorem multiplyPairs_ok (hx : (s.tile a).kind = .factor) (hy : (s.tile b).kind = .factor)
    (hn : min (s.tile a).rank (s.tile b).rank ≤ s.myCtx.rkcap.toNat) (hroom : s.Room d (pairNeed (min (s.tile a).rank (s.tile b).rank))) :
    let r := (mlmulPair (s.tile a).pair.1 (s.tile a).pair.2 (s.tile b).pair.1 (s.tile b).pair.2).go
    multiplyPairs d a b s = .ok ((s.writePair d r.1).orFlags r.2) := by
  obtain ⟨hbound, hkind⟩ := pairOperands_ok hroom hx hy
  show (firstOf (s.boundChecks _)).bind (fun _ => (firstOf [s.kindCheck a 1 .factor, _]).bind fun _ =>
    (firstOf [s.rankCheck _, _]).bind _) = _
  rw [firstOf_ok hbound, firstOf_ok hkind, firstOf_ok (rankFit_ok hn hroom)]
  rfl

/-- The sum that MLADD takes (R102). -/
def State.pairSum (s : State) (a b rc re : RegF) : (Mat × Mat) × Flags :=
  (mladdPair ((s.readS rc).setWidth 32) ((s.readS re).setWidth 32) (s.tile a).pair.1 (s.tile a).pair.2 (s.tile b).pair.1
    (s.tile b).pair.2).go

/-- MLADD leaves a pair where the ranks fit RKCAP, in either mode (R335). -/
theorem addPairs_pair {rc re : RegF} {dense : Bool} (hx : (s.tile a).kind = .factor) (hy : (s.tile b).kind = .factor)
    (hn : (s.tile a).rank + (s.tile b).rank ≤ s.myCtx.rkcap.toNat) (hroom : s.Room d (pairNeed ((s.tile a).rank + (s.tile b).rank))) :
    addPairs d a b rc re dense s = .ok ((s.writePair d (s.pairSum a b rc re).1).orFlags (s.pairSum a b rc re).2) := by
  obtain ⟨hbound, hkind⟩ := pairOperands_ok hroom hx hy
  have hfall : (dense && decide (s.myCtx.rkcap.toNat < (s.tile a).rank + (s.tile b).rank)) = false := by
    simp [Nat.not_lt.2 hn]
  unfold addPairs
  rw [firstOf_ok hbound, firstOf_ok hkind]
  dsimp only [bind, Except.bind]
  rw [hfall]
  simp only [Bool.false_eq_true, if_false]
  rw [firstOf_ok (rankFit_ok hn hroom)]
  rfl

/-- MLADD of mode 1 falls back to a dense tile beyond RKCAP (R336). -/
theorem addPairs_dense {rc re : RegF} (hx : (s.tile a).kind = .factor) (hy : (s.tile b).kind = .factor)
    (hn : s.myCtx.rkcap.toNat < (s.tile a).rank + (s.tile b).rank) (hroom : s.Room d 4) :
    let w := (densePair (s.pairSum a b rc re).1).go
    addPairs d a b rc re true s = .ok ((s.writeDense d Fmt.fp32 (wordTile w.1) []).orFlags ((s.pairSum a b rc re).2 ||| w.2)) := by
  obtain ⟨hbound, hkind⟩ := pairOperands_ok hroom hx hy
  unfold addPairs
  rw [firstOf_ok hbound, firstOf_ok hkind]
  dsimp only [bind, Except.bind]
  rw [decide_eq_true hn]
  simp only [Bool.and_true, if_true]
  rw [firstOf_ok hroom.fits]
  rfl

/-- The recompression that MLRC takes (R104). -/
def State.recompressed (s : State) (a : RegF) : (Mat × Mat) × Flags :=
  (do
    let p ← (s.tile a).asPair s.myCtx.codebook
    mlrcPair (s.myCtx.tol.getLsbD 32) (s.myCtx.tol.extractLsb' 0 32) s.myCtx.rkcap.toNat p.1 p.2 : Flagged (Mat × Mat)).go

theorem State.recompressed_fst (s : State) (a : RegF) :
    let q := ((s.tile a).asPair s.myCtx.codebook).go.1
    (s.recompressed a).1
      = (mlrcPair (s.myCtx.tol.getLsbD 32) (s.myCtx.tol.extractLsb' 0 32) s.myCtx.rkcap.toNat q.1 q.2).go.1 :=
  Flagged.go_bind _ fun _ => steady_mlrcPair _ _ _ _ _

theorem recompress_ok (hx : (s.tile a).kind ≠ .unbound) (hroom : s.Room d (pairNeed (s.recompressed a).1.1.length)) :
    recompress d a s = .ok ((s.writePair d (s.recompressed a).1).orFlags (s.recompressed a).2) := by
  have hbound : Allowed (s.boundChecks [(d, 0), (a, 1)]) := boundChecks_ok fun p hp => by
    simp only [List.mem_cons, List.not_mem_nil, or_false] at hp
    rcases hp with rfl | rfl
    · exact hroom.1
    · exact hx
  show (firstOf (s.boundChecks _)).bind (fun _ => (firstOf [s.fitCheck d (pairNeed (s.recompressed a).1.1.length)]).bind _) = _
  rw [firstOf_ok hbound, firstOf_ok hroom.fits]
  rfl
end

/-- Settles O28: each operation writes the pair of its algorithm, whose rank is known beforehand for a product and a sum. -/
theorem lowRankOperations : Obligations.LowRankOperations := by
  intro s slot g d a b rc re hc hg x y
  have hs := State.isSup_of_cluster hc
  refine ⟨fun hx hy => ⟨fun hn hroom => ?mul, fun mode => ?add⟩, fun hx => ?mlrc⟩
  case mul =>
    refine settle_pair hs hg ?_ hroom (multiplyPairs_ok hx hy hn hroom)
    rw [length_mlmulPair, (Tile.length_pair _).1, (Tile.length_pair _).1]
  case add =>
    intro p
    refine ⟨fun hn hroom => ?pair, ?dense⟩
    case pair =>
      refine settle_pair hs hg ?_ hroom (addPairs_pair hx hy hn hroom)
      exact (length_mladdPair ..).trans (congrArg₂ _ (Tile.length_pair _).1 (Tile.length_pair _).1)
    case dense =>
      rintro rfl hn hroom
      exact ⟨_, settle_ok hg (addPairs_dense hx hy hn hroom), tileWritten_densePair hs d _ hroom⟩
  case mlrc =>
    intro q p hroom
    have hp : (s.recompressed a).1 = p := State.recompressed_fst s a
    rw [← hp] at hroom ⊢
    exact settle_pair hs hg rfl hroom (recompress_ok hx hroom)

end Sys2Proof.Machine
end

section
/-! PROOFS. Products into accumulators (R90, R91, R97, R332 .. R334). -/

namespace Sys2Proof.Machine

theorem Flagged.go_map {α β : Type} (f : α → β) (c : Flagged α) : (f <$> c).go.1 = f c.go.1 := rfl

theorem accKind_ne_free {cf : Fmt} : accKind cf ≠ some .free := by
  unfold accKind
  split
  · simp
  · split <;> simp

/-- The words of an accumulator after products, of either kind (R90, R91). -/
theorem products_get {k : AccKind} (hk : k ≠ .free) (cf : Fmt) (n : Nat) (a b : Nat → Nat → Val) (acc : Acc) {e : Nat} (he : e < 4096) :
    (products k cf n a b acc).go.1.getD e 0
      = accWord k cf (acc.words.get 0 e) ((List.range n).map fun q => (a (e / 64) q, b q (e % 64))) := by
  cases k with
  | free => exact absurd rfl hk
  | fp32 => exact products_fp32 cf n a b acc he
  | i32 => exact products_i32 cf n a b acc he

section
variable {s : State} {d a b : RegF} {k : AccKind}

theorem accLookup_ok {fa fb : Fmt} {real : Bool} (hact : (s.lookup fa fb).act ≠ .forbidden) (hk : accKind (s.lookup fa fb).cf = some k)
    (hreal : real = true → k = .fp32) : s.accLookup fa fb real = .ok ((s.lookup fa fb).cf, k) := by
  have hno : (real && k != .fp32) = false := by
    cases real with
    | false => rfl
    | true => simp [hreal rfl]
  unfold State.accLookup
  dsimp only
  rw [if_neg (by simpa using hact), hk]
  dsimp only
  rw [if_neg (by simp [hno])]

theorem accCheck_ok (h : (s.acc d).kind = .free ∨ (s.acc d).kind = k) : Allowed [s.accCheck d k] :=
  allowed_cons.2 ⟨by simpa using h, allowed_nil⟩

theorem operandsBound_ok (hx : (s.tile a).kind ≠ .unbound) (hy : (s.tile b).kind ≠ .unbound) :
    Allowed (s.boundChecks [(a, 1), (b, 2)]) := boundChecks_ok fun p hp => by
  simp only [List.mem_cons, List.not_mem_nil, or_false] at hp
  rcases hp with rfl | rfl
  · exact hx
  · exact hy

/-! ### Dense tiles (R332) -/

/-- The words that MMA computes of two dense tiles. -/
def State.denseProducts (s : State) (d : RegF) (k : AccKind) (cf : Fmt) (x y : Tile) : Flagged (List (BitVec 32)) := do
  Flagged.raise (x.scn (List.range 4096) ||| y.scn (List.range 4096))
  products k cf 64 (fun i q => x.val s.myCtx.codebook (64 * i + q)) (fun q j => y.val s.myCtx.codebook (64 * q + j)) (s.acc d)

theorem matrixProduct_dense (hx : (s.tile a).kind = .dense) (hy : (s.tile b).kind = .dense)
    (hact : (s.lookup (s.tile a).fmt (s.tile b).fmt).act ≠ .forbidden) (hk : accKind (s.lookup (s.tile a).fmt (s.tile b).fmt).cf = some k)
    (htakes : (s.acc d).kind = .free ∨ (s.acc d).kind = k) :
    let r := (s.denseProducts d k (s.lookup (s.tile a).fmt (s.tile b).fmt).cf (s.tile a) (s.tile b)).go
    matrixProduct d a b s = .ok ((s.setAcc d (.put k r.1)).orFlags r.2) := by
  have hdense : ((s.tile a).kind == .dense && (s.tile b).kind == .dense) = true := by simp [hx, hy]
  show (firstOf (s.boundChecks _)).bind (fun _ =>
    if (s.tile a).kind == .dense && (s.tile b).kind == .dense then mmaDense d (s.tile a) (s.tile b) s else mmaRank d (s.tile a) (s.tile b) s) = _
  rw [firstOf_ok (operandsBound_ok (by simp [hx]) (by simp [hy]))]
  dsimp only [Except.bind]
  rw [if_pos hdense]
  unfold mmaDense
  rw [accLookup_ok hact hk (by simp)]
  show (firstOf [s.accCheck d k]).bind _ = _
  rw [firstOf_ok (accCheck_ok htakes)]
  rfl

/-! ### Sliding products (R334) -/

/-- The elements of the first operand that MSLD reads, row by row. -/
def slideTaps (n : Nat) : List Nat := (List.range 64).flatMap fun i => (List.range n).map fun j => 64 * i + j

theorem length_slideTaps (n : Nat) : (slideTaps n).length = 64 * n := by
  have hgrid : ∀ m, ((List.range m).flatMap fun i => (List.range n).map fun j => 64 * i + j).length = m * n := fun m => by simp
  exact hgrid 64

theorem slideTaps_getD {n i q : Nat} (hi : i < 64) (hq : q < n) : (slideTaps n).getD (n * i + q) 0 = 64 * i + q :=
  getD_grid (fun i j => 64 * i + j) hi hq 0

/-- The words that MSLD computes. -/
def State.slideProducts (s : State) (d : RegF) (n : Nat) (k : AccKind) (cf : Fmt) (x y : Tile) : Flagged (List (BitVec 32)) := do
  Flagged.raise (x.scn (slideTaps n) ||| y.scn (List.range (63 + n)))
  match k with
  | .i32 =>
    let ta ← (slideTaps n).mapM fun e => toCf cf (x.val s.myCtx.codebook e)
    let tb ← (List.range (63 + n)).mapM fun e => toCf cf (y.val s.myCtx.codebook e)
    pure ((List.range 64).flatMap fun i => (List.range 64).map fun j =>
      (s.acc d).words.get 0 (64 * i + j) + BitVec.ofInt 32 ((List.range n).map fun q => ta.getD (n * i + q) 0 * tb.getD (j + q) 0).sum)
  | _ => products .fp32 cf n (fun i q => x.val s.myCtx.codebook (64 * i + q)) (fun q j => y.val s.myCtx.codebook (j + q)) (s.acc d)

theorem slideProducts_get (hk : k ≠ .free) (n : Nat) (cf : Fmt) (x y : Tile) {e : Nat} (he : e < 4096) :
    (s.slideProducts d n k cf x y).go.1.getD e 0 = accWord k cf ((s.acc d).words.get 0 e) ((List.range n).map fun q =>
      (x.val s.myCtx.codebook (64 * (e / 64) + q), y.val s.myCtx.codebook (e % 64 + q))) := by
  unfold State.slideProducts
  cases k with
  | free => exact absurd rfl hk
  | fp32 =>
    rw [Flagged.go_bind _ fun _ => steady_products _ _ _ _ _ _]
    exact products_fp32 cf n (fun i q => x.val s.myCtx.codebook (64 * i + q)) (fun q j => y.val s.myCtx.codebook (j + q)) _ he
  | i32 =>
    have hcf : ∀ (f : Nat → Val) (l : List Nat), Flagged.Steady (l.mapM fun e => toCf cf (f e)) :=
      fun f l => .mapM (fun _ => steady_toCf _ _) l
    rw [Flagged.go_bind _ fun _ => .bind (hcf _ _) fun _ => .bind (hcf _ _) fun _ => .pure _,
      Flagged.go_bind _ fun _ => .bind (hcf _ _) fun _ => .pure _, Flagged.go_bind _ fun _ => .pure _,
      Flagged.go_mapM fun _ => steady_toCf _ _, Flagged.go_mapM fun _ => steady_toCf _ _, Flagged.go_pure, getD_square _ he, Nat.div_add_mod]
    refine accWord_i32 cf _ n (fun q => x.val s.myCtx.codebook (64 * (e / 64) + q)) (fun q => y.val s.myCtx.codebook (e % 64 + q))
      (fun q hq => ?_) fun q hq => getD_map_range _ (by omega) _
    have hi : e / 64 < 64 := by omega
    have hlt : n * (e / 64) + q < (slideTaps n).length := by
      rw [length_slideTaps]
      calc n * (e / 64) + q < n * (e / 64 + 1) := by rw [Nat.mul_succ]; omega
        _ ≤ n * 64 := Nat.mul_le_mul_left n hi
        _ = 64 * n := Nat.mul_comm ..
    rw [getD_map_of_lt hlt _ _ 0, slideTaps_getD hi hq]

theorem slide_dense {n : Nat} (hx : (s.tile a).kind = .dense) (hy : (s.tile b).kind = .dense)
    (hact : (s.lookup (s.tile a).fmt (s.tile b).fmt).act ≠ .forbidden) (hk : accKind (s.lookup (s.tile a).fmt (s.tile b).fmt).cf = some k)
    (htakes : (s.acc d).kind = .free ∨ (s.acc d).kind = k) :
    let r := (s.slideProducts d n k (s.lookup (s.tile a).fmt (s.tile b).fmt).cf (s.tile a) (s.tile b)).go
    slide d a b n s = .ok ((s.setAcc d (.put k r.1)).orFlags r.2) := by
  have hkind : Allowed [s.kindCheck a 1 .dense, s.kindCheck b 2 .dense] :=
    allowed_cons.2 ⟨kindCheck_ok hx 1, allowed_cons.2 ⟨kindCheck_ok hy 2, allowed_nil⟩⟩
  unfold slide
  rw [firstOf_ok (operandsBound_ok (by simp [hx]) (by simp [hy])), firstOf_ok hkind]
  dsimp only [bind, Except.bind]
  rw [accLookup_ok hact hk (by simp)]
  dsimp only
  rw [firstOf_ok (accCheck_ok htakes)]
  rfl

/-! ### Products through the rank (R333) -/

/-- The words that MMA computes through the rank; none at rank 0. -/
def Acc.rankProducts (acc : Acc) (o : Nat × (Nat → Nat → Val) × (Nat → Nat → Val)) : Flagged (Option (List (BitVec 32))) :=
  if o.1 = 0 then pure none else some <$> products .fp32 0 o.1 o.2.1 o.2.2 acc

theorem steady_rankProducts (acc : Acc) (o : Nat × (Nat → Nat → Val) × (Nat → Nat → Val)) : (acc.rankProducts o).Steady :=
  .ite (.pure _) ((steady_products _ _ _ _ _ _).map _)

/-- What MMA leaves of a product through the rank. -/
def State.setRankProducts (s : State) (d : RegF) (r : Option (List (BitVec 32)) × Flags) : State :=
  (match r.1 with
    | some w => s.setAcc d (.put .fp32 w)
    | none => s).orFlags r.2

theorem matrixProduct_rank (hx : (s.tile a).kind ≠ .unbound) (hy : (s.tile b).kind ≠ .unbound)
    (hfac : (s.tile a).kind = .factor ∨ (s.tile b).kind = .factor) (htakes : (s.acc d).kind = .free ∨ (s.acc d).kind = .fp32)
    (hlook : ∀ t ∈ [s.tile a, s.tile b], t.kind = .dense →
      (s.lookup t.fmt t.fmt).act ≠ .forbidden ∧ accKind (s.lookup t.fmt t.fmt).cf = some .fp32) :
    matrixProduct d a b s
      = .ok (s.setRankProducts d (rankOperands s.myCtx.codebook (s.tile a) (s.tile b) >>= (s.acc d).rankProducts).go) := by
  have hdense : ((s.tile a).kind == .dense && (s.tile b).kind == .dense) = false := by
    rcases hfac with h | h <;> simp [h]
  have hacc : ∀ t ∈ [s.tile a, s.tile b], t.kind = .dense → s.accLookup t.fmt t.fmt true = .ok ((s.lookup t.fmt t.fmt).cf, .fp32) :=
    fun t ht hd => accLookup_ok (hlook t ht hd).1 (hlook t ht hd).2 fun _ => rfl
  show (firstOf (s.boundChecks _)).bind (fun _ =>
    if (s.tile a).kind == .dense && (s.tile b).kind == .dense then mmaDense d (s.tile a) (s.tile b) s else mmaRank d (s.tile a) (s.tile b) s) = _
  rw [firstOf_ok (operandsBound_ok hx hy)]
  dsimp only [Except.bind]
  rw [if_neg (by simp [hdense])]
  unfold mmaRank
  rw [firstOf_ok (accCheck_ok htakes)]
  cases hka : (s.tile a).kind with
  | unbound => exact absurd hka hx
  | dense =>
    rw [hacc _ (by simp) hka]
    rfl
  | factor =>
    cases hkb : (s.tile b).kind with
    | unbound => exact absurd hkb hy
    | dense =>
      rw [hacc _ (by simp) hkb]
      rfl
    | factor => rfl

/-- A product through rank 0 leaves the accumulator, and another adds its products (R333). -/
theorem setRankProducts_spec (hs : s.isSup = false) (d : RegF) (o : Nat × (Nat → Nat → Val) × (Nat → Nat → Val)) (fl : Flags) :
    let u := s.setRankProducts d (((s.acc d).rankProducts o).go.1, fl)
    if o.1 = 0 then InContext s u ∧ u.myCtx = { s.myCtx with flags := u.myCtx.flags }
    else AccWritten s u d .fp32 fun n => accWord .fp32 0 ((s.acc d).words.get 0 n)
      ((List.range o.1).map fun q => (o.2.1 (n / 64) q, o.2.2 q (n % 64))) := by
  unfold Acc.rankProducts
  split
  case isTrue h =>
    have hu : s.orFlags fl = s.modMyCtx fun z => { z with flags := z.flags ||| fl } := by simp [State.orFlags, hs]
    show InContext s (s.orFlags fl) ∧ (s.orFlags fl).myCtx = { s.myCtx with flags := (s.orFlags fl).myCtx.flags }
    rw [hu]
    exact ⟨inContext_modMyCtx .., by rw [State.myCtx_modMyCtx]⟩
  case isFalse h =>
    rw [Flagged.go_map]
    exact accWritten_put hs d fl fun e he => products_get (by simp) 0 _ _ _ _ he
end

/-- Settles O29: each word takes its products by the kind, whichever way the operands are formed. -/
theorem matrixProducts : Obligations.MatrixProducts := by
  intro s slot g d a b hc hg x y cb e takes old
  have hs := State.isSup_of_cluster hc
  refine ⟨fun hx hy k hact hk htakes => ⟨?dense, fun n => ?slide⟩, fun hx hy hfac htakes hlook => ?rank⟩
  case dense =>
    have hfree : k ≠ .free := fun h => accKind_ne_free (h ▸ hk)
    refine ⟨_, settle_ok hg (matrixProduct_dense hx hy hact hk htakes), accWritten_put hs d _ fun n hn => ?_⟩
    rw [State.denseProducts, Flagged.go_bind _ fun _ => steady_products _ _ _ _ _ _, Nat.mul_comm (n / 64) 64]
    exact products_get hfree _ _ _ _ _ hn
  case slide =>
    have hfree : k ≠ .free := fun h => accKind_ne_free (h ▸ hk)
    refine ⟨_, settle_ok hg (slide_dense hx hy hact hk htakes), accWritten_put hs d _ fun m hm => ?_⟩
    rw [Nat.mul_comm (m / 64) 64]
    exact slideProducts_get hfree _ _ _ _ hm
  case rank =>
    intro o
    have hgo := Flagged.go_bind (rankOperands cb x y) (steady_rankProducts (s.acc d))
    have hspec := setRankProducts_spec hs d o (rankOperands cb x y >>= (s.acc d).rankProducts).go.2
    rw [← hgo] at hspec
    exact ⟨_, settle_ok hg (matrixProduct_rank hx hy hfac htakes hlook), hspec⟩

end Sys2Proof.Machine
end

section
/-! PROOFS. The privileged instructions of supervisor cores (R96, R358 .. R360, R401). -/

namespace Sys2Proof.Machine

/-! ### Bytes that a supervisor core reads -/

theorem SMap.length_getList {α : Type} (d : α) (m : SMap α) (n : Nat) : ∀ i, (SMap.getList d m i n).length = n := by
  induction n with
  | zero => exact fun _ => rfl
  | succ n ih => exact fun i => congrArg (· + 1) (ih (i + 1))

theorem leBytes_leNat (l : List Byte) : leBytes l.length (leNat l) = l := by
  induction l with
  | nil => rfl
  | cons b t ih =>
    have hb : BitVec.ofNat 8 (b.toNat + 256 * leNat t) = b := BitVec.eq_of_toNat_eq (by
      rw [BitVec.toNat_ofNat, Nat.add_mul_mod_self_left, Nat.mod_eq_of_lt b.isLt])
    have hd : (b.toNat + 256 * leNat t) / 256 = leNat t := by have := b.isLt; omega
    rw [leNat, List.length_cons, leBytes, hb, hd, ih]

/-- Pieces that can be read one after another: the first one, and the others. -/
theorem State.SupReads.succ {s : State} {va : Word} {unit n : Nat} {l : List Byte} (h : s.SupReads va unit (n + 1) l) :
    ∃ x t, l = x ++ t ∧ x.length = unit ∧ s.SupReads va unit 1 x ∧ s.SupReads (va + BitVec.ofNat 64 unit) unit n t := by
  obtain ⟨hread, rfl⟩ := h
  have hnext : ∀ i, va + BitVec.ofNat 64 unit + BitVec.ofNat 64 (unit * i) = va + BitVec.ofNat 64 (unit * (i + 1)) := fun i => by
    rw [BitVec.add_assoc, ← BitVec.ofNat_add, Nat.mul_succ, Nat.add_comm unit]
  have hfirst : s.SupReads va unit 1 (s.bytesAt (s.homeOf (va + BitVec.ofNat 64 (unit * 0)).toNat) unit) :=
    ⟨fun i hi => hread i (by omega), by rw [List.range_one, List.flatMap_singleton]⟩
  refine ⟨_, _, ?_, ?_, hfirst, fun i hi => ?_, rfl⟩
  · rw [List.range_succ_eq_map, List.flatMap_cons, List.flatMap_map]
    simp only [hnext]
  · exact SMap.length_getList ..
  · rw [hnext]
    exact hread (i + 1) (by omega)

theorem supBytes_go {s : State} (n : Nat) : ∀ {va : Word} {l : List Byte}, s.SupReads va 1 n l → Comp.go (supBytes va n) s = (.ok l, s) := by
  induction n with
  | zero => rintro va l ⟨-, rfl⟩; rfl
  | succ n ih =>
    intro va l h
    obtain ⟨x, t, rfl, hlen, hx, ht⟩ := h.succ
    have hbyte : BitVec.ofNat 8 (leNat x) :: t = x ++ t := by
      conv_rhs => rw [← leBytes_leNat x, hlen]
      rfl
    unfold supBytes
    rw [Comp.go_bind_ok (supLoad_quiet hx .read), Comp.go_bind_ok (ih (va := va + 1) ht), Comp.go_pure, hbyte]

/-- An instruction that ends by passing on. -/
theorem finish_retire {s t : State} {c : Comp Unit} (h : Comp.go c s = (.ok (), t)) :
    finish (do c; update fun t => t.retire 4) s = .next (t.retire 4) := finish_ok (by rw [Comp.go_bind_ok h]; rfl)

section
variable {s : State} {n : Nat} (hc : s.cur = .sup n)
include hc

theorem loadLines_go (k : Nat) : ∀ {va : Word} {l : List Byte}, s.SupReads va 128 k l →
    Comp.go (loadLines .read va k) s = (.ok (l, []), s) := by
  induction k with
  | zero => rintro va l ⟨-, rfl⟩; rfl
  | succ k ih =>
    intro va l h
    obtain ⟨x, t, rfl, hlen, hx, ht⟩ := h.succ
    have hline : Comp.go (loadQuiet .read va 128) s = (.ok (leNat x, []), s) := by
      unfold loadQuiet
      rw [Comp.go_bind_ok (Comp.go_get s), hc]
      dsimp only
      rw [Comp.go_bind_ok (supLoad_quiet hx .read), Comp.go_pure]
    have hbytes : leBytes 128 (leNat x) = x := by rw [← hlen, leBytes_leNat]
    unfold loadLines
    rw [Comp.go_bind_ok hline, Comp.go_bind_ok (ih (va := va + 128) ht), Comp.go_pure, hbytes]
    rfl

/-! ### The executing core -/

theorem State.isSup_of_sup : s.isSup = true := by simp [State.isSup, agentSlot, hc]
theorem State.coreNo_of_sup : s.coreNo = n := by simp [State.coreNo, hc]
theorem State.myCore_of_sup : s.myCore = s.core n := by rw [State.myCore, State.coreNo_of_sup hc]

theorem privileged_sup {g : Guard} (hg : s.guardTrue g = true) (f : State → Answer) : privileged g f s = f s := by
  rw [privileged, if_pos (State.isSup_of_sup hc), onGuard_true hg]

/-- A core without a target is reset where it asks for one (R358, R402). -/
theorem halt_noTarget (ht : (s.core n).target = none) : s.halt targetTrap = s.setCore n .initial := by
  have hhalt : s.halt targetTrap = s.coreFault n 0x0010 := by unfold State.halt; rw [hc]; rfl
  rw [hhalt]
  unfold State.coreFault
  dsimp only
  rw [ht]

theorem State.frameTarget_none (ht : (s.core n).target = none) (a : RegF) : s.frameTarget a = .error targetTrap := by
  rw [State.frameTarget, State.myCore_of_sup hc, ht]

theorem State.frameTarget_some {k : Nat} (ht : (s.core n).target = some k) {a : RegF} (ha : (s.readS a).toNat % 16777216 = 0) :
    s.frameTarget a = .ok k := by
  rw [State.frameTarget, State.myCore_of_sup hc, ht]
  exact if_pos ha

/-! ### SVRET (R358, R401) -/

theorem exec_svret_none {g : Guard} (hg : s.guardTrue g = true) (ht : (s.core n).target = none) :
    exec (.svret g) s = .next (s.halt targetTrap) := by
  show privileged g _ s = _
  rw [privileged_sup hc hg]
  simp only [State.myCore_of_sup hc, ht]

theorem exec_svret_some {g : Guard} (hg : s.guardTrue g = true) {k : Nat} (ht : (s.core n).target = some k) :
    exec (.svret g) s = .next (if (s.core n).withdrawn then s.setCore n .initial
      else (s.setCore n .initial).dispose k (s.byteAt ((s.core n).record + 56))) := by
  show privileged g _ s = _
  rw [privileged_sup hc hg]
  simp only [State.myCore_of_sup hc, State.coreNo_of_sup hc, ht]

/-! ### RSAVE and RREST (R358) -/

theorem exec_rsave {g : Guard} (hg : s.guardTrue g = true) (a : RegF) :
    exec (.rsave g a) s = finish (do saveTarget a; update fun t => t.retire 4) s := privileged_sup hc hg _

theorem exec_rrest {g : Guard} (hg : s.guardTrue g = true) (a : RegF) :
    exec (.rrest g a) s = finish (do restoreTarget a; update fun t => t.retire 4) s := privileged_sup hc hg _

/-- Without a target a core that would save or restore stops. -/
theorem saveTarget_none (ht : (s.core n).target = none) (a : RegF) : Comp.go (saveTarget a) s = (.error targetTrap, s) := by
  unfold saveTarget
  rw [Comp.go_bind_ok (Comp.go_get s), State.frameTarget_none hc ht, Comp.go_bind_error (Comp.go_ofStop_error ..)]

theorem restoreTarget_none (ht : (s.core n).target = none) (a : RegF) : Comp.go (restoreTarget a) s = (.error targetTrap, s) := by
  unfold restoreTarget
  rw [Comp.go_bind_ok (Comp.go_get s), State.frameTarget_none hc ht, Comp.go_bind_error (Comp.go_ofStop_error ..)]

section
variable {k : Nat} {a : RegF} (ht : (s.core n).target = some k) (ha : (s.readS a).toNat % 16777216 = 0)
include ht ha

/-- A withdrawn target leaves nothing to save or restore (R358). -/
theorem saveTarget_withdrawn (hw : (s.core n).withdrawn = true) : Comp.go (saveTarget a) s = (.ok (), s) := by
  unfold saveTarget
  rw [Comp.go_bind_ok (Comp.go_get s), State.frameTarget_some hc ht ha, Comp.go_bind_ok (Comp.go_ofStop_ok ..), State.myCore_of_sup hc,
    if_pos hw, Comp.go_pure]

theorem restoreTarget_withdrawn (hw : (s.core n).withdrawn = true) : Comp.go (restoreTarget a) s = (.ok (), s) := by
  unfold restoreTarget
  rw [Comp.go_bind_ok (Comp.go_get s), State.frameTarget_some hc ht ha, Comp.go_bind_ok (Comp.go_ofStop_ok ..), State.myCore_of_sup hc,
    if_pos hw, Comp.go_pure]

theorem saveTarget_go (hw : (s.core n).withdrawn = false) (hcheck : s.supCheck .write (s.readS a) 8 = none) :
    Comp.go (saveTarget a) s = match s.frameWait (s.homeOf (s.readS a).toNat)
        (s.frameSections k (s.ctx k).provisional) with
      | some w => (.error (.wait w), s)
      | none => (.ok (), if s.region (s.readS a).toNat = .creel then s
          else s.saveFrame k (s.homeOf (s.readS a).toNat) (s.ctx k).provisional) := by
  unfold saveTarget
  rw [Comp.go_bind_ok (Comp.go_get s), State.frameTarget_some hc ht ha, Comp.go_bind_ok (Comp.go_ofStop_ok ..), State.myCore_of_sup hc,
    if_neg (by simp [hw]), hcheck]
  dsimp only
  cases s.frameWait (s.homeOf (s.readS a).toNat) (s.frameSections k (s.ctx k).provisional) <;> rfl

theorem restoreTarget_go (hw : (s.core n).withdrawn = false) (hcheck : s.supCheck .read (s.readS a) 8 = none) {base : Nat} {t u : State}
    (hbase : base = s.homeOf (s.readS a).toNat) (hs : t = s.scrubFrame base) (hu : u = t.loadFrame k base (t.vregBanks k))
    (hfits : t.frameFits k base = true) (hwait : t.frameWait base (u.frameSections k false) = none)
    (hbad : t.frameBad base (u.frameSections k false) = false) : Comp.go (restoreTarget a) s = (.ok (), u) := by
  subst hbase hs hu
  unfold restoreTarget
  rw [Comp.go_bind_ok (Comp.go_get s), State.frameTarget_some hc ht ha, Comp.go_bind_ok (Comp.go_ofStop_ok ..), State.myCore_of_sup hc,
    if_neg (by simp [hw]), hcheck]
  dsimp only
  rw [Comp.go_bind_ok (Comp.go_update s _), Comp.go_bind_ok (Comp.go_get _), hfits, Comp.go_bind_ok (Comp.go_need_true _ _), hwait]
  dsimp only
  rw [hbad, Bool.not_false, Comp.go_bind_ok (Comp.go_need_true _ _), Comp.go_set]
end
end

/-! ### The end of an event (R401) -/

/-- A disposition other than 0 terminates the context. -/
theorem State.dispose_terminates {s : State} {k : Nat} {e : Event} {disp : Byte} (he : (s.ctx k).event = some e) (hd : disp ≠ 0) :
    s.dispose k disp = (s.modCtx k fun y => { y with event := none }).terminate k (e.record.terminated s.timeNs) := by
  unfold State.dispose
  rw [he]
  exact if_neg hd

/-- Disposition 0 resumes the context: where a cluster raised the event and no event waits, nothing else changes. -/
theorem State.dispose_resumes {s : State} {k : Nat} {e : Event} (he : (s.ctx k).event = some e) (hsrc : e.source = .cluster)
    (hwait : (s.ctx k).waiting = []) (hidle : (s.ctx k).allIdle = false) :
    s.dispose k 0 = s.modCtx k fun y => { y with event := none } := by
  have hend : (s.modCtx k fun y => y).endEvent k = s.modCtx k fun y => { y with event := none } := by
    unfold State.endEvent
    rw [State.ctx_modCtx_same]
    dsimp only
    rw [hwait]
    exact State.modCtx_modCtx ..
  have hbusy : ((s.modCtx k fun y => { y with event := none }).ctx k).allIdle = false := by
    rw [State.ctx_modCtx_same]
    exact hidle
  unfold State.dispose
  rw [he]
  dsimp only
  rw [if_pos rfl, hsrc]
  show (((s.modCtx k fun y => y).endEvent k).endingIfIdle k) = _
  rw [hend]
  unfold State.endingIfIdle
  rw [if_neg (by rw [hbusy]; exact Bool.false_ne_true)]

/-! ### TLBI (R359) -/

/-- What TLBI keeps: all but translations, walk caches and what hanks still stage. -/
def Invalidated (s t : State) (x : TlbiScope) : Prop :=
  t = { s with tlb := s.tlb.filter fun e => !s.inScope x e, walkCache := t.walkCache, hanks := t.hanks }
    ∧ ∀ b, ∀ e ∈ t.walkCache.get [] b, x.hasWalk e = false

theorem State.performAll_none {s : State} (h : s.NoStores) (k : Nat) : s.performAll k = s := by
  have hnone : ∀ c, s.performStores k c = s := fun c => by unfold State.performStores; rw [h k c]; rfl
  simp only [State.performAll, hnone]

theorem State.performWhere_none {s : State} (h : s.NoStores) (f : LateStore → Bool) : s.performWhere f = s := by
  unfold State.performWhere
  induction s.ctxs.filter _ with
  | nil => rfl
  | cons p l ih => rw [List.foldl_cons, State.performAll_none h, ih]

/-- What a map gives is its default or stands in it. -/
theorem SMap.get_eq_or_mem {α : Type} (d : α) (m : SMap α) (i : Nat) : m.get d i = d ∨ ∃ k, (k, m.get d i) ∈ m := by
  induction m with
  | nil => exact .inl rfl
  | cons p m ih =>
    obtain ⟨k, v⟩ := p
    unfold SMap.get
    split
    · exact .inr ⟨k, List.mem_cons_self⟩
    · exact ih.imp id fun ⟨j, h⟩ => ⟨j, List.mem_cons_of_mem _ h⟩

theorem invalidated_invalidate {s : State} (h : s.NoStores) (x : TlbiScope) : Invalidated s (s.invalidate x) x := by
  unfold State.invalidate
  rw [State.performWhere_none h]
  refine ⟨rfl, fun b e he => ?_⟩
  rcases SMap.get_eq_or_mem [] ((s.walkCache.map fun (p : Nat × List WalkEntry) =>
      (p.1, p.2.filter fun e => !x.hasWalk e)).filter fun p => !p.2.isEmpty) b with hnil | ⟨k, hk⟩
  · exact absurd (hnil ▸ he) List.not_mem_nil
  · obtain ⟨p, -, hp⟩ := List.mem_map.1 (List.mem_of_mem_filter hk)
    have hfilter := (Prod.mk.inj hp).2
    have hmem : e ∈ p.2.filter fun e => !x.hasWalk e := hfilter ▸ he
    simpa using (List.mem_filter.1 hmem).2

section
variable {s : State} {n : Nat} (hc : s.cur = .sup n) {g : Guard} (hg : s.guardTrue g = true)
include hc hg

theorem exec_tlbi_all (a : RegF) : exec (.tlbi g a 0) s = .next ((s.invalidate { asd := none, page := none }).retire 4) :=
  privileged_sup hc hg _

theorem exec_tlbi_space (a : RegF) :
    exec (.tlbi g a 2) s = .next ((s.invalidate { asd := some (s.readS a).toNat, page := none }).retire 4) := privileged_sup hc hg _

theorem exec_tlbi_page {a : RegF} {l : List Byte} (hl : s.SupReads (s.readS a) 1 16 l) : exec (.tlbi g a 1) s
    = .next ((s.invalidate { asd := some (natIn l 0 8), page := some (natIn l 8 8 / 65536) }).retire 4) := by
  refine (privileged_sup hc hg _).trans (finish_ok ?_)
  rw [if_neg (by decide), if_pos rfl, Comp.go_bind_ok (supBytes_go 16 hl)]
  rfl

/-! ### LTLD and RECODE (R96, R360) -/

theorem exec_ltld {set : BitVec 2} {a : RegF} {l : List Byte} (ha : (s.readS a).toNat % 1024 = 0) (hl : s.SupReads (s.readS a) 128 8 l)
    (hok : Lattice.setOk l = true) :
    exec (.ltld g set a) s = .next (State.retire { s with lattice := s.lattice.set none set.toNat (some l) } 4) := by
  refine (privileged_sup hc hg _).trans (finish_ok ?_)
  dsimp only
  rw [decide_eq_true ha, Comp.go_bind_ok (Comp.go_need_true ..), Comp.go_bind_ok (loadLines_go hc 8 hl), hok,
    Comp.go_bind_ok (Comp.go_need_true ..), Comp.go_update]

theorem exec_recode {d a : RegF} {l : List Byte} (hl : s.SupReads (s.readS a) 1 32 l) :
    let r := s.submitRecode l false
    exec (.recode g d a) s = .next ((r.1.writeS d (BitVec.ofNat 64 r.2)).retire 4) := by
  refine (privileged_sup hc hg _).trans (finish_ok ?_)
  rw [Comp.go_bind_ok (supBytes_go 32 hl)]
  rfl
end

/-- The job of a record, as RECODE queues it (R360). -/
theorem RecJob.of_eq (l : List Byte) (fromHost : Bool) :
    ({ asd := natIn l 0 8, va := natIn l 8 8, lines := natIn l 16 4, fmt := BitVec.ofNat 5 (natIn l 20 1), rtz := natIn l 21 1 % 2 = 1
       ply := natIn l 21 1 / 2 % 2 = 1, cmpl := natIn l 24 8, fromHost := fromHost, next := 0, rewritten := 0, skipped := 0
       refused := 0, freed := 0, stuckSince := none, transit := none, fold := none } : RecJob) = .of l fromHost := by
  rw [RecJob.of, Nat.testBit_zero, Nat.testBit_succ, Nat.testBit_zero]

/-- RECODE judges its record and queues the job (R360). -/
theorem recodeJudged_submitRecode (s : State) (l : List Byte) (fromHost : Bool) :
    RecodeJudged s (s.submitRecode l fromHost).1 l fromHost (s.submitRecode l fromHost).2 := by
  have hsubmit : s.submitRecode l fromHost = if recodeBad l then (s, 2)
      else if 64 ≤ s.recJobs.length then (s, 1) else ({ s with recJobs := s.recJobs ++ [.of l fromHost] }, 0) := by
    rw [← RecJob.of_eq, recodeBad, State.submitRecode]
    simp only [bne, ← decide_not, beq_eq_decide]
  rw [hsubmit, RecodeJudged]
  split
  · exact ⟨rfl, rfl⟩
  · split <;> exact ⟨rfl, rfl⟩

/-- Settles O42: each instruction by the equation of its meaning on the operands that it accepts. -/
theorem supervisorCores : Obligations.SupervisorCores := by
  intro s n g d a hc hg x va idle
  refine ⟨fun ht => ?noTarget, fun k ht => ⟨fun hw => ?withdrawn, fun hw => ⟨fun e he => ?svret, fun ha => ?frame⟩⟩, fun hs => ?tlbi,
    fun set l ha hl hok => exec_ltld hc hg ha hl hok, fun l hl => ?recode⟩
  case noTarget =>
    have hreset := halt_noTarget hc ht
    rw [exec_svret_none hc hg ht, exec_rsave hc hg, exec_rrest hc hg, finish_error (Comp.go_bind_error (saveTarget_none hc ht a)),
      finish_error (Comp.go_bind_error (restoreTarget_none hc ht a)), hreset]
    exact ⟨rfl, rfl, rfl⟩
  case withdrawn =>
    refine ⟨?_, fun ha => ⟨?_, ?_⟩⟩
    · rw [exec_svret_some hc hg ht]
      exact congrArg _ (if_pos hw)
    · rw [exec_rsave hc hg, finish_retire (saveTarget_withdrawn hc ht ha hw)]
    · rw [exec_rrest hc hg, finish_retire (restoreTarget_withdrawn hc ht ha hw)]
  case svret =>
    have hexec : exec (.svret g) s = .next (idle.dispose k (s.byteAt (x.record + 56))) := by
      rw [exec_svret_some hc hg ht]
      exact congrArg _ (if_neg (by rw [hw]; exact Bool.false_ne_true))
    replace he : (idle.ctx k).event = some e := he
    rw [hexec]
    refine ⟨fun hd hsrc hwait hidle => ?_, fun hd => ?_⟩
    · rw [hd, State.dispose_resumes he hsrc hwait hidle]
    · rw [State.dispose_terminates he hd]
      rfl
  case frame =>
    intro base
    refine ⟨fun hcheck => ?_, fun hcheck => ?_⟩
    · have hgo := saveTarget_go hc ht ha hw hcheck
      rw [exec_rsave hc hg]
      cases hf : s.frameWait base (s.frameSections k (s.ctx k).provisional) with
      | none => rw [hf] at hgo; exact finish_retire hgo
      | some w => rw [hf] at hgo; exact finish_error (Comp.go_bind_error hgo)
    · intro t u hfits hwait hbad
      rw [exec_rrest hc hg]
      exact finish_retire (restoreTarget_go hc ht ha hw hcheck rfl rfl rfl hfits hwait hbad)
  case tlbi =>
    intro drops
    have hdrops : ∀ {kind : BitVec 5} {y : TlbiScope}, exec (.tlbi g a kind) s = .next ((s.invalidate y).retire 4) → drops kind y :=
      fun h => ⟨_, h, invalidated_invalidate hs _⟩
    exact ⟨hdrops (exec_tlbi_all hc hg a), hdrops (exec_tlbi_space hc hg a), fun l hl => hdrops (exec_tlbi_page hc hg hl)⟩
  case recode =>
    exact ⟨_, _, _, exec_recode hc hg hl, recodeJudged_submitRecode s l false, State.pass_spec ..⟩

end Sys2Proof.Machine
end

section
/-! PROOFS. CSRW of BANKCFG and the caches (R110, R111, R118). -/

namespace Sys2Proof.Machine

/-- CSRW to BANKCFG completes, and the line has left L1 (R118). -/
theorem lineInWay_csrw : ∃ t, exec bankWrite lineInWay = .next t ∧ t.l1 = [] := by
  refine ⟨_, rfl, ?_⟩
  decide +kernel

/-- Refutes O36: CSRW of BANKCFG on a bank that leaves CACHE drops the lines of the bank's way from L1 (R110, R118), where
`BankConfigured` lets only contexts, banks and scratchpad change. -/
theorem not_controlRegisters : ¬ Obligations.ControlRegisters := by
  intro h
  obtain ⟨-, hwrite, -⟩ := h
  have hcur : lineInWay.cur = .cluster 0 .C := by decide +kernel
  have hguard : lineInWay.guardTrue { neg := false, sel := 7 } = true := by decide +kernel
  obtain ⟨-, -, -, -, -, -, hbank, -⟩ := hwrite lineInWay 0 .C { neg := false, sel := 7 } 1 hcur hguard
  have hvalue : lineInWay.readS 1 = 0x100 := by decide +kernel
  rw [hvalue] at hbank
  have hconf := (hbank rfl).1
  rw [show lineInWay.bankOutcome 0 (BitVec.extractLsb' 0 6 (0x100 : Word)).toNat (BitVec.extractLsb' 8 2 (0x100 : Word)).toNat = some 0
    from lineInWay_outcome] at hconf
  obtain ⟨w, hexec, hframe, -⟩ := hconf
  obtain ⟨t, ht, hl1⟩ := lineInWay_csrw
  have hsame : t.l1 = lineInWay.l1 := by
    have hw : t = w.retire 4 := Host.Outcome.next.inj (ht.symm.trans hexec)
    rw [hw, State.retire, State.modMe_l1, hframe]
  rw [hl1] at hsame
  cases hsame

end Sys2Proof.Machine
end

section
/-! PROOFS. Vector length, register capacity and register tags (R58, R113, R114, R264, R297, R299). -/

namespace Sys2Proof.Machine

/-! ### Sparse maps whose values are cut down -/

section
variable {α : Type} {d : α} {lo : Nat} {m : SMap α}

theorem SMap.rising_map {β : Type} (f : α → β) (h : SMap.rising lo m = true) : SMap.rising lo (m.map fun p => (p.1, f p.2)) = true := by
  induction m generalizing lo with
  | nil => rfl
  | cons p t ih =>
    simp only [SMap.rising, List.map_cons, Bool.and_eq_true] at *
    exact ⟨h.1, ih h.2⟩

/-- Dropping entries that hold the default changes no value. -/
theorem SMap.get_filter_default {f : Nat × α → Bool} (hm : SMap.rising lo m = true) (hf : ∀ p, f p = false → p.2 = d) (i : Nat) :
    SMap.get d (m.filter f) i = SMap.get d m i := by
  induction m generalizing lo with
  | nil => rfl
  | cons p t ih =>
    obtain ⟨k, v⟩ := p
    simp only [SMap.rising, Bool.and_eq_true] at hm
    cases hp : f (k, v) with
    | true => simp only [List.filter_cons, hp, if_true, SMap.get, ih hm.2]
    | false =>
      have hv : v = d := hf _ hp
      simp only [List.filter_cons, hp, Bool.false_eq_true, if_false, SMap.get, ih hm.2]
      split
      · rename_i hk
        rw [hv, SMap.get_of_rising hm.2 (by omega)]
      · rfl

theorem SMap.le_of_rising (hm : SMap.rising lo m = true) : ∀ p ∈ m, lo ≤ p.1 := by
  induction m generalizing lo with
  | nil => simp
  | cons q t ih =>
    simp only [SMap.rising, Bool.and_eq_true, decide_eq_true_eq] at hm
    simp only [List.mem_cons, forall_eq_or_imp]
    exact ⟨hm.1, fun p hp => by have := ih hm.2 p hp; omega⟩

/-- Behind its last key a map holds the default. -/
theorem SMap.get_beyond_last {q : Nat × α} (hm : SMap.rising lo m = true) (hq : m.getLast? = some q) {i : Nat} (hi : q.1 < i) :
    SMap.get d m i = d := by
  induction m generalizing lo with
  | nil => rfl
  | cons p t ih =>
    obtain ⟨k, v⟩ := p
    simp only [SMap.rising, Bool.and_eq_true, decide_eq_true_eq] at hm
    cases t with
    | nil =>
      obtain rfl : (k, v) = q := by simpa using hq
      simp [SMap.get, show k ≠ i from Nat.ne_of_lt hi]
    | cons r t =>
      have hlast : (r :: t).getLast? = some q := by simpa using hq
      have hk : k < q.1 := SMap.le_of_rising hm.2 _ (List.mem_of_getLast? hlast)
      simp only [SMap.get, show ¬k = i by omega, if_false]
      exact ih hm.2 hlast
end

/-! ### Register capacity (R113) -/

/-- The capacity `c` can be granted to a request for `n`: it is not more than that, and at least 4 banks stay in CACHE mode. -/
def State.MayHold (s : State) (slot n c : Nat) : Prop := c ≤ n ∧ c - (s.ctx slot).vcap ≤ (s.cacheBanks slot).length - 4

/-- The first capacity of the descending list on which `p` holds, or 1, is the largest one. -/
theorem find_capacity (p : Nat → Bool) : ([8, 4, 2].find? p).getD 1 ∈ [1, 2, 4, 8]
    ∧ (([8, 4, 2].find? p).getD 1 = 1 ∨ p (([8, 4, 2].find? p).getD 1) = true)
    ∧ ∀ b ∈ [2, 4, 8], ([8, 4, 2].find? p).getD 1 < b → p b = false := by
  cases h8 : p 8
  · cases h4 : p 4
    · cases h2 : p 2 <;> simp [List.find?, h8, h4, h2]
    · simp [List.find?, h8, h4]
  · simp [List.find?, h8]

/-- The largest capacity that can be granted is granted, and at least 1. -/
theorem State.grantedCap_spec (s : State) (slot n : Nat) :
    s.grantedCap slot n ∈ [1, 2, 4, 8] ∧ (s.grantedCap slot n = 1 ∨ s.MayHold slot n (s.grantedCap slot n))
      ∧ ∀ b ∈ [2, 4, 8], s.grantedCap slot n < b → ¬ s.MayHold slot n b := by
  have hfit (c : Nat) : s.MayHold slot n c ↔ (decide (c ≤ n) && decide (c - (s.ctx slot).vcap ≤ (s.cacheBanks slot).length - 4)) = true := by
    rw [Bool.and_eq_true, decide_eq_true_eq, decide_eq_true_eq, State.MayHold]
  simp only [hfit, Bool.not_eq_true]
  exact find_capacity _

/-- A change of capacity moves banks, and their ways in the caches, and nothing else. -/
theorem State.capBanks_frame (s : State) (slot c : Nat) :
    ∃ l1 l2 banks spm, s.capBanks slot c = { s with l1 := l1, l2 := l2, banks := banks, spm := spm } := by
  unfold State.capBanks
  dsimp only
  split <;> exact ⟨_, _, _, _, rfl⟩

/-- A change of capacity takes CACHE banks, or returns banks of the slot to CACHE. -/
theorem State.bank_capBanks (s : State) (slot c : Nat) {b : Nat}
    (h : (s.capBanks slot c).bank (spindleOf slot) b ≠ s.bank (spindleOf slot) b) :
    (s.bank (spindleOf slot) b = .cache ∧ (s.capBanks slot c).bank (spindleOf slot) b = .vreg (slot % 2))
      ∨ (s.bank (spindleOf slot) b = .vreg (slot % 2) ∧ (s.capBanks slot c).bank (spindleOf slot) b = .cache) := by
  revert h
  unfold State.capBanks
  dsimp only
  split <;> rw [State.bank_setBanks] <;> split <;> intro h
  case isTrue.isTrue hb =>
    have hmem := List.mem_of_mem_take hb
    simp only [State.cacheBanks, State.banksWith, List.mem_filter, beq_iff_eq] at hmem
    exact .inl ⟨hmem.2, rfl⟩
  case isFalse.isTrue hb =>
    have hmem := List.mem_of_mem_drop hb
    simp only [State.banksWith, List.mem_filter, beq_iff_eq] at hmem
    exact .inr ⟨hmem.2, rfl⟩
  all_goals exact absurd rfl h

/-- A vector register whose elements at or above the VLMAX of a capacity are discarded. -/
def VReg.cut (c lanes : Nat) (x : VReg) : VReg :=
  let n := vlmaxOf (Fmt.width x.strip.tag.fmt) c lanes
  { x with strip := { x.strip with
      elems := x.strip.elems.filter fun e => e.1 < n
      scales := x.strip.scales.filter fun e => e.1 * 256 / Fmt.width x.strip.tag.fmt < n } }

theorem VReg.cut_code (c lanes : Nat) (x : VReg) (i : Nat) : (x.cut c lanes).strip.code i
    = if i < vlmaxOf x.strip.tag.f.width c lanes then x.strip.code i else 0 := by
  have h := SMap.get_filter (d := 0) (m := x.strip.elems) (fun j => decide (j < vlmaxOf x.strip.tag.f.width c lanes)) i
  simp only [decide_eq_true_eq] at h
  exact h

/-- A change of capacity cuts every vector register. -/
theorem Ctx.vregs_withCap {x : Ctx} (h : SMap.wf VReg.initial x.vregs = true) (c lanes r : Nat) :
    (x.withCap c lanes).vregs.get .initial r = (x.vregs.get .initial r).cut c lanes := by
  have hrising := SMap.rising_map (VReg.cut c lanes) (SMap.wf_iff.1 h).1
  refine (SMap.get_filter_default (f := fun p => p.2 != VReg.initial) hrising (fun p hp => ?_) r).trans (SMap.get_map rfl x.vregs r)
  simpa using hp

/-- A mask whose bits at or above `top` are discarded. -/
def cutMask (top : Nat) (y : SMap Bool) : SMap Bool := y.filter fun e => e.1 < top

/-- A change of capacity clears the bits of every mask at or above the new VLMAX. -/
theorem Ctx.masks_withCap {x : Ctx} (h : SMap.wf [] x.masks = true) (c lanes k i : Nat) :
    SMap.get false ((x.withCap c lanes).masks.get [] k) i
      = if i < vlmaxOf 4 c lanes then SMap.get false (x.masks.get [] k) i else false := by
  have hrising := SMap.rising_map (cutMask (vlmaxOf 4 c lanes)) (SMap.wf_iff.1 h).1
  have hmask : (x.withCap c lanes).masks.get [] k = cutMask (vlmaxOf 4 c lanes) (x.masks.get [] k) :=
    (SMap.get_filter_default (f := fun p => !p.2.isEmpty) hrising (fun p hp => by simpa using hp) k).trans
      (SMap.get_map (f := cutMask (vlmaxOf 4 c lanes)) rfl x.masks k)
  rw [hmask]
  simpa [cutMask] using SMap.get_filter (d := false) (m := x.masks.get [] k) (fun j => decide (j < vlmaxOf 4 c lanes)) i

/-! ### A register's bits under another width (R58, R299) -/

/-- Of two element widths the smaller divides the larger: all are powers of two. -/
theorem Fmt.width_dvd {f g : Fmt} (h : f.width ≤ g.width) : f.width ∣ g.width := by
  have hpow (f : Fmt) : ∃ k, f.width = 2 ^ k := by
    have hmem : f.width ∈ [2 ^ 6, 2 ^ 5, 2 ^ 4, 2 ^ 2, 2 ^ 3] := by
      unfold Fmt.width
      split <;> decide
    simp only [List.mem_cons, List.not_mem_nil, or_false] at hmem
    rcases hmem with h | h | h | h | h <;> exact ⟨_, h⟩
  obtain ⟨i, hi⟩ := hpow f
  obtain ⟨j, hj⟩ := hpow g
  rw [hi, hj] at h ⊢
  exact Nat.pow_dvd_pow 2 ((Nat.pow_le_pow_iff_right Nat.one_lt_two).1 h)

/-- The bits of numbers that stand side by side, `n` bits each. -/
theorem testBit_sum_fields (a : Nat → Nat) (n : Nat) (ha : ∀ j, a j < 2 ^ n) (k : Nat) :
    ((List.range k).map fun j => a j * 2 ^ (j * n)).sum < 2 ^ (k * n)
      ∧ ∀ b < k * n, ((List.range k).map fun j => a j * 2 ^ (j * n)).sum.testBit b = (a (b / n)).testBit (b % n) := by
  induction k with
  | zero => simp
  | succ k ih =>
    obtain ⟨hlt, hbit⟩ := ih
    have hsum : ((List.range (k + 1)).map fun j => a j * 2 ^ (j * n)).sum
        = 2 ^ (k * n) * a k + ((List.range k).map fun j => a j * 2 ^ (j * n)).sum := by
      rw [List.range_succ, List.map_append, List.sum_append, List.map_singleton, List.sum_singleton]
      ring
    rw [hsum]
    refine ⟨?_, fun b hb => ?_⟩
    · calc 2 ^ (k * n) * a k + _ < 2 ^ (k * n) * a k + 2 ^ (k * n) := by omega
        _ = 2 ^ (k * n) * (a k + 1) := by ring
        _ ≤ 2 ^ (k * n) * 2 ^ n := Nat.mul_le_mul_left _ (ha k)
        _ = 2 ^ ((k + 1) * n) := by ring
    · rw [Nat.testBit_two_pow_mul_add _ hlt]
      split
      · exact hbit b ‹_›
      · rename_i hge
        have hk : b = k * n + (b - k * n) := by omega
        have hr : b - k * n < n := by rw [Nat.add_mul] at hb; omega
        have hdiv : b / n = k := Nat.div_eq_of_lt_le (by omega) hb
        have hmod : b % n = b - k * n := by rw [Nat.mod_eq_sub_div_mul, hdiv]
        rw [hdiv, hmod]

/-- A code of `n` bits repacked into wider or narrower ones: the bit at place `p` stays at place `p`. -/
theorem repackCode_bit {old : SMap Word} {w0 w : Nat} (hw : 0 < w) (hw0 : 0 < w0) (hw64 : w ≤ 64) (hdvd : w ∣ w0 ∨ w0 ∣ w)
    (hcode : ∀ i, (old.get 0 i).toNat < 2 ^ w0) (p : Nat) :
    (repackCode old w0 w (p / w)).getLsbD (p % w) = (old.get 0 (p / w0)).getLsbD (p % w0) := by
  have hmod : p % w < w := Nat.mod_lt _ hw
  have hbit (x : Nat) : (BitVec.ofNat 64 x).getLsbD (p % w) = x.testBit (p % w) := by
    rw [BitVec.getLsbD_ofNat, decide_eq_true (by omega : p % w < 64), Bool.true_and]
  unfold repackCode
  split
  case isTrue hle =>
    obtain ⟨m, rfl⟩ : w ∣ w0 := hdvd.elim id fun h => by rw [Nat.le_antisymm hle (Nat.le_of_dvd hw h)]
    have hindex : p / w * w / (w * m) = p / (w * m) := by
      rw [Nat.mul_comm (p / w), Nat.mul_div_mul_left _ _ hw, Nat.div_div_eq_div_mul]
    have hplace : p / w * w % (w * m) + p % w = p % (w * m) := by
      rw [Nat.mul_comm (p / w), Nat.mul_mod_mul_left, Nat.mod_mul (x := p), Nat.add_comm]
    rw [hbit, Nat.testBit_mod_two_pow, decide_eq_true hmod, Bool.true_and, Nat.testBit_div_two_pow, hindex, Nat.add_comm, hplace,
      BitVec.testBit_toNat]
  case isFalse hgt =>
    obtain ⟨m, rfl⟩ : w0 ∣ w := hdvd.elim (fun h => absurd (Nat.le_of_dvd hw0 h) hgt) id
    have hm : w0 * m / w0 = m := Nat.mul_div_cancel_left _ hw0
    have hfields := (testBit_sum_fields (fun j => (old.get 0 (p / (w0 * m) * m + j)).toNat) w0 (fun _ => hcode _) m).2 (p % (w0 * m))
      (by rw [Nat.mul_comm m]; exact hmod)
    have hindex : p / (w0 * m) * m + p % (w0 * m) / w0 = p / w0 := by
      rw [Nat.mod_mul_right_div_self, ← Nat.div_div_eq_div_mul, Nat.div_add_mod']
    rw [hbit, hm, hfields, hindex, Nat.mod_mul_right_mod, BitVec.testBit_toNat]

/-- A register's bits read under another width stay where they are. -/
theorem repack_bit {old : SMap Word} {w0 w : Nat} (hw : 0 < w) (hw0 : 0 < w0) (hw64 : w ≤ 64) (hdvd : w ∣ w0 ∨ w0 ∣ w)
    (hold : SMap.wf 0 old = true) (hcode : ∀ i, (old.get 0 i).toNat < 2 ^ w0) (p : Nat) :
    ((repack old w0 w).get 0 (p / w)).getLsbD (p % w) = (old.get 0 (p / w0)).getLsbD (p % w0) := by
  unfold repack
  split
  case h_1 hlast =>
    rw [List.getLast?_eq_none_iff.1 hlast]
    simp [SMap.get]
  case h_2 q hlast =>
    rw [SMap.get_tabulate]
    split
    · exact repackCode_bit hw hw0 hw64 hdvd hcode p
    · rename_i hout
      have hbeyond : (q.1 + 1) * w0 ≤ p := by
        by_contra hin
        have hstep : p / w + 1 ≤ ((q.1 + 1) * w0 + w - 1) / w := by
          rw [← Nat.add_div_right p hw]
          exact Nat.div_le_div_right (by omega)
        exact hout hstep
      have hpast : q.1 < p / w0 := (Nat.le_div_iff_mul_le hw0).2 hbeyond
      rw [SMap.get_beyond_last (SMap.wf_iff.1 hold).1 hlast hpast]
      simp

/-- Under a new tag every bit of a register's elements stays where it is (R299). -/
theorem Strip.retag_bit {x : Strip} {t : VTag} (hx : SMap.wf 0 x.elems = true) (hcode : ∀ i, (x.code i).toNat < 2 ^ x.tag.f.width)
    (p : Nat) : ((x.retag t).code (p / t.f.width)).getLsbD (p % t.f.width) = (x.code (p / x.tag.f.width)).getLsbD (p % x.tag.f.width) := by
  have hpos (f : Fmt) : 0 < f.width := by have := Fmt.width_pos f; omega
  show ((if x.tag.f.width = t.f.width then x.elems else repack x.elems x.tag.f.width t.f.width).get 0 _).getLsbD _ = _
  split
  · rename_i hw
    rw [hw]
    rfl
  · exact repack_bit (hpos _) (hpos _) (Fmt.width_le _) ((Nat.le_total _ _).imp Fmt.width_dvd Fmt.width_dvd) hx hcode p

/-! ### The instructions -/

/-- The tag fields that software may write make an acceptable word (R299). -/
theorem vtagOk_of {v : Word} (hv : v.toNat < 2 ^ 10) (hf : (VTag.ofWord v).f.allocated = true)
    (hs : (VTag.ofWord v).vsum ∈ [vsValid, vsZero, vsPoison]) (hb : (VTag.ofWord v).blk ≠ 3)
    (hz : (VTag.ofWord v).blk = 0 ∨ (VTag.ofWord v).f.isScaled = true) : vtagOk v = true := by
  have hhigh : v.extractLsb' 10 54 = 0 := BitVec.eq_of_toNat_eq (by
    rw [BitVec.extractLsb'_toNat, Nat.shiftRight_eq_div_pow, Nat.div_eq_of_lt hv]
    rfl)
  have hz' : ((VTag.ofWord v).blk == 0 || (VTag.ofWord v).f.isScaled) = true := by simpa using hz
  have hs' : ((VTag.ofWord v).vsum == vsValid || (VTag.ofWord v).vsum == vsZero || (VTag.ofWord v).vsum == vsPoison) = true := by
    simpa [or_assoc] using hs
  unfold vtagOk
  dsimp only
  rw [hhigh, hf, hs', hz']
  simpa using hb

/-- A write of a vector register changes it alone. -/
theorem vregBecomes_setVreg (s : State) (d : RegF) {x : Strip} {p : Strip → Prop} (hp : p x) : VregBecomes s (s.setVreg d x) d p := by
  have hreg (r : RegF) : (s.setVreg d x).vreg r = if r = d then x else s.vreg r := by
    unfold State.vreg State.setVreg
    rw [State.myCtx_modMyCtx]
    dsimp only
    rw [SMap.get_set]
    by_cases h : d.toNat = r.toNat
    · rw [if_pos h, if_pos (BitVec.eq_of_toNat_eq h.symm)]
    · rw [if_neg h, if_neg fun e => h (by rw [e])]
  refine ⟨inContext_modMyCtx s _, ?_, ?_, fun r hr => ?_⟩
  · unfold State.setVreg
    rw [State.myCtx_modMyCtx]
  · rwa [hreg, if_pos rfl]
  · rw [hreg, if_neg hr]

/-- VTAGR delivers the tag as a word. -/
theorem exec_vtagr {s : State} {g : Guard} (hg : s.guardTrue g = true) (d a : RegF) :
    exec (.vtagr g d a) s = .next ((s.writeS d (s.vreg a).tag.word).retire 4) :=
  settle_ok (f := fun s => .ok (s.writeS d (s.vreg a).tag.word)) hg rfl

/-- VTAGW of an acceptable word. -/
theorem writeVtag_ok {s : State} {d a : RegF} (h : vtagOk (s.readS a) = true) :
    writeVtag d a s = .ok (s.setVreg d ((s.vreg d).retag (VTag.ofWord (s.readS a)))) := by
  unfold writeVtag
  dsimp only
  rw [firstOf_ok (by simpa [Allowed] using h)]
  rfl

/-- The state after SETVCAP but for its result: a granted capacity other than the present one moves banks and cuts the registers. -/
def State.withCapacity (s : State) (c : Nat) : State :=
  if c = s.myCtx.vcap then s else (s.capBanks s.slot c).modMyCtx fun x => x.withCap c (s.laneCount s.slot)

/-- SETVCAP grants a capacity, takes it and delivers it. -/
theorem exec_setvcap {s : State} {g : Guard} (hg : s.guardTrue g = true) (d n : RegF) :
    exec (.setvcap g d n) s = .next (((s.withCapacity (s.grantedCap s.slot n.toNat)).writeS d
      (BitVec.ofNat 64 (s.grantedCap s.slot n.toNat))).retire 4) := settle_ok (f := setCapacity d n) hg rfl

section
variable {s : State} {c : Nat} (h : c ≠ s.myCtx.vcap)
include h

/-- The executing context after a change of capacity. -/
theorem State.myCtx_withCapacity : (s.withCapacity c).myCtx = s.myCtx.withCap c (s.laneCount s.slot) := by
  obtain ⟨l1, l2, banks, spm, hb⟩ := s.capBanks_frame s.slot c
  rw [State.withCapacity, if_neg h, State.myCtx_modMyCtx, hb]
  rfl

/-- What a change of capacity leaves of the module. -/
theorem State.withCapacity_frame : (s.withCapacity c).mem = s.mem ∧ (s.withCapacity c).banks = (s.capBanks s.slot c).banks
    ∧ ∀ k, k ≠ s.slot → (s.withCapacity c).ctx k = s.ctx k := by
  obtain ⟨l1, l2, banks, spm, hb⟩ := s.capBanks_frame s.slot c
  rw [State.withCapacity, if_neg h, hb]
  exact ⟨rfl, rfl, fun k hk => State.ctx_modCtx_ne _ _ (Ne.symm hk)⟩

/-- VL is cut to the new VLMAX. -/
theorem State.vl_withCapacity : (s.withCapacity c).vl = min s.vl (vlmaxOf 4 c (s.laneCount s.slot)) := by
  rw [State.vl, State.myCtx_withCapacity h]
  exact Nat.mod_eq_of_lt (lt_of_le_of_lt (min_le_left ..) s.myCtx.v.vl.isLt)

end

/-- Settles O21: VTAGW by where each bit of the register stands, SETVCAP by the cut of the registers. -/
theorem vectorConfiguration : Obligations.VectorConfiguration := by
  refine ⟨fun s slot c g d a f hc hg => ⟨?length, ⟨_, exec_vtagr hg d a, State.pass_spec ..⟩, ?tag⟩,
    fun s slot g d n hc hg hv hm => ?capacity⟩
  case length =>
    intro v i hi
    have hexec : exec i s = settle g 4 (setLength d a f) s := by
      simp only [List.mem_cons, List.not_mem_nil, or_false] at hi
      rcases hi with rfl | rfl <;> rfl
    exact ⟨_, hexec.trans (settle_ok hg rfl), State.pass_spec ..⟩
  case tag =>
    intro v t hlt hf hs hb hz
    refine ⟨_, settle_ok hg (writeVtag_ok (vtagOk_of hlt hf hs hb hz)), vregBecomes_setVreg s d ⟨rfl, fun hscaled hblk k => ?_, ?_⟩⟩
    · show (if t.f.isScaled then copySlots t.fmt t.blk.toNat (s.vreg d).scales else []).get 0x7F k = _
      rw [if_pos hscaled, hblk]
      simp [copySlots]
    · exact fun hwf hcode => Strip.retag_bit hwf hcode
  case capacity =>
    have hslot : s.slot = slot := State.slot_of_cluster hc
    subst hslot
    intro lanes may
    obtain ⟨hmem, hmay, hmost⟩ := s.grantedCap_spec s.slot n.toNat
    refine ⟨_, _, _, exec_setvcap hg d n, State.pass_spec .., hmem, hmay, hmost, fun h => if_pos h, fun h => ?_⟩
    obtain ⟨hbytes, hbanks, hothers⟩ := State.withCapacity_frame h
    have hctx := State.myCtx_withCapacity h
    refine ⟨by rw [hctx]; rfl, State.vl_withCapacity h, fun r => ?_, fun k i => ?_, fun b => ?_, hothers, fun b hb => ?_⟩
    · have hreg := Ctx.vregs_withCap hv (s.grantedCap s.slot n.toNat) lanes r.toNat
      unfold State.vreg
      rw [hctx, hreg]
      exact ⟨rfl, VReg.cut_code _ _ _⟩
    · unfold State.maskBit
      rw [hctx]
      exact Ctx.masks_withCap hm ..
    · unfold State.byteAt
      rw [hbytes]
    · have hbank (b : Nat) : (s.withCapacity (s.grantedCap s.slot n.toNat)).bank (spindleOf s.slot) b
          = (s.capBanks s.slot (s.grantedCap s.slot n.toNat)).bank (spindleOf s.slot) b := by
        unfold State.bank
        rw [hbanks]
      rw [hbank] at hb ⊢
      exact State.bank_capBanks _ _ _ hb

end Sys2Proof.Machine
end

section
/-! PROOFS. Loads and stores of supervisor cores, by physical address (R106, R390, R401, R402, R427, R476). -/

namespace Sys2Proof.Machine

/-! ### The bytes and the waiters of a write by physical address -/

/-- The keys of the peers' memories (R380). -/
theorem State.region_peer (s : State) {pa : Nat} (h : peerBase ≤ pa) (hlt : pa < peerBase + 512 * fabricWindow) :
    s.region pa = .peer ((pa - peerBase) / fabricWindow) := by
  have hfar : ¬ pa < 0x006000000000 ∧ ¬ pa < 0x010000000000 ∧ ¬ pa < 0x100000000000 + 10 * tierWindow ∧ ¬ pa < 0x2000000000000
      ∧ ¬ pa < fabricBase + 512 * fabricWindow := by
    unfold peerBase at h
    unfold tierWindow fabricBase fabricWindow
    omega
  obtain ⟨h1, h2, h3, h4, h5⟩ := hfar
  unfold State.region
  rw [if_neg h1, if_neg (mt And.right h2), if_neg (mt And.right h3), if_neg (mt And.right h4), if_neg (mt And.right h5),
    if_pos ⟨h, hlt⟩]

/-- Behind an address that is mapped and no Creel register stands memory (R106, R380). -/
theorem State.region_homeOf {s : State} {va : Nat} (ho : s.region va ≠ .outside) (hr : s.region va ≠ .creel) :
    s.region (s.homeOf va) ≠ .outside ∧ s.region (s.homeOf va) ≠ .creel := by
  unfold State.homeOf
  split
  · rename_i d _
    have hpeer : ((s.creel.fwtab.get 0 d).extractLsb' 16 9).toNat < 512 := BitVec.isLt _
    have hplace : (va - fabricBase) % fabricWindow < fabricWindow := Nat.mod_lt _ (by decide)
    rw [s.region_peer (by omega) (by unfold fabricWindow at hplace ⊢; omega)]
    exact ⟨PRegion.noConfusion, PRegion.noConfusion⟩
  · exact ⟨ho, hr⟩

/-- A line that is not POISON takes every write (R476). -/
theorem Line.storePhys_some {l : Line} (h : l.tag.vcls ≠ 4) (off : Nat) (data : List Byte) : ∃ m, l.storePhys off data = some m := by
  unfold Line.storePhys
  split
  case h_3 h4 => exact absurd h4 h
  all_goals exact ⟨_, rfl⟩

/-- The check of a block that can be corrected changes the count of its stack alone (R72). -/
theorem State.scrub_correctable {s : State} {pa : Nat} (he : (s.blockAt pa).errors ≤ 19) (hp : s.extPoison.get false (pa / 128) = false) :
    ∃ c, s.scrub pa = { s with creel := c } := by
  unfold State.scrub State.scrubTier
  simp only [hp, he, if_true, Bool.false_eq_true, if_false]
  split
  · exact ⟨_, rfl⟩
  · split <;> exact ⟨_, rfl⟩
  · exact ⟨_, rfl⟩

/-- A write to a free line stores its bytes (R72, R476). -/
theorem State.byteAt_physWriteLine {s : State} {pa : Nat} {data : List Byte} (hfree : s.Free pa) (ho : s.region pa ≠ .outside)
    (hr : s.region pa ≠ .creel) (hline : pa % 128 + data.length ≤ 128) (src a : Nat) :
    (s.physWriteLine src pa data).byteAt a = if pa ≤ a ∧ a < pa + data.length then data.getD (a - pa) 0 else s.byteAt a := by
  obtain ⟨-, hclass, herr, hpoison⟩ := hfree
  unfold State.physWriteLine
  split
  · exact State.byteAt_setBytes ..
  · exact absurd ‹_› hr
  · exact absurd ‹_› ho
  · obtain ⟨c, hc⟩ := State.scrub_correctable herr hpoison
    dsimp only
    rw [hc]
    obtain ⟨m, hm⟩ := Line.storePhys_some (l := s.lineAt pa) hclass (pa % 128) data
    rw [show State.lineAt { s with creel := c } pa = s.lineAt pa from rfl, hm]
    dsimp only
    rw [State.byteAt_putLine]
    split
    · rename_i hsame
      rw [Line.storePhys_get hm, lineAt_byte _ _ _ (Nat.mod_lt _ (by decide)), ← hsame, Nat.div_add_mod',
        show a % 128 - pa % 128 = a - pa by omega]
      exact if_congr (by omega) rfl rfl
    · rw [if_neg (by omega)]
      rfl

theorem SameAgents.cur {s t : State} (h : SameAgents s t) : t.cur = s.cur := h.2.2.1
theorem SameAgents.sup {s t : State} (h : SameAgents s t) : t.sup = s.sup := h.2.1

theorem sameAgents_physWriteLine (s : State) (src pa : Nat) (data : List Byte) : SameAgents s (s.physWriteLine src pa data) := by
  unfold State.physWriteLine
  split
  · simp [SameAgents, State.setBytes]
  · exact .refl s
  · exact .refl s
  · dsimp only
    split
    · exact (sameAgents_scrub ..).trans (sameAgents_putLine ..)
    · exact (sameAgents_scrub ..).trans (sameAgents_report ..)

/-- A cluster is woken by a write to the line on which it waits (R347). -/
theorem Cluster.wakeIf_onLine (y : Cluster) (pa : Nat) : y.wakeIf (fun w => WaitFor.onLine w pa) = y.afterWrite pa := by
  unfold Cluster.wakeIf Cluster.wake Cluster.afterWrite
  by_cases hrun : y.run = .waiting <;> simp [hrun]

/-- A write of one line stores its bytes and wakes the waiters, where the line is free, and changes no core (R347, R476). -/
theorem State.physWriteOne_spec {s : State} {pa : Nat} {data : List Byte} (ho : s.region pa ≠ .outside) (hr : s.region pa ≠ .creel)
    (hline : pa % 128 + data.length ≤ 128) (src : Nat) :
    (s.physWriteOne src pa data).cur = s.cur ∧ (s.physWriteOne src pa data).sup = s.sup
      ∧ BytesStored s (s.physWriteOne src pa data) pa data
      ∧ (s.Free pa → ∀ k j, ((s.physWriteOne src pa data).ctx k).cl j = Cluster.afterWrite ((s.ctx k).cl j) pa) := by
  have hagents := sameAgents_physWriteLine s src pa data
  unfold State.physWriteOne
  cases hheld : s.physHeld pa with
  | true =>
    have hbusy : ¬ s.Free pa := fun hfree => Bool.false_ne_true (hfree.1.symm.trans hheld)
    exact ⟨rfl, rfl, fun hfree => absurd hfree hbusy, fun hfree => absurd hfree hbusy⟩
  | false =>
    simp only [Bool.false_eq_true, if_false]
    refine ⟨hagents.cur, hagents.sup, fun hfree => State.byteAt_physWriteLine hfree ho hr hline src, fun _ k j => ?_⟩
    unfold State.wakeLine
    rw [State.ctx_wakeAll, Ctx.modAll_eq, Ctx.cl_withClusters, Cluster.wakeIf_onLine, ← hagents.ctx k]
    rfl

/-- A write within one line. -/
theorem State.physWrite_line {s : State} {va : Nat} {data : List Byte} (hd : data ≠ []) (hline : s.homeOf va % 128 + data.length ≤ 128)
    (src : Nat) : s.physWrite src va data = s.physWriteOne src (s.homeOf va) data := by
  cases data with
  | nil => exact absurd rfl hd
  | cons b t =>
    have hfits : (b :: t).length ≤ 128 - s.homeOf va % 128 := by omega
    unfold State.physWrite
    rw [List.length_cons, State.physWriteAux, List.take_of_length_le hfits, List.drop_of_length_le hfits, State.physWriteAux] <;> simp

theorem State.noteLeaf_frame (s t : State) (pa : Nat) : ∃ hs, s.noteLeaf t pa = { t with hanks := hs } := by
  unfold State.noteLeaf
  dsimp only
  split <;> exact ⟨_, rfl⟩

/-! ### One access of a core -/

/-- A core that stands at an address of memory has it aligned (R401). -/
theorem State.supCheck_aligned {s : State} {k : MemKind} {va : Word} {n : Nat} (h : s.supCheck k va n = none)
    (hr : s.region va.toNat ≠ .creel) : s.region va.toNat ≠ .outside ∧ s.homeOf va.toNat % n = 0 := by
  unfold State.supCheck at h
  dsimp only at h
  by_cases ho : s.region va.toNat = .outside
  · rw [if_pos ho] at h
    cases h
  · rw [if_neg ho, if_neg hr] at h
    by_cases ha : s.homeOf va.toNat % n ≠ 0
    · rw [if_pos ha] at h
      cases h
    · exact ⟨ho, not_not.1 ha⟩

section
variable {s : State} {k : MemKind} {va : Word} {n : Nat}

theorem supLoad_stops {x : Stop} (h : s.supCheck k va n = some x) : Comp.go (supLoad k va n) s = (.error x, s) := by
  unfold supLoad
  rw [Comp.go_bind_ok (Comp.go_get s), h]
  rfl

theorem supLoad_creel (h : s.supCheck .read va n = none) (hr : s.region va.toNat = .creel) :
    Comp.go (supLoad .read va n) s = (.ok (if n = 8 then (s.creelRead (va.toNat - creelBase)).toNat else 0), s) := by
  unfold supLoad
  rw [Comp.go_bind_ok (Comp.go_get s), h]
  dsimp only
  rw [if_pos hr, Comp.go_pure]
  simp

/-- The read of a line of memory faults where the line is POISON. -/
theorem supLoad_memory (h : s.supCheck k va n = none) (hr : s.region va.toNat ≠ .creel) :
    Comp.go (supLoad k va n) s =
      (if (s.scrub (s.homeOf va.toNat)).supPoison (s.homeOf va.toNat) n then .error (.fault 0x0108 va (memInfo k false 0 0))
       else .ok ((s.scrub (s.homeOf va.toNat)).natAt (s.homeOf va.toNat) n), s.scrub (s.homeOf va.toNat)) := by
  unfold supLoad
  rw [Comp.go_bind_ok (Comp.go_get s), h]
  dsimp only
  rw [if_neg hr, Comp.go_bind_ok (Comp.go_update s _), Comp.go_bind_ok (Comp.go_get _)]
  cases (s.scrub (s.homeOf va.toNat)).supPoison (s.homeOf va.toNat) n <;> rfl

theorem supStore_stops {x : Stop} (h : s.supCheck k va n = some x) (core v : Nat) :
    Comp.go (supStore core k va n v) s = (.error x, s) := by
  unfold supStore
  rw [Comp.go_bind_ok (Comp.go_get s), h]
  rfl

/-- A write of a Creel register, where no job record has to be waited for. -/
theorem supStore_creel (h : s.supCheck .write va n = none) (hr : s.region va.toNat = .creel) (core : Nat) (v : Word) :
    Comp.go (supStore core .write va n v.toNat) s = match s.exportWait va v.toNat with
      | some w => (.error (.wait w), s)
      | none => (.ok (), if n = 8 then s.creelWrite (.supervisor core) (va.toNat - creelBase) v else s) := by
  unfold supStore
  rw [Comp.go_bind_ok (Comp.go_get s), h]
  dsimp only
  rw [if_pos hr]
  cases s.exportWait va v.toNat with
  | some w => rfl
  | none =>
    dsimp only
    rw [Comp.go_update, BitVec.ofNat_toNat, BitVec.setWidth_eq]
    simp

/-- A write of memory within one line. -/
theorem supStore_memory (h : s.supCheck k va n = none) (hr : s.region va.toNat ≠ .creel) (hn : n ∈ [1, 2, 4, 8]) (core v : Nat) :
    ∃ u : State, Comp.go (supStore core k va n v) s = (.ok (), u) ∧ u.cur = s.cur ∧ u.sup = s.sup
      ∧ BytesStored s u (s.homeOf va.toNat) (leBytes n v)
      ∧ (s.Free (s.homeOf va.toNat) → ∀ i j, (u.ctx i).cl j = Cluster.afterWrite ((s.ctx i).cl j) (s.homeOf va.toNat)) := by
  obtain ⟨ho, haligned⟩ := State.supCheck_aligned h hr
  obtain ⟨hout, hcreel⟩ := State.region_homeOf ho hr
  have hsize : 0 < n ∧ s.homeOf va.toNat % 128 + n ≤ 128 := by
    simp only [List.mem_cons, List.not_mem_nil, or_false] at hn
    rcases hn with rfl | rfl | rfl | rfl <;> omega
  have hdata : leBytes n v ≠ [] := List.ne_nil_of_length_pos (by rw [leBytes_length]; exact hsize.1)
  have hline : s.homeOf va.toNat % 128 + (leBytes n v).length ≤ 128 := by rw [leBytes_length]; exact hsize.2
  have hgo : Comp.go (supStore core k va n v) s = (.ok (), s.noteLeaf
      (s.physWriteOne (0x400 + core) (s.homeOf va.toNat) (leBytes n v)) (s.homeOf va.toNat / 8 * 8)) := by
    unfold supStore
    rw [Comp.go_bind_ok (Comp.go_get s), h]
    dsimp only
    rw [if_neg hr, Comp.go_update, State.physWrite_line hdata hline]
  obtain ⟨hs, hnote⟩ := s.noteLeaf_frame (s.physWriteOne (0x400 + core) (s.homeOf va.toNat) (leBytes n v)) (s.homeOf va.toNat / 8 * 8)
  refine ⟨_, hgo, ?_⟩
  rw [hnote]
  exact State.physWriteOne_spec hout hcreel hline (0x400 + core)
end

/-! ### The instructions -/

/-- Base and scaled signed offset (R257). -/
theorem State.scaledAddr_eq (s : State) (a : RegF) (off : BitVec 8) (n : Nat) :
    s.scaledAddr a off n = s.readS a + BitVec.ofInt 64 (off.toInt * n) := by
  rw [State.scaledAddr, BitVec.signExtend, BitVec.ofInt_mul, BitVec.ofInt_natCast]

/-- The scalar loads, as one meaning (R257). -/
theorem exec_scalarLoad {p : (Guard → RegF → RegF → BitVec 8 → Instr) × Nat × Bool} (hp : p ∈ scalarLoads) (g : Guard) (d a : RegF)
    (off : BitVec 8) (s : State) : exec (p.1 g d a off) s
      = scalarLoad g d (fun t => t.readS a + BitVec.ofInt 64 (off.toInt * p.2.1)) p.2.1 p.2.2 s := by
  simp only [← State.scaledAddr_eq]
  simp only [scalarLoads, List.mem_cons, List.not_mem_nil, or_false] at hp
  rcases hp with rfl | rfl | rfl | rfl | rfl | rfl | rfl <;> rfl

/-- The scalar stores, as one meaning, and their sizes (R257). -/
theorem exec_scalarStore {p : (Guard → RegF → RegF → BitVec 8 → Instr) × Nat} (hp : p ∈ scalarStores) (g : Guard) (d a : RegF)
    (off : BitVec 8) (s : State) : p.2 ∈ [1, 2, 4, 8] ∧ exec (p.1 g d a off) s
      = scalarStore g d (fun t => t.readS a + BitVec.ofInt 64 (off.toInt * p.2)) p.2 s := by
  simp only [← State.scaledAddr_eq]
  simp only [scalarStores, List.mem_cons, List.not_mem_nil, or_false] at hp
  rcases hp with rfl | rfl | rfl | rfl <;> exact ⟨by decide, rfl⟩

section
variable {s : State} {core : Nat} (hc : s.cur = .sup core)
include hc

/-- A core that faults is reset (R402). -/
theorem halt_fault {cause : BitVec 32} {addr info : Word} : s.halt (.fault cause addr info) = s.coreFault core cause := by
  unfold State.halt
  rw [hc]

theorem load_sup (k : MemKind) (va : Word) (n : Nat) : Comp.go (load k va n) s = Comp.go (supLoad k va n) s := by
  unfold load
  rw [Comp.go_bind_ok (Comp.go_get s)]
  simp only [hc]

theorem store_sup (k : MemKind) (va : Word) (n v : Nat) : Comp.go (store k va n v) s = Comp.go (supStore core k va n v) s := by
  unfold store
  rw [Comp.go_bind_ok (Comp.go_get s)]
  simp only [hc]

variable {g : Guard} (hg : s.guardTrue g = true)
include hg

/-- A load of a core whose read stops. -/
theorem scalarLoad_sup_stops {d : RegF} {addr : State → Word} {n : Nat} {signed : Bool} {x : Stop} {t : State}
    (h : Comp.go (supLoad .read (addr s) n) s = (.error x, t)) : scalarLoad g d addr n signed s = .next (t.halt x) :=
  run_error hg (Comp.go_bind_error ((load_sup hc ..).trans h))

/-- A load of a core whose read succeeds gives its register the number, extended. -/
theorem scalarLoad_sup_ok {d : RegF} {addr : State → Word} {n v : Nat} {signed : Bool} {u : State}
    (h : Comp.go (supLoad .read (addr s) n) s = (.ok v, u)) :
    ∃ t, scalarLoad g d addr n signed s = .next t ∧ ScalarResult u t d (extend n signed v) 0 4 :=
  ⟨_, run_ok hg (Comp.go_bind_ok ((load_sup hc ..).trans h)), State.pass_spec ..⟩

/-- A store of a core whose write stops. -/
theorem scalarStore_sup_stops {d : RegF} {addr : State → Word} {n : Nat} {x : Stop} {t : State}
    (h : Comp.go (supStore core .write (addr s) n (s.readS d).toNat) s = (.error x, t)) : scalarStore g d addr n s = .next (t.halt x) :=
  run_error hg ((store_sup hc .write (addr s) n (s.readS d).toNat).trans h)

/-- A store of a core whose write succeeds. -/
theorem scalarStore_sup_ok {d : RegF} {addr : State → Word} {n : Nat} {u : State}
    (h : Comp.go (supStore core .write (addr s) n (s.readS d).toNat) s = (.ok (), u)) : scalarStore g d addr n s = .next (u.retire 4) :=
  run_ok hg ((store_sup hc .write (addr s) n (s.readS d).toNat).trans h)

end

/-- Settles O9: each access by what its check finds and by the region of its address. -/
theorem supervisorAccesses : Obligations.SupervisorAccesses := by
  intro s n g d a off hc hg
  refine ⟨fun p hp => ?load, fun p hp => ?store⟩
  case load =>
    intro va pa u
    rw [exec_scalarLoad hp]
    refine ⟨fun x hx => scalarLoad_sup_stops hc hg (supLoad_stops hx), fun h hr => scalarLoad_sup_ok hc hg (supLoad_creel h hr), fun h hr => ?_⟩
    have hread := supLoad_memory h hr
    split
    · rename_i hpoison
      rw [if_pos hpoison] at hread
      have hcur : u.cur = .sup n := (sameAgents_scrub s pa).cur.trans hc
      exact Eq.trans (scalarLoad_sup_stops hc hg hread) (congrArg _ (halt_fault hcur))
    · rename_i hclean
      rw [if_neg hclean] at hread
      exact scalarLoad_sup_ok hc hg hread
  case store =>
    intro va data pa
    obtain ⟨hsize, hexec⟩ := exec_scalarStore hp g d a off s
    rw [hexec]
    refine ⟨fun x hx => ?_, fun h hr => ?_, fun h hr => ?_⟩
    · exact scalarStore_sup_stops hc hg (supStore_stops hx n _)
    · have hwrite := supStore_creel h hr n (s.readS d)
      cases hwait : s.exportWait va (s.readS d).toNat with
      | some w =>
        rw [hwait] at hwrite
        exact scalarStore_sup_stops hc hg hwrite
      | none =>
        rw [hwait] at hwrite
        exact scalarStore_sup_ok hc hg hwrite
    · obtain ⟨u, hwrite, hmem⟩ := supStore_memory h hr hsize n (s.readS d).toNat
      exact ⟨u, scalarStore_sup_ok hc hg hwrite, hmem⟩

end Sys2Proof.Machine
end

section
/-! PROOFS. Copy commands at issue, completion bits and QFENCE (R151, R280 .. R286). -/

namespace Sys2Proof.Machine

/-! ### Copy queues and completion bits -/

theorem SMap.get_modify {α : Type} [DecidableEq α] (d : α) (m : SMap α) (i j : Nat) (f : α → α) :
    SMap.get d (SMap.modify d m i f) j = if j = i then f (SMap.get d m j) else SMap.get d m j := by
  rw [SMap.modify, SMap.get_set]
  by_cases h : j = i
  · rw [if_pos h.symm, if_pos h, h]
  · rw [if_neg (Ne.symm h), if_neg h]

theorem SMap.get_foldl_modify {α : Type} [DecidableEq α] (d : α) (f : α → α) (j : Nat) {l : List Nat} (hl : l.Nodup) :
    ∀ m : SMap α, SMap.get d (l.foldl (fun m i => SMap.modify d m i f) m) j = if j ∈ l then f (SMap.get d m j) else SMap.get d m j := by
  induction hl with
  | nil => intro m; simp
  | @cons i l hi hl ih =>
    intro m
    rw [List.foldl_cons, ih, SMap.get_modify]
    by_cases hj : j = i
    · have hnot : i ∉ l := fun h => hi i h rfl
      simp [hj, hnot]
    · simp [hj]

/-- Bits of one completion bitmap are set or cleared, and no other bit changes (R285). -/
theorem Ctx.bit_setBits (x : Ctx) (cb : Nat) (is : List Nat) (v : Bool) (k i : Nat) :
    SMap.get false ((x.setBits cb is v).cb.get [] k) i
      = if k = cb ∧ i ∈ is then v else SMap.get false (x.cb.get [] k) i := by
  have hbits : ∀ m, SMap.get false (is.foldl (fun m i => SMap.set false m i v) m) i = if i ∈ is then v else SMap.get false m i :=
    fun m => (SMap.get_foldl_set (f := fun b => b) is m i).trans (by simp)
  rw [Ctx.setBits, SMap.get_modify]
  by_cases hk : k = cb
  · simp [hk, hbits]
  · simp [hk]

/-! ### COPY and COPYT -/

/-- The command of register operands, as it enters its queue (R280, R282, R284). -/
def CopyArgs.command (x : CopyArgs) (pc : Word) (cb scope : BitVec 3) : CopyCmd :=
  { pc := pc, dst := x.dst, src := x.src, len := x.len, cb := cb.toNat, scope := scope, signal := x.signal
    dstSp := x.dsp, srcSp := x.ssp, rows := x.rows, sstr := x.sstr, dstr := x.dstr, started := false, chunks := x.chunks
    zeroed := [], pzs := false, stalled := false, stopChunk := none }

/-- The context whose queue `cq` takes a command, with the bits of its chunks cleared (R280, R284). -/
def Ctx.withCopy (y : Ctx) (cq cb : Nat) (c : CopyCmd) : Ctx :=
  { y.setBits cb c.chunks false with cq := y.cq.modify [] cq fun l => l ++ [.cmd c] }

theorem Ctx.copyQueue_withCopy (y : Ctx) (cq cb : Nat) (c : CopyCmd) (k : Nat) :
    (y.withCopy cq cb c).copyQueue k = if k = cq then y.copyQueue k ++ [.cmd c] else y.copyQueue k :=
  SMap.get_modify [] y.cq cq k fun l => l ++ [CopyEntry.cmd c]

section
variable {s : State} {cq : BitVec 2} {cb scope : BitVec 3} {args : State → CopyArgs}

/-- A command whose operands are legal and whose queue has room is issued. -/
theorem issueCopy_ok (hrows : (args s).rows ≠ 0) (hlen : (args s).len ≤ 2097152) (hspan : (args s).span ≤ 2097152)
    (hsig : ∀ p, (args s).signal = some p → p.1.toNat % 8 = 0) (hspace : s.copySpace (args s) = .ok ())
    (hprov : (args s).dsp = true ∨ s.myCtx.provisional = false) (hroom : (s.myCtx.copyQueue cq.toNat).length < 32) :
    issueCopy cq cb scope args s
      = .ok (s.modMyCtx fun y => y.withCopy cq.toNat cb.toNat ((args s).command s.instrPc cb scope)) := by
  have haligned : (((args s).signal.elim 0 fun p => p.1.toNat) % 8 == 0) = true := by
    cases hs : (args s).signal with
    | none => rfl
    | some p => exact beq_iff_eq.2 (hsig p hs)
  have hmay : ((args s).dsp || !s.prov) = true := by
    rcases hprov with h | h <;> simp [State.prov, h]
  unfold issueCopy
  dsimp only
  rw [firstOf_ok, hspace, firstOf_ok]
  · rfl
  · simp [allowed_cons, hmay, copyDepth, hroom]
  · simpa [allowed_cons, hrows, hlen, hspan] using haligned

/-- An instruction that issues copy commands issues the one that its operands describe. -/
theorem copyIssued_of {g : Guard} {i : Instr} {x : CopyArgs} (hg : s.guardTrue g = true)
    (hi : exec i s = settle g 8 (issueCopy cq cb scope args) s) (hx : args s = x) : CopyIssued s i cq cb scope x := by
  subst hx
  intro hrows hlen hspan hsig hspace hprov hroom
  refine ⟨_, (args s).command s.instrPc cb scope, hi.trans (settle_ok hg (issueCopy_ok hrows hlen hspan hsig hspace hprov hroom)),
    ⟨inContext_modMyCtx .., ?_⟩, fun k => ?_, fun k b => ?_, rfl, rfl, rfl, rfl, rfl, rfl, rfl, rfl, rfl, rfl, rfl, rfl, rfl⟩
  · rw [State.myCtx_modMyCtx]; rfl
  · rw [State.myCtx_modMyCtx]
    exact Ctx.copyQueue_withCopy ..
  · unfold State.cbBit
    rw [State.myCtx_modMyCtx]
    exact Ctx.bit_setBits ..
end

/-! ### CWAIT, CTEST and CCLR -/

section
variable {s : State} {a b : RegF} (hrange : (s.readS a).toNat + (s.readS b).toNat ≤ 4096)
include hrange

theorem chunkCheck_ok : firstOf [s.chunkCheck a b] = .ok () := firstOf_ok (allowed_cons.2 ⟨decide_eq_true hrange, allowed_nil⟩)

theorem waitChunks_ok {cb : RegF} (h : ∀ i ∈ s.namedBits a b, s.cbBit cb.toNat i = true) : waitChunks cb a b s = .ok s := by
  unfold waitChunks
  rw [chunkCheck_ok hrange, firstOf_ok (allowed_cons.2 ⟨List.all_eq_true.2 h, allowed_nil⟩)]
  rfl

theorem waitChunks_waits {cb : RegF} (h : ∃ i ∈ s.namedBits a b, s.cbBit cb.toNat i = false) :
    waitChunks cb a b s = .error (.wait .chunks) := by
  have hall : ((s.namedBits a b).all fun i => s.cbBit cb.toNat i) = false := by simpa using h
  unfold waitChunks
  rw [chunkCheck_ok hrange, hall]
  rfl

theorem testChunks_ok (d : RegF) (cb : BitVec 3) : testChunks d a b cb s
    = .ok (s.writeS d (BitVec.ofNat 64 ((s.namedBits a b).filter fun i => s.cbBit cb.toNat i).length)) := by
  unfold testChunks
  rw [chunkCheck_ok hrange]
  rfl

theorem clearChunks_ok (cb : RegF) :
    clearChunks cb a b s = .ok (s.modMyCtx fun x => x.setBits cb.toNat (s.namedBits a b) false) := by
  unfold clearChunks
  rw [chunkCheck_ok hrange]
  rfl
end

/-- Clearing bits changes nothing else of the context. -/
theorem clearedBits_spec (s : State) (cb : Nat) (is : List Nat) :
    let u := s.modMyCtx fun x => x.setBits cb is false
    CopyFrame s u ∧ u.myCtx.cq = s.myCtx.cq ∧ ∀ k i, u.cbBit k i = if k = cb ∧ i ∈ is then false else s.cbBit k i := by
  intro u
  have hu : u.myCtx = s.myCtx.setBits cb is false := State.myCtx_modMyCtx ..
  refine ⟨⟨inContext_modMyCtx .., ?_⟩, ?_, fun k i => ?_⟩
  · rw [hu]; rfl
  · rw [hu]; rfl
  · unfold State.cbBit
    rw [hu]
    exact Ctx.bit_setBits ..

/-! ### QFENCE -/

/-- A stream unit that QFENCE names and whose fault is pending (log entry 37). -/
def State.owesFault (s : State) (qs : BitVec 16) (q : Nat) : Bool := qs.getLsbD q && (s.queue q).stream.any fun y => y.flt

/-- The named stream units whose faults are pending, as a mask. -/
def State.owedMask (s : State) (qs : BitVec 16) : BitVec 16 :=
  BitVec.ofNat 16 ((List.range 16).map fun q => (s.owesFault qs q).toNat * 2 ^ q).sum

theorem State.owedMask_bit (s : State) (qs : BitVec 16) {q : Nat} (hq : q < 16) :
    (s.owedMask qs).getLsbD q = s.owesFault qs q := by
  have hbit := (testBit_sum_fields (fun j => (s.owesFault qs j).toNat) 1 (fun j => Bool.toNat_lt _) 16).2 q (by omega)
  simp only [Nat.mul_one, Nat.div_one, Nat.mod_one] at hbit
  rw [State.owedMask, BitVec.getLsbD_ofNat, hbit]
  cases s.owesFault qs q <;> simp [hq]

/-- The copy queues that QFENCE names. -/
def namedQueues (cqs : BitVec 4) : List Nat := (List.range 4).filter fun c => cqs.getLsbD c

theorem mem_namedQueues {cqs : BitVec 4} {k : Nat} : k ∈ namedQueues cqs ↔ k < 4 ∧ cqs.getLsbD k = true := by
  simp [namedQueues]

/-- The context with a fence in force and its mark in every copy queue named (R151). -/
def Ctx.withFence (x : Ctx) (id : Nat) (cqs : BitVec 4) (qs owed : BitVec 16) : Ctx :=
  { x with
    cq := (namedQueues cqs).foldl (fun m c => m.modify [] c fun l => l ++ [CopyEntry.fence id]) x.cq
    fences := x.fences ++ [{ id := id, cqs := cqs, qs := qs, owed := owed }] }

theorem Ctx.copyQueue_withFence (x : Ctx) (id : Nat) (cqs : BitVec 4) (qs owed : BitVec 16) (k : Nat) :
    (x.withFence id cqs qs owed).copyQueue k
      = if k < 4 ∧ cqs.getLsbD k = true then x.copyQueue k ++ [.fence id] else x.copyQueue k := by
  refine (SMap.get_foldl_modify [] _ k (List.Nodup.filter _ List.nodup_range) x.cq).trans ?_
  exact if_congr mem_namedQueues rfl rfl

theorem fenceQueues_ok {s : State} {cqs : BitVec 4} (qs : BitVec 16)
    (h : ∀ k < 4, cqs.getLsbD k = true → (s.myCtx.copyQueue k).length < 32) : fenceQueues cqs qs s
      = .ok ({ s with fenceNo := s.fenceNo + 1 }.modMyCtx fun x => x.withFence s.fenceNo cqs qs (s.owedMask qs)) := by
  have hroom : Allowed ((namedQueues cqs).map fun c =>
      (decide ((s.myCtx.copyQueue c).length < copyDepth), Stop.wait .copySpace)) := by
    intro p hp
    obtain ⟨k, hk, rfl⟩ := List.mem_map.1 hp
    obtain ⟨hlt, hnamed⟩ := mem_namedQueues.1 hk
    exact decide_eq_true (h k hlt hnamed)
  unfold fenceQueues
  dsimp only
  rw [show ((List.range 4).filter fun c => cqs.getLsbD c) = namedQueues cqs from rfl, firstOf_ok hroom]
  rfl

/-- Settles O34: each command by the checks that its operands pass, and what it does to queues and bits by reading them back. -/
theorem copyCommands : Obligations.CopyCommands := by
  refine ⟨fun s slot c g len dst src sx sv sh cq cb scope dsp ssp _ hg => ⟨copyIssued_of hg rfl rfl, copyIssued_of hg rfl rfl⟩,
    fun s slot c g cb d a b k hc hg => ⟨fun hrange => ⟨?wait, ?waits, ?test, ?clear⟩, fun cqs qs hroom => ?fence⟩⟩
  case wait => exact fun hset => settle_ok hg (waitChunks_ok hrange hset)
  case waits => exact fun hclear => settle_error hg (waitChunks_waits hrange hclear)
  case test => exact ⟨_, settle_ok hg (testChunks_ok hrange d k), State.pass_spec ..⟩
  case clear => exact ⟨_, settle_ok hg (clearChunks_ok hrange cb), clearedBits_spec ..⟩
  case fence =>
    have hslot : s.slot = slot := State.slot_of_cluster hc
    refine ⟨_, s.owedMask qs, settle_ok hg (fenceQueues_ok qs hroom), rfl, fun j hj => ?_, ?_, fun j => ?_,
      fun q hq => s.owedMask_bit qs hq⟩
    · exact State.ctx_modCtx_ne _ _ (by rw [← hslot] at hj; exact Ne.symm hj)
    · rw [State.myCtx_modMyCtx]; rfl
    · rw [State.myCtx_modMyCtx]; exact Ctx.copyQueue_withFence ..

end Sys2Proof.Machine
end

section
/-! PROOFS. Stores of a context (R157, R206, R207, R257 .. R259): to memory, and to the Provisional Line Buffer of a provisional hank. -/

namespace Sys2Proof.Machine

/-! ### What an access leaves as it is -/

/-- A provisional hank sets no D bit (R206). -/
theorem xlate_provisional {s : State} {u : TlbUnit} {asd : Nat} {k : MemKind} {va : Word} {x : Xlate}
    (h : s.xlate u asd true k va = .ok x) : x.setD = false := by
  unfold State.xlate at h
  cases hf : s.findPage u asd true k va with
  | error d => rw [hf] at h; cases h
  | ok p =>
    obtain ⟨e, path⟩ := p
    rw [hf] at h
    dsimp only at h
    split at h
    · cases h
    split at h
    · cases h
    split at h
    · split at h <;> cases h
    split at h
    · cases h
    · rename_i hdirty
      cases h
      simp only [Bool.true_and, Bool.or_eq_true, not_or, Bool.not_eq_true] at hdirty
      exact hdirty.2

/-- What the checks before the line say of the access: it is aligned, it is of the address asked for, and it sets no D bit while the
hank is provisional. -/
theorem State.Admits.spec {s : State} {slot : Nat} {k : MemKind} {va : Word} {al : Bool} {x : Xlate} (h : s.Admits slot k va al x) :
    al = true ∧ x.va = va.toNat ∧ ((s.ctx slot).provisional = true → x.setD = false) := by
  obtain ⟨rfl, hva⟩ := access_ok h.1
  refine ⟨rfl, hva, fun hp => ?_⟩
  have hx := h.1
  unfold State.access at hx
  dsimp only at hx
  rw [(sameAgents_opened s slot va).ctx, hp] at hx
  split at hx
  · cases hx
  · cases hx
  · exact xlate_provisional hx

/-- A store that a context may make stays within its line. -/
theorem State.Writes.within {s : State} {slot : Nat} {k : MemKind} {va : Word} {data : List Byte} {x : Xlate}
    (h : s.Writes slot k va data x) (hn : data.length ∈ [1, 2, 4, 8]) : x.va % 128 + data.length ≤ 128 := by
  obtain ⟨hal, hva, -⟩ := h.1.spec
  have hmod := of_decide_eq_true hal
  rw [hva]
  simp only [List.mem_cons, List.not_mem_nil, or_false] at hn
  rcases hn with h | h | h | h <;> rw [h] at hmod ⊢ <;> omega

/-- The store is not one that is performed later (R138). -/
theorem State.Writes.storesNow {s t : State} {slot : Nat} {k : MemKind} {va : Word} {data : List Byte} {x : Xlate}
    (h : s.Writes slot k va data x) (ht : t.me = s.me) : t.storesLate slot x = false := by
  simp [State.storesLate, ht, h.2.1]

/-- A translation that was not walked and sets no D bit writes no memory. -/
theorem State.useXlate_noLeaf (s : State) {x : Xlate} (hw : x.walked = false) (hd : x.setD = false) :
    (s.useXlate x).mem = s.mem ∧ (s.useXlate x).tags = s.tags := by
  have hleaf : s.leafed x = s := by simp [State.leafed, hw, hd]
  rw [State.useXlate_eq, hleaf]
  exact ⟨rfl, rfl⟩

/-! ### Stores to memory -/

/-- A hank that is not provisional writes its line to memory. -/
theorem commitLine_confirmed {s : State} {slot : Nat} {x : Xlate} (hp : (s.ctx slot).provisional = false)
    (hlate : s.storesLate slot x = false) (l : Line) (m : MaskUpdate) : s.commitLine slot x l m = .ok (s.writeLine slot x l) := by
  simp [State.commitLine, hp, hlate]

section
variable {s : State} {slot : Nat} {c : Cl} {k : MemKind} {va : Word} {n v : Nat} {x : Xlate} (hc : s.cur = .cluster slot c)
  (hx : s.Writes slot k va (leBytes n v) x)
include hc hx

/-- A store completes and changes no register, and that of a hank that is not provisional writes memory (R157, R257, R258). -/
theorem store_writes (hn : n ∈ [1, 2, 4, 8]) (len : Nat) :
    ∃ t, Comp.go (store k va n v) s = (.ok (), t) ∧ OnlyCompleted s (t.retire len) len
    ∧ ((s.ctx slot).provisional = false → MemoryAfterStore (s.accessed slot va x) (t.retire len) slot x (leBytes n v)) := by
  obtain ⟨l, z, u, hl, hu, hgo⟩ := ctxStore_go hx
  have hacc := sameAgents_accessed s slot va x
  have hnow := hx.storesNow hacc.me
  obtain ⟨h1, h2, h3⟩ := commitLine_agents hnow hu
  have huse := sameAgents_useXlate u { x with walked := false }
  refine ⟨_, (store_go hc ..).trans hgo, onlyCompleted_of hc (huse.1.trans (h1.trans hacc.1)) (huse.2.1.trans (h2.trans hacc.2.1))
    (huse.2.2.1.trans (h3.trans hacc.2.2.1)) _ len, fun hp => ?_⟩
  rw [← hacc.ctx] at hp
  rw [commitLine_confirmed hp hnow] at hu
  cases hu
  refine memoryAfterStore_of hp (hx.within (by rwa [leBytes_length])) hl fun a ha => ?_
  rw [State.byteAt, State.retire, State.modMe_mem, State.modCtx_mem]
  exact State.useXlate_byteAt _ _ a (ha.imp_left fun hd => ⟨rfl, hd⟩)
end

/-- Each scalar store, and each store-release of a hank that is not provisional, is a store. -/
theorem storesTo_of {s : State} {slot : Nat} {c : Cl} {i : Instr} {va : Word} {n v : Nat} (hc : s.cur = .cluster slot c)
    (hn : n ∈ [1, 2, 4, 8]) (hi : ∀ t, Comp.go (store .write va n v) s = (.ok (), t) → exec i s = .next (t.retire 4)) :
    StoresTo s slot i va (leBytes n v) := by
  intro x hx
  obtain ⟨t, hgo, honly, hmem⟩ := store_writes hc hx hn 4
  exact ⟨_, hi t hgo, honly, fun hp => hmem (by rwa [← State.myCtx_of_cluster hc])⟩

/-! ### The Provisional Line Buffer -/

/-- The entry belongs to the hank of a context and holds the line of an address (R207). -/
def Ctx.owns (y : Ctx) (va : Nat) (e : PlbEntry) : Bool :=
  match y.hank with
  | none => false
  | some (task, wid) => e.task == task && e.wid == wid && e.asd == y.asd && e.va == va / 128 * 128

theorem State.plbEntry_eq {s : State} {slot : Nat} (h : (s.ctx slot).hank.isSome = true) (va : Nat) :
    s.plbEntry slot va = (s.plb.get [] (bobbinOf slot)).find? ((s.ctx slot).owns va) := by
  obtain ⟨⟨task, wid⟩, hk⟩ := Option.isSome_iff_exists.1 h
  unfold State.plbEntry Ctx.owns
  rw [hk]

theorem State.plbEntry_setPlb {s : State} {slot : Nat} (h : (s.ctx slot).hank.isSome = true) (l : List PlbEntry) (va : Nat) :
    State.plbEntry { s with plb := s.plb.set [] (bobbinOf slot) l } slot va = l.find? ((s.ctx slot).owns va) := by
  rw [State.plbEntry_eq (by exact h)]
  exact congrArg (List.find? _) (SMap.get_set_same ..)

/-- The entry found first stays the one that is found when another takes its place. -/
theorem find?_replace {α : Type} [DecidableEq α] {p : α → Bool} {l : List α} {o e : α} (ho : l.find? p = some o) (he : p e = true) :
    (l.map fun t => if t = o then e else t).find? p = some e := by
  induction l with
  | nil => cases ho
  | cons a l ih =>
    cases ha : p a with
    | true =>
      rw [List.find?_cons_of_pos ha] at ho
      cases ho
      rw [List.map_cons, if_pos rfl, List.find?_cons_of_pos he]
    | false =>
      have hne : a ≠ o := fun h => by rw [h, List.find?_some ho] at ha; cases ha
      rw [List.find?_cons_of_neg (by simp [ha])] at ho
      rw [List.map_cons, if_neg hne, List.find?_cons_of_neg (by simp [ha]), ih ho]

/-- A new entry at the end is found where none was. -/
theorem find?_append_new {α : Type} {p : α → Bool} {l : List α} {e : α} (hl : l.find? p = none) (he : p e = true) :
    (l ++ [e]).find? p = some e := by
  rw [List.find?_append, hl, Option.none_or, List.find?_cons_of_pos he]

/-- A provisional hank writes its line to its entry of the buffer, and nothing else (R206, R207). -/
theorem commitLine_provisional {s u : State} {slot : Nat} {x : Xlate} {l : Line} {m : MaskUpdate}
    (hp : (s.ctx slot).provisional = true) (hk : (s.ctx slot).hank.isSome = true) (h : s.commitLine slot x l m = .ok u) :
    u = { s with plb := u.plb } ∧ ∃ e old held, u.plbEntry slot x.va = some e ∧ e.bytes = l.bytes ∧ e.mask = m old held := by
  obtain ⟨⟨task, wid⟩, hhank⟩ := Option.isSome_iff_exists.1 hk
  have howns : ∀ tag bytes mask, (s.ctx slot).owns x.va
      { task := task, wid := wid, asd := (s.ctx slot).asd, va := x.va / 128 * 128, tag := tag, bytes := bytes, mask := mask } = true :=
    fun _ _ _ => by simp [Ctx.owns, hhank]
  unfold State.commitLine at h
  simp only [hp, hhank] at h
  cases hold : s.plbEntry slot x.va with
  | some o =>
    rw [hold] at h
    cases h
    rw [State.plbEntry_eq hk] at hold
    exact ⟨rfl, _, _, _, (State.plbEntry_setPlb hk _ _).trans (find?_replace hold (howns _ _ _)), rfl, rfl⟩
  | none =>
    rw [hold] at h
    dsimp only at h
    split at h
    · cases h
    cases h
    rw [State.plbEntry_eq hk] at hold
    exact ⟨rfl, _, _, _, (State.plbEntry_setPlb hk _ _).trans (find?_append_new hold (howns _ _ _)), rfl, rfl⟩

/-- Which entry a context finds depends on its hank, its address space and the buffer. -/
theorem State.plbEntry_congr {s t : State} {slot : Nat} (hhank : (t.ctx slot).hank = (s.ctx slot).hank)
    (hasd : (t.ctx slot).asd = (s.ctx slot).asd) (hplb : t.plb = s.plb) (va : Nat) : t.plbEntry slot va = s.plbEntry slot va := by
  rw [State.plbEntry, hhank, hasd, hplb, State.plbEntry]

/-- Completing changes neither the hank of a context nor its address space. -/
theorem OnlyCompleted.names {s t : State} {slot : Nat} {c : Cl} {len : Nat} (h : OnlyCompleted s t len) (hc : s.cur = .cluster slot c) :
    (t.ctx slot).hank = (s.ctx slot).hank ∧ (t.ctx slot).asd = (s.ctx slot).asd := by
  obtain ⟨hcur, -, -, -, ⟨fl, hctx⟩, -⟩ := h
  rw [State.myCtx_of_cluster hc, State.myCtx_of_cluster (hcur.trans hc)] at hctx
  rw [hctx]
  exact ⟨rfl, rfl⟩

section
variable {s : State} {slot : Nat} {c : Cl} {k : MemKind} {va : Word} {n v : Nat} {x : Xlate} (hc : s.cur = .cluster slot c)
  (hx : s.Writes slot k va (leBytes n v) x)
include hc hx

/-- A store of a provisional hank goes to its entry of the buffer: memory and its tags stay (R206, R207). -/
theorem store_provisional (hn : n ∈ [1, 2, 4, 8]) (hp : (s.ctx slot).provisional = true) (hk : (s.ctx slot).hank.isSome = true)
    (len : Nat) : ∃ t, Comp.go (store k va n v) s = (.ok (), t) ∧ OnlyCompleted s (t.retire len) len
      ∧ (t.retire len).mem = (s.accessed slot va x).mem ∧ (t.retire len).tags = (s.accessed slot va x).tags
      ∧ ∃ e, (t.retire len).plbEntry slot x.va = some e ∧ ∀ i < n, e.bytes.get 0 (x.va % 128 + i) = (leBytes n v).getD i 0
          ∧ e.mask.get false (x.va % 128 + i) = true := by
  obtain ⟨t, hgo, honly, -⟩ := store_writes hc hx hn len
  obtain ⟨l, z, u, hl, hu, hraw⟩ := ctxStore_go hx
  obtain rfl := (Prod.mk.inj (hgo.symm.trans ((store_go hc ..).trans hraw))).2
  have hacc := sameAgents_accessed s slot va x
  obtain ⟨hplb, e, old, held, hfind, hbytes, hmask⟩ :=
    commitLine_provisional ((congrArg _ (hacc.ctx slot)).trans hp) ((congrArg (fun y => y.hank.isSome) (hacc.ctx slot)).trans hk) hu
  obtain ⟨hmem, htags⟩ := u.useXlate_noLeaf (x := { x with walked := false }) rfl (hx.1.spec.2.2 hp)
  have hctx : u.ctx slot = s.ctx slot := by rw [hplb]; exact hacc.ctx slot
  obtain ⟨hhank, hasd⟩ := honly.names hc
  rw [← hctx] at hhank hasd
  refine ⟨_, hgo, honly, ?_, ?_, e, (State.plbEntry_congr hhank hasd ?_ _).trans hfind, fun i hi => ⟨?_, ?_⟩⟩
  · rw [State.retire, State.modMe_mem, State.modCtx_mem, hmem, hplb]
  · rw [State.retire, State.modMe_tags, State.modCtx_tags, htags, hplb]
  · rw [State.retire, State.modMe_plb, State.modCtx_plb, (sameAgents_useXlate ..).2.2.2.1]
  · rw [hbytes, storeRaw_bytes hl, leBytes_length, if_pos (by omega), Nat.add_sub_cancel_left]
  · rw [hmask, rawMask, SMap.get_setRange, if_pos (by omega)]
end

/-! ### The instructions -/

section
variable {s : State} {slot : Nat} {c : Cl} (hc : s.cur = .cluster slot c)
include hc

theorem State.prov_of_cluster : s.prov = s.myCtx.provisional := by simp [State.prov, State.isSup_of_cluster hc]

/-- What a provisional hank may not do waits (R206). -/
theorem confirmed_waits (h : s.myCtx.provisional = true) : Comp.go confirmed s = (.error (.wait .provisional), s) := by
  unfold confirmed
  rw [Comp.go_bind_ok (Comp.go_get s), State.prov_of_cluster hc, h]
  rfl

theorem confirmed_go (h : s.myCtx.provisional = false) : Comp.go confirmed s = (.ok (), s) := by
  unfold confirmed
  rw [Comp.go_bind_ok (Comp.go_get s), State.prov_of_cluster hc, h]
  rfl

variable {g : Guard} (hg : s.guardTrue g = true)
include hg

/-- The store-release of a hank that is not provisional is a store (R259). -/
theorem storesTo_release {i : Instr} {d a : RegF} {n : Nat} (hi : exec i s = releaseStore g d a n s) (hn : n ∈ [1, 2, 4, 8])
    (hp : s.myCtx.provisional = false) : StoresTo s slot i (s.readS a) (leBytes n (s.readS d).toNat) :=
  storesTo_of hc hn fun _ hgo => hi.trans (run_ok hg ((Comp.go_bind_ok (confirmed_go hc hp)).trans hgo))

theorem releaseStore_waits (d a : RegF) (n : Nat) (hp : s.myCtx.provisional = true) :
    releaseStore g d a n s = .next (s.halt (.wait .provisional)) := run_error hg (Comp.go_bind_error (confirmed_waits hc hp))
end

/-- Settles O7: each instruction is one store, of a confirmed hank to memory and of a provisional one to its buffer. -/
theorem scalarStores_spec : Obligations.ScalarStores := by
  refine ⟨fun s slot c g d a hc hg => ⟨fun p hp off => ?store, fun hprov sc => ⟨?release, ?releaseWord⟩⟩,
    fun s slot c g d a hc hg hprov hk => ⟨fun p hp off x => ?held, fun sc => ⟨?waits, ?waitsWord⟩⟩⟩
  case store =>
    obtain ⟨hn, hexec⟩ := exec_scalarStore hp g d a off s
    exact storesTo_of hc hn fun t hgo => hexec.trans (run_ok hg hgo)
  case release => exact storesTo_release hc hg rfl (by decide) hprov
  case releaseWord => exact storesTo_release hc hg rfl (by decide) hprov
  case held =>
    intro data va u hx
    obtain ⟨hn, hexec⟩ := exec_scalarStore hp g d a off s
    rw [State.myCtx_of_cluster hc] at hprov hk
    obtain ⟨t, hgo, honly, hmem, htags, hentry⟩ := store_provisional hc hx hn hprov hk 4
    exact ⟨_, hexec.trans (run_ok hg hgo), honly, fun b _ => by rw [State.tagAt, htags, State.tagAt],
      fun b _ => by rw [State.byteAt, hmem, State.byteAt], hentry⟩
  case waits => exact releaseStore_waits hc hg d a 8 hprov
  case waitsWord => exact releaseStore_waits hc hg d a 4 hprov

end Sys2Proof.Machine
end

section
/-! PROOFS. Atomics of a context (R145, R206, R260, R261): one read, and the write where there is one, on one line. -/

namespace Sys2Proof.Machine

/-! ### Records leave the same agents -/

theorem SameAgents.symm {s t : State} (h : SameAgents s t) : SameAgents t s := by
  simp only [SameAgents] at h ⊢
  simp only [h, and_self]

/-- States with the same agents keep them under one update of a context. -/
theorem SameAgents.modCtx {s t : State} (h : SameAgents s t) (k : Nat) (f : Ctx → Ctx) : SameAgents (s.modCtx k f) (t.modCtx k f) := by
  have hctx := h.ctx k
  simp only [SameAgents] at h
  simp [SameAgents, State.modCtx, State.setCtx, hctx, h]

theorem SameAgents.ctxRec {s t : State} (h : SameAgents s t) (slot cls : Nat) (cause : BitVec 32) (pc addr info : Word) :
    t.ctxRec slot cls cause pc addr info = s.ctxRec slot cls cause pc addr info := by
  have htime : t.timeNs = s.timeNs := h.2.2.2.2.2.1
  unfold State.ctxRec
  rw [h.ctx, htime]

theorem SameAgents.contained {s t : State} (h : SameAgents s t) (slot : Nat) (r : Rec) :
    SameAgents (s.contained slot r) (t.contained slot r) := by
  unfold State.contained
  rw [h.ctx]
  split
  · exact h.modCtx slot _
  · exact ((sameAgents_report s r).symm.trans h).trans (sameAgents_report t r)

theorem SameAgents.foldl {α : Type} {f : State → α → State}
    (hf : ∀ {s t} a, SameAgents s t → SameAgents (f s a) (f t a)) (l : List α) :
    ∀ {s t : State}, SameAgents s t → SameAgents (l.foldl f s) (l.foldl f t) := by
  induction l with
  | nil => exact fun h => h
  | cons a l ih => exact fun h => ih (hf a h)

/-- The records of zero-substituted lines depend on the agents alone (R429). -/
theorem SameAgents.noteZeroed {s t : State} (h : SameAgents s t) (slot : Nat) (pc info : Word) (vas : List Nat) :
    SameAgents (s.noteZeroed slot pc info vas) (t.noteZeroed slot pc info vas) := by
  unfold State.noteZeroed
  split
  · exact h
  · refine SameAgents.foldl (fun {s t} b h => ?_) _ (h.modCtx slot _)
    dsimp only
    rw [h.ctx, h.ctxRec]
    split
    · exact h
    · exact (h.contained slot _).modCtx slot _

theorem SameAgents.instrPc {s t : State} (h : SameAgents s t) : t.instrPc = s.instrPc := by
  rw [State.instrPc, h.me, State.instrPc]

theorem SameAgents.zeroInfo {s t : State} (h : SameAgents s t) (k : MemKind) (x : Xlate) : t.zeroInfo k x = s.zeroInfo k x := by
  rw [State.zeroInfo, h.cl, State.zeroInfo]

/-- An instruction that leaves the agents and completes changes nothing else of them. -/
theorem onlyCompleted_retire {s u : State} (hs : s.isSup = false) (h : SameAgents s u) (len : Nat) :
    OnlyCompleted s (u.retire len) len := by
  have hu : u.isSup = false := h.isSup.trans hs
  have hin := elsewhere_modMe u fun y => y.retire len
  obtain ⟨hmine, hcl⟩ := (othersKept_modMe u fun y => y.retire len).1 hu
  rw [State.flags_modMe hu, h.myCtx] at hmine
  refine ⟨hin.cur.trans h.2.2.1, (State.me_modMe ..).trans (congrArg (Cluster.retire · len) h.me), fun k hk => ?_, fun c hk => ?_,
    ⟨0, hmine.trans ?_⟩, fun n hn => ?_⟩
  · exact (hin.2.1 k (by rwa [h.isSup, h.slot])).trans (h.ctx k)
  · have hne : c ≠ u.cl := by rw [h.cl]; exact hk.resolve_left (by simp [hs])
    exact (hcl c hne).trans (by rw [h.myCtx])
  · rw [show s.myCtx.flags ||| (0 : Flags) = s.myCtx.flags from BitVec.or_zero]; rfl
  · exact (hin.2.2 n (by rwa [h.2.2.1])).trans (h.core n)

/-! ### Records of poisoned host data -/

/-- What every record keeps, the records of one access keep (R431). -/
theorem State.noteOutside_keeps {α : Type} {p : State → α} {slot : Nat} (hp : ∀ t r, p (t.contained slot r) = p t) (s : State)
    (pc info : Word) (k : MemKind) (xs : List Xlate) : p (s.noteOutside slot pc info k xs) = p s := by
  have hfold : ∀ (l : List Xlate) (f : State → Xlate → Rec) (t : State), p (l.foldl (fun t x => t.contained slot (f t x)) t) = p t := by
    intro l f
    induction l with
    | nil => exact fun _ => rfl
    | cons a l ih => exact fun t => (ih _).trans (hp t _)
  exact hfold _ _ s

theorem State.tags_reportPort (s : State) (n : Nat) (r : Rec) : (s.reportPort n r).tags = s.tags := by
  unfold State.reportPort
  dsimp only
  split
  · rfl
  split
  · rfl
  split <;> rfl

theorem State.tags_contained (s : State) (slot : Nat) (r : Rec) : (s.contained slot r).tags = s.tags := by
  unfold State.contained
  split
  · rfl
  · exact (State.tags_reportPort _ 1 r).trans (State.tags_reportPort s 0 r)

theorem State.provisional_contained (s : State) (slot : Nat) (r : Rec) :
    ((s.contained slot r).ctx slot).provisional = (s.ctx slot).provisional := by
  unfold State.contained
  split
  · rw [State.ctx_modCtx_same]
  · rw [(sameAgents_report s r).ctx]

/-- The state in which an access has met its line, and has recorded poisoned host data (R431). -/
def State.readAt (s : State) (slot : Nat) (k : MemKind) (va : Word) (x : Xlate) : State :=
  let t := s.accessed slot va x
  t.noteOutside slot t.instrPc (BitVec.ofNat 64 t.cl.code) k [x]

section
variable (s : State) (slot : Nat) (k : MemKind) (va : Word) (x : Xlate)

theorem State.afterRead_eq (z : Bool) : s.afterRead slot k va x z
    = (s.readAt slot k va x).noteZeroed slot (s.readAt slot k va x).instrPc ((s.readAt slot k va x).zeroInfo k x)
        (if z then [x.va] else []) := by
  have hcl : (s.readAt slot k va x).cl = (s.accessed slot va x).cl := by
    rw [State.cl, State.readAt, (sameClusters_noteOutside ..).1, State.cl]
  rw [State.zeroInfo, hcl]
  rfl

theorem State.tags_readAt : (s.readAt slot k va x).tags = (s.accessed slot va x).tags :=
  State.noteOutside_keeps (p := State.tags) (State.tags_contained · slot) _ _ _ _ _

theorem State.provisional_readAt : ((s.readAt slot k va x).ctx slot).provisional = (s.ctx slot).provisional :=
  (State.noteOutside_keeps (p := fun t => (t.ctx slot).provisional) (State.provisional_contained · slot) _ _ _ _ _).trans
    (congrArg _ ((sameAgents_accessed ..).ctx slot))

theorem sameClusters_readAt : SameClusters s (s.readAt slot k va x) :=
  (sameAgents_accessed s slot va x).clusters.trans (sameClusters_noteOutside ..)

/-- Where reads of the line do not return poisoned data nothing is recorded. -/
theorem State.readAt_clean (h : (s.accessed slot va x).extPoison.get false (x.pa / 128) = false) :
    s.readAt slot k va x = s.accessed slot va x := State.noteOutside_elsewhere _ _ _ _ _ _ (by rw [h, Bool.and_false])

theorem State.readAt_creel (h : (s.accessed slot va x).region x.pa = .creel) : s.readAt slot k va x = s.accessed slot va x :=
  State.noteOutside_elsewhere _ _ _ _ _ _ (by rw [h]; rfl)
end

/-! ### The access -/

/-- The state of an atomic that has written the line `l`, after its records. -/
def State.wroteAtomic (s : State) (slot : Nat) (va : Word) (x : Xlate) (z : Bool) (l : Line) : State :=
  let t := s.readAt slot .amo va x
  ((t.writeLine slot x l).useXlate { x with walked := false }).noteZeroed slot t.instrPc (t.zeroInfo .amo x) (if z then [x.va] else [])

/-- The agents are those that the read leaves. -/
theorem sameAgents_wroteAtomic (s : State) (slot : Nat) (va : Word) (x : Xlate) (z : Bool) (l : Line) :
    SameAgents (s.afterRead slot .amo va x z) (s.wroteAtomic slot va x z l) := by
  rw [State.afterRead_eq]
  exact ((sameAgents_writeLine ..).trans (sameAgents_useXlate ..)).noteZeroed ..

section
variable {s : State} {slot : Nat} {c : Cl} {va : Word} {n old : Nat} {x : Xlate} {z : Bool} {f : Nat → Option Nat}
  (hc : s.cur = .cluster slot c) (hp : s.myCtx.provisional = false) (hr : s.Reads slot .amo va n x old z)
include hc hp hr

/-- An atomic that writes nothing is a read. -/
theorem ctxAtomic_reads (hf : f old = none) : Comp.go (ctxAtomic slot va n f) s = (.ok old, s.afterRead slot .amo va x z) := by
  obtain ⟨ha, hv⟩ := hr
  unfold ctxAtomic
  rw [Comp.go_bind_ok (confirmed_go hc hp), Comp.go_bind_ok (openAccess_go ha), Comp.go_bind_ok (Comp.go_get _), State.afterRead_eq]
  dsimp only at hv
  split at hv
  · rename_i hcreel
    obtain ⟨rfl, rfl⟩ := hv
    rw [if_pos hcreel, State.readAt_creel _ _ _ _ _ hcreel]
    rfl
  · rename_i hcreel
    rw [if_neg hcreel, Comp.go_bind_ok (Comp.go_update _ _)]
    simp only [hv, hf]
    rfl

/-- An atomic that writes a value stores it into the line that it has read (R145, R260). -/
theorem ctxAtomic_writes {y : Nat} (hf : f old = some y) (hw : s.Writes slot .amo va (leBytes n y) x) : ∃ l z',
    ((s.accessed slot va x).seenLine slot x).storeRaw x.typed x.par.w x.par.ppol x.par.expf (x.va % 128) (leBytes n y) = .ok (l, z')
      ∧ Comp.go (ctxAtomic slot va n f) s = (.ok old, s.wroteAtomic slot va x z l) := by
  obtain ⟨ha, hv⟩ := hr
  have hnow := hw.storesNow (sameClusters_readAt s slot .amo va x).me
  obtain ⟨-, -, hcreel, ⟨l, z', hl, hply⟩, -⟩ := hw
  have hcommit := commitLine_confirmed (x := x)
    ((State.provisional_readAt s slot .amo va x).trans (by rwa [← State.myCtx_of_cluster hc])) hnow l (rawMask (x.va % 128) n)
  have hply' : (s.readAt slot .amo va x).plyConflict x l = false := by
    rwa [State.plyConflict, State.tagAt, State.tags_readAt]
  refine ⟨l, z', hl, ?_⟩
  dsimp only at hv
  rw [if_neg hcreel] at hv
  unfold ctxAtomic
  rw [Comp.go_bind_ok (confirmed_go hc hp), Comp.go_bind_ok (openAccess_go ha), Comp.go_bind_ok (Comp.go_get _), if_neg hcreel,
    Comp.go_bind_ok (Comp.go_update _ _)]
  change Comp.go _ (s.readAt slot .amo va x) = _
  simp only [hv, hf, hl]
  have hagents : SameAgents (s.readAt slot .amo va x)
      (((s.readAt slot .amo va x).writeLine slot x l).useXlate { x with walked := false }) :=
    (sameAgents_writeLine ..).trans (sameAgents_useXlate ..)
  rw [Comp.go_bind_ok (Comp.go_get _), hply', if_neg Bool.false_ne_true, hcommit, Comp.go_bind_ok (Comp.go_ofStop_ok ..),
    Comp.go_bind_ok (Comp.go_set ..), Comp.go_bind_ok (Comp.go_update ..), Comp.go_pure, hagents.instrPc, hagents.zeroInfo]
  rfl
end

/-- Where no poison is met an atomic writes its value, and no other byte (R260). -/
theorem memoryAfterStore_wroteAtomic {s : State} {slot : Nat} {va : Word} {data : List Byte} {x : Xlate} {l : Line} {z : Bool}
    (hp : (s.ctx slot).provisional = false) (hw : s.Writes slot .amo va data x) (hn : data.length ∈ [1, 2, 4, 8])
    (hl : ((s.accessed slot va x).seenLine slot x).storeRaw x.typed x.par.w x.par.ppol x.par.expf (x.va % 128) data = .ok (l, z))
    (hclean : (s.accessed slot va x).extPoison.get false (x.pa / 128) = false) {t : State}
    (ht : t.mem = (s.wroteAtomic slot va x false l).mem) : MemoryAfterStore (s.accessed slot va x) t slot x data := by
  rw [← (sameAgents_accessed s slot va x).ctx] at hp
  refine memoryAfterStore_of hp (hw.within hn) hl fun a ha => ?_
  rw [State.byteAt, ht, State.wroteAtomic, State.readAt_clean _ _ _ _ _ hclean]
  exact State.useXlate_byteAt ((s.accessed slot va x).writeLine slot x l) { x with walked := false } a (ha.imp_left fun hd => ⟨rfl, hd⟩)

/-! ### The numbers -/

theorem leNat_lt (l : List Byte) : leNat l < 256 ^ l.length := by
  induction l with
  | nil => decide
  | cons b l ih =>
    have hb : b.toNat < 256 := b.isLt
    rw [leNat, List.length_cons, Nat.pow_succ]
    omega

/-- A number read has the bytes that were asked for. -/
theorem readRaw_lt {l : Line} {typed ppol : Bool} {w off n v : Nat} {z : Bool} (h : l.readRaw typed w ppol off n = .ok (v, z)) :
    v < 256 ^ n := by
  unfold Line.readRaw at h
  split at h
  · cases h
  · cases h
  · split at h
    · cases h; exact Nat.pow_pos (by decide)
    · cases h
  · cases h; exact Nat.pow_pos (by decide)
  · cases h; exact Nat.pow_pos (by decide)
  · cases h
    have hlt := leNat_lt ((l.packed typed w).getList 0 off n)
    rwa [SMap.length_getList] at hlt

theorem State.Reads.lt {s : State} {slot : Nat} {k : MemKind} {va : Word} {n v : Nat} {x : Xlate} {z : Bool}
    (h : s.Reads slot k va n x v z) : v < 256 ^ n := by
  obtain ⟨-, hv⟩ := h
  dsimp only at hv
  split at hv
  · rw [hv.1]; exact Nat.pow_pos (by decide)
  · exact readRaw_lt hv

/-- The size of an atomic is that of a word or of half one (R260). -/
def amoSize (w : Bool) : Nat := if w then 8 else 4

theorem amoSize_bits (w : Bool) : 2 ^ (8 * amoSize w) = 256 ^ amoSize w := by cases w <;> rfl

theorem extend_amo (w : Bool) {v : Nat} (h : v < 256 ^ amoSize w) :
    extend (amoSize w) true v = BitVec.ofInt 64 (toSigned (8 * amoSize w) v) := by
  rw [← amoSize_bits] at h
  rw [extend, toSigned, Nat.mod_eq_of_lt h]
  rfl

/-- The number that a sign-extended word stands for. -/
theorem toInt_extend_amo (w : Bool) {v : Nat} (h : v < 256 ^ amoSize w) :
    (extend (amoSize w) true v).toInt = toSigned (8 * amoSize w) v := by
  rw [extend_amo w h]
  rw [← amoSize_bits] at h
  refine BitVec.toInt_ofInt_eq_self (by decide) ?_ ?_ <;> rw [toSigned, Nat.mod_eq_of_lt h] <;> cases w
  all_goals simp only [amoSize, Bool.false_eq_true, if_true, if_false] at h ⊢; split <;> omega

/-! ### The instructions -/

/-- AMO and CAS, as one meaning with the value that each writes (R260). -/
theorem exec_atomic
    {p : (Guard → RegF → RegF → RegF → BitVec 2 → BitVec 3 → Bool → Instr) × (Nat → Nat → Nat → Nat → Option Nat)}
    (hp : p ∈ atomics) (g : Guard) (d a b : RegF) (ord : BitVec 2) (sc : BitVec 3) (w : Bool) (s : State) :
    ∃ f, exec (p.1 g d a b ord sc w) s = amo g d a b w f s
      ∧ ∀ y o c, y < 256 ^ amoSize w → o < 256 ^ amoSize w → f (amoSize w) c y o = p.2 (amoSize w) c y o := by
  simp only [atomics, List.mem_cons, List.not_mem_nil, or_false] at hp
  have hle : ∀ {y o : Nat}, y < 256 ^ amoSize w → o < 256 ^ amoSize w →
      ((extend (amoSize w) true o).toInt ≤ (extend (amoSize w) true y).toInt
        ↔ toSigned (8 * amoSize w) o ≤ toSigned (8 * amoSize w) y) :=
    fun hy ho => by rw [toInt_extend_amo w hy, toInt_extend_amo w ho]
  rcases hp with rfl | rfl | rfl | rfl | rfl | rfl | rfl | rfl | rfl | rfl
  · exact ⟨_, (rfl : _ = execAmoswap g d a b ord sc w s), fun _ _ _ _ _ => rfl⟩
  · exact ⟨_, (rfl : _ = execAmoadd g d a b ord sc w s), fun _ _ _ _ _ => by dsimp only; rw [amoSize_bits]⟩
  · exact ⟨_, (rfl : _ = execAmoand g d a b ord sc w s), fun _ _ _ _ _ => rfl⟩
  · exact ⟨_, (rfl : _ = execAmoor g d a b ord sc w s), fun _ _ _ _ _ => rfl⟩
  · exact ⟨_, (rfl : _ = execAmoxor g d a b ord sc w s), fun _ _ _ _ _ => rfl⟩
  · exact ⟨_, (rfl : _ = execAmomin g d a b ord sc w s), fun _ _ _ hy ho => by simp only [hle hy ho]⟩
  · exact ⟨_, (rfl : _ = execAmomax g d a b ord sc w s), fun _ _ _ hy ho => by simp only [hle hy ho]⟩
  · exact ⟨_, (rfl : _ = execAmominu g d a b ord sc w s), fun _ _ _ _ _ => rfl⟩
  · exact ⟨_, (rfl : _ = execAmomaxu g d a b ord sc w s), fun _ _ _ _ _ => rfl⟩
  · exact ⟨_, (rfl : _ = execCas g d a b ord sc w s), fun _ _ _ _ _ => rfl⟩

section
variable {s : State} {slot : Nat} {c : Cl} (hc : s.cur = .cluster slot c)
include hc

/-- On a cluster an atomic step is one of its context. -/
theorem atomic_of_cluster (va : Word) (n : Nat) (f : Nat → Option Nat) :
    Comp.go (atomic va n f) s = Comp.go (ctxAtomic slot va n f) s := by
  unfold atomic
  rw [Comp.go_bind_ok (Comp.go_get s)]
  simp only [hc]

variable {g : Guard} (hg : s.guardTrue g = true) {d a b : RegF} {w : Bool} {f : Nat → Nat → Nat → Nat → Option Nat}
include hg

/-- The atomics of a provisional hank wait (R206). -/
theorem amo_waits (hp : s.myCtx.provisional = true) : amo g d a b w f s = .next (s.halt (.wait .provisional)) :=
  run_error hg (Comp.go_bind_error ((atomic_of_cluster hc ..).trans (Comp.go_bind_error (confirmed_waits hc hp))))

/-- An atomic that completes gives its register the old value, sign-extended. -/
theorem amo_ok {old : Nat} {r : State} (hold : old < 256 ^ amoSize w)
    (hgo : Comp.go (ctxAtomic slot (s.readS a) (amoSize w)
      (f (amoSize w) ((s.readS d).toNat % 256 ^ amoSize w) ((s.readS b).toNat % 256 ^ amoSize w))) s = (.ok old, r)) :
    amo g d a b w f s = .next ((r.writeS d (extend (amoSize w) true old)).retire 8) := by
  rw [← amoSize_bits, ← atomic_of_cluster hc] at hgo
  rw [extend_amo w hold]
  exact run_ok hg (Comp.go_bind_ok hgo)
end

/-- Settles O8: an atomic is a read, whose number its register takes, and the store of the value that it gives, if any. -/
theorem atomics_spec : Obligations.Atomics := by
  intro p hp s slot c g d a b ord sc w x old z n new u v hc hg
  obtain ⟨f, hexec, hf⟩ := exec_atomic hp g d a b ord sc w s
  have hagents := sameClusters_afterRead s slot .amo (s.readS a) x z
  refine ⟨fun hprov => hexec.trans (amo_waits hc hg hprov), fun hprov hr hw => ?_⟩
  have hnew : f n _ _ old = new := hf _ old _ (Nat.mod_lt _ (Nat.pow_pos (by decide))) hr.lt
  cases h : new with
  | none =>
    have hgo := ctxAtomic_reads hc hprov hr (hnew.trans h)
    exact ⟨u, _, hexec.trans (amo_ok hc hg hr.lt hgo), State.pass_spec .., hagents.me, hagents.1, rfl⟩
  | some y =>
    obtain ⟨l, z', hl, hgo⟩ := ctxAtomic_writes hc hprov hr (hnew.trans h) (hw y h)
    have hsame := sameAgents_wroteAtomic s slot (s.readS a) x z l
    have hsup : u.isSup = false := State.isSup_of_cluster (hagents.1.trans hc)
    refine ⟨_, _, hexec.trans (amo_ok hc hg hr.lt hgo), State.pass_spec .., hagents.me, hagents.1, hsame.me, hsame.2.2.1,
      onlyCompleted_retire hsup hsame 8, fun hz hclean => ?_⟩
    subst hz
    refine memoryAfterStore_wroteAtomic (by rwa [← State.myCtx_of_cluster hc]) (hw y h) ?_ hl hclean ?_
    · rw [leBytes_length]; cases w <;> decide
    · rw [State.retire, State.modMe_mem, State.writeS, State.modMe_mem]

end Sys2Proof.Machine
end

section
/-! PROOFS. SIGSET by way of an address-space descriptor that cannot be corrected (R72, R73, R124, R347). -/

namespace Sys2Proof.Machine

/-- A context whose address-space descriptor lies in a block that cannot be corrected. Its stored ROOT names an empty table; the block's
POISON reads 0, and from ROOT 0 the tables map 0x200000 to itself. C stands at a SIGSET of s0 at s1, and A waits in SIGWAIT on that line. -/
def lostDescriptor : State :=
  { State.reset with
    mem := [(0, 0x01), (8, 0x77), (10, 0x20), (15, 0x02), (0x10002, 0x40)]
    blocks := [(0x10000 / 512, { Block.initial with errors := 20 })]
    ctxs := [(0, { Ctx.free with
      hank := some (0, 0), asd := 0x10000
      c := { Cluster.initial with run := .running, s := [(1, 0x200000)] }
      a := { Cluster.initial with run := .waiting, wait := some (.signal 0x200000) } })] }

/-- The page of 0x200000 as the store finds it, walking from ROOT 0. -/
def pageFromZero : Xlate :=
  { va := 0x200000, pa := 0x200000, raw := 0x200000, unit := .spindle 0, host := false
    entry := { unit := .spindle 0, asd := 0x10000, pasid := 0, va := 0x200000, size := 0x200000, pa := 0x200000, leaf := 8, r := true, w := true
               x := false, u := true, d := true, mig := false, pslot := 0, folded := false, ats := false, par := Par.raw }
    walked := true
    path := [{ asd := 0x10000, level := 3, idx := 0, entry := 1 }, { asd := 0x10000, level := 2, idx := 0, entry := 1 }]
    setD := false }

/-- The store finds the page, and no store is held back. -/
theorem lostDescriptor_admits : lostDescriptor.Admits 0 .write 0x200000 true pageFromZero ∧ lostDescriptor.me.late = false
    ∧ (lostDescriptor.accessed 0 0x200000 pageFromZero).region pageFromZero.pa ≠ .creel := by
  unfold State.Admits
  decide +kernel

/-- Its line takes the bytes. -/
theorem lostDescriptor_stores : ∃ l z, ((lostDescriptor.accessed 0 0x200000 pageFromZero).seenLine 0 pageFromZero).storeRaw pageFromZero.typed
      pageFromZero.par.w pageFromZero.par.ppol pageFromZero.par.expf (pageFromZero.va % 128) (leBytes 8 0) = .ok (l, z)
    ∧ (lostDescriptor.accessed 0 0x200000 pageFromZero).plyConflict pageFromZero l = false :=
  ⟨{ tag := .untyped 0, bytes := [] }, false, by decide +kernel, by decide +kernel⟩

theorem lostDescriptor_writes : lostDescriptor.Writes 0 .write 0x200000 (leBytes 8 0) pageFromZero := by
  obtain ⟨hadmits, hlate, hregion⟩ := lostDescriptor_admits
  exact ⟨hadmits, hlate, hregion, lostDescriptor_stores, .inl (by decide +kernel)⟩

/-- How the A cluster of slot 0 stands in the state that an answer leaves. -/
def runOfA : Answer → Option Run
  | .next t => some ((t.ctx 0).cl .A).run
  | _ => none

/-- SIGSET completes, and the A cluster waits as before: its wake goes to the line that the descriptor names as it stood before the store. -/
theorem lostDescriptor_sigset : runOfA (exec (.sigset { neg := false, sel := 7 } 0 1 0) lostDescriptor) = some .waiting := by
  decide +kernel

/-- Refutes O39: SIGSET takes the line whose waiters it wakes from the translation before its store. Where the store's walk finds the
block of the address-space descriptor uncorrectable, the store goes by a descriptor of zeros (R73), and the waiters on its line stay. -/
theorem not_signalsAndTasks : ¬ Obligations.SignalsAndTasks := by
  intro h
  obtain ⟨-, hset, -⟩ := h lostDescriptor 0 .C { neg := false, sel := 7 } 0 1 0 0 pageFromZero rfl (by decide +kernel)
  have haddress : lostDescriptor.readS 1 = 0x200000 := by decide +kernel
  have hvalue : (lostDescriptor.readS 0).toNat = 0 := by decide +kernel
  rw [haddress, hvalue] at hset
  obtain ⟨u, hexec, hcur, -, hwoken⟩ := hset (by decide +kernel) lostDescriptor_writes
  have hcluster : u.cur = .cluster 0 .C := hcur
  have hsame : ((u.retire 4).ctx 0).cl .A = (u.ctx 0).cl .A := by
    have hother := ((othersKept_modMe u fun y => y.retire 4).1 (State.isSup_of_cluster hcluster)).2 .A (by simp [State.cl, hcluster])
    rwa [State.myCtx_of_cluster hcluster, State.myCtx_of_cluster ((State.cur_modMe ..).trans hcluster)] at hother
  have hruns : ((u.ctx 0).cl .A).run = .running := by rw [hwoken]; decide +kernel
  have hwaits := lostDescriptor_sigset
  rw [hexec, runOfA, hsame, hruns] at hwaits
  cases hwaits

end Sys2Proof.Machine
end

section
/-! PROOFS. Records and messages to the host ports (R377, R398, R469). -/

namespace Sys2Proof.Machine

/-- A port after a record: its error queue takes it, or counts it as lost (R398). -/
def Port.afterReport (p : Port) (up : Bool) (r : Rec) : Port :=
  if p.eqcfg.getLsbD 63 = false ∨ up = false then p
  else if (p.eqTail - p.eqHead).toNat = 2 ^ ((p.eqcfg.extractLsb' 0 4).toNat + 6) - 1 ∧ r.cls ≠ 5 then { p with eqLost := p.eqLost + 1 }
  else { p with
    eqTail := p.eqTail + 1
    sent := p.sent ++ (if p.unmasked.get false 0 = true then [0] else [])
    pending := if p.unmasked.get false 0 = true then p.pending else p.pending.set false 0 true }

theorem State.port_modPort (s : State) (n k : Nat) (f : Port → Port) :
    (s.modPort n f).port k = if k = n then f (s.port k) else s.port k := SMap.get_modify ..

theorem State.byteAt_modPort (s : State) (n a : Nat) (f : Port → Port) : (s.modPort n f).byteAt a = s.byteAt a := rfl

/-- Vector 0 of a port whose link is up (R377). -/
theorem Port.message_zero (p : Port) : p.message 0 = { p with
    sent := p.sent ++ (if p.unmasked.get false 0 = true then [0] else [])
    pending := if p.unmasked.get false 0 = true then p.pending else p.pending.set false 0 true } := by
  unfold Port.message
  split
  · simp [*]
  · simp [*]

/-- A record changes one port and the memory of the host (R398). -/
theorem State.reportPort_spec (s : State) (n : Nat) (r : Rec) :
    s.reportPort n r = { s with ports := (s.reportPort n r).ports, mem := (s.reportPort n r).mem }
      ∧ (∀ a, a < hostBase → (s.reportPort n r).byteAt a = s.byteAt a)
      ∧ ∀ k, (s.reportPort n r).port k = if k = n then (s.port k).afterReport (s.linkUp k) r else s.port k := by
  unfold State.reportPort
  dsimp only
  by_cases hoff : (!(s.port n).eqcfg.getLsbD 63 || !s.linkUp n) = true
  · rw [if_pos hoff]
    refine ⟨rfl, fun _ _ => rfl, fun k => ?_⟩
    split
    · rename_i hk
      subst hk
      rw [Port.afterReport, if_pos (by simpa using hoff)]
    · rfl
  · rw [if_neg hoff]
    have hon : ¬ ((s.port n).eqcfg.getLsbD 63 = false ∨ s.linkUp n = false) := by simpa using hoff
    by_cases hfull : ((s.port n).eqTail - (s.port n).eqHead).toNat = 2 ^ (((s.port n).eqcfg.extractLsb' 0 4).toNat + 6) - 1 ∧ r.cls ≠ 5
    · rw [if_pos hfull]
      refine ⟨rfl, fun _ _ => rfl, fun k => ?_⟩
      rw [State.port_modPort]
      split
      · rename_i hk
        subst hk
        rw [Port.afterReport, if_neg hon, if_pos hfull]
      · rfl
    · rw [if_neg hfull]
      refine ⟨by split <;> rfl, fun a ha => ?_, fun k => ?_⟩
      · split
        · rw [State.byteAt_modPort, State.byteAt_setBytes, if_neg fun h => absurd ((Nat.le_add_right ..).trans h.1) (Nat.not_le.2 ha)]
        · rfl
      · rw [State.port_modPort]
        split
        · rename_i hk
          subst hk
          rw [Port.afterReport, if_neg hon, if_neg hfull, Port.message_zero]
          split <;> rfl
        · split <;> rfl

theorem State.linkUp_reportPort (s : State) (n k : Nat) (r : Rec) : (s.reportPort n r).linkUp k = s.linkUp k := by
  rw [State.linkUp, State.reportPort_creel, State.linkUp]

/-- A record enters both error queues. -/
theorem reported_report (s : State) (r : Rec) : Reported s (s.report r) r := by
  obtain ⟨hframe, hmem, hport⟩ := s.reportPort_spec 0 r
  obtain ⟨hframe', hmem', hport'⟩ := (s.reportPort 0 r).reportPort_spec 1 r
  refine ⟨?_, fun a ha => (hmem' a ha).trans (hmem a ha), fun n hn => ?_⟩
  · rw [State.report, hframe', hframe]
  · have hafter : (s.report r).port n = (s.port n).afterReport (s.linkUp n) r := by
      rw [State.report, hport', State.linkUp_reportPort, hport]
      obtain rfl | rfl : n = 0 ∨ n = 1 := by omega
      · rfl
      · rfl
    dsimp only
    rw [hafter, Port.afterReport]
    split
    · rfl
    · split <;> rfl

/-- A message is raised at both ports. -/
theorem messageRaised_message (s : State) (v : Nat) : MessageRaised s (s.message v) v := by
  have hport (n : Nat) (hn : n < 2) : (s.message v).port n = (s.port n).raise (s.linkUp n) v := by
    rw [State.message, State.port_modPort, State.port_modPort]
    obtain rfl | rfl : n = 0 ∨ n = 1 := by omega
    · rfl
    · rfl
  refine ⟨rfl, fun n hn => ?_, fun n hn => ?_⟩
  · rw [State.message, State.port_modPort, if_neg (by omega), State.port_modPort, if_neg (by omega)]
  · rw [hport n hn, Port.raise, Port.message]
    cases hu : (s.port n).unmasked.get false v <;> cases s.linkUp n <;> simp

end Sys2Proof.Machine
end

section
/-! PROOFS. A task record as the Task Front reads it from its ring and judges it (R162, R164, R171, R172, R403). -/

namespace Sys2Proof.Machine

/-! ### The lines of a record -/

theorem State.lt_of_region_hbm {s : State} {pa : Nat} (h : s.region pa = .hbm) : pa < 0x006000000000 := by
  by_contra hge
  unfold State.region at h
  rw [if_neg hge] at h
  dsimp only at h
  repeat' split at h
  all_goals cases h

theorem State.region_hbm {s : State} {pa : Nat} (h : pa < 0x006000000000) : s.region pa = .hbm := if_pos h

theorem State.putLine_ports (s : State) (pa : Nat) (l : Line) : (s.putLine pa l).ports = s.ports := by
  unfold State.putLine State.clearPm
  dsimp only
  split <;> rfl

theorem LineTag.cls_poison {t : LineTag} {typed : Bool} {w : Nat} (h : t.vcls = 4) :
    t.cls typed w = .poison ∨ t.cls typed w = .invalid := by
  unfold LineTag.cls
  split
  · exact .inr rfl
  · rw [h]
    exact .inl rfl

/-- A record that the Task Front can read whole: it lies in HBM4, its lines can be used and its block holds no error, and no write of its
first line waits (R172). -/
structure State.HoldsRecord (s : State) (e : Nat) : Prop where
  aligned : e % 256 = 0
  region : s.region e = .hbm
  errors : (s.blockAt e).errors = 0
  free : s.physHeldRange e 256 = false
  usable : s.physBad e 256 = false
  quiet : ∀ w ∈ s.physWaits, w.2.1 / 128 ≠ e / 128

namespace State.HoldsRecord
variable {s : State} {e : Nat} (h : s.HoldsRecord e)
include h

theorem scrub : s.scrub e = s := by
  unfold State.scrub
  rw [h.region]
  exact if_pos h.errors

/-- The line of a record is neither in TRANSIT nor POISON, and the host does not own it. -/
theorem first_line : (s.tagAt e).vcls ≠ 3 ∧ (s.tagAt e).vcls ≠ 4 ∧ s.ownedByHost e = false := by
  have hspan : (e % 128 + 256 + 127) / 128 = 2 := by have := h.aligned; omega
  have hfree := h.free
  have husable := h.usable
  rw [State.physHeldRange, hspan, List.any_eq_false] at hfree
  rw [State.physBad, hspan, List.any_eq_false] at husable
  have hheld := hfree 0 (by simp)
  have hbad := husable 0 (by simp)
  simp only [Nat.mul_zero, Nat.add_zero, h.region, PRegion.tagged, Bool.true_and, Bool.or_eq_true, not_or, beq_iff_eq,
    Bool.not_eq_true] at hheld hbad
  refine ⟨hheld.1, fun h4 => ?_, hheld.2⟩
  rcases LineTag.cls_poison (typed := false) (w := 1) h4 with hc | hc <;> rw [hc] at hbad <;> cases hbad

/-- STATUS stands in the record's first line. -/
theorem status_line : (e + 3) / 128 = e / 128 := by have := h.aligned; omega

theorem region_status : s.region (e + 3) = .hbm :=
  State.region_hbm (by have := State.lt_of_region_hbm h.region; have := h.aligned; omega)

theorem homeOf_status : s.homeOf (e + 3) = e + 3 := by rw [State.homeOf, h.region_status]

theorem physHeld_status : s.physHeld (e + 3) = false := by
  obtain ⟨h3, -, howned⟩ := h.first_line
  have hwaits : (s.physWaits.any fun w => w.2.1 / 128 == e / 128) = false :=
    List.any_eq_false.2 fun w hw => by simpa using h.quiet w hw
  rw [State.ownedByHost] at howned
  rw [State.tagAt] at h3
  simp [State.physHeld, State.tagAt, State.ownedByHost, h.status_line, h3, howned, hwaits]

theorem writeStatus_one (v : Byte) : s.writeStatus e v = s.physWriteOne 0x630 (e + 3) [v] := by
  have hfits : s.homeOf (e + 3) % 128 + [v].length ≤ 128 := by
    rw [h.homeOf_status, List.length_singleton]
    have := h.aligned
    omega
  rw [State.writeStatus, State.physWrite_line (List.cons_ne_nil v []) hfits, h.homeOf_status]

/-- STATUS of a record is written at once (R164, R476). -/
theorem writeStatus_eq (v : Byte) :
    ∃ l, s.writeStatus e v = ((s.putLine (e + 3) l).recall ((e + 3) / 128)).wakeLine (e + 3) := by
  have hscrub : s.scrub (e + 3) = s := by
    have hblock : s.blockAt (e + 3) = s.blockAt e := by
      rw [State.blockAt, State.blockAt, show (e + 3) / 512 = e / 512 by have := h.aligned; omega]
    unfold State.scrub
    rw [h.region_status]
    exact if_pos (hblock.symm ▸ h.errors)
  have hclass : (s.lineAt (e + 3)).tag.vcls ≠ 4 := by
    show (s.tagAt (e + 3)).vcls ≠ 4
    rw [State.tagAt, h.status_line]
    exact h.first_line.2.1
  obtain ⟨l, hl⟩ := Line.storePhys_some hclass ((e + 3) % 128) [v]
  refine ⟨l, ?_⟩
  rw [h.writeStatus_one, State.physWriteOne, h.physHeld_status, if_neg Bool.false_ne_true, State.physWriteLine, h.region_status]
  dsimp only
  rw [hscrub, hl]

theorem bytesStored_status (v : Byte) : BytesStored s (s.writeStatus e v) (e + 3) [v] := by
  have hfits : (e + 3) % 128 + [v].length ≤ 128 := by
    rw [List.length_singleton]
    have := h.aligned
    omega
  have hmapped : s.region (e + 3) ≠ .outside ∧ s.region (e + 3) ≠ .creel := by
    rw [h.region_status]
    exact ⟨PRegion.noConfusion, PRegion.noConfusion⟩
  rw [h.writeStatus_one]
  exact (State.physWriteOne_spec hmapped.1 hmapped.2 hfits _).2.2.1

/-- The write of STATUS changes no task, hank, register or port (R164). -/
theorem writeStatus_frame (v : Byte) : (s.writeStatus e v).tasks = s.tasks ∧ (s.writeStatus e v).hanks = s.hanks
    ∧ (s.writeStatus e v).creel = s.creel ∧ (s.writeStatus e v).ports = s.ports ∧ (s.writeStatus e v).timeNs = s.timeNs := by
  obtain ⟨l, hl⟩ := h.writeStatus_eq v
  obtain ⟨-, -, -, -, -, htime, -, -, -, -, hhanks, htasks, -⟩ := sameAgents_putLine s (e + 3) l
  rw [hl]
  exact ⟨htasks, hhanks, State.putLine_creel .., State.putLine_ports .., htime⟩

end State.HoldsRecord

/-! ### The ring (R161, R162) -/

theorem lq_word (tail head : Nat) :
    ((BitVec.ofNat 64 (tail % 2 ^ 22 * 2 ^ 32 + head % 2 ^ 22)).extractLsb' 0 22).toNat = head % 2 ^ 22
      ∧ ((BitVec.ofNat 64 (tail % 2 ^ 22 * 2 ^ 32 + head % 2 ^ 22)).extractLsb' 32 22).toNat = tail % 2 ^ 22 := by
  have htail : tail % 2 ^ 22 < 2 ^ 22 := Nat.mod_lt _ (by decide)
  have hhead : head % 2 ^ 22 < 2 ^ 22 := Nat.mod_lt _ (by decide)
  rw [BitVec.extractLsb'_toNat, BitVec.extractLsb'_toNat, BitVec.toNat_ofNat, Nat.shiftRight_eq_div_pow, Nat.shiftRight_eq_div_pow]
  generalize tail % 2 ^ 22 = t at *
  generalize head % 2 ^ 22 = k at *
  norm_num at *
  omega

/-- HEAD and TAIL of a queue after a write of its pointers. -/
theorem State.lq_setLq (s : State) (q tail head : Nat) :
    (s.setLq q tail head).lqHead q = head % 2 ^ 22 ∧ (s.setLq q tail head).lqTail q = tail % 2 ^ 22 := by
  have hget : (s.setLq q tail head).creel.lqptr.get 0 q = BitVec.ofNat 64 (tail % 2 ^ 22 * 2 ^ 32 + head % 2 ^ 22) := by
    rw [State.setLq, State.modCreel]
    dsimp only
    rw [SMap.get_set_same]
  rw [State.lqHead, State.lqTail, hget]
  exact lq_word tail head

theorem State.lqTail_tasks (s : State) (l : List Task) (q : Nat) : State.lqTail { s with tasks := l } q = s.lqTail q := rfl
theorem State.lqHead_tasks (s : State) (l : List Task) (q : Nat) : State.lqHead { s with tasks := l } q = s.lqHead q := rfl
theorem State.setLq_tasks (s : State) (l : List Task) (q tail head : Nat) :
    State.setLq { s with tasks := l } q tail head = { s.setLq q tail head with tasks := l } := rfl
theorem State.tasks_modCreel (s : State) (f : Creel → Creel) : (s.modCreel f).tasks = s.tasks := rfl
theorem State.hanks_modCreel (s : State) (f : Creel → Creel) : (s.modCreel f).hanks = s.hanks := rfl
theorem State.with_tasks (s : State) {l : List Task} (h : l = s.tasks) : { s with tasks := l } = s := by rw [h]
theorem State.tasks_setLq (s : State) (q tail head : Nat) : (s.setLq q tail head).tasks = s.tasks := s.tasks_modCreel _
theorem State.hanks_setLq (s : State) (q tail head : Nat) : (s.setLq q tail head).hanks = s.hanks := s.hanks_modCreel _

/-- HEAD stands where no task of the queue is in the ring. -/
theorem State.advanceHead_none {s : State} {q : Nat} (h : ∀ t ∈ s.tasks, t.queue ≠ q) (n : Nat) : s.advanceHead q n = s := by
  have hnone : (s.tasks.find? fun t => t.queue == q && !t.passed) = none :=
    List.find?_eq_none.2 fun t ht => by simp [h t ht]
  cases n with
  | zero => rfl
  | succ n => rw [State.advanceHead, hnone]

/-- Tasks of which none is done and passed stay. -/
theorem filter_unfinished {l : List Task} (h : ∀ t ∈ l, t.done = true → t.passed = false) :
    (l.filter fun x => !(x.done && x.passed)) = l :=
  List.filter_eq_self.2 fun t ht => by cases hd : t.done <;> simp [h t ht, hd]

section
variable {u : State} {q : Nat} (hq : ∀ t ∈ u.tasks, t.queue ≠ q) (hdone : ∀ t ∈ u.tasks, t.done = true → t.passed = false)
include hq hdone

/-- HEAD passes an entry that starts no task, and the entry is forgotten (R162). -/
theorem State.advanceHead_append {new : Task} (hn : new.queue = q) (hp : new.passed = false) (hr : new.released = true)
    (hd : new.done = true) (n : Nat) :
    State.advanceHead { u with tasks := u.tasks ++ [new] } q (n + 1) = u.setLq q (u.lqTail q) (u.lqHead q + 1) := by
  have hfind : ((u.tasks ++ [new]).find? fun t => t.queue == q && !t.passed) = some new := by
    rw [List.find?_append, List.find?_eq_none.2 fun t ht => by simp [hq t ht]]
    simp [hn, hp]
  have hmap : (u.tasks.map fun x => if x = new then { x with passed := true } else x) = u.tasks :=
    List.map_congr_left (g := id) (fun t ht => if_neg fun h : t = new => hq t ht (h ▸ hn)) |>.trans (List.map_id _)
  have hleft : (((u.tasks ++ [new]).map fun x => if x = new then { x with passed := true } else x).filter
      fun x => !(x.done && x.passed)) = u.tasks := by
    rw [List.map_append, List.filter_append, hmap, filter_unfinished hdone]
    simp [hd]
  rw [State.advanceHead, hfind]
  dsimp only
  rw [hr, if_pos rfl, State.lqTail_tasks, State.lqHead_tasks, State.setLq_tasks]
  dsimp only
  rw [hleft, State.with_tasks _ (State.tasks_setLq ..).symm]
  exact State.advanceHead_none (by rwa [State.tasks_setLq]) n

/-- Where no task of a queue is in the ring and no finished one is to be forgotten, an entry that starts no task passes at once, and
nothing of it is left but HEAD (R162). -/
theorem State.passEntry_eq (e : Nat) (x : TaskRec) : u.passEntry e q x = u.setLq q (u.lqTail q) (u.lqHead q + 1) := by
  rw [State.passEntry, State.tidyQueue]
  dsimp only
  rw [State.advanceHead_append hq hdone rfl rfl rfl rfl, State.tasks_setLq, filter_unfinished hdone]
  exact State.with_tasks _ (State.tasks_setLq ..).symm

theorem State.passEntry_spec (e : Nat) (x : TaskRec) :
    (u.passEntry e q x).lqHead q = (u.lqHead q + 1) % 2 ^ 22 ∧ (u.passEntry e q x).lqTail q = u.lqTail q
      ∧ (u.passEntry e q x).tasks = u.tasks ∧ (u.passEntry e q x).hanks = u.hanks := by
  obtain ⟨hhead, htail⟩ := u.lq_setLq q (u.lqTail q) (u.lqHead q + 1)
  have hlt : u.lqTail q < 2 ^ 22 := BitVec.isLt _
  rw [State.passEntry_eq hq hdone]
  exact ⟨hhead, htail.trans (Nat.mod_eq_of_lt hlt), State.tasks_setLq .., State.hanks_setLq ..⟩
end

end Sys2Proof.Machine
end

section
/-! PROOFS. TASK_TAKE (R162, R171, R172, R397). -/

namespace Sys2Proof.Machine

/-! ### The checks of a record -/

/-- The least of the offsets, where no failing check is beyond the bound. -/
theorem foldl_min_eq {l : List Nat} {o a : Nat} (ho : o ∈ l ∨ o = a) (hl : ∀ p ∈ l, o ≤ p) (ha : o ≤ a) :
    l.foldl min a = o := by
  induction l generalizing a with
  | nil => exact (ho.resolve_left List.not_mem_nil).symm
  | cons p l ih =>
    obtain ⟨hp, hrest⟩ := List.forall_mem_cons.1 hl
    refine ih ?_ hrest (le_min ha hp)
    rcases ho with ho | rfl
    · rcases List.mem_cons.1 ho with rfl | ho
      · exact .inr (min_eq_right ha).symm
      · exact .inl ho
    · exact .inr (min_eq_left hp).symm

/-- A record whose header passes its checks has no empty level (R171). -/
theorem ext_pos_of_headerFaults {l : List Byte} {t : TaskRec} (h : headerFaults l t = []) : ∀ j < 6, 0 < t.ext j := by
  intro j hj
  unfold headerFaults at h
  simp only [List.append_eq_nil_iff, List.flatMap_eq_nil_iff] at h
  obtain ⟨⟨⟨⟨⟨⟨⟨-, hext⟩, -⟩, -⟩, -⟩, -⟩, -⟩, -⟩ := h
  have hj := (hext j (List.mem_range.2 hj)).1
  by_contra hzero
  rw [Nat.eq_zero_of_not_pos hzero] at hj
  cases hj

/-- The working-set list of a record without regions is not read (R169). -/
theorem readWset_empty {l : List Byte} (h : (wsetOf l).2 = 0) (t : TaskRec) (s : State) : readWset l t s = .value ([], []) s := by
  unfold readWset
  rcases hw : wsetOf l with ⟨va, n⟩
  rw [hw] at h
  dsimp only at h
  subst h
  rfl

/-! ### The first hank -/

/-- Digits below their bounds are launched. -/
theorem leastWithin_isSome : ∀ {l : List (Nat × Nat)}, (∀ p ∈ l, p.1 < p.2) → (leastWithin l).isSome = true
  | [], _ => rfl
  | (d, b) :: l, h => by
    obtain ⟨hd, hl⟩ := List.forall_mem_cons.1 h
    obtain ⟨r, hr⟩ := Option.isSome_iff_exists.1 (leastWithin_isSome hl)
    rw [leastWithin, if_neg (Nat.not_le.2 hd), hr]
    rfl

/-- Ordinal 0 has field 0 at every level. -/
theorem fieldsOf_zero (ext : Nat → Nat) : ∀ (ls : List Nat), ∀ f ∈ fieldsOf ext ls 0, f = 0
  | [], _, hf => absurd hf List.not_mem_nil
  | _ :: ls, f, hf => by
    rw [fieldsOf, Nat.zero_div, Nat.zero_mod] at hf
    rcases List.mem_cons.1 hf with rfl | hf
    · rfl
    · exact fieldsOf_zero ext ls f hf

theorem lt_six_of_mem_levelsFrom {lo j : Nat} (h : j ∈ levelsFrom lo) : j < 6 := by
  rw [levelsFrom, List.mem_reverse, List.mem_range'_1] at h
  omega

/-- A task without shapes and empty levels has its first hank to launch (R204). -/
theorem Task.nextLaunched_first {t : Task} (h0 : t.body.shape 0 = none) (h1 : t.body.shape 1 = none) (hext : ∀ j < 6, 0 < t.body.ext j)
    (hn : t.next = 0) : t.nextLaunched.isSome = true := by
  have hbound (j : Nat) : t.bound j = t.body.ext j := by simp [Task.bound, Task.descOf, h0, h1]
  have hcount : 0 < t.body.hankCount := by
    refine List.prod_pos fun x hx => ?_
    obtain ⟨j, hj, rfl⟩ := List.mem_map.1 hx
    exact hext j (lt_six_of_mem_levelsFrom hj)
  rw [Task.nextLaunched, hn, if_neg (Nat.not_le.2 hcount), Option.isSome_map]
  refine leastWithin_isSome fun p hp => ?_
  obtain ⟨hfield, hlimit⟩ := List.of_mem_zip hp
  obtain ⟨j, hj, hjp⟩ := List.mem_map.1 hlimit
  rw [fieldsOf_zero _ _ _ hfield, ← hjp, hbound]
  exact hext j (lt_six_of_mem_levelsFrom hj)

/-! ### Acceptance and rejection -/

section
variable {s : State} {e q : Nat} {body : TaskRec} (h0 : body.shape 0 = none) (h1 : body.shape 1 = none)
include h0 h1

/-- A record without shape descriptors has no shape word to be read (R199). -/
theorem readShapes_none (pa : Nat) (s0 s : State) : readShapes pa body s0 [0, 1] s = .ok s := by
  rw [readShapes, h0]
  dsimp only
  rw [readShapes, h1]
  rfl

/-- An accepted record without shape descriptors becomes a task, which stays in the ring (R162, R171). -/
theorem State.accept_eq (hext : ∀ j < 6, 0 < body.ext j) (hnew : (s.writeStatus e 1).findTask e = none) :
    s.accept e q body = { s.writeStatus e 1 with
      tasks := (s.writeStatus e 1).tasks ++ [Task.taken e q (s.writeStatus e 1).timeNs body] } := by
  have hfound : State.findTask { s.writeStatus e 1 with
      tasks := (s.writeStatus e 1).tasks ++ [Task.taken e q (s.writeStatus e 1).timeNs body] } e
      = some (Task.taken e q (s.writeStatus e 1).timeNs body) := by
    rw [State.findTask] at hnew
    rw [State.findTask, List.find?_append, hnew]
    simp [Task.taken]
  have hlast : (Task.taken e q (s.writeStatus e 1).timeNs body).lastAdmitted = false := by
    have hfirst := Task.nextLaunched_first (t := Task.taken e q (s.writeStatus e 1).timeNs body) h0 h1 hext rfl
    rw [Task.lastAdmitted, ← Option.not_isSome, hfirst, Bool.not_true, Bool.and_false]
  unfold State.accept
  dsimp only
  rw [readShapes_none h0 h1]
  dsimp only
  rw [State.releaseIfDone, hfound]
  dsimp only
  rw [hlast, Bool.false_and, if_neg Bool.false_ne_true]
end

/-- The same of a record whose regions have been read apart. -/
theorem State.accept_regions {s : State} {e q : Nat} {b : TaskRec} (h0 : b.shape 0 = none) (h1 : b.shape 1 = none)
    (hext : ∀ j < 6, 0 < b.ext j) (hnew : (s.writeStatus e 1).findTask e = none) (rs : List Region) :
    s.accept e q { b with regions := rs } = { s.writeStatus e 1 with
      tasks := (s.writeStatus e 1).tasks ++ [Task.taken e q (s.writeStatus e 1).timeNs { b with regions := rs }] } :=
  State.accept_eq h0 h1 hext hnew

/-- The offsets of the record's failing checks, but for that of its address-space descriptor and of its working-set list (R171). -/
def recordFaults (l : List Byte) : List Nat :=
  headerFaults l (taskOf l) ++ seedFaults (taskOf l) ++ waitFaults l ++ shapeFaults l (taskOf l)

section
variable {s : State} {l : List Byte} (e q : Nat)
  (hasd : (taskOf l).asd % 64 = 0 → s.CleanAt (taskOf l).asd ∧ s.physHeldRange (taskOf l).asd 64 = false)
include hasd

/-- Reading the address-space descriptor leaves no trace, and nothing holds it back (R72, R172). -/
theorem descriptor_quiet : (if (taskOf l).asd % 64 = 0 then s.scrub (taskOf l).asd else s) = s
    ∧ ¬ ((taskOf l).asd % 64 = 0 ∧ s.physHeldRange (taskOf l).asd 64 = true) := by
  refine ⟨?_, fun ⟨hal, hheld⟩ => Bool.false_ne_true ((hasd hal).2.symm.trans hheld)⟩
  split
  · rename_i hal
    obtain ⟨⟨herr, hpoison⟩, -⟩ := hasd hal
    exact s.scrub_clean _ herr hpoison
  · rfl

/-- A record that fails a check of its first bytes is rejected at the lowest of them (R171, R397). -/
theorem State.judge_rejects {o : Nat} (ho : o ∈ recordFaults l) (hlow : o < 64) (hmin : ∀ p ∈ recordFaults l, o ≤ p) :
    s.judge e q l = s.reject e q o (taskOf l) := by
  obtain ⟨hscrub, hfree⟩ := descriptor_quiet hasd
  unfold State.judge
  extract_lets t s1 bad low
  have hs1 : s1 = s := hscrub
  clear_value s1
  subst hs1
  rw [if_neg hfree]
  have hfold : low = o := by
    refine foldl_min_eq (.inl (List.mem_append_left _ ho)) (fun p hp => ?_) (by omega)
    rcases List.mem_append.1 hp with hp | hp
    · exact hmin p hp
    · split at hp
      · rw [List.mem_singleton.1 hp]
        omega
      · cases hp
  rw [hfold, if_pos (.inl (by omega))]

/-- A record that passes every check and names no region is accepted (R171). -/
theorem State.judge_accepts (hno : recordFaults l = []) (hok : s.asdOk (taskOf l).asd = true) (hw : (wsetOf l).2 = 0) :
    s.judge e q l = s.accept e q { taskOf l with regions := [] } := by
  obtain ⟨hscrub, hfree⟩ := descriptor_quiet hasd
  unfold State.judge
  extract_lets t s1 bad low
  have hs1 : s1 = s := hscrub
  clear_value s1
  subst hs1
  rw [if_neg hfree]
  have hbad : bad = [] := by
    refine List.append_eq_nil_iff.2 ⟨hno, if_neg fun h => ?_⟩
    rw [hok] at h
    exact Bool.noConfusion h.2
  have hlow : low = 65536 := by
    show bad.foldl min 65536 = 65536
    rw [hbad, List.foldl_nil]
  have hpass : ¬ (low ≤ 104 ∨ bad.contains 120 = true) := by rw [hlow, hbad]; decide
  rw [if_neg hpass, readWset_empty hw]
  dsimp only
  rw [List.foldl_nil, hlow, if_neg (Nat.lt_irrefl _)]
end

/-! ### The next entry of a ring -/

/-- The place of the entry that the Task Front takes next (R161, R162). -/
def State.entryAt (s : State) (q : Nat) : Nat := s.lqBase q + 8 * ((s.lqHead q + (s.queueTasks q).length) % s.lqSize q)

/-- What the Task Front does with an entry that it has read (R171, R172). -/
def State.takeRecord (s : State) (e q : Nat) : State :=
  if e % 256 ≠ 0 then s.notAccepted e q 0
  else if s.region e ≠ .hbm then s.notAccepted e q 1
  else if (s.scrub e).physHeldRange e 256 || (s.findTask e).isSome then s
  else if (s.scrub e).physBad e 256 then (s.scrub e).notAccepted e q 2
  else (s.scrub e).judge e q ((s.scrub e).physRead e 256)

/-- The Task Front may take a queue's next entry, and reads it without a trace (R162, R172). -/
structure State.TakesEntry (s : State) (q : Nat) : Prop where
  queue : q < 64
  ready : s.creel.ready = true
  enabled : s.lqEnabled q = true
  count : (s.queueTasks q).length < s.lqCount q
  turn : s.mayTake q = true
  clean : s.CleanAt (s.entryAt q)
  free : s.physHeldRange (s.entryAt q) 8 = false
  usable : s.physBad (s.entryAt q) 8 = false

theorem State.TakesEntry.takeTask_eq {s : State} {q : Nat} (h : s.TakesEntry q) :
    s.takeTask q = s.takeRecord (s.natAt (s.entryAt q) 8) q := by
  have hgate : (s.creel.ready && s.lqEnabled q && decide (q < 64)
      && decide ((s.queueTasks q).length < s.lqCount q) && s.mayTake q) = true := by
    simp [h.ready, h.enabled, h.queue, h.count, h.turn]
  unfold State.takeTask
  extract_lets n a s1 e s2
  rw [if_pos hgate]
  have hs1 : s1 = s := s.scrub_clean _ h.clean.1 h.clean.2
  clear_value s1
  subst hs1
  have hfree : ¬ s1.physHeldRange a 8 = true := by rw [show s1.physHeldRange a 8 = false from h.free]; exact Bool.false_ne_true
  have husable : ¬ s1.physBad a 8 = true := by rw [show s1.physBad a 8 = false from h.usable]; exact Bool.false_ne_true
  rw [if_neg hfree, if_neg husable]
  rfl

/-- A record that can be read, and is no task already, is judged (R171). -/
theorem State.HoldsRecord.takeRecord_eq {s : State} {e : Nat} (h : s.HoldsRecord e) (hnew : s.findTask e = none) (q : Nat) :
    s.takeRecord e q = s.judge e q (s.bytesAt e 256) := by
  rw [State.takeRecord, if_neg (not_not.2 h.aligned), if_neg (not_not.2 h.region), h.scrub, h.free, hnew, h.usable,
    if_neg (by decide), if_neg (by decide), State.physRead]

/-- An entry that is not accepted passes with its record (R172). -/
theorem State.notAccepted_spec (s : State) (e q reason : Nat) : ∃ u, s.notAccepted e q reason = u.passEntry e q (taskOf [])
    ∧ Reported s u (s.frontRec 4 0x0405 e 0 (at_ 16 reason)) := ⟨_, rfl, reported_report ..⟩

end Sys2Proof.Machine
end

section
/-! PROOFS. Wait conditions, shape timeouts, the predictor and admission (R168, R174, R201, R440, R443). -/

namespace Sys2Proof.Machine

/-! ### Wait conditions (R168) -/

/-- The tests of R168 as a table. -/
theorem waitTest_eq (op : Nat) (x v : Word) : waitTest op x v =
    [true, x == v, x != v, decide (v.toNat ≤ x.toNat), decide (x.toNat < v.toNat), decide (v.toInt ≤ x.toInt),
      decide (x.toInt < v.toInt)].getD op false := by
  unfold waitTest
  split
  case h_8 h0 h1 h2 h3 h4 h5 h6 =>
    have hlarge : 7 ≤ op := by
      by_contra hlt
      have : op ∈ List.range 7 := List.mem_range.2 (by omega)
      fin_cases this <;> simp_all
    exact (List.getD_eq_default _ _ hlarge).symm
  all_goals rfl

section
variable {s : State} {pa k : Nat} {t : Task} {w : WaitCond} (ht : s.findTask pa = some t)
  (hw : t.body.waits[k]? = some w)
  (hmet : t.met.get false k = false) (hfailed : t.failed = false) (hdone : t.done = false)
include ht hw hmet hfailed hdone

/-- A wait word that has been read is tested (R168). -/
theorem State.recheckWait_value {x : Nat} {u : State}
    (hread : agentRead (asdLoad frontUnit t.body.asd false (BitVec.ofNat 64 w.va) 8) s = .value x u) :
    s.recheckWait pa k = if waitTest w.op (BitVec.ofNat 64 x) w.v then u.modTask pa fun t => { t with met := t.met.set false k true }
      else u := by
  simp only [State.recheckWait, ht, hw, hmet, hfailed, hdone, hread, Bool.or_self, Bool.false_eq_true, if_false]

/-- A wait word whose read waits changes nothing but what the wait leaves behind. -/
theorem State.recheckWait_wait {x : WaitFor} {u : State}
    (hread : agentRead (asdLoad frontUnit t.body.asd false (BitVec.ofNat 64 w.va) 8) s = .wait x u) :
    s.recheckWait pa k = s.agentHolds frontUnit x := by
  simp only [State.recheckWait, ht, hw, hmet, hfailed, hdone, hread, Bool.or_self, Bool.false_eq_true, if_false]

/-- A wait word that cannot be read fails the task (R443). -/
theorem State.recheckWait_cause {c : BitVec 32} {f : Bool} {y : Word} {u : State}
    (hread : agentRead (asdLoad frontUnit t.body.asd false (BitVec.ofNat 64 w.va) 8) s = .cause c f y u) :
    s.recheckWait pa k = (u.report (u.frontRec 4 0x0212 pa (BitVec.ofNat 64 w.va) (causeAt k c.toNat))).failTask pa := by
  simp only [State.recheckWait, State.failRead, ht, hw, hmet, hfailed, hdone, hread, Bool.or_self, Bool.false_eq_true, if_false]
end

/-! ### Shapes that are not posted in time (R440, R443) -/

theorem State.shapeTimeout_eq {s : State} {pa d : Nat} {t : Task} {x : Shape} (ht : s.findTask pa = some t) (hx : t.body.shape d = some x)
    (hlearnt : t.learntOf d = none) (hfailed : t.failed = false) (hdone : t.done = false) (hlim : s.creel.spcfg.toNat % 65536 ≠ 0)
    (htime : t.takenAt + s.creel.spcfg.toNat % 65536 * 1000000 ≤ s.timeNs) :
    s.shapeTimeout pa d = (s.report (s.frontRec 4 0x0211 pa (BitVec.ofNat 64 x.va) (at_ 16 d))).failTask pa := by
  have hfield : (s.creel.spcfg.extractLsb' 0 16).toNat = s.creel.spcfg.toNat % 65536 := by
    rw [BitVec.extractLsb'_toNat, Nat.shiftRight_zero]
  unfold State.shapeTimeout
  rw [ht]
  dsimp only
  rw [hx]
  dsimp only
  rw [hfield, hlearnt, hfailed, hdone, if_pos (by simp [hlim, htime])]

/-! ### The predictor (R201) -/

/-- PREDCTL.CLR empties every history, and changes nothing else. -/
theorem State.predClear_histories (s : State) (i : Nat) :
    (s.predClear.predictor.get .initial i).h0 = [] ∧ (s.predClear.predictor.get .initial i).h1 = [] := by
  have hempty : ∀ (m : SMap Pred), (∀ p ∈ m, p.2.h0 = [] ∧ p.2.h1 = []) →
      (m.get .initial i).h0 = [] ∧ (m.get .initial i).h1 = [] := by
    intro m
    induction m with
    | nil => exact fun _ => ⟨rfl, rfl⟩
    | cons p m ih =>
      obtain ⟨j, v⟩ := p
      intro h
      obtain ⟨hv, hm⟩ := List.forall_mem_cons.1 h
      rw [SMap.get]
      split
      · exact hv
      · exact ih hm
  refine hempty _ fun p hp => ?_
  obtain ⟨p, -, rfl⟩ := List.mem_map.1 (List.mem_filter.1 hp).1
  exact ⟨rfl, rfl⟩

/-- A write of PREDCTL by the Distaff while it runs, or by a supervisor core, with CLR set clears the predictor; any other changes
nothing. -/
theorem State.execPredctlClr_eq {s : State} {w : Writer} (hport : ∀ p, w ≠ .hostPort p) (v : Word) :
    execPredctlClr w v s = .next (if v.getLsbD 0 = true ∧ (w = .distaff → s.distaffRuns = true) then s.predClear else s) := by
  cases w with
  | hostPort p => exact absurd rfl (hport p)
  | distaff => exact congrArg Host.Outcome.next (if_congr (by simp [and_comm]) rfl rfl)
  | supervisor n => exact congrArg Host.Outcome.next (if_congr (by simp) rfl rfl)

/-! ### Admission (R174) -/

theorem State.admitNo_modCreel (s : State) (f : Creel → Creel) : (s.modCreel f).admitNo = s.admitNo := rfl

theorem State.admitNo_setLq (s : State) (q tail head : Nat) : (s.setLq q tail head).admitNo = s.admitNo := s.admitNo_modCreel _

theorem State.admitNo_advanceHead (q : Nat) : ∀ (n : Nat) (s : State), (s.advanceHead q n).admitNo = s.admitNo
  | 0, _ => rfl
  | n + 1, s => by
    unfold State.advanceHead
    split
    · split
      · rw [State.admitNo_advanceHead]
        exact s.admitNo_setLq q (s.lqTail q) (s.lqHead q + 1)
      · rfl
    · rfl

/-- A task of which a hank is left does not complete (R212). -/
theorem State.checkTask_of_hank {s : State} {pa : Nat} {h : Hank} (hh : h ∈ s.hanks) (htask : h.task = pa) : s.checkTask pa = s := by
  have hany : (s.hanks.any fun h => h.task == pa) = true := List.any_eq_true.2 ⟨h, hh, by simpa using htask⟩
  unfold State.checkTask
  split
  · rfl
  · rw [hany, Bool.not_true, Bool.and_false, if_neg Bool.false_ne_true]

/-- A task of which a hank is left keeps its hanks as its entry leaves the ring. -/
theorem State.releaseIfDone_of_hank {s : State} {pa : Nat} {h : Hank} (hh : h ∈ s.hanks) (htask : h.task = pa) :
    (s.releaseIfDone pa).hanks = s.hanks ∧ (s.releaseIfDone pa).admitNo = s.admitNo := by
  unfold State.releaseIfDone
  split
  · exact ⟨rfl, rfl⟩
  · rename_i t _
    split
    · have hkeep := keepsHanks_tidyQueue (s.modTask pa fun x => { x with released := true }) t.queue
      have hhanks : ((s.modTask pa fun x => { x with released := true }).tidyQueue t.queue).hanks = s.hanks := hkeep.hanks
      rw [State.checkTask_of_hank (hhanks.symm ▸ hh) htask]
      exact ⟨hhanks, State.admitNo_advanceHead ..⟩
    · exact ⟨rfl, rfl⟩

/-- The hanks that are admitted with a turn, and their numbers (R174). -/
theorem State.admitNext_spec {s : State} {q h b : Nat} {t : Task}
    (hturn : s.turnQueue = some (q, t, h, b)) (hready : s.creel.ready = true) :
    (s.admitNext t.pa).admitNo = s.admitNo + max 1 t.body.skeinSize
      ∧ (s.admitNext t.pa).hanks = s.hanks ++ (List.range (max 1 t.body.skeinSize)).map fun i =>
          t.hankAt (s.lqClass t.queue) b (s.admitNo + i) (h / max 1 t.body.skeinSize * max 1 t.body.skeinSize + i) := by
  have hfirst : t.hankAt (s.lqClass t.queue) b (s.admitNo + 0) (h / max 1 t.body.skeinSize * max 1 t.body.skeinSize + 0)
      ∈ (s.admitHank t h b).hanks :=
    List.mem_append_right _ (List.mem_map.2 ⟨0, List.mem_range.2 (lt_max_of_lt_left Nat.one_pos), rfl⟩)
  unfold State.admitNext
  rw [hturn]
  dsimp only
  rw [if_pos ⟨rfl, hready⟩]
  obtain ⟨hhanks, hno⟩ := State.releaseIfDone_of_hank (s := (s.admitHank t h b).turnAfter q (s.lqClass q)
    ((((s.admitHank t h b).findTask t.pa).map Task.lastAdmitted).getD false)) (pa := t.pa) hfirst rfl
  exact ⟨hno, hhanks⟩

end Sys2Proof.Machine
end

section
/-! PROOFS. The acts that follow the learning of a shape (R210, R211, R445). -/

namespace Sys2Proof.Machine

/-! ### Tasks that stay -/

/-- Every task was there before under its address, with the same acts still to be performed. -/
def TasksFrom (s t : State) : Prop := ∀ v ∈ t.tasks, ∃ w ∈ s.tasks, v.pa = w.pa ∧ v.toAct = w.toAct

theorem TasksFrom.of_sublist {s t : State} (h : ∀ v ∈ t.tasks, v ∈ s.tasks) : TasksFrom s t := fun v hv => ⟨v, h v hv, rfl, rfl⟩

theorem TasksFrom.refl (s : State) : TasksFrom s s := .of_sublist fun _ h => h

theorem TasksFrom.trans {s t u : State} (h : TasksFrom s t) (k : TasksFrom t u) : TasksFrom s u := fun v hv => by
  obtain ⟨w, hw, hpa, hacts⟩ := k v hv
  obtain ⟨x, hx, hpa', hacts'⟩ := h w hw
  exact ⟨x, hx, hpa.trans hpa', hacts.trans hacts'⟩

/-- An update of tasks that keeps their addresses and the acts still to be performed. -/
theorem tasksFrom_map {s t : State} {f : Task → Task} (hf : ∀ x, (f x).pa = x.pa ∧ (f x).toAct = x.toAct)
    (h : t.tasks = s.tasks.map f) :
    TasksFrom s t := fun v hv => by
  rw [h] at hv
  obtain ⟨w, hw, rfl⟩ := List.mem_map.1 hv
  exact ⟨w, hw, hf w⟩

theorem tasksFrom_modTask (s : State) (pa : Nat) {f : Task → Task} (hf : ∀ x, (f x).pa = x.pa ∧ (f x).toAct = x.toAct) :
    TasksFrom s (s.modTask pa f) := by
  refine tasksFrom_map (f := fun t => if t.pa == pa then f t else t) (fun x => ?_) rfl
  split
  · exact hf x
  · exact ⟨rfl, rfl⟩

theorem tasksFrom_advanceHead (q : Nat) : ∀ (n : Nat) (s : State), TasksFrom s (s.advanceHead q n)
  | 0, s => .refl s
  | n + 1, s => by
    unfold State.advanceHead
    split
    · rename_i t _
      split
      · refine TasksFrom.trans (fun v hv => ?_) (tasksFrom_advanceHead q n _)
        obtain ⟨w, hw, rfl⟩ := List.mem_map.1 (List.mem_filter.1 hv).1
        refine ⟨w, (s.tasks_setLq q (s.lqTail q) (s.lqHead q + 1)) ▸ hw, ?_⟩
        split <;> exact ⟨rfl, rfl⟩
      · exact .refl s
    · exact .refl s

theorem tasksFrom_tidyQueue (s : State) (q : Nat) : TasksFrom s (s.tidyQueue q) :=
  (tasksFrom_advanceHead q _ s).trans (.of_sublist fun _ h => (List.mem_filter.1 h).1)

theorem tasks_physWriteOne (s : State) (src pa : Nat) (l : List Byte) : (s.physWriteOne src pa l).tasks = s.tasks := by
  obtain ⟨-, -, -, -, -, -, -, -, -, -, -, htasks, -⟩ := sameAgents_physWriteLine s src pa l
  unfold State.physWriteOne
  split
  · rfl
  · exact htasks

theorem tasks_physWriteAux (src : Nat) : ∀ (fuel : Nat) (s : State) (pa : Nat) (l : List Byte),
    (State.physWriteAux src fuel s pa l).tasks = s.tasks
  | 0, _, _, _ => rfl
  | _ + 1, _, _, [] => rfl
  | fuel + 1, s, pa, _ :: _ => (tasks_physWriteAux src fuel _ _ _).trans (tasks_physWriteOne s src pa _)

theorem tasks_writeStatus (s : State) (pa : Nat) (v : Byte) : (s.writeStatus pa v).tasks = s.tasks := tasks_physWriteAux ..

theorem tasks_message (s : State) (v : Nat) : (s.message v).tasks = s.tasks := rfl

theorem tasksFrom_checkTask (s : State) (pa : Nat) : TasksFrom s (s.checkTask pa) := by
  unfold State.checkTask
  split
  · exact .refl s
  · split
    · refine TasksFrom.trans (TasksFrom.trans ?_ (tasksFrom_modTask _ pa (f := fun x => { x with done := true }) fun _ => ⟨rfl, rfl⟩))
        (tasksFrom_tidyQueue _ _)
      exact .of_sublist fun v hv => by rwa [tasks_message, tasks_writeStatus] at hv
    · exact .refl s

theorem tasksFrom_releaseIfDone (s : State) (pa : Nat) : TasksFrom s (s.releaseIfDone pa) := by
  unfold State.releaseIfDone
  split
  · exact .refl s
  · split
    · have hreleased : TasksFrom s (s.modTask pa fun x => { x with released := true }) := tasksFrom_modTask s pa fun _ => ⟨rfl, rfl⟩
      exact (hreleased.trans (tasksFrom_tidyQueue _ _)).trans (tasksFrom_checkTask _ pa)
    · exact .refl s

theorem keepsHanks_releaseIfDone (s : State) (pa : Nat) : KeepsHanks s (s.releaseIfDone pa) := by
  unfold State.releaseIfDone
  split
  · exact .refl s
  · exact .ite (((keepsHanks_tasks s _).trans (keepsHanks_tidyQueue ..)).trans (keepsHanks_checkTask ..)) (.refl s)

/-! ### Trimming (R211) -/

/-- The hank has the name of another: its task and WID. -/
def Hank.Named (x h : Hank) : Prop := x.task = h.task ∧ x.wid = h.wid

/-- A hank that is dropped leaves no hank of its name. -/
theorem dropHank_named (s : State) (h : Hank) : ∀ x ∈ (s.dropHank h).hanks, ¬ x.Named h := by
  obtain ⟨u, -, hhanks, -, -⟩ := keepsHanks_dropHank s h
  intro x hx hname
  rw [hhanks] at hx
  have hne := (List.mem_filter.1 hx).2
  rw [hname.1, hname.2] at hne
  simp at hne

theorem cancel_named (s : State) (h : Hank) : ∀ x ∈ (s.cancel h).hanks, ¬ x.Named h := fun x hx => by
  rw [State.cancel, State.countCancelled, State.hanks_modCreel] at hx
  exact dropHank_named _ h x hx

theorem squash_named (s : State) (h : Hank) : ∀ x ∈ (s.squash h).hanks, ¬ x.Named h := fun x hx => by
  rw [State.squash, State.hanks_modCreel] at hx
  exact dropHank_named _ h x hx

theorem trim_named (s : State) (h : Hank) : ∀ x ∈ (s.trim h).hanks, ¬ x.Named h := fun x hx => by
  rw [State.trim, (keepsHanks_wakeAll ..).hanks] at hx
  split at hx
  · exact cancel_named s h x hx
  · exact squash_named s h x hx

theorem hanksFrom_trim (s : State) (h : Hank) : HanksFrom s (s.trim h) := by
  unfold State.trim
  refine HanksFrom.trans ?_ (keepsHanks_wakeAll _ _).hanksFrom
  split
  · exact hanksFrom_cancel s h
  · exact hanksFrom_squash s h

/-- Hanks that are trimmed one after another have all left (R211). -/
theorem foldl_trim_named : ∀ (l : List Hank) (s : State), ∀ x ∈ (l.foldl State.trim s).hanks, ∀ h ∈ l, ¬ x.Named h
  | [], _, _, _, _, hh => absurd hh List.not_mem_nil
  | a :: l, s, x, hx, h, hh => by
    rcases List.mem_cons.1 hh with rfl | hh
    · obtain ⟨y, hy, hxy⟩ := HanksFrom.foldl hanksFrom_trim l (s.trim h) x hx
      rw [hxy]
      exact trim_named s h y hy
    · exact foldl_trim_named l (s.trim a) x hx h hh

/-! ### Confirmation (R210, R445) -/

/-- A held line that is written changes no hank. -/
theorem keepsHanks_landLine (h : Hank) (s : State) (e : PlbEntry) : KeepsHanks s (State.landLine h s e) := by
  unfold State.landLine
  split
  · rename_i x _
    dsimp only
    refine KeepsHanks.trans ?_ (keepsHanks_wakeLine _ x.pa)
    refine KeepsHanks.trans ?_ (sameAgents_useXlate _ _).keepsHanks
    refine (sameAgents_touch s x).keepsHanks.trans ?_
    split
    · exact (sameAgents_writeLine ..).keepsHanks
    · exact (sameAgents_putPageLine ..).keepsHanks.trans ⟨rfl, rfl, rfl, fun _ hk => hk⟩
  · exact .refl s

theorem keepsHanks_clearProv (s : State) (h : Hank) : KeepsHanks s (s.clearProv h) := by
  unfold State.clearProv
  split
  · exact keepsHanks_physWrite ..
  · exact .refl s

theorem hanksFrom_reportAll (s : State) (l : List Rec) : HanksFrom s (s.reportAll l) :=
  HanksFrom.foldl (fun t r => (sameAgents_report t r).keepsHanks.hanksFrom) l s

theorem hanksFrom_failHank (s : State) (h : Hank) (r : Rec) : HanksFrom s (s.failHank h r) :=
  ((hanksFrom_dropHank s h).trans (sameAgents_report _ r).keepsHanks.hanksFrom).trans (hanksFrom_failTask _ _)

theorem keepsHanks_dropHeld (s : State) (task : Nat) (wid : Word) : KeepsHanks s (s.dropHeld task wid) := by
  refine KeepsHanks.foldl (fun t b => ?_) _ s
  exact ⟨rfl, rfl, rfl, fun _ h => h⟩

theorem hanksFrom_modCreel (s : State) (f : Creel → Creel) : HanksFrom s (s.modCreel f) := (keepsHanks_modCreel s f).hanksFrom

/-- A confirmation changes no hank until the hank is provisional no longer, and then only removes hanks and takes frames (R210, R445). -/
theorem confirm_steps (s : State) (h : Hank) : ∃ u, KeepsHanks s u
    ∧ HanksFrom (u.modHank h.task h.wid fun h => { h with prov := false, held := [], stgabn := 0 }) (s.confirm h) := by
  unfold State.confirm
  extract_lets held s1 s2 s3 s4 s5
  have h1 : KeepsHanks s s1 := by
    show KeepsHanks s (match fatalOf held with
      | some _ => s
      | none => (s.heldLines h).foldl (State.landLine h) s)
    split
    · exact .refl s
    · exact KeepsHanks.foldl (keepsHanks_landLine h) _ s
  have h3 : HanksFrom s2 s3 := by
    show HanksFrom s2 (match h.slot with
      | some k => s2.modCtx k fun x => { x with provisional := false, held := [] }
      | none => s2)
    split
    · exact .of_sublist fun _ hx => hx
    · exact .refl s2
  have h4 : HanksFrom s3 s4 := ((hanksFrom_reportAll s3 _).trans (hanksFrom_modCreel _ _)).trans (hanksFrom_modCreel _ _)
  have h5 : HanksFrom s2 s5 := (h3.trans h4).trans (keepsHanks_wakeAll s4 _).hanksFrom
  refine ⟨_, (h1.trans (keepsHanks_dropHeld s1 h.task h.wid)).trans (keepsHanks_clearProv _ h), h5.trans ?_⟩
  clear_value s5
  split
  · exact hanksFrom_terminate _ _ _
  · exact hanksFrom_failHank _ _ _
  · exact .refl s5

/-- After the confirmation of a hank every hank was there before, but perhaps for its frame, or bears the confirmed hank's name and is
provisional no longer. -/
theorem confirm_hanks (s : State) (h : Hank) : ∀ x ∈ (s.confirm h).hanks,
    ∃ y ∈ s.hanks, x.task = y.task ∧ x.ord = y.ord ∧ (x.prov = true → y.prov = true ∧ ¬ y.Named h) := by
  obtain ⟨u, hu, hfrom⟩ := confirm_steps s h
  intro x hx
  obtain ⟨z, hz, hxz⟩ := hfrom x hx
  obtain ⟨y, hy, hyz⟩ := State.mem_modHank hz
  rw [hu.hanks] at hy
  refine ⟨y, hy, ?_⟩
  rw [hxz]
  rcases hyz with ⟨-, -, rfl⟩ | ⟨hname, rfl⟩
  · exact ⟨rfl, rfl, fun hp => Bool.noConfusion hp⟩
  · exact ⟨rfl, rfl, fun hp => ⟨hp, hname⟩⟩

/-! ### SHAPE_LEARN (R210) -/

/-- The hank is to be confirmed by the act on descriptor `d`, and is not trimmed (R210). -/
def Task.due (t : Task) (d : Nat) (h : Hank) : Bool := t.confirms h && !t.trims d h

/-- Whether a hank is trimmed depends on its task and its ordinal. -/
theorem Task.trims_congr (t : Task) (d : Nat) {x y : Hank} (htask : x.task = y.task) (hord : x.ord = y.ord) :
    t.trims d x = t.trims d y := by rw [Task.trims, htask, hord, Task.trims]

theorem Task.due_iff {t : Task} {d : Nat} {h : Hank} :
    t.due d h = true ↔ h.task = t.pa ∧ h.prov = true ∧ t.firm h.ord = true ∧ t.trims d h = false := by
  simp [Task.due, Task.confirms, and_assoc]

/-- A hank that is due was due before an act that only confirms others. -/
theorem Task.due_of {t : Task} {d : Nat} {x y : Hank} (htask : x.task = y.task) (hord : x.ord = y.ord)
    (hprov : x.prov = true → y.prov = true)
    (hx : t.due d x = true) : t.due d y = true := by
  obtain ⟨h1, h2, h3, h4⟩ := Task.due_iff.1 hx
  exact Task.due_iff.2 ⟨htask ▸ h1, hprov h2, hord ▸ h3, t.trims_congr d htask hord ▸ h4⟩

/-- The state in which the due hanks have been confirmed, but for those that wait. -/
def State.confirmDue (s : State) (t : Task) (d : Nat) : State := (s.hanks.filter (t.due d)).foldl State.tryConfirm s

/-- The state in which the hanks beyond the learnt extent have left. -/
def State.trimBeyond (s : State) (t : Task) (d : Nat) : State := (s.hanks.filter (t.trims d)).foldl State.trim s

theorem State.trimBeyond_hanks (s : State) (t : Task) (d : Nat) : HanksFrom s (s.trimBeyond t d) := HanksFrom.foldl hanksFrom_trim _ s

/-- No hank beyond the learnt extent is left (R211). -/
theorem State.trims_trimBeyond (s : State) (t : Task) (d : Nat) : ∀ x ∈ (s.trimBeyond t d).hanks, t.trims d x = false := by
  intro x hx
  obtain ⟨y, hy, hxy⟩ := s.trimBeyond_hanks t d x hx
  have htask : x.task = y.task := by rw [hxy]
  have hwid : x.wid = y.wid := by rw [hxy]
  have hord : x.ord = y.ord := by rw [hxy]
  by_contra hne
  rw [Bool.not_eq_false, t.trims_congr d htask hord] at hne
  exact foldl_trim_named _ s x hx y (List.mem_filter.2 ⟨hy, hne⟩) ⟨htask, hwid⟩

/-- Trimming makes no hank due. -/
theorem State.due_trimBeyond {s : State} {t : Task} {d : Nat} (h : ∀ y ∈ s.hanks, t.due d y = false) :
    ∀ x ∈ (s.trimBeyond t d).hanks, t.due d x = false := by
  intro x hx
  obtain ⟨y, hy, hxy⟩ := s.trimBeyond_hanks t d x hx
  by_contra hdue
  have hstill := Task.due_of (y := y) (by rw [hxy]) (by rw [hxy]) (fun hp => by rw [hxy] at hp; exact hp) (Bool.not_eq_false _ ▸ hdue)
  exact Bool.false_ne_true ((h y hy).symm.trans hstill)

theorem State.confirmDue_none {s : State} {t : Task} {d : Nat} (hnone : s.hanks.filter (t.due d) = []) :
    ∀ x ∈ (s.confirmDue t d).hanks, t.due d x = false := by
  rw [State.confirmDue, hnone]
  exact fun x hx => by simpa using List.filter_eq_nil_iff.1 hnone x hx

/-- Where one hank is due and can be confirmed at once, none is due afterwards (R210). -/
theorem State.confirmDue_one {s : State} {t : Task} {d : Nat} {h : Hank} (hone : s.hanks.filter (t.due d) = [h])
    (hgo : s.confirmWait h = none) : ∀ x ∈ (s.confirmDue t d).hanks, t.due d x = false := by
  have hconfirm : s.confirmDue t d = s.confirm h := by
    rw [State.confirmDue, hone, List.foldl_cons, List.foldl_nil, State.tryConfirm, hgo]
  rw [hconfirm]
  intro x hx
  obtain ⟨y, hy, htask, hord, hprov⟩ := confirm_hanks s h x hx
  by_contra hne
  rw [Bool.not_eq_false] at hne
  have hdue := Task.due_of htask hord (fun hp => (hprov hp).1) hne
  have hyh : y ∈ s.hanks.filter (t.due d) := List.mem_filter.2 ⟨hy, hdue⟩
  rw [hone, List.mem_singleton] at hyh
  exact (hprov (Task.due_iff.1 hne).2.1).2 (hyh ▸ ⟨rfl, rfl⟩)

section
variable {s : State} {pa d : Nat} {t : Task} (ht : s.findTask pa = some t) (hact : t.toAct.get false d = true)
include ht hact

/-- SHAPE_LEARN confirms, trims, and then holds its acts done unless a hank waits (R210). -/
theorem State.actOnShape_eq : s.actOnShape pa d =
    ((if ((s.confirmDue t d).trimBeyond t d).hanks.any (t.due d) then (s.confirmDue t d).trimBeyond t d
      else ((s.confirmDue t d).trimBeyond t d).modTask pa fun x => { x with toAct := x.toAct.set false d false }).releaseIfDone
        pa).checkTask pa := by
  unfold State.actOnShape
  rw [ht]
  dsimp only
  rw [if_pos hact]
  rfl

/-- The hanks after the acts. -/
theorem State.actOnShape_hanks : (s.actOnShape pa d).hanks = ((s.confirmDue t d).trimBeyond t d).hanks := by
  rw [State.actOnShape_eq ht hact, (keepsHanks_checkTask _ _).hanks, (keepsHanks_releaseIfDone _ _).hanks]
  split <;> rfl

/-- Where no hank is left that is due the acts are done (R210). -/
theorem State.actOnShape_done (hnone : ∀ x ∈ ((s.confirmDue t d).trimBeyond t d).hanks, t.due d x = false) :
    (∀ v, (s.actOnShape pa d).findTask pa = some v → v.toAct.get false d = false)
      ∧ ∀ h ∈ (s.actOnShape pa d).hanks, h.task = pa → t.firm h.ord = true → h.prov = false := by
  refine ⟨fun v hv => ?_, fun h hh htask hfirm => ?_⟩
  · have hany : ((s.confirmDue t d).trimBeyond t d).hanks.any (t.due d) = false :=
      List.any_eq_false.2 fun x hx => by rw [hnone x hx]; exact Bool.false_ne_true
    rw [State.actOnShape_eq ht hact, hany, if_neg Bool.false_ne_true] at hv
    have hpa : v.pa = pa := by simpa using List.find?_some hv
    obtain ⟨w, hw, hpaw, hacts⟩ := ((tasksFrom_releaseIfDone _ pa).trans (tasksFrom_checkTask _ pa)) v (List.mem_of_find?_eq_some hv)
    obtain ⟨x, -, rfl⟩ := List.mem_map.1 hw
    rw [hacts]
    split
    · exact SMap.get_set_same false x.toAct d false
    · rename_i hne
      rw [if_neg hne] at hpaw
      exact absurd (by simpa using hpaw.symm.trans hpa) hne
  · rw [State.actOnShape_hanks ht hact] at hh
    have hpa : t.pa = pa := by simpa using List.find?_some ht
    by_contra hprov
    rw [Bool.not_eq_false] at hprov
    have hdue := Task.due_iff.2 ⟨htask.trans hpa.symm, hprov, hfirm, State.trims_trimBeyond _ t d h hh⟩
    rw [hnone h hh] at hdue
    cases hdue
end

end Sys2Proof.Machine
end

section
/-! PROOFS. The Task Front: the statement (R160, R162, R168, R171, R172, R174, R201, R210, R440, R443). -/

namespace Sys2Proof.Machine

/-- A record that passes every check, and has neither regions nor shape descriptors, becomes a task of its queue, and STATUS is 1 (R171). -/
theorem State.HoldsRecord.judge_accepted {s : State} {e : Nat} (h : s.HoldsRecord e) (hnew : s.findTask e = none) (q : Nat) {l : List Byte}
    (hasd : (taskOf l).asd % 64 = 0 → s.CleanAt (taskOf l).asd ∧ s.physHeldRange (taskOf l).asd 64 = false) (hno : recordFaults l = [])
    (hok : s.asdOk (taskOf l).asd = true) (hw : (wsetOf l).2 = 0) (h0 : (taskOf l).shape 0 = none) (h1 : (taskOf l).shape 1 = none) :
    (s.judge e q l).tasks = s.tasks ++ [Task.taken e q s.timeNs { taskOf l with regions := [] }]
      ∧ BytesStored s (s.judge e q l) (e + 3) [1]
      ∧ (s.judge e q l).hanks = s.hanks ∧ (s.judge e q l).creel = s.creel := by
  obtain ⟨htasks, hhanks, hcreel, -, htime⟩ := h.writeStatus_frame 1
  have hheader : headerFaults l (taskOf l) = [] := by
    simp only [recordFaults, List.append_eq_nil_iff] at hno
    exact hno.1.1.1
  have hfresh : (s.writeStatus e 1).findTask e = none := by
    rw [State.findTask, htasks]
    exact hnew
  rw [State.judge_accepts e q hasd hno hok hw, State.accept_regions h0 h1 (ext_pos_of_headerFaults hheader) hfresh, htasks, htime]
  exact ⟨rfl, h.bytesStored_status 1, hhanks, hcreel⟩

/-- A record that fails a check passes with STATUS 4, its record and its message (R171, R403). -/
theorem State.HoldsRecord.judge_rejected {s : State} {e : Nat} (h : s.HoldsRecord e) (q : Nat) {l : List Byte}
    (hasd : (taskOf l).asd % 64 = 0 → s.CleanAt (taskOf l).asd ∧ s.physHeldRange (taskOf l).asd 64 = false) {o : Nat}
    (ho : o ∈ recordFaults l) (hlow : o < 64) (hmin : ∀ p ∈ recordFaults l, o ≤ p) : ∃ u v w : State,
      s.judge e q l = w.passEntry e q (taskOf l) ∧ BytesStored s u (e + 3) [4] ∧ u.ports = s.ports
        ∧ Reported u v (s.frontRec 4 0x0400 e 0 (at_ 16 o)) ∧ MessageRaised v w (8 + q) := by
  obtain ⟨-, -, -, hports, -⟩ := h.writeStatus_frame 4
  refine ⟨_, _, _, ?_, h.bytesStored_status 4, hports, reported_report .., messageRaised_message ..⟩
  rw [State.judge_rejects e q hasd ho hlow hmin, State.reject]

/-- Settles O47: the entry by what it names and what its record's checks find, each event by the equation of its meaning, and the acts on
a shape by the hanks that they leave. -/
theorem taskFront : Obligations.TaskFront := by
  intro s
  refine ⟨fun q hq => ?entry, fun pa k t w ht hw hmet hfailed hdone => ?recheck,
    fun pa d t x ht hx hlearnt hfailed hdone hlim htime => ?timeout, fun w v hport => ?predictor,
    fun q h b t hturn hready => ?admission, fun pa d t ht hact => ?learn⟩
  case entry =>
    intro n a e l b front hready hen hn hmay hclean hfree husable
    have htakes : s.TakesEntry q := ⟨hq, hready, hen, hn, hmay, hclean, hfree, husable⟩
    have hexec : exec (.taskTake q) s = .next (s.takeRecord e q) := congrArg Host.Outcome.next htakes.takeTask_eq
    rw [hexec]
    refine ⟨fun hal => ?_, fun hal hregion => ?_, fun hal hregion herr hheld hbad hquiet hnew hasd => ?_,
      fun u x hqueue hdone => State.passEntry_spec hqueue hdone e x⟩
    · obtain ⟨u, hu, hrep⟩ := s.notAccepted_spec e q 0
      exact ⟨u, by rw [State.takeRecord, if_pos hal, hu], hrep⟩
    · obtain ⟨u, hu, hrep⟩ := s.notAccepted_spec e q 1
      exact ⟨u, by rw [State.takeRecord, if_neg (not_not.2 hal), if_pos hregion, hu], hrep⟩
    · have hrec : s.HoldsRecord e := ⟨hal, hregion, herr, hheld, hbad, hquiet⟩
      rw [hrec.takeRecord_eq hnew q]
      refine ⟨fun hno hok hw h0 h1 => ⟨_, rfl, hrec.judge_accepted hnew q hasd hno hok hw h0 h1⟩, fun o ho hlow hmin => ?_⟩
      obtain ⟨u, v, w, hjudge, hrest⟩ := hrec.judge_rejected q hasd ho hlow hmin
      exact ⟨u, v, w, congrArg Host.Outcome.next hjudge, hrest⟩
  case recheck =>
    intro read
    refine ⟨fun v u hread => ?_, fun x u hread => ?_, fun c f y u hread => ⟨_, ?_, reported_report ..⟩⟩
    · intro x holds
      have htest : waitTest w.op x w.v = holds := waitTest_eq ..
      exact congrArg Host.Outcome.next ((State.recheckWait_value ht hw hmet hfailed hdone hread).trans (by rw [htest]))
    · exact congrArg Host.Outcome.next (State.recheckWait_wait ht hw hmet hfailed hdone hread)
    · exact congrArg Host.Outcome.next (State.recheckWait_cause ht hw hmet hfailed hdone hread)
  case timeout =>
    exact ⟨_, congrArg Host.Outcome.next (State.shapeTimeout_eq ht hx hlearnt hfailed hdone hlim htime), reported_report ..⟩
  case predictor =>
    intro acts
    have hexec : exec (.predctlClr w v) s = .next (if acts then s.predClear else s) := State.execPredctlClr_eq hport v
    exact ⟨fun h => hexec.trans (by rw [if_neg h]), fun h => ⟨_, hexec.trans (by rw [if_pos h]), rfl, s.predClear_histories⟩⟩
  case admission =>
    obtain ⟨hno, hhanks⟩ := State.admitNext_spec hturn hready
    exact ⟨_, rfl, hno, hhanks⟩
  case learn =>
    have hhanks := State.actOnShape_hanks ht hact
    have hdone := State.actOnShape_done ht hact
    refine ⟨_, rfl, fun h hh _ => State.trims_trimBeyond _ t d h (hhanks ▸ hh), ?_,
      fun hnone => hdone (State.due_trimBeyond (State.confirmDue_none hnone)),
      fun h hone hgo => hdone (State.due_trimBeyond (State.confirmDue_one hone hgo))⟩
    by_cases hleft : ∃ x ∈ ((s.confirmDue t d).trimBeyond t d).hanks, t.due d x = true
    · obtain ⟨x, hx, hdue⟩ := hleft
      exact .inl ⟨x, hhanks.symm ▸ hx, hdue⟩
    · exact .inr (hdone fun x hx => Bool.not_eq_true _ ▸ fun hdue => hleft ⟨x, hx, hdue⟩)

end Sys2Proof.Machine
end

section
/-! PROOFS. The end of a context by a class 4 error (R211, R403, R445): what returning a hank's resources leaves of banks, slots, cores
and held lines, and what failing a task does to its hanks. -/

namespace Sys2Proof.Machine

/-! ### Only clusters change -/

/-- Contexts keep all but their clusters, and what `SameAgents` names stays otherwise: what writes of memory by physical address, stores
that are performed and the waiters that these wake can do. -/
structure OnlyClusters (s t : State) : Prop where
  agents : SameAgents { s with ctxs := t.ctxs } t
  ctx : ∀ k, ∃ g, t.ctx k = (s.ctx k).withClusters g

theorem OnlyClusters.of_ctxs {s t : State} (h : SameAgents { s with ctxs := t.ctxs } t) (hctxs : t.ctxs = s.ctxs) : OnlyClusters s t :=
  ⟨h, fun k => ⟨_, (congrArg (SMap.get Ctx.free · k) hctxs).trans (s.ctx k).withClusters_self.symm⟩⟩

theorem OnlyClusters.of_sameAgents {s t : State} (h : SameAgents s t) : OnlyClusters s t := by
  obtain ⟨hctxs, hrest⟩ := h
  exact .of_ctxs ⟨rfl, hrest⟩ hctxs

theorem OnlyClusters.refl (s : State) : OnlyClusters s s := .of_sameAgents (.refl s)

theorem OnlyClusters.trans {s t u : State} (h : OnlyClusters s t) (k : OnlyClusters t u) : OnlyClusters s u := by
  refine ⟨?_, fun n => ?_⟩
  · obtain ⟨-, hrest⟩ := h.agents
    obtain ⟨-, krest⟩ := k.agents
    exact SameAgents.trans (t := { t with ctxs := u.ctxs }) ⟨rfl, hrest⟩ ⟨rfl, krest⟩
  · obtain ⟨f, hf⟩ := h.ctx n
    obtain ⟨g, hg⟩ := k.ctx n
    exact ⟨g, by rw [hg, hf, Ctx.withClusters_twice]⟩

theorem OnlyClusters.ite {s t u : State} {p : Prop} [Decidable p] (ht : OnlyClusters s t) (hu : OnlyClusters s u) :
    OnlyClusters s (if p then t else u) := by
  split
  · exact ht
  · exact hu

theorem OnlyClusters.foldl {α : Type} {f : State → α → State} (hf : ∀ t a, OnlyClusters t (f t a)) (l : List α) (s : State) :
    OnlyClusters s (l.foldl f s) := by
  induction l generalizing s with
  | nil => exact .refl s
  | cons a l ih => exact (hf s a).trans (ih _)

section
variable {s t : State} (h : OnlyClusters s t)
include h

theorem OnlyClusters.tasks : t.tasks = s.tasks := by
  obtain ⟨-, -, -, -, -, -, -, -, -, -, -, htasks, -⟩ := h.agents
  exact htasks

theorem OnlyClusters.sup : t.sup = s.sup := h.agents.sup

theorem OnlyClusters.plb : t.plb = s.plb := by
  obtain ⟨-, -, -, hplb, -⟩ := h.agents
  exact hplb

theorem OnlyClusters.core (n : Nat) : t.core n = s.core n := congrArg (SMap.get _ · n) h.sup
end

theorem onlyClusters_wakeLine (s : State) (pa : Nat) : OnlyClusters s (s.wakeLine pa) :=
  ⟨.refl _, fun k => ⟨_, (s.ctx_wakeAll _ k).trans (Ctx.modAll_eq ..)⟩⟩

theorem onlyClusters_physWriteOne (s : State) (src pa : Nat) (l : List Byte) : OnlyClusters s (s.physWriteOne src pa l) := by
  refine .ite (.of_ctxs (.refl _) rfl) (.trans (.trans (.of_sameAgents (sameAgents_physWriteLine s src pa l)) ?_) (onlyClusters_wakeLine _ pa))
  exact .of_ctxs (.refl _) rfl

theorem onlyClusters_physWriteAux (src : Nat) : ∀ (fuel : Nat) (s : State) (pa : Nat) (l : List Byte),
    OnlyClusters s (State.physWriteAux src fuel s pa l)
  | 0, s, _, _ => .refl s
  | _ + 1, s, _, [] => .refl s
  | fuel + 1, s, pa, _ :: _ => (onlyClusters_physWriteOne s src pa _).trans (onlyClusters_physWriteAux src fuel _ _ _)

theorem onlyClusters_physWrite (s : State) (src pa : Nat) (l : List Byte) : OnlyClusters s (s.physWrite src pa l) :=
  onlyClusters_physWriteAux ..

theorem onlyClusters_performStores (s : State) (slot : Nat) (c : Cl) : OnlyClusters s (s.performStores slot c) := by
  refine .ite (.refl s) ((OnlyClusters.foldl (fun t a => ?_) _ s).trans ⟨.refl _, fun k => ?_⟩)
  · exact (OnlyClusters.of_sameAgents (sameAgents_writeLine ..)).trans (onlyClusters_wakeLine ..)
  · by_cases hk : slot = k
    · subst hk
      exact ⟨_, (State.ctx_modCtx_same ..).trans (Ctx.modCl_eq ..)⟩
    · exact ⟨_, (State.ctx_modCtx_ne _ _ hk).trans (Ctx.withClusters_self _).symm⟩

theorem onlyClusters_performAll (s : State) (slot : Nat) : OnlyClusters s (s.performAll slot) :=
  (((onlyClusters_performStores ..).trans (onlyClusters_performStores ..)).trans (onlyClusters_performStores ..)).trans
    (onlyClusters_performStores ..)

theorem onlyClusters_abortMoves (s : State) (f : PageMove → Bool) : OnlyClusters s (s.abortMoves f) := by
  refine OnlyClusters.trans (t := { s with moves := s.moves.filter fun m => !f m }) (.of_ctxs (.refl _) rfl)
    (OnlyClusters.foldl (fun t m => ?_) _ _)
  exact OnlyClusters.trans (.ite (onlyClusters_physWrite ..) (.refl t)) (.of_ctxs (.refl _) rfl)

theorem onlyClusters_releaseCharge (s : State) (task : Nat) (wid : Word) : OnlyClusters s (s.releaseCharge task wid) :=
  OnlyClusters.foldl (f := fun s b => { s with staging := s.staging.modify .initial b fun x => x.release task wid })
    (fun _ _ => .of_ctxs (.refl _) rfl) (List.range 8) s

/-! ### Resources are returned -/

/-- Banks only return to CACHE, free slots stay free, a core that has lost its target does not find it again, and held lines are only
discarded. -/
structure Releases (s t : State) : Prop where
  banks : ∀ i, t.banks.get .cache i = s.banks.get .cache i ∨ t.banks.get .cache i = .cache
  free : ∀ k, s.ctx k = .free → t.ctx k = .free
  withdrawn : ∀ n, (s.core n).withdrawn = true → (t.core n).withdrawn = true
  held : ∀ b, ∀ e ∈ t.plb.get [] b, e ∈ s.plb.get [] b

theorem Releases.of_same {s t : State} (hbanks : t.banks = s.banks) (hctxs : t.ctxs = s.ctxs) (hsup : t.sup = s.sup) (hplb : t.plb = s.plb) :
    Releases s t := by
  refine ⟨fun i => .inl (by rw [hbanks]), fun k h => ?_, fun n h => ?_, fun b e h => by rwa [← hplb]⟩
  · rwa [State.ctx, hctxs]
  · rwa [State.core, hsup]

theorem Releases.refl (s : State) : Releases s s := .of_same rfl rfl rfl rfl

theorem Releases.trans {s t u : State} (h : Releases s t) (k : Releases t u) : Releases s u :=
  ⟨fun i => (k.banks i).elim (fun e => e ▸ h.banks i) .inr, fun n hn => k.free n (h.free n hn), fun n hn => k.withdrawn n (h.withdrawn n hn),
    fun b e he => h.held b e (k.held b e he)⟩

theorem Releases.foldl {α : Type} {f : State → α → State} (hf : ∀ t a, Releases t (f t a)) (l : List α) (s : State) :
    Releases s (l.foldl f s) := by
  induction l generalizing s with
  | nil => exact .refl s
  | cons a l ih => exact (hf s a).trans (ih _)

theorem Releases.of_onlyClusters {s t : State} (h : OnlyClusters s t) (k : KeepsHanks s t) : Releases s t :=
  ⟨fun i => .inl (by rw [k.banks]), k.free, fun n hn => by rwa [h.core], fun b e he => by rwa [← h.plb]⟩

/-- A slot that owns no bank comes to own none. -/
theorem Releases.unowned {s t : State} (h : Releases s t) {sp b k : Nat} (hb : (s.bank sp b).ownedBy k = false) : (t.bank sp b).ownedBy k = false := by
  rcases h.banks (sp * 64 + b) with he | he
  · rwa [State.bank, he]
  · rw [State.bank, he]
    rfl

theorem releases_freeSlot (s : State) (slot : Nat) : Releases s (s.freeSlot slot) := by
  refine ⟨fun i => ?_, fun k hk => ?_, fun _ h => h, fun _ _ h => h⟩
  · have hget := SMap.get_foldl_set (d := Bank.cache) (v := .cache) (f := fun b => spindleOf slot * 64 + b)
      (s.banksWith slot fun b => b.ownedBy (slot % 2)) s.banks i
    rw [show (s.freeSlot slot).banks.get .cache i = _ from hget]
    split
    · exact .inr rfl
    · exact .inl rfl
  · rw [State.freeSlot, State.ctx_setCtx]
    split
    · rfl
    · exact hk

theorem State.core_withdraw (s : State) (slot n : Nat) :
    (s.withdraw slot).core n = if (s.core n).target = some slot then { s.core n with withdrawn := true } else s.core n :=
  SMap.get_map (f := fun x : SupCore => if x.target = some slot then { x with withdrawn := true } else x) (d := SupCore.initial) rfl s.sup n

theorem releases_withdraw (s : State) (slot : Nat) : Releases s (s.withdraw slot) := by
  refine ⟨fun _ => .inl rfl, fun _ h => h, fun n h => ?_, fun _ _ h => h⟩
  rw [State.core_withdraw]
  split
  · rfl
  · exact h

/-- Updates of the Provisional Line Buffers, one after another, change nothing else. -/
theorem State.foldl_plb (f : SMap (List PlbEntry) → Nat → SMap (List PlbEntry)) : ∀ (l : List Nat) (s : State),
    l.foldl (fun s b => { s with plb := f s.plb b }) s = { s with plb := l.foldl f s.plb }
  | [], _ => rfl
  | b :: l, s => State.foldl_plb f l { s with plb := f s.plb b }

theorem State.foldl_modify_plb (f : List PlbEntry → List PlbEntry) {l : List Nat} (hl : l.Nodup) (s : State) :
    ∃ m, l.foldl (fun s b => { s with plb := s.plb.modify [] b f }) s = { s with plb := m }
      ∧ ∀ b, m.get [] b = if b ∈ l then f (s.plb.get [] b) else s.plb.get [] b :=
  ⟨_, State.foldl_plb (fun m b => m.modify [] b f) l s, fun b => SMap.get_foldl_modify [] f b hl s.plb⟩

/-- The lines of a hank leave the Provisional Line Buffers of the eight bobbins, and nothing else changes (R211). -/
theorem State.dropHeld_spec (s : State) (task : Nat) (wid : Word) : ∃ m, s.dropHeld task wid = { s with plb := m }
    ∧ ∀ b, m.get [] b
      = if b ∈ List.range 8 then (s.plb.get [] b).filter fun e => !(e.task == task && e.wid == wid) else s.plb.get [] b :=
  State.foldl_modify_plb (fun l => l.filter fun e => !(e.task == task && e.wid == wid)) List.nodup_range s

theorem releases_dropHeld (s : State) (task : Nat) (wid : Word) : Releases s (s.dropHeld task wid) := by
  obtain ⟨m, hm, hget⟩ := s.dropHeld_spec task wid
  rw [hm]
  refine ⟨fun _ => .inl rfl, fun _ h => h, fun _ h => h, fun b e he => ?_⟩
  change e ∈ m.get [] b at he
  rw [hget] at he
  split at he
  · exact (List.mem_filter.1 he).1
  · exact he

theorem releases_dropHank (s : State) (h : Hank) : Releases s (s.dropHank h) := by
  refine Releases.trans (.trans ?charge (.of_onlyClusters (onlyClusters_abortMoves ..) (keepsHanks_abortMoves ..))) (.of_same rfl rfl rfl rfl)
  exact .of_onlyClusters (onlyClusters_releaseCharge s h.task h.wid) (keepsHanks_releaseCharge ..)

theorem tasks_dropHank (s : State) (h : Hank) : (s.dropHank h).tasks = s.tasks :=
  ((onlyClusters_releaseCharge s h.task h.wid).trans (onlyClusters_abortMoves ..)).tasks

theorem releases_modCreel (s : State) (f : Creel → Creel) : Releases s (s.modCreel f) := .of_same rfl rfl rfl rfl

theorem releases_modPort (s : State) (n : Nat) (f : Port → Port) : Releases s (s.modPort n f) := .of_same rfl rfl rfl rfl

theorem releases_message (s : State) (v : Nat) : Releases s (s.message v) := (releases_modPort s 0 _).trans (releases_modPort _ 1 _)

theorem releases_modTask (s : State) (pa : Nat) (f : Task → Task) : Releases s (s.modTask pa f) := .of_same rfl rfl rfl rfl

theorem releases_cancel (s : State) (h : Hank) : Releases s (s.cancel h) := by
  unfold State.cancel
  refine Releases.trans (.trans ?_ (releases_dropHank _ h)) (releases_modCreel ..)
  split
  · exact releases_freeSlot s _
  · exact .refl s

theorem releases_squash (s : State) (h : Hank) : Releases s (s.squash h) := by
  unfold State.squash
  refine Releases.trans (.trans (.trans (releases_dropHeld s h.task h.wid) ?_) (releases_dropHank _ h)) (releases_modCreel ..)
  split
  · exact (releases_withdraw ..).trans (releases_freeSlot ..)
  · exact .refl _

theorem sameAgents_reportAll (s : State) (l : List Rec) : SameAgents s (s.reportAll l) := by
  induction l generalizing s with
  | nil => exact .refl s
  | cons r l ih => exact (sameAgents_report s r).trans (ih _)

theorem releases_reportAll (s : State) (l : List Rec) : Releases s (s.reportAll l) :=
  .of_onlyClusters (.of_sameAgents (sameAgents_reportAll s l)) (sameAgents_reportAll s l).keepsHanks

/-! ### Tasks and their queues -/

/-- HEAD of a queue moves without anything but tasks and the Creel's registers (R162). -/
theorem State.advanceHead_frame (q : Nat) : ∀ (n : Nat) (s : State), ∃ l c, s.advanceHead q n = { s with tasks := l, creel := c }
  | 0, _ => ⟨_, _, rfl⟩
  | n + 1, s => by
    unfold State.advanceHead
    split
    · split
      · obtain ⟨c, hc⟩ : ∃ c, s.setLq q (s.lqTail q) (s.lqHead q + 1) = { s with creel := c } := ⟨_, rfl⟩
        rw [hc]
        obtain ⟨l, d, h⟩ := State.advanceHead_frame q n _
        exact ⟨l, d, h⟩
      · exact ⟨_, _, rfl⟩
    · exact ⟨_, _, rfl⟩

theorem releases_tidyQueue (s : State) (q : Nat) : Releases s (s.tidyQueue q) := by
  obtain ⟨l, c, h⟩ := State.advanceHead_frame q (s.tasks.length + 1) s
  unfold State.tidyQueue
  rw [h]
  exact .of_same rfl rfl rfl rfl

theorem releases_checkTask (s : State) (pa : Nat) : Releases s (s.checkTask pa) := by
  unfold State.checkTask
  split
  · exact .refl s
  · split
    · rename_i t _ _
      have hstatus : Releases s (s.writeStatus pa (if t.failed then 3 else 2)) :=
        .of_onlyClusters (onlyClusters_physWrite ..) (keepsHanks_physWrite ..)
      exact ((hstatus.trans (releases_message ..)).trans (releases_modTask ..)).trans (releases_tidyQueue ..)
    · exact .refl s

/-- Every task was there before, but perhaps that it is done or that HEAD has passed it. -/
def TasksAged (s t : State) : Prop := ∀ v ∈ t.tasks, ∃ w ∈ s.tasks, v = { w with passed := v.passed, done := v.done }

theorem TasksAged.of_sublist {s t : State} (h : ∀ v ∈ t.tasks, v ∈ s.tasks) : TasksAged s t := fun v hv => ⟨v, h v hv, rfl⟩

theorem TasksAged.trans {s t u : State} (h : TasksAged s t) (k : TasksAged t u) : TasksAged s u := fun v hv => by
  obtain ⟨w, hw, hvw⟩ := k v hv
  obtain ⟨x, hx, hwx⟩ := h w hw
  exact ⟨x, hx, by rw [hvw, hwx]⟩

theorem tasksAged_advanceHead (q : Nat) : ∀ (n : Nat) (s : State), TasksAged s (s.advanceHead q n)
  | 0, _ => .of_sublist fun _ h => h
  | n + 1, s => by
    unfold State.advanceHead
    split
    · split
      · refine TasksAged.trans (fun v hv => ?_) (tasksAged_advanceHead q n _)
        obtain ⟨w, hw, rfl⟩ := List.mem_map.1 (List.mem_filter.1 hv).1
        refine ⟨w, (s.tasks_setLq q (s.lqTail q) (s.lqHead q + 1)) ▸ hw, ?_⟩
        split <;> rfl
      · exact .of_sublist fun _ h => h
    · exact .of_sublist fun _ h => h

theorem tasksAged_tidyQueue (s : State) (q : Nat) : TasksAged s (s.tidyQueue q) :=
  (tasksAged_advanceHead q _ s).trans (.of_sublist fun _ h => (List.mem_filter.1 h).1)

theorem tasksAged_checkTask (s : State) (pa : Nat) : TasksAged s (s.checkTask pa) := by
  unfold State.checkTask
  split
  · exact .of_sublist fun _ h => h
  · split
    · refine TasksAged.trans (fun v hv => ?_) (tasksAged_tidyQueue _ _)
      obtain ⟨w, hw, rfl⟩ := List.mem_map.1 hv
      rw [tasks_message, tasks_writeStatus] at hw
      refine ⟨w, hw, ?_⟩
      split <;> rfl
    · exact .of_sublist fun _ h => h

/-! ### A task fails (R403 step 7, R444) -/

/-- The hanks of a task that have not been bound are cancelled, and those still in PENDING counted with them. -/
def State.cancelEarly (s : State) (t : Task) (pa : Nat) : State :=
  let a := s.countCancelled (if t.released then 0 else t.pendingCount t.bound)
  (a.hanks.filter fun h => h.task == pa && h.state.early).foldl State.cancel a

/-- The provisional hanks of a task are squashed where a descriptor has not been learnt. -/
def State.squashProvisional (s : State) (t : Task) (pa : Nat) : State :=
  if t.allLearnt then s else (s.hanks.filter fun h => h.task == pa && h.prov).foldl State.squash s

theorem State.failTask_eq {s : State} {pa : Nat} {t : Task} (ht : s.findTask pa = some t) (hf : t.failed = false) :
    s.failTask pa = ((((s.cancelEarly t pa).squashProvisional t pa).modTask pa fun x =>
      { x with failed := true, released := true }).tidyQueue t.queue).checkTask pa := by
  simp only [State.failTask, ht, hf, Bool.false_eq_true, if_false]
  rfl

theorem releases_cancelEarly (s : State) (t : Task) (pa : Nat) : Releases s (s.cancelEarly t pa) :=
  (releases_modCreel s _).trans (Releases.foldl releases_cancel _ _)

theorem releases_squashProvisional (s : State) (t : Task) (pa : Nat) : Releases s (s.squashProvisional t pa) := by
  unfold State.squashProvisional
  split
  · exact .refl s
  · exact Releases.foldl releases_squash _ s

theorem hanksFrom_squashProvisional (s : State) (t : Task) (pa : Nat) : HanksFrom s (s.squashProvisional t pa) :=
  .ite (.refl s) (HanksFrom.foldl hanksFrom_squash _ s)

/-- Hanks that are cancelled one after another have all left (R211). -/
theorem foldl_cancel_named : ∀ (l : List Hank) (s : State), ∀ x ∈ (l.foldl State.cancel s).hanks, ∀ h ∈ l, ¬ x.Named h
  | [], _, _, _, _, hh => absurd hh List.not_mem_nil
  | a :: l, s, x, hx, h, hh => by
    rcases List.mem_cons.1 hh with rfl | hh
    · obtain ⟨y, hy, hxy⟩ := HanksFrom.foldl hanksFrom_cancel l (s.cancel h) x hx
      rw [hxy]
      exact cancel_named s h y hy
    · exact foldl_cancel_named l (s.cancel a) x hx h hh

/-- No hank of the task is left that has not been bound. -/
theorem cancelEarly_bound (s : State) (t : Task) (pa : Nat) :
    ∀ x ∈ (s.cancelEarly t pa).hanks, x.task = pa → x.state.early = false := by
  intro x hx htask
  obtain ⟨y, hy, hxy⟩ := HanksFrom.foldl hanksFrom_cancel _ _ x hx
  by_contra hearly
  have hsame : y.task = x.task ∧ y.wid = x.wid ∧ y.state = x.state := by rw [hxy]; exact ⟨rfl, rfl, rfl⟩
  obtain ⟨hytask, hywid, hystate⟩ := hsame
  refine foldl_cancel_named _ _ x hx y (List.mem_filter.2 ⟨hy, ?_⟩) ⟨hytask.symm, hywid.symm⟩
  simpa [hytask, hystate, htask] using hearly

section
variable {s : State} {pa : Nat} {t : Task} (ht : s.findTask pa = some t) (hf : t.failed = false)
include ht hf

theorem releases_failTask : Releases s (s.failTask pa) := by
  rw [State.failTask_eq ht hf]
  exact ((((releases_cancelEarly s t pa).trans (releases_squashProvisional _ t pa)).trans (releases_modTask ..)).trans
    (releases_tidyQueue ..)).trans (releases_checkTask ..)

theorem failTask_bound : ∀ x ∈ (s.failTask pa).hanks, x.task = pa → x.state.early = false := by
  rw [State.failTask_eq ht hf]
  intro x hx htask
  rw [(keepsHanks_checkTask ..).hanks, (keepsHanks_tidyQueue ..).hanks] at hx
  obtain ⟨y, hy, hxy⟩ := hanksFrom_squashProvisional _ t pa x hx
  rw [hxy] at htask ⊢
  exact cancelEarly_bound s t pa y hy htask

theorem failTask_failed : ∀ v ∈ (s.failTask pa).tasks, v.pa = pa → v.failed = true := by
  rw [State.failTask_eq ht hf]
  intro v hv hpa
  obtain ⟨w, hw, hvw⟩ := ((tasksAged_tidyQueue _ t.queue).trans (tasksAged_checkTask _ pa)) v hv
  obtain ⟨x, -, rfl⟩ := List.mem_map.1 hw
  rw [hvw] at hpa ⊢
  by_cases hx : x.pa = pa
  · simp [hx]
  · simp [hx] at hpa
end

/-! ### A context is terminated (R403) -/

/-- A terminated context: only copy commands that have started go on (R403). -/
def Ctx.condemned (x : Ctx) (r : Rec) : Ctx :=
  { x with
    dying := some r, event := none, waiting := [], fences := []
    cq := (x.cq.map fun p => (p.1, startedOnly p.2)).filter fun p => !p.2.isEmpty }

/-- A context without a started copy command has none left. -/
theorem Ctx.cq_condemned {x : Ctx} (h : ∀ p ∈ x.cq, startedOnly p.2 = []) (r : Rec) : (x.condemned r).cq = [] := by
  refine List.filter_eq_nil_iff.2 fun p hp => ?_
  obtain ⟨q, hq, rfl⟩ := List.mem_map.1 hp
  simp [h q hq]

/-- The steps of a termination before its engines are waited for, without the save that it abandons: the stores of the context are
performed, its core is withdrawn and its held lines are discarded (R402, R403). -/
def State.condemn (s : State) (slot : Nat) (h : Hank) (r : Rec) : State :=
  (((s.performAll slot).withdraw slot).dropHeld h.task h.wid).modCtx slot fun x => x.condemned r

/-- An abandoned save frees its frame (R186). -/
def State.abandonSave (s : State) (h : Hank) : State :=
  State.modHank { s with framesUsed := match h.frame with
    | some f => s.framesUsed.filter (· != f)
    | none => s.framesUsed } h.task h.wid fun h => { h with frame := none }

section
variable (s : State) (slot : Nat) (h : Hank) (r : Rec)

/-- What a condemned context leaves of the state: no task or hank has changed, its core has lost it and its lines are no longer held. -/
theorem State.condemn_spec : (s.condemn slot h r).tasks = s.tasks ∧ (s.condemn slot h r).hanks = s.hanks
    ∧ (∃ g, (s.condemn slot h r).ctx slot = ((s.ctx slot).withClusters g).condemned r)
    ∧ (∀ n, (s.core n).target = some slot → ((s.condemn slot h r).core n).withdrawn = true)
    ∧ ∀ b < 8, ∀ e ∈ (s.condemn slot h r).plb.get [] b, ¬ (e.task = h.task ∧ e.wid = h.wid) := by
  have hperf := onlyClusters_performAll s slot
  obtain ⟨g, hg⟩ := hperf.ctx slot
  have hkeep := keepsHanks_performAll s slot
  unfold State.condemn
  generalize s.performAll slot = p at hperf hg hkeep ⊢
  obtain ⟨m, hm, hget⟩ := (p.withdraw slot).dropHeld_spec h.task h.wid
  rw [hm]
  refine ⟨hperf.tasks, hkeep.hanks, ⟨g, ?_⟩, fun n hn => ?_, fun b hb e he => ?_⟩
  · rw [State.ctx_modCtx_same]
    exact congrArg (Ctx.condemned · r) hg
  · have hcore : (p.withdraw slot).core n = { s.core n with withdrawn := true } := by
      rw [State.core_withdraw, hperf.core, if_pos hn]
    exact congrArg SupCore.withdrawn hcore
  · change e ∈ m.get [] b at he
    rw [hget, if_pos (List.mem_range.2 hb)] at he
    simpa [imp_iff_not_or] using (List.mem_filter.1 he).2

variable {s slot h} (hh : s.hankAt slot = some h)
include hh

/-- A condemned context keeps its hank. -/
theorem State.hankAt_condemn : (s.condemn slot h r).hankAt slot = some h := by
  obtain ⟨hname, hfind⟩ := State.hankAt_some hh
  obtain ⟨-, hhanks, ⟨g, hg⟩, -, -⟩ := s.condemn_spec slot h r
  rw [State.hankAt_of (t := h.task) (w := h.wid) (by rw [hg]; exact hname), State.findHank, hhanks]
  exact hfind

theorem State.terminate_eq (hd : (s.ctx slot).dying = none) (hp : (s.ctx slot).provisional = false) :
    s.terminate slot r = ((s.condemn slot h r).abandonSave h).finishDying slot := by
  obtain ⟨hname, -⟩ := State.hankAt_some hh
  have hbound := State.hankAt_condemn r hh
  unfold State.condemn Ctx.condemned at hbound
  simp only [State.terminate, hname, hd, hp, hbound, Option.isSome_none, Bool.false_eq_true, if_false]
  rfl

theorem State.hankAt_abandonSave : (s.abandonSave h).hankAt slot = some { h with frame := none } := by
  obtain ⟨hname, hfind⟩ := State.hankAt_some hh
  refine (State.hankAt_of (s := s.abandonSave h) hname).trans ?_
  rw [State.abandonSave, State.findHank_modHank]
  · exact congrArg (Option.map _) hfind
  · exact fun _ => ⟨rfl, rfl⟩
end

/-- Without a started copy command the dying context ends at once (R403 steps 5 to 8). -/
theorem State.finishDying_eq {s : State} {slot : Nat} {h : Hank} {r : Rec} (hd : (s.ctx slot).dying = some r)
    (hh : s.hankAt slot = some h) (hcq : (s.ctx slot).cq = []) :
    s.finishDying slot = (((s.freeSlot slot).dropHank h).reportAll (r :: recordsOf (s.ctx slot).held)).failTask h.task := by
  simp [State.finishDying, hd, hh, hcq]

/-- A provisional hank's context keeps the first class 4 record until the hank is confirmed (R445). -/
theorem State.terminate_provisional {s : State} {slot task : Nat} {wid : Word} (hname : (s.ctx slot).hank = some (task, wid))
    (hd : (s.ctx slot).dying = none) (hp : (s.ctx slot).provisional = true)
    (hheld : ∀ e ∈ (s.ctx slot).held, ∀ q, e ≠ .fatal q) (r : Rec) :
    s.terminate slot r = s.modCtx slot fun x => { x with held := x.held ++ [.fatal r] } := by
  have hnone : (s.ctx slot).heldFatal = false := by
    refine List.any_eq_false.2 fun e he => ?_
    cases e with
    | record q => simp
    | fatal q => exact absurd rfl (hheld _ he q)
  simp [State.terminate, hname, hd, hp, hnone]

/-- A context without a started copy command leaves its slot and fails its task at once, withdrawn from its core and without held lines. -/
theorem State.terminate_leaves {s : State} {slot : Nat} {h : Hank} (hh : s.hankAt slot = some h) (hd : (s.ctx slot).dying = none)
    (hp : (s.ctx slot).provisional = false) (hcq : ∀ p ∈ (s.ctx slot).cq, startedOnly p.2 = []) (r : Rec) : ∃ (u : State) (l : List Rec),
      s.terminate slot r = (((u.freeSlot slot).dropHank { h with frame := none }).reportAll l).failTask h.task
        ∧ u.tasks = s.tasks ∧ (∀ n, (s.core n).target = some slot → (u.core n).withdrawn = true)
        ∧ ∀ b < 8, ∀ e ∈ u.plb.get [] b, ¬ (e.task = h.task ∧ e.wid = h.wid) := by
  obtain ⟨htasks, -, ⟨g, hg⟩, hcore, hplb⟩ := s.condemn_spec slot h r
  have hbound := State.hankAt_condemn r hh
  rw [State.terminate_eq r hh hd hp]
  generalize s.condemn slot h r = v at htasks hg hcore hplb hbound
  have hctx : (v.abandonSave h).ctx slot = ((s.ctx slot).withClusters g).condemned r := hg
  refine ⟨v.abandonSave h, _, State.finishDying_eq (r := r) ?_ (State.hankAt_abandonSave hbound) ?_, htasks, hcore, hplb⟩
  · rw [hctx]
    rfl
  · rw [hctx]
    exact Ctx.cq_condemned hcq r

/-- Settles O41: a provisional context holds the record back by the class 4 rule of R445. Any other is condemned, leaves its slot and
its task fails: what each of these steps returns, no later one takes again. -/
theorem termination : Obligations.Termination := by
  intro s slot task wid h t r hname hd hh ht htask hwid _
  refine ⟨fun hp hheld => State.terminate_provisional hname hd hp hheld r, fun hp hcq hfailed => ?_⟩
  subst htask hwid
  obtain ⟨u, l, hend, htasks, hcore, hplb⟩ := State.terminate_leaves hh hd hp hcq r
  rw [hend]
  have hfind : (((u.freeSlot slot).dropHank { h with frame := none }).reportAll l).findTask h.task = some t := by
    rw [State.findTask, (OnlyClusters.of_sameAgents (sameAgents_reportAll _ l)).tasks, tasks_dropHank]
    exact (congrArg (List.find? _) htasks).trans ht
  have hleft := (releases_dropHank (u.freeSlot slot) { h with frame := none }).trans (releases_reportAll _ l)
  have hgone := hleft.trans (releases_failTask hfind hfailed)
  have hall := (releases_freeSlot u slot).trans hgone
  refine ⟨?slot, ?hank, fun b hb => ?bank, fun v hv => ?task, fun n hn => ?core, fun b hb e he => ?held, fun x hx hxt => ?early⟩
  case slot => exact hgone.free slot (State.ctx_setCtx_same ..)
  case hank =>
    intro x hx
    obtain ⟨y, hy, hxy⟩ := ((hanksFrom_reportAll _ l).trans (hanksFrom_failTask _ h.task)) x hx
    rw [hxy]
    exact dropHank_named _ _ y hy
  case bank => exact hgone.unowned (State.bank_freeSlot u slot b hb)
  case task => exact failTask_failed hfind hfailed v (List.mem_of_find?_eq_some hv) (by simpa using List.find?_some hv)
  case core => exact hall.withdrawn n (hcore n hn)
  case held => exact hplb b hb e (hall.held b e he)
  case early =>
    have hearly := failTask_bound hfind hfailed x hx hxt
    refine ⟨fun e => ?_, fun e => ?_, fun e => ?_⟩ <;> simp [e, HankState.early] at hearly

end Sys2Proof.Machine
end

section
/-! PROOFS. The decoder gives back what the encoder writes (R215 .. R239): the fields of encoded parcels, the rows that take them, and
the round trip of every instruction. -/

namespace Sys2Proof

/-! ### Fields of joined bit strings -/

section
variable {v w lo n : Nat} {x : BitVec v} {y : BitVec w}

theorem at_append_low (h : lo + n ≤ w) : (x ++ y).extractLsb' lo n = y.extractLsb' lo n :=
  BitVec.extractLsb'_append_eq_of_add_le h

theorem at_append_high (h : w ≤ lo) : (x ++ y).extractLsb' lo n = x.extractLsb' (lo - w) n := by
  rw [BitVec.extractLsb'_append_eq_ite, dif_neg (by omega)]

theorem bit_append_low (h : lo < w) : (x ++ y).getLsbD lo = y.getLsbD lo := by
  rw [BitVec.getLsbD_append, if_pos h]

theorem bit_append_high (h : w ≤ lo) : (x ++ y).getLsbD lo = x.getLsbD (lo - w) := by
  rw [BitVec.getLsbD_append, if_neg (by omega)]

end

/-! ### Zero fields -/

/-- Ones in the `w` bits from bit `lo` on. -/
def fieldMask (lo w : Nat) : Parcel := (BitVec.allOnes w).setWidth 32 <<< lo

/-- Ones in each field of the list: where it begins and its width. -/
def fieldMasks (l : List (Nat × Nat)) : Parcel := l.foldr (fun f m => fieldMask f.1 f.2 ||| m) 0

theorem and_fieldMask {p : Parcel} {lo w : Nat} (h : p.at lo w = 0) : p &&& fieldMask lo w = 0 := by
  apply BitVec.eq_of_getLsbD_eq
  intro i hi
  have hbit : (p.at lo w).getLsbD (i - lo) = false := by rw [h, BitVec.ofNat_eq_ofNat, BitVec.getLsbD_zero]
  rw [BitVec.getLsbD_extractLsb'] at hbit
  by_cases hlo : i < lo
  · simp [fieldMask, hlo]
  · rw [Nat.add_sub_cancel' (by omega)] at hbit
    by_cases hw : i - lo < w
    · simp [show p.getLsbD i = false by simpa [hw] using hbit]
    · simp [fieldMask, hw]

/-- A parcel whose fields are zero is zero in the bits of their masks. -/
theorem and_fieldMasks {p z : Parcel} (l : List (Nat × Nat)) (hz : z = fieldMasks l) (h : ∀ f ∈ l, p.at f.1 f.2 = 0) :
    p &&& z = 0 := by
  subst hz
  induction l with
  | nil => exact BitVec.and_zero
  | cons f l ih =>
    have hl := ih fun e he => h e (List.mem_cons_of_mem _ he)
    have hf := and_fieldMask (h f List.mem_cons_self)
    show p &&& (fieldMask f.1 f.2 ||| fieldMasks l) = 0
    rw [BitVec.and_or_distrib_left, hf, hl]
    rfl

/-! ### Fields of encoded parcels -/

section
variable (l : Bool) (maj : BitVec 6) (g : Guard) (d a b : RegF) (mn : BitVec 6)

@[simp] theorem encRR_long : (encRR l maj g d a b mn).long = l := by
  simp (disch := decide) [Parcel.long, encRR, bit_append_high, -Nat.reduceAdd, -BitVec.getLsbD_eq_getElem]
@[simp] theorem encRR_major : (encRR l maj g d a b mn).major = maj.toNat := by
  simp (disch := decide) [Parcel.major, encRR, at_append_low, at_append_high, -Nat.reduceAdd, -BitVec.extractLsb'_toNat]
@[simp] theorem encRR_minor : (encRR l maj g d a b mn).minor = mn.toNat := by
  simp (disch := decide) [Parcel.minor, encRR, at_append_low, -Nat.reduceAdd, -BitVec.extractLsb'_toNat]
@[simp] theorem encRR_guard : (encRR l maj g d a b mn).guard = g := by
  simp (disch := decide) [Parcel.guard, encRR, Guard.bits, at_append_low, at_append_high, bit_append_low, bit_append_high,
    -Nat.reduceAdd, -BitVec.getLsbD_eq_getElem]
@[simp] theorem encRR_rd : (encRR l maj g d a b mn).rd = d := by
  simp (disch := decide) [encRR, at_append_low, at_append_high, -Nat.reduceAdd]
@[simp] theorem encRR_ra : (encRR l maj g d a b mn).ra = a := by
  simp (disch := decide) [encRR, at_append_low, at_append_high, -Nat.reduceAdd]
@[simp] theorem encRR_rb : (encRR l maj g d a b mn).rb = b := by
  simp (disch := decide) [encRR, at_append_low, at_append_high, -Nat.reduceAdd]
end

/-! A part of a field. -/

section
variable {l : Bool} {maj : BitVec 6} {g : Guard} {d a b : RegF} {mn : BitVec 6} {lo n : Nat}

theorem encRR_at_d (hlo : 16 ≤ lo) (hhi : lo + n ≤ 21) : (encRR l maj g d a b mn).at lo n = d.extractLsb' (lo - 16) n := by
  unfold Parcel.at encRR
  rw [at_append_high (by omega), at_append_high (by omega), at_append_high (by omega), at_append_low (by omega)]
  simp only [Nat.sub_sub]

theorem encRR_at_a (hlo : 11 ≤ lo) (hhi : lo + n ≤ 16) : (encRR l maj g d a b mn).at lo n = a.extractLsb' (lo - 11) n := by
  unfold Parcel.at encRR
  rw [at_append_high (by omega), at_append_high (by omega), at_append_low (by omega)]
  simp only [Nat.sub_sub]

theorem encRR_at_b (hlo : 6 ≤ lo) (hhi : lo + n ≤ 11) : (encRR l maj g d a b mn).at lo n = b.extractLsb' (lo - 6) n := by
  unfold Parcel.at encRR
  rw [at_append_high (by omega), at_append_low (by omega)]

theorem encRR_at_minor (hhi : lo + n ≤ 6) : (encRR l maj g d a b mn).at lo n = mn.extractLsb' lo n := by
  unfold Parcel.at encRR
  rw [at_append_low (by omega)]

end

@[simp] theorem VMods.enc_vmods (m : VMods) : m.enc.vmods = m := by
  simp (disch := decide) [VMods.enc, Parcel.vmods, at_append_low, at_append_high, bit_append_low, bit_append_high,
    -Nat.reduceAdd, -BitVec.getLsbD_eq_getElem]

/-! ### The rows of a parcel -/

/-- Where an instruction of a home can be decoded. -/
def Home.site : Home → Site
  | .privileged => .sup
  | .access => .cl .A
  | .vector => .cl .V
  | .matrix => .cl .M
  | _ => .cl .C

/-- The majors and minors that hold instructions of a home (R232 .. R239). -/
def Home.has (maj mn : Nat) : Home → Bool
  | .common => (1 ≤ maj && maj ≤ 0x14) || maj == 0x16 || (maj == 0x17 && 7 ≤ mn) || maj == 0x3E
  | .compute => maj == 0x15 || (maj == 0x17 && mn < 7) || maj == 0x1E
  | .privileged => maj == 0x1F
  | .access | .matrix => 0x20 ≤ maj && maj ≤ 0x23
  | .vector => 0x20 ≤ maj && maj ≤ 0x27
  | .event => false

theorem Home.legalAt_cases {h : Home} {site : Site} (hl : h.legalAt site = true) :
    h = .common ∨ h = .compute ∧ site ≠ .sup ∨ site = h.site := by
  cases h <;> rcases site with (_ | _ | _ | _) | _ <;> simp_all [Home.legalAt, Home.site]

/-- No home has a reserved major, nor that of convoy headers. -/
theorem not_reserved_of_has {h : Home} {maj mn : Nat} (hh : h.has maj mn = true) : majorReserved maj = false ∧ maj ≠ 0x3F := by
  cases h <;> simp [Home.has, majorReserved] at * <;> omega

/-- A site has the majors of the instructions that are legal there. -/
theorem majorAt_of_has {h : Home} {site : Site} {p : Parcel} (hl : h.legalAt site = true) (hh : h.has p.major p.minor = true) :
    majorAt site p = true ∧ (p.major ≠ 0x1F ∨ site = .sup) := by
  rcases Home.legalAt_cases hl with rfl | ⟨rfl, hsup⟩ | rfl
  · rcases site with (_ | _ | _ | _) | _ <;> simp [Home.has, majorAt] at * <;> omega
  · rcases site with (_ | _ | _ | _) | _ <;> simp [Home.has, majorAt] at * <;> omega
  · cases h <;> simp [Home.has, Home.site, majorAt] at * <;> omega

/-- The rows of a major of a home are the same at every site that has its instructions. -/
theorem rowsAt_site {h : Home} {site : Site} {p : Parcel} (hl : h.legalAt site = true) (hh : h.has p.major p.minor = true) :
    rowsAt site p = rowsAt h.site p := by
  rcases Home.legalAt_cases hl with rfl | ⟨rfl, _⟩ | rfl
  · unfold rowsAt; split <;> simp_all [Home.has]
  · unfold rowsAt; split <;> simp_all [Home.has]
  · rfl

/-- The rows depend on the major and the minor alone, but for major 0x16. -/
theorem rowsAt_congr {site : Site} {p q : Parcel} (hmaj : p.major = q.major) (hmin : p.minor = q.minor) (h16 : p.major ≠ 0x16) :
    rowsAt site p = rowsAt site q := by
  have h4 : p.at 4 2 = q.at 4 2 := by
    have h := congrArg (fun n => (BitVec.ofNat 6 n).extractLsb' 4 2) hmin
    simpa only [Parcel.minor, BitVec.ofNat_toNat, BitVec.setWidth_eq,
      BitVec.extractLsb'_extractLsb'_of_le (show 4 + 2 ≤ 6 by decide)] using h
  unfold rowsAt
  rw [hmin, h4]
  rw [hmaj] at h16 ⊢
  split <;> simp_all

/-- The row takes the parcels as those of the instruction. -/
structure Row.Takes (r : Row) (p q : Parcel) (i : Instr) : Prop where
  long : r.long = p.long
  zero0 : p &&& r.zero0 = 0
  zero1 : r.long = true → q &&& r.zero1 = 0
  codes : ∀ c ∈ r.codes p q, c.2 = true
  make : r.make p q = i

/-- The row is the one of the parcel's length among those of its major and minor. -/
def Row.IsAt (r : Row) (h : Home) (p : Parcel) : Prop :=
  h.has p.major p.minor = true ∧ (rowsAt h.site p).find? (fun x => x.long == p.long) = some r

theorem leastFailing_none : ∀ {l : List Check}, (∀ c ∈ l, c.2 = true) → leastFailing l = none
  | [], _ => rfl
  | (_, true) :: l, h => leastFailing_none (l := l) fun c hc => h c (List.mem_cons_of_mem _ hc)
  | (_, false) :: _, h => absurd (h _ List.mem_cons_self) (by simp)

/-- Parcels that a row takes decode to its instruction where the instruction's checks pass. -/
theorem decodeRows_of_takes {site : Site} {i : Instr} {p q : Parcel} {r : Row} {rows : List Row}
    (hfind : rows.find? (fun x => x.long == p.long) = some r) (h : r.Takes p q i) (hpriv : p.major ≠ 0x1F ∨ site = .sup)
    (hchecks : (i.checks site).all (fun c => c.2) = true) : decodeRows site p q rows = .ok i := by
  have hnone : leastFailing ((5, p &&& r.zero0 == 0 && (!r.long || q &&& r.zero1 == 0)) :: (8, p.major != 0x1F || site == .sup)
      :: r.codes p q ++ i.checks site) = none := by
    refine leastFailing_none fun c hc => ?_
    simp only [List.cons_append, List.mem_cons, List.mem_append] at hc
    rcases hc with rfl | rfl | hc | hc
    · cases hl : r.long with
      | false => simp [h.zero0]
      | true => simp [h.zero0, h.zero1 hl]
    · simpa using hpriv
    · exact h.codes c hc
    · exact List.all_eq_true.1 hchecks c hc
  unfold decodeRows
  split
  · simp at hfind
  · simp only [hfind, h.make, hnone]

theorem decode_of_takes {site : Site} {i : Instr} {p q : Parcel} {r : Row} (hwf : i.wf site = true) (hat : r.IsAt i.home p)
    (h : r.Takes p q i) : decode site p q = .ok i := by
  obtain ⟨hhas, hfind⟩ := hat
  obtain ⟨hlegal, hchecks⟩ : i.home.legalAt site = true ∧ (i.checks site).all (fun c => c.2) = true := by
    simpa [Instr.wf] using hwf
  obtain ⟨hres, hheader⟩ := not_reserved_of_has hhas
  obtain ⟨hmajor, hpriv⟩ := majorAt_of_has hlegal hhas
  rw [← rowsAt_site hlegal hhas] at hfind
  simp [decode, hres, hheader, hmajor, decodeRows_of_takes hfind h hpriv hchecks]

/-! ### Round trips -/

/-- The instruction's parcels decode to it, and the first one's L bit says how many they are. -/
def RoundTrips (site : Site) (i : Instr) : Prop :=
  (∃ p, encode i = [p] ∧ p.long = false ∧ decode site p 0 = .ok i)
    ∨ ∃ p q, encode i = [p, q] ∧ p.long = true ∧ decode site p q = .ok i

section
variable {site : Site} {i : Instr} {r : Row}

theorem roundTrips_short {p : Parcel} (he : encode i = [p]) (hat : r.IsAt i.home p) (h : r.Takes p 0 i) (hl : r.long = false)
    (hwf : i.wf site = true) : RoundTrips site i := .inl ⟨p, he, h.long ▸ hl, decode_of_takes hwf hat h⟩

theorem roundTrips_long {p q : Parcel} (he : encode i = [p, q]) (hat : r.IsAt i.home p) (h : r.Takes p q i) (hl : r.long = true)
    (hwf : i.wf site = true) : RoundTrips site i := .inr ⟨p, q, he, h.long ▸ hl, decode_of_takes hwf hat h⟩
end

theorem takes_short {z p q : Parcel} {make : Parcel → Instr} {i : Instr} (hl : p.long = false) (hz : p &&& z = 0) (hm : make p = i) :
    (Row.short z make).Takes p q i := ⟨hl.symm, hz, nofun, nofun, hm⟩

theorem takes_wide {z z1 p q : Parcel} {make : Parcel → Parcel → Instr} {i : Instr} (hl : p.long = true) (hz : p &&& z = 0)
    (hz1 : q &&& z1 = 0) (hm : make p q = i) : (Row.wide z z1 make).Takes p q i := ⟨hl.symm, hz, fun _ => hz1, nofun, hm⟩

/-! ### The RR form -/

/-- The parcel of the RR form with a major and a minor and zeros elsewhere. -/
def stem (l : Bool) (maj mn : BitVec 6) : Parcel := encRR l maj ⟨false, 0⟩ 0 0 0 mn

section
variable {site : Site} {i : Instr} {r : Row} {l : Bool} {maj mn : BitVec 6} {g : Guard} {d a b : RegF} {m : VMods} {q : Parcel}

/-- The rows of a parcel are those of its major and minor. -/
theorem Row.IsAt.of_stem {h : Home} {p : Parcel} (hat : r.IsAt h (stem l maj mn)) (h16 : (maj != 0x16) = true) (hl : p.long = l)
    (hmaj : p.major = maj.toNat) (hmin : p.minor = mn.toNat) : r.IsAt h p := by
  have hrows : rowsAt h.site p = rowsAt h.site (stem l maj mn) := by
    refine rowsAt_congr (by simp [stem, hmaj]) (by simp [stem, hmin]) ?_
    rw [hmaj]
    simpa [BitVec.toNat_eq] using h16
  simpa [Row.IsAt, hrows, stem, hl, hmaj, hmin] using hat

theorem Row.IsAt.encRR {h : Home} (hat : r.IsAt h (stem l maj mn)) (h16 : (maj != 0x16) = true) : r.IsAt h (encRR l maj g d a b mn) :=
  hat.of_stem h16 (encRR_long ..) (encRR_major ..) (encRR_minor ..)

theorem takes_row3 {c : Guard → RegF → RegF → RegF → Instr} : (row3 c).Takes (encRR false maj g d a b mn) q (c g d a b) :=
  takes_short (by simp) BitVec.and_zero (by simp)

theorem takes_row2 {c : Guard → RegF → RegF → Instr} : (row2 c).Takes (encRR false maj g d a 0 mn) q (c g d a) :=
  takes_short (by simp) (and_fieldMasks [(6, 5)] rfl (by simp)) (by simp)

theorem takes_row1 {c : Guard → RegF → Instr} : (row1 c).Takes (encRR false maj g d 0 0 mn) q (c g d) :=
  takes_short (by simp) (and_fieldMasks [(6, 5), (11, 5)] rfl (by simp)) (by simp)

theorem takes_rowA {c : Guard → RegF → Instr} : (rowA c).Takes (encRR false maj g 0 a 0 mn) q (c g a) :=
  takes_short (by simp) (and_fieldMasks [(6, 5), (16, 5)] rfl (by simp)) (by simp)

theorem takes_rowAB {c : Guard → RegF → RegF → Instr} : (rowAB c).Takes (encRR false maj g 0 a b mn) q (c g a b) :=
  takes_short (by simp) (and_fieldMasks [(16, 5)] rfl (by simp)) (by simp)

theorem takes_row0 {c : Guard → Instr} : (row0 c).Takes (encRR false maj g 0 0 0 mn) q (c g) :=
  takes_short (by simp) (and_fieldMasks [(6, 5), (11, 5), (16, 5)] rfl (by simp)) (by simp)

theorem takes_rowV3 {c : Guard → RegF → RegF → RegF → VMods → Instr} :
    (rowV3 c).Takes (encRR true maj g d a b mn) m.enc (c g d a b m) :=
  takes_wide (by simp) BitVec.and_zero BitVec.and_zero (by simp)

theorem takes_rowV2 {c : Guard → RegF → RegF → VMods → Instr} :
    (rowV2 c).Takes (encRR true maj g d a 0 mn) m.enc (c g d a m) :=
  takes_wide (by simp) (and_fieldMasks [(6, 5)] rfl (by simp)) BitVec.and_zero (by simp)

variable (hwf : i.wf site = true)
include hwf

/-- Round trip by a row of the RR form. -/
theorem roundTrips_rr (he : encode i = enc3 maj g d a b mn) (hat : r.IsAt i.home (stem false maj mn))
    (h : r.Takes (encRR false maj g d a b mn) 0 i) (h16 : (maj != 0x16) = true := by rfl) (hl : r.long = false := by rfl) :
    RoundTrips site i :=
  roundTrips_short he (hat.encRR h16) h hl hwf

theorem roundTrips_rrLong (he : encode i = encL maj g d a b mn q) (hat : r.IsAt i.home (stem true maj mn))
    (h : r.Takes (encRR true maj g d a b mn) q i) (h16 : (maj != 0x16) = true := by rfl) (hl : r.long = true := by rfl) :
    RoundTrips site i :=
  roundTrips_long he (hat.encRR h16) h hl hwf
end

/-! ### The forms of other majors -/

section
variable (l : Bool) (maj : BitVec 6) (g : Guard)

@[simp] theorem encRI_fields (d a : RegF) (imm : BitVec 11) :
    (encRI maj g d a imm).long = false ∧ (encRI maj g d a imm).major = maj.toNat ∧ (encRI maj g d a imm).guard = g
      ∧ (encRI maj g d a imm).rd = d ∧ (encRI maj g d a imm).ra = a ∧ (encRI maj g d a imm).at 0 11 = imm := by
  simp (disch := decide) [Parcel.long, Parcel.major, Parcel.guard, encRI, Guard.bits, at_append_low, at_append_high, bit_append_low,
    bit_append_high, -Nat.reduceAdd, -BitVec.getLsbD_eq_getElem, -BitVec.extractLsb'_toNat]

theorem encRI_at {d a : RegF} {imm : BitVec 11} {lo n : Nat} (h : lo + n ≤ 11) :
    (encRI maj g d a imm).at lo n = imm.extractLsb' lo n := at_append_low h

@[simp] theorem encBR_fields (disp : BitVec 21) : (encBR maj g disp).long = false ∧ (encBR maj g disp).major = maj.toNat
    ∧ (encBR maj g disp).guard = g ∧ (encBR maj g disp).at 0 21 = disp := by
  simp (disch := decide) [Parcel.long, Parcel.major, Parcel.guard, encBR, Guard.bits, at_append_low, at_append_high, bit_append_low,
    bit_append_high, -Nat.reduceAdd, -BitVec.getLsbD_eq_getElem, -BitVec.extractLsb'_toNat]

@[simp] theorem encLP_fields (c : RegF) (x : BitVec 16) :
    (encLP l maj g c x).long = l ∧ (encLP l maj g c x).major = maj.toNat ∧ (encLP l maj g c x).guard = g
      ∧ (encLP l maj g c x).rd = c ∧ (encLP l maj g c x).at 0 16 = x := by
  simp (disch := decide) [Parcel.long, Parcel.major, Parcel.guard, encLP, Guard.bits, at_append_low, at_append_high, bit_append_low,
    bit_append_high, -Nat.reduceAdd, -BitVec.getLsbD_eq_getElem, -BitVec.extractLsb'_toNat]

@[simp] theorem encCP_fields (gt gf : BitVec 3) (a b : RegF) (c : BitVec 4) :
    (encCP l maj g gt gf a b c).long = l ∧ (encCP l maj g gt gf a b c).major = maj.toNat ∧ (encCP l maj g gt gf a b c).guard = g
      ∧ (encCP l maj g gt gf a b c).at 18 3 = gt ∧ (encCP l maj g gt gf a b c).at 15 3 = gf ∧ (encCP l maj g gt gf a b c).at 10 5 = a
      ∧ (encCP l maj g gt gf a b c).at 5 5 = b ∧ (encCP l maj g gt gf a b c).at 1 4 = c ∧ (encCP l maj g gt gf a b c).at 0 1 = 0 := by
  simp (disch := decide) [Parcel.long, Parcel.major, Parcel.guard, encCP, Guard.bits, at_append_low, at_append_high, bit_append_low,
    bit_append_high, -Nat.reduceAdd, -BitVec.getLsbD_eq_getElem, -BitVec.extractLsb'_toNat]

/-- The first parcel of a REEL (`x` 0) or REELX (`x` 1). -/
def encReel (n : BitVec 6) (a : RegF) (x : BitVec 10) : Parcel := BitVec.ofBool l ++ (0x27 : BitVec 6) ++ g.bits ++ n ++ a ++ x

@[simp] theorem encReel_fields (n : BitVec 6) (a : RegF) (x : BitVec 10) :
    (encReel l g n a x).long = l ∧ (encReel l g n a x).major = 0x27 ∧ (encReel l g n a x).guard = g ∧ (encReel l g n a x).at 15 6 = n
      ∧ (encReel l g n a x).at 10 5 = a ∧ (encReel l g n a x).minor = (x.extractLsb' 0 6).toNat
      ∧ (encReel l g n a x).at 6 4 = x.extractLsb' 6 4 := by
  simp (disch := decide) [Parcel.long, Parcel.major, Parcel.guard, Parcel.minor, encReel, Guard.bits, at_append_low, at_append_high,
    bit_append_low, bit_append_high, -Nat.reduceAdd, -BitVec.getLsbD_eq_getElem, -BitVec.extractLsb'_toNat]

/-- The first parcel of a hint (R239). -/
def encHint (x : BitVec 25) : Parcel := BitVec.ofBool l ++ (0x3E : BitVec 6) ++ x

@[simp] theorem encHint_fields (x : BitVec 25) :
    (encHint l x).long = l ∧ (encHint l x).major = 0x3E ∧ (encHint l x).at 0 25 = x := by
  simp (disch := decide) [Parcel.long, Parcel.major, encHint, at_append_low, at_append_high,
    bit_append_high, -Nat.reduceAdd, -BitVec.getLsbD_eq_getElem, -BitVec.extractLsb'_toNat]

end

theorem headerParcel_fields {n u0 u1 u2 u3 u4 u5 : BitVec 3} {p : Parcel} (hp : p = Machine.headerParcel n u0 u1 u2 u3 u4 u5) :
    p.long = false ∧ p.major = 0x3F ∧ p.at 22 3 = n ∧ p.at 19 3 = u0 ∧ p.at 16 3 = u1 ∧ p.at 13 3 = u2 ∧ p.at 10 3 = u3 ∧ p.at 7 3 = u4
      ∧ p.at 4 3 = u5 ∧ p.at 0 4 = 0 := by
  subst hp
  simp (disch := decide) [Parcel.long, Parcel.major, Machine.headerParcel, at_append_low, at_append_high, bit_append_high,
    -Nat.reduceAdd, -BitVec.getLsbD_eq_getElem, -BitVec.extractLsb'_toNat]

/-- The majors whose rows do not depend on the minor. -/
def minorFree (maj : Nat) : Bool := (2 ≤ maj && maj ≤ 6) || (maj ∈ [0x09, 0x0A, 0x0C, 0x0D, 0x0F, 0x10, 0x11, 0x3E])

theorem rowsAt_of_minorFree {site : Site} {p q : Parcel} (hmaj : p.major = q.major) (h : minorFree p.major = true) :
    rowsAt site p = rowsAt site q := by
  unfold rowsAt
  rw [hmaj] at h ⊢
  split <;> simp_all [minorFree]

theorem Row.IsAt.of_major {r : Row} {h : Home} {l : Bool} {maj : BitVec 6} {p : Parcel} (hat : r.IsAt h (stem l maj 0))
    (hl : p.long = l) (hm : p.major = maj.toNat) (hfree : minorFree maj.toNat = true) : r.IsAt h p := by
  have hrows : rowsAt h.site p = rowsAt h.site (stem l maj 0) :=
    rowsAt_of_minorFree (by simp [hm, stem]) (hm ▸ hfree)
  have hne : p.major ≠ 0x17 := fun e => by rw [← hm, e] at hfree; simp [minorFree] at hfree
  obtain ⟨hhas, hfind⟩ := hat
  refine ⟨?_, by simpa [hrows, hl, stem] using hfind⟩
  cases h <;> simp_all [Home.has, stem]

/-! ### Second parcels -/

@[simp] theorem encCopy_fields (cq : BitVec 2) (cb sc : BitVec 3) (sx sv sh : RegF) (dsp ssp : Bool) :
    (encCopy cq cb sc sx sv sh dsp ssp).at 30 2 = cq ∧ (encCopy cq cb sc sx sv sh dsp ssp).at 27 3 = cb
      ∧ (encCopy cq cb sc sx sv sh dsp ssp).at 24 3 = sc ∧ (encCopy cq cb sc sx sv sh dsp ssp).at 19 5 = sx
      ∧ (encCopy cq cb sc sx sv sh dsp ssp).at 14 5 = sv ∧ (encCopy cq cb sc sx sv sh dsp ssp).at 9 5 = sh
      ∧ (encCopy cq cb sc sx sv sh dsp ssp).getLsbD 8 = dsp ∧ (encCopy cq cb sc sx sv sh dsp ssp).getLsbD 7 = ssp
      ∧ (encCopy cq cb sc sx sv sh dsp ssp).at 0 7 = 0 := by
  simp (disch := decide) [encCopy, at_append_low, at_append_high, bit_append_low, bit_append_high, -Nat.reduceAdd,
    -BitVec.getLsbD_eq_getElem]

@[simp] theorem encM2_fields (rc : RegF) (fmt : BitVec 5) (blk : BitVec 2) (rm : BitVec 3) (qd : Bool) (re : RegF) (imm : BitVec 6)
    (mode : BitVec 2) :
    (encM2 rc fmt blk rm qd re imm mode).at 27 5 = rc ∧ (encM2 rc fmt blk rm qd re imm mode).at 22 5 = fmt
      ∧ (encM2 rc fmt blk rm qd re imm mode).at 20 2 = blk ∧ (encM2 rc fmt blk rm qd re imm mode).at 17 3 = 0
      ∧ (encM2 rc fmt blk rm qd re imm mode).at 14 3 = rm ∧ (encM2 rc fmt blk rm qd re imm mode).getLsbD 13 = qd
      ∧ (encM2 rc fmt blk rm qd re imm mode).at 13 1 = BitVec.ofBool qd ∧ (encM2 rc fmt blk rm qd re imm mode).at 8 5 = re
      ∧ (encM2 rc fmt blk rm qd re imm mode).at 2 6 = imm ∧ (encM2 rc fmt blk rm qd re imm mode).at 0 2 = mode := by
  simp (disch := decide) [encM2, at_append_low, at_append_high, bit_append_low, bit_append_high, -Nat.reduceAdd,
    -BitVec.getLsbD_eq_getElem]

/-! ### Rows of the other forms -/

section
variable {l : Bool} {maj : BitVec 6} {g : Guard} {d a b : RegF} {mn : BitVec 6} {i : Instr} {q : Parcel}

theorem takes_rowI {c : Guard → RegF → RegF → BitVec 11 → Instr} {imm : BitVec 11} :
    (rowI c).Takes (encRI maj g d a imm) q (c g d a imm) := takes_short (by simp) BitVec.and_zero (by simp)

/-- The immediate of a shift (R233). -/
def shiftImm (k : BitVec 2) (n : BitVec 6) : BitVec 11 := (0 : BitVec 3) ++ k ++ n

theorem shiftImm_fields (k : BitVec 2) (n : BitVec 6) : (encRI maj g d a (shiftImm k n)).at 8 3 = 0
    ∧ (encRI maj g d a (shiftImm k n)).at 6 2 = k ∧ (encRI maj g d a (shiftImm k n)).at 0 6 = n := by
  simp (disch := decide) [encRI_at, shiftImm, at_append_low, at_append_high, -Nat.reduceAdd]

theorem takes_row06 {k : BitVec 2} {n : BitVec 6} (hm : row06.make (encRI maj g d a (shiftImm k n)) 0 = i) :
    row06.Takes (encRI maj g d a (shiftImm k n)) q i :=
  takes_short (by simp) (and_fieldMasks [(8, 3)] rfl (by simp [shiftImm_fields])) hm

theorem encLS_at {off : BitVec 8} {size : BitVec 3} : (encRI maj g d a (off ++ size)).at 3 8 = off
    ∧ (encRI maj g d a (off ++ size)).at 0 3 = size := by
  simp (disch := decide) [encRI_at, at_append_low, at_append_high, -Nat.reduceAdd]

theorem takes_row10 {off : BitVec 8} {size : BitVec 3} (hsize : size ≠ 7) (hm : row10.make (encRI maj g d a (off ++ size)) 0 = i) :
    row10.Takes (encRI maj g d a (off ++ size)) 0 i where
  long := by simp [row10]
  zero0 := BitVec.and_zero
  zero1 := nofun
  codes := by simpa [row10, encLS_at] using hsize
  make := hm

theorem takes_row11 {off : BitVec 8} {size : BitVec 3} (hsize : size.toNat < 4) (hm : row11.make (encRI maj g d a (off ++ size)) 0 = i) :
    row11.Takes (encRI maj g d a (off ++ size)) 0 i where
  long := by simp [row11]
  zero0 := BitVec.and_zero
  zero1 := nofun
  codes := by simpa [row11, encLS_at, -BitVec.extractLsb'_toNat] using hsize
  make := hm

/-- The second parcel of an atomic instruction (R223). -/
def amoParcel (op : BitVec 4) (ord : BitVec 2) (sc : BitVec 3) (w : Bool) : Parcel :=
  op ++ ord ++ sc ++ BitVec.ofBool w ++ (0 : BitVec 22)

theorem amoParcel_fields (op : BitVec 4) (ord : BitVec 2) (sc : BitVec 3) (w : Bool) :
    (amoParcel op ord sc w).at 28 4 = op ∧ (amoParcel op ord sc w).at 26 2 = ord ∧ (amoParcel op ord sc w).at 23 3 = sc
      ∧ (amoParcel op ord sc w).getLsbD 22 = w ∧ (amoParcel op ord sc w).at 0 22 = 0 := by
  simp (disch := decide) [amoParcel, at_append_low, at_append_high, bit_append_low, bit_append_high, -Nat.reduceAdd,
    -BitVec.getLsbD_eq_getElem]

theorem takes_row12 {op : BitVec 4} {ord : BitVec 2} {sc : BitVec 3} {w : Bool} (hop : op.toNat < 10)
    (hm : row12.make (encRR true maj g d a b mn) (amoParcel op ord sc w) = i) :
    row12.Takes (encRR true maj g d a b mn) (amoParcel op ord sc w) i where
  long := by simp [row12]
  zero0 := BitVec.and_zero
  zero1 := fun _ => and_fieldMasks [(0, 22)] rfl (by simp [amoParcel_fields])
  codes := by simpa [row12, amoParcel_fields, -BitVec.extractLsb'_toNat] using hop
  make := hm

theorem takes_rowB {c : Guard → RegF → RegF → BitVec 6 → BitVec 6 → Instr} {lsb width : BitVec 6} :
    (rowB c).Takes (encRR true maj g d a 0 mn) ((0 : BitVec 20) ++ width ++ lsb) (c g d a lsb width) := by
  refine takes_wide (by simp) (and_fieldMasks [(6, 5)] rfl (by simp)) (and_fieldMasks [(12, 20)] rfl ?_) ?_ <;>
  simp (disch := decide) [at_append_low, at_append_high, -Nat.reduceAdd]

theorem takes_row13 {c : Guard → RegF → RegF → BitVec 3 → Instr} {sc : BitVec 3} :
    (row13 c).Takes (encRR false maj g d a (sc ++ (0 : BitVec 2)) mn) q (c g d a sc) := by
  refine takes_short (by simp) (and_fieldMasks [(6, 2)] rfl ?_) ?_ <;>
  simp (disch := decide) [encRR_at_b, at_append_low, at_append_high, -Nat.reduceAdd]

theorem takes_row15 {c : Guard → RegF → BitVec 4 → Instr} {k : BitVec 4} :
    (row15 c).Takes (encRR false maj g d (k ++ (0 : BitVec 1)) 0 mn) q (c g d k) := by
  refine takes_short (by simp) (and_fieldMasks [(6, 5), (11, 1)] rfl ?_) ?_ <;>
  simp (disch := decide) [encRR_at_a, at_append_low, at_append_high, -Nat.reduceAdd]

/-- `rd, rb` with ra zero. -/
theorem takes_rowDB {c : Guard → RegF → RegF → Instr} :
    (Row.short 0xF800 fun p => c p.guard p.rd p.rb).Takes (encRR false maj g d 0 b mn) q (c g d b) :=
  takes_short (by simp) (and_fieldMasks [(11, 5)] rfl (by simp)) (by simp)

/-- A scope in the upper bits of rd. -/
theorem takes_rowScope {c : Guard → BitVec 3 → RegF → RegF → Instr} {sc : BitVec 3} :
    (Row.short 0x30000 fun p => c p.guard (p.at 18 3) p.ra p.rb).Takes (encRR false maj g (sc ++ (0 : BitVec 2)) a b mn) q
      (c g sc a b) := by
  refine takes_short (by simp) (and_fieldMasks [(16, 2)] rfl ?_) ?_ <;>
  simp (disch := decide) [encRR_at_d, at_append_low, at_append_high, -Nat.reduceAdd]

end

/-! ### Rows of single instructions -/

section
variable {g : Guard} {d a b c : RegF} {q : Parcel}

theorem at_append_both {u v w : Nat} (x : BitVec u) (y : BitVec v) (z : BitVec w) : (x ++ y ++ z).extractLsb' 0 (v + w) = y ++ z := by
  apply BitVec.eq_of_getLsbD_eq
  intro i hi
  simp only [BitVec.getLsbD_extractLsb', BitVec.getLsbD_append, hi, decide_true, Bool.true_and, Nat.zero_add]
  split
  · rfl
  · rw [if_pos (by omega)]

theorem encRR_at_ab {l : Bool} {maj : BitVec 6} {mn : BitVec 6} : (encRR l maj g d a b mn).at 6 10 = a ++ b :=
  (at_append_high (by decide)).trans (at_append_both _ a b)

theorem encRR_bit_minor {l : Bool} {maj : BitVec 6} {mn : BitVec 6} {i : Nat} (h : i < 6) :
    (encRR l maj g d a b mn).getLsbD i = mn.getLsbD i := bit_append_low h

theorem takes_trap {code : BitVec 10} : (Row.short 0x1F0000 fun p => .trap p.guard (p.at 6 10)).Takes
    (encRR false 0x17 g 0 (code.extractLsb' 5 5) (code.extractLsb' 0 5) 8) q (.trap g code) :=
  takes_short (by simp) (and_fieldMasks [(16, 5)] rfl (by simp))
    (by rw [encRR_guard, encRR_at_ab, BitVec.extractLsb'_append_extractLsb' (w := 5) (len := 5)])

theorem takes_fence {sc : BitVec 3} : (Row.short 0x1FF8C0 fun p => .fence p.guard (p.at 8 3)).Takes
    (encRR false 0x13 g 0 0 (sc ++ (0 : BitVec 2)) 4) q (.fence g sc) := by
  refine takes_short (by simp) (and_fieldMasks [(16, 5), (11, 5), (6, 2)] rfl ?_) ?_ <;>
  simp (disch := decide) [encRR_at_b, at_append_low, at_append_high, -Nat.reduceAdd]

theorem takes_qclose {k : BitVec 4} : (Row.short 0x1F0FC0 fun p => .qclose p.guard (p.at 12 4)).Takes
    (encRR false 0x15 g 0 (k ++ (0 : BitVec 1)) 0 6) q (.qclose g k) := by
  refine takes_short (by simp) (and_fieldMasks [(16, 5), (6, 5), (11, 1)] rfl ?_) ?_ <;>
  simp (disch := decide) [encRR_at_a, at_append_low, at_append_high, -Nat.reduceAdd]

theorem takes_rdv {m t : BitVec 4} : (Row.short 0x187C0 fun p => .rdv p.guard (p.at 17 4) (p.at 11 4)).Takes
    (encRR false 0x17 g (m ++ (0 : BitVec 1)) ((0 : BitVec 1) ++ t) 0 3) q (.rdv g m t) := by
  refine takes_short (by simp) (and_fieldMasks [(16, 1), (15, 1), (6, 5)] rfl ?_) ?_ <;>
  simp (disch := decide) [encRR_at_a, encRR_at_d, at_append_low, at_append_high, -Nat.reduceAdd]

theorem takes_cfork {m : BitVec 4} : (Row.short 0x10000 fun p => .cfork p.guard (p.at 17 4) p.ra p.rb).Takes
    (encRR false 0x17 g (m ++ (0 : BitVec 1)) a b 4) q (.cfork g m a b) := by
  refine takes_short (by simp) (and_fieldMasks [(16, 1)] rfl ?_) ?_ <;>
  simp (disch := decide) [encRR_at_d, at_append_low, at_append_high, -Nat.reduceAdd]

theorem takes_cforkLong {m : BitVec 4} :
    (Row.wide 0x10000 0x7FFFFFF fun p q => .cforkLong p.guard (p.at 17 4) p.ra p.rb (q.at 27 5)).Takes
      (encRR true 0x17 g (m ++ (0 : BitVec 1)) a b 4) (c ++ (0 : BitVec 27)) (.cforkLong g m a b c) := by
  refine takes_wide (by simp) (and_fieldMasks [(16, 1)] rfl ?_) (and_fieldMasks [(0, 27)] rfl ?_) ?_ <;>
  simp (disch := decide) [encRR_at_d, at_append_low, at_append_high, -Nat.reduceAdd]

theorem takes_sigwait {sc : BitVec 3} {cond : BitVec 2} :
    (Row.short 0 fun p => .sigwait p.guard (p.at 18 3) (p.at 16 2) p.ra p.rb).Takes (encRR false 0x17 g (sc ++ cond) a b 5) q
      (.sigwait g sc cond a b) := by
  refine takes_short (by simp) BitVec.and_zero ?_
  simp (disch := decide) [encRR_at_d, at_append_low, at_append_high, -Nat.reduceAdd]

theorem takes_ltld {set : BitVec 2} : (Row.short 0x1C07C0 fun p => .ltld p.guard (p.at 16 2) p.ra).Takes
    (encRR false 0x1F g ((0 : BitVec 3) ++ set) a 0 4) q (.ltld g set a) := by
  refine takes_short (by simp) (and_fieldMasks [(18, 3), (6, 5)] rfl ?_) ?_ <;>
  simp (disch := decide) [encRR_at_d, at_append_low, at_append_high, -Nat.reduceAdd]

theorem takes_copy {cq : BitVec 2} {cb sc : BitVec 3} {sx sv : RegF} {dsp ssp : Bool} :
    rowCopy.Takes (encRR true 0x22 g d a b 0) (encCopy cq cb sc sx sv 0 dsp ssp) (.copy g d a b cq cb sc sx sv dsp ssp) :=
  takes_wide (by simp) BitVec.and_zero (and_fieldMasks [(9, 5), (0, 7)] rfl (by simp)) (by simp [-BitVec.getLsbD_eq_getElem])

theorem takes_copyt {cq : BitVec 2} {cb sc : BitVec 3} {sx sv sh : RegF} {dsp ssp : Bool} :
    rowCopyt.Takes (encRR true 0x22 g d a b 1) (encCopy cq cb sc sx sv sh dsp ssp) (.copyt g d a b cq cb sc sx sv sh dsp ssp) :=
  takes_wide (by simp) BitVec.and_zero (and_fieldMasks [(0, 7)] rfl (by simp)) (by simp [-BitVec.getLsbD_eq_getElem])

theorem takes_ctest {cb : BitVec 3} : (Row.wide 0 0x1FFFFFFF fun p q => .ctest p.guard p.rd p.ra p.rb (q.at 29 3)).Takes
    (encRR true 0x22 g d a b 3) (cb ++ (0 : BitVec 29)) (.ctest g d a b cb) := by
  refine takes_wide (by simp) BitVec.and_zero (and_fieldMasks [(0, 29)] rfl ?_) ?_ <;>
  simp (disch := decide) [at_append_low, at_append_high, -Nat.reduceAdd]

theorem takes_qfence {cqs : BitVec 4} {qs : BitVec 16} :
    (Row.wide 0x1FFFC0 0xFFF00000 fun p q => .qfence p.guard (q.at 16 4) (q.at 0 16)).Takes
      (encRR true 0x22 g 0 0 0 5) ((0 : BitVec 12) ++ cqs ++ qs) (.qfence g cqs qs) := by
  refine takes_wide (by simp) (and_fieldMasks [(16, 5), (11, 5), (6, 5)] rfl (by simp)) (and_fieldMasks [(20, 12)] rfl ?_) ?_ <;>
  simp (disch := decide) [at_append_low, at_append_high, -Nat.reduceAdd]

theorem takes_mldSparse {mode : BitVec 2} :
    (Row.wide 0 0x07FFFFFC fun p q => .mldSparse p.guard p.rd p.ra p.rb (q.at 27 5) (q.at 0 2)).Takes
      (encRR true 0x21 g d a b 0) (encM2 c 0 0 0 false 0 0 mode) (.mldSparse g d a b c mode) :=
  takes_wide (by simp) BitVec.and_zero
    (and_fieldMasks [(22, 5), (20, 2), (17, 3), (14, 3), (13, 1), (8, 5), (2, 6)] rfl (by simp)) (by simp)

theorem takes_msld {n : BitVec 6} :
    (Row.wide 0 0xFFFFFF03 fun p q => .msld p.guard p.rd p.ra p.rb (q.at 2 6)).Takes
      (encRR true 0x22 g d a b 1) (encM2 0 0 0 0 false 0 n 0) (.msld g d a b n) :=
  takes_wide (by simp) BitVec.and_zero
    (and_fieldMasks [(27, 5), (22, 5), (20, 2), (17, 3), (14, 3), (13, 1), (8, 5), (0, 2)] rfl (by simp)) (by simp)

theorem takes_mladd {re : RegF} {mode : BitVec 2} :
    (Row.wide 0 0x07FFE0FC fun p q => .mladd p.guard p.rd p.ra p.rb (q.at 27 5) (q.at 8 5) (q.at 0 2)).Takes
      (encRR true 0x22 g d a b 3) (encM2 c 0 0 0 false re 0 mode) (.mladd g d a b c re mode) :=
  takes_wide (by simp) BitVec.and_zero
    (and_fieldMasks [(22, 5), (20, 2), (17, 3), (14, 3), (13, 1), (2, 6)] rfl (by simp)) (by simp)

theorem takes_acvt {f : BitVec 5} {blk : BitVec 2} {rm : BitVec 3} {qd : Bool} :
    (Row.wide 0x7C0 0xF80E1FFF fun p q => .acvt p.guard p.rd p.ra (q.at 22 5) (q.at 20 2) (q.at 14 3) (q.getLsbD 13)).Takes
      (encRR true 0x23 g d a 0 3) (encM2 0 f blk rm qd 0 0 0) (.acvt g d a f blk rm qd) :=
  takes_wide (by simp) (and_fieldMasks [(6, 5)] rfl (by simp))
    (and_fieldMasks [(27, 5), (17, 3), (8, 5), (2, 6), (0, 2)] rfl (by simp)) (by simp [-BitVec.getLsbD_eq_getElem])

theorem takes_reel {n : BitVec 6} : (Row.short 0x3C0 fun p => .reel p.guard (p.at 15 6) (p.at 10 5)).Takes (encReel false g n a 0) q
    (.reel g n a) := takes_short (by simp) (and_fieldMasks [(6, 4)] rfl (by simp)) (by simp)

theorem takes_reelx {n : BitVec 6} :
    (Row.wide 0x3C0 0x7FFFFFF fun p q => .reelx p.guard (p.at 15 6) (p.at 10 5) (q.at 27 5)).Takes (encReel true g n a 1)
      (b ++ (0 : BitVec 27)) (.reelx g n a b) := by
  refine takes_wide (by simp) (and_fieldMasks [(6, 4)] rfl (by simp)) (and_fieldMasks [(0, 27)] rfl ?_) ?_ <;>
  simp (disch := decide) [at_append_low, at_append_high, -Nat.reduceAdd]

theorem takes_limm {imm : BitVec 48} :
    (Row.wide 0 0 fun p q => .limm p.guard p.rd ((p.at 0 16) ++ (q.at 0 32))).Takes
      (encLP true 0x09 g d (imm.extractLsb' 32 16)) (imm.extractLsb' 0 32) (.limm g d imm) := by
  refine takes_wide (by simp) BitVec.and_zero BitVec.and_zero ?_
  simp only [encLP_fields, Parcel.at, BitVec.extractLsb'_eq_self]
  rw [BitVec.extractLsb'_append_extractLsb' (w := 16) (len := 32)]

theorem takes_sel {n : Bool} {p : BitVec 3} :
    row0B.Takes (encRR false 0x0B g d a b ((0 : BitVec 2) ++ BitVec.ofBool n ++ p)) q (.sel g d a b n p) := by
  refine takes_short (by simp) (and_fieldMasks [(4, 2)] rfl ?_) ?_ <;>
  simp (disch := decide) [encRR_at_minor, encRR_bit_minor, at_append_low, at_append_high, bit_append_low, bit_append_high,
    -Nat.reduceAdd, -BitVec.getLsbD_eq_getElem]

end

section
variable {site : Site} {i : Instr} {r : Row} (hwf : i.wf site = true)
include hwf

/-- Round trip in a major whose rows do not depend on the minor. -/
theorem roundTrips_major {maj : BitVec 6} {p : Parcel} (he : encode i = [p]) (hm : p.major = maj.toNat)
    (hat : r.IsAt i.home (stem false maj 0)) (h : r.Takes p 0 i) (hfree : minorFree maj.toNat = true := by rfl)
    (hl : r.long = false := by rfl) : RoundTrips site i :=
  roundTrips_short he (hat.of_major (h.long ▸ hl) hm hfree) h hl hwf

theorem roundTrips_majorLong {maj : BitVec 6} {p q : Parcel} (he : encode i = [p, q]) (hm : p.major = maj.toNat)
    (hat : r.IsAt i.home (stem true maj 0)) (h : r.Takes p q i) (hfree : minorFree maj.toNat = true := by rfl)
    (hl : r.long = true := by rfl) : RoundTrips site i :=
  roundTrips_long he (hat.of_major (h.long ▸ hl) hm hfree) h hl hwf

theorem legalAt_of_wf : i.home.legalAt site = true := ((Bool.and_eq_true ..).mp hwf).1

/-- A check that a well-formed instruction passes. -/
theorem check_of_wf {c : Check} (hc : c ∈ i.checks site) : c.2 = true := by
  rw [Instr.wf, Bool.and_eq_true, List.all_eq_true] at hwf
  exact hwf.2 c hc

/-- Lane-sliced indexing stands with the scratchpad bit only (R301). -/
theorem laneSliced_cases {ls sp : Bool} (hc : ckLs ls sp ∈ i.checks site) :
    (ls = false ∧ sp = false) ∨ (ls = false ∧ sp = true) ∨ (ls = true ∧ sp = true) := by
  have h := check_of_wf hwf hc
  cases ls <;> cases sp <;> simp_all [ckLs]
end

theorem roundTrips_convoy {site : Site} {n u0 u1 u2 u3 u4 u5 : BitVec 3} (hwf : (Instr.convoy n u0 u1 u2 u3 u4 u5).wf site = true) :
    RoundTrips site (.convoy n u0 u1 u2 u3 u4 u5) := by
  have hsite : site = .cl .V := by
    rcases Home.legalAt_cases (legalAt_of_wf hwf) with h | ⟨h, -⟩ | h
    · cases h
    · cases h
    · exact h
  obtain ⟨p, hp⟩ : ∃ p, p = Machine.headerParcel n u0 u1 u2 u3 u4 u5 := ⟨_, rfl⟩
  obtain ⟨hlong, hmaj, hn, h0, h1, h2, h3, h4, h5, hzero⟩ := headerParcel_fields hp
  refine .inl ⟨p, hp ▸ rfl, hlong, ?_⟩
  have hheader : decodeHeader p = .ok (.convoy n u0 u1 u2 u3 u4 u5) := by
    rw [decodeHeader, hlong, hzero, hn, h0, h1, h2, h3, h4, h5]
    rfl
  rw [decode, hmaj, hsite, hheader]
  rfl

theorem rowsAt_csr {site : Site} {p : Parcel} (h : p.major = 0x16) : rowsAt site p = [row16 (p.getLsbD 10)] := by
  unfold rowsAt
  rw [h]
  rfl

theorem rowsAt_sel {site : Site} {p : Parcel} (h : p.major = 0x0B) (h4 : p.at 4 2 = 0) : rowsAt site p = [row0B] := by
  unfold rowsAt
  rw [h, if_pos h4]
  rfl

theorem roundTrips_sel {site : Site} {g : Guard} {d a b : RegF} {n : Bool} {p : BitVec 3} (hwf : (Instr.sel g d a b n p).wf site = true) :
    RoundTrips site (.sel g d a b n p) := by
  refine roundTrips_short (r := row0B) rfl ⟨?_, ?_⟩ takes_sel rfl hwf
  · rw [encRR_major]
    rfl
  · rw [rowsAt_sel (encRR_major ..) (by simp (disch := decide) [encRR_at_minor, at_append_high, -Nat.reduceAdd]), encRR_long]
    rfl

section
variable {g : Guard} {d a : RegF} {n : BitVec 10} {w : Bool}

theorem csrImm_fields : (encRI 0x16 g d a (BitVec.ofBool w ++ n)).at 0 10 = n
    ∧ (encRI 0x16 g d a (BitVec.ofBool w ++ n)).getLsbD 10 = w := by
  have hbit : (encRI 0x16 g d a (BitVec.ofBool w ++ n)).getLsbD 10 = (BitVec.ofBool w ++ n).getLsbD 10 := bit_append_low (by decide)
  rw [hbit]
  simp (disch := decide) [encRI_at, at_append_low, bit_append_high, -Nat.reduceAdd, -BitVec.getLsbD_eq_getElem]

theorem isAt_row16 : (row16 w).IsAt .common (encRI 0x16 g d a (BitVec.ofBool w ++ n)) := by
  refine ⟨?_, ?_⟩
  · rw [(encRI_fields ..).2.1]
    rfl
  · rw [rowsAt_csr (encRI_fields ..).2.1, (encRI_fields ..).1, csrImm_fields.2]
    cases w <;> rfl

theorem takes_csrr {q : Parcel} : (row16 false).Takes (encRI 0x16 g d 0 (BitVec.ofBool false ++ n)) q (.csrr g d n) :=
  takes_short (by simp) (and_fieldMasks [(11, 5)] rfl (by simp)) (by simp only [encRI_fields, csrImm_fields])
theorem takes_csrw {q : Parcel} : (row16 true).Takes (encRI 0x16 g 0 a (BitVec.ofBool true ++ n)) q (.csrw g a n) :=
  takes_short (by simp) (and_fieldMasks [(16, 5)] rfl (by simp)) (by simp only [encRI_fields, csrImm_fields])
end

/-- The row of CMP and FCMP (R222). -/
def rowCP : Row := .short 1 fun p =>
  if (p.at 1 4).toNat < 8 then .cmp p.guard (p.at 18 3) (p.at 15 3) (p.at 10 5) (p.at 5 5) (p.at 1 4)
  else .fcmp p.guard (p.at 18 3) (p.at 15 3) (p.at 10 5) (p.at 5 5) (p.at 1 4)

theorem takes_rowCP {g : Guard} {gt gf : BitVec 3} {a b : RegF} {c : BitVec 4} {i : Instr} {q : Parcel}
    (hi : (if c.toNat < 8 then Instr.cmp g gt gf a b c else .fcmp g gt gf a b c) = i) :
    rowCP.Takes (encCP false 0x0A g gt gf a b c) q i := by
  refine takes_short (by simp) (and_fieldMasks [(0, 1)] rfl (by simp)) ?_
  simpa [-BitVec.extractLsb'_toNat] using hi

theorem isAt_reel {r : Row} {l : Bool} {g : Guard} {n : BitVec 6} {a : RegF} {mn : BitVec 6} (hat : r.IsAt .vector (stem l 0x27 mn)) :
    r.IsAt .vector (encReel l g n a ((0 : BitVec 4) ++ mn)) :=
  hat.of_stem rfl (encReel_fields ..).1 (encReel_fields ..).2.1
    (by simp (disch := decide) [at_append_low, -Nat.reduceAdd, -BitVec.extractLsb'_toNat])

/-- Every well-formed instruction comes back: those of the RR form by the operands that they have, the others by the rows of their own
majors. -/
theorem roundTrips (site : Site) (i : Instr) (hne : i.home ≠ .event) (hwf : i.wf site = true) : RoundTrips site i := by
  cases i with
  | add | sub | and | or | xor | andn | shl | shr | sra | ror | min | max | minu | maxu | adds | subs | shls | mul | mulh | mulhu | div
  | divu | rem | remu | muls | fadd | fsub | fmul | fma | fmin | fmax | taskq | vldsq | vldxq | vstsq | vstxq | setvlAccess | cwait
  | cclr | setvl | vadd | vsub | vmul | vmin | vmax | vand | vor | vxor | vshl | vshr | vsra | vextr | vperm | kand | kor | kxor
  | kandn | mld | mldf | mst | mstf | mma | mlmul | ald | ast =>
    exact roundTrips_rr hwf rfl ⟨rfl, rfl⟩ takes_row3
  | clz | ctz | popc | jrl | fcvtf | fcvtfu | fcvti | fcvtiu | fabs | fneg | recode | vldq | vstq | sbind | tagrd | vtagr | vtagw
  | qpopv | vabs | vneg | vmov | vsplat | vscale | vexp2 | vlog2 | vrcp | vrsq | vredsum | vredmax | vredmin | vscan | knot | kmov
  | kfirst | kpop | mrank | mtr | mdense | mlrc =>
    exact roundTrips_rr hwf rfl ⟨rfl, rfl⟩ takes_row2
  | getts | sunbind | mrel | mzero | azero => exact roundTrips_rr hwf rfl ⟨rfl, rfl⟩ takes_row1
  | jr | rsave | rrest | cbtld => exact roundTrips_rr hwf rfl ⟨rfl, rfl⟩ takes_rowA
  | tagset | pfl2 | tlbi => exact roundTrips_rr hwf rfl ⟨rfl, rfl⟩ takes_rowAB
  | end_ | yield | bar | svret => exact roundTrips_rr hwf rfl ⟨rfl, rfl⟩ takes_row0
  | setvcap | wid | mclaim | mclaimElastic => exact roundTrips_rr hwf rfl ⟨rfl, rfl⟩ takes_rowDB
  | sigset | shpost => exact roundTrips_rr hwf rfl ⟨rfl, rfl⟩ takes_rowScope
  | ldacq | ldacqw | strel | strelw => exact roundTrips_rr hwf rfl ⟨rfl, rfl⟩ takes_row13
  | qpush | qpushu | qpushf | qpops | qpeek | qstat => exact roundTrips_rr hwf rfl ⟨rfl, rfl⟩ takes_row15
  | vaddLong | vsubLong | vmulLong | vfma | vfms | vnfma | vminLong | vmaxLong | vandLong | vorLong | vxorLong | vshlLong | vshrLong
  | vsraLong | vcmp | vsel | vextrLong | vssmx | vpermLong | kandLong | korLong | kxorLong | kandnLong =>
    exact roundTrips_rrLong hwf rfl ⟨rfl, rfl⟩ takes_rowV3
  | vabsLong | vnegLong | vmovLong | vsplatLong | vcvt | vscaleLong | vexp2Long | vlog2Long | vrcpLong | vrsqLong | vredsumLong
  | vredmaxLong | vredminLong | vscanLong | vslide | vcompress | vexpand | knotLong | kmovLong | kfirstLong | kpopLong =>
    exact roundTrips_rrLong hwf rfl ⟨rfl, rfl⟩ takes_rowV2
  | bextu | bext | bins => exact roundTrips_rrLong hwf rfl ⟨rfl, rfl⟩ takes_rowB
  | addi | andi | ori | xori => exact roundTrips_major hwf rfl (encRI_fields ..).2.1 ⟨rfl, rfl⟩ takes_rowI
  | shli | shri | srai | rori =>
    exact roundTrips_major hwf rfl (encRI_fields ..).2.1 ⟨rfl, rfl⟩
      (takes_row06 (by simp [row06, Row.short, shiftImm_fields, -BitVec.extractLsb'_toNat]))
  | ldb | ldbu | ldh | ldhu | ldw | ldwu | ldd =>
    exact roundTrips_major hwf rfl (encRI_fields ..).2.1 ⟨rfl, rfl⟩
      (takes_row10 (by decide) (by simp [row10, encLS_at, -BitVec.extractLsb'_toNat]))
  | stb | sth | stw | std =>
    exact roundTrips_major hwf rfl (encRI_fields ..).2.1 ⟨rfl, rfl⟩
      (takes_row11 (by decide) (by simp [row11, encLS_at, -BitVec.extractLsb'_toNat]))
  | amoswap | amoadd | amoand | amoor | amoxor | amomin | amomax | amominu | amomaxu | cas =>
    exact roundTrips_rrLong hwf rfl ⟨rfl, rfl⟩
      (takes_row12 (by decide) (by simp [row12, amoParcel_fields, -BitVec.extractLsb'_toNat, -BitVec.getLsbD_eq_getElem]))
  | limmh =>
    exact roundTrips_major hwf rfl (encLP_fields ..).2.1 ⟨rfl, rfl⟩ (takes_short (by simp) BitVec.and_zero (by simp))
  | limm => exact roundTrips_majorLong hwf rfl (encLP_fields ..).2.1 ⟨rfl, rfl⟩ takes_limm
  | cmp =>
    have hcond := of_decide_eq_true (check_of_wf hwf List.mem_cons_self)
    exact roundTrips_major hwf rfl (encCP_fields ..).2.1 ⟨rfl, rfl⟩ (takes_rowCP (if_pos hcond))
  | fcmp =>
    have hcond := of_decide_eq_true ((Bool.and_eq_true ..).mp (check_of_wf hwf List.mem_cons_self)).1
    exact roundTrips_major hwf rfl (encCP_fields ..).2.1 ⟨rfl, rfl⟩ (takes_rowCP (if_neg (Nat.not_lt.2 hcond)))
  | csrr => exact roundTrips_short rfl isAt_row16 takes_csrr rfl hwf
  | csrw => exact roundTrips_short rfl isAt_row16 takes_csrw rfl hwf
  | cmpi =>
    exact roundTrips_majorLong hwf rfl (encCP_fields ..).2.1 ⟨rfl, rfl⟩
      (takes_wide (by simp) (and_fieldMasks [(5, 5), (0, 1)] rfl (by simp)) BitVec.and_zero (by simp))
  | br | brl =>
    exact roundTrips_major hwf rfl (encBR_fields ..).2.1 ⟨rfl, rfl⟩ (takes_short (by simp) BitVec.and_zero (by simp))
  | loop =>
    exact roundTrips_major hwf rfl (encLP_fields ..).2.1 ⟨rfl, rfl⟩ (takes_short (by simp) BitVec.and_zero (by simp))
  | hint =>
    exact roundTrips_major hwf (p := encHint false _) rfl (encHint_fields ..).2.1 (maj := 0x3E) ⟨rfl, rfl⟩
      (takes_short (by simp) BitVec.and_zero (by simp))
  | hintLong =>
    exact roundTrips_majorLong hwf (p := encHint true _) rfl (encHint_fields ..).2.1 (maj := 0x3E) ⟨rfl, rfl⟩
      (takes_wide (by simp) BitVec.and_zero BitVec.and_zero (by simp))
  | sel => exact roundTrips_sel hwf
  | trap => exact roundTrips_rr hwf rfl ⟨rfl, rfl⟩ takes_trap
  | fence => exact roundTrips_rr hwf rfl ⟨rfl, rfl⟩ takes_fence
  | qclose => exact roundTrips_rr hwf rfl ⟨rfl, rfl⟩ takes_qclose
  | rdv => exact roundTrips_rr hwf rfl ⟨rfl, rfl⟩ takes_rdv
  | cfork => exact roundTrips_rr hwf rfl ⟨rfl, rfl⟩ takes_cfork
  | cforkLong => exact roundTrips_rrLong hwf rfl ⟨rfl, rfl⟩ takes_cforkLong
  | sigwait => exact roundTrips_rr hwf rfl ⟨rfl, rfl⟩ takes_sigwait
  | ltld => exact roundTrips_rr hwf rfl ⟨rfl, rfl⟩ takes_ltld
  | copy => exact roundTrips_rrLong hwf rfl ⟨rfl, rfl⟩ takes_copy
  | copyt => exact roundTrips_rrLong hwf rfl ⟨rfl, rfl⟩ takes_copyt
  | ctest => exact roundTrips_rrLong hwf rfl ⟨rfl, rfl⟩ takes_ctest
  | qfence => exact roundTrips_rrLong hwf rfl ⟨rfl, rfl⟩ takes_qfence
  | mldSparse => exact roundTrips_rrLong hwf rfl ⟨rfl, rfl⟩ takes_mldSparse
  | msld => exact roundTrips_rrLong hwf rfl ⟨rfl, rfl⟩ takes_msld
  | mladd => exact roundTrips_rrLong hwf rfl ⟨rfl, rfl⟩ takes_mladd
  | acvt => exact roundTrips_rrLong hwf rfl ⟨rfl, rfl⟩ takes_acvt
  | vld g d a sp => cases sp <;> exact roundTrips_rr hwf rfl ⟨rfl, rfl⟩ (takes_row2 (c := fun g d a => .vld g d a _))
  | vst g d a sp => cases sp <;> exact roundTrips_rr hwf rfl ⟨rfl, rfl⟩ (takes_row2 (c := fun g d a => .vst g d a _))
  | vldLong g d a sp => cases sp <;> exact roundTrips_rrLong hwf rfl ⟨rfl, rfl⟩ (takes_rowV2 (c := fun g d a => .vldLong g d a _))
  | vstLong g d a sp => cases sp <;> exact roundTrips_rrLong hwf rfl ⟨rfl, rfl⟩ (takes_rowV2 (c := fun g d a => .vstLong g d a _))
  | reel =>
    exact roundTrips_short (p := encReel false _ _ _ 0) rfl (isAt_reel (mn := 0) ⟨rfl, rfl⟩) takes_reel rfl hwf
  | reelx =>
    exact roundTrips_long (p := encReel true _ _ _ 1) rfl (isAt_reel (mn := 1) ⟨rfl, rfl⟩) takes_reelx rfl hwf
  | vldx g d a b ls sp =>
    rcases laneSliced_cases hwf List.mem_cons_self with ⟨rfl, rfl⟩ | ⟨rfl, rfl⟩ | ⟨rfl, rfl⟩ <;>
    exact roundTrips_rr hwf rfl ⟨rfl, rfl⟩ (takes_row3 (c := fun g d a b => .vldx g d a b _ _))
  | vstx g d a b ls sp =>
    rcases laneSliced_cases hwf List.mem_cons_self with ⟨rfl, rfl⟩ | ⟨rfl, rfl⟩ | ⟨rfl, rfl⟩ <;>
    exact roundTrips_rr hwf rfl ⟨rfl, rfl⟩ (takes_row3 (c := fun g d a b => .vstx g d a b _ _))
  | vldxLong g d a b ls sp m =>
    rcases laneSliced_cases hwf List.mem_cons_self with ⟨rfl, rfl⟩ | ⟨rfl, rfl⟩ | ⟨rfl, rfl⟩ <;>
    exact roundTrips_rrLong hwf rfl ⟨rfl, rfl⟩ (takes_rowV3 (c := fun g d a b => .vldxLong g d a b _ _))
  | vstxLong g d a b ls sp m =>
    rcases laneSliced_cases hwf List.mem_cons_self with ⟨rfl, rfl⟩ | ⟨rfl, rfl⟩ | ⟨rfl, rfl⟩ <;>
    exact roundTrips_rrLong hwf rfl ⟨rfl, rfl⟩ (takes_rowV3 (c := fun g d a b => .vstxLong g d a b _ _))
  | convoy => exact roundTrips_convoy hwf
  | _ => exact absurd rfl hne

/-- Settles O55: the row of each instruction takes its parcels, and no earlier refusal of the decoder applies. -/
theorem encodingRoundTrip : Obligations.EncodingRoundTrip := by
  intro site i hne hwf
  rcases roundTrips site i hne hwf with ⟨p, he, hp⟩ | ⟨p, q, he, hpq⟩
  · rw [he]
    exact hp
  · rw [he]
    exact hpq

end Sys2Proof
end

section
/-! PROOFS. Hints (R239) and a few words of the encodings: what they decode to. -/

namespace Sys2Proof

theorem decode_hint {site : Site} {p : Parcel} (q : Parcel) (hmaj : p.major = 0x3E) (hl : p.long = false) :
    decode site p q = .ok (.hint (p.at 0 25)) := by
  have hat : (Row.short 0 fun p => .hint (p.at 0 25)).IsAt .common p := Row.IsAt.of_major (maj := 0x3E) ⟨rfl, rfl⟩ hl hmaj rfl
  exact decode_of_takes rfl hat (takes_short hl BitVec.and_zero rfl)

theorem decode_hintLong {site : Site} {p : Parcel} (q : Parcel) (hmaj : p.major = 0x3E) (hl : p.long = true) :
    decode site p q = .ok (.hintLong (p.at 0 25) q) := by
  have hat : (Row.wide 0 0 fun p q => .hintLong (p.at 0 25) q).IsAt .common p := Row.IsAt.of_major (maj := 0x3E) ⟨rfl, rfl⟩ hl hmaj rfl
  exact decode_of_takes rfl hat (takes_wide hl BitVec.and_zero BitVec.and_zero rfl)

/-- Settles O59. -/
theorem hints : Obligations.Hints := fun _ _ q hmaj =>
  ⟨fun hl => ⟨_, decode_hint q hmaj hl, fun _ => rfl⟩, fun hl => ⟨_, decode_hintLong q hmaj hl, fun _ => rfl⟩, by decide⟩

/-- Settles O56. -/
theorem decodingWords : Obligations.DecodingWords := ⟨rfl, rfl, rfl, rfl, rfl, rfl⟩

end Sys2Proof
end

section
/-! PROOFS. A false guard (R217): every guarded meaning passes to the next packet. -/

namespace Sys2Proof.Machine

/-! ### Meanings under a guard -/

/-- Where the guard is false, the answer passes `len` bytes on and changes nothing else. -/
def PassesOn (g : Guard) (len : Nat) (s : State) (o : Answer) : Prop := s.guardTrue g = false → o = .next (s.retire len)

theorem passesOn_onGuard (g : Guard) (len : Nat) (f : State → Answer) (s : State) : PassesOn g len s (onGuard g len s f) := onGuard_false

theorem passesOn_run (g : Guard) (len : Nat) (c : Comp Unit) (s : State) : PassesOn g len s (run g len c s) := onGuard_false

theorem passesOn_settle (g : Guard) (len : Nat) (f : State → Except Stop State) (s : State) : PassesOn g len s (settle g len f s) :=
  onGuard_false

/-- On a supervisor core a privileged instruction has a guard as any other. -/
theorem passesOn_privileged (g : Guard) (f : State → Answer) {s : State} (hs : s.isSup = true) : PassesOn g 4 s (privileged g f s) :=
  fun hg => (if_pos hs).trans (onGuard_false hg)

theorem passesOn_alu1 (g : Guard) (d a : RegF) (f : Word → Word) (s : State) : PassesOn g 4 s (alu1 g d a f s) := onGuard_false

theorem passesOn_alu2 (g : Guard) (d a b : RegF) (f : Word → Word → Word) (s : State) :
    PassesOn g 4 s (alu2 g d a b f s) := onGuard_false

theorem passesOn_alu2f (g : Guard) (d a b : RegF) (f : Word → Word → Word × Flags) (s : State) : PassesOn g 4 s (alu2f g d a b f s) :=
  onGuard_false

theorem passesOn_fp1 (g : Guard) (d a : RegF) (f : Word → Word × Flags) (s : State) : PassesOn g 4 s (fp1 g d a f s) := onGuard_false

theorem passesOn_bitOp (g : Guard) (d : RegF) (f : State → Word) (s : State) : PassesOn g 8 s (bitOp g d f s) := onGuard_false

theorem passesOn_compare (g : Guard) (gt gf : BitVec 3) (a b : State → Word) (cond : BitVec 4) (len : Nat) (s : State) :
    PassesOn g len s (compare g gt gf a b cond len s) := onGuard_false

theorem passesOn_scalarLoad (g : Guard) (d : RegF) (addr : State → Word) (n : Nat) (signed : Bool) (s : State) :
    PassesOn g 4 s (scalarLoad g d addr n signed s) := passesOn_run _ _ _ s

theorem passesOn_scalarStore (g : Guard) (d : RegF) (addr : State → Word) (n : Nat) (s : State) :
    PassesOn g 4 s (scalarStore g d addr n s) := passesOn_run _ _ _ s

theorem passesOn_releaseStore (g : Guard) (d a : RegF) (n : Nat) (s : State) : PassesOn g 4 s (releaseStore g d a n s) :=
  passesOn_run _ _ _ s

theorem passesOn_amo (g : Guard) (d a b : RegF) (w : Bool) (f : Nat → Nat → Nat → Nat → Option Nat) (s : State) :
    PassesOn g 8 s (amo g d a b w f s) := passesOn_run _ _ _ s

theorem passesOn_forkClusters (len : Nat) (g : Guard) (mask : BitVec 4) (rs : List RegF) (s : State) :
    PassesOn g len s (forkClusters len g mask rs s) := onGuard_false

theorem passesOn_loadInstr (g : Guard) (len : Nat) (d a : RegF) (srcs : List VField) (ls sp : Bool) (m : VMods) (s : State) :
    PassesOn g len s (loadInstr g len d a srcs ls sp m s) := by
  cases sp with
  | true => exact passesOn_settle _ _ _ s
  | false => exact passesOn_run _ _ _ s

theorem passesOn_storeInstr (g : Guard) (len : Nat) (d a : RegF) (srcs : List VField) (ls sp : Bool) (m : VMods) (s : State) :
    PassesOn g len s (storeInstr g len d a srcs ls sp m s) := by
  cases sp with
  | true => exact passesOn_settle _ _ _ s
  | false => exact passesOn_run _ _ _ s

theorem passesOn_acvt (g : Guard) (d a fmt : RegF) (blk : BitVec 2) (rm : BitVec 3) (qd : Bool) (s : State) :
    PassesOn g 8 s (execAcvt g d a fmt blk rm qd s) := by
  cases qd with
  | true => exact passesOn_onGuard _ _ _ s
  | false => exact passesOn_settle _ _ _ s

/-! ### Every guarded row of the opcode table -/

section
variable {i : Instr} {g h : Guard} {s : State} {o : Answer} {p q : Parcel}

/-- A row of one parcel: the instruction's own guard and length are those of its meaning. -/
theorem PassesOn.short (ho : PassesOn g 4 s o) (he : encode i = [p]) (hi : guardOf i = some h) (hg : guardOf i = some g := by rfl) :
    PassesOn h (bytesOf i) s o := by
  obtain rfl := Option.some.inj (hi.symm.trans hg)
  rwa [bytesOf, he]

/-- A row of two parcels. -/
theorem PassesOn.long (ho : PassesOn g 8 s o) (he : encode i = [p, q]) (hi : guardOf i = some h) (hg : guardOf i = some g := by rfl) :
    PassesOn h (bytesOf i) s o := by
  obtain rfl := Option.some.inj (hi.symm.trans hg)
  rwa [bytesOf, he]
end

/-- Every guarded row passes on under a false guard; a privileged one on a supervisor core. -/
theorem exec_passesOn {i : Instr} {g : Guard} (hg : guardOf i = some g) (s : State) (hpriv : i.home = .privileged → s.isSup = true) :
    PassesOn g (bytesOf i) s (exec i s) := by
  unfold exec
  cases i with
  | add | sub | and | or | xor | andn | shl | shr | sra | ror | min | max | minu | maxu | mul | mulh | mulhu | fmin | fmax =>
    exact (passesOn_alu2 _ _ _ _ _ s).short rfl hg
  | adds | subs | shls | div | divu | rem | remu | muls | fadd | fsub | fmul => exact (passesOn_alu2f _ _ _ _ _ s).short rfl hg
  | clz | ctz | popc | addi | andi | ori | xori | shli | shri | srai | rori | fabs | fneg =>
    exact (passesOn_alu1 _ _ _ _ s).short rfl hg
  | fcvtf | fcvtfu | fcvti | fcvtiu => exact (passesOn_fp1 _ _ _ _ s).short rfl hg
  | bextu | bext | bins => exact (passesOn_bitOp _ _ _ s).long rfl hg
  | cmp | fcmp => exact (passesOn_compare _ _ _ _ _ _ _ s).short rfl hg
  | cmpi => exact (passesOn_compare _ _ _ _ _ _ _ s).long rfl hg
  | limmh | sel | fma | br | brl | jr | jrl | loop | fence | end_ | yield | bar | rdv | getts | trap | wid | pfl2 =>
    exact (passesOn_onGuard _ _ _ s).short rfl hg
  | limm => exact (passesOn_onGuard _ _ _ s).long rfl hg
  | ldb | ldbu | ldh | ldhu | ldw | ldwu | ldd | ldacq | ldacqw => exact (passesOn_scalarLoad _ _ _ _ _ s).short rfl hg
  | stb | sth | stw | std => exact (passesOn_scalarStore _ _ _ _ s).short rfl hg
  | strel | strelw => exact (passesOn_releaseStore _ _ _ _ s).short rfl hg
  | amoswap | amoadd | amoand | amoor | amoxor | amomin | amomax | amominu | amomaxu | cas =>
    exact (passesOn_amo _ _ _ _ _ _ s).long rfl hg
  | sigwait | sigset | taskq | shpost | vldq | vldsq | vldxq | vstq | vstsq | vstxq | sbind | tagrd | tagset | cbtld | mld | mldf | mst
  | mstf | ald | ast =>
    exact (passesOn_run _ _ _ s).short rfl hg
  | mldSparse => exact (passesOn_run _ _ _ s).long rfl hg
  | qpush | qpushu | qpushf | qpops | qpeek | qstat | qclose | csrr | csrw | setvlAccess | sunbind | cwait | cclr | setvl | setvcap
  | vtagr | vtagw | qpopv | vadd | vsub | vmul | vmin | vmax | vabs | vneg | vand | vor | vxor | vshl | vshr | vsra | vmov | vsplat
  | vextr | vscale | vexp2 | vlog2 | vrcp | vrsq | vredsum | vredmax | vredmin | vscan | vperm | kand | kor | kxor | kandn | knot
  | kmov | kfirst | kpop | mclaim | mclaimElastic | mrel | mzero | mrank | mtr | mdense | mma | mlmul | mlrc | azero =>
    exact (passesOn_settle _ _ _ s).short rfl hg
  | copy | copyt | ctest | qfence | vaddLong | vsubLong | vmulLong | vminLong | vmaxLong | vabsLong | vnegLong | vfma | vfms | vnfma
  | vandLong | vorLong | vxorLong | vshlLong | vshrLong | vsraLong | vcmp | vsel | vmovLong | vsplatLong | vextrLong | vcvt
  | vscaleLong | vexp2Long | vlog2Long | vrcpLong | vrsqLong | vssmx | vredsumLong | vredmaxLong | vredminLong | vscanLong
  | vpermLong | vslide | vcompress | vexpand | kandLong | korLong | kxorLong | kandnLong | knotLong | kmovLong | kfirstLong
  | kpopLong | msld | mladd =>
    exact (passesOn_settle _ _ _ s).long rfl hg
  | svret | rsave | rrest | tlbi | ltld | recode => exact (passesOn_privileged _ _ (hpriv rfl)).short rfl hg
  | cfork => exact (passesOn_forkClusters _ _ _ _ s).short rfl hg
  | cforkLong => exact (passesOn_forkClusters _ _ _ _ s).long rfl hg
  | vld | vldx => exact (passesOn_loadInstr _ _ _ _ _ _ _ _ s).short rfl hg
  | vldLong | vldxLong => exact (passesOn_loadInstr _ _ _ _ _ _ _ _ s).long rfl hg
  | vst | vstx => exact (passesOn_storeInstr _ _ _ _ _ _ _ _ s).short rfl hg
  | vstLong | vstxLong => exact (passesOn_storeInstr _ _ _ _ _ _ _ _ s).long rfl hg
  | acvt => exact (passesOn_acvt _ _ _ _ _ _ _ s).long rfl hg
  | _ => cases hg

/-- Settles O3, by the form of each row's meaning. -/
theorem falseGuardDoesNothing : Obligations.FalseGuardDoesNothing := fun _ _ s hg hpriv => exec_passesOn hg s hpriv

end Sys2Proof.Machine
end

section
/-! PROOFS. Compares and SEL (R222, R246, R252, R253): the conditions, the predicates that a compare writes and what it leaves unchanged. -/

namespace Sys2Proof.Machine

/-! ### Conditions -/

/-- In a format with IEEE NaNs a code is one where its exponent is all ones and its fraction is not zero (R52). -/
theorem Layout.isNan_decode {l : Layout} (h : l.nanKind = 2) (c : Nat) :
    (l.decode c).isNan = ((c >>> l.frac) % 2 ^ l.exp == 2 ^ l.exp - 1 && c % 2 ^ l.frac != 0) := by
  unfold Layout.decode
  cases hexp : (c >>> l.frac) % 2 ^ l.exp == 2 ^ l.exp - 1 with
  | true => cases hfrac : c % 2 ^ l.frac == 0 <;> simp_all [Val.isNan]
  | false => cases hzero : (c >>> l.frac) % 2 ^ l.exp == 0 <;> simp_all [Val.isNan]

theorem F32.isNan_val (x : F32) : x.val.isNan = decide (0x7F800000 < x.toNat % 2 ^ 31) := by
  rw [F32.val, Layout.isNan_decode rfl, Nat.shiftRight_eq_div_pow, Bool.eq_iff_iff]
  show (x.toNat / 2 ^ 23 % 2 ^ 8 == 2 ^ 8 - 1 && x.toNat % 2 ^ 23 != 0) = true ↔ _
  simp only [Bool.and_eq_true, beq_iff_eq, bne_iff_ne, decide_eq_true_eq]
  omega

/-- Bits [31:0] of a word hold a NaN where their FP32 value is one (R52). -/
theorem isNan_low (x : Word) : (F32.val (x.setWidth 32)).isNan = nan32 x := by
  rw [F32.isNan_val, nan32, BitVec.toNat_setWidth, Nat.mod_mod_of_dvd _ (by decide)]

theorem condition_int {c : BitVec 4} (hc : c.toNat < 8) (x y : Word) : condition c x y = (intCond c.toNat x y, 0) := by
  unfold condition intCond
  generalize c.toNat = n at hc
  interval_cases n <;> simp [BitVec.lt_def, BitVec.le_def, Bool.beq_eq_decide_eq, bne]

theorem condition_float {c : BitVec 4} (hlo : 8 ≤ c.toNat) (hhi : c.toNat < 13) (x y : Word) :
    condition c x y = floatCond c.toNat x y := by
  unfold condition floatCond
  generalize c.toNat = n at hlo hhi
  simp only [← BitVec.setWidth_eq_extractLsb' (show 32 ≤ 64 by decide), isNan_low]
  interval_cases n <;> simp [Flags.when]

/-! ### Predicates -/

/-- What a predicate reads after a write: g7 reads 1, and a write to it is discarded (R40, R222). -/
theorem Cluster.readG_writeG (x : Cluster) (p q : BitVec 3) (v : Bool) :
    (x.writeG p v).readG q = if q = 7#3 then true else if q = p then v else x.readG q := by
  have hbit : (1#8 <<< p.toNat).getLsbD q.toNat = decide (q = p) := by
    have hlt : q.toNat < 8 := q.isLt
    have hiff : q = p ↔ q.toNat = p.toNat := BitVec.toNat_inj.symm
    rw [BitVec.getLsbD_shiftLeft, BitVec.getLsbD_one, Bool.eq_iff_iff, decide_eq_true_iff, hiff]
    simp
    omega
  by_cases hq : q = 7#3
  · simp [hq, Cluster.readG]
  by_cases hp : p = 7#3
  · simp [hp, hq, Cluster.writeG]
  rw [Cluster.writeG, if_neg (by simpa using hp)]
  generalize 1#8 <<< p.toNat = m at hbit
  have hlt : q.toNat < 8 := q.isLt
  cases v <;> simp only [Cluster.readG, Bool.false_eq_true, if_false, if_true, BitVec.getLsbD_and, BitVec.getLsbD_or, BitVec.getLsbD_not,
    hbit, hlt] <;> by_cases h : q = p <;> simp [hq, h, hp]

theorem Cluster.writeG_eq (x : Cluster) (p : BitVec 3) (v : Bool) : x.writeG p v = { x with g := (x.writeG p v).g } := by
  unfold Cluster.writeG
  split <;> rfl

/-- The cluster after a compare: GT takes the condition and then GF its negation (R252). -/
def Cluster.compared (x : Cluster) (gt gf : BitVec 3) (r : Bool) : Cluster := (x.writeG gt r).writeG gf !r

theorem Cluster.compared_eq (x : Cluster) (gt gf : BitVec 3) (r : Bool) :
    x.compared gt gf r = { x with g := (x.compared gt gf r).g } := by
  unfold Cluster.compared
  rw [Cluster.writeG_eq (x.writeG gt r), Cluster.writeG_eq x]

theorem Cluster.retire_compared (x : Cluster) (gt gf : BitVec 3) (r : Bool) (len : Nat) :
    (x.compared gt gf r).retire len = { x.retire len with g := (x.compared gt gf r).g } := by
  rw [Cluster.compared_eq]
  refine (Cluster.retire_with x len x.s (x.compared gt gf r).g x.vl x.efc x.pend).trans ?_
  conv_rhs => rw [Cluster.retire_regs]

/-- What completing a compare does. -/
theorem State.compared_spec (s : State) (gt gf : BitVec 3) (r : Bool) (fl : Flags) (len : Nat) :
    PredResult s ((((s.writeG gt r).writeG gf !r).orFlags fl).retire len) gt gf r fl len := by
  have hu : (s.writeG gt r).writeG gf (!r) = s.modMe fun x => x.compared gt gf r := State.modMe_modMe ..
  rw [hu]
  have e1 := elsewhere_modMe s fun x => x.compared gt gf r
  have o1 := othersKept_modMe s fun x => x.compared gt gf r
  generalize hv : (s.modMe fun x => x.compared gt gf r) = v at e1 o1
  have hme : ((v.orFlags fl).retire len).me = { s.me.retire len with g := (s.me.compared gt gf r).g } := by
    rw [State.retire, State.me_modMe, State.me_orFlags, ← hv, State.me_modMe, Cluster.retire_compared]
  have e2 := elsewhere_orFlags v fl
  have e3 : Elsewhere (v.orFlags fl) ((v.orFlags fl).retire len) := elsewhere_modMe ..
  refine ⟨(e1.trans e2).trans e3, (o1.trans e1 (othersKept_orFlags v fl)).trans (e1.trans e2) (othersKept_modMe ..), ?passed,
    ?scalars, ?vl, ?efc, ?pend, fun p => ?predicates, fun hs => ?flags⟩
  case passed => refine ⟨?_, ?_, ?_, ?_, ?_⟩ <;> rw [hme] <;> simp
  case scalars | vl | efc | pend => rw [hme]; simp
  case predicates =>
    show ((v.orFlags fl).retire len).me.readG p = _
    rw [hme]
    show (s.me.compared gt gf r).readG p = _
    rw [Cluster.compared, Cluster.readG_writeG, Cluster.readG_writeG]
    by_cases h7 : p = 7#3 <;> simp [h7, State.readG]
  case flags =>
    have hvs : v.isSup = false := e1.isSup.trans hs
    rw [State.retire, State.flags_modMe (e2.isSup.trans hvs), State.flags_orFlags hvs, ← hv, State.flags_modMe hs]

/-- A compare whose guard holds completes with its condition's predicates and flags. -/
theorem compare_completes {s : State} {g : Guard} (hg : s.guardTrue g = true) (gt gf : BitVec 3) (a b : State → Word) {c : BitVec 4}
    (len : Nat) {r : Bool × Flags} (hr : condition c (a s) (b s) = r) :
    ∃ t, compare g gt gf a b c len s = .next t ∧ PredResult s t gt gf r.1 r.2 len := by
  subst hr
  exact ⟨_, onGuard_true hg, s.compared_spec ..⟩

theorem exec_sel_true {s : State} {g : Guard} (hg : s.guardTrue g = true) (d a b : RegF) (neg : Bool) (p : BitVec 3) :
    exec (.sel g d a b neg p) s = .next (s.result d (if s.readG p ^^ neg then s.readS a else s.readS b) 0 4) := by
  rw [← Bool.bne_eq_xor]
  exact (onGuard_true hg : execSel g d a b neg p s = _)

/-- Settles O4: each compare by its condition, SEL by the rule of a scalar result. -/
theorem compareAndSelect : Obligations.CompareAndSelect := by
  intro s g a b hg
  refine ⟨fun gt gf c hc => ⟨?cmp, fun imm => ?cmpi⟩, fun gt gf c hlo hhi => ?fcmp, fun d neg p => ?sel⟩
  case cmp => exact compare_completes hg gt gf (·.readS a) (·.readS b) 4 (condition_int hc _ _)
  case cmpi => exact compare_completes hg gt gf (·.readS a) (fun _ => imm.signExtend 64) 8 (condition_int hc _ _)
  case fcmp => exact compare_completes hg gt gf (·.readS a) (·.readS b) 4 (condition_float hlo hhi _ _)
  case sel => exact ⟨_, exec_sel_true hg .., s.result_spec ..⟩

end Sys2Proof.Machine
end

section
/-! PROOFS. Reels and convoys (R228 .. R231, R317): the parcels that are captured, what a reel and a convoy header do with them. -/

namespace Sys2Proof.Machine

/-! ### Captured parcels -/

theorem fetchesParcels_tail {s : State} {a : Agent} {va : Word} {p : Parcel} {ps : List Parcel} (h : s.FetchesParcels a va (p :: ps)) :
    s.FetchesParcels a (va + 4) ps := by
  have haddr (k : Nat) : va + BitVec.ofNat 64 (4 * (k + 1)) = va + 4 + BitVec.ofNat 64 (4 * k) := by
    rw [Nat.mul_add, Nat.add_comm, BitVec.ofNat_add, ← BitVec.add_assoc]
    rfl
  cases a <;> exact fun k hk => haddr k ▸ h (k + 1) (Nat.succ_lt_succ hk)

/-- Parcels that can be fetched are fetched in their order, and the fetch leaves no trace. -/
theorem fetchParcels_go {s : State} {va : Word} {ps : List Parcel} (h : s.FetchesParcels s.cur va ps) :
    Comp.go (fetchParcels va ps.length) s = (.ok ps, s) := by
  induction ps generalizing va with
  | nil => rfl
  | cons p ps ih =>
    have hp : Comp.go (fetchParcel va) s = (.ok p, s) := by simpa using fetchParcel_go h (k := 0) (Nat.zero_lt_succ _)
    rw [List.length_cons, fetchParcels, Comp.go_bind_ok hp, Comp.go_bind_ok (ih (fetchesParcels_tail h)), Comp.go_pure]

/-! ### REEL and REELX (R231, R317) -/

section
variable {s : State} {long : Bool} {g : Guard} {a : RegF} {elem : State → Word} {body : List Parcel}
  (hgo : Comp.go (fetchParcels (s.me.pc + BitVec.ofNat 64 (if long then 8 else 4)) body.length) s = (.ok body, s))
include hgo

/-- A body that the rule bars traps, whatever the guard and the trip count (R408). -/
theorem reelOf_barred {off r : Nat} (hb : bodyFault (body.length + 1) 0 body = some (off, r)) :
    reelOf long g body.length a elem s = .next (s.halt (.trap 0x0003 s.me.pc (at_ 16 off ||| at_ 23 r))) := by
  refine finish_error ?_
  dsimp only
  rw [Comp.go_bind_ok hgo, hb, Comp.go_throw]

theorem reelOf_skipped (hb : bodyFault (body.length + 1) 0 body = none) (hskip : s.guardTrue g = false ∨ s.readS a = 0) :
    reelOf long g body.length a elem s = .next (s.retire ((if long then 8 else 4) + 4 * body.length)) := by
  refine finish_ok ?_
  dsimp only
  rw [Comp.go_bind_ok hgo, hb]
  dsimp only
  rw [if_pos (by simpa using hskip), Comp.go_update]

theorem reelOf_captured (hb : bodyFault (body.length + 1) 0 body = none) (hg : s.guardTrue g = true) (ha : s.readS a ≠ 0) :
    reelOf long g body.length a elem s = .next (s.modMe fun x => { x.retire (if long then 8 else 4) with
      reel := some { rpc := s.me.pc, long := long, body := body, pos := 0, trips := s.readS a, elem := elem s } }) := by
  refine finish_ok ?_
  dsimp only
  rw [Comp.go_bind_ok hgo, hb]
  dsimp only
  rw [if_neg (by simpa [hg] using ha), Comp.go_update, State.retire, State.modMe_modMe]
end

/-- REEL and REELX by their common meaning. -/
theorem exec_reel (long : Bool) (g : Guard) (n : BitVec 6) (a b : RegF) (s : State) :
    exec (if long then .reelx g n a b else .reel g n a) s = reelOf long g (n.toNat + 1) a (fun s => if long then s.readS b else 0) s := by
  cases long <;> rfl

/-! ### Convoys (R228 .. R230) -/

theorem packetParcel_go {s : State} {slot : Nat} {c : Cl} (hc : s.cur = .cluster slot c) {k : Nat} {p : Parcel} (h : s.Packet slot k p) :
    Comp.go (packetParcel k) s = (.ok p, s) := by
  unfold packetParcel
  rw [Comp.go_bind_ok (Comp.go_get s)]
  unfold State.Packet at h
  cases hr : s.me.reel with
  | some r =>
    simp only [hr] at h ⊢
    rw [Comp.go_pure, h]
  | none =>
    simp only [hr] at h ⊢
    obtain ⟨x, hx, hq⟩ := h
    rw [fetchParcel, Comp.go_bind_ok (load_quiet hc hx hq), Comp.go_pure, BitVec.ofNat_toNat, BitVec.setWidth_eq]

/-- The members of a convoy from `j` on: each can be fetched and belongs to its unit. -/
def State.MembersFrom (s : State) (slot j : Nat) : List (BitVec 3) → List (Parcel × Parcel) → Prop
  | [], [] => True
  | u :: us, m :: ms =>
    s.Packet slot (1 + 2 * j) m.1 ∧ s.Packet slot (2 + 2 * j) m.2 ∧ memberFault u m = none ∧ s.MembersFrom slot (j + 1) us ms
  | _, _ => False

theorem State.membersFrom_of_getD {s : State} {slot j : Nat} {us : List (BitVec 3)} {ms : List (Parcel × Parcel)}
    (hl : us.length = ms.length)
    (h : ∀ k < ms.length, s.Packet slot (1 + 2 * (j + k)) (ms.getD k (0, 0)).1 ∧ s.Packet slot (2 + 2 * (j + k)) (ms.getD k (0, 0)).2
      ∧ memberFault (us.getD k 0) (ms.getD k (0, 0)) = none) :
    s.MembersFrom slot j us ms := by
  induction us generalizing j ms with
  | nil => cases ms with
    | nil => trivial
    | cons m ms => cases hl
  | cons u us ih => cases ms with
    | nil => cases hl
    | cons m ms =>
      obtain ⟨hp, hq, hu⟩ := h 0 (Nat.zero_lt_succ _)
      refine ⟨hp, hq, hu, ih (Nat.succ.inj hl) fun k hk => ?_⟩
      rw [Nat.add_assoc, Nat.add_comm 1 k]
      exact h (k + 1) (Nat.succ_lt_succ hk)

theorem convoyMembers_go {s : State} {slot : Nat} {c : Cl} (hc : s.cur = .cluster slot c) (hdr : Parcel) {j : Nat}
    {us : List (BitVec 3)} {ms : List (Parcel × Parcel)} (h : s.MembersFrom slot j us ms) :
    Comp.go (convoyMembers hdr j us) s = (.ok ms, s) := by
  induction us generalizing j ms with
  | nil => cases ms with
    | nil => rfl
    | cons m ms => exact h.elim
  | cons u us ih => cases ms with
    | nil => exact h.elim
    | cons m ms =>
      obtain ⟨hp, hq, hu, hms⟩ := h
      rw [convoyMembers, Comp.go_bind_ok (packetParcel_go hc hp), Comp.go_bind_ok (packetParcel_go hc hq), hu]
      dsimp only
      rw [Comp.go_bind_ok (ih hms), Comp.go_pure]

/-- A legal convoy issues its members. -/
theorem exec_convoy_legal {s : State} {slot : Nat} {c : Cl} (hc : s.cur = .cluster slot c) {n2 u0 u1 u2 u3 u4 u5 : BitVec 3}
    {ms : List (Parcel × Parcel)} (hn : n2.toNat + 2 ≤ 6) (hu : unitsFault (n2.toNat + 2) [u0, u1, u2, u3, u4, u5] = none)
    (h : s.MembersFrom slot 0 ([u0, u1, u2, u3, u4, u5].take (n2.toNat + 2)) ms) :
    exec (.convoy n2 u0 u1 u2 u3 u4 u5) s = .next (s.modMe fun x => x.issueConvoy ms) := by
  refine finish_ok ?_
  dsimp only
  rw [decide_eq_true hn, Comp.go_bind_ok (Comp.go_need_true ..), hu]
  dsimp only
  rw [Comp.go_bind_ok (convoyMembers_go hc _ h), Comp.go_update]

/-- A convoy that does not restart begins with its first member. -/
theorem Cluster.issueConvoy_fresh {x : Cluster} (hx : x.atConvoy = false) {ms : List (Parcel × Parcel)} (hms : 0 < ms.length) :
    x.issueConvoy ms = { x with
      run := .running, wait := none, start := [], atConvoy := true, convoy := some { members := ms, next := 0 } } := by
  have hopen : Cluster.openMember { x with run := .running, wait := none, start := [], atConvoy := true } ms.length 0 = 0 := by
    obtain ⟨k, hk⟩ := Nat.exists_eq_succ_of_ne_zero hms.ne'
    rw [Cluster.openMember, hk, Nat.sub_zero, List.range'_succ]
    rfl
  rw [Cluster.issueConvoy, hx, if_neg Bool.false_ne_true, Cluster.toMember]
  dsimp only
  rw [hopen, if_pos hms]

/-- Settles O33: reels by their captured body, convoys by the fetch of their members. -/
theorem reelsAndConvoys : Obligations.ReelsAndConvoys := by
  intro s slot g hc
  refine ⟨fun long n a b body hlen hread => ?reel, fun n2 u0 u1 u2 u3 u4 u5 ms hn hu hlen hms => ?convoy⟩
  case reel =>
    have hgo := fetchParcels_go (s := s) (ps := body) (by rw [hc]; exact hread)
    rw [exec_reel, ← hlen]
    exact ⟨fun hb => ⟨reelOf_captured hgo hb, reelOf_skipped hgo hb⟩, fun _ _ => reelOf_barred hgo⟩
  case convoy =>
    have hfrom : s.MembersFrom slot 0 ([u0, u1, u2, u3, u4, u5].take (n2.toNat + 2)) ms := by
      refine State.membersFrom_of_getD (by simp [hlen]; omega) fun k hk => ?_
      rw [hlen] at hk
      obtain ⟨hp, hq, hm⟩ := hms k hk
      rw [Nat.zero_add]
      refine ⟨hp, hq, ?_⟩
      rwa [List.getD_eq_getElem?_getD, List.getElem?_take_of_lt hk, ← List.getD_eq_getElem?_getD]
    refine ⟨_, exec_convoy_legal hc hn hu hfrom, rfl, fun hx => ?_⟩
    rw [State.me_modMe, Cluster.issueConvoy_fresh hx (by omega)]
    exact ⟨rfl, rfl, rfl⟩

end Sys2Proof.Machine
end

section
/-! PROOFS. Scalar loads of a context (R257 .. R259): the read that a load makes, and the register that takes its number. -/

namespace Sys2Proof.Machine

/-- A load whose read succeeds gives its register the number, extended. -/
theorem scalarLoad_ok {s u : State} {g : Guard} (hg : s.guardTrue g = true) {d : RegF} {addr : State → Word} {n v : Nat} {signed : Bool}
    (h : Comp.go (load .read (addr s) n) s = (.ok v, u)) :
    ∃ t, scalarLoad g d addr n signed s = .next t ∧ ScalarResult u t d (extend n signed v) 0 4 :=
  ⟨_, run_ok hg (Comp.go_bind_ok h), State.pass_spec ..⟩

/-- A load of a context reads memory into its register. -/
theorem loadsInto_of {s : State} {slot : Nat} {c : Cl} {g : Guard} {i : Instr} {d : RegF} {addr : State → Word} {n : Nat}
    {signed : Bool} (hc : s.cur = .cluster slot c) (hg : s.guardTrue g = true) (hi : exec i s = scalarLoad g d addr n signed s) :
    LoadsInto s slot i (addr s) d n signed := by
  intro x v z hr u
  have hagents : SameClusters s u := sameClusters_afterRead ..
  obtain ⟨-, hva, -⟩ := hr.1.spec
  obtain ⟨t, hexec, hres⟩ := scalarLoad_ok (d := d) (signed := signed) hg (load_go hc hr)
  refine ⟨t, hi.trans hexec, hres, hagents.me, hagents.1, fun hq hz => ?quiet⟩
  case quiet =>
    subst hz
    exact State.afterRead_quiet (by rw [hva, BitVec.ofNat_toNat, BitVec.setWidth_eq]) hq

/-- Settles O6: each instruction is one load, and the acquires have the address of their source register. -/
theorem scalarLoads_spec : Obligations.ScalarLoads := by
  intro s slot c g d a hc hg
  refine ⟨fun p hp off => ?load, fun sc => ⟨?acquire, ?acquireWord⟩⟩
  case load => exact loadsInto_of (addr := fun t => t.readS a + BitVec.ofInt 64 (off.toInt * p.2.1)) hc hg (exec_scalarLoad hp g d a off s)
  case acquire => exact loadsInto_of (addr := (·.readS a)) hc hg (rfl : _ = execLdacq g d a sc s)
  case acquireWord => exact loadsInto_of (addr := (·.readS a)) hc hg (rfl : _ = execLdacqw g d a sc s)

end Sys2Proof.Machine
end

section
/-! PROOFS. Branches (R220, R254, R255): where a jump goes, what it leaves as it is, and the trap of a misaligned target. -/

namespace Sys2Proof.Machine

/-! ### Jumps -/

/-- FLAGS do not belong to a cluster, nor to a core. -/
theorem State.myCtx_flags_modMe (s : State) (f : Cluster → Cluster) : (s.modMe f).myCtx.flags = s.myCtx.flags := by
  cases hs : s.isSup with
  | false => exact State.flags_modMe hs f
  | true =>
    have hctx := (elsewhere_modMe s f).2.1 s.slot (.inl hs)
    rw [State.myCtx, State.slot_modMe, hctx, State.myCtx]

/-- A jump after a write to a register, which may be the link or the count (R254, R255). -/
theorem State.writeS_jump_spec (s : State) (d : RegF) (v target : Word) :
    Jumped s ((s.writeS d v).jump target) target (s.regsWith d v) := by
  have hjump : (s.writeS d v).jump target = s.modMe fun x => { (x.writeS d v).proceed with pc := target } := State.modMe_modMe ..
  have hme : ((s.writeS d v).jump target).me = { s.me.proceed with pc := target, s := (s.me.writeS d v).s } := by
    rw [hjump, State.me_modMe, Cluster.writeS_eq]
    rfl
  have hflags : ((s.writeS d v).jump target).myCtx.flags = s.myCtx.flags := by rw [hjump, State.myCtx_flags_modMe]
  refine ⟨hjump ▸ elsewhere_modMe .., hjump ▸ othersKept_modMe .., ?pc, ?run, ?wait, ?kept, fun r => ?regs, hflags⟩
  case pc => exact congrArg Cluster.pc hme
  case run => exact congrArg Cluster.run hme
  case wait => exact congrArg Cluster.wait hme
  case kept => rw [hme]; exact ⟨rfl, rfl, rfl, rfl, rfl⟩
  case regs =>
    show ((s.writeS d v).jump target).me.readS r = _
    rw [hme]
    show (s.me.writeS d v).readS r = if r = d ∧ d ≠ 0 then v else s.me.readS r
    rw [Cluster.readS_writeS]
    by_cases hr : d = r
    · subst hr
      by_cases hd : d = 0#5 <;> simp [hd, Cluster.readS]
    · simp [hr, Ne.symm hr]

theorem State.jump_spec (s : State) (target : Word) : Jumped s (s.jump target) target s.readS := by
  have hjump : (s.writeS 0 0).jump target = s.jump target := State.modMe_modMe ..
  have hregs : s.regsWith 0 0 = s.readS := funext fun _ => if_neg fun h => h.2 rfl
  exact hjump ▸ hregs ▸ s.writeS_jump_spec 0 0 target

/-! ### Targets -/

theorem target_eq {n : Nat} (s : State) (disp : BitVec n) : target s disp = s.parcelsOn disp.toInt := by
  have h : disp.signExtend 64 <<< 2 = BitVec.ofInt 64 (4 * disp.toInt) := by
    rw [BitVec.shiftLeft_eq_mul_twoPow, BitVec.mul_comm, BitVec.ofInt_mul]
    rfl
  rw [target, h, State.parcelsOn]

theorem misaligned_iff (v : Word) : v.extractLsb' 0 2 ≠ 0 ↔ v.toNat % 4 ≠ 0 := by
  rw [Ne, ← BitVec.toNat_inj, BitVec.extractLsb'_toNat, Nat.shiftRight_zero]
  rfl

/-- The INFO of the trap: reason 0x0E on operand 1, and the low bits of the target (R410, R411). -/
theorem illegalOperand_target (v : Nat) :
    illegalOperand 0x0E v 1 = .trap 0x0010 0 (BitVec.ofNat 64 (14 * 2 ^ 16 + 1 * 2 ^ 29 + v % 2 ^ 32 * 2 ^ 32)) := by
  have hfixed : (at_ 16 0x0E ||| at_ 24 0 ||| at_ 29 1 : Word) = BitVec.ofNat 64 (14 * 2 ^ 16 + 1 * 2 ^ 29) := by decide
  have hor : BitVec.ofNat 64 (14 * 2 ^ 16 + 1 * 2 ^ 29) ||| at_ 32 (v % 2 ^ 32)
      = BitVec.ofNat 64 (14 * 2 ^ 16 + 1 * 2 ^ 29 + v % 2 ^ 32 * 2 ^ 32) := by
    rw [at_, ← BitVec.ofNat_or, Nat.or_comm, Nat.mul_comm (v % 2 ^ 32), ← Nat.two_pow_add_eq_or_of_lt (by decide), Nat.add_comm]
  rw [illegalOperand, hfixed, hor]

/-! ### The instructions -/

section
variable {s : State} {g : Guard} (hg : s.guardTrue g = true)
include hg

/-- LOOP whose count ends passes on, and otherwise goes to its target (R255). -/
theorem loop_spec (c : RegF) (disp : BitVec 16) :
    if s.readS c = 1 then ∃ t, exec (.loop g c disp) s = .next t ∧ ScalarResult s t c 0 0 4
    else ∃ t, exec (.loop g c disp) s = .next t ∧ Jumped s t (s.parcelsOn disp.toInt) (s.regsWith c (s.readS c - 1)) := by
  have hexec : exec (.loop g c disp) s = if s.readS c - 1 = 0 then .next ((s.writeS c (s.readS c - 1)).retire 4)
      else .next ((s.writeS c (s.readS c - 1)).jump (target s disp)) := (onGuard_true hg : execLoop g c disp s = _)
  have hcount : s.readS c - 1 = 0 ↔ s.readS c = 1 := sub_eq_zero
  split
  · rename_i hone
    rw [if_pos (hcount.2 hone), hcount.2 hone] at hexec
    exact ⟨_, hexec, State.pass_spec ..⟩
  · rename_i hmore
    rw [if_neg (mt hcount.1 hmore), target_eq] at hexec
    exact ⟨_, hexec, State.writeS_jump_spec ..⟩

theorem exec_jr (a : RegF) : exec (.jr g a) s =
    if (s.readS a).toNat % 4 ≠ 0 then .next (s.halt (illegalOperand 0x0E (s.readS a).toNat 1)) else .next (s.jump (s.readS a)) := by
  simp only [← misaligned_iff]
  exact (onGuard_true hg : execJr g a s = _)

theorem exec_jrl (d a : RegF) : exec (.jrl g d a) s =
    if (s.readS a).toNat % 4 ≠ 0 then .next (s.halt (illegalOperand 0x0E (s.readS a).toNat 1))
    else .next ((s.writeS d (s.me.pc + 4)).jump (s.readS a)) := by
  simp only [← misaligned_iff]
  exact (onGuard_true hg : execJrl g d a s = _)
end

/-- Settles O5: each branch is a jump, after the write of its link or its count. -/
theorem branches : Obligations.Branches := by
  intro s g hg
  refine ⟨fun disp => ⟨?br, ?brl⟩, fun a d ha => ⟨?jr, ?jrl⟩, fun a d ha => ⟨?trapped, ?linkTrapped⟩, loop_spec hg⟩
  case br =>
    rw [← target_eq]
    exact ⟨_, (onGuard_true hg : execBr g disp s = _), State.jump_spec ..⟩
  case brl =>
    rw [← target_eq]
    exact ⟨_, (onGuard_true hg : execBrl g disp s = _), State.writeS_jump_spec ..⟩
  case jr => exact ⟨_, (exec_jr hg a).trans (if_neg (not_not.2 ha)), State.jump_spec ..⟩
  case jrl => exact ⟨_, (exec_jrl hg d a).trans (if_neg (not_not.2 ha)), State.writeS_jump_spec ..⟩
  case trapped => rw [exec_jr hg, if_pos ha, illegalOperand_target]
  case linkTrapped => rw [exec_jrl hg, if_pos ha, illegalOperand_target]

end Sys2Proof.Machine
end

section
/-! PROOFS. Scalar arithmetic (R94, R247 .. R249, R256): the word and flags that each instruction computes, and its row in the tables. -/

namespace Sys2Proof.Machine

/-! ### Words (R247 .. R249) -/

section
variable (x y : Word) (n : Nat)

theorem sub_eq_ofInt : x - y = BitVec.ofInt 64 (x.toInt - y.toInt) := by
  rw [Int.sub_eq_add_neg, BitVec.ofInt_add, BitVec.ofInt_neg, BitVec.ofInt_toInt, BitVec.ofInt_toInt, BitVec.sub_eq_add_neg]

theorem addImm_eq_ofInt (i : BitVec 11) : x + imm11 i = BitVec.ofInt 64 (x.toInt + (i.signExtend 64).toInt) := by
  rw [BitVec.ofInt_add, BitVec.ofInt_toInt, BitVec.ofInt_toInt, imm11]

theorem shl_eq_ofNat : x <<< n = BitVec.ofNat 64 (x.toNat * 2 ^ n) := by
  rw [← Nat.shiftLeft_eq]; rfl

theorem shr_eq_ofNat : x >>> n = BitVec.ofNat 64 (x.toNat / 2 ^ n) := by
  rw [← Nat.shiftRight_eq_div_pow, ← BitVec.toNat_ushiftRight, BitVec.ofNat_toNat, BitVec.setWidth_eq]

theorem sra_eq_ofInt : x.sshiftRight n = BitVec.ofInt 64 (x.toInt / 2 ^ n) := by
  rw [BitVec.sshiftRight, Int.shiftRight_eq_div_pow, Nat.cast_pow]; rfl

theorem ror_eq_or {n : Nat} (hn : n < 64) : x.rotateRight n = x >>> n ||| x <<< (64 - n) := by
  rw [BitVec.rotateRight_def, Nat.mod_eq_of_lt hn]

/-- The shift amount is the number of bits [5:0] (R247). -/
theorem shamt_eq : shamt y = y.toNat % 64 := by
  rw [shamt, BitVec.extractLsb'_toNat, Nat.shiftRight_zero]

theorem min_eq_ofInt : (if x.toInt ≤ y.toInt then x else y) = BitVec.ofInt 64 (Min.min x.toInt y.toInt) := by
  rw [Int.min_def, apply_ite (BitVec.ofInt 64), BitVec.ofInt_toInt, BitVec.ofInt_toInt]

theorem max_eq_ofInt : (if x.toInt ≤ y.toInt then y else x) = BitVec.ofInt 64 (Max.max x.toInt y.toInt) := by
  rw [Int.max_def, apply_ite (BitVec.ofInt 64), BitVec.ofInt_toInt, BitVec.ofInt_toInt]

theorem minu_eq_ofNat : (if x ≤ y then x else y) = BitVec.ofNat 64 (Min.min x.toNat y.toNat) := by
  simp only [BitVec.le_def, Nat.min_def, apply_ite (BitVec.ofNat 64), BitVec.ofNat_toNat, BitVec.setWidth_eq]

theorem maxu_eq_ofNat : (if x ≤ y then y else x) = BitVec.ofNat 64 (Max.max x.toNat y.toNat) := by
  simp only [BitVec.le_def, Nat.max_def, apply_ite (BitVec.ofNat 64), BitVec.ofNat_toNat, BitVec.setWidth_eq]

theorem mul_eq_ofNat : x * y = BitVec.ofNat 64 (x.toNat * y.toNat) := by
  rw [BitVec.ofNat_mul, BitVec.ofNat_toNat, BitVec.ofNat_toNat, BitVec.setWidth_eq, BitVec.setWidth_eq]
end

/-- Saturation is the clamp to 64 signed bits, with SAT where it changes the value (R247). -/
theorem saturate64_eq (n : Int) : saturate64 n = clamp64 n := by
  unfold saturate64 clamp64
  by_cases hlo : n < -(2 ^ 63)
  · have hclamp : max (-(2 ^ 63)) (min (2 ^ 63 - 1) n) = -(2 ^ 63) := by omega
    rw [if_pos hlo, hclamp, decide_eq_true hlo]
    rfl
  by_cases hhi : 2 ^ 63 - 1 < n
  · have hclamp : max (-(2 ^ 63)) (min (2 ^ 63 - 1) n) = 2 ^ 63 - 1 := by omega
    rw [if_neg hlo, if_pos hhi, hclamp, decide_eq_true hhi, Bool.or_true]
    rfl
  · have hclamp : max (-(2 ^ 63)) (min (2 ^ 63 - 1) n) = n := by omega
    rw [if_neg hlo, if_neg hhi, hclamp, decide_eq_false hlo, decide_eq_false hhi]
    rfl

/-! ### Counts of bits (R247) -/

theorem clzAux_eq (a : Word) (n : Nat) : clzAux a n = ((List.range n).reverse.takeWhile fun i => !a.getLsbD i).length := by
  induction n with
  | zero => rfl
  | succ n ih =>
    rw [clzAux, List.range_succ, List.reverse_append, List.reverse_singleton, List.singleton_append, List.takeWhile_cons, ih]
    cases a.getLsbD n <;> rfl

theorem ctzAux_eq (a : Word) (i n : Nat) : ctzAux a i n = ((List.range' i n).takeWhile fun j => !a.getLsbD j).length := by
  induction n generalizing i with
  | zero => rfl
  | succ n ih =>
    rw [ctzAux, List.range'_succ, List.takeWhile_cons, ih]
    cases a.getLsbD i <;> rfl

theorem popAux_eq (a : Word) (n : Nat) : popAux a n = ((List.range n).filter fun i => a.getLsbD i).length := by
  induction n with
  | zero => rfl
  | succ n ih =>
    rw [popAux, List.range_succ, List.filter_append, List.length_append, ih]
    cases h : a.getLsbD n <;> simp [h]

/-! ### FP32 in bits [31:0] (R256) -/

theorem fpArg_eq (x : Word) : fpArg x = x.setWidth 32 := (BitVec.setWidth_eq_extractLsb' (by decide)).symm

theorem setWidth_low32 (x : Word) : (x.setWidth 32).setWidth 64 = x &&& 0xFFFFFFFF := by
  apply BitVec.eq_of_toNat_eq
  have hlow : x.toNat &&& 0xFFFFFFFF = x.toNat % 2 ^ 32 := Nat.and_two_pow_sub_one_eq_mod x.toNat 32
  rw [BitVec.toNat_and, BitVec.toNat_setWidth, BitVec.toNat_setWidth]
  show _ = x.toNat &&& 0xFFFFFFFF
  omega

theorem f32Abs_low (x : Word) : (f32Abs (fpArg x)).setWidth 64 = if nan32 x then 0x7FC00000 else x &&& 0x7FFFFFFF := by
  rw [f32Abs, fpArg_eq, isNan_low, apply_ite (BitVec.setWidth 64), BitVec.setWidth_and, setWidth_low32, BitVec.and_assoc]
  rfl

theorem f32Neg_low (x : Word) :
    (f32Neg (fpArg x)).setWidth 64 = if nan32 x then 0x7FC00000 else (x &&& 0xFFFFFFFF) ^^^ 0x80000000 := by
  rw [f32Neg, fpArg_eq, isNan_low, apply_ite (BitVec.setWidth 64), BitVec.setWidth_xor, setWidth_low32]
  rfl

/-! ### Rows and their tables -/

section
variable {g : Guard} {d a b : RegF} {s : State}

/-- Two sources and no flag. -/
theorem alu2_eq {f : Word → Word → Word} {h : Word → Word → Word × Flags} (e : ∀ x y, (f x y, 0) = h x y) :
    alu2 g d a b f s = alu2f g d a b h s := by
  rw [← funext fun x => funext (e x)]
  rfl

theorem alu2f_eq {f h : Word → Word → Word × Flags} (e : ∀ x y, f x y = h x y) : alu2f g d a b f s = alu2f g d a b h s := by
  rw [← funext fun x => funext (e x)]

/-- One source and no flag. -/
theorem alu1_eq {f : Word → Word} {h : Word → Word × Flags} (e : ∀ x, (f x, 0) = h x) : alu1 g d a f s = fp1 g d a h s := by
  rw [← funext e]
  rfl

theorem fp1_eq {f h : Word → Word × Flags} (e : ∀ x, f x = h x) : fp1 g d a f s = fp1 g d a h s := by
  rw [← funext e]
end

/-- The rows `sd, sa, sb` of R247. -/
theorem exec_scalarTwo {p : (Guard → RegF → RegF → RegF → Instr) × (Word → Word → Word × Flags)} (hp : p ∈ scalarTwo) (g : Guard)
    (d a b : RegF) (s : State) : exec (p.1 g d a b) s = alu2f g d a b p.2 s := by
  simp only [scalarTwo, List.mem_cons, List.not_mem_nil, or_false] at hp
  rcases hp with rfl | rfl | rfl | rfl | rfl | rfl | rfl | rfl | rfl | rfl | rfl | rfl | rfl | rfl | rfl | rfl | rfl
  · exact (alu2_eq fun x y => by rw [BitVec.add_def] : execAdd g d a b s = _)
  · exact (alu2_eq fun x y => by rw [sub_eq_ofInt] : execSub g d a b s = _)
  · exact (alu2_eq fun _ _ => rfl : execAnd g d a b s = _)
  · exact (alu2_eq fun _ _ => rfl : execOr g d a b s = _)
  · exact (alu2_eq fun _ _ => rfl : execXor g d a b s = _)
  · exact (alu2_eq fun _ _ => rfl : execAndn g d a b s = _)
  · exact (alu2_eq fun x y => by rw [shl_eq_ofNat, shamt_eq] : execShl g d a b s = _)
  · exact (alu2_eq fun x y => by rw [shr_eq_ofNat, shamt_eq] : execShr g d a b s = _)
  · exact (alu2_eq fun x y => by rw [sra_eq_ofInt, shamt_eq] : execSra g d a b s = _)
  · exact (alu2_eq fun x y => by rw [shamt_eq, ror_eq_or x (Nat.mod_lt _ (by decide))] : execRor g d a b s = _)
  · exact (alu2_eq fun x y => by rw [min_eq_ofInt] : execMin g d a b s = _)
  · exact (alu2_eq fun x y => by rw [max_eq_ofInt] : execMax g d a b s = _)
  · exact (alu2_eq fun x y => by rw [minu_eq_ofNat] : execMinu g d a b s = _)
  · exact (alu2_eq fun x y => by rw [maxu_eq_ofNat] : execMaxu g d a b s = _)
  · exact (alu2f_eq fun _ _ => saturate64_eq _ : execAdds g d a b s = _)
  · exact (alu2f_eq fun _ _ => saturate64_eq _ : execSubs g d a b s = _)
  · exact (alu2f_eq fun x y => by rw [saturate64_eq, shamt_eq] : execShls g d a b s = _)

/-- The products and quotients of R249. -/
theorem exec_scalarMul {p : (Guard → RegF → RegF → RegF → Instr) × (Word → Word → Word × Flags)} (hp : p ∈ scalarMul) (g : Guard)
    (d a b : RegF) (s : State) : exec (p.1 g d a b) s = alu2f g d a b p.2 s := by
  simp only [scalarMul, List.mem_cons, List.not_mem_nil, or_false] at hp
  rcases hp with rfl | rfl | rfl | rfl | rfl | rfl | rfl | rfl
  · exact (alu2_eq fun x y => by rw [mul_eq_ofNat] : execMul g d a b s = _)
  · exact (alu2_eq fun _ _ => rfl : execMulh g d a b s = _)
  · exact (alu2_eq fun _ _ => rfl : execMulhu g d a b s = _)
  · exact (alu2f_eq fun _ _ => saturate64_eq _ : execMuls g d a b s = _)
  · exact (alu2f_eq fun _ _ => rfl : execDiv g d a b s = _)
  · exact (alu2f_eq fun _ _ => rfl : execDivu g d a b s = _)
  · exact (alu2f_eq fun _ _ => rfl : execRem g d a b s = _)
  · exact (alu2f_eq fun _ _ => rfl : execRemu g d a b s = _)

/-- The FP32 rows of two sources (R256). -/
theorem exec_scalarFp2 {p : (Guard → RegF → RegF → RegF → Instr) × (F32 → F32 → F32 × Flags)} (hp : p ∈ scalarFp2) (g : Guard)
    (d a b : RegF) (s : State) :
    exec (p.1 g d a b) s = alu2f g d a b (fun x y => fpResult (p.2 (x.setWidth 32) (y.setWidth 32))) s := by
  simp only [scalarFp2, List.mem_cons, List.not_mem_nil, or_false] at hp
  rcases hp with rfl | rfl | rfl | rfl | rfl
  · exact (alu2f_eq fun x y => by rw [fpArg_eq, fpArg_eq] : execFadd g d a b s = _)
  · exact (alu2f_eq fun x y => by rw [fpArg_eq, fpArg_eq] : execFsub g d a b s = _)
  · exact (alu2f_eq fun x y => by rw [fpArg_eq, fpArg_eq] : execFmul g d a b s = _)
  · exact (alu2_eq fun x y => by rw [fpArg_eq, fpArg_eq] : execFmin g d a b s = _)
  · exact (alu2_eq fun x y => by rw [fpArg_eq, fpArg_eq] : execFmax g d a b s = _)

/-- The rows `sd, sa` of R247 and R256. -/
theorem exec_scalarOne {p : (Guard → RegF → RegF → Instr) × (Word → Word × Flags)} (hp : p ∈ scalarOne) (g : Guard) (d a : RegF)
    (s : State) : exec (p.1 g d a) s = fp1 g d a p.2 s := by
  simp only [scalarOne, List.mem_cons, List.not_mem_nil, or_false] at hp
  rcases hp with rfl | rfl | rfl | rfl | rfl | rfl | rfl | rfl | rfl
  · exact (alu1_eq fun x => by rw [clzAux_eq] : execClz g d a s = _)
  · exact (alu1_eq fun x => by rw [ctzAux_eq, ← List.range_eq_range'] : execCtz g d a s = _)
  · exact (alu1_eq fun x => by rw [popAux_eq] : execPopc g d a s = _)
  · exact (fp1_eq fun _ => rfl : execFcvtf g d a s = _)
  · exact (fp1_eq fun _ => rfl : execFcvtfu g d a s = _)
  · exact (fp1_eq fun x => by rw [fpArg_eq] : execFcvti g d a s = _)
  · exact (fp1_eq fun x => by rw [fpArg_eq] : execFcvtiu g d a s = _)
  · exact (alu1_eq fun x => by rw [f32Abs_low] : execFabs g d a s = _)
  · exact (alu1_eq fun x => by rw [f32Neg_low] : execFneg g d a s = _)

/-- The rows `sd, sa, imm11` of R248. -/
theorem exec_scalarImm {p : (Guard → RegF → RegF → BitVec 11 → Instr) × (Word → Word → Word)} (hp : p ∈ scalarImm) (g : Guard)
    (d a : RegF) (i : BitVec 11) (s : State) : exec (p.1 g d a i) s = fp1 g d a (fun x => (p.2 x (i.signExtend 64), 0)) s := by
  simp only [scalarImm, List.mem_cons, List.not_mem_nil, or_false] at hp
  rcases hp with rfl | rfl | rfl | rfl
  · exact (alu1_eq fun x => by rw [addImm_eq_ofInt] : execAddi g d a i s = _)
  · exact (alu1_eq fun _ => rfl : execAndi g d a i s = _)
  · exact (alu1_eq fun _ => rfl : execOri g d a i s = _)
  · exact (alu1_eq fun _ => rfl : execXori g d a i s = _)

/-- The rows `sd, sa, imm6` of R248. -/
theorem exec_scalarShift {p : (Guard → RegF → RegF → BitVec 6 → Instr) × (Word → Nat → Word)} (hp : p ∈ scalarShift) (g : Guard)
    (d a : RegF) (n : BitVec 6) (s : State) : exec (p.1 g d a n) s = fp1 g d a (fun x => (p.2 x n.toNat, 0)) s := by
  simp only [scalarShift, List.mem_cons, List.not_mem_nil, or_false] at hp
  rcases hp with rfl | rfl | rfl | rfl
  · exact (alu1_eq fun x => by rw [shl_eq_ofNat] : execShli g d a n s = _)
  · exact (alu1_eq fun x => by rw [shr_eq_ofNat] : execShri g d a n s = _)
  · exact (alu1_eq fun x => by rw [sra_eq_ofInt] : execSrai g d a n s = _)
  · exact (alu1_eq fun x => by rw [ror_eq_or x n.isLt] : execRori g d a n s = _)

/-! ### What the rows do -/

section
variable {s : State} {g : Guard} (hg : s.guardTrue g = true) {i : Instr} {d a b : RegF}
include hg

theorem alu2f_completes {f : Word → Word → Word × Flags} (hi : exec i s = alu2f g d a b f s) :
    ∃ t, exec i s = .next t ∧ ScalarResult s t d (f (s.readS a) (s.readS b)).1 (f (s.readS a) (s.readS b)).2 4 :=
  ⟨_, hi.trans (onGuard_true hg), s.result_spec ..⟩

theorem fp1_completes {f : Word → Word × Flags} (hi : exec i s = fp1 g d a f s) :
    ∃ t, exec i s = .next t ∧ ScalarResult s t d (f (s.readS a)).1 (f (s.readS a)).2 4 :=
  ⟨_, hi.trans (onGuard_true hg), s.result_spec ..⟩

theorem exec_fma_true (d a b : RegF) : exec (.fma g d a b) s =
    let r := f32Fma ((s.readS a).setWidth 32) ((s.readS b).setWidth 32) ((s.readS d).setWidth 32)
    .next (s.result d (r.1.setWidth 64) r.2 4) := by
  simp only [← fpArg_eq]
  exact (onGuard_true hg : execFma g d a b s = _)
end

/-- Settles O1: each row computes the word and flags of its table, and completes with them. -/
theorem scalarArithmetic : Obligations.ScalarArithmetic := by
  refine ⟨fun p hp s g d a b hg => ?two, fun p hp s g d a b hg => ?product,
    ⟨fun p hp s g d a hg => ?one, fun p hp s g d a i hg => ?immediate, fun p hp s g d a n hg => ?shift⟩,
    fun p hp s g d a b hg => ?real, fun s g d a b hg => ?fused⟩
  case two => exact alu2f_completes hg (exec_scalarTwo hp g d a b s)
  case product => exact alu2f_completes hg (exec_scalarMul hp g d a b s)
  case one => exact fp1_completes hg (exec_scalarOne hp g d a s)
  case immediate => exact fp1_completes hg (exec_scalarImm hp g d a i s)
  case shift => exact fp1_completes hg (exec_scalarShift hp g d a n s)
  case real => exact alu2f_completes hg (exec_scalarFp2 hp g d a b s)
  case fused => exact ⟨_, exec_fma_true hg d a b, s.result_spec ..⟩

end Sys2Proof.Machine
end

section
/-! PROOFS. Bit fields and long constants (R250, R251): the number and the bits of a field, and the constant above another. -/

namespace Sys2Proof.Machine

theorem bitOp_true {s : State} {g : Guard} (hg : s.guardTrue g = true) (d : RegF) (f : State → Word) :
    bitOp g d f s = .next (s.result d (f s) 0 8) := onGuard_true hg

/-- The number of a field is that of its low bits, sign-extended (R251). -/
theorem toSigned_bitField (a : Word) (l w : Nat) :
    toSigned (w + 1) (bitField a l (w + 1))
      = if a.toNat / 2 ^ l % 2 ^ (w + 1) < 2 ^ (w + 1 - 1) then ((a.toNat / 2 ^ l % 2 ^ (w + 1) : Nat) : Int)
        else ((a.toNat / 2 ^ l % 2 ^ (w + 1) : Nat) : Int) - 2 ^ (w + 1) := by
  simp only [toSigned, bitField, Nat.mod_mod]

/-- `n` bits from bit `l` on are one, and no others. -/
theorem getLsbD_fieldMask (l n i : Nat) (hi : i < 64) :
    (BitVec.ofNat 64 ((2 ^ n - 1) * 2 ^ l)).getLsbD i = (decide (l ≤ i) && decide (i - l < n)) := by
  rw [BitVec.getLsbD_ofNat, Nat.testBit_mul_two_pow, Nat.testBit_two_pow_sub_one]
  simp [hi]

/-- A field of a word is replaced by the low bits of another (R251). -/
theorem getLsbD_insertField (x y : Word) (l n i : Nat) (hi : i < 64) :
    ((x &&& ~~~BitVec.ofNat 64 ((2 ^ n - 1) * 2 ^ l)) ||| ((y <<< l) &&& BitVec.ofNat 64 ((2 ^ n - 1) * 2 ^ l))).getLsbD i
      = if l ≤ i ∧ i < l + n then y.getLsbD (i - l) else x.getLsbD i := by
  rw [BitVec.getLsbD_or, BitVec.getLsbD_and, BitVec.getLsbD_and, BitVec.getLsbD_not, BitVec.getLsbD_shiftLeft, getLsbD_fieldMask l n i hi]
  by_cases hin : l ≤ i ∧ i < l + n
  · have hn : i - l < n := by omega
    simp [hin, hn, hi]
  · have hout : (decide (l ≤ i) && decide (i - l < n)) = false := by simp; omega
    simp [hin, hout, hi]

/-- The constant of LIMMH above the low bits of its register (R250). -/
theorem append_low48 (imm : BitVec 16) (x : Word) :
    (imm ++ x.extractLsb' 0 48 : Word) = BitVec.ofNat 64 (imm.toNat * 2 ^ 48 + x.toNat % 2 ^ 48) := by
  have himm : imm.toNat < 2 ^ 16 := imm.isLt
  apply BitVec.eq_of_toNat_eq
  rw [BitVec.toNat_append, BitVec.extractLsb'_toNat, Nat.shiftRight_zero, ← Nat.shiftLeft_add_eq_or_of_lt (Nat.mod_lt _ (by decide)),
    Nat.shiftLeft_eq, BitVec.toNat_ofNat]
  exact (Nat.mod_eq_of_lt (by omega)).symm

/-- Settles O2: each instruction completes with the field, the inserted field or the constant. -/
theorem bitFieldsAndConstants : Obligations.BitFieldsAndConstants := by
  intro s g d a hg
  refine ⟨fun l w _ => ⟨?extract, ?signed, ?insert⟩, fun imm => ?constant, fun imm => ?high⟩
  case extract => exact ⟨_, (bitOp_true hg .. : execBextu g d a l w s = _), s.result_spec ..⟩
  case signed =>
    rw [← toSigned_bitField]
    exact ⟨_, (bitOp_true hg .. : execBext g d a l w s = _), s.result_spec ..⟩
  case insert => exact ⟨_, _, (bitOp_true hg .. : execBins g d a l w s = _), s.result_spec .., fun i => getLsbD_insertField _ _ _ _ i⟩
  case constant => exact ⟨_, (onGuard_true hg : execLimm g d imm s = _), s.result_spec ..⟩
  case high =>
    rw [← append_low48]
    exact ⟨_, (onGuard_true hg : execLimmh g d imm s = _), s.result_spec ..⟩

end Sys2Proof.Machine
end

section
/-! PROOFS. Line tags (R67, R287 .. R289): the tag that TAGRD reads, and the line that TAGSET writes. -/

namespace Sys2Proof.Machine

/-- An access through a cached translation to a clean line leaves no trace. -/
theorem State.Admits.accessed_quiet {s : State} {slot : Nat} {k : MemKind} {va : Word} {al : Bool} {x : Xlate}
    (h : s.Admits slot k va al x) (hq : s.Quiet slot x) : s.accessed slot va x = s :=
  State.accessed_quiet (by rw [h.spec.2.1, BitVec.ofNat_toNat, BitVec.setWidth_eq]) hq

/-! ### Reading a tag -/

/-- The tag that a context reads of a line: as a typed page's readers see it, or the one of an untyped page (R127, R287). -/
def State.seenTag (s : State) (slot : Nat) (x : Xlate) : LineTag :=
  if x.typed = true ∧ s.region x.pa ≠ .creel then (s.seenLine slot x).tag.norm x.par.w else .untyped x.par.expf

theorem readTag_go {s : State} {slot : Nat} {c : Cl} {d a : RegF} {x : Xlate} (hc : s.cur = .cluster slot c)
    (h : s.Admits slot .tagRead (s.readS a) true x) :
    let u := s.accessed slot (s.readS a) x
    Comp.go (readTag d a) s = (.ok (), u.writeS d (u.seenTag slot x).word) := by
  intro u
  unfold readTag
  rw [Comp.go_bind_ok (Comp.go_get s), State.slot_of_cluster hc, Comp.go_bind_ok (openAccess_go h), Comp.go_bind_ok (Comp.go_get _)]
  simp only [State.seenTag, Bool.and_eq_true, bne_iff_ne, Comp.go_set]
  rfl

/-! ### Setting a tag -/

/-- A line write gives its line the line's tag, and leaves the others. -/
theorem State.tagAt_putLine (s : State) (pa : Nat) (l : Line) (p : Nat) :
    (s.putLine pa l).tagAt p = if p / 128 = pa / 128 then l.tag else s.tagAt p := by
  have htags : (s.putLine pa l).tags = s.tags.set .wiped (pa / 128) l.tag := by
    unfold State.putLine State.clearPm
    dsimp only
    split <;> rfl
  rw [State.tagAt, htags, SMap.get_set]
  simp only [eq_comm (a := pa / 128), State.tagAt]

section
variable {s : State} {x : Xlate} (ht : x.typed = true) (hf : x.entry.folded = false) (hr : s.region x.pa ≠ .host)
include ht hf hr

/-- The line of a typed page that is not folded goes to its frame with its tag. -/
theorem State.putPageLine_typed (l : Line) : s.putPageLine x l = s.putLine x.pa l := by
  have hpar : x.par.typed = true := ht
  simp [State.putPageLine, hr, hpar, hf]

theorem State.tagAt_writeLine (slot : Nat) (l : Line) (p : Nat) :
    (s.writeLine slot x l).tagAt p = if p / 128 = x.pa / 128 then l.tag else s.tagAt p := by
  rw [← State.tagAt_putLine, ← State.putPageLine_typed ht hf hr]
  rfl
end

/-- A line that is written with another tag alone keeps every byte. -/
theorem State.byteAt_writeLine_retag (s : State) {x : Xlate} (hf : x.entry.folded = false) (slot : Nat) (t : LineTag) (a : Nat) :
    (s.writeLine slot x { s.pageLine x with tag := t }).byteAt a = s.byteAt a := by
  rw [writeLine_byteAt _ _ _ _ (.inr hf)]
  split
  · rename_i hline
    rw [pageLine_bytes _ _ (.inr hf), lineAt_byte _ _ _ (by omega)]
    congr 1; omega
  · rfl

/-- TAGSET where every check passes: the line stands in memory with its new tag (R288). -/
theorem writeTag_go {s : State} {slot : Nat} {c : Cl} {a b : RegF} {x : Xlate} (hc : s.cur = .cluster slot c)
    (hok : tagOk (s.readS b) = true) (h : s.Admits slot .tagWrite (s.readS a) true x) (hq : s.Quiet slot x)
    (hcreel : s.region x.pa ≠ .creel) (ht : x.typed = true) (hf : x.entry.folded = false)
    (hclass : (s.seenLine slot x).tag.cls x.typed x.par.w ≠ .transit) (hp : (s.ctx slot).provisional = false)
    {m : LineTag} (hm : ({ desc := (s.readS b).extractLsb' 0 16, sc := (s.readS b).extractLsb' 16 32 } : LineTag) = m)
    (hfits : slotHolds m.fmt x.par.w = true) :
    Comp.go (writeTag a b) s = (.ok (), s.writeLine slot x { s.pageLine x with tag := m.norm x.par.w }) := by
  have hply (l : Line) : s.plyConflict x l = false := by simp [State.plyConflict, hf]
  have hlate : s.storesLate slot x = false := by simp [State.storesLate, ht]
  have hacc := h.accessed_quiet hq
  obtain ⟨-, -, hd, hu, -⟩ := hq
  unfold writeTag
  rw [Comp.go_bind_ok (Comp.go_get s)]
  dsimp only
  rw [hm, firstOf_ok (allowed_cons.2 ⟨hok, allowed_nil⟩), Comp.go_bind_ok (Comp.go_ofStop_ok s ()), State.slot_of_cluster hc,
    Comp.go_bind_ok (openAccess_go h), hacc, Comp.go_bind_ok (Comp.go_get s), seenLine_of_confirmed hp]
  rw [seenLine_of_confirmed hp, ht] at hclass
  simp only [ht, hclass, hply, hcreel, hfits, beq_iff_eq, Bool.not_true,
    Bool.false_eq_true, Bool.true_and, if_false]
  rw [commitLine_confirmed hp hlate, Comp.go_bind_ok (Comp.go_ofStop_ok s _), Comp.go_set, State.useXlate_quiet _ { x with walked := false } rfl hd hu]

/-- Settles O35: the three instructions, by what their accesses do. -/
theorem lineTags : Obligations.LineTags := by
  intro s slot c g d a b x hc hg
  refine ⟨fun h => ?read, ?set, ?prefetch⟩
  case read =>
    exact ⟨_, (run_ok hg (readTag_go hc h) : execTagrd g d a s = _), State.pass_spec ..⟩
  case set =>
    intro v m hok h _ hq hcreel hhost ht hf hclass hfits hp
    rw [State.myCtx_of_cluster hc] at hp
    have hgo := writeTag_go hc hok h hq hcreel ht hf hclass hp rfl hfits
    refine ⟨_, (run_ok hg hgo : execTagset g a b s = _),
      onlyCompleted_retire (State.isSup_of_cluster hc) (sameAgents_writeLine ..) 4, fun p => ?_, fun p => ?_⟩
    · rw [State.byteAt, State.retire, State.modMe_mem]
      exact State.byteAt_writeLine_retag s hf slot _ p
    · rw [State.tagAt, State.retire, State.modMe_tags]
      exact State.tagAt_writeLine ht hf hhost slot _ p
  case prefetch => exact (onGuard_true hg : execPfl2 g a b s = _)

end Sys2Proof.Machine
end

section
/-! PROOFS. Stream bindings (R275, R277, R279): the descriptor that SBIND reads, and the queue that SBIND and SUNBIND leave. -/

namespace Sys2Proof.Machine

/-- A read of a cluster that leaves no trace and gives its instruction nothing to note. -/
theorem loadQuiet_quiet {s : State} {slot : Nat} {c : Cl} (hc : s.cur = .cluster slot c) {k : MemKind} {va : Word} {n : Nat} {x : Xlate}
    {v : Nat} (h : s.Reads slot k va n x v false) (hq : s.Quiet slot x) : Comp.go (loadQuiet k va n) s = (.ok (v, []), s) := by
  unfold loadQuiet
  rw [Comp.go_bind_ok (Comp.go_get s)]
  simp only [hc]
  rw [ctxRead_go h, h.1.accessed_quiet hq, State.noteOutside_elsewhere _ _ _ _ _ _ (by rw [hq.2.2.2.2.2, Bool.and_false])]
  rfl

theorem noteMine_nil {s : State} {slot : Nat} {c : Cl} (hc : s.cur = .cluster slot c) : Comp.go (noteMine []) s = (.ok (), s) := by
  unfold noteMine
  rw [Comp.go_bind_ok (Comp.go_get s)]
  simp only [hc]
  rfl

/-- The two checks of SBIND behind the read of its descriptor: the descriptor, then the queue (R275, R277). -/
def Queue.bindChecks (x : Queue) (q : Nat) (l : List Byte) : List (Bool × Stop) :=
  [(streamOk l, illegalOperand 0x10 q 4), (x.entries.isEmpty && x.unplaced.isEmpty, .wait (.bindEmpty q))]

section
variable {s : State} {slot : Nat} {c : Cl} {q a : RegF} {x : Xlate} {v : Nat} (hc : s.cur = .cluster slot c)
  (hn : (s.queue q.toNat).nb ≠ 0) (hprod : (s.queue q.toNat).prod = streamCode) (hfree : (s.queue q.toNat).stream = none)
  (h : s.Reads slot .read (s.readS a) 64 x v false) (hq : s.Quiet slot x)
include hc hn hprod hfree h hq

/-- SBIND on an unbound queue of the stream unit goes by those checks. -/
theorem bindStream_go : Comp.go (bindStream q a) s = Comp.go (do
    ofStop (firstOf ((s.queue q.toNat).bindChecks q.toNat (leBytes 64 v)))
    update fun t => t.modQueue q.toNat fun y => { y with closed := false, stream := some (streamOf (leBytes 64 v)) }) s := by
  have hfirst : Allowed [s.banksCheck q.toNat, ((s.queue q.toNat).prod == streamCode && (s.queue q.toNat).stream.isNone,
      illegalOperand 0x10 q.toNat 4)] :=
    allowed_cons.2 ⟨bne_iff_ne.2 hn, allowed_cons.2 ⟨by simp [hprod, hfree], allowed_nil⟩⟩
  unfold bindStream
  rw [Comp.go_bind_ok (Comp.go_get s)]
  dsimp only
  rw [firstOf_ok hfirst, Comp.go_bind_ok (Comp.go_ofStop_ok s ()),
    Comp.go_bind_ok (loadQuiet_quiet hc h hq)]
  change Comp.go (ofStop (firstOf ((s.queue q.toNat).bindChecks q.toNat (leBytes 64 v))) >>= _) s = _
  cases firstOf ((s.queue q.toNat).bindChecks q.toNat (leBytes 64 v)) with
  | error y => rfl
  | ok => rw [Comp.go_bind_ok (Comp.go_ofStop_ok s ()), Comp.go_bind_ok (noteMine_nil hc)]; rfl
end

theorem unbindStream_ok {s : State} {q : RegF} (h : (s.queue q.toNat).nb ≠ 0) :
    unbindStream q s = .ok (s.modQueue q.toNat fun x => { x with stream := none }) := by
  unfold unbindStream State.banksCheck
  rw [firstOf_ok (allowed_cons.2 ⟨bne_iff_ne.2 h, allowed_nil⟩)]
  rfl

/-- Settles O23: SBIND by the first of its checks that fails, and SUNBIND. -/
theorem streamBindings : Obligations.StreamBindings := by
  intro s slot c g q a x v hc hg hn
  refine ⟨fun hprod hfree h hq => ⟨fun hbad => ?trap, fun hok hheld => ?wait, fun hok he hu => ?bind⟩, ?unbind⟩
  case trap =>
    exact run_error hg ((bindStream_go hc hn hprod hfree h hq).trans (by rw [Queue.bindChecks, firstOf, hbad]; rfl))
  case wait =>
    have hheld : ((s.queue q.toNat).entries.isEmpty && (s.queue q.toNat).unplaced.isEmpty) = false := by
      rcases hheld with h | h <;> simp [h]
    exact run_error hg ((bindStream_go hc hn hprod hfree h hq).trans (by rw [Queue.bindChecks, firstOf, firstOf, hok, hheld]; rfl))
  case bind =>
    exact ⟨_, run_ok hg ((bindStream_go hc hn hprod hfree h hq).trans (by rw [Queue.bindChecks, hok, he, hu]; rfl)),
      queueBecomes_modQueue s _ _⟩
  case unbind => exact ⟨_, settle_ok hg (unbindStream_ok hn), queueBecomes_modQueue s _ _⟩

end Sys2Proof.Machine
end

section
/-! PROOFS. VSTQ into a page whose slots are wider than a line (R75, R126, R269): in the model SLOTW of a cached translation is a number
without a bound, where a Page Attribute Record gives 0 to 3. -/

namespace Sys2Proof.Machine

/-! ### A store to slots wider than a line -/

/-- A cached translation of a typed page whose slots would be of 256 bytes. -/
def wideSlots : TlbEntry :=
  { unit := .spindle 0, asd := 0, pasid := 0, va := 0, size := 0x200000, pa := 0x200000, leaf := 0, r := true, w := true, x := true, u := true
    d := true, mig := false, pslot := 0, folded := false, ats := false, par := { Par.raw with typed := true, slotw := 8 } }

/-- An entry of one I64 element, 1. -/
def oneEntry : QEntry :=
  QEntry.vector { tag := { fmt := Fmt.i64, vsum := vsValid, blk := 0 }, elems := [(0, 1)], scales := [] } 1 fun _ => true

/-- The A cluster of a context with the translation, which consumes queue 1, whose head is the entry. -/
def wideStore : State :=
  { State.reset with
    cur := .cluster 0 .A
    tlb := [wideSlots]
    ctxs := [(0, { Ctx.free with queues := [(1, { Queue.initial with cons := queueCode .A, nb := 1, entries := [oneEntry] })] })] }

/-- The page of address 0. -/
def wideXlate : Xlate :=
  { va := 0, pa := 0x200000, raw := 0x200000, unit := .spindle 0, host := false, entry := wideSlots, walked := false, path := [], setD := false }

/-- The line holds zeros and takes the format. -/
theorem wideStore_storable : wideStore.Storable 0 Fmt.i64 wideXlate := by
  unfold State.Storable State.Quiet State.CleanAt
  decide +kernel

/-- The element can be stored. -/
theorem wideStore_scatters : wideStore.Scatters 0 0 (.positions fun j => j) true Fmt.i64 [(0, oneEntry.strip.selem 0)] [⟨0, 0, false⟩]
    [wideXlate] := by
  refine ⟨rfl, fun _ => by decide +kernel, ⟨some wideSlots.par, by decide +kernel, fun _ p hp => ?_⟩, .cons (by decide +kernel) .nil, ?_, ?_⟩
  · cases hp; decide +kernel
  · intro x hx
    rw [List.mem_singleton.1 hx]
    exact wideStore_storable
  · intro x hx y hy
    rw [List.mem_singleton.1 hx, List.mem_singleton.1 hy]
    exact ⟨rfl, rfl, rfl⟩

/-- The store completes, and writes a line of no slots: its bytes are 0. -/
theorem wideStore_stored : ∃ t, exec (.vstq ⟨false, 7⟩ 1 0) wideStore = .next t ∧ bitsAt (t.lineAt 0x200000).bytes 64 0 = 0 := by
  refine ⟨_, rfl, ?_⟩
  decide +kernel

/-- Refutes O26: where the cached translation of a typed page has slots wider than a line, VSTQ completes, and its element, at place 0, is
not in memory. The statement does not confine SLOTW of a cached translation to the values of R126, with which a line has 16 slots or
more. -/
theorem not_queueLoadsAndStores : ¬ Obligations.QueueLoadsAndStores := by
  rintro ⟨-, hstore⟩
  obtain ⟨hvstq, -⟩ := hstore wideStore 0 .A ⟨false, 7⟩ 1 0 0 oneEntry rfl (by decide +kernel) (by decide +kernel) (by decide +kernel) rfl
  have hplaces : oneEntry.places = [0] := by decide +kernel
  rw [hplaces] at hvstq
  obtain ⟨u, hexec, -, -, -, hvalue⟩ := hvstq _ _ rfl wideStore_scatters
  have hone : bitsAt (u.lineAt 0x200000).bytes 64 0 = 1 := by
    refine hvalue 0 ⟨0, 0, false⟩ wideXlate (oneEntry.strip.selem 0) rfl rfl rfl (by decide) (fun k q y hk hq => ?_) (by decide +kernel)
    have hbound := (List.getElem?_eq_some_iff.1 hq).1
    simp only [List.length_singleton] at hbound
    omega
  obtain ⟨t, ht, hzero⟩ := wideStore_stored
  have hu : t = u.retire 4 := Host.Outcome.next.inj (ht.symm.trans hexec)
  have hline : ((u.retire 4).lineAt 0x200000).bytes = (u.lineAt 0x200000).bytes := by
    simp only [State.lineAt, State.byteAt, State.retire, State.modMe_mem]
  rw [hu, hline, hone] at hzero
  cases hzero

end Sys2Proof.Machine
end

section
/-! PROOFS. Memory stays canonical: every operation of the model that gives a state keeps the form (O53). An operation that leaves memory
alone has an equivalence, `memOk_f`; one that writes has an implication, `MemOk.f`; checked updates and computations have `givesMemOk_f`
and `keepsMem_f`. They stand in the order of the model's definitions. -/

namespace Sys2Proof

open Machine

/-! ### What the form depends on -/

/-- Only the bytes of memory count. -/
@[simp] theorem memOk_mk
    (powered' timeNs' mem' tags' blocks' hostOwned' snoops' extPoison' physWaits' l1' l2' tlb' walkCache' moves' answers' pageReqs'
    priEnable' priFailed' retired' banks' spm' plb' staging' ctxs' fenceNo' lattice' creel' ports' tasks' hanks' admitNo' dispNo'
    turnOf' predictor' sup' framesUsed' recJobs' expJobs' decJobs' keys' ranges' deny' replays' distaffRestarts' distaffServed' dieLim'
    dieTemps' limitSince' coolSince' hotStacks' overshoot' parkSince' cur' turns' stepNo') :
    MemOk
      (State.mk
        powered' timeNs' mem' tags' blocks' hostOwned' snoops' extPoison' physWaits' l1' l2' tlb' walkCache' moves' answers' pageReqs'
        priEnable' priFailed' retired' banks' spm' plb' staging' ctxs' fenceNo' lattice' creel' ports' tasks' hanks' admitNo' dispNo'
        turnOf' predictor' sup' framesUsed' recJobs' expJobs' decJobs' keys' ranges' deny' replays' distaffRestarts' distaffServed'
        dieLim' dieTemps' limitSince' coolSince' hotStacks' overshoot' parkSince' cur' turns' stepNo')
      ↔ Memory.wf mem' = true := Iff.rfl

@[simp] theorem memOk_mem (s : State) : Memory.wf s.mem = true ↔ MemOk s := Iff.rfl

/-! ### The canonical form through the forms of meanings -/

@[simp] theorem memOk_ite (p : Prop) [Decidable p] (s t : State) : MemOk (if p then s else t) ↔ if p then MemOk s else MemOk t := by
  split <;> rfl

theorem MemOk.foldl {α : Type} {f : State → α → State} (hf : ∀ s a, MemOk s → MemOk (f s a)) :
    ∀ (l : List α) {s : State}, MemOk s → MemOk (l.foldl f s)
  | [], _, h => h
  | a :: l, _, h => MemOk.foldl hf l (hf _ a h)

@[simp] theorem memOk_foldl {α : Type} {f : State → α → State} (hf : ∀ s a, MemOk (f s a) ↔ MemOk s) :
    ∀ (l : List α) {s : State}, MemOk (l.foldl f s) ↔ MemOk s
  | [], _ => Iff.rfl
  | a :: l, _ => (memOk_foldl hf l).trans (hf _ a)

/-- A computation keeps the canonical form, whether it succeeds or stops. -/
structure KeepsMem {α : Type} (c : Comp α) : Prop where
  after : ∀ s, MemOk s → MemOk (Comp.go c s).2

namespace KeepsMem
variable {α β : Type}

theorem pure (a : α) : KeepsMem (Pure.pure a : Comp α) := ⟨fun _ h => h⟩
theorem throw (x : Stop) : KeepsMem (MonadExcept.throw x : Comp α) := ⟨fun _ h => h⟩
theorem deny (d : Deny) : KeepsMem (Machine.deny d : Comp α) := ⟨fun _ h => h⟩
theorem get : KeepsMem (MonadState.get : Comp State) := ⟨fun _ h => h⟩
theorem set {t : State} (h : MemOk t) : KeepsMem (MonadStateOf.set t : Comp PUnit) := ⟨fun _ _ => h⟩
theorem update {f : State → State} (h : ∀ s, MemOk s → MemOk (f s)) : KeepsMem (Machine.update f) := ⟨h⟩
theorem ofDeny : ∀ r : Except Deny α, KeepsMem (Machine.ofDeny r)
  | .ok a => pure a
  | .error d => deny d
theorem ofStop : ∀ r : Except Stop α, KeepsMem (Machine.ofStop r)
  | .ok a => pure a
  | .error x => throw x
theorem need : ∀ (b : Bool) (x : Stop), KeepsMem (Machine.need b x)
  | true, _ => pure ()
  | false, x => throw x

theorem bind {c : Comp α} {f : α → Comp β} (hc : KeepsMem c) (hf : ∀ a, KeepsMem (f a)) : KeepsMem (c >>= f) where
  after s h := by
    have ht := hc.after s h
    rcases e : Comp.go c s with ⟨_ | a, t⟩ <;> rw [e] at ht
    · rwa [Comp.go_bind_error e]
    · rw [Comp.go_bind_ok e]; exact (hf a).after t ht

/-- The state that a computation reads has the canonical form. -/
theorem getBind {f : State → Comp β} (hf : ∀ s, MemOk s → KeepsMem (f s)) : KeepsMem (MonadState.get >>= f) where
  after s h := (hf s h).after s h

/-- The state that a checked update gives has the canonical form. -/
theorem ofStopBind {r : Except Stop State} {f : State → Comp β} (hr : ∀ t, r = .ok t → MemOk t)
    (hf : ∀ s, MemOk s → KeepsMem (f s)) :
    KeepsMem (Machine.ofStop r >>= f) := by
  cases r with
  | error x => exact ⟨fun _ h => h⟩
  | ok t => exact hf t (hr t rfl)

/-- Nothing follows a stop. -/
theorem denyBind (d : Deny) (f : α → Comp β) : KeepsMem (Machine.deny d >>= f) := ⟨fun _ h => h⟩
theorem throwBind (x : Stop) (f : α → Comp β) : KeepsMem (MonadExcept.throw x >>= f) := ⟨fun _ h => h⟩

theorem ite {p : Prop} [Decidable p] {c e : Comp α} (hc : KeepsMem c) (he : KeepsMem e) : KeepsMem (if p then c else e) := by
  split
  · exact hc
  · exact he

/-- The state after a run of a computation, whatever its result. -/
theorem run {c : Comp α} (hc : KeepsMem c) {s t : State} {r : Except Stop α} (e : c.run.run s = (r, t)) (h : MemOk s) : MemOk t := by
  have := hc.after s h
  rwa [Comp.go, e] at this

end KeepsMem

/-- The state that a checked update gives, if it gives one, has the canonical form. -/
def GivesMemOk {ε : Type} (r : Except ε State) : Prop := ∀ t, r = .ok t → MemOk t

@[simp] theorem givesMemOk_ok {ε : Type} (t : State) : GivesMemOk (.ok t : Except ε State) ↔ MemOk t :=
  ⟨fun h => h t rfl, fun h _ e => Except.ok.inj e ▸ h⟩
@[simp] theorem givesMemOk_error {ε : Type} (x : ε) : GivesMemOk (.error x) := fun _ e => nomatch e
@[simp] theorem givesMemOk_ite {ε : Type} (p : Prop) [Decidable p] (x y : Except ε State) :
    GivesMemOk (if p then x else y) ↔ if p then GivesMemOk x else GivesMemOk y := by split <;> rfl
@[simp] theorem givesMemOk_bind {ε α : Type} (x : Except ε α) (f : α → Except ε State) :
    GivesMemOk (x >>= f) ↔ ∀ a, x = .ok a → GivesMemOk (f a) := by
  cases x with
  | error e => exact ⟨fun _ _ h => (nomatch h), fun _ => givesMemOk_error e⟩
  | ok a => exact ⟨fun h _ e => Except.ok.inj e ▸ h, fun h => h a rfl⟩
theorem GivesMemOk.map {ε : Type} {x : Except ε State} {f : State → State} (hx : GivesMemOk x) (hf : ∀ t, MemOk t → MemOk (f t)) :
    GivesMemOk (x.map f) := by
  cases x with
  | error e => exact givesMemOk_error e
  | ok t => exact (givesMemOk_ok _).2 (hf t (hx t rfl))

/-- The state that an answer goes on with has the canonical form. -/
def AnswersMemOk (o : Answer) : Prop := ∀ t, o = .next t → MemOk t

@[simp] theorem answersMemOk_next (t : State) : AnswersMemOk (.next t) ↔ MemOk t :=
  ⟨fun h => h t rfl, fun h _ e => Host.Outcome.next.inj e ▸ h⟩
@[simp] theorem answersMemOk_ite (p : Prop) [Decidable p] (x y : Answer) :
    AnswersMemOk (if p then x else y) ↔ if p then AnswersMemOk x else AnswersMemOk y := by split <;> rfl

section
variable {s : State} (h : MemOk s)
include h

@[simp] theorem MemOk.setBytes (pa : Nat) (l : List Byte) : MemOk (s.setBytes pa l) := memOk_setBytes h pa l
@[simp] theorem MemOk.putLine (pa : Nat) (l : Line) : MemOk (s.putLine pa l) := memOk_putLine h pa l
@[simp] theorem MemOk.reportPort (n : Nat) (r : Rec) : MemOk (s.reportPort n r) := memOk_reportPort h n r
@[simp] theorem MemOk.report (r : Rec) : MemOk (s.report r) := memOk_report h r
@[simp] theorem MemOk.scrub (pa : Nat) : MemOk (s.scrub pa) := memOk_scrub h pa
@[simp] theorem MemOk.setLeafBits (leaf b : Nat) : MemOk (s.setLeafBits leaf b) := memOk_setLeafBits h leaf b
@[simp] theorem MemOk.useXlate (x : Xlate) : MemOk (s.useXlate x) := memOk_useXlate h x
@[simp] theorem MemOk.putPageLine (x : Xlate) (l : Line) : MemOk (s.putPageLine x l) := memOk_putPageLine h x l
@[simp] theorem MemOk.physWriteLine (src pa : Nat) (l : List Byte) : MemOk (s.physWriteLine src pa l) := memOk_physWriteLine h src pa l
@[simp] theorem MemOk.physWrite (src pa : Nat) (l : List Byte) : MemOk (s.physWrite src pa l) := memOk_physWrite h src pa l
@[simp] theorem MemOk.flushPhys (pa : Nat) : MemOk (s.flushPhys pa) := memOk_flushPhys h pa
end

@[simp] theorem memOk_modPort (s : State) (n : Nat) (f : Port → Port) : MemOk (s.modPort n f) ↔ MemOk s := Iff.rfl
@[simp] theorem memOk_setTag (s : State) (pa : Nat) (t : LineTag) : MemOk (s.setTag pa t) ↔ MemOk s := Iff.rfl

/-! ### Accesses to the state -/

@[simp] theorem memOk_setCtx (s : State) (k : Nat) (x : Ctx) : MemOk (s.setCtx k x) ↔ MemOk s := Iff.rfl

@[simp] theorem memOk_modCtx (s : State) (k : Nat) (f : Ctx → Ctx) : MemOk (s.modCtx k f) ↔ MemOk s := Iff.rfl

@[simp] theorem memOk_setCore (s : State) (n : Nat) (x : SupCore) : MemOk (s.setCore n x) ↔ MemOk s := Iff.rfl

@[simp] theorem memOk_modCluster (s : State) (a : Agent) (f : Cluster → Cluster) : MemOk (s.modCluster a f) ↔ MemOk s := by
  unfold State.modCluster
  split <;> simp

@[simp] theorem memOk_modMe (s : State) (f : Cluster → Cluster) : MemOk (s.modMe f) ↔ MemOk s := by simp [State.modMe]

@[simp] theorem memOk_modMyCtx (s : State) (f : Ctx → Ctx) : MemOk (s.modMyCtx f) ↔ MemOk s := Iff.rfl

@[simp] theorem memOk_writeS (s : State) (r : RegF) (v : Word) : MemOk (s.writeS r v) ↔ MemOk s := by simp [State.writeS]

@[simp] theorem memOk_writeG (s : State) (p : BitVec 3) (v : Bool) : MemOk (s.writeG p v) ↔ MemOk s := by simp [State.writeG]

@[simp] theorem memOk_orFlags (s : State) (f : Flags) : MemOk (s.orFlags f) ↔ MemOk s := by simp [State.orFlags]

/-! ### Caches and performed stores -/

@[simp] theorem memOk_cacheWrite (s : State) (spindle line : Nat) : MemOk (s.cacheWrite spindle line) ↔ MemOk s := Iff.rfl

@[simp] theorem memOk_recall (s : State) (line : Nat) : MemOk (s.recall line) ↔ MemOk s := Iff.rfl

@[simp] theorem memOk_dropWays (s : State) (spindle : Nat) (banks : List Nat) : MemOk (s.dropWays spindle banks) ↔ MemOk s := Iff.rfl

@[simp] theorem memOk_dropCaches (s : State) (bobbin : Nat) : MemOk (s.dropCaches bobbin) ↔ MemOk s := Iff.rfl

@[simp] theorem memOk_evictL1 (s : State) (place : Nat) : MemOk (s.evictL1 place) ↔ MemOk s := by
  unfold State.evictL1
  split <;> simp

@[simp] theorem memOk_evictL2 (s : State) (place : Nat) : MemOk (s.evictL2 place) ↔ MemOk s := by
  unfold State.evictL2
  split <;> simp

@[simp] theorem memOk_fillL2 (s : State) (place line : Nat) : MemOk (s.fillL2 place line) ↔ MemOk s := by simp [State.fillL2]

@[simp] theorem memOk_fillL1 (s : State) (place line : Nat) : MemOk (s.fillL1 place line) ↔ MemOk s := by simp [State.fillL1]

/-! ### Physical writes -/

@[simp] theorem memOk_setBlock (s : State) (pa : Nat) (b : Block) : MemOk (s.setBlock pa b) ↔ MemOk s := Iff.rfl

@[simp] theorem memOk_clearPm (s : State) (pa : Nat) : MemOk (s.clearPm pa) ↔ MemOk s := by simp [State.clearPm]

@[simp] theorem memOk_message (s : State) (v : Nat) : MemOk (s.message v) ↔ MemOk s := Iff.rfl

@[simp] theorem MemOk.poisonLine {s : State} (hs : MemOk s) (pa : Nat) : MemOk (s.poisonLine pa) := by
  unfold State.poisonLine
  split <;> simp [hs]

@[simp] theorem memOk_wakeAll (s : State) (f : Option WaitFor → Bool) : MemOk (s.wakeAll f) ↔ MemOk s := Iff.rfl

@[simp] theorem memOk_wakeLine (s : State) (pa : Nat) : MemOk (s.wakeLine pa) ↔ MemOk s := Iff.rfl

/-! ### Hanks -/

@[simp] theorem memOk_modHank (s : State) (task : Nat) (wid : Word) (f : Hank → Hank) : MemOk (s.modHank task wid f) ↔ MemOk s :=
  Iff.rfl

@[simp] theorem memOk_modTask (s : State) (pa : Nat) (f : Task → Task) : MemOk (s.modTask pa f) ↔ MemOk s := Iff.rfl

/-! ### The Creel: records, messages, tasks and ends of hanks -/

@[simp] theorem memOk_modCreel (s : State) (f : Creel → Creel) : MemOk (s.modCreel f) ↔ MemOk s := Iff.rfl

@[simp] theorem memOk_setLq (s : State) (n tail head : Nat) : MemOk (s.setLq n tail head) ↔ MemOk s := by simp [State.setLq]

@[simp] theorem memOk_lport (s : State) (n : Nat) (v : Word) : MemOk (s.lport n v) ↔ MemOk s := by simp [State.lport]

@[simp] theorem memOk_submitRecode (s : State) (l : List Byte) (host : Bool) : MemOk (s.submitRecode l host).1 ↔ MemOk s := by
  unfold State.submitRecode
  dsimp only
  repeat' split
  all_goals rfl

@[simp] theorem memOk_submitDecrypt (s : State) (l : List Byte) : MemOk (s.submitDecrypt l).1 ↔ MemOk s := by
  unfold State.submitDecrypt
  dsimp only
  repeat' split
  all_goals rfl

@[simp] theorem MemOk.submitExport {s : State} (hs : MemOk s) (v : Word) : MemOk (s.submitExport v) := by simp [State.submitExport, hs]

@[simp] theorem memOk_pstateStart (s : State) : MemOk (s.pstateStart) ↔ MemOk s := by simp [State.pstateStart]

@[simp] theorem memOk_pstateWrite (s : State) (req : BitVec 3) : MemOk (s.pstateWrite req) ↔ MemOk s := by simp [State.pstateWrite]

@[simp] theorem memOk_pwrcapWrite (s : State) (v : Word) : MemOk (s.pwrcapWrite v) ↔ MemOk s := by simp [State.pwrcapWrite]

@[simp] theorem memOk_parkStart (s : State) (b : Nat) : MemOk (s.parkStart b) ↔ MemOk s := by simp [State.parkStart]

@[simp] theorem memOk_parkWrite (s : State) (req : Byte) : MemOk (s.parkWrite req) ↔ MemOk s := by simp [State.parkWrite]

@[simp] theorem memOk_predClear (s : State) : MemOk (s.predClear) ↔ MemOk s := Iff.rfl

@[simp] theorem memOk_barWrite (s : State) (port off : Nat) (v : Word) : MemOk (s.barWrite port off v) ↔ MemOk s := by
  simp [State.barWrite]

@[simp] theorem MemOk.creelWrite {s : State} (hs : MemOk s) (w : Writer) (off : Nat) (v : Word) : MemOk (s.creelWrite w off v) := by
  simp [State.creelWrite, hs]

/-! ### Translations -/

@[simp] theorem MemOk.scrubWalk (bob asd va part : Nat) :
    ∀ (level table : Nat) {s : State}, MemOk s → MemOk (s.scrubWalk bob asd va part level table)
  | level, table, s, hs => by
    unfold State.scrubWalk
    extract_lets a u e
    have hu : MemOk u := by
      unfold u
      split
      · exact hs
      · exact hs.scrub _
    clear_value e u
    refine (memOk_ite ..).2 ?_
    split
    · exact hu
    · refine (memOk_ite ..).2 ?_
      split
      · exact hu.scrub _
      · cases level with
        | zero => exact hu
        | succ l => exact MemOk.scrubWalk bob asd va part l _ hu

@[simp] theorem MemOk.prewalk {s : State} (hs : MemOk s) (u : TlbUnit) (asdPa : Nat) (vaw : Word) : MemOk (s.prewalk u asdPa vaw) := by
  simp [State.prewalk, hs]

@[simp] theorem MemOk.useAll {s : State} (hs : MemOk s) (xs : List Xlate) : MemOk (s.useAll xs) := by
  unfold State.useAll
  simp +contextual [MemOk.foldl, hs]

@[simp] theorem memOk_holdMig (s : State) (u : TlbUnit) (asdPa va : Nat) : MemOk (s.holdMig u asdPa va) ↔ MemOk s := by
  unfold State.holdMig
  split <;> simp

@[simp] theorem memOk_agentHolds (s : State) (u : TlbUnit) (w : WaitFor) : MemOk (s.agentHolds u w) ↔ MemOk s := by
  unfold State.agentHolds
  split <;> simp

@[simp] theorem MemOk.writeLine {s : State} (hs : MemOk s) (slot : Nat) (x : Xlate) (l : Line) : MemOk (s.writeLine slot x l) := by
  simp [State.writeLine, hs]

@[simp] theorem MemOk.performStore {s : State} (hs : MemOk s) (slot : Nat) (a : LateStore) : MemOk (s.performStore slot a) := by
  simp [State.performStore, hs]

@[simp] theorem MemOk.performStores {s : State} (hs : MemOk s) (slot : Nat) (c : Cl) : MemOk (s.performStores slot c) := by
  unfold State.performStores
  simp +contextual [MemOk.foldl, hs]

@[simp] theorem MemOk.performAll {s : State} (hs : MemOk s) (slot : Nat) : MemOk (s.performAll slot) :=
  (((hs.performStores slot .C).performStores slot .A).performStores slot .V).performStores slot .M

@[simp] theorem MemOk.performWhere {s : State} (hs : MemOk s) (f : LateStore → Bool) : MemOk (s.performWhere f) := by
  unfold State.performWhere
  simp +contextual [MemOk.foldl, hs]

/-! ### Events, faults and releases of tasks -/

@[simp] theorem memOk_setBanks (s : State) (spindle : Nat) (bs : List Nat) (m : Bank) : MemOk (s.setBanks spindle bs m) ↔ MemOk s :=
  Iff.rfl

@[simp] theorem memOk_freeBanks (s : State) (slot : Nat) : MemOk (s.freeBanks slot) ↔ MemOk s := Iff.rfl

@[simp] theorem memOk_withdraw (s : State) (slot : Nat) : MemOk (s.withdraw slot) ↔ MemOk s := Iff.rfl

@[simp] theorem memOk_freeSlot (s : State) (slot : Nat) : MemOk (s.freeSlot slot) ↔ MemOk s := Iff.rfl

@[simp] theorem memOk_dropHeld (s : State) (task : Nat) (wid : Word) : MemOk (s.dropHeld task wid) ↔ MemOk s := by simp [State.dropHeld]

@[simp] theorem memOk_releaseCharge (s : State) (task : Nat) (wid : Word) : MemOk (s.releaseCharge task wid) ↔ MemOk s := by
  simp [State.releaseCharge]

@[simp] theorem memOk_forgetLeaf (s : State) (leaf : Nat) : MemOk (s.forgetLeaf leaf) ↔ MemOk s := Iff.rfl

@[simp] theorem MemOk.writeLeaf {s : State} (hs : MemOk s) (src leaf frame slot : Nat) : MemOk (s.writeLeaf src leaf frame slot) := by
  simp [State.writeLeaf, hs]

@[simp] theorem MemOk.clearMig {s : State} (hs : MemOk s) (src leaf : Nat) : MemOk (s.clearMig src leaf) := by simp [State.clearMig, hs]

@[simp] theorem MemOk.abortMoves {s : State} (hs : MemOk s) (f : PageMove → Bool) : MemOk (s.abortMoves f) := by
  unfold State.abortMoves
  simp +contextual [MemOk.foldl, hs]

@[simp] theorem MemOk.dropHank {s : State} (hs : MemOk s) (h : Hank) : MemOk (s.dropHank h) := by simp [State.dropHank, hs]

@[simp] theorem memOk_countCancelled (s : State) (n : Nat) : MemOk (s.countCancelled n) ↔ MemOk s := Iff.rfl

@[simp] theorem memOk_countAbandoned (s : State) (b n : Nat) : MemOk (s.countAbandoned b n) ↔ MemOk s := Iff.rfl

@[simp] theorem MemOk.cancel {s : State} (hs : MemOk s) (h : Hank) : MemOk (s.cancel h) := by
  unfold State.cancel
  split <;> simp [hs]

@[simp] theorem MemOk.squash {s : State} (hs : MemOk s) (h : Hank) : MemOk (s.squash h) := by
  unfold State.squash
  split <;> simp [hs]

@[simp] theorem memOk_advanceHead (q : Nat) : ∀ (n : Nat) (s : State), MemOk (s.advanceHead q n) ↔ MemOk s
  | 0, _ => Iff.rfl
  | n + 1, s => by
    unfold State.advanceHead
    split
    · dsimp only
      split
      · simp [memOk_advanceHead q n]
      · rfl
    · rfl

@[simp] theorem MemOk.tidyQueue {s : State} (hs : MemOk s) (q : Nat) : MemOk (s.tidyQueue q) := by simp [State.tidyQueue, hs]

@[simp] theorem MemOk.writeStatus {s : State} (hs : MemOk s) (pa : Nat) (v : Byte) : MemOk (s.writeStatus pa v) := by
  simp [State.writeStatus, hs]

@[simp] theorem MemOk.checkTask {s : State} (hs : MemOk s) (pa : Nat) : MemOk (s.checkTask pa) := by
  unfold State.checkTask
  split <;> simp [hs]

@[simp] theorem MemOk.failTask {s : State} (hs : MemOk s) (pa : Nat) : MemOk (s.failTask pa) := by
  unfold State.failTask
  split
  · exact hs
  · next t _ =>
    refine MemOk.checkTask ?_ pa
    split
    · exact hs
    · have ha := (memOk_countCancelled s (if t.released then 0 else t.pendingCount t.bound)).2 hs
      have hb (l : List Hank) := MemOk.foldl (fun _ h hu => MemOk.cancel hu h) l ha
      refine MemOk.tidyQueue ((memOk_modTask ..).2 ((memOk_ite ..).2 ?_)) _
      split
      · exact hb _
      · exact MemOk.foldl (fun _ h hu => hu.squash h) _ (hb _)

@[simp] theorem MemOk.failHank {s : State} (hs : MemOk s) (h : Hank) (r : Rec) : MemOk (s.failHank h r) :=
  MemOk.failTask (MemOk.report (by simp [hs]) r) _

@[simp] theorem MemOk.reportAll {s : State} (hs : MemOk s) (l : List Rec) : MemOk (s.reportAll l) := by
  unfold State.reportAll
  simp +contextual [MemOk.foldl, hs]

@[simp] theorem MemOk.finishDying {s : State} (hs : MemOk s) (slot : Nat) : MemOk (s.finishDying slot) := by
  unfold State.finishDying
  split
  · refine (memOk_ite ..).2 ?_
    split
    · exact MemOk.failTask (MemOk.reportAll (by simp [hs]) _) _
    · exact hs
  · exact hs

@[simp] theorem MemOk.terminate {s : State} (hs : MemOk s) (slot : Nat) (r : Rec) : MemOk (s.terminate slot r) := by
  unfold State.terminate
  dsimp only
  repeat' split
  all_goals simp [hs]

@[simp] theorem MemOk.contained {s : State} (hs : MemOk s) (slot : Nat) (r : Rec) : MemOk (s.contained slot r) := by
  simp [State.contained, hs]

/-! ### Operations of instructions and their accesses -/

@[simp] theorem memOk_retire (s : State) (len : Nat) : MemOk (s.retire len) ↔ MemOk s := by simp [State.retire]

@[simp] theorem memOk_jump (s : State) (target : Word) : MemOk (s.jump target) ↔ MemOk s := by simp [State.jump]

@[simp] theorem MemOk.takeEvent {s : State} (hs : MemOk s) (slot : Nat) (r : Rec) (src : EventSource) : MemOk (s.takeEvent slot r src) :=
  by
  unfold State.takeEvent
  dsimp only
  split <;> simp [hs]

@[simp] theorem MemOk.coreFault {s : State} (hs : MemOk s) (n : Nat) (cause : BitVec 32) : MemOk (s.coreFault n cause) := by
  unfold State.coreFault
  dsimp only
  split <;> simp [hs]

@[simp] theorem MemOk.halt {s : State} (hs : MemOk s) (x : Stop) : MemOk (s.halt x) := by
  unfold State.halt
  split <;> simp [hs]

@[simp] theorem MemOk.endEvent {s : State} (hs : MemOk s) (slot : Nat) : MemOk (s.endEvent slot) := by
  unfold State.endEvent
  dsimp only
  split <;> simp [hs]

@[simp] theorem MemOk.touch {s : State} (hs : MemOk s) (xs : List Xlate) : MemOk (s.touch xs) := by
  unfold State.touch
  simp +contextual [MemOk.foldl, hs]

@[simp] theorem MemOk.noteZeroed {s : State} (hs : MemOk s) (slot : Nat) (pc info : Word) (vas : List Nat) :
    MemOk (s.noteZeroed slot pc info vas) := by
  unfold State.noteZeroed
  simp +contextual [MemOk.foldl, hs]

@[simp] theorem MemOk.noteOutside {s : State} (hs : MemOk s) (slot : Nat) (pc info : Word) (k : MemKind) (xs : List Xlate) :
    MemOk (s.noteOutside slot pc info k xs) := by
  unfold State.noteOutside
  simp +contextual [MemOk.foldl, hs]

@[simp] theorem givesMemOk_commitLine {s : State} (hs : MemOk s) (slot : Nat) (x : Xlate) (l : Line) (mask : MaskUpdate) :
    GivesMemOk (s.commitLine slot x l mask) := by
  unfold State.commitLine
  dsimp only
  repeat' split
  all_goals simp [hs]

theorem keepsMem_supLoad (k : MemKind) (va : Word) (n : Nat) : KeepsMem (supLoad k va n) := by
  refine .bind .get fun s => ?_
  split
  · exact .throw _
  · exact .ite (.pure _) (.bind (.update fun s hs => hs.scrub _) fun _ => .bind .get fun _ => .bind (.need _ _) fun _ => .pure _)

@[simp] theorem memOk_noteLeaf (s t : State) (pa : Nat) : MemOk (s.noteLeaf t pa) ↔ MemOk t := by simp [State.noteLeaf]

theorem keepsMem_supStore (core : Nat) (k : MemKind) (va : Word) (n v : Nat) : KeepsMem (supStore core k va n v) := by
  refine .bind .get fun s => ?_
  split
  · exact .throw _
  · refine .ite ?_ (.update fun s hs => (memOk_noteLeaf ..).2 (hs.physWrite _ _ _))
    extract_lets rest
    have hrest (r : PUnit) : KeepsMem (rest r) := .update fun s hs => by simp [hs]
    clear_value rest
    split
    · exact .throwBind _ _
    · exact hrest _

theorem keepsMem_openAccess (slot : Nat) (k : MemKind) (va : Word) (aligned : Bool) : KeepsMem (openAccess slot k va aligned) :=
  .bind (.update fun _ hs => hs.prewalk _ _ _) fun _ => .bind .get fun _ => .bind (.ofDeny _) fun _ => .bind (.ofDeny _) fun _ =>
    .bind (.update fun _ hs => hs.touch _) fun _ => .pure _

theorem keepsMem_ctxRead (slot : Nat) (k : MemKind) (va : Word) (n : Nat) : KeepsMem (ctxRead slot k va n) := by
  refine .bind (keepsMem_openAccess ..) fun x => .bind .get fun t => .ite (.pure _) (.bind (.update fun s hs => hs.noteOutside _ _ _ _
    _) fun _ => ?_)
  split
  · exact .deny _
  · exact .pure _

theorem keepsMem_noteReads (slot : Nat) (zs : List (Word × Nat)) : KeepsMem (noteReads slot zs) :=
  .update fun _ hs => hs.noteZeroed _ _ _ _

theorem keepsMem_ctxLoad (slot : Nat) (k : MemKind) (va : Word) (n : Nat) : KeepsMem (ctxLoad slot k va n) :=
  .bind (keepsMem_ctxRead ..) fun _ => .bind (keepsMem_noteReads ..) fun _ => .pure _

theorem keepsMem_ctxStore (slot : Nat) (k : MemKind) (va : Word) (n v : Nat) : KeepsMem (ctxStore slot k va n v) := by
  refine .bind (keepsMem_openAccess ..) fun x => .getBind fun t ht => .ite (.update fun s hs => hs.useXlate _) ?_
  dsimp only
  split
  · exact .deny _
  · exact .ite (.denyBind _ _) (.ofStopBind (givesMemOk_commitLine ht _ _ _ _) fun u hu => .set (by simp [hu]))

theorem keepsMem_load (k : MemKind) (va : Word) (n : Nat) : KeepsMem (load k va n) := by
  refine .bind .get fun s => ?_
  split
  · exact keepsMem_supLoad ..
  · exact keepsMem_ctxLoad ..

theorem keepsMem_loadQuiet (k : MemKind) (va : Word) (n : Nat) : KeepsMem (loadQuiet k va n) := by
  refine .bind .get fun s => ?_
  split
  · exact .bind (keepsMem_supLoad ..) fun _ => .pure _
  · exact keepsMem_ctxRead ..

theorem keepsMem_noteMine (zs : List (Word × Nat)) : KeepsMem (noteMine zs) := by
  refine .bind .get fun s => ?_
  split
  · exact .pure _
  · exact keepsMem_noteReads ..

theorem keepsMem_store (k : MemKind) (va : Word) (n v : Nat) : KeepsMem (store k va n v) := by
  refine .bind .get fun s => ?_
  split
  · exact keepsMem_supStore ..
  · exact keepsMem_ctxStore ..

/-! ### Vector operands -/

@[simp] theorem memOk_modQueue (s : State) (q : Nat) (f : Queue → Queue) : MemOk (s.modQueue q f) ↔ MemOk s := Iff.rfl

@[simp] theorem memOk_popAll (s : State) (qs : List Nat) : MemOk (s.popAll qs) ↔ MemOk s := by simp [State.popAll]

@[simp] theorem givesMemOk_pushWait {s : State} (hs : MemOk s) (q : Nat) (es : List QEntry) : GivesMemOk (s.pushWait q es) := by
  simp [State.pushWait, hs]

@[simp] theorem memOk_setVreg (s : State) (r : RegF) (x : Strip) : MemOk (s.setVreg r x) ↔ MemOk s := Iff.rfl

@[simp] theorem memOk_setMask (s : State) (k n : Nat) (f : Nat → Bool) : MemOk (s.setMask k n f) ↔ MemOk s := Iff.rfl

@[simp] theorem givesMemOk_pushVec {s : State} (hs : MemOk s) (d : VField) (e : QEntry) : GivesMemOk (s.pushVec d e) := by
  unfold State.pushVec
  split <;> simp [hs]

@[simp] theorem givesMemOk_writeVec {s : State} (hs : MemOk s) (d : VField) (z : Bool) (act : Nat → Bool) (pops : List Nat) (r :
    VResult) : GivesMemOk (s.writeVec d z act pops r) := by simp [State.writeVec, hs]

@[simp] theorem memOk_setSp (s : State) (slot addr : Nat) (l : List Byte) : MemOk (s.setSp slot addr l) ↔ MemOk s := Iff.rfl

/-! ### Copies queued, fences and line tags -/

@[simp] theorem givesMemOk_issueCopy {s : State} (hs : MemOk s) (cq : BitVec 2) (cb scope : BitVec 3) (args : State → CopyArgs) :
    GivesMemOk (issueCopy cq cb scope args s) := by simp [issueCopy, hs]

@[simp] theorem givesMemOk_waitChunks {s : State} (hs : MemOk s) (cb a b : RegF) : GivesMemOk (waitChunks cb a b s) := by
  simp [waitChunks, hs]

@[simp] theorem givesMemOk_testChunks {s : State} (hs : MemOk s) (d a b : RegF) (cb : BitVec 3) : GivesMemOk (testChunks d a b cb s) := by
  simp [testChunks, hs]

@[simp] theorem givesMemOk_clearChunks {s : State} (hs : MemOk s) (cb a b : RegF) : GivesMemOk (clearChunks cb a b s) := by
  simp [clearChunks, hs]

@[simp] theorem givesMemOk_fenceQueues {s : State} (hs : MemOk s) (cqs : BitVec 4) (qs : BitVec 16) : GivesMemOk (fenceQueues cqs qs s) :=
  by simp [fenceQueues, hs]

theorem keepsMem_readTag (d a : RegF) : KeepsMem (readTag d a) :=
  .bind .get fun _ => .bind (keepsMem_openAccess ..) fun _ => .getBind fun t ht => .set (by simpa using ht)

theorem keepsMem_writeTag (a b : RegF) : KeepsMem (writeTag a b) :=
  .bind .get fun _ => .bind (.ofStop _) fun _ => .bind (keepsMem_openAccess ..) fun _ => .getBind fun _ hu =>
    .ite (.deny _) (.ite (.deny _) (.ite (.throw _) (.ite (.throw _) (.ite (.pure _)
      (.ofStopBind (givesMemOk_commitLine hu _ _ _ _) fun _ hw => .set (hw.useXlate _))))))

/-! ### Scalar accesses of memory -/

theorem keepsMem_confirmed : KeepsMem confirmed := .bind .get fun _ => .need _ _

theorem keepsMem_ctxAtomic (slot : Nat) (va : Word) (n : Nat) (f : Nat → Option Nat) : KeepsMem (ctxAtomic slot va n f) := by
  refine .bind keepsMem_confirmed fun _ => .bind (keepsMem_openAccess ..) fun x => .bind .get fun t => .ite (.pure _) ?_
  refine .bind (.update fun s hs => hs.noteOutside _ _ _ _ _) fun _ => ?_
  split
  · exact .deny _
  · extract_lets rest
    have hrest (r : PUnit) : KeepsMem (rest r) := .bind (.update fun s hs => hs.noteZeroed _ _ _ _) fun _ => .pure _
    clear_value rest
    split
    · exact hrest _
    · split
      · exact .denyBind _ _
      · refine .getBind fun u hu => .ite (.denyBind _ _) (.ofStopBind (givesMemOk_commitLine hu _ _ _ _) fun w hw => ?_)
        exact .bind (.set (hw.useXlate _)) hrest

theorem keepsMem_atomic (va : Word) (n : Nat) (f : Nat → Option Nat) : KeepsMem (atomic va n f) := by
  refine .bind .get fun s => ?_
  split
  · exact keepsMem_ctxAtomic ..
  · refine .bind (keepsMem_supLoad ..) fun old => ?_
    split
    · exact .pure _
    · exact .bind (keepsMem_supStore ..) fun _ => .pure _

/-! ### Waits of agents -/

@[simp] theorem MemOk.notePort {s : State} (hs : MemOk s) (x : Xlate) : MemOk (s.notePort x) := by simp [State.notePort, hs]

theorem keepsMem_asdLoad (u : TlbUnit) (asd : Nat) (prov : Bool) (va : Word) (n : Nat) : KeepsMem (asdLoad u asd prov va n) := by
  refine .bind (.update fun s hs => hs.prewalk _ _ _) fun _ => .bind .get fun _ => .bind (.ofDeny _) fun x => .bind (.ofDeny _) fun _ =>
    .bind (.update fun s hs => (hs.touch _).notePort _) fun _ => .bind .get fun t => .ite (.pure _) ?_
  split
  · exact .deny _
  · exact .pure _

theorem keepsMem_asdPieces (u : TlbUnit) (asd : Nat) (prov : Bool) (n : Nat) : ∀ (k : Nat) (va : Word),
    KeepsMem (asdPieces u asd prov n k va)
  | 0, _ => .pure _
  | k + 1, _ => .bind (keepsMem_asdLoad ..) fun _ => .bind (keepsMem_asdPieces u asd prov n k _) fun _ => .pure _

/-- The state that an agent's read leaves. -/
@[simp] def AgentRead.state {α : Type} : AgentRead α → State
  | .value _ t | .wait _ t | .cause _ _ _ t => t

theorem memOk_agentRead {α : Type} {c : Comp α} (hc : KeepsMem c) {s : State} (hs : MemOk s) :
    MemOk (AgentRead.state (agentRead c s)) :=
  by
  unfold agentRead
  split
  all_goals next h => exact hc.run h hs

/-! ### The Task Front -/

@[simp] theorem MemOk.learnShape {s : State} (hs : MemOk s) (pa d v : Nat) : MemOk (s.learnShape pa d v) := by
  unfold State.learnShape
  repeat' split
  all_goals simp [hs]

@[simp] theorem MemOk.postTo {s : State} (hs : MemOk s) (pa d v : Nat) : MemOk (s.postTo pa d v) := by
  unfold State.postTo
  dsimp only
  repeat' split
  all_goals simp [hs]

@[simp] theorem MemOk.shapePosted {s : State} (hs : MemOk s) (pa v : Nat) : MemOk (s.shapePosted pa v) :=
  MemOk.foldl (fun _ t hu => MemOk.foldl (fun w d hw => by simp [hw]) _ hu) _ hs

@[simp] theorem MemOk.passEntry {s : State} (hs : MemOk s) (pa q : Nat) (body : TaskRec) : MemOk (s.passEntry pa q body) := by
  simp [State.passEntry, hs]

@[simp] theorem MemOk.notAccepted {s : State} (hs : MemOk s) (e q reason : Nat) : MemOk (s.notAccepted e q reason) := by
  simp [State.notAccepted, hs]

@[simp] theorem MemOk.reject {s : State} (hs : MemOk s) (pa q off : Nat) (body : TaskRec) : MemOk (s.reject pa q off body) :=
  MemOk.passEntry ((memOk_message ..).2 ((hs.writeStatus pa 4).report _)) _ _ _

@[simp] theorem MemOk.failRead {s : State} (hs : MemOk s) (pa which : Nat) (addr : Word) (cause : BitVec 32) :
    MemOk (s.failRead pa which addr cause) := by simp [State.failRead, hs]

theorem givesMemOk_readShapes (pa : Nat) (t : TaskRec) (s0 : State) :
    ∀ (ds : List Nat) {s : State}, MemOk s → GivesMemOk (readShapes pa t s0 ds s)
  | [], _, hs => (givesMemOk_ok _).2 hs
  | d :: ds, s, hs => by
    unfold readShapes
    split
    · exact givesMemOk_readShapes pa t s0 ds hs
    · next x _ =>
      have hr := memOk_agentRead (keepsMem_asdLoad frontUnit t.asd false (BitVec.ofNat 64 x.va) 8) hs
      split
      · exact givesMemOk_error _
      · next hu => rw [hu] at hr; exact (givesMemOk_ok _).2 (MemOk.failRead hr _ _ _ _)
      · next hu =>
        rw [hu] at hr
        refine givesMemOk_readShapes pa t s0 ds ((memOk_ite ..).2 ?_)
        split
        · exact MemOk.learnShape hr _ _ _
        · exact (memOk_modTask ..).2 hr

@[simp] theorem MemOk.releaseIfDone {s : State} (hs : MemOk s) (pa : Nat) : MemOk (s.releaseIfDone pa) := by
  unfold State.releaseIfDone
  split <;> simp [hs]

@[simp] theorem MemOk.accept {s : State} (hs : MemOk s) (pa q : Nat) (body : TaskRec) : MemOk (s.accept pa q body) := by
  unfold State.accept
  dsimp only
  split
  · next h => exact MemOk.releaseIfDone (givesMemOk_readShapes _ _ _ _ (by simp [hs]) _ h) _
  · simpa using hs

theorem memOk_readWset (l : List Byte) (t : TaskRec) {s : State} (hs : MemOk s) : MemOk (AgentRead.state (readWset l t s)) := by
  unfold readWset
  dsimp only
  have hr := memOk_agentRead (keepsMem_asdPieces frontUnit t.asd false 32 (wsetOf l).2 (wsetOf l).1) hs
  split
  all_goals next hu => rw [hu] at hr; exact hr

@[simp] theorem MemOk.judge {s : State} (hs : MemOk s) (pa q : Nat) (l : List Byte) : MemOk (s.judge pa q l) := by
  unfold State.judge
  extract_lets t u bad low
  have hu : MemOk u := by
    unfold u
    split
    · exact hs.scrub _
    · exact hs
  clear_value low bad u t
  refine (memOk_ite ..).2 ?_
  split
  · exact hu
  · refine (memOk_ite ..).2 ?_
    split
    · exact hu.reject _ _ _ _
    · have hr := memOk_readWset l t hu
      split
      · exact (memOk_agentHolds ..).2 hu
      · next e => rw [e] at hr; exact MemOk.reject hr _ _ _ _
      · next e =>
        rw [e] at hr
        refine (memOk_ite ..).2 ?_
        split
        · exact MemOk.reject hr _ _ _ _
        · exact MemOk.accept hr _ _ _

@[simp] theorem MemOk.takeTask {s : State} (hs : MemOk s) (q : Nat) : MemOk (s.takeTask q) := by
  unfold State.takeTask
  dsimp only
  have h1 (a : Nat) : MemOk (s.scrub a) := hs.scrub a
  have h2 (a e : Nat) : MemOk ((s.scrub a).scrub e) := (h1 a).scrub e
  repeat' split
  all_goals simp [hs, h1, h2]

@[simp] theorem MemOk.recheckWait {s : State} (hs : MemOk s) (pa k : Nat) : MemOk (s.recheckWait pa k) := by
  unfold State.recheckWait
  split
  · exact hs
  · next t _ =>
    split
    · exact hs
    · next w _ =>
      split
      · exact hs
      · have hr := memOk_agentRead (keepsMem_asdLoad frontUnit t.body.asd false (BitVec.ofNat 64 w.va) 8) hs
        split
        · exact (memOk_agentHolds ..).2 hs
        · next hu => rw [hu] at hr; exact MemOk.failRead hr _ _ _ _
        · next hu =>
          rw [hu] at hr
          split
          · exact (memOk_modTask ..).2 hr
          · exact hr

@[simp] theorem MemOk.shapeTimeout {s : State} (hs : MemOk s) (pa d : Nat) : MemOk (s.shapeTimeout pa d) := by
  unfold State.shapeTimeout
  repeat' split
  all_goals simp [hs]

@[simp] theorem memOk_admitHank (s : State) (t : Task) (h b : Nat) : MemOk (s.admitHank t h b) ↔ MemOk s := Iff.rfl

@[simp] theorem memOk_turnAfter (s : State) (q cls : Nat) (last : Bool) : MemOk (s.turnAfter q cls last) ↔ MemOk s := Iff.rfl

@[simp] theorem MemOk.admitNext {s : State} (hs : MemOk s) (pa : Nat) : MemOk (s.admitNext pa) := by
  unfold State.admitNext
  split <;> simp [hs]

/-! ### Control instructions -/

@[simp] theorem MemOk.rdvTrap {s : State} (hs : MemOk s) (slot : Nat) (actor : Cl) (idle : Bool) : MemOk (s.rdvTrap slot actor idle) := by
  unfold State.rdvTrap
  dsimp only
  split <;> simp [hs]

@[simp] theorem MemOk.rdvReached {s : State} (hs : MemOk s) (slot : Nat) (c : Cl) (y : BitVec 4 × BitVec 4) :
    MemOk (s.rdvReached slot c y) := by
  unfold State.rdvReached
  dsimp only
  repeat' split
  all_goals simp [hs]

@[simp] theorem memOk_endingIfIdle (s : State) (slot : Nat) : MemOk (s.endingIfIdle slot) ↔ MemOk s := by
  unfold State.endingIfIdle
  repeat' split
  all_goals simp

theorem keepsMem_signalStore (va v : Word) : KeepsMem (signalStore va v) :=
  .bind keepsMem_confirmed fun _ => .bind .get fun _ => .bind (keepsMem_store ..) fun _ => .update fun s hs => by simpa using hs

@[simp] theorem MemOk.post {s : State} (hs : MemOk s) (q pa : Nat) : MemOk (s.post q pa).1 := by
  unfold State.post
  split
  · exact hs
  · split
    · exact hs
    · simp [hs]

/-! ### Fetching -/

theorem keepsMem_fetchParcel (pc : Word) : KeepsMem (fetchParcel pc) := .bind (keepsMem_load ..) fun _ => .pure _

theorem keepsMem_fetchParcels : ∀ (n : Nat) (pc : Word), KeepsMem (fetchParcels pc n)
  | 0, _ => .pure _
  | n + 1, _ => .bind (keepsMem_fetchParcel _) fun _ => .bind (keepsMem_fetchParcels n _) fun _ => .pure _

theorem keepsMem_decodeHere (p q : Parcel) : KeepsMem (decodeHere p q) := by
  refine .bind .get fun s => ?_
  split
  · exact .pure _
  · exact .throw _

theorem keepsMem_fetchNext : KeepsMem fetchNext := by
  refine .bind .get fun s => ?_
  dsimp only
  split
  · exact keepsMem_decodeHere ..
  · split
    · exact keepsMem_decodeHere ..
    · exact .bind (keepsMem_fetchParcel _) fun p =>
        .ite (.bind (keepsMem_fetchParcel _) fun _ => keepsMem_decodeHere ..) (keepsMem_decodeHere ..)

@[simp] theorem MemOk.enter {s : State} (hs : MemOk s) (i : Instr) (late : Bool) : MemOk (s.enter i late) := by
  unfold State.enter
  dsimp only
  split <;> simp [hs]

@[simp] theorem MemOk.defer {t : State} (ht : MemOk t) (i : Instr) (s : State) : MemOk (State.defer i s t) := by
  unfold State.defer
  repeat' split
  all_goals simp [ht]

/-! ### Control registers -/

@[simp] theorem givesMemOk_writeQcfg {s : State} (hs : MemOk s) (slot n : Nat) (v : Word) : GivesMemOk (s.writeQcfg slot n v) := by
  simp [State.writeQcfg, hs]

@[simp] theorem givesMemOk_writeBankcfg {s : State} (hs : MemOk s) (slot : Nat) (v : Word) : GivesMemOk (s.writeBankcfg slot v) := by
  unfold State.writeBankcfg
  dsimp only
  split <;> simp [hs]

@[simp] theorem givesMemOk_writeCsr {s : State} (hs : MemOk s) (n : Nat) (v : Word) : GivesMemOk (s.writeCsr n v) := by
  unfold State.writeCsr
  dsimp only
  split <;> simp [hs]

theorem keepsMem_dueWrite : KeepsMem dueWrite := by
  refine .bind .get fun s => .bind (keepsMem_fetchParcel _) fun p => ?_
  split
  · exact .pure _
  · exact .pure _

/-! ### Convoys and reels -/

theorem keepsMem_packetParcel (k : Nat) : KeepsMem (packetParcel k) := by
  refine .bind .get fun s => ?_
  dsimp only
  split
  · exact .pure _
  · exact keepsMem_fetchParcel _

theorem keepsMem_convoyMembers (hdr : Parcel) : ∀ (us : List (BitVec 3)) (j : Nat), KeepsMem (convoyMembers hdr j us)
  | [], _ => .pure _
  | _ :: us, j => by
    refine .bind (keepsMem_packetParcel _) fun p => .bind (keepsMem_packetParcel _) fun q => ?_
    split
    · exact .throw _
    · exact .bind (keepsMem_convoyMembers hdr us (j + 1)) fun _ => .pure _

/-! ### Gathers and scatters -/

@[simp] theorem MemOk.prewalks {s : State} (hs : MemOk s) (slot : Nat) (vas : List Word) : MemOk (s.prewalks slot vas) := by
  unfold State.prewalks
  simp +contextual [MemOk.foldl, hs]

theorem keepsMem_openRows (slot : Nat) (k : MemKind) (rows : List Machine.Row) (contig : Bool) : KeepsMem (openRows slot k rows contig) :=
  by
  refine .bind (.update fun s hs => hs.prewalks _ _) fun _ => .bind .get fun _ => .bind (.ofDeny _) fun _ =>
    .bind (.update fun s hs => hs.prewalks _ _) fun _ => .bind .get fun _ => .bind (.ofDeny _) fun _ => .bind (.ofDeny _) fun _ =>
    .bind (.update fun s hs => (hs.touch _).noteOutside _ _ _ _ _) fun _ => .bind .get fun _ => ?_
  extract_lets rest
  have hrest (r : PUnit) : KeepsMem (rest r) := .bind (.ofDeny _) fun _ => .pure _
  clear_value rest
  split
  · exact .throwBind _ _
  · exact hrest _

theorem keepsMem_gatherRows (slot : Nat) (k : MemKind) (rows : List Machine.Row) (contig : Bool) :
    KeepsMem (gatherRows slot k rows contig) :=
  .bind (keepsMem_openRows ..) fun _ => .bind .get fun _ => .bind (.ofDeny _) fun _ => .pure _

theorem keepsMem_gather (slot : Nat) (k : MemKind) (base : Word) (pl : Places) (contig : Bool) (is : List Nat) :
    KeepsMem (gather slot k base pl contig is) := keepsMem_gatherRows ..

@[simp] theorem MemOk.touchStore {s : State} (hs : MemOk s) (xs : List Xlate) (whole : Xlate → Bool) :
    MemOk (s.touchStore xs whole) := by
  unfold State.touchStore
  simp +contextual [MemOk.foldl, hs]

theorem givesMemOk_commitStored {s : State} (hs : MemOk s) (slot : Nat) (p : LineWrite × Except LineErr Stored) :
    GivesMemOk (commitStored slot s p) := by
  unfold commitStored
  dsimp only
  split
  · simp [hs]
  · split
    · simp [hs]
    · exact (givesMemOk_commitLine hs _ _ _ _).map fun t ht => by simp [ht]

theorem givesMemOk_commitAll (slot : Nat) (l : List (LineWrite × Except LineErr Stored)) :
    ∀ {s : State}, MemOk s → GivesMemOk (l.foldlM (commitStored slot) s) := by
  induction l with
  | nil => exact fun hs => (givesMemOk_ok _).2 hs
  | cons p l ih => exact fun hs => (givesMemOk_bind _ _).2 fun t ht => ih (givesMemOk_commitStored hs slot p t ht)

theorem keepsMem_scatter (slot : Nat) (k : MemKind) (base : Word) (pl : Places) (contig : Bool) (fmt : Fmt) (blk rm : Nat)
    (els : List (Nat × SElem)) (res : F32) : KeepsMem (scatter slot k base pl contig fmt blk rm els res) := by
  refine .bind (.update fun s hs => hs.prewalks _ _) fun _ => .bind .get fun _ => .bind (.ofDeny _) fun p => ?_
  refine .bind (.update fun s hs => hs.prewalks _ _) fun _ => .bind .get fun _ => ?_
  refine .bind (.ofDeny _) fun _ => .bind (.ofDeny _) fun _ => .bind (.update fun s hs => hs.touchStore _ _) fun _ => .getBind fun t ht
    => ?_
  extract_lets ls order efs settled
  have hsettled (r : PUnit) : KeepsMem (settled r) := by
    refine .bind (.ofDeny _) fun _ => ?_
    extract_lets stored slotted
    have hstored (r : PUnit) : KeepsMem (stored r) :=
      .ofStopBind (givesMemOk_commitAll slot _ ht) fun u hu => .bind (.set hu) fun _ => .pure _
    have hslotted (r : PUnit) : KeepsMem (slotted r) := by
      unfold slotted
      clear_value stored
      split
      · exact .throwBind _ _
      · exact hstored _
    clear_value slotted
    split
    · exact .throwBind _ _
    · exact hslotted _
  clear_value settled
  split
  · exact .throwBind _ _
  · exact hsettled _

/-! ### The Copy Engines -/

@[simp] theorem memOk_setHead (s : State) (slot cq : Nat) (c : CopyCmd) : MemOk (s.setHead slot cq c) ↔ MemOk s := Iff.rfl

@[simp] theorem memOk_dropHead (s : State) (slot cq : Nat) : MemOk (s.dropHead slot cq) ↔ MemOk s := Iff.rfl

@[simp] theorem MemOk.prewalkSegs {s : State} (hs : MemOk s) (slot : Nat) (c : CopyCmd) (gs : List CopySeg) :
    MemOk (s.prewalkSegs slot c gs) := by
  unfold State.prewalkSegs
  simp +contextual [MemOk.foldl, hs]

@[simp] theorem MemOk.touchChunk {s : State} (hs : MemOk s) (slot cq : Nat) (pc : Word) (ps : List SegXlate) :
    MemOk (s.touchChunk slot cq pc ps) :=
  ((hs.touch _).noteOutside _ _ _ _ _).touchStore _ _

theorem givesMemOk_putCopied {s : State} (hs : MemOk s) (slot cq : Nat) (y : Xlate) (l : Line) (mask : MaskUpdate) :
    GivesMemOk (s.putCopied slot cq y l mask) := by
  unfold State.putCopied
  split
  · simp [hs]
  · split
    · simp
    · exact (givesMemOk_commitLine hs _ _ _ _).map fun t ht => by simp [ht]

@[simp] theorem MemOk.giveUp {s : State} (hs : MemOk s) (slot cq : Nat) : MemOk (s.giveUp slot cq) := by simp [State.giveUp, hs]

@[simp] theorem MemOk.copyStops {s : State} (hs : MemOk s) (slot cq : Nat) (c : CopyCmd) (chunk : Option Nat) (x : Stop) :
    MemOk (s.copyStops slot cq c chunk x) := by
  unfold State.copyStops
  split <;> simp [hs]

theorem memOk_copyLine {d e : CopyDone} {slot cq : Nat} {x y : Xlate} (hd : MemOk d.s) (h : State.copyLine d slot cq x y = .ok e) :
    MemOk e.s := by
  unfold State.copyLine at h
  dsimp only at h
  repeat' split at h
  all_goals cases h
  all_goals exact givesMemOk_putCopied hd _ _ _ _ _ _ (by assumption)

theorem memOk_copyBytes {d e : CopyDone} {slot cq : Nat} {p : SegXlate} (hd : MemOk d.s) (h : State.copyBytes d slot cq p = .ok e) :
    MemOk e.s := by
  unfold State.copyBytes at h
  dsimp only at h
  split at h
  · cases h
  · split at h
    · cases h; simpa using hd
    · split at h
      · cases h
      · split at h
        · cases h
        · next hp => cases h; exact givesMemOk_putCopied hd _ _ _ _ _ _ hp

theorem memOk_piece {d e : CopyDone} {slot cq : Nat} {p : SegXlate} (hd : MemOk d.s) (h : CopyDone.piece slot cq d p = .ok e) :
    MemOk e.s := by
  unfold CopyDone.piece at h
  split at h
  · exact memOk_copyLine hd h
  · exact memOk_copyBytes hd h

theorem memOk_pieces {slot cq : Nat} (l : List SegXlate) :
    ∀ {d e : CopyDone}, MemOk d.s → l.foldlM (CopyDone.piece slot cq) d = .ok e → MemOk e.s := by
  induction l with
  | nil => intro d e hd h; cases h; exact hd
  | cons p l ih =>
    intro d e hd h
    rw [List.foldlM_cons] at h
    cases hp : CopyDone.piece slot cq d p with
    | error x => rw [hp] at h; cases h
    | ok u => rw [hp] at h; exact ih (memOk_piece hd hp) h

@[simp] theorem MemOk.copyChunk {s : State} (hs : MemOk s) (slot cq chunk : Nat) (c : CopyCmd) : MemOk (s.copyChunk slot cq chunk c) := by
  unfold State.copyChunk
  have hp := hs.prewalkSegs slot c (c.segs chunk)
  split
  · exact hs
  · dsimp only
    split
    · exact hp.copyStops _ _ _ _ _
    · have ht := hp.touchChunk slot cq c.pc
      split
      · exact (ht _).copyStops _ _ _ _ _
      · next h => exact (memOk_modCtx ..).2 ((memOk_setHead ..).2 (memOk_pieces (d := ⟨_, _, _⟩) _ (ht _) h))

@[simp] theorem memOk_prompt (s : State) : MemOk (s.prompt) ↔ MemOk s := by simp [State.prompt]

@[simp] theorem MemOk.copyStep {s : State} (hs : MemOk s) (slot cq chunk : Nat) : MemOk (s.copyStep slot cq chunk) := by
  unfold State.copyStep
  split <;> simp [hs]

@[simp] theorem MemOk.copyLeaves {s : State} (hs : MemOk s) (slot cq : Nat) (c : CopyCmd) : MemOk (s.copyLeaves slot cq c) := by
  simp [State.copyLeaves, hs]

@[simp] theorem MemOk.copySignal {s : State} (hs : MemOk s) (slot cq : Nat) (c : CopyCmd) : MemOk (s.copySignal slot cq c) := by
  unfold State.copySignal
  split
  · simp [hs]
  · dsimp only
    split
    · next h => exact (((keepsMem_ctxStore ..).run h hs)).copyStops _ _ _ _ _
    · next h =>
      have ht := (keepsMem_ctxStore ..).run h hs
      split <;> simp [ht]

@[simp] theorem MemOk.copyEnd {s : State} (hs : MemOk s) (slot cq : Nat) : MemOk (s.copyEnd slot cq) := by
  unfold State.copyEnd
  split <;> simp [hs]

/-! ### Decryption jobs -/

@[simp] theorem MemOk.decryptDone {s : State} (hs : MemOk s) : MemOk (s.decryptDone) := by
  unfold State.decryptDone
  repeat' split
  all_goals simp [hs]

/-! ### Matrix instructions -/

@[simp] theorem memOk_setTile (s : State) (m : RegF) (t : Tile) : MemOk (s.setTile m t) ↔ MemOk s := Iff.rfl

@[simp] theorem memOk_setAcc (s : State) (a : RegF) (x : Acc) : MemOk (s.setAcc a x) ↔ MemOk s := Iff.rfl

@[simp] theorem memOk_writeDense (s : State) (m : RegF) (f : Fmt) (elems : SMap Word) (scales : SMap Byte) :
    MemOk (s.writeDense m f elems scales) ↔ MemOk s := Iff.rfl

@[simp] theorem memOk_writePair (s : State) (m : RegF) (p : Mat × Mat) : MemOk (s.writePair m p) ↔ MemOk s := Iff.rfl

@[simp] theorem givesMemOk_claimName {s : State} (hs : MemOk s) (d : RegF) (n : Nat) (elas : Bool) : GivesMemOk (claimName d n elas s) :=
  by simp [claimName, hs]

@[simp] theorem givesMemOk_zeroName {s : State} (hs : MemOk s) (d : RegF) : GivesMemOk (zeroName d s) := by simp [zeroName, hs]

@[simp] theorem givesMemOk_transpose {s : State} (hs : MemOk s) (d a : RegF) : GivesMemOk (transpose d a s) := by
  unfold transpose
  dsimp only
  split <;> simp [hs]

@[simp] theorem givesMemOk_densify {s : State} (hs : MemOk s) (d a : RegF) : GivesMemOk (densify d a s) := by
  unfold densify
  dsimp only
  split <;> simp [hs]

@[simp] theorem givesMemOk_multiplyPairs {s : State} (hs : MemOk s) (d a b : RegF) : GivesMemOk (multiplyPairs d a b s) := by
  simp [multiplyPairs, hs]

@[simp] theorem givesMemOk_addPairs {s : State} (hs : MemOk s) (d a b rc re : RegF) (dense : Bool) :
    GivesMemOk (addPairs d a b rc re dense s) := by simp [addPairs, hs]

@[simp] theorem givesMemOk_recompress {s : State} (hs : MemOk s) (d a : RegF) : GivesMemOk (recompress d a s) := by simp [recompress, hs]

@[simp] theorem givesMemOk_mmaRank {s : State} (hs : MemOk s) (d : RegF) (x y : Tile) : GivesMemOk (mmaRank d x y s) := by
  unfold mmaRank
  dsimp only
  repeat' split
  all_goals simp [hs]

@[simp] theorem givesMemOk_mmaDense {s : State} (hs : MemOk s) (d : RegF) (x y : Tile) : GivesMemOk (mmaDense d x y s) := by
  simp [mmaDense, hs]

@[simp] theorem givesMemOk_matrixProduct {s : State} (hs : MemOk s) (d a b : RegF) : GivesMemOk (matrixProduct d a b s) := by
  simp [matrixProduct, hs]

@[simp] theorem givesMemOk_slide {s : State} (hs : MemOk s) (d a b : RegF) (n : Nat) : GivesMemOk (slide d a b n s) := by simp [slide, hs]

@[simp] theorem memOk_setEfc (s : State) (ef : Bool) (res : F32) : MemOk (s.setEfc ef res) ↔ MemOk s := by simp [State.setEfc]

@[simp] theorem givesMemOk_acvtTile {s : State} (hs : MemOk s) (d a : RegF) (f : Fmt) (blk : Nat) (rm : BitVec 3) :
    GivesMemOk (acvtTile d a f blk rm s) := by simp [acvtTile, hs]

@[simp] theorem memOk_acvtRows (a : RegF) (q : Nat) (f : Fmt) (blk : BitVec 2) (rm : BitVec 3) :
    ∀ (n i : Nat) (s : State), MemOk (acvtRows a q f blk rm n i s).1 ↔ MemOk s
  | 0, _, _ => Iff.rfl
  | n + 1, i, s => by
    unfold acvtRows
    dsimp only
    split
    · rw [memOk_acvtRows]; simp
    · rfl

/-! ### Vector instructions -/

@[simp] theorem givesMemOk_polyArith {s : State} (hs : MemOk s) (op : VArith) (n : Nat) (d a b : RegF) (m : VMods) :
    GivesMemOk (polyArith op n d a b m s) := by simp [polyArith, hs]

@[simp] theorem givesMemOk_polyFunc {s : State} (hs : MemOk s) (f : Val → Val × Flags) (d a : RegF) (m : VMods) :
    GivesMemOk (polyFunc f d a m s) := by simp [polyFunc, hs]

@[simp] theorem givesMemOk_bitwise {s : State} (hs : MemOk s) (f : Nat → Nat → Nat → Nat) (d a b : RegF) (m : VMods) :
    GivesMemOk (bitwise f d a b m s) := by simp [bitwise, hs]

@[simp] theorem memOk_cmpMask (s : State) (k : RegF) (z : Bool) (act f : Nat → Bool) : MemOk (s.cmpMask k z act f) ↔ MemOk s := by
  simp [State.cmpMask]

@[simp] theorem givesMemOk_compareVec {s : State} (hs : MemOk s) (d a b : RegF) (m : VMods) : GivesMemOk (compareVec d a b m s) := by
  simp [compareVec, hs]

@[simp] theorem givesMemOk_selectVec {s : State} (hs : MemOk s) (d a b : RegF) (m : VMods) : GivesMemOk (selectVec d a b m s) := by
  simp [selectVec, hs]

@[simp] theorem givesMemOk_moveVec {s : State} (hs : MemOk s) (d a : RegF) (m : VMods) : GivesMemOk (moveVec d a m s) := by
  simp [moveVec, hs]

@[simp] theorem givesMemOk_splatVec {s : State} (hs : MemOk s) (d a : RegF) (m : VMods) : GivesMemOk (splatVec d a m s) := by
  simp [splatVec, hs]

@[simp] theorem givesMemOk_extractVec {s : State} (hs : MemOk s) (d a b : RegF) (m : VMods) : GivesMemOk (extractVec d a b m s) := by
  simp [extractVec, hs]

@[simp] theorem givesMemOk_convertVec {s : State} (hs : MemOk s) (d a : RegF) (m : VMods) : GivesMemOk (convertVec d a m s) := by
  simp [convertVec, hs]

@[simp] theorem givesMemOk_rescaleVec {s : State} (hs : MemOk s) (d a : RegF) (m : VMods) : GivesMemOk (rescaleVec d a m s) := by
  simp [rescaleVec, hs]

/-! ### Queue instructions -/

@[simp] theorem givesMemOk_pushScalar {s : State} (hs : MemOk s) (f : Fmt) (d : RegF) (q : BitVec 4) : GivesMemOk (pushScalar f d q s) :=
  by simp [pushScalar, hs]

@[simp] theorem givesMemOk_popScalar {s : State} (hs : MemOk s) (d : RegF) (q : BitVec 4) : GivesMemOk (popScalar d q s) := by
  simp [popScalar, hs]

@[simp] theorem givesMemOk_peekQueue {s : State} (hs : MemOk s) (d : RegF) (q : BitVec 4) : GivesMemOk (peekQueue d q s) := by
  simp [peekQueue, hs]

@[simp] theorem givesMemOk_statQueue {s : State} (hs : MemOk s) (d : RegF) (q : BitVec 4) : GivesMemOk (statQueue d q s) := by
  simp [statQueue, hs]

@[simp] theorem givesMemOk_closeQueue {s : State} (hs : MemOk s) (q : BitVec 4) : GivesMemOk (closeQueue q s) := by simp [closeQueue, hs]

@[simp] theorem givesMemOk_setLength {s : State} (hs : MemOk s) (d a : RegF) (f : Fmt) : GivesMemOk (setLength d a f s) := by
  simp [setLength, hs]

theorem keepsMem_queueGather (q : Nat) (r : LoadReq) : KeepsMem (queueGather q r) := by
  refine .bind .get fun s => .bind (keepsMem_gatherRows ..) fun g => .getBind fun t ht => .set (MemOk.noteZeroed ?_ _ _ _ _)
  split <;> simp [ht]

theorem keepsMem_reissueLoads : ∀ l : List (Nat × LoadReq), KeepsMem (reissueLoads l)
  | [] => .pure _
  | _ :: l => .bind (keepsMem_queueGather _ _) fun _ => .bind (.update fun s hs => by simpa using hs) fun _ => keepsMem_reissueLoads l

theorem keepsMem_queueLoad (q a : RegF) (stride : Option RegF) : KeepsMem (queueLoad q a stride) :=
  .bind .get fun _ => .bind (.ofStop _) fun _ => .ite (.pure _) (keepsMem_queueGather ..)

theorem keepsMem_queueLoadIndexed (q a qi : RegF) : KeepsMem (queueLoadIndexed q a qi) :=
  .bind .get fun _ => .bind (.ofStop _) fun _ => .bind (.ofStop _) fun _ => .bind (.ofStop _) fun _ =>
    .bind (keepsMem_queueGather ..) fun _ => .update fun s hs => by simpa using hs

theorem keepsMem_queueScatter (base : Word) (pl : Places) (contig : Bool) (e : QEntry) (is : List Nat) :
    KeepsMem (queueScatter base pl contig e is) :=
  .bind .get fun _ => .bind (keepsMem_scatter ..) fun _ => .pure _

theorem keepsMem_queueStore (q a : RegF) (pl : State → Places) (contig : Bool) : KeepsMem (queueStore q a pl contig) :=
  .bind .get fun _ => .bind (.ofStop _) fun _ => .bind (.ofStop _) fun _ => .bind (.ofStop _) fun _ =>
    .bind (keepsMem_queueScatter ..) fun _ => .update fun s hs => by simpa using hs

theorem keepsMem_queueStoreIndexed (q a qi : RegF) : KeepsMem (queueStoreIndexed q a qi) :=
  .bind .get fun _ => .bind (.ofStop _) fun _ => .bind (.ofStop _) fun _ => .bind (.ofStop _) fun _ => .bind (.ofStop _) fun _ =>
    .bind (keepsMem_queueScatter ..) fun _ => .update fun s hs => by simpa using hs

theorem keepsMem_bindStream (q a : RegF) : KeepsMem (bindStream q a) :=
  .bind .get fun _ => .bind (.ofStop _) fun _ => .bind (keepsMem_loadQuiet ..) fun _ => .bind (.ofStop _) fun _ =>
    .bind (keepsMem_noteMine _) fun _ => .update fun s hs => by simpa using hs

@[simp] theorem givesMemOk_unbindStream {s : State} (hs : MemOk s) (q : RegF) : GivesMemOk (unbindStream q s) := by
  simp [unbindStream, hs]

/-! ### Vector configuration -/

@[simp] theorem memOk_capBanks (s : State) (slot c : Nat) : MemOk (s.capBanks slot c) ↔ MemOk s := by simp [State.capBanks]

@[simp] theorem givesMemOk_setCapacity {s : State} (hs : MemOk s) (d n : RegF) : GivesMemOk (setCapacity d n s) := by
  simp [setCapacity, hs]

theorem keepsMem_loadLines (k : MemKind) : ∀ (n : Nat) (va : Word), KeepsMem (loadLines k va n)
  | 0, _ => .pure _
  | n + 1, _ => .bind (keepsMem_loadQuiet ..) fun _ => .bind (keepsMem_loadLines k n _) fun _ => .pure _

theorem keepsMem_loadCodebook (a : RegF) : KeepsMem (loadCodebook a) :=
  .bind .get fun _ => .bind (.ofDeny _) fun _ => .bind (keepsMem_loadLines ..) fun _ => .bind (keepsMem_noteMine _) fun _ =>
    .update fun s hs => by simpa using hs

@[simp] theorem givesMemOk_writeVtag {s : State} (hs : MemOk s) (d a : RegF) : GivesMemOk (writeVtag d a s) := by simp [writeVtag, hs]

@[simp] theorem givesMemOk_popVector {s : State} (hs : MemOk s) (d q : RegF) : GivesMemOk (popVector d q s) := by simp [popVector, hs]

/-! ### The save frame -/

@[simp] theorem MemOk.fillBlocks {s : State} (hs : MemOk s) (base : Nat) (x : FrameSection) : MemOk (s.fillBlocks base x) := by
  unfold State.fillBlocks
  split
  · exact hs
  · exact SMap.wf_setRange (SMap.wf_setRange hs _ _ _) _ _ _

@[simp] theorem MemOk.writeSection {s : State} (hs : MemOk s) (base : Nat) (x : FrameSection) : MemOk (s.writeSection base x) :=
  SMap.wf_setRange hs _ _ _

@[simp] theorem MemOk.saveFrame {s : State} (hs : MemOk s) (slot base : Nat) (prov : Bool) : MemOk (s.saveFrame slot base prov) :=
  MemOk.foldl (fun _ _ hu => hu.writeSection _ _) _ (MemOk.foldl (fun _ _ hu => hu.fillBlocks _ _) _ hs)

@[simp] theorem memOk_restoreScratch (s : State) (slot base : Nat) : MemOk (s.restoreScratch slot base) ↔ MemOk s := by
  simp [State.restoreScratch]

@[simp] theorem memOk_grantBanks (s : State) (slot : Nat) (l : List Nat) (m : Bank) : MemOk (s.grantBanks slot l m) ↔ MemOk s := Iff.rfl

@[simp] theorem memOk_takeFrameBanks (s : State) (slot base : Nat) (vregs : List Nat) :
    MemOk (s.takeFrameBanks slot base vregs) ↔ MemOk s := by simp [State.takeFrameBanks]

@[simp] theorem memOk_loadFrame (s : State) (slot base : Nat) (vregs : List Nat) : MemOk (s.loadFrame slot base vregs) ↔ MemOk s := by
  simp [State.loadFrame]

@[simp] theorem MemOk.scrubFrame {s : State} (hs : MemOk s) (base : Nat) : MemOk (s.scrubFrame base) := by
  unfold State.scrubFrame
  simp +contextual [MemOk.foldl, hs]

/-! ### Shapes -/

@[simp] theorem MemOk.landLine {s : State} (hs : MemOk s) (h : Hank) (e : PlbEntry) : MemOk (State.landLine h s e) := by
  unfold State.landLine
  split
  · next x _ =>
    have ht := hs.touch [x]
    dsimp only
    split <;> simp [ht]
  · exact hs

@[simp] theorem MemOk.clearProv {s : State} (hs : MemOk s) (h : Hank) : MemOk (s.clearProv h) := by
  unfold State.clearProv
  split <;> simp [hs]

@[simp] theorem MemOk.confirm {s : State} (hs : MemOk s) (h : Hank) : MemOk (s.confirm h) := by
  unfold State.confirm
  extract_lets held s1 s2 s3 s4 s5
  have h1 : MemOk s1 := by
    unfold s1
    split
    · exact hs
    · exact MemOk.foldl (fun _ e hu => hu.landLine h e) _ hs
  have h2 : MemOk s2 := (memOk_modHank ..).2 (MemOk.clearProv ((memOk_dropHeld ..).2 h1) h)
  have h3 : MemOk s3 := by
    unfold s3
    split
    · exact (memOk_modCtx ..).2 h2
    · exact h2
  have h5 : MemOk s5 := (memOk_wakeAll ..).2 (h3.reportAll (recordsOf held))
  clear_value s5
  split
  · exact h5.terminate _ _
  · exact h5.failHank _ _
  · exact h5

@[simp] theorem MemOk.trim {s : State} (hs : MemOk s) (h : Hank) : MemOk (s.trim h) := by simp [State.trim, hs]

@[simp] theorem MemOk.tryConfirm {s : State} (hs : MemOk s) (h : Hank) : MemOk (s.tryConfirm h) := by
  unfold State.tryConfirm
  split <;> simp [hs]

@[simp] theorem MemOk.actOnShape {s : State} (hs : MemOk s) (pa d : Nat) : MemOk (s.actOnShape pa d) := by
  unfold State.actOnShape
  split
  · exact hs
  · next t _ =>
    split
    · have h1 (l : List Hank) : MemOk (l.foldl State.tryConfirm s) := MemOk.foldl (fun _ h hu => hu.tryConfirm h) l hs
      have h2 (k l : List Hank) : MemOk (k.foldl State.trim (l.foldl State.tryConfirm s)) :=
        MemOk.foldl (fun _ h hu => hu.trim h) k (h1 l)
      dsimp only
      split <;> exact MemOk.checkTask (MemOk.releaseIfDone (by simp [h2]) pa) pa
    · exact hs

/-! ### Staging -/

@[simp] theorem MemOk.raiseStageFault {s : State} (hs : MemOk s) (slot : Nat) : MemOk (s.raiseStageFault slot) := by
  unfold State.raiseStageFault
  repeat' split
  all_goals simp [hs]

@[simp] theorem MemOk.failStaging {s : State} (hs : MemOk s) (h : Hank) (f : Nat × Nat × BitVec 32) : MemOk (s.failStaging h f) := by
  unfold State.failStaging
  split <;> simp [hs]

@[simp] theorem MemOk.stageFails {s : State} (hs : MemOk s) (h : Hank) (r : Region) (i : Nat) (cause : BitVec 32) (fatal : Bool) (addr
    : Word) : MemOk (s.stageFails h r i cause fatal addr) := by
  unfold State.stageFails
  repeat' split
  all_goals simp [hs]

@[simp] theorem memOk_stageLand (s : State) (h : Hank) (r : Region) (i v : Nat) : MemOk (s.stageLand h r i v) ↔ MemOk s := by
  unfold State.stageLand
  split <;> simp

@[simp] theorem MemOk.beginMove {s : State} (hs : MemOk s) (h : Hank) (x : Xlate) : MemOk (s.beginMove h x) := by
  unfold State.beginMove
  dsimp only
  split
  · exact hs
  · have h1 := MemOk.foldl (fun _ k (hu : MemOk _) => hu.performAll k) (s.ctxs.map Prod.fst) hs
    simp [h1]

@[simp] theorem MemOk.endMove {s : State} (hs : MemOk s) (m : PageMove) : MemOk (s.endMove m) := by simp [State.endMove, hs]

@[simp] theorem MemOk.moveLine {s : State} (hs : MemOk s) (bobbin : Option Nat) (m : PageMove) : MemOk (s.moveLine bobbin m) := by
  unfold State.moveLine
  extract_lets a b s1 l s2 s3 m' s4
  have h2 : MemOk s2 := (memOk_recall ..).2 ((hs.scrub a).putLine b _)
  have h3 : MemOk s3 := by
    unfold s3
    split
    · exact h2
    · exact h2
  have h4 : MemOk s4 := h3
  refine (memOk_ite ..).2 ?_
  split
  · exact hs.abortMoves _
  · refine (memOk_ite ..).2 ?_
    split
    · exact hs
    · refine (memOk_ite ..).2 ?_
      split
      · exact h4.endMove _
      · exact h4

@[simp] theorem MemOk.stageLine {s : State} (hs : MemOk s) (task : Nat) (wid : Word) (i : Nat) : MemOk (s.stageLine task wid i) := by
  unfold State.stageLine
  split
  · next h t _ _ =>
    split
    · exact hs
    · next r _ =>
      refine (memOk_ite ..).2 ?_
      split
      · split
        · exact hs.moveLine _ _
        · have hr : MemOk (AgentRead.state (s.stageRead t h r i)) := memOk_agentRead (keepsMem_asdLoad ..) hs
          split
          · exact (memOk_agentHolds ..).2 hs
          · next hu => rw [hu] at hr; exact MemOk.stageFails hr _ _ _ _ _ _
          · next hu =>
            rw [hu] at hr
            split
            · exact MemOk.beginMove hr _ _
            · exact (memOk_stageLand ..).2 hr
      · exact hs
  · exact hs

@[simp] theorem MemOk.stageLines (task : Nat) (wid : Word) (i : Nat) :
    ∀ (n : Nat) {s : State}, MemOk s → MemOk (stageLines task wid i n s)
  | 0, _, hs => hs
  | n + 1, _, hs => MemOk.stageLines task wid i n (hs.stageLine task wid i)

@[simp] theorem memOk_becomeReady (s : State) (task : Nat) (wid : Word) : MemOk (s.becomeReady task wid) ↔ MemOk s := by
  unfold State.becomeReady
  split <;> simp

/-! ### The Dispatchers -/

@[simp] theorem memOk_takeSlot (s : State) (t : Task) (h : Hank) (k : Nat) : MemOk (s.takeSlot t h k) ↔ MemOk s := by
  simp [State.takeSlot]

theorem memOk_placeAll (b : Nat) (l : List Hank) : ∀ {s t : State}, MemOk s → s.placeAll b l = some t → MemOk t := by
  induction l with
  | nil => intro s t hs h; cases h; exact hs
  | cons m l ih =>
    intro s t hs h
    unfold State.placeAll at h
    split at h
    · exact ih hs h
    · split at h
      · cases h
      · split at h
        · cases h
        · exact ih (by simp [hs]) h

@[simp] theorem memOk_reserve (s : State) (task : Nat) (wid : Word) : MemOk (s.reserve task wid) ↔ MemOk s := by
  unfold State.reserve
  repeat' split
  all_goals simp

@[simp] theorem memOk_claimSlot (s : State) (t : Task) (h : Hank) (k : Nat) : MemOk (s.claimSlot t h k) ↔ MemOk s := Iff.rfl

theorem memOk_placeSuspended (b : Nat) (l : List Hank) : ∀ {s t : State}, MemOk s → s.placeSuspended b l = some t → MemOk t := by
  induction l with
  | nil => intro s t hs h; cases h; exact hs
  | cons m l ih =>
    intro s t hs h
    unfold State.placeSuspended at h
    split at h
    · cases h
    · split at h
      · cases h
      · exact ih (by simp [hs]) h

@[simp] theorem MemOk.readCodebook {s : State} (hs : MemOk s) (slot : Nat) : MemOk (s.readCodebook slot) := by
  unfold State.readCodebook
  split
  · exact hs
  · next h _ =>
    split
    · exact hs
    · next t _ =>
      have hr := memOk_agentRead (keepsMem_asdPieces (.bobbin h.bobbin) t.body.asd h.prov 128 8 (BitVec.ofNat 64 t.body.cbtp)) hs
      split
      · next hu => rw [hu] at hr; exact (memOk_modCtx ..).2 ((memOk_agentHolds ..).2 hr)
      · next hu => rw [hu] at hr; exact (memOk_modCtx ..).2 hr
      · next hu =>
        rw [hu] at hr
        have hv : MemOk _ := (memOk_modCtx _ slot fun x => { x with cbtPending := false }).2 hr
        refine (memOk_ite ..).2 ?_
        split
        · exact hv.terminate _ _
        · exact hv.takeEvent _ _ _

@[simp] theorem MemOk.bind {s : State} (hs : MemOk s) (m : Hank) : MemOk (s.bind m) := by
  unfold State.bind
  repeat' split
  all_goals simp [hs]

@[simp] theorem MemOk.dispatch {s : State} (hs : MemOk s) (task : Nat) (wid : Word) : MemOk (s.dispatch task wid) := by
  unfold State.dispatch
  split
  · split
    · split
      · simp [hs]
      · exact hs
    · dsimp only
      split
      · split
        · exact hs
        · next h => exact (memOk_modTask ..).2 (MemOk.foldl (fun _ _ hu => hu.bind _) _ (memOk_placeAll _ _ hs h))
      · exact hs
    · exact hs
  · exact hs

@[simp] theorem MemOk.endHank {s : State} (hs : MemOk s) (slot : Nat) : MemOk (s.endHank slot) := by
  unfold State.endHank
  split <;> simp [hs]

/-! ### Streams -/

@[simp] theorem MemOk.streamEvent {s : State} (hs : MemOk s) (q slot : Nat) (r : Rec) : MemOk (s.streamEvent q slot r) := by
  simp [State.streamEvent, hs]

@[simp] theorem MemOk.streamStops {s : State} (hs : MemOk s) (slot q : Nat) (x : Stop) : MemOk (s.streamStops slot q x) := by
  unfold State.streamStops
  split <;> simp [hs]

@[simp] theorem MemOk.pushStrip {s : State} (hs : MemOk s) (slot q : Nat) (x : Stream) (g : Gathered) (es : List (QEntry × Flags)) :
    MemOk (s.pushStrip slot q x g es) := by simp [State.pushStrip, hs]

@[simp] theorem MemOk.refill {s : State} (hs : MemOk s) (slot q : Nat) : MemOk (s.refill slot q) := by
  unfold State.refill
  split
  · exact hs
  · split
    · simp [hs]
    · split
      · exact hs
      · dsimp only
        split
        · next h => exact ((keepsMem_gather ..).run h hs).streamStops _ _ _
        · next h =>
          have ht := (keepsMem_gather ..).run h hs
          split <;> simp [ht]

/-! ### Supervisor instructions -/

theorem keepsMem_supBytes : ∀ (n : Nat) (a : Word), KeepsMem (supBytes a n)
  | 0, _ => .pure _
  | n + 1, _ => .bind (keepsMem_supLoad ..) fun _ => .bind (keepsMem_supBytes n _) fun _ => .pure _

@[simp] theorem memOk_retryStaging (s : State) (slot : Nat) (src : EventSource) : MemOk (s.retryStaging slot src) ↔ MemOk s := by
  unfold State.retryStaging
  split <;> simp

@[simp] theorem MemOk.dispose {s : State} (hs : MemOk s) (slot : Nat) (disp : Byte) : MemOk (s.dispose slot disp) := by
  unfold State.dispose
  split <;> simp [hs]

theorem keepsMem_saveTarget (a : RegF) : KeepsMem (saveTarget a) := by
  refine .bind .get fun s => .bind (.ofStop _) fun k => .ite (.pure _) ?_
  split
  · exact .throw _
  · dsimp only
    split
    · exact .throw _
    · exact .update fun t ht => by simp [ht]

theorem keepsMem_restoreTarget (a : RegF) : KeepsMem (restoreTarget a) := by
  refine .bind .get fun s => .bind (.ofStop _) fun k => .ite (.pure _) ?_
  extract_lets base
  split
  · exact .throw _
  · refine .bind (.update fun t ht => ht.scrubFrame _) fun _ => .getBind fun t ht => .bind (.need _ _) fun _ => ?_
    extract_lets u secs rest
    have hrest (r : PUnit) : KeepsMem (rest r) := .bind (.need _ _) fun _ => .set (by simp [u, ht])
    clear_value rest
    split
    · exact .throwBind _ _
    · exact hrest _

@[simp] theorem memOk_endStaging (s : State) (f : Hank → Task → Region → Nat → Nat → Bool) :
    MemOk (s.endStaging f) ↔ MemOk s :=
  Iff.rfl

@[simp] theorem MemOk.invalidate {s : State} (hs : MemOk s) (x : TlbiScope) : MemOk (s.invalidate x) := by simp [State.invalidate, hs]

/-! ### Pages and the host -/

theorem MemOk.underDeny {s : State} (hs : MemOk s) (d : Denial) {f : State → State} (hf : ∀ s, MemOk s → MemOk (f s)) :
    MemOk (s.underDeny d f) := hf { s with deny := some d } hs

@[simp] theorem memOk_wakePage (s : State) (p : HostPage) : MemOk (s.wakePage p) ↔ MemOk s := Iff.rfl

@[simp] theorem MemOk.haltAgent {s : State} (hs : MemOk s) (a : Agent) (x : Stop) : MemOk (s.haltAgent a x) := by
  simp [State.haltAgent, hs]

@[simp] theorem MemOk.haltAt {s : State} (hs : MemOk s) (slot : Nat) (c : Cl) (x : Stop) : MemOk (s.haltAt slot c x) := by
  simp [State.haltAt, hs]

/-- Each act of an engine keeps the canonical form. -/
theorem memOk_engineActs {s t : State} {f : State → State} (hf : f ∈ s.engineActs) (ht : MemOk t) : MemOk (f t) := by
  simp only [State.engineActs, List.mem_append, List.mem_flatMap, List.mem_map] at hf
  rcases hf with (((((⟨p, -, cq, -, hf⟩ | ⟨p, -, q, -, rfl⟩) | ⟨h, -, rfl⟩) | ⟨h, -, i, -, rfl⟩) | ⟨k, -, i, -, rfl⟩) | ⟨q, -, rfl⟩)
    | ⟨k, -, d, -, rfl⟩
  · split at hf
    · cases hf
    · simp only [List.mem_append, List.mem_map, List.mem_singleton] at hf
      rcases hf with ⟨n, -, rfl⟩ | rfl <;> simp [ht]
  all_goals simp [ht]

@[simp] theorem MemOk.denyEngines {s : State} (hs : MemOk s) (d : Denial) : MemOk (s.denyEngines d) := by
  have step : ∀ l : List (State → State), (∀ f ∈ l, f ∈ s.engineActs) → ∀ t, MemOk t →
      MemOk (l.foldl (fun t f => if t.actWaits d f then t.underDeny d f else t) t) := by
    intro l
    induction l with
    | nil => exact fun _ t ht => ht
    | cons f l ih =>
      intro hl t ht
      refine ih (fun g hg => hl g (List.mem_cons_of_mem _ hg)) _ ((memOk_ite ..).2 ?_)
      split
      · exact ht.underDeny d fun _ => memOk_engineActs (hl f List.mem_cons_self)
      · exact ht
  exact step _ (fun _ h => h) s hs

@[simp] theorem MemOk.denyPage {s : State} (hs : MemOk s) (p : HostPage) (cause : BitVec 32) : MemOk (s.denyPage p cause) :=
  MemOk.denyEngines (MemOk.foldl (fun _ _ hu => hu.haltAt _ _ _) _ hs) _

@[simp] theorem MemOk.walkFor {s : State} (hs : MemOk s) (asd va : Nat) (k : Nat × Cl) : MemOk (State.walkFor asd va s k) := by
  unfold State.walkFor
  dsimp only
  split <;> simp [hs]

@[simp] theorem MemOk.pageWalk {s : State} (hs : MemOk s) (asd va : Nat) : MemOk (s.pageWalk asd va) := by
  unfold State.pageWalk
  simp +contextual [MemOk.foldl, hs]

@[simp] theorem memOk_sendWaiting (s : State) : MemOk (s.sendWaiting) ↔ MemOk s := by simp [State.sendWaiting]

@[simp] theorem memOk_dropReq (s : State) (p : HostPage) : MemOk (s.dropReq p) ↔ MemOk s := Iff.rfl

@[simp] theorem memOk_installAts (s : State) (pasid va size pa : Nat) (read write : Bool) :
    MemOk (s.installAts pasid va size pa read write) ↔ MemOk s := Iff.rfl

@[simp] theorem MemOk.atsAbsent {s : State} (hs : MemOk s) (p : HostPage) : MemOk (s.atsAbsent p) := by
  unfold State.atsAbsent
  repeat' split
  all_goals simp [hs]

@[simp] theorem MemOk.priAnswer {s : State} (hs : MemOk s) (p : HostPage) (code : BitVec 2) : MemOk (s.priAnswer p code) := by
  simp [State.priAnswer, hs]

@[simp] theorem memOk_takeBack (s : State) (line : Nat) : MemOk (s.takeBack line) ↔ MemOk s := Iff.rfl

@[simp] theorem MemOk.denyLine {s : State} (hs : MemOk s) (line : Nat) : MemOk (s.denyLine line) := by
  refine MemOk.denyEngines ?_ _
  rw [memOk_mk]
  exact MemOk.foldl (fun _ _ hu => hu.haltAgent _ _) _ (MemOk.foldl (fun _ _ hu => hu.haltAt _ _ _) _ hs)

/-! ### Preemption -/

@[simp] theorem memOk_withoutVictims (s : State) (vs : List Hank) : MemOk (s.withoutVictims vs) ↔ MemOk s := by
  unfold State.withoutVictims
  refine memOk_foldl (fun t v => ?_) vs
  split <;> simp

@[simp] theorem memOk_startSave (s : State) (v : Hank) : MemOk (s.startSave v) ↔ MemOk s := by
  unfold State.startSave
  split <;> simp

@[simp] theorem memOk_preempt (s : State) (task : Nat) (wid : Word) : MemOk (s.preempt task wid) ↔ MemOk s := by
  unfold State.preempt
  repeat' split
  all_goals simp

@[simp] theorem MemOk.suspend {s : State} (hs : MemOk s) (h : Hank) (slot f : Nat) : MemOk (s.suspend h slot f) := by
  simp [State.suspend, hs]

@[simp] theorem MemOk.completeSave {s : State} (hs : MemOk s) (slot : Nat) : MemOk (s.completeSave slot) := by
  have hf (l : List Nat) : MemOk (l.foldl (fun t b => t.scrub (512 * b)) s) := MemOk.foldl (fun _ b hu => hu.scrub _) l hs
  unfold State.completeSave
  dsimp only
  repeat' split
  all_goals simp [hs, hf]

@[simp] theorem memOk_movePlb (s : State) (h : Hank) (b : Nat) : MemOk (s.movePlb h b) ↔ MemOk s := by simp [State.movePlb]

@[simp] theorem memOk_moveCharge (s : State) (h : Hank) (b : Nat) : MemOk (s.moveCharge h b) ↔ MemOk s := by
  unfold State.moveCharge
  split <;> simp

theorem memOk_restore {s t : State} {b : Nat} {m : Hank} (hs : MemOk s) (h : s.restore b m = some t) : MemOk t := by
  unfold State.restore at h
  split at h
  · cases h; exact hs
  · next m' _ =>
    split at h
    · have h1 (f : Nat) : MemOk (((s.movePlb m' b).moveCharge m' b).scrubFrame f) := MemOk.scrubFrame (by simp [hs]) f
      dsimp only at h
      split at h
      · cases h
      · cases h
        split <;> simp [h1]
    · cases h; exact hs

theorem memOk_restoreAll (b : Nat) (l : List Hank) :
    ∀ {s t : State}, MemOk s → l.foldlM (fun (t : State) m => t.restore b m) s = some t → MemOk t := by
  induction l with
  | nil => intro s t hs h; cases h; exact hs
  | cons m l ih =>
    intro s t hs h
    rw [List.foldlM_cons] at h
    obtain ⟨u, hu, ht⟩ := Option.bind_eq_some_iff.1 h
    exact ih (memOk_restore hs hu) ht

@[simp] theorem MemOk.resume {s : State} (hs : MemOk s) (task : Nat) (wid : Word) : MemOk (s.resume task wid) := by
  unfold State.resume
  split
  · exact hs
  · split
    · dsimp only
      split
      · exact hs
      · split
        · exact hs
        · split
          · exact hs
          · next h =>
            rcases hr : List.foldlM (fun (t : State) m => t.restore _ m) _ (s.skeinOf _) with _ | t
            · exact hs
            · exact memOk_restoreAll _ _ (memOk_placeSuspended _ _ hs h) hr
    · exact hs

@[simp] theorem memOk_age (s : State) (task : Nat) (wid : Word) : MemOk (s.age task wid) ↔ MemOk s := Iff.rfl

/-! ### The platform -/

@[simp] theorem MemOk.resetModule {s : State} (hs : MemOk s) (links : SMap Bool) : MemOk (s.resetModule links) := by
  have h := SMap.wf_iff.1 hs
  exact SMap.wf_iff.2 ⟨SMap.rising_filter _ h.1, fun p hp => h.2 p (List.mem_filter.1 hp).1⟩

@[simp] theorem MemOk.uncontained {s : State} (hs : MemOk s) (src : Nat) (cause : BitVec 32) : MemOk (s.uncontained src cause) :=
  ((hs.reportAll _).report _).resetModule _

@[simp] theorem memOk_setLink (s : State) (port : Nat) (up : Bool) : MemOk (s.setLink port up) ↔ MemOk s := Iff.rfl

@[simp] theorem MemOk.endInFlight {s : State} (hs : MemOk s) (slots : List Nat) : MemOk (s.endInFlight slots) := by
  unfold State.endInFlight
  simp +contextual [MemOk.foldl, hs]

@[simp] theorem memOk_applyLimit (s : State) : MemOk (s.applyLimit) ↔ MemOk s := by simp [State.applyLimit]

@[simp] theorem MemOk.powerSample {s : State} (hs : MemOk s) (avg10us avg1ms : Nat) : MemOk (s.powerSample avg10us avg1ms) := by
  simp [State.powerSample, hs]

@[simp] theorem memOk_stackTemp (s : State) (st temp : Nat) : MemOk (s.stackTemp st temp) ↔ MemOk s := by simp [State.stackTemp]

@[simp] theorem MemOk.enterLimit {s : State} (hs : MemOk s) : MemOk (s.enterLimit) := by simp [State.enterLimit, hs]

@[simp] theorem MemOk.dieSample {s : State} (hs : MemOk s) (d temp : Nat) : MemOk (s.dieSample d temp) := by simp [State.dieSample, hs]

@[simp] theorem MemOk.stackSample {s : State} (hs : MemOk s) (st temp : Nat) : MemOk (s.stackSample st temp) := by
  simp [State.stackSample, hs]

@[simp] theorem memOk_powerDown (s : State) (b : Nat) : MemOk (s.powerDown b) ↔ MemOk s := Iff.rfl

@[simp] theorem memOk_parkDone (s : State) (b : Nat) : MemOk (s.parkDone b) ↔ MemOk s := by
  unfold State.parkDone
  repeat' split
  all_goals simp

@[simp] theorem MemOk.parkAbandon {s : State} (hs : MemOk s) (b : Nat) : MemOk (s.parkAbandon b) := by
  unfold State.parkAbandon
  repeat' split
  all_goals simp [hs]

@[simp] theorem MemOk.unparkDone {s : State} (hs : MemOk s) (b : Nat) (passed : Bool) : MemOk (s.unparkDone b passed) := by
  simp [State.unparkDone, hs]

@[simp] theorem MemOk.distaffRestart {s : State} (hs : MemOk s) : MemOk (s.distaffRestart) := by simp [State.distaffRestart, hs]

/-! ### Host ports -/

@[simp] theorem MemOk.outsideReadLine {s : State} (hs : MemOk s) (peer : Bool) (src : Nat) (p : Nat × Nat) :
    MemOk (s.outsideReadLine peer src p) := by simp [State.outsideReadLine, hs]

@[simp] theorem MemOk.outsideWriteLine {s : State} (hs : MemOk s) (src base : Nat) (data : List Byte) (p : Nat × Nat) :
    MemOk (s.outsideWriteLine src base data p) := by simp [State.outsideWriteLine, hs]

@[simp] theorem MemOk.outsideAccess {s : State} (hs : MemOk s) (peer : Bool) (src pa len : Nat) (write : Bool) (data : List Byte) :
    MemOk (s.outsideAccess peer src pa len write data) := by
  unfold State.outsideAccess
  simp +contextual [MemOk.foldl, hs]

@[simp] theorem MemOk.taggedLine {s : State} (hs : MemOk s) (pa : Nat) (data tag : List Byte) : MemOk (s.taggedLine pa data tag) := by
  simp [State.taggedLine, hs]

@[simp] theorem MemOk.taggedBlock {s : State} (hs : MemOk s) (pa : Nat) (data tags : List Byte) : MemOk (s.taggedBlock pa data tags) := by
  unfold State.taggedBlock
  simp +contextual [MemOk.foldl, hs]

/-! ### Matrix loads and stores -/

@[simp] theorem MemOk.noteGathered {s : State} (hs : MemOk s) (g : Gathered) : MemOk (s.noteGathered g) := by
  simp [State.noteGathered, hs]

@[simp] theorem memOk_loadTile (s : State) (d : RegF) (f : Fmt) (i : Nat → Option (Got × Option Nat)) :
    MemOk (s.loadTile d f i) ↔ MemOk s := by simp [State.loadTile]

theorem keepsMem_denseLoad (d a b : RegF) : KeepsMem (denseLoad d a b) :=
  .bind .get fun _ => .bind (.ofStop _) fun _ => .bind (keepsMem_gatherRows ..) fun _ => .getBind fun t ht => .bind (.ofStop _) fun _ =>
    .set (by simp [ht])

theorem keepsMem_loadMeta (slot : Nat) (c : Word) (n : Nat) : ∀ k i : Nat, KeepsMem (loadMeta slot c n k i)
  | 0, _ => .pure _
  | k + 1, i => .bind (keepsMem_ctxRead ..) fun _ => .bind (keepsMem_loadMeta slot c n k (i + 1)) fun _ => .pure _

theorem keepsMem_sparseLoad (d a b rc : RegF) (wide : Bool) : KeepsMem (sparseLoad d a b rc wide) := by
  refine .bind .get fun _ => .bind (.ofStop _) fun _ => .bind (keepsMem_gatherRows ..) fun _ => .bind (keepsMem_loadMeta ..) fun _ =>
    .getBind fun t ht => .bind (.ofStop _) fun _ => ?_
  dsimp only
  split
  · exact .throw _
  · exact .bind (.set (by simp [ht])) fun _ => keepsMem_noteReads ..

theorem keepsMem_pairLoad (d a b : RegF) : KeepsMem (pairLoad d a b) := by
  refine .bind .get fun _ => .bind (.ofStop _) fun _ => .bind (.ofStop _) fun _ => .bind (keepsMem_gather ..) fun _ => .getBind fun t
    ht => ?_
  dsimp only
  split
  · exact .throw _
  · exact .set (by simp [ht])

theorem keepsMem_pairStore (d a b : RegF) : KeepsMem (pairStore d a b) :=
  .bind .get fun _ => .bind (.ofStop _) fun _ => .bind (.ofStop _) fun _ => .bind (keepsMem_scatter ..) fun _ => .pure _

theorem keepsMem_checkRows (slot : Nat) (f : Fmt) (rows : List Machine.Row) : KeepsMem (checkRows slot f rows) :=
  .bind (.update fun _ hs => hs.prewalks _ _) fun _ => .bind .get fun _ => .bind (.ofDeny _) fun _ =>
    .bind (.update fun _ hs => hs.prewalks _ _) fun _ => .bind .get fun _ => .ofDeny _

theorem keepsMem_storeRow (slot : Nat) (x : Strip) (r : Machine.Row) : KeepsMem (storeRow slot x r) :=
  .bind (keepsMem_scatter ..) fun _ => .pure _

/-- A stop that is caught: the handler runs in the state that the computation left. -/
theorem Comp.go_tryCatch {α : Type} (c : Comp α) (f : Stop → Comp α) (s : State) :
    Comp.go (tryCatch c f) s = match Comp.go c s with
      | (.ok a, t) => (.ok a, t)
      | (.error x, t) => Comp.go (f x) t := by
  show (ExceptT.tryCatch c f) s = _
  simp only [ExceptT.tryCatch, ExceptT.mk, bind, StateT.bind, Comp.go, ExceptT.run, StateT.run]
  rcases h : c s with ⟨r, t⟩
  cases r <;> rfl

theorem keepsMem_tryCatch {α : Type} {c : Comp α} {f : Stop → Comp α} (hc : KeepsMem c) (hf : ∀ x, KeepsMem (f x)) :
    KeepsMem (tryCatch c f) where
  after s h := by
    have ht := hc.after s h
    rw [Comp.go_tryCatch]
    revert ht
    rcases Comp.go c s with ⟨_ | a, t⟩
    · exact (hf _).after t
    · exact id

theorem keepsMem_storeRows (slot : Nat) (x : Strip) : ∀ l : List Machine.Row, KeepsMem (storeRows slot x l)
  | [] => .pure _
  | _ :: t => .getBind fun _ hs => .bind
      (keepsMem_tryCatch (.bind (keepsMem_storeRow ..) fun _ => .pure _) fun _ => .bind (.set hs) fun _ => .pure _) fun _ =>
        .bind (keepsMem_storeRows slot x t) fun _ => .pure _

theorem keepsMem_stripStore (a b : RegF) (x : Strip) : KeepsMem (stripStore a b x) := by
  refine .bind .get fun _ => .bind (keepsMem_checkRows ..) fun _ => .getBind fun s hs => .bind (keepsMem_storeRows ..) fun _ => ?_
  split
  · exact .bind (.set (hs.touchStore _ _)) fun _ => .throw _
  · exact .pure _

theorem keepsMem_denseStore (d a b : RegF) : KeepsMem (denseStore d a b) :=
  .bind .get fun _ => .bind (.ofStop _) fun _ => .bind (.ofStop _) fun _ => keepsMem_stripStore ..

theorem keepsMem_accLoad (d a b : RegF) : KeepsMem (accLoad d a b) := by
  refine .bind .get fun _ => .bind (keepsMem_gatherRows ..) fun _ => .getBind fun t ht => ?_
  dsimp only
  split
  · exact .throw _
  · exact .ite (.set (by simp [ht])) (.set (by simp [ht]))

/-! ### Recoding and exports -/

@[simp] theorem memOk_setJob (s : State) (j : RecJob) : MemOk (s.setJob j) ↔ MemOk s := Iff.rfl

@[simp] theorem memOk_engineStuck (s : State) (j past : RecJob) : MemOk (s.engineStuck j past) ↔ MemOk s := by
  unfold State.engineStuck
  split <;> simp

@[simp] theorem MemOk.settleLine {s : State} (hs : MemOk s) (pa : Nat) : MemOk (s.settleLine pa) := by simp [State.settleLine, hs]

@[simp] theorem MemOk.recodeLine {s : State} (hs : MemOk s) (j : RecJob) (x : Xlate) : MemOk (s.recodeLine j x) := by
  unfold State.recodeLine
  dsimp only
  repeat' split
  all_goals simp [hs]

@[simp] theorem MemOk.groupMig {s : State} (hs : MemOk s) (ps : List Xlate) (on : Bool) : MemOk (s.groupMig ps on) := by
  unfold State.groupMig
  simp +contextual [MemOk.foldl, hs]

@[simp] theorem MemOk.foldBegin {s : State} (hs : MemOk s) (j : RecJob) (ps : List Xlate) : MemOk (s.foldBegin j ps) := by
  have h1 := MemOk.foldl (fun _ k (hu : MemOk _) => hu.performAll k) (s.ctxs.map Prod.fst) hs
  unfold State.foldBegin
  dsimp only
  split
  · exact hs
  · simp [h1]

@[simp] theorem MemOk.foldLine {s : State} (hs : MemOk s) (j : RecJob) (ps : List Xlate) (f k : Nat) : MemOk (s.foldLine j ps f k) := by
  have h1 (l : List Nat) : MemOk (l.foldl State.settleLine s) := MemOk.foldl (fun _ a hu => hu.settleLine a) l hs
  unfold State.foldLine
  dsimp only
  split
  · split
    · simp [hs]
    · simp [hs]
  · split
    · exact hs
    · refine (memOk_ite ..).2 ?_
      split
      · exact (memOk_setJob ..).2 ((h1 _).groupMig _ _)
      · exact (memOk_setJob ..).2 ((h1 _).putLine _ _)

@[simp] theorem MemOk.foldEnd {s : State} (hs : MemOk s) (j : RecJob) (ps : List Xlate) (f : Nat) : MemOk (s.foldEnd j ps f) := by
  unfold State.foldEnd
  simp +contextual [MemOk.foldl, hs]

@[simp] theorem MemOk.plyStep {s : State} (hs : MemOk s) (j : RecJob) : MemOk (s.plyStep j) := by
  unfold State.plyStep
  split <;> simp [hs]

@[simp] theorem MemOk.unfoldBegin {s : State} (hs : MemOk s) (asd : Nat) (vas : List Nat) : MemOk (s.unfoldBegin asd vas) := by
  have h1 := MemOk.foldl (fun _ k (hu : MemOk _) => hu.performAll k) (s.ctxs.map Prod.fst) hs
  unfold State.unfoldBegin
  dsimp only
  split
  · exact hs
  · split
    · exact hs
    · simp [h1]

@[simp] theorem MemOk.recodeStep {s : State} (hs : MemOk s) (stack : Nat) : MemOk (s.recodeStep stack) := by
  unfold State.recodeStep
  extract_lets u
  have hu : MemOk u := by
    unfold u
    split
    · exact (memOk_ite ..).2 (by split; exact hs.prewalk _ _ _; exact hs)
    · exact hs
  clear_value u
  split
  · exact hu
  · split
    · simp [hu]
    · refine (memOk_ite ..).2 ?_
      split
      · exact hu
      · refine (memOk_ite ..).2 ?_
        split
        · exact hu.plyStep _
        · dsimp only
          split
          · exact hu
          · exact (memOk_setJob ..).2 hu
          · simp [hu]

@[simp] theorem MemOk.writeCompletion {s : State} (hs : MemOk s) (pa : Nat) (counts : List Nat) : MemOk (s.writeCompletion pa counts) :=
  by simp [State.writeCompletion, hs]

@[simp] theorem MemOk.recodeDone {s : State} (hs : MemOk s) : MemOk (s.recodeDone) := by
  unfold State.recodeDone
  split <;> simp [hs]

@[simp] theorem MemOk.putExported {s : State} (hs : MemOk s) (pa : Nat) (b : List Byte) : MemOk (s.putExported pa b) := by
  unfold State.putExported
  split <;> simp [hs]

theorem memOk_exportedLine {d : Exported} (hd : MemOk d.s) (tagged : Bool) (x : Xlate) (dst k : Nat) :
    MemOk (Exported.line tagged x dst d k).s := by
  unfold Exported.line
  have ht := fun f pa y => MemOk.notePort ((hd.performWhere f).scrub pa) y
  dsimp only
  repeat' split
  all_goals simp [ht]

theorem memOk_exportedPage {d : Exported} (hd : MemOk d.s) (j : ExpJob) (i : Nat) : MemOk (j.page d i).s := by
  have hp := hd.prewalk recodeUnit j.asd (BitVec.ofNat 64 ((j.va + 65536 * i) % 2 ^ 64))
  unfold ExpJob.page
  extract_lets va e
  have he : MemOk e.s := hp
  clear_value e
  generalize List.range 512 = l
  split
  · split
    · exact he
    · exact List.foldlRecOn (motive := fun d : Exported => MemOk d.s) _ _ he fun d hd k _ => memOk_exportedLine hd _ _ _ k
  · exact he

@[simp] theorem MemOk.exportDone {s : State} (hs : MemOk s) : MemOk s.exportDone := by
  unfold State.exportDone
  split
  · next j l _ =>
    refine (memOk_ite ..).2 ?_
    split
    · exact hs
    · refine MemOk.writeCompletion ?_ _ _
      exact List.foldlRecOn (motive := fun d : Exported => MemOk d.s) _ _ hs fun d hd i _ => memOk_exportedPage hd j i
  · exact hs

/-! ### Reductions -/

@[simp] theorem givesMemOk_softmaxVec {s : State} (hs : MemOk s) (d a b : RegF) (m : VMods) : GivesMemOk (softmaxVec d a b m s) := by
  unfold softmaxVec
  simp only [givesMemOk_bind, givesMemOk_ok, memOk_writeS]
  intro xs _ _ _ t ht
  exact givesMemOk_writeVec hs _ _ _ _ _ t ht

@[simp] theorem givesMemOk_reduceVec {s : State} (hs : MemOk s) (op : Reduce) (d a : RegF) (m : VMods) :
    GivesMemOk (reduceVec op d a m s) := by simp [reduceVec, hs]

@[simp] theorem givesMemOk_scanVec {s : State} (hs : MemOk s) (d a : RegF) (m : VMods) : GivesMemOk (scanVec d a m s) := by
  simp [scanVec, hs]

@[simp] theorem givesMemOk_permuteVec {s : State} (hs : MemOk s) (d a : RegF) (m : VMods) (others : List VField) (own : VSrc → Bool)
    (bare : Bool) (sources : List VSrc → Nat → Source) : GivesMemOk (permuteVec d a m others own bare sources s) := by simp
    [permuteVec, hs]

@[simp] theorem givesMemOk_maskOp {s : State} (hs : MemOk s) (d : RegF) (f : Nat → Bool) : GivesMemOk (maskOp d f s) := by
  simp [maskOp, hs]

@[simp] theorem givesMemOk_mask2 {s : State} (hs : MemOk s) (f : Bool → Bool → Bool) (d a b : RegF) :
    GivesMemOk (mask2 f d a b s) := by
  simp [mask2, hs]

@[simp] theorem givesMemOk_maskFirst {s : State} (hs : MemOk s) (d a : RegF) : GivesMemOk (maskFirst d a s) := by simp [maskFirst, hs]

@[simp] theorem givesMemOk_maskCount {s : State} (hs : MemOk s) (d a : RegF) (setvl : Bool) : GivesMemOk (maskCount d a setvl s) := by
  simp [maskCount, hs]

/-! ### Scalar instructions -/

@[simp] theorem memOk_result (s : State) (d : RegF) (v : Word) (fl : Flags) (len : Nat) : MemOk (s.result d v fl len) ↔ MemOk s := by
  simp [State.result]

/-! ### Vector loads and stores -/

@[simp] theorem memOk_spPut (s : State) (n b : Nat) (c : Word) : MemOk (s.spPut n b c) ↔ MemOk s := by simp [State.spPut]

@[simp] theorem givesMemOk_spLoad {s : State} (hs : MemOk s) (d : RegF) (m : VMods) (a : RegF) (srcs : List VField) (ls : Bool) :
    GivesMemOk (spLoad d m a srcs ls s) := by simp [spLoad, hs]

@[simp] theorem givesMemOk_spStore {s : State} (hs : MemOk s) (d : RegF) (m : VMods) (a : RegF) (srcs : List VField) (ls : Bool) :
    GivesMemOk (spStore d m a srcs ls s) := by simp [spStore, hs]

theorem keepsMem_vecLoad (d : VField) (m : VMods) (a : RegF) (srcs : List VField) : KeepsMem (vecLoad d m a srcs) := by
  refine .bind .get fun s => .bind (.ofStop _) fun xs => .bind (.ofStop _) fun _ => .bind (keepsMem_gather ..) fun g => .getBind fun t
    ht => ?_
  dsimp only
  split
  · exact .set (by simpa using ht)
  · refine .bind (.ofStop _) fun _ => .ofStopBind (givesMemOk_writeVec ht _ _ _ _ _) fun u hu => .set (MemOk.noteZeroed ?_ _ _ _ _)
    split <;> simp [hu]

theorem keepsMem_vecStore (d : RegF) (m : VMods) (a : RegF) (srcs : List VField) : KeepsMem (vecStore d m a srcs) :=
  .bind .get fun _ => .bind (.ofStop _) fun _ => .bind (.ofStop _) fun _ => .bind (keepsMem_scatter ..) fun _ =>
    .update fun s hs => by simpa using hs

/-! ### Watchdogs -/

@[simp] theorem MemOk.hankWatchdog {s : State} (hs : MemOk s) (slot : Nat) : MemOk (s.hankWatchdog slot) := by
  unfold State.hankWatchdog
  split <;> simp [hs]

@[simp] theorem MemOk.eventWatchdog {s : State} (hs : MemOk s) (n : Nat) : MemOk (s.eventWatchdog n) := by
  unfold State.eventWatchdog
  dsimp only
  repeat' split
  all_goals simp [hs]

@[simp] theorem memOk_takeSupEvent (s : State) (b : Nat) : MemOk (s.takeSupEvent b) ↔ MemOk s := by
  unfold State.takeSupEvent
  split <;> simp

@[simp] theorem memOk_wakeCluster (s : State) (slot : Nat) (c : Cl) (f : WaitFor → Bool) :
    MemOk (s.wakeCluster slot c f) ↔ MemOk s := by
  simp [State.wakeCluster]

/-! ### Turns -/

@[simp] theorem memOk_tick (s : State) : MemOk (s.tick) ↔ MemOk s := Iff.rfl

@[simp] theorem memOk_afterTurn (s : State) : MemOk (s.afterTurn) ↔ MemOk s := Iff.rfl

@[simp] theorem memOk_begin (s : State) (a : Agent) : MemOk (s.begin a) ↔ MemOk s := Iff.rfl

/-! ### Happenings -/

@[simp] theorem memOk_countCorrected (s : State) (bobbin : Option Nat) : MemOk (s.countCorrected bobbin) ↔ MemOk s := by
  unfold State.countCorrected
  split <;> simp

@[simp] theorem MemOk.upsetCached {s : State} (hs : MemOk s) (l1 : Bool) (place : Nat) : MemOk (s.upsetCached l1 place) := by
  unfold State.upsetCached
  split <;> simp [hs]

@[simp] theorem MemOk.upsetContext {s : State} (hs : MemOk s) (slot : Nat) : MemOk (s.upsetContext slot) := by
  simp [State.upsetContext, hs]

@[simp] theorem MemOk.upsetHeld {s : State} (hs : MemOk s) (bobbin i : Nat) : MemOk (s.upsetHeld bobbin i) := by
  unfold State.upsetHeld
  repeat' split
  all_goals simp [hs]

@[simp] theorem MemOk.upset {s : State} (hs : MemOk s) (u : Upset) : MemOk (s.upset u) := by
  unfold State.upset
  repeat' split
  all_goals simp [hs]

@[simp] theorem memOk_stoppedAt (t : State) (slot : Nat) (x : Cluster) (j g : Nat) : MemOk (t.stoppedAt slot x j g) ↔ MemOk t := Iff.rfl

@[simp] theorem MemOk.performFirst {s : State} (hs : MemOk s) (slot : Nat) (c : Cl) : MemOk (s.performFirst slot c) := by
  unfold State.performFirst
  split <;> simp [hs]

@[simp] theorem memOk_fill (s : State) (l1 : Bool) (place line : Nat) : MemOk (s.fill l1 place line) ↔ MemOk s := by simp [State.fill]

@[simp] theorem memOk_dropTranslation (s : State) (i : Nat) : MemOk (s.dropTranslation i) ↔ MemOk s := by
  unfold State.dropTranslation
  split <;> simp

@[simp] theorem memOk_protect (s : State) (i base len : Nat) : MemOk (s.protect i base len) ↔ MemOk s := by simp [State.protect]

@[simp] theorem MemOk.moveNext {s : State} (hs : MemOk s) (i : Nat) : MemOk (s.moveNext i) := by
  unfold State.moveNext
  split <;> simp [hs]

/-! ### The canonical form through the forms of the rows' meanings -/

section
variable {s : State} (hs : MemOk s)
include hs

theorem answersMemOk_onGuard {g : Guard} {len : Nat} {f : State → Answer} (hf : AnswersMemOk (f s)) :
    AnswersMemOk (onGuard g len s f) := by
  unfold onGuard
  split
  · exact hf
  · simpa using hs

/-- A guarded row that always completes. -/
theorem answersMemOk_guarded {g : Guard} {len : Nat} {f : State → State} (hf : MemOk (f s)) :
    AnswersMemOk (onGuard g len s fun s => .next (f s)) :=
  answersMemOk_onGuard hs ((answersMemOk_next _).2 hf)

theorem answersMemOk_finish {c : Comp Unit} (hc : KeepsMem c) : AnswersMemOk (finish c s) := by
  unfold finish
  split
  · next h => exact (answersMemOk_next _).2 (hc.run h hs)
  · next h => exact (answersMemOk_next _).2 (MemOk.halt (hc.run h hs) _)

theorem answersMemOk_run {g : Guard} {len : Nat} {c : Comp Unit} (hc : KeepsMem c) : AnswersMemOk (Machine.run g len c s) :=
  answersMemOk_onGuard hs (answersMemOk_finish hs (.bind hc fun _ => .update fun t ht => by simpa using ht))

theorem answersMemOk_settle {g : Guard} {len : Nat} {f : State → Except Stop State} (hf : GivesMemOk (f s)) :
    AnswersMemOk (settle g len f s) := by
  refine answersMemOk_onGuard hs ?_
  split
  · next h => exact (answersMemOk_next _).2 ((memOk_retire ..).2 (hf _ h))
  · simp [hs]

theorem answersMemOk_privileged {g : Guard} {f : State → Answer} (hf : AnswersMemOk (f s)) : AnswersMemOk (privileged g f s) := by
  unfold privileged
  split
  · exact answersMemOk_onGuard hs hf
  · simp [hs]

theorem answersMemOk_alu1 (g : Guard) (d a : RegF) (f : Word → Word) : AnswersMemOk (alu1 g d a f s) :=
  answersMemOk_guarded hs (by simpa using hs)

theorem answersMemOk_alu2 (g : Guard) (d a b : RegF) (f : Word → Word → Word) : AnswersMemOk (alu2 g d a b f s) :=
  answersMemOk_guarded hs (by simpa using hs)

theorem answersMemOk_alu2f (g : Guard) (d a b : RegF) (f : Word → Word → Word × Flags) : AnswersMemOk (alu2f g d a b f s) :=
  answersMemOk_guarded hs (by simpa using hs)

theorem answersMemOk_fp1 (g : Guard) (d a : RegF) (f : Word → Word × Flags) : AnswersMemOk (fp1 g d a f s) :=
  answersMemOk_guarded hs (by simpa using hs)

theorem answersMemOk_bitOp (g : Guard) (d : RegF) (f : State → Word) : AnswersMemOk (bitOp g d f s) :=
  answersMemOk_guarded hs (by simpa using hs)

theorem answersMemOk_compare (g : Guard) (gt gf : BitVec 3) (a b : State → Word) (cond : BitVec 4) (len : Nat) :
    AnswersMemOk (compare g gt gf a b cond len s) := answersMemOk_guarded hs (by simpa using hs)

theorem answersMemOk_scalarLoad (g : Guard) (d : RegF) (addr : State → Word) (n : Nat) (signed : Bool) :
    AnswersMemOk (scalarLoad g d addr n signed s) :=
  answersMemOk_run hs (.bind (keepsMem_load ..) fun _ => .update fun t ht => by simpa using ht)

theorem answersMemOk_scalarStore (g : Guard) (d : RegF) (addr : State → Word) (n : Nat) : AnswersMemOk (scalarStore g d addr n s) :=
  answersMemOk_run hs (keepsMem_store ..)

theorem answersMemOk_releaseStore (g : Guard) (d a : RegF) (n : Nat) : AnswersMemOk (releaseStore g d a n s) :=
  answersMemOk_run hs (.bind keepsMem_confirmed fun _ => keepsMem_store ..)

theorem answersMemOk_amo (g : Guard) (d a b : RegF) (w : Bool) (f : Nat → Nat → Nat → Nat → Option Nat) :
    AnswersMemOk (amo g d a b w f s) :=
  answersMemOk_run hs (.bind (keepsMem_atomic ..) fun _ => .update fun t ht => by simpa using ht)

theorem answersMemOk_reelOf (long : Bool) (g : Guard) (n : Nat) (a : RegF) (elem : State → Word) :
    AnswersMemOk (reelOf long g n a elem s) := by
  refine answersMemOk_finish hs (.bind (keepsMem_fetchParcels ..) fun body => ?_)
  split
  · exact .throw _
  · exact .ite (.update fun t ht => by simpa using ht) (.update fun t ht => by simpa using ht)

theorem answersMemOk_forkClusters (len : Nat) (g : Guard) (mask : BitVec 4) (rs : List RegF) :
    AnswersMemOk (forkClusters len g mask rs s) := by
  refine answersMemOk_onGuard hs ?_
  dsimp only
  split
  · simp [hs]
  · rw [answersMemOk_next]
    split
    · simpa using hs
    · exact MemOk.halt ((memOk_modMyCtx ..).2 hs) _

theorem answersMemOk_loadInstr (g : Guard) (len : Nat) (d a : RegF) (srcs : List VField) (ls sp : Bool) (m : VMods) :
    AnswersMemOk (loadInstr g len d a srcs ls sp m s) := by
  cases sp with
  | true => exact answersMemOk_settle hs (givesMemOk_spLoad hs _ _ _ _ _)
  | false => exact answersMemOk_run hs (keepsMem_vecLoad ..)

theorem answersMemOk_storeInstr (g : Guard) (len : Nat) (d a : RegF) (srcs : List VField) (ls sp : Bool) (m : VMods) :
    AnswersMemOk (storeInstr g len d a srcs ls sp m s) := by
  cases sp with
  | true => exact answersMemOk_settle hs (givesMemOk_spStore hs _ _ _ _ _)
  | false => exact answersMemOk_run hs (keepsMem_vecStore ..)

theorem answersMemOk_acvt (g : Guard) (d a fmt : RegF) (blk : BitVec 2) (rm : BitVec 3) (qd : Bool) :
    AnswersMemOk (execAcvt g d a fmt blk rm qd s) := by
  cases qd with
  | true =>
    refine answersMemOk_onGuard hs ?_
    unfold acvtQueue
    split
    · simp [hs]
    · extract_lets i r
      have hr : MemOk r.1 := (memOk_acvtRows ..).2 hs
      rw [answersMemOk_next]
      split
      · simpa using hr
      · exact hr.halt _
  | false => exact answersMemOk_settle hs (by simp [hs])

theorem answersMemOk_svret (g : Guard) : AnswersMemOk (execSvret g s) := by
  refine answersMemOk_privileged hs ?_
  dsimp only
  split <;> simp [hs]

/-- A posted write of BANKCFG or QCFG. -/
theorem answersMemOk_dueCsrw (slot n : Nat) (value : Word) : AnswersMemOk (dueCsrw slot n value s) := by
  unfold dueCsrw
  dsimp only
  split
  · split
    · next h =>
      have hu : MemOk _ := keepsMem_dueWrite.run h hs
      split
      · exact answersMemOk_settle hu (by simp [hu])
      · simpa using hs
    · simpa using hs
  · simpa using hs
end

section
variable {s : State} (hs : MemOk s)
include hs

/-- The address check of TASKQ and the post of the record. -/
theorem answersMemOk_taskq (g : Guard) (d a b : RegF) : AnswersMemOk (execTaskq g d a b s) := by
  refine answersMemOk_run hs (.bind (.need _ _) fun _ => .bind (.need _ _) fun _ => .bind keepsMem_confirmed fun _ => ?_)
  refine .bind (.update fun t ht => ht.prewalk _ _ _) fun _ => .bind .get fun _ => .bind (.ofDeny _) fun _ => ?_
  exact .bind (.update fun t ht => ht.useXlate _) fun _ => .bind (.need _ _) fun _ => .update fun t ht => by simp [ht]

theorem answersMemOk_sigwait (g : Guard) (scope : BitVec 3) (cond : BitVec 2) (a b : RegF) :
    AnswersMemOk (execSigwait g scope cond a b s) :=
  answersMemOk_run hs (.bind (keepsMem_loadQuiet ..) fun _ => .bind (.need _ _) fun _ => keepsMem_noteMine _)

theorem answersMemOk_shpost (g : Guard) (scope : BitVec 3) (a b : RegF) : AnswersMemOk (execShpost g scope a b s) :=
  answersMemOk_run hs (.bind (.need _ _) fun _ => .bind (keepsMem_signalStore ..) fun _ => .update fun t ht => by simp [ht])

theorem answersMemOk_convoy (n2 u0 u1 u2 u3 u4 u5 : BitVec 3) : AnswersMemOk (execConvoy n2 u0 u1 u2 u3 u4 u5 s) := by
  refine answersMemOk_finish hs (.bind (.need _ _) fun _ => ?_)
  split
  · exact .throw _
  · exact .bind (keepsMem_convoyMembers ..) fun _ => .update fun t ht => by simp [ht]

theorem answersMemOk_tlbi (g : Guard) (a : RegF) (kind : BitVec 5) : AnswersMemOk (execTlbi g a kind s) := by
  have rest (r : PUnit) : KeepsMem (update fun t => t.retire 4) := .update fun t ht => by simp [ht]
  have drop (x : TlbiScope) : KeepsMem (update fun t => t.invalidate x) := .update fun t ht => ht.invalidate x
  refine answersMemOk_privileged hs (answersMemOk_finish hs (.ite (.bind (drop _) rest) (.ite ?_ (.bind (drop _) rest))))
  exact .bind (keepsMem_supBytes ..) fun _ => .bind (drop _) rest

theorem answersMemOk_ltld (g : Guard) (set : BitVec 2) (a : RegF) : AnswersMemOk (execLtld g set a s) :=
  answersMemOk_privileged hs (answersMemOk_finish hs (.bind (.need _ _) fun _ => .bind (keepsMem_loadLines ..) fun _ =>
    .bind (.need _ _) fun _ => .update fun t ht => by simpa using ht))

theorem answersMemOk_recode (g : Guard) (d a : RegF) : AnswersMemOk (execRecode g d a s) :=
  answersMemOk_privileged hs (answersMemOk_finish hs (.bind (keepsMem_supBytes ..) fun _ => .update fun t ht => by simpa using ht))

/-! ### Events that split their cases in the row itself -/

theorem answersMemOk_predctlClr (w : Writer) (value : Word) : AnswersMemOk (execPredctlClr w value s) := by
  unfold execPredctlClr
  cases w <;> simp [hs]

theorem answersMemOk_registerWrite (w : Writer) (offset size : Nat) (value : Word) :
    AnswersMemOk (execRegisterWrite w offset size value s) := by
  unfold execRegisterWrite
  cases w <;> simp [hs]

theorem answersMemOk_linkDown (port : Nat) (inFlight : List Nat) : AnswersMemOk (execLinkDown port inFlight s) := by
  unfold execLinkDown
  extract_lets t u
  have hu : MemOk u := MemOk.endInFlight (MemOk.report ((memOk_setLink ..).2 hs) _) _
  rw [answersMemOk_next]
  split
  · split
    · exact hu.uncontained _ _
    · exact hu
  · exact hs

theorem answersMemOk_rendezvousComplete (slot : Nat) : AnswersMemOk (execRendezvousComplete slot s) := by
  unfold execRendezvousComplete
  dsimp only
  rw [answersMemOk_next]
  split
  · split <;> simp [hs]
  · exact hs

theorem answersMemOk_copyCommandStart (slot cq : Nat) : AnswersMemOk (execCopyCommandStart slot cq s) := by
  unfold execCopyCommandStart
  split <;> simp [hs]
end

/-- The rows of the opcode table by the form of their meaning. -/
theorem exec_memOk (i : Instr) {s : State} (hs : MemOk s) : AnswersMemOk (exec i s) := by
  unfold exec
  cases i with
  | add | sub | and | or | xor | andn | shl | shr | sra | ror | min | max | minu | maxu | mul | mulh | mulhu | fmin | fmax =>
    exact answersMemOk_alu2 hs _ _ _ _ _
  | adds | subs | shls | div | divu | rem | remu | muls | fadd | fsub | fmul => exact answersMemOk_alu2f hs _ _ _ _ _
  | clz | ctz | popc | addi | andi | ori | xori | shli | shri | srai | rori | fabs | fneg => exact answersMemOk_alu1 hs _ _ _ _
  | fcvtf | fcvtfu | fcvti | fcvtiu => exact answersMemOk_fp1 hs _ _ _ _
  | bextu | bext | bins => exact answersMemOk_bitOp hs _ _ _
  | limmh | limm | sel | fma | getts | wid => exact answersMemOk_guarded hs (by simp [hs])
  | cmp | fcmp | cmpi => exact answersMemOk_compare hs _ _ _ _ _ _ _
  | br | brl | fence | end_ | yield | bar | rdv | trap | pfl2 =>
    exact answersMemOk_guarded hs (by simp [hs])
  | ldb | ldbu | ldh | ldhu | ldw | ldwu | ldd | ldacq | ldacqw => exact answersMemOk_scalarLoad hs _ _ _ _ _
  | stb | sth | stw | std => exact answersMemOk_scalarStore hs _ _ _ _
  | strel | strelw => exact answersMemOk_releaseStore hs _ _ _ _
  | amoswap | amoadd | amoand | amoor | amoxor | amomin | amomax | amominu | amomaxu | cas => exact answersMemOk_amo hs _ _ _ _ _ _
  | sigset => exact answersMemOk_run hs (keepsMem_signalStore ..)
  | vldq | vldsq => exact answersMemOk_run hs (keepsMem_queueLoad ..)
  | vldxq => exact answersMemOk_run hs (keepsMem_queueLoadIndexed ..)
  | vstq | vstsq => exact answersMemOk_run hs (keepsMem_queueStore ..)
  | vstxq => exact answersMemOk_run hs (keepsMem_queueStoreIndexed ..)
  | sbind => exact answersMemOk_run hs (keepsMem_bindStream ..)
  | tagrd => exact answersMemOk_run hs (keepsMem_readTag ..)
  | tagset => exact answersMemOk_run hs (keepsMem_writeTag ..)
  | cbtld => exact answersMemOk_run hs (keepsMem_loadCodebook ..)
  | mld => exact answersMemOk_run hs (keepsMem_denseLoad ..)
  | mldSparse => exact answersMemOk_run hs (.ite (keepsMem_denseLoad ..) (keepsMem_sparseLoad ..))
  | mldf => exact answersMemOk_run hs (keepsMem_pairLoad ..)
  | mst => exact answersMemOk_run hs (keepsMem_denseStore ..)
  | mstf => exact answersMemOk_run hs (keepsMem_pairStore ..)
  | ald => exact answersMemOk_run hs (keepsMem_accLoad ..)
  | ast => exact answersMemOk_run hs (.bind .get fun _ => keepsMem_stripStore ..)
  | sigwait => exact answersMemOk_sigwait hs _ _ _ _ _
  | taskq => exact answersMemOk_taskq hs _ _ _ _
  | shpost => exact answersMemOk_shpost hs _ _ _ _
  | qpush | qpushu | qpushf | qpops | qpeek | qstat | qclose | csrr | csrw | setvlAccess | sunbind | copy | copyt
  | cwait | ctest | cclr | qfence | setvl | setvcap | vtagr | vtagw | qpopv | vadd | vaddLong | vsub | vsubLong | vmul
  | vmulLong | vmin | vminLong | vmax | vmaxLong | vabs | vabsLong | vneg | vnegLong | vfma | vfms | vnfma | vand
  | vandLong | vor | vorLong | vxor | vxorLong | vshl | vshlLong | vshr | vshrLong | vsra | vsraLong | vcmp | vsel | vmov
  | vmovLong | vsplat | vsplatLong | vextr | vextrLong | vcvt | vscale | vscaleLong | vexp2 | vexp2Long | vlog2
  | vlog2Long | vrcp | vrcpLong | vrsq | vrsqLong | vssmx | vredsum | vredsumLong | vredmax | vredmaxLong | vredmin
  | vredminLong | vscan | vscanLong | vperm | vpermLong | vslide | vcompress | vexpand | kand | kandLong | kor | korLong
  | kxor | kxorLong | kandn | kandnLong | knot | knotLong | kmov | kmovLong | kfirst | kfirstLong | kpop | kpopLong
  | mclaim | mclaimElastic | mrel | mzero | mrank | mtr | mdense | mma | msld | mlmul | mladd | mlrc | azero =>
    exact answersMemOk_settle hs (by simp [hs])
  | convoy => exact answersMemOk_convoy hs _ _ _ _ _ _ _
  | reel | reelx => exact answersMemOk_reelOf hs _ _ _ _ _
  | rsave =>
    exact answersMemOk_privileged hs (answersMemOk_finish hs (.bind (keepsMem_saveTarget _) fun _ => .update fun _ h => by simp [h]))
  | rrest =>
    exact answersMemOk_privileged hs (answersMemOk_finish hs (.bind (keepsMem_restoreTarget _) fun _ => .update fun _ h => by simp [h]))
  | tlbi => exact answersMemOk_tlbi hs _ _ _
  | ltld => exact answersMemOk_ltld hs _ _ _
  | recode => exact answersMemOk_recode hs _ _ _
  | svret g => exact answersMemOk_svret hs g
  | jr | jrl | loop =>
    refine answersMemOk_onGuard hs ?_
    dsimp only
    split <;> simp [hs]
  | cfork | cforkLong => exact answersMemOk_forkClusters hs _ _ _ _
  | vld | vldLong | vldx | vldxLong => exact answersMemOk_loadInstr hs _ _ _ _ _ _ _ _
  | vst | vstLong | vstx | vstxLong => exact answersMemOk_storeInstr hs _ _ _ _ _ _ _ _
  | acvt g d a fmt blk rm qd => exact answersMemOk_acvt hs g d a fmt blk rm qd
  | bankcfgWrite | qcfgWrite => exact answersMemOk_dueCsrw hs _ _ _
  | predctlClr => exact answersMemOk_predctlClr hs _ _
  | registerWrite => exact answersMemOk_registerWrite hs _ _ _ _
  | linkDown => exact answersMemOk_linkDown hs _ _
  | rendezvousComplete => exact answersMemOk_rendezvousComplete hs _
  | copyCommandStart => exact answersMemOk_copyCommandStart hs _ _
  | hint | hintLong | pageWalk | atsTranslationCompletion | priResponse | pageRequestTimeout | atsInvalidate
  | hostOwnership | backInvalidationTimeout | hostMemAccess | peerAccess | lportPost | hostRecodePort | hostDecryptionPort
  | decryptionJobComplete | keySlotWrite | pstateRequest | pstateTransitionDone | pwrcapWrite | powerSample | powerTrip
  | thermalLimit | thermalStepDown | thermalStepUp | thermalTrip | hbmTempHot | bobbinPark | parkComplete | parkAbandon
  | bobbinUnpark | unparkComplete | expqSubmit | exportJobComplete | msixUnmask
  | moduleReset | lifeCycleChange | linkReplay | linkReplayThreshold | linkTrained | distaffRestart
  | distaffWatchdog | uncontainedError | taskTake | waitConditionRecheck | hankAdmit | stagingCopy | stagingLanded
  | stagingWindow | slotReserve | hankDispatch | hankEnd | preempt | saveComplete | resume | hankAgeing | issueStarvation
  | shapeLearn | shapeTimeout | hankWatchdog | eventWatchdog | supervisorEventTake | queueSpaceWake | queueEntryWake
  | queueEntryPlaced | elementGroupArrival | barrierComplete | sigwaitRetest
  | completionBitSet | copyCommandComplete | qfenceComplete | streamRefill | recodeLineRewrite | recodeJobComplete
  | modulePowerOff | hbmStackCooled | backInvalidationResponse | priEnableWrite | loadDataReturn | spdmMeasurementRequest =>
    exact (answersMemOk_next _).2 (by simp [hs])

/-! ### Every step -/

/-- Element groups ahead of their turn run their instruction's meaning. -/
@[simp] theorem MemOk.runGroups {s : State} (hs : MemOk s) (slot j g : Nat) : MemOk (s.runGroups slot j g) := by
  unfold State.runGroups
  extract_lets a c
  split
  · exact hs
  · next x _ =>
    extract_lets b
    have hb : MemOk b := (memOk_modMe ..).2 ((memOk_begin ..).2 hs)
    refine (memOk_ite ..).2 ?_
    split
    · exact hs
    · split
      · exact hs
      · next i t hf =>
        have ht := keepsMem_fetchNext.run hf hb
        split
        · exact hs
        · extract_lets hi ahead
          refine (memOk_ite ..).2 ?_
          split
          · exact hs
          · split
            · next he =>
              have hu := exec_memOk _ ((memOk_modMe ..).2 (ht.enter ..)) _ he
              extract_lets d
              refine (memOk_ite ..).2 ?_
              split
              · exact hu
              · exact hs
            · exact hs

@[simp] theorem MemOk.happens {s : State} (hs : MemOk s) (h : Happening) : MemOk (s.happens h) := by
  unfold State.happens
  split <;> simp [hs]

theorem execLate_memOk (i : Instr) (late : Bool) {s : State} (hs : MemOk s) : AnswersMemOk (s.execLate i late) := by
  obtain ⟨t, ht⟩ := exec_answers i (s.enter i late)
  have hu := exec_memOk i (hs.enter i late) t ht
  unfold State.execLate
  rw [ht]
  cases late with
  | true => exact (answersMemOk_next _).2 (MemOk.defer hu i s)
  | false => exact (answersMemOk_next _).2 hu

theorem runAgent_memOk (a : Agent) (late : Bool) {s : State} (hs : MemOk s) : AnswersMemOk (s.runAgent a late) := by
  have hb : MemOk (s.begin a) := (memOk_begin ..).2 hs
  unfold State.runAgent
  split
  · exact (answersMemOk_next _).2 hs
  · dsimp only
    split
    · exact (answersMemOk_next _).2 (hb.halt _)
    · split
      · exact answersMemOk_finish hb (keepsMem_reissueLoads _)
      · split
        · next h =>
          have ht := keepsMem_fetchNext.run h hb
          split
          · exact (answersMemOk_next _).2 (ht.halt _)
          · exact execLate_memOk _ _ ht
        · next h => exact (answersMemOk_next _).2 ((keepsMem_fetchNext.run h hb).halt _)

theorem step_memOk {s : State} (hs : MemOk s) : AnswersMemOk (step s) := by
  have ha : MemOk s.afterTurn := (memOk_afterTurn s).2 hs
  cases hp : s.powered with
  | false => rw [step_unpowered hp]; exact fun _ h => nomatch h
  | true =>
    rcases ht : s.turn with _ | ⟨a, late⟩ | i | h
    · rw [step_none hp ht]; exact (answersMemOk_next _).2 ha
    · rw [step_run hp ht]; exact runAgent_memOk a late ha
    · cases hi : isEvent i with
      | true => rw [step_event hp ht hi]; exact exec_memOk i ha
      | false => rw [step_not_event hp ht hi]; exact (answersMemOk_next _).2 ha
    · rw [step_happen hp ht]; exact (answersMemOk_next _).2 (ha.happens h)

/-- Settles O53: memory is written by bytes, lines and ranges only, each of which keeps the canonical form, and each row, turn and
happening is built of operations that keep it. -/
theorem memoryStaysCanonical : Obligations.MemoryStaysCanonical := fun _ t hs h => step_memOk hs t h

end Sys2Proof
end

section
/-! PROOFS. Vector instructions that combine, move and permute codes (R307, R309, R315). -/

namespace Sys2Proof.Machine

/-! ### Sources and checks -/

/-- Two fields give two sources. -/
theorem State.Opens.pair {s : State} {f g : VField} {ds : List VField} {xs : List VSrc} (h : s.Opens [f, g] ds xs) :
    ∃ x y, xs = [x, y] := by
  obtain ⟨-, -, hread⟩ := h
  cases hread with
  | cons _ ht =>
    cases ht with
    | cons _ hn => cases hn; exact ⟨_, _, rfl⟩

/-- As `vecDone_of`, for an instruction that makes checks of its own while a source queue is empty (R408). -/
theorem vecDone_of_opens {s : State} {i : Instr} {fs : List VField} {d : VField} {m : VMods} {len : Nat} {ok : List VSrc → Prop}
    {F : List VSrc → Fmt} {spec : List VSrc → VResult → Prop} {f : State → Except Stop State} {g : Guard}
    (chk : List VSrc → List (Bool × Stop)) (res : List VSrc → VResult)
    (hc : s.isSup = false) (hg : s.guardTrue g = true) (hi : exec i s = settle g len f s)
    (hf : ∀ xs, s.Opens fs [d] xs →
      f s = (firstOf (chk xs)).bind fun _ => s.writeVec d m.z (s.active m.mask) (queuesOf fs) (res xs))
    (h : ∀ xs, s.Opens fs [d] xs → s.SourcesFit xs → ok xs → s.DestFits d m (F xs) →
      Allowed (chk xs) ∧ (res xs).fmt = F xs ∧ (∀ j, s.active m.mask j = true → ((res xs).put j).live = true) ∧ spec xs (res xs)) :
    VecDone s i fs d m len ok F spec := by
  intro xs ho hs hok hd hr
  obtain ⟨hchk, hfmt, hlive, hspec⟩ := h xs ho hs hok hd
  have hF : f s = s.writeVec d m.z (s.active m.mask) (queuesOf fs) (res xs) := by rw [hf xs ho, firstOf_ok hchk]; rfl
  obtain ⟨u, hu, hw⟩ := settle_writeVec (len := len) hc hg ho.1 hF (by rw [hfmt]; exact hr) hlive
  exact ⟨u, res xs, hi.trans hu, hw, hfmt, hspec⟩

/-- The three checks that every one of these instructions makes. -/
theorem allowed_sources {s : State} {d : VField} {m : VMods} {xs : List VSrc} {f : Fmt} (hs : s.SourcesFit xs) (hd : s.DestFits d m f) :
    Allowed (s.vlChecks xs) ∧ Allowed [s.keepCheck d m.z (s.active m.mask) f] ∧ Allowed (s.countChecks xs) :=
  ⟨vlChecks_ok hs, (hd.allowed 0).2, countChecks_ok hs⟩

/-! ### Bitwise operations (R307) -/

/-- The result of a bitwise operation. -/
def State.bitwiseResult (s : State) (f : Nat → Nat → Nat → Nat) (m : VMods) (x y : VSrc) : VResult :=
  let t := x.strip.tag.f
  { fmt := t, blk := 0, rm := Rm.ofCode m.rm.toNat, ef := false, vsum := computedVsum [x, y] (s.actives m.mask), flags := 0
    put := fun i => .move (BitVec.ofNat 64 (f t.width ((x.strip.code i).toNat % 2 ^ t.width) ((y.strip.code i).toNat % 2 ^ t.width))) 0x7F }

theorem bitwise_writes {s : State} {f : Nat → Nat → Nat → Nat} {d a b : RegF} {m : VMods} {x y : VSrc}
    (ho : s.Opens [fieldA a m, fieldB b m] [fieldD d m] [x, y]) (hs : s.SourcesFit [x, y]) (he : x.fmt = y.fmt)
    (hk : x.fmt.isInt = true ∨ x.fmt = Fmt.none) (hd : s.DestFits (fieldD d m) m x.fmt) :
    bitwise f d a b m s
      = s.writeVec (fieldD d m) m.z (s.active m.mask) (queuesOf [fieldA a m, fieldB b m]) (s.bitwiseResult f m x y) := by
  obtain ⟨hvl, hkeep, hcount⟩ := allowed_sources hs hd
  have hchk : Allowed (s.vlChecks [x, y] ++ [(x.fmt == y.fmt && (x.fmt.isInt || x.fmt == Fmt.none), illegalOperand 0x06 0 2 y.fmt.toNat),
      s.keepCheck (fieldD d m) m.z (s.active m.mask) x.fmt] ++ s.countChecks [x, y]) := by
    simp only [allowed_append]
    exact ⟨⟨hvl, allowed_cons.2 ⟨by simpa [he] using he ▸ hk, hkeep⟩⟩, hcount⟩
  unfold bitwise
  dsimp only
  rw [openVec_ok ho]
  show (firstOf (s.vlChecks [x, y] ++ [(x.fmt == y.fmt && (x.fmt.isInt || x.fmt == Fmt.none), illegalOperand 0x06 0 2 y.fmt.toNat),
    s.keepCheck (fieldD d m) m.z (s.active m.mask) x.fmt] ++ s.countChecks [x, y])).bind _ = _
  rw [firstOf_ok hchk]
  rfl

theorem bitwiseDone_of {s : State} {i : Instr} {f f' : Nat → Nat → Nat → Nat} {g : Guard} {d a b : RegF} {m : VMods} {len : Nat}
    (hc : s.isSup = false) (hg : s.guardTrue g = true) (hi : exec i s = settle g len (bitwise f d a b m) s)
    (hf : ∀ n x y, x < 2 ^ n → f n x y = f' n x y) : BitwiseDone s i f' d a b m len := by
  intro x y ho hs he hk hd hroom
  obtain ⟨u, hu, hw⟩ := settle_writeVec (len := len) hc hg ho.1 (bitwise_writes ho hs he hk hd) hroom fun _ _ => rfl
  refine ⟨u, _, hi.trans hu, hw, rfl, rfl, rfl, fun j _ => ?_⟩
  rw [← hf _ _ _ (Nat.mod_lt _ (Nat.two_pow_pos _))]
  rfl

theorem shlElem_eq (n x y : Nat) : shlElem n x y = x * 2 ^ (y % n) % 2 ^ n := by rw [shlElem, Nat.shiftLeft_eq]

theorem shrElem_eq (n x y : Nat) : shrElem n x y = x / 2 ^ (y % n) := Nat.shiftRight_eq_div_pow ..

theorem sraElem_eq {n x : Nat} (h : x < 2 ^ n) (y : Nat) :
    sraElem n x y = ((if x < 2 ^ (n - 1) then (x : Int) else (x : Int) - 2 ^ n) / 2 ^ (y % n) % 2 ^ n).toNat := by
  rw [sraElem, wrapCode, toSigned, Nat.mod_eq_of_lt h]

/-- Settles O12: the six operations are one meaning with another function of the codes in it. -/
theorem vectorBitwise : Obligations.VectorBitwise := by
  intro p hp s slot g d a b hc hg
  have hsup := State.isSup_of_cluster hc
  simp only [vecBitwise, List.mem_cons, List.not_mem_nil, or_false] at hp
  rcases hp with rfl | rfl | rfl | rfl | rfl | rfl
  · exact ⟨bitwiseDone_of hsup hg rfl fun _ _ _ _ => rfl, fun m => bitwiseDone_of hsup hg rfl fun _ _ _ _ => rfl⟩
  · exact ⟨bitwiseDone_of hsup hg rfl fun _ _ _ _ => rfl, fun m => bitwiseDone_of hsup hg rfl fun _ _ _ _ => rfl⟩
  · exact ⟨bitwiseDone_of hsup hg rfl fun _ _ _ _ => rfl, fun m => bitwiseDone_of hsup hg rfl fun _ _ _ _ => rfl⟩
  · exact ⟨bitwiseDone_of hsup hg rfl fun n x y _ => shlElem_eq n x y, fun m => bitwiseDone_of hsup hg rfl fun n x y _ => shlElem_eq n x y⟩
  · exact ⟨bitwiseDone_of hsup hg rfl fun n x y _ => shrElem_eq n x y, fun m => bitwiseDone_of hsup hg rfl fun n x y _ => shrElem_eq n x y⟩
  · exact ⟨bitwiseDone_of hsup hg rfl fun _ _ y h => sraElem_eq h y, fun m => bitwiseDone_of hsup hg rfl fun _ _ y h => sraElem_eq h y⟩

/-! ### Moves, selections and splats (R309) -/

/-- The result of VMOV. -/
def State.moveResult (m : VMods) (x : Strip) : VResult :=
  { fmt := x.tag.f, blk := x.tag.blk.toNat, rm := Rm.ofCode m.rm.toNat, ef := false, flags := 0, vsum := x.tag.vsum
    put := fun i => .move (x.code i) (x.scale i) }

/-- The result of VSEL. -/
def State.selectResult (s : State) (m : VMods) (x y : Strip) : VResult :=
  let zero (t : Strip) : Bool := t.tag.vsum == vsZero || t.tag.vsum == vsVacant
  { fmt := x.tag.f, blk := x.tag.blk.toNat, rm := Rm.ofCode m.rm.toNat, ef := false, flags := 0
    vsum := if x.tag.vsum == vsPoison || y.tag.vsum == vsPoison then vsPoison else if zero x && zero y then vsZero else vsValid
    put := fun i => if s.maskBit m.vc.toNat i then .move (x.code i) (x.scale i) else .move (y.code i) (y.scale i) }

/-- VSEL's summary: of either source's poison, else of zeros alone (R309). -/
theorem selectResult_vsum (s : State) (m : VMods) (x y : VSrc) :
    (s.selectResult m x.strip y.strip).vsum
      = if vsPoison ∈ [x, y].map (fun x => x.strip.tag.vsum) then vsPoison
        else if ∀ z ∈ [x, y], z.strip.tag.vsum = vsZero ∨ z.strip.tag.vsum = vsVacant then vsZero else vsValid := by
  simp [State.selectResult, @eq_comm _ vsPoison]

/-- The result of VSPLAT. -/
def State.splatResult (s : State) (a : RegF) (m : VMods) (f : Fmt) : VResult :=
  { fmt := f, blk := 0, rm := Rm.ofCode m.rm.toNat, ef := false, flags := 0, vsum := vsValid, put := fun _ => splatPut f (s.readS a) }

theorem splatPut_eq (f : Fmt) (v : Word) :
    splatPut f v = if f.isReal = true ∧ f ∉ [Fmt.fp64, Fmt.fp32, Fmt.vq2] then .value (F32.val (v.setWidth 32))
      else .move (BitVec.ofNat 64 (v.toNat % 2 ^ f.width)) 0x7F := by
  simp [splatPut, and_assoc, BitVec.setWidth_eq_extractLsb' (by decide : 32 ≤ 64)]

theorem splatPut_live (f : Fmt) (v : Word) : (splatPut f v).live = true := by
  unfold splatPut
  split <;> rfl

section
variable {s : State} {i : Instr} {g : Guard} {d a b : RegF} {m : VMods} {len : Nat} (hc : s.isSup = false) (hg : s.guardTrue g = true)
include hc hg

theorem vecDone_move (hi : exec i s = settle g len (moveVec d a m) s) :
    VecDone s i [fieldA a m] (fieldD d m) m len (fun _ => True) srcFmt fun xs r => MovesFrom s m (stripOf xs 0) some r := by
  refine vecDone_of_opens (fun xs => s.vlChecks xs ++ [s.keepCheck (fieldD d m) m.z (s.active m.mask) (srcFmt xs)] ++ s.countChecks xs)
    (fun xs => State.moveResult m (stripOf xs 0)) hc hg hi (fun xs ho => ?run) fun xs ho hs _ hd => ?spec
  case run =>
    obtain ⟨x, rfl⟩ := ho.single
    unfold moveVec
    rw [openVec_ok ho]
    rfl
  case spec =>
    obtain ⟨hvl, hkeep, hcount⟩ := allowed_sources hs hd
    exact ⟨allowed_append.2 ⟨allowed_append.2 ⟨hvl, hkeep⟩, hcount⟩, rfl, fun _ _ => rfl, rfl, rfl, rfl, fun _ _ => rfl⟩

theorem vecDone_select (hi : exec i s = settle g len (selectVec d a b m) s) :
    VecDone s i [fieldA a m, fieldB b m] (fieldD d m) m len
      (fun xs => (stripOf xs 0).tag.fmt = (stripOf xs 1).tag.fmt ∧ (stripOf xs 0).tag.blk = (stripOf xs 1).tag.blk) srcFmt
      fun xs r => r = s.selectResult m (stripOf xs 0) (stripOf xs 1) := by
  refine vecDone_of_opens (fun xs => s.vlChecks xs
      ++ [(srcFmt xs == (stripOf xs 1).tag.fmt && (stripOf xs 0).tag.blk == (stripOf xs 1).tag.blk,
          illegalOperand 0x06 0 2 (stripOf xs 1).tag.fmt.toNat), s.keepCheck (fieldD d m) m.z (s.active m.mask) (srcFmt xs)]
      ++ s.countChecks xs)
    (fun xs => s.selectResult m (stripOf xs 0) (stripOf xs 1)) hc hg hi (fun xs ho => ?run) fun xs ho hs hok hd => ?spec
  case run =>
    obtain ⟨x, y, rfl⟩ := ho.pair
    unfold selectVec
    dsimp only
    rw [openVec_ok ho]
    rfl
  case spec =>
    obtain ⟨hvl, hkeep, hcount⟩ := allowed_sources hs hd
    have hsame : (srcFmt xs == (stripOf xs 1).tag.fmt && (stripOf xs 0).tag.blk == (stripOf xs 1).tag.blk) = true := by
      simpa [srcFmt] using hok
    refine ⟨allowed_append.2 ⟨allowed_append.2 ⟨hvl, allowed_cons.2 ⟨hsame, hkeep⟩⟩, hcount⟩, rfl, fun j _ => ?_, rfl⟩
    unfold State.selectResult
    dsimp only
    split <;> rfl

theorem vecDone_splat (hi : exec i s = settle g len (splatVec d a m) s) :
    VecDone s i [] (fieldD d m) m len (fun _ => True) (fun _ => if m.ovr = 0 then Fmt.fp32 else m.ovr)
      fun _ r => r = s.splatResult a m r.fmt := by
  refine vecDone_of_opens (fun _ => [s.vlCheck (if m.ovr = 0 then Fmt.fp32 else m.ovr) 0,
      s.keepCheck (fieldD d m) m.z (s.active m.mask) (if m.ovr = 0 then Fmt.fp32 else m.ovr)])
    (fun _ => s.splatResult a m (if m.ovr = 0 then Fmt.fp32 else m.ovr)) hc hg hi (fun xs ho => ?run) fun xs ho hs _ hd => ?spec
  case run =>
    obtain rfl : xs = [] := by obtain ⟨-, -, hread⟩ := ho; cases hread; rfl
    unfold splatVec
    dsimp only
    rw [openVec_ok ho]
    rfl
  case spec =>
    obtain ⟨hvl, hkeep⟩ := hd.allowed 0
    exact ⟨allowed_cons.2 ⟨hvl _ List.mem_cons_self, hkeep⟩, rfl, fun _ _ => splatPut_live _ _, rfl⟩
end

/-- Settles O13: VMOV, VSEL and VSPLAT write what their results say. -/
theorem vectorMoves : Obligations.VectorMoves := by
  refine ⟨fun s slot g d a b hc hg => ?moves, fun s slot g d a hc hg => ?splat⟩
  all_goals have hsup := State.isSup_of_cluster hc
  case moves =>
    refine ⟨fun m => ⟨vecDone_move hsup hg rfl, ?_⟩, vecDone_move hsup hg rfl⟩
    intro xs ho hs hok hd hroom
    obtain ⟨x, y, rfl⟩ := ho.pair
    obtain ⟨u, r, hu, hw, hfmt, rfl⟩ := vecDone_select (i := .vsel g d a b m) (len := 8) hsup hg rfl _ ho hs hok hd hroom
    refine ⟨u, _, hu, hw, hfmt, rfl, rfl, selectResult_vsum s m x y, fun j _ => ?_⟩
    dsimp only [State.selectResult]
    split <;> rfl
  case splat =>
    intro spec
    have hspec : ∀ (m : VMods) (xs : List VSrc) (r : VResult), r = s.splatResult a m r.fmt → spec m xs r := fun m xs r hr => by
      rw [hr]
      exact ⟨rfl, rfl, fun j _ => splatPut_eq _ _⟩
    exact ⟨fun m => (vecDone_splat hsup hg rfl).imp (fun _ h => h) (fun _ => rfl) (hspec m),
      (vecDone_splat hsup hg rfl).imp (fun _ h => h) (fun _ => rfl) (hspec .short)⟩

/-! ### Permutes (R315) -/

/-- The position that a source names, if it names one. -/
def Source.pos? : Source → Option Nat
  | .elem j => some j
  | .zero | .outside => none

/-- The result of a permute of `x`. -/
def State.permuteResult (s : State) (m : VMods) (x : Strip) (src : Nat → Source) : VResult :=
  { fmt := x.tag.f, blk := x.tag.blk.toNat, rm := Rm.ofCode m.rm.toNat, ef := false, vsum := x.tag.vsum
    flags := Flags.when ((s.actives m.mask).any fun i => src i == .outside) Flags.xr
    put := fun i => match src i with
      | .elem j => .move (x.code j) (x.scale j)
      | _ => .supplied }

theorem permuteResult_moves (s : State) (m : VMods) (x : Strip) (src : Nat → Source) :
    MovesFrom s m x (fun j => (src j).pos?) (s.permuteResult m x src) := by
  refine ⟨rfl, rfl, rfl, fun j _ => ?_⟩
  cases h : src j <;> simp [State.permuteResult, Source.pos?, h]

/-- A permute raises XR exactly where an active element's source is out of range. -/
theorem permuteResult_flags (s : State) (m : VMods) (x : Strip) (src : Nat → Source) :
    (s.permuteResult m x src).flags &&& Flags.xr = 0 ↔ ∀ j, s.active m.mask j = true → src j ≠ .outside := by
  have hxr : ∀ b : Bool, Flags.when b Flags.xr &&& Flags.xr = 0 ↔ b = false := by decide
  show Flags.when _ Flags.xr &&& Flags.xr = 0 ↔ _
  rw [hxr, List.any_eq_false]
  simp [State.mem_actives]

theorem vecDone_permute {s : State} {i : Instr} {g : Guard} {d a : RegF} {m : VMods} {len : Nat} {others : List VField} {own : VSrc → Bool}
    {bare : Bool} {sources : List VSrc → Nat → Source} {F : State → Except Stop State} (hc : s.isSup = false) (hg : s.guardTrue g = true)
    (hb : bare = true → m.mask = 15 ∧ m.z = false) (hi : exec i s = settle g len F s)
    (hF : F s = permuteVec d a m others own bare sources s) :
    VecDone s i (fieldA a m :: others) (fieldD d m) m len (fun xs => ∀ y ∈ xs.tail, own y = true) srcFmt
      fun xs r => r = s.permuteResult m (stripOf xs 0) (sources xs) := by
  refine vecDone_of_opens (fun xs => s.vlChecks xs ++ xs.tail.map (fun y => (own y, illegalOperand 0x04 0 2 y.fmt.toNat))
      ++ [s.keepCheck (fieldD d m) m.z (s.active m.mask) (srcFmt xs), (!bare || (m.mask == 15 && !m.z), illegalOperand 0x07 m.mask.toNat)]
      ++ s.countChecks xs)
    (fun xs => s.permuteResult m (stripOf xs 0) (sources xs)) hc hg hi (fun xs ho => ?run) fun xs ho hs hok hd => ?spec
  case run =>
    obtain ⟨x, t, rfl⟩ : ∃ x t, xs = x :: t := by obtain ⟨-, -, hread⟩ := ho; cases hread; exact ⟨_, _, rfl⟩
    rw [hF, permuteVec]
    dsimp only
    rw [openVec_ok_pre ho]
    rfl
  case spec =>
    obtain ⟨hvl, hkeep, hcount⟩ := allowed_sources hs hd
    have hown : Allowed (xs.tail.map fun y => (own y, illegalOperand 0x04 0 2 y.fmt.toNat)) := by
      intro c hc
      obtain ⟨y, hy, rfl⟩ := List.mem_map.1 hc
      exact hok y hy
    have hbare : (!bare || (m.mask == 15 && !m.z)) = true := by
      cases bare with
      | false => rfl
      | true => obtain ⟨hm, hz⟩ := hb rfl; simp [hm, hz]
    have hself : Allowed [s.keepCheck (fieldD d m) m.z (s.active m.mask) (srcFmt xs),
        (!bare || (m.mask == 15 && !m.z), illegalOperand 0x07 m.mask.toNat)] :=
      allowed_append.2 ⟨hkeep, allowed_cons.2 ⟨hbare, allowed_nil⟩⟩
    refine ⟨allowed_append.2 ⟨allowed_append.2 ⟨allowed_append.2 ⟨hvl, hown⟩, hself⟩, hcount⟩, rfl, fun j _ => ?_, rfl⟩
    unfold State.permuteResult
    dsimp only
    split <;> rfl

theorem Source.pos?_at (n : Nat) (k : Int) : (Source.at n k).pos? = if 0 ≤ k ∧ k < n then some k.toNat else none := by
  unfold Source.at
  split <;> rfl

theorem Source.at_ne_outside (n : Nat) (k : Int) : Source.at n k ≠ .outside ↔ (Source.at n k).pos?.isSome = true := by
  unfold Source.at
  split <;> simp [Source.pos?]

section
variable {s : State} {i : Instr} {g : Guard} {d a b : RegF} {m : VMods} {len : Nat} {F : State → Except Stop State} (hc : s.isSup = false)
  (hg : s.guardTrue g = true)
include hc hg

/-- A permute of one source moves the positions that its sources name. -/
theorem vecDone_permute_one {bare : Bool} {src : Nat → Source} (pos : Nat → Option Nat) (hpos : ∀ j, (src j).pos? = pos j)
    (hb : bare = true → m.mask = 15 ∧ m.z = false) (hi : exec i s = settle g len F s)
    (hF : F s = permuteVec d a m [] (fun _ => true) bare (fun _ => src) s) :
    VecDone s i [fieldA a m] (fieldD d m) m len (fun _ => True) srcFmt fun xs r => MovesFrom s m (stripOf xs 0) pos r := by
  obtain rfl : (fun j => (src j).pos?) = pos := funext hpos
  refine (vecDone_permute hc hg hb hi hF).imp (fun _ _ _ _ => rfl) (fun _ => rfl) fun xs r hr => ?_
  exact hr ▸ permuteResult_moves s m _ src

/-- VPERM moves the positions that its second source names, and raises XR where one is out of range. -/
theorem vecDone_permute_two (pos : Int → Option Nat) (hpos : ∀ k, (Source.at s.vl k).pos? = pos k)
    (hi : exec i s = settle g len F s)
    (hF : F s = permuteVec d a m [fieldB b m] (fun y => y.fmt.isInt) false (permSource s.vl) s) :
    VecDone s i [fieldA a m, fieldB b m] (fieldD d m) m len (fun xs => (stripOf xs 1).tag.f.isInt = true) srcFmt fun xs r =>
      MovesFrom s m (stripOf xs 0) (fun j => pos ((stripOf xs 1).val j).toInt) r
        ∧ ((r.flags &&& Flags.xr = 0) ↔ ∀ j, s.active m.mask j = true → (pos ((stripOf xs 1).val j).toInt).isSome = true) := by
  obtain rfl : (fun k => (Source.at s.vl k).pos?) = pos := funext hpos
  intro xs ho hs hok hd hroom
  obtain ⟨x, y, rfl⟩ := ho.pair
  obtain ⟨u, r, hu, hw, hfmt, rfl⟩ :=
    vecDone_permute hc hg (fun h => absurd h Bool.false_ne_true) hi hF _ ho hs (List.forall_mem_singleton.2 hok) hd hroom
  refine ⟨u, _, hu, hw, hfmt, permuteResult_moves s m x.strip (permSource s.vl [x, y]), ?_⟩
  refine (permuteResult_flags s m x.strip (permSource s.vl [x, y])).trans (forall_congr' fun j => imp_congr_right fun _ => ?_)
  exact Source.at_ne_outside _ _
end

/-- The source of a place of VCOMPRESS: the set position of its number, if there is one. -/
def compressSource (l : List Nat) (j : Nat) : Source :=
  match l[j]? with
  | some k => .elem k
  | none => .zero

theorem pos?_compressSource (l : List Nat) (j : Nat) : (compressSource l j).pos? = l[j]? := by
  unfold compressSource
  cases l[j]? <;> rfl

/-- The source of a place of VEXPAND: the next element where the place is set. -/
def expandSource (set : Bool) (n : Nat) : Source := if set then .elem n else .zero

theorem pos?_expandSource (set : Bool) (n : Nat) : (expandSource set n).pos? = if set then some n else none := by
  cases set <;> rfl

section
variable (s : State) (g : Guard) (d a b : RegF) (m : VMods)

theorem exec_vperm :
    exec (.vperm g d a b) s
      = settle g 4 (fun s => permuteVec d a .short [fieldB b .short] (fun y => y.fmt.isInt) false (permSource s.vl) s) s := rfl

theorem exec_vpermLong :
    exec (.vpermLong g d a b m) s
      = settle g 8 (fun s => permuteVec d a m [fieldB b m] (fun y => y.fmt.isInt) false (permSource s.vl) s) s := rfl

theorem exec_vslide :
    exec (.vslide g d a m) s
      = settle g 8 (fun s => permuteVec d a m [] (fun _ => true) false (fun _ i => .at s.vl (i + m.imm.toInt)) s) s := rfl

theorem exec_vcompress :
    exec (.vcompress g d a m) s
      = settle g 8 (fun s => permuteVec d a m [] (fun _ => true) true (fun _ => compressSource (s.maskSet m.vc.toNat)) s) s := rfl

theorem exec_vexpand :
    exec (.vexpand g d a m) s
      = settle g 8 (fun s => permuteVec d a m [] (fun _ => true) true
          (fun _ i => expandSource (s.maskBit m.vc.toNat i) ((s.maskSet m.vc.toNat).filter (· < i)).length) s) s := rfl
end

/-- Settles O14: the four are one meaning with another source of each place. -/
theorem vectorPermutes : Obligations.VectorPermutes := by
  intro s slot g d a b hc hg inVl perm isSet
  have hsup := State.isSup_of_cluster hc
  have hat : ∀ k : Int, (Source.at s.vl k).pos? = inVl k := Source.pos?_at s.vl
  have never {p : Prop} (h : false = true) : p := absurd h Bool.false_ne_true
  refine ⟨vecDone_permute_two hsup hg inVl hat (exec_vperm ..) rfl, fun m => ⟨vecDone_permute_two hsup hg inVl hat (exec_vpermLong ..) rfl,
    ?slide, fun hm hz => ⟨?compress, ?expand⟩⟩⟩
  case slide => exact vecDone_permute_one hsup hg _ (fun _ => hat _) never (exec_vslide ..) rfl
  case compress => exact vecDone_permute_one hsup hg _ (pos?_compressSource _) (fun _ => ⟨hm, hz⟩) (exec_vcompress ..) rfl
  case expand => exact vecDone_permute_one hsup hg _ (fun _ => pos?_expandSource _ _) (fun _ => ⟨hm, hz⟩) (exec_vexpand ..) rfl

end Sys2Proof.Machine
end

section
/-! PROOFS. VCVT of VQ2 weights that pre-emption has stopped part-way (R191, R292, R310): its statement does not ask for an instruction
performed as a whole, and the elements below START keep their values under Z. -/

namespace Sys2Proof.Machine

/-- A register of format `f` whose element 0 has the code `c`. -/
def regOf (f : Fmt) (c : Word) : VReg := { strip := { tag := { fmt := f, vsum := vsValid, blk := 0 }, elems := [(0, c)], scales := [] }, missing := [] }

/-- A V cluster with VL 8 that resumes an instruction at element 1: v1 holds FP32 1, v2 is a register of VQ2. -/
def resumedConvert : State :=
  { State.reset with
    cur := .cluster 0 .V
    ctxs := [(0, { Ctx.free with v := { Ctx.free.v with vl := 8, lo := 1 }, vregs := [(1, regOf Fmt.fp32 0x3F800000), (2, regOf Fmt.vq2 0)] })] }

/-- VCVT to FP32 under Z. -/
def toFp32Zeroing : VMods := { VMods.short with z := true, imm := 2 }

/-- A cluster's change leaves the vector registers. -/
theorem State.vreg_modMe {s : State} (hs : s.isSup = false) (f : Cluster → Cluster) (r : RegF) : (s.modMe f).vreg r = s.vreg r := by
  rw [State.vreg, ((othersKept_modMe s f).1 hs).1, State.vreg]

/-- The conversion completes, and keeps element 0. -/
theorem resumedConvert_keeps : ∃ t, exec (.vcvt ⟨false, 7⟩ 1 2 toFp32Zeroing) resumedConvert = .next t ∧ (t.vreg 1).code 0 = 0x3F800000 := by
  refine ⟨_, rfl, ?_⟩
  decide +kernel

/-- Refutes O15: where VCVT of VQ2 weights resumes at element 1 under Z, element 0 keeps its value, as R191 asks; the statement gives it
zero, for it does not confine the conversion to one that is performed as a whole. -/
theorem not_vectorConversions : ¬ Obligations.VectorConversions := by
  intro h
  obtain ⟨-, hweights, -⟩ := h resumedConvert 0 ⟨false, 7⟩ 1 2 toFp32Zeroing rfl rfl
  obtain ⟨u, r, hexec, hw, hfmt, -, -, hef, -⟩ := hweights rfl (by decide) (by decide +kernel) (by decide +kernel) (by decide +kernel)
    (fun _ hc => nomatch hc) ⟨by decide +kernel, by decide +kernel⟩ (fun hq => nomatch hq)
  obtain ⟨⟨hin, -, -⟩, -, -, -, -, hreg, -⟩ := hw
  obtain ⟨-, hcode⟩ := hreg (by decide +kernel) rfl
  have hzero : (u.vreg 1).code 0 = 0 := by
    refine (hcode (by rw [hfmt]; decide) hef 0 (by rw [hfmt]; decide +kernel)).trans ?_
    rw [if_neg (by decide +kernel), State.offCode, if_pos (by decide +kernel)]
  obtain ⟨t, ht, hone⟩ := resumedConvert_keeps
  have hu : t = u.retire 8 := Host.Outcome.next.inj (ht.symm.trans hexec)
  have hkept : (u.retire 8).vreg 1 = u.vreg 1 := State.vreg_modMe (State.isSup_of_cluster hin.cur) _ 1
  rw [hu, hkept, hzero] at hone
  exact absurd hone (by decide)

end Sys2Proof.Machine
end

section
/-! PROOFS. Instructions that write masks (R308, R316, R318). -/

namespace Sys2Proof.Machine

/-! ### Masks -/

/-- A bit of a mask after a write of the bits below `n`. -/
theorem State.maskBit_setMask (s : State) (k n : Nat) (f : Nat → Bool) (j i : Nat) :
    (s.setMask k n f).maskBit j i = if j = k ∧ i < n then f i else s.maskBit j i := by
  rw [State.setMask, State.maskBit, State.myCtx_modMyCtx]
  dsimp only
  rw [SMap.get_modify]
  by_cases hj : j = k
  · simp [hj, SMap.get_setRange, State.maskBit]
  · simp [hj, State.maskBit]

theorem masksBecome_setMask (s : State) (k n : Nat) (f : Nat → Bool) :
    MasksBecome s (s.setMask k n f) fun j i => if j = k ∧ i < n then f i else s.maskBit j i := by
  refine ⟨inContext_modMyCtx s _, ?_, s.maskBit_setMask k n f⟩
  rw [State.setMask, State.myCtx_modMyCtx]

theorem MasksBecome.trans {s t u : State} {f g : Nat → Nat → Bool} (h : MasksBecome s t f) (k : MasksBecome t u g) : MasksBecome s u g := by
  obtain ⟨hin, hctx, -⟩ := h
  obtain ⟨kin, kctx, kbit⟩ := k
  refine ⟨hin.trans kin, ?_, kbit⟩
  rw [kctx, hctx]

theorem MasksBecome.congr {s u : State} {f g : Nat → Nat → Bool} (h : MasksBecome s u f) (hfg : ∀ k i, f k i = g k i) : MasksBecome s u g := by
  obtain ⟨hin, hctx, hbit⟩ := h
  exact ⟨hin, hctx, fun k i => (hbit k i).trans (hfg k i)⟩

/-! ### Mask operations (R316, R318) -/

/-- What a mask operation leaves: the masks, and neither queues nor FLAGS. -/
theorem maskOp_spec {s : State} (hw : s.Whole) (d : RegF) (f : Nat → Bool) :
    ∃ u, maskOp d f s = .ok u
      ∧ MasksBecome s u (fun k i => if k = d.toNat ∧ i < s.vl ∧ s.reelElem ≤ i then f i else s.maskBit k i)
      ∧ u.myCtx.queues = s.myCtx.queues ∧ u.myCtx.flags = s.myCtx.flags := by
  refine ⟨_, rfl, (masksBecome_setMask s d.toNat s.vl _).congr fun k i => ?_, ?_, ?_⟩
  · rw [reached_whole hw]
    by_cases hk : k = d.toNat <;> by_cases hi : i < s.vl <;> by_cases hr : s.reelElem ≤ i <;> simp [hk, hi, hr]
  · rw [State.setMask, State.myCtx_modMyCtx]
  · rw [State.setMask, State.myCtx_modMyCtx]

theorem maskTwo_of {s : State} {i : Instr} {g : Guard} {d a b : RegF} {len : Nat} {f : Bool → Bool → Bool} (hg : s.guardTrue g = true)
    (hw : s.Whole) (hi : exec i s = settle g len (mask2 f d a b) s) :
    ∃ u, exec i s = .next (u.retire len)
      ∧ MasksBecome s u (fun k i => if k = d.toNat ∧ i < s.vl ∧ s.reelElem ≤ i then f (s.maskBit a.toNat i) (s.maskBit b.toNat i)
          else s.maskBit k i)
      ∧ u.myCtx.queues = s.myCtx.queues ∧ u.myCtx.flags = s.myCtx.flags := by
  obtain ⟨u, hu, hspec⟩ := maskOp_spec hw d fun i => f (s.maskBit a.toNat i) (s.maskBit b.toNat i)
  exact ⟨u, hi.trans (settle_ok hg hu), hspec⟩

theorem State.setBitsOf_eq (s : State) (k : Nat) : s.setBitsOf k = s.bitsSet k := by
  simp only [State.setBitsOf, State.maskSet, State.bitsSet, List.filter_filter, Bool.and_comm]

/-- KFIRST and KPOP deliver a number. -/
theorem mask_result {s : State} {i : Instr} {g : Guard} {d : RegF} {len : Nat} {F : State → Except Stop State} {v : Word}
    (hg : s.guardTrue g = true) (hi : exec i s = settle g len F s) (hF : F s = .ok (s.writeS d v)) :
    ∃ t, exec i s = .next t ∧ ScalarResult s t d v 0 len :=
  ⟨_, hi.trans (settle_ok hg hF), State.pass_spec ..⟩

theorem maskFirst_eq (d a : RegF) (s : State) : maskFirst d a s = .ok (s.writeS d (BitVec.ofNat 64 ((s.bitsSet a.toNat).headD s.vl))) := by
  rw [maskFirst, State.setBitsOf_eq]

/-- KPOP writes the count, beside VL where it is asked to. -/
theorem maskCount_eq (d a : RegF) (setvl : Bool) (s : State) :
    maskCount d a setvl s
      = .ok ((s.modMe fun x => { x with vl := if setvl then BitVec.ofNat 64 (s.bitsSet a.toNat).length else x.vl }).writeS d
          (BitVec.ofNat 64 (s.bitsSet a.toNat).length)) := by
  have hcomm (n : Word) : (s.writeS d n).modMe (fun x => { x with vl := n }) = (s.modMe fun x => { x with vl := n }).writeS d n := by
    simp only [State.writeS, State.modMe_modMe]
    congr 1
    funext x
    unfold Cluster.writeS
    split <;> rfl
  rw [maskCount, State.setBitsOf_eq]
  cases setvl with
  | true => exact congrArg Except.ok (hcomm _)
  | false => simp only [Bool.false_eq_true, if_false, State.writeS, State.modMe_modMe]

/-- Settles O19: the bits below VL that the iteration acts on take the operation's value, and the counts are of those bits. -/
theorem maskOperations : Obligations.MaskOperations := by
  intro s slot g d a b hc hg hw
  refine ⟨fun p hp => ?_, fun m => ⟨mask_result hg rfl (maskFirst_eq ..), mask_result hg rfl (maskFirst_eq ..), ?pop, ?popLong⟩⟩
  case pop => exact mask_result (F := maskCount d a false) hg rfl (by rw [maskCount, State.setBitsOf_eq]; rfl)
  case popLong => exact ⟨_, settle_ok hg (maskCount_eq d a (m.imm.getLsbD 0) s), State.pass_spec ..⟩
  simp only [maskTwo, List.mem_cons, List.not_mem_nil, or_false] at hp
  rcases hp with rfl | rfl | rfl | rfl | rfl | rfl
  · exact ⟨maskTwo_of hg hw rfl, fun m => maskTwo_of hg hw rfl⟩
  · exact ⟨maskTwo_of hg hw rfl, fun m => maskTwo_of hg hw rfl⟩
  · exact ⟨maskTwo_of hg hw rfl, fun m => maskTwo_of hg hw rfl⟩
  · exact ⟨maskTwo_of hg hw rfl, fun m => maskTwo_of hg hw rfl⟩
  · exact ⟨maskTwo_of hg hw rfl, fun m => maskTwo_of hg hw rfl⟩
  · exact ⟨maskTwo_of hg hw rfl, fun m => maskTwo_of hg hw rfl⟩

/-! ### VCMP (R308) -/

/-- The bit of a mask after a compare has written mask `k`; mask 31 is not written. -/
theorem masksBecome_cmpMask {s : State} (hw : s.Whole) (k : RegF) (z : Bool) (act f : Nat → Bool) :
    MasksBecome s (s.cmpMask k z act f) fun j i =>
      if i < s.vl ∧ j ≠ 31 ∧ j = k.toNat then (if act i then f i else !(z && decide (s.reelElem ≤ i)) && s.maskBit j i)
      else s.maskBit j i := by
  unfold State.cmpMask
  split
  · next hk =>
    refine ⟨.refl s, rfl, fun j i => (if_neg ?_).symm⟩
    rintro ⟨-, hne, hj⟩
    exact hne (hj.trans hk)
  · next hk =>
    refine (masksBecome_setMask s k.toNat s.vl _).congr fun j i => ?_
    by_cases hj : j = k.toNat
    · subst hj
      simp only [true_and, hk, ne_eq, not_false_eq_true, and_true, reached_whole hw]
    · simp [hj]

/-- What VCMP leaves. -/
def State.compared (s : State) (d a b : RegF) (m : VMods) (x y : Strip) : State :=
  let c := (m.imm.extractLsb' 0 4).toNat
  let nv := Flags.when (2 ≤ c && c ≤ 5 && (s.actives m.mask).any fun i => (x.val i).isNan || (y.val i).isNan) Flags.nv
  (((s.popAll (queuesOf [fieldA a m, fieldB b m])).orFlags (nv ||| scnOf x (s.actives m.mask) ||| scnOf y (s.actives m.mask))).cmpMask
    d m.z (s.active m.mask) fun i => vcond c (x.val i) (y.val i)).cmpMask m.vc m.z (s.active m.mask) fun i => !vcond c (x.val i) (y.val i)

theorem compareVec_ok {s : State} {d a b : RegF} {m : VMods} {x y : VSrc} (ho : s.Opens [fieldA a m, fieldB b m] [] [x, y])
    (hs : s.SourcesFit [x, y]) (hl : (s.lookup x.fmt y.fmt).act ≠ .forbidden) :
    compareVec d a b m s = .ok (s.compared d a b m x.strip y.strip) := by
  have hchk : Allowed (s.vlChecks [x, y] ++ s.countChecks [x, y] ++ [((s.lookup x.fmt y.fmt).act != .forbidden,
      pairTrap x.fmt y.fmt false false s.myCtx.latsel)]) := by
    simp only [allowed_append]
    exact ⟨⟨vlChecks_ok hs, countChecks_ok hs⟩, allowed_cons.2 ⟨bne_iff_ne.2 hl, allowed_nil⟩⟩
  unfold compareVec
  dsimp only
  rw [openVec_ok ho]
  show (firstOf (s.vlChecks [x, y] ++ s.countChecks [x, y] ++ [((s.lookup x.fmt y.fmt).act != .forbidden,
    pairTrap x.fmt y.fmt false false s.myCtx.latsel)])).bind _ = _
  rw [firstOf_ok hchk]
  rfl

/-- No element of an unscaled source has a NaN scale. -/
theorem scnOf_unscaled {x : Strip} (h : Fmt.isScaled x.tag.fmt = false) (is : List Nat) : scnOf x is = 0 := by
  have hscn : ∀ i, x.scn i = 0 := fun i => by rw [Strip.scn, VTag.f, h]; rfl
  unfold scnOf Flags.all
  rw [List.foldl_map]
  induction is with
  | nil => rfl
  | cons i is ih => rw [List.foldl_cons, hscn]; exact ih

/-- Sources popped and flags raised: the masks are as they were. -/
theorem masksBecome_popped {s : State} (hc : s.isSup = false) (qs : List Nat) (fl : Flags) :
    MasksBecome s ((s.popAll qs).orFlags fl) s.maskBit := by
  obtain ⟨hin, hctx⟩ := onlyQueues_popAll s qs
  have hsup : (s.popAll qs).isSup = false := by rw [State.isSup, hin.cur]; exact hc
  rw [State.orFlags, hsup, if_neg Bool.false_ne_true]
  refine ⟨hin.trans (inContext_modMyCtx _ _), ?_, fun k i => ?_⟩
  · rw [State.myCtx_modMyCtx, hctx]
  · rw [State.maskBit, State.myCtx_modMyCtx, hctx, State.maskBit]

theorem flags_popped {s : State} (hc : s.isSup = false) (qs : List Nat) (fl : Flags) :
    ((s.popAll qs).orFlags fl).myCtx.flags = s.myCtx.flags ||| fl := by
  obtain ⟨hin, hctx⟩ := onlyQueues_popAll s qs
  have hsup : (s.popAll qs).isSup = false := by rw [State.isSup, hin.cur]; exact hc
  rw [State.orFlags, hsup, if_neg Bool.false_ne_true, State.myCtx_modMyCtx, hctx]

theorem queue_orFlags (s : State) (fl : Flags) (q : Nat) : (s.orFlags fl).queue q = s.queue q := by
  unfold State.orFlags
  split
  · rfl
  · rw [State.queue, State.myCtx_modMyCtx, State.queue]; rfl

/-- A compare's write to a mask leaves queues and FLAGS. -/
theorem myCtx_cmpMask (s : State) (k : RegF) (z : Bool) (act f : Nat → Bool) :
    (s.cmpMask k z act f).myCtx = { s.myCtx with masks := (s.cmpMask k z act f).myCtx.masks } := by
  unfold State.cmpMask
  split
  · rfl
  · rw [State.setMask, State.myCtx_modMyCtx]

theorem queue_cmpMask (s : State) (k : RegF) (z : Bool) (act f : Nat → Bool) (q : Nat) : (s.cmpMask k z act f).queue q = s.queue q := by
  rw [State.queue, myCtx_cmpMask, State.queue, Ctx.queue, Ctx.queue]

/-- Masks do not decide VL, nor which elements an instruction acts on. -/
theorem MasksBecome.v_eq {s u : State} {f : Nat → Nat → Bool} (h : MasksBecome s u f) :
    u.vl = s.vl ∧ u.reelElem = s.reelElem ∧ (s.Whole → u.Whole) := by
  obtain ⟨-, hctx, -⟩ := h
  have hv : u.myCtx.v = s.myCtx.v := by rw [hctx]
  simp only [State.vl, State.reelElem, State.Whole, hv, true_and, imp_self]

/-- The first mask takes the conditions and then the second their negations. -/
theorem compared_masks {s : State} (hc : s.isSup = false) (hw : s.Whole) (d a b : RegF) (m : VMods) (x y : Strip) :
    MasksBecome s (s.compared d a b m x y) fun k i =>
      let r := vcond (m.imm.extractLsb' 0 4).toNat (x.val i) (y.val i)
      if i < s.vl ∧ k ≠ 31 ∧ (k = m.vc.toNat ∨ k = d.toNat) then
        if s.active m.mask i then (if k = m.vc.toNat then !r else r) else !(m.z && decide (s.reelElem ≤ i)) && s.maskBit k i
      else s.maskBit k i := by
  unfold State.compared
  extract_lets c nv
  generalize htf : (s.popAll (queuesOf [fieldA a m, fieldB b m])).orFlags _ = t
  have h0 : MasksBecome s t s.maskBit := htf ▸ masksBecome_popped hc _ _
  obtain ⟨hvl, hreel, hwhole⟩ := h0.v_eq
  have h1 := masksBecome_cmpMask (hwhole hw) d m.z (s.active m.mask) fun i => vcond c (x.val i) (y.val i)
  obtain ⟨hvl1, hreel1, hwhole1⟩ := h1.v_eq
  have h2 := masksBecome_cmpMask (hwhole1 (hwhole hw)) m.vc m.z (s.active m.mask) fun i => !vcond c (x.val i) (y.val i)
  refine ((h0.trans h1).trans h2).congr fun k i => ?_
  obtain ⟨-, -, hbit0⟩ := h0
  obtain ⟨-, -, hbit1⟩ := h1
  rw [hvl1, hreel1, hbit1, hvl, hreel]
  dsimp only
  rw [hbit0]
  generalize (!(m.z && decide (s.reelElem ≤ i))) = kept
  by_cases hin : i < s.vl ∧ k ≠ 31
  · by_cases hvc : k = m.vc.toNat
    · simp only [hin, ← hvc, true_and, if_true, true_or]
      cases s.active m.mask i <;> grind
    · simp only [hin, hvc, true_and, and_false, if_false, false_or]
      rfl
  · simp only [← and_assoc, hin, false_and, if_false]

/-- Settles O18: a compare pops its sources, raises its flags and writes its two masks. -/
theorem vectorCompare : Obligations.VectorCompare := by
  intro s slot g d a b m x y hc hg ho hs hl
  have hsup := State.isSup_of_cluster hc
  refine ⟨_, settle_ok hg (compareVec_ok ho hs hl), compared_masks hsup ho.1 d a b m x.strip y.strip, fun hx hy => ?flags, fun q => ?queues⟩
  case flags =>
    unfold State.compared
    dsimp only
    rw [myCtx_cmpMask, myCtx_cmpMask, flags_popped hsup, scnOf_unscaled hx, scnOf_unscaled hy]
    simp
  case queues =>
    unfold State.compared
    dsimp only
    rw [queue_cmpMask, queue_cmpMask, queue_orFlags, queue_popAll]

end Sys2Proof.Machine
end

section
/-! PROOFS. WID (R350): what its parcels decode to and what it does. -/

namespace Sys2Proof

/-- A check that fails refuses the parcels. -/
theorem leastFailing_some : ∀ {l : List Check} {c : Check}, c ∈ l → c.2 = false → ∃ r, leastFailing l = some r
  | (_, true) :: l, _, hm, hc => leastFailing_some (l := l) ((List.mem_cons.1 hm).resolve_left (by rintro rfl; simp at hc)) hc
  | (_, false) :: l, _, _, _ => by
    rw [leastFailing]
    split <;> exact ⟨_, rfl⟩

/-- The row of WID (R235, R350). -/
def rowWid : Row := .short 0xF800 fun p => .wid p.guard p.rd p.rb

theorem rowWid_isAt {p : Parcel} (hmaj : p.major = 0x1E) (hl : p.long = false) (hmin : p.minor = 2) : rowWid.IsAt .compute p :=
  Row.IsAt.of_stem (maj := 0x1E) (mn := 2) ⟨rfl, rfl⟩ rfl hl hmaj hmin

theorem and_raMask {p : Parcel} (h : p &&& 0xF800 = 0) : p.ra = 0 := by
  have hand : (p &&& 0xF800).at 11 5 = p.ra &&& 31 := BitVec.extractLsb'_and
  rw [h] at hand
  exact (hand.trans BitVec.and_allOnes).symm

/-- A parcel of WID decodes by its row alone. -/
theorem decode_wid {c : Cl} {p : Parcel} (hmaj : p.major = 0x1E) (hmin : p.minor = 2) :
    decode (.cl c) p 0 = decodeRows (.cl c) p 0 [rowWid] := by
  cases c <;> simp [decode, majorReserved, majorAt, rowsAt, rows1E, hmaj, hmin, rowWid]

theorem decode_wid_refused {c : Cl} {p : Parcel} (hmaj : p.major = 0x1E) (hl : p.long = false) (hmin : p.minor = 2)
    (h : p.ra ≠ 0 ∨ 6 ≤ p.rb.toNat) : ∃ r, decode (.cl c) p 0 = .error (.illegal r) := by
  have hfails : ∃ r, leastFailing ((5, p &&& rowWid.zero0 == 0 && (!rowWid.long || (0 : Parcel) &&& rowWid.zero1 == 0))
      :: (8, p.major != 0x1F || Site.cl c == .sup) :: rowWid.codes p 0 ++ (rowWid.make p 0).checks (.cl c)) = some r := by
    rcases h with hra | hrb
    · refine leastFailing_some List.mem_cons_self (Bool.and_eq_false_iff.2 (.inl ?_))
      exact beq_eq_false_iff_ne.2 fun hz => hra (and_raMask hz)
    · refine leastFailing_some (c := (7, decide (p.rb.toNat < 6))) ?_ (decide_eq_false (by omega))
      exact List.mem_append_right _ List.mem_cons_self
  obtain ⟨r, hr⟩ := hfails
  refine ⟨r, ?_⟩
  rw [decode_wid hmaj hmin, decodeRows]
  · simp only [show List.find? (fun x : Row => x.long == p.long) [rowWid] = some rowWid by simp [rowWid, Row.short, hl], hr]
  · simp

theorem decode_wid_ok {c : Cl} {p : Parcel} (hmaj : p.major = 0x1E) (hl : p.long = false) (hmin : p.minor = 2) (hra : p.ra = 0)
    (hrb : p.rb.toNat < 6) : decode (.cl c) p 0 = .ok (.wid p.guard p.rd p.rb) := by
  have hz : p &&& 0xF800 = 0 := and_fieldMasks [(11, 5)] rfl (by simpa using hra)
  refine decode_of_takes ?_ (rowWid_isAt hmaj hl hmin) (takes_short hl hz rfl)
  have hlegal : Home.compute.legalAt (.cl c) = true := by cases c <;> rfl
  exact Bool.and_eq_true_iff.2 ⟨hlegal, List.all_eq_true.2 (by simpa [Instr.checks] using hrb)⟩

open Machine in
/-- Settles O60: parcels of WID decode by one row, whose zero bits and whose check of j are the two refusals. -/
theorem workIdentifiers : Obligations.WorkIdentifiers := by
  intro c p hmaj hl hmin
  refine ⟨decode_wid_refused hmaj hl hmin, fun hra hrb => ⟨_, decode_wid_ok hmaj hl hmin hra hrb, fun s slot hcur hg => ?_⟩⟩
  rw [← State.myCtx_of_cluster hcur]
  exact ⟨_, onGuard_true (f := fun s => .next ((s.writeS p.rd (s.myCtx.wid.get 0 p.rb.toNat)).retire 4)) hg, State.pass_spec ..⟩

end Sys2Proof
end

section
/-! PROOFS. Matrix names: claims, releases and shapes (R319 .. R322, R327, R337). -/

namespace Sys2Proof.Machine

/-! ### Tiles that are formed -/

/-- A place of a tile formed in an unscaled format without error feedback takes the code of what is put there. -/
theorem formTile_get {f : Fmt} (hf : f.isScaled = false) (blk : Nat) (rm : Rm) {ef : Bool} (hef : ef = false) {n i : Nat} (hi : i < n)
    {put : Nat → Put} (hlive : (put i).live = true) (res : F32) :
    (formTile f blk rm ef n put res).elems.get 0 i = putCode f rm (put i) := by
  refine (Plan.run_get hf hef hi res).elim (fun h => h.trans ?_) fun ⟨h, _⟩ => absurd hi (Nat.not_lt.2 h)
  unfold Plan.code
  dsimp only
  cases hp : put i <;> simp_all [Put.live]

section
variable {s : State} (hs : s.isSup = false) (d : RegF)
include hs

theorem State.setTile_orFlags_zero (t : Tile) : (s.setTile d t).orFlags 0 = s.setTile d t := by
  rw [State.setTile, State.orFlags_modMyCtx hs]
  simp

/-- A name that takes a dense tile. -/
theorem tileWritten_dense (fl : Flags) {f : Fmt} {elems : SMap Word} {scales : SMap Byte} {p : Tile → Prop} (hroom : s.Room d (denseNeed f))
    (hp : ∀ t : Tile, t.kind = .dense → t.rank = 0 → t.fmt = f → t.elems = elems → t.scales = scales → p t) :
    TileWritten s ((s.writeDense d f elems scales).orFlags fl) d (denseNeed f) p :=
  tileWritten_setTile hs d fl (hp _ rfl rfl rfl rfl rfl) rfl rfl rfl hroom
end

/-! ### Names -/

/-- Of the executing context only matrix name `d` changes, which becomes `t`. -/
def NameBecomes (s u : State) (d : RegF) (t : Tile) : Prop :=
  InContext s u ∧ u.myCtx = { s.myCtx with tiles := u.myCtx.tiles } ∧ ∀ m, u.tile m = if m = d then t else s.tile m

theorem nameBecomes_setTile (s : State) (d : RegF) (t : Tile) : NameBecomes s (s.setTile d t) d t := by
  refine ⟨inContext_modMyCtx .., by rw [State.setTile, State.myCtx_modMyCtx], fun m => ?_⟩
  rw [State.tile, Ctx.tile, State.setTile, State.myCtx_modMyCtx]
  dsimp only
  rw [SMap.get_set]
  simp only [BitVec.toNat_inj, eq_comm (a := d)]
  rfl

theorem claimName_ok {s : State} {d : RegF} {n : Nat} {elas : Bool} (hk : (s.tile d).kind = .unbound)
    (hn : elas = false → n ≤ s.myCtx.freeSlots.length) : claimName d n elas s
      = .ok (s.setTile d { Tile.unbound with kind := .factor, elas := elas, ncl := n, held := if elas then [] else s.myCtx.freeSlots.take n }) := by
  have hfree : (elas || decide (n ≤ s.myCtx.freeSlots.length)) = true := by
    cases elas with
    | true => rfl
    | false => exact decide_eq_true (hn rfl)
  show (firstOf [_, _]).bind _ = _
  rw [firstOf_ok (allowed_cons.2 ⟨beq_iff_eq.2 hk, allowed_cons.2 ⟨hfree, allowed_nil⟩⟩)]
  rfl

section
variable {s : State} {d a : RegF}

theorem zeroName_ok (hk : (s.tile d).kind ≠ .unbound) : zeroName d s = .ok (s.writePair d ([], [])) := by
  show (firstOf _).bind _ = _
  rw [firstOf_ok (boundChecks_ok (l := [(d, 0)]) (by simpa using hk))]
  rfl

theorem bothBound_ok (hd : (s.tile d).kind ≠ .unbound) (ha : (s.tile a).kind ≠ .unbound) :
    firstOf (s.boundChecks [(d, 0), (a, 1)]) = .ok () := firstOf_ok (boundChecks_ok (by simpa using ⟨hd, ha⟩))

theorem transpose_factor (hk : (s.tile a).kind = .factor) (hroom : s.Room d (pairNeed (s.tile a).rank))
    (hn : (s.tile a).rank ≤ s.myCtx.rkcap.toNat) :
    transpose d a s = .ok (s.writePair d ((s.tile a).pair.2, (s.tile a).pair.1)) := by
  unfold transpose
  rw [bothBound_ok hroom.1 (by simp [hk])]
  dsimp only [bind, Except.bind]
  simp only [hk]
  rw [firstOf_ok (rankFit_ok hn hroom)]

/-- The tile that MTR forms of a dense one. -/
def Tile.transposed (t : Tile) : Form :=
  formTile t.fmt 0 .rne false 4096 (fun k => .move (t.strip.code (64 * (k % 64) + k / 64)) (t.strip.scale (64 * (k % 64) + k / 64))) 0

theorem transpose_dense (hk : (s.tile a).kind = .dense) (hf : (s.tile a).fmt ≠ Fmt.vq2) (hroom : s.Room d (denseNeed (s.tile a).fmt)) :
    transpose d a s
      = .ok ((s.writeDense d (s.tile a).fmt (s.tile a).transposed.elems (s.tile a).transposed.scales).orFlags (s.tile a).transposed.flags) := by
  unfold transpose
  rw [bothBound_ok hroom.1 (by simp [hk])]
  dsimp only [bind, Except.bind]
  simp only [hk]
  rw [firstOf_ok (allowed_cons.2 ⟨bne_iff_ne.2 hf, hroom.fits⟩)]
  rfl

theorem densify_factor (hk : (s.tile a).kind = .factor) (hroom : s.Room d 4) :
    let r := (densePair (s.tile a).pair).go
    densify d a s = .ok ((s.writeDense d Fmt.fp32 (wordTile r.1) []).orFlags r.2) := by
  unfold densify
  rw [bothBound_ok hroom.1 (by simp [hk])]
  dsimp only [bind, Except.bind]
  simp only [hk]
  rw [firstOf_ok hroom.fits]

theorem densify_dense (hk : (s.tile a).kind = .dense) (hroom : s.Room d (denseNeed (s.tile a).fmt)) :
    densify d a s = .ok (s.writeDense d (s.tile a).fmt (s.tile a).elems (s.tile a).scales) := by
  unfold densify
  rw [bothBound_ok hroom.1 (by simp [hk])]
  dsimp only [bind, Except.bind]
  simp only [hk]
  rw [firstOf_ok hroom.fits]
end

/-- Settles O27: each instruction writes one name, whose slots follow from its claim. -/
theorem matrixNames : Obligations.MatrixNames := by
  refine ⟨fun s slot g d n hc hg => ?claims, fun s slot g d a hc hg => ?shapes⟩
  case claims =>
    intro becomes claimed
    have hs := State.isSup_of_cluster hc
    refine ⟨fun hk => ⟨fun hn => ?_, ?_⟩, ?_, fun hk => ?_, ?_⟩
    · exact ⟨_, settle_ok hg (claimName_ok hk fun _ => hn), nameBecomes_setTile ..⟩
    · exact ⟨_, settle_ok hg (claimName_ok hk nofun), nameBecomes_setTile ..⟩
    · exact ⟨_, settle_ok (f := fun s => .ok (s.setTile d .unbound)) hg rfl, nameBecomes_setTile ..⟩
    · refine settle_pair (fl := 0) hs hg rfl ⟨hk, Nat.zero_le _, fun _ => Nat.zero_le _⟩ ((zeroName_ok hk).trans ?_)
      rw [State.writePair, State.setTile_orFlags_zero hs]
    · exact ⟨_, settle_ok (f := fun s => .ok (s.writeS d (s.tile n).desc)) hg rfl, State.pass_spec ..⟩
  case shapes =>
    intro t
    have hs := State.isSup_of_cluster hc
    refine ⟨fun hk hroom hn => ?_, fun hk hf hroom => ?_, fun hk hroom => ?_, fun hk hroom => ?_⟩
    · refine settle_pair (fl := 0) hs hg (Tile.length_pair _).2 hroom ((transpose_factor hk hroom hn).trans ?_)
      rw [State.writePair, State.setTile_orFlags_zero hs]
    · refine ⟨_, settle_ok hg (transpose_dense hk hf hroom), tileWritten_dense hs d _ hroom ?_⟩
      intro r hkind hrank hfmt helems _
      refine ⟨hkind, hrank, hfmt, fun k w hw => ?_⟩
      obtain ⟨⟨hscaled, hlt⟩, rfl⟩ := by simpa using hw
      rw [Tile.strip, Strip.code, helems]
      exact formTile_get hscaled 0 .rne rfl hlt rfl 0
    · exact ⟨_, settle_ok hg (densify_factor hk hroom), tileWritten_densePair hs d _ hroom⟩
    · refine ⟨_, settle_ok hg (densify_dense hk hroom), ?_⟩
      rw [State.writeDense, ← State.setTile_orFlags_zero hs]
      refine tileWritten_dense hs d 0 hroom ?_
      intro r hkind hrank hfmt helems hscales
      refine ⟨⟨hkind, hrank, hfmt, fun k w hw => ?_⟩, hscales⟩
      rw [Tile.strip, Strip.code, helems]
      exact Option.some.inj hw

end Sys2Proof.Machine
end

section
/-! PROOFS. Accumulators are cleared and converted (R338 .. R340). -/

namespace Sys2Proof.Machine

/-! ### Accumulators -/

/-- An update of the executing context is known by what it makes of that context. -/
theorem State.modMyCtx_congr (s : State) {f h : Ctx → Ctx} (e : f s.myCtx = h s.myCtx) : s.modMyCtx f = s.modMyCtx h :=
  congrArg (s.setCtx s.slot) e

section
variable {s : State} {slot : Nat} (hc : s.cur = .cluster slot .M)
include hc

theorem State.me_of_matrix : s.me = s.myCtx.m := by rw [State.me_of_cluster hc, State.myCtx_of_cluster hc]; rfl

theorem State.modMe_of_matrix (f : Cluster → Cluster) : s.modMe f = s.modMyCtx fun x => { x with m := f x.m } := by
  rw [State.modMe_of_cluster hc, State.modMyCtx_of_cluster hc]; rfl

theorem State.modMe_modMyCtx (f : Ctx → Ctx) (h : Cluster → Cluster) :
    (s.modMyCtx f).modMe h = s.modMyCtx fun x => { f x with m := h (f x).m } :=
  (State.modMe_of_matrix (s := s.modMyCtx f) hc h).trans (State.modMyCtx_modMyCtx ..)
end

/-- The code that a conversion of an accumulator gives place `k` of a tile, and row by row an entry of a queue (R340). -/
def Acc.converted (x : Acc) (f : Fmt) (rm : BitVec 3) (k : Nat) : Option Word :=
  if Fmt.isScaled f = false ∧ rm ≠ 4 ∧ k < 4096 then some (encodeUnder f (Rm.ofCode rm.toNat) 0x7F (x.val k)).1 else none

/-- The tile that ACVT forms (R340). -/
def State.convertedTile (s : State) (a : RegF) (f : Fmt) (blk : Nat) (rm : BitVec 3) : Form :=
  formTile f blk (Rm.ofCode rm.toNat) (rm == 4) 4096 (fun k => .value ((s.acc a).val k)) s.me.efc

theorem acvtTile_ok {s : State} {d a : RegF} {f : Fmt} {blk : Nat} {rm : BitVec 3} (hf : f ≠ Fmt.vq2) (hroom : s.Room d (denseNeed f)) :
    let r := s.convertedTile a f blk rm
    acvtTile d a f blk rm s = .ok (((s.writeDense d f r.elems r.scales).orFlags r.flags).setEfc (rm == 4) r.res) := by
  have hchecks : Allowed ((f != Fmt.vq2, illegalOperand 0x05 0 0 f.toNat) :: s.boundChecks [(d, 0)] ++ [s.fitCheck d (denseNeed f)]) :=
    allowed_append.2 ⟨allowed_cons.2 ⟨bne_iff_ne.2 hf, boundChecks_ok (by simpa using hroom.1)⟩, hroom.fits⟩
  show (firstOf _).bind _ = _
  rw [firstOf_ok hchecks]
  rfl

/-- The residual is one write of EFC in any mode. -/
theorem State.setEfc_modMyCtx {s : State} {slot : Nat} (hc : s.cur = .cluster slot .M) (f : Ctx → Ctx) (ef : Bool) (res : F32) :
    (s.modMyCtx f).setEfc ef res
      = s.modMyCtx fun x => { f x with m := { (f x).m with efc := if ef then res else (f x).m.efc } } := by
  cases ef with
  | true =>
    exact State.modMe_modMyCtx hc f _
  | false => rfl

/-! ### Rows converted into a queue -/

/-- Of the executing context only queue `q`, which takes the entries `es`, FLAGS, START and EFC change, EFC under error feedback
alone. -/
def RowsPushed (s t : State) (q : Nat) (ef : Bool) (es : List QEntry) : Prop :=
  InContext s t
    ∧ (∃ st efc, t.myCtx = { s.myCtx with queues := t.myCtx.queues, flags := t.myCtx.flags, m := { s.myCtx.m with start := st, efc := efc } }
        ∧ (ef = false → efc = s.myCtx.m.efc))
    ∧ ∀ r, t.queue r = if r = q then { s.queue q with entries := (s.queue q).entries ++ es } else s.queue r

theorem RowsPushed.refl (s : State) (q : Nat) (ef : Bool) : RowsPushed s s q ef [] := by
  refine ⟨.refl s, ⟨s.myCtx.m.start, s.myCtx.m.efc, rfl, fun _ => rfl⟩, fun r => ?_⟩
  split
  · next h => rw [h, List.append_nil]
  · rfl

theorem RowsPushed.trans {s t u : State} {q : Nat} {ef : Bool} {es fs : List QEntry} (h : RowsPushed s t q ef es) (k : RowsPushed t u q ef fs) :
    RowsPushed s u q ef (es ++ fs) := by
  obtain ⟨hin, ⟨st, efc, hctx, hefc⟩, hqueue⟩ := h
  obtain ⟨kin, ⟨st', efc', kctx, kefc⟩, kqueue⟩ := k
  refine ⟨hin.trans kin, ⟨st', efc', ?_, fun he => ?_⟩, fun r => ?_⟩
  · rw [kctx, hctx]
  · rw [kefc he, hctx]
    exact hefc he
  · rw [kqueue, hqueue, hqueue]
    split
    · simp
    · rfl

/-- One row that is pushed. -/
def State.pushRow (s : State) (a : RegF) (q : Nat) (f : Fmt) (blk : BitVec 2) (rm : BitVec 3) (i : Nat) : State :=
  let r := acvtRow (s.acc a) f blk rm i s.me.efc
  (((s.modQueue q fun x => x.push [r.1]).orFlags r.2.1).setEfc (rm == 4) r.2.2).modMe fun x =>
    { x with start := x.start.set 0 0 (BitVec.ofNat 16 (i + 1)) }

/-- A row that is pushed is one update of the context. -/
def Ctx.pushRow (q : Nat) (r : QEntry × Flags × F32) (ef : Bool) (i : Nat) (x : Ctx) : Ctx :=
  let y := x.modQueue q fun z => z.push [r.1]
  { y with
    flags := y.flags ||| r.2.1
    m := { y.m with efc := if ef then r.2.2 else y.m.efc, start := y.m.start.set 0 0 (BitVec.ofNat 16 (i + 1)) } }

theorem State.pushRow_eq {s : State} {slot : Nat} (hc : s.cur = .cluster slot .M) (a : RegF) (q : Nat) (f : Fmt) (blk : BitVec 2)
    (rm : BitVec 3) (i : Nat) :
    s.pushRow a q f blk rm i = s.modMyCtx (Ctx.pushRow q (acvtRow (s.acc a) f blk rm i s.me.efc) (rm == 4) i) := by
  unfold State.pushRow State.modQueue
  dsimp only
  rw [State.orFlags_modMyCtx (State.isSup_of_cluster hc), State.setEfc_modMyCtx hc, State.modMe_modMyCtx hc]
  rfl

theorem rowsPushed_pushRow {s : State} {slot : Nat} (hc : s.cur = .cluster slot .M) (a : RegF) (q : Nat) (f : Fmt) (blk : BitVec 2)
    (rm : BitVec 3) (i : Nat) : RowsPushed s (s.pushRow a q f blk rm i) q (rm == 4) [(acvtRow (s.acc a) f blk rm i s.me.efc).1] := by
  have hs := State.isSup_of_cluster hc
  have hrow := s.pushRow_eq hc a q f blk rm i
  have hctx := congrArg State.myCtx hrow
  rw [State.myCtx_modMyCtx] at hctx
  refine ⟨hrow ▸ inContext_modMyCtx .., ?_, fun r => ?_⟩
  · rw [hctx]
    exact ⟨_, _, rfl, fun he => if_neg (ne_true_of_eq_false he)⟩
  · show (s.pushRow a q f blk rm i).myCtx.queue r = _
    rw [hctx]
    refine (Ctx.queue_modQueue s.myCtx q r fun z => z.push [(acvtRow (s.acc a) f blk rm i s.me.efc).1]).trans ?_
    simp only [eq_comm (a := q)]
    rfl

/-- What the entry of a row holds: 64 elements with the codes of the accumulator's row (R340). -/
theorem acvtRow_entry (x : Acc) (f : Fmt) (blk : BitVec 2) (rm : BitVec 3) (i : Nat) (res : F32) :
    let e := (acvtRow x f blk rm i res).1
    e.scal = false ∧ e.count = 64 ∧ e.strip.tag = { fmt := f, vsum := vsValid, blk := blk }
      ∧ ∀ k < 64, e.present.get false k = true ∧ ∀ c, x.converted f rm (64 * i + k) = some c → e.strip.code k = c := by
  intro e
  let r := formTile f blk.toNat (Rm.ofCode rm.toNat) (rm == 4) 64 (fun j => .value (x.val (64 * i + j))) res
  have hstrip : e.strip = { tag := { fmt := f, vsum := vsValid, blk := blk }, elems := r.elems, scales := r.scales } :=
    if_pos (c := (List.range 64).any (fun _ => true) = true)
      (e := { tag := { fmt := f, vsum := vsVacant, blk := blk }, elems := r.elems, scales := r.scales }) (by decide)
  refine ⟨rfl, rfl, by rw [hstrip], fun k hk => ⟨?_, fun c h => ?_⟩⟩
  · refine (SMap.get_tabulate ..).trans ?_
    simp [hk]
  · obtain ⟨⟨hscaled, hrm, -⟩, rfl⟩ := by simpa [Acc.converted] using h
    rw [hstrip, Strip.code]
    exact formTile_get hscaled _ _ (beq_eq_false_iff_ne.2 hrm) hk rfl res

/-- The entries that the rows of accumulator `x` from `i` on become. -/
def RowEntries (x : Acc) (f : Fmt) (blk : BitVec 2) (rm : BitVec 3) (i : Nat) (es : List QEntry) : Prop :=
  ∀ (j : Nat) (e : QEntry), es[j]? = some e → ∃ res, e = (acvtRow x f blk rm (i + j) res).1

/-- Rows whose entries the queue has space for are all pushed (R340). -/
theorem acvtRows_spec {slot : Nat} (a : RegF) (q : Nat) (f : Fmt) (blk : BitVec 2) (rm : BitVec 3) (n : Nat) :
    ∀ (i : Nat) (s : State), s.cur = .cluster slot .M → (s.queue q).unplaced = [] → (s.queue q).entries.length + n ≤ 64 →
      n * ((64 * Fmt.width f + 2047) / 2048) ≤ (s.queue q).free →
      ∃ t es, acvtRows a q f blk rm n i s = (t, true) ∧ RowsPushed s t q (rm == 4) es ∧ es.length = n
        ∧ RowEntries (s.acc a) f blk rm i es := by
  induction n with
  | zero => exact fun i s _ _ _ _ => ⟨s, [], rfl, .refl .., rfl, nofun⟩
  | succ n ih =>
    intro i s hc hplaced hlen hfree
    have hentry := acvtRow_entry (s.acc a) f blk rm i s.me.efc
    have hpush := rowsPushed_pushRow hc a q f blk rm i
    have hstep : acvtRows a q f blk rm (n + 1) i s
        = if (s.queue q).fits [(acvtRow (s.acc a) f blk rm i s.me.efc).1] then acvtRows a q f blk rm n (i + 1) (s.pushRow a q f blk rm i)
          else (s, false) := rfl
    generalize he : (acvtRow (s.acc a) f blk rm i s.me.efc).1 = e at hentry hpush hstep
    obtain ⟨hscal, hcount, htag, -⟩ := hentry
    have hgroups : e.groups = (64 * Fmt.width f + 2047) / 2048 := by simp [QEntry.groups, hscal, hcount, htag, VTag.f]
    have hfits : (s.queue q).fits [e] = true := by
      simp only [Queue.fits, hplaced, List.isEmpty_nil, List.length_singleton, List.map_cons, List.map_nil, List.sum_cons, List.sum_nil,
        hgroups, Bool.and_eq_true, decide_eq_true_eq, true_and, Nat.succ_mul] at hfree ⊢
      omega
    have hnext := hpush.2.2 q
    rw [if_pos rfl] at hnext
    have hacc : (s.pushRow a q f blk rm i).acc a = s.acc a := by
      obtain ⟨_, _, hctx, _⟩ := hpush.2.1
      rw [State.acc, State.acc, hctx]
    obtain ⟨t, es, hrun, hrows, hlenes, hentries⟩ := ih (i + 1) (s.pushRow a q f blk rm i) (hpush.1.cur.trans hc) (by rw [hnext]; exact hplaced)
      (by rw [hnext]; simp; omega) (by
        rw [hnext]
        simp only [Queue.free, Queue.capacity, List.map_append, List.sum_append, List.map_cons, List.map_nil, List.sum_cons, List.sum_nil,
          hgroups, Nat.succ_mul] at hfree ⊢
        omega)
    refine ⟨t, e :: es, ?_, hpush.trans hrows, congrArg (· + 1) hlenes, fun j x hx => ?_⟩
    · rw [hstep, if_pos hfits, hrun]
    · cases j with
      | zero => exact ⟨_, (Option.some.inj hx).symm.trans he.symm⟩
      | succ j =>
        obtain ⟨res, hres⟩ := hentries j x hx
        rw [hacc, Nat.add_assoc, Nat.add_comm 1 j] at hres
        exact ⟨res, hres⟩

theorem acvtQueue_ok {s t : State} {q : Nat} {a : RegF} {f : Fmt} {blk : BitVec 2} {rm : BitVec 3} (hchecks : Allowed (s.acvtChecks q f blk))
    (hrows : acvtRows a q f blk rm (64 - (s.me.start.get 0 0).toNat) (s.me.start.get 0 0).toNat s = (t, true)) :
    acvtQueue q a f blk rm s = .next (t.retire 8) := by
  unfold acvtQueue
  rw [firstOf_ok hchecks]
  dsimp only
  rw [hrows]
  rfl

theorem acvtChecks_ok {s : State} {q : Nat} {f : Fmt} {blk : BitVec 2} (hf : f ≠ Fmt.vq2) (hblk : 2 ^ blk.toNat * 256 ≤ 64 * Fmt.width f)
    (hpush : s.pushOk q = true) (hopen : (s.queue q).closed = false) : Allowed (s.acvtChecks q f blk) := by
  simp [State.acvtChecks, State.queueChecks, Allowed, hf, hblk, hpush, hopen]

/-- Settles O30: an accumulator is cleared by one write, and converted into one tile or into a run of entries. -/
theorem accumulators : Obligations.Accumulators := by
  intro s slot g d a f blk rm hc hg code w
  have hs := State.isSup_of_cluster hc
  refine ⟨?azero, fun hf hroom => ?tile, ?queue⟩
  case azero =>
    have hzero : (s.setAcc d .initial).orFlags 0 = s.setAcc d .initial := by
      rw [State.setAcc, State.orFlags_modMyCtx hs]
      simp
    refine ⟨_, settle_ok (f := fun s => .ok (s.setAcc d .initial)) hg rfl, ?_, ?_⟩
    · rw [← hzero]
      exact accWritten_put hs d 0 (w := []) fun _ _ => rfl
    · rw [State.setAcc, State.myCtx_modMyCtx]
  case tile =>
    let r := s.convertedTile a f blk.toNat rm
    refine ⟨(s.writeDense d f r.elems r.scales).orFlags r.flags, if rm == 4 then r.res else s.me.efc,
      (settle_ok hg (acvtTile_ok hf hroom)).trans ?_, fun h => if_neg (by simpa using h), tileWritten_dense hs d _ hroom ?_⟩
    · rw [State.writeDense, State.setTile, State.orFlags_modMyCtx hs, State.setEfc_modMyCtx hc, State.modMe_modMyCtx hc]
      rw [State.me_of_matrix hc]
      exact congrArg (fun x : State => Host.Outcome.next (x.retire 8)) (State.modMyCtx_congr s rfl)
    · intro t hkind hrank hfmt helems _
      refine ⟨hkind, hrank, hfmt, fun k w hw => ?_⟩
      obtain ⟨⟨hscaled, hrm, hlt⟩, rfl⟩ := by simpa [code] using hw
      rw [Tile.strip, Strip.code, helems]
      exact formTile_get hscaled _ _ (beq_eq_false_iff_ne.2 hrm) hlt rfl _
  case queue =>
    intro i q hf hblk hpush hopen hplaced hlen hfree
    obtain ⟨t, es, hrun, ⟨hin, ⟨st, efc, hctx, hefc⟩, hqueue⟩, hn, hentries⟩ := acvtRows_spec a q f blk rm (64 - i) i s hc hplaced hlen hfree
    refine ⟨t, es, (onGuard_true hg).trans (acvtQueue_ok (acvtChecks_ok hf hblk hpush hopen) hrun), hin,
      ⟨st, efc, hctx, fun h => ?_⟩, hqueue, hn, fun j e he => ?_⟩
    · rw [State.me_of_matrix hc]
      exact hefc (by simpa using h)
    · obtain ⟨res, rfl⟩ := hentries j e he
      exact acvtRow_entry ..

end Sys2Proof.Machine
end

section
/-! PROOFS. VST to a typed page whose cached translation has slots wider than a line (R126, R304): the line has no slot, and takes
nothing. -/

namespace Sys2Proof.Machine

/-- The V cluster of a context with the translation and VL 1; v1 holds the I64 element 1. -/
def wideVector : State :=
  { State.reset with
    cur := .cluster 0 .V
    tlb := [wideSlots]
    ctxs := [(0, { Ctx.free with v := { Ctx.free.v with vl := 1 }, vregs := [(1, { strip := oneEntry.strip, missing := [] })] })] }

theorem wideVector_storable : wideVector.Storable 0 Fmt.i64 wideXlate := by
  unfold State.Storable State.Quiet State.CleanAt
  decide +kernel

theorem wideVector_scatters : wideVector.Scatters 0 0 (.positions fun j => j) true Fmt.i64 [(0, oneEntry.strip.selem 0)] [⟨0, 0, false⟩]
    [wideXlate] := by
  refine ⟨rfl, fun _ => by decide +kernel, ⟨some wideSlots.par, by decide +kernel, fun _ p hp => ?_⟩, .cons (by decide +kernel) .nil, ?_, ?_⟩
  · cases hp; decide +kernel
  · intro x hx
    rw [List.mem_singleton.1 hx]
    exact wideVector_storable
  · intro x hx y hy
    rw [List.mem_singleton.1 hx, List.mem_singleton.1 hy]
    exact ⟨rfl, rfl, rfl⟩

theorem wideVector_opens : wideVector.Opens [] [] [] := ⟨⟨rfl, rfl⟩, by simp [State.queueChecks, queuesOf], .nil⟩

theorem wideVector_stored : ∃ t, exec (.vst ⟨false, 7⟩ 1 0 false) wideVector = .next t ∧ bitsAt (t.lineAt 0x200000).bytes 64 0 = 0 := by
  refine ⟨_, rfl, ?_⟩
  decide +kernel

/-- Refutes O25: where the cached translation of a typed page has slots wider than a line, VST completes, and its element, at place 0, is
not in memory. The statement does not confine SLOTW of a cached translation to the values of R126, with which a line has 16 slots or
more. -/
theorem not_vectorStores : ¬ Obligations.VectorStores := by
  intro h
  obtain ⟨hvst, -⟩ := h wideVector 0 ⟨false, 7⟩ 1 0 0 rfl (by decide +kernel)
  have hels : ((wideVector.actives VMods.short.mask).filter (indicesOf []).has).map (fun j => (j, (wideVector.vreg 1).selem j))
      = [(0, oneEntry.strip.selem 0)] := by decide +kernel
  have hstore := hvst [⟨0, 0, false⟩] [wideXlate] [] wideVector_opens nofun nofun (by decide +kernel)
  simp only [hels] at hstore
  obtain ⟨u, hexec, -, -, -, hvalue⟩ := hstore rfl wideVector_scatters
  have hone : bitsAt (u.lineAt 0x200000).bytes 64 0 = 1 := by
    refine hvalue 0 ⟨0, 0, false⟩ wideXlate (oneEntry.strip.selem 0) rfl rfl rfl (by decide +kernel) (fun k q y hk hq => ?_) (by decide +kernel)
    have hbound := (List.getElem?_eq_some_iff.1 hq).1
    simp only [List.length_singleton] at hbound
    omega
  obtain ⟨t, ht, hzero⟩ := wideVector_stored
  have hu : t = u.retire 4 := Host.Outcome.next.inj (ht.symm.trans hexec)
  have hline : ((u.retire 4).lineAt 0x200000).bytes = (u.lineAt 0x200000).bytes := by
    simp only [State.lineAt, State.byteAt, State.retire, State.modMe_mem]
  rw [hu, hline, hone] at hzero
  cases hzero

end Sys2Proof.Machine
end

section
/-! PROOFS. MSTF to a typed page whose cached translation has slots wider than a line (R126, R331): its lines have no slots, and take
nothing. -/

namespace Sys2Proof.Machine

/-- The M cluster of a context with the translation; m1 holds a pair of rank 1 whose first word is 1, and s1 is 1. -/
def wideFactor : State :=
  { State.reset with
    cur := .cluster 0 .M
    tlb := [wideSlots]
    ctxs := [(0, { Ctx.free with
      m := { Ctx.free.m with s := [(1, 1)] }
      tiles := [(1, { Tile.unbound with kind := .factor, ncl := 1, rank := 1, elems := [(0, 1)] })] })] }

/-- The element `k` of the pair as it is stored: each lies in a line of its own, at its first byte. -/
def wideElem (k : Nat) : Nat × SElem :=
  (k, ({ tag := ⟨Fmt.fp32, vsValid, 0⟩, elems := [(0, 1)], scales := [] } : Strip).selem k)
def wideSpot (k : Nat) : Spot := ⟨k, BitVec.ofNat 64 (256 * k), false⟩
def wideLine (k : Nat) : Xlate := { wideXlate with va := 256 * k, pa := 0x200000 + 256 * k, raw := 0x200000 + 256 * k }

theorem wideLine_storable : ∀ k ∈ List.range 128, wideFactor.Storable 0 Fmt.fp32 (wideLine k) := by
  unfold State.Storable State.Quiet State.CleanAt
  decide +kernel

theorem wideFactor_scatters : wideFactor.Scatters 0 0 (.positions fun j => j) true Fmt.fp32 ((List.range 128).map wideElem)
    ((List.range 128).map wideSpot) ((List.range 128).map wideLine) := by
  refine ⟨rfl, fun _ => by decide +kernel, ⟨some wideSlots.par, by decide +kernel, fun _ p hp => ?_⟩, ?_, ?_, ?_⟩
  · cases hp; decide +kernel
  · rw [List.forall₂_map_left_iff, List.forall₂_map_right_iff, List.forall₂_same]
    decide +kernel
  · intro x hx
    obtain ⟨k, hk, rfl⟩ := List.mem_map.1 hx
    exact wideLine_storable k hk
  · intro x hx y hy
    obtain ⟨k, -, rfl⟩ := List.mem_map.1 hx
    obtain ⟨j, -, rfl⟩ := List.mem_map.1 hy
    exact ⟨rfl, rfl, rfl⟩

/-- The first 32 bits of the page in the state of an answer. -/
def pageBits (o : Answer) : Nat :=
  match o with
  | .next t => bitsAt (t.lineAt 0x200000).bytes 32 0
  | _ => 1

theorem wideFactor_stored : pageBits (exec (.mstf ⟨false, 7⟩ 1 0 1) wideFactor) = 0 := by decide +kernel

/-- The lines lie apart. -/
theorem wideLine_apart {k : Nat} (hk : 0 < k) : (wideLine k).pa / 128 ≠ (wideLine 0).pa / 128 := by
  simp only [wideLine]
  omega

/-- Refutes O32: where the cached translation of a typed page has slots wider than a line, MSTF completes, and the first element of the
pair, at place 0 of its line, is not in memory. The statement does not confine SLOTW of a cached translation to the values of R126, with
which a line has 16 slots or more. -/
theorem not_pairLoadsAndStores : ¬ Obligations.PairLoadsAndStores := by
  intro h
  obtain ⟨-, hmstf, -, -⟩ := h wideFactor 0 ⟨false, 7⟩ 1 0 1 rfl (by decide +kernel)
  have hrank : (wideFactor.tile 1).rank = 1 := by decide +kernel
  have helems : (wideFactor.tile 1).elems = [(0, 1)] := by decide +kernel
  have hstore := hmstf ((List.range 128).map wideSpot) ((List.range 128).map wideLine)
  simp only [hrank, helems] at hstore
  obtain ⟨u, hexec, -, -, hvalue⟩ := hstore (by decide +kernel) (by decide +kernel) rfl wideFactor_scatters
  have hone : bitsAt (u.lineAt 0x200000).bytes 32 0 = 1 := by
    refine hvalue 0 (wideSpot 0) (wideLine 0) (wideElem 0).2 rfl rfl rfl (by decide +kernel) (fun k q y hk _ hy same => ?_) (by decide +kernel)
    obtain ⟨j, hj, rfl⟩ := Option.map_eq_some_iff.1 ((List.getElem?_map ..).symm.trans hy)
    obtain rfl : k = j := by
      obtain ⟨hlt, hget⟩ := List.getElem?_eq_some_iff.1 hj
      simpa using hget
    exact wideLine_apart hk same.1
  have hzero : bitsAt ((u.retire 4).lineAt 0x200000).bytes 32 0 = 0 := by
    have hbits := wideFactor_stored
    rwa [hexec] at hbits
  have hline : ((u.retire 4).lineAt 0x200000).bytes = (u.lineAt 0x200000).bytes := by
    simp only [State.lineAt, State.byteAt, State.retire, State.modMe_mem]
  rw [hline, hone] at hzero
  cases hzero

end Sys2Proof.Machine
end

section
/-! PROOFS. The reset of the module and class 5 errors (R389, R404, R474). -/

namespace Sys2Proof.Machine

theorem hbmEnd_lines (a : Nat) : hbmEnd ≤ a / 128 * 128 ↔ ¬ a < 0x006000000000 := by
  have hmul : hbmEnd = 0xC0000000 * 128 := rfl
  omega

/-- Memory after a reset: that of the module is zero and its tags are wiped. -/
theorem State.resetModule_memory (s : State) (links : SMap Bool) :
    (∀ a, (s.resetModule links).byteAt a = if a < 0x006000000000 then 0 else s.byteAt a)
      ∧ ∀ a, (s.resetModule links).tagAt a = if a < 0x006000000000 then LineTag.wiped else s.tagAt a := by
  refine ⟨fun a => ?_, fun a => ?_⟩
  · refine (SMap.get_filter (fun k => decide (hbmEnd ≤ k)) a).trans ?_
    by_cases h : a < 0x006000000000
    · rw [if_neg (by simp only [decide_eq_true_eq]; exact Nat.not_le.2 h), if_pos h]
    · rw [if_pos (decide_eq_true (show hbmEnd ≤ a from Nat.le_of_not_lt h)), if_neg h]
      rfl
  · refine (SMap.get_filter (fun k => decide (hbmEnd ≤ k * 128)) (a / 128)).trans ?_
    have hline := hbmEnd_lines a
    by_cases h : a < 0x006000000000
    · rw [if_neg (by simpa using fun e => (hline.1 e) h), if_pos h]
    · rw [if_pos (by simpa using hline.2 h), if_neg h]
      rfl

/-- A reset leaves what R389 says. -/
theorem moduleReset_resetModule (s : State) (links : SMap Bool) : ModuleReset s (s.resetModule links) fun n => links.get false n := by
  obtain ⟨hmem, htags⟩ := s.resetModule_memory links
  refine ⟨rfl, hmem, htags, rfl, fun _ => rfl, fun n hn => ?_⟩
  obtain rfl | rfl : n = 0 ∨ n = 1 := by omega
  · rw [State.port, State.resetModule, SMap.get_set_ne _ _ _ (by decide), SMap.get_set_same]
    rfl
  · rw [State.port, State.resetModule, SMap.get_set_same]
    rfl

theorem State.hostLinks_get (s : State) (n : Nat) : s.hostLinks.get false n = (decide (n < 2) && s.linkUp n) := by
  unfold State.hostLinks
  rw [SMap.get_set, SMap.get_set]
  by_cases h1 : 1 = n
  · subst h1
    simp
  · by_cases h0 : 0 = n
    · subst h0
      simp
    · rw [if_neg h1, if_neg h0, decide_eq_false (by omega)]
      rfl

/-- A class 5 error leaves its record and a reset module. -/
theorem uncontained_uncontained (s : State) (src : Nat) (cause : BitVec 32) : Uncontained s (s.uncontained src cause) src cause := by
  refine ⟨_, reported_report _ _, ?_⟩
  have hreset := moduleReset_resetModule ((s.reportAll s.dyingRecords).report (s.recOf src 5 cause 0 0)) s.hostLinks
  simp only [State.hostLinks_get] at hreset
  exact hreset

end Sys2Proof.Machine
end

section
/-! PROOFS. Performance states, power, temperature and parking (R383 .. R387, R470 .. R472). -/

namespace Sys2Proof.Machine

/-! ### Performance states -/

theorem busy_stays {busy : Bool} {aim cur : BitVec 3} (h : ¬ (busy = false ∧ aim ≠ cur)) : (busy || aim != cur) = busy := by
  cases busy with
  | true => rfl
  | false => simpa using h

/-- A transition begins where none is in progress and the aim is another state (R383). -/
theorem State.pstateStart_eq (s : State) : s.pstateStart =
    let aim := lowerState s.creel.pstateReq s.creel.flim
    { s with creel := { s.creel with
      pstateBusy := s.creel.pstateBusy || aim != s.creel.pstateCur
      pstateTgt := if s.creel.pstateBusy = false ∧ aim ≠ s.creel.pstateCur then aim else s.creel.pstateTgt } } := by
  have haim : s.pstateAim = lowerState s.creel.pstateReq s.creel.flim := rfl
  unfold State.pstateStart
  rw [haim]
  generalize lowerState s.creel.pstateReq s.creel.flim = aim
  dsimp only
  split
  case isTrue h =>
    obtain ⟨hbusy, hne⟩ : s.creel.pstateBusy = false ∧ aim ≠ s.creel.pstateCur := by simpa using h
    simp [State.modCreel, hbusy, hne]
  case isFalse h =>
    have hnone : ¬ (s.creel.pstateBusy = false ∧ aim ≠ s.creel.pstateCur) := by simpa using h
    rw [if_neg hnone, busy_stays hnone]

/-- The forced limit takes effect. -/
theorem limitApplied_applyLimit (s : State) : LimitApplied s s.applyLimit := by
  unfold LimitApplied State.applyLimit
  dsimp only
  split
  · rfl
  · rw [State.pstateStart_eq]
    exact messageRaised_message _ 1

theorem exec_pstateRequest (s : State) (req : BitVec 3) :
    let aim := lowerState req s.creel.flim
    exec (.pstateRequest req) s = .next { s with creel :=
      if s.creel.pstateBusy = false ∧ aim ≠ s.creel.pstateCur
      then { s.creel with pstateReq := req, pstateBusy := true, pstateTgt := aim } else { s.creel with pstateReq := req } } := by
  intro aim
  refine congrArg Host.Outcome.next ((State.pstateStart_eq _).trans ?_)
  show ({ s with creel := { s.creel with
      pstateReq := req
      pstateBusy := s.creel.pstateBusy || aim != s.creel.pstateCur
      pstateTgt := if s.creel.pstateBusy = false ∧ aim ≠ s.creel.pstateCur then aim else s.creel.pstateTgt } } : State) = _
  split
  case isTrue h => simp [h.1, h.2]
  case isFalse h => rw [busy_stays h]

theorem exec_pstateTransitionDone {s : State} (hbusy : s.creel.pstateBusy = true) :
    let aim := lowerState s.creel.pstateReq s.creel.flim
    exec .pstateTransitionDone s = .next { s with creel :=
      { s.creel with pstateCur := s.creel.pstateTgt, pstateBusy := aim != s.creel.pstateTgt, pstateTgt := aim } } := by
  have hdone : exec .pstateTransitionDone s
      = .next ((s.modCreel fun c => { c with pstateBusy := false, pstateCur := c.pstateTgt }).pstateStart) :=
    congrArg Host.Outcome.next (if_pos hbusy)
  rw [hdone, State.pstateStart_eq]
  dsimp only [State.modCreel]
  by_cases h : lowerState s.creel.pstateReq s.creel.flim = s.creel.pstateTgt
  · simp [h]
  · simp [h]

/-! ### Power -/

theorem cap_eq (v : Word) : (v.extractLsb' 0 9).toNat = v.toNat % 512 := by simp

/-- PWRCAP within its bounds (R384). -/
theorem exec_pwrcapWrite {s : State} {v : Word} (hlow : 60 ≤ v.toNat % 512) (hhigh : v.toNat % 512 ≤ 360) :
    let s2 : State := { s with creel := { s.creel with
      pwrCapErr := s.creel.pwrCapErr && !v.getLsbD 16, pwrCap := BitVec.ofNat 9 (v.toNat % 512) } }
    exec (.pwrcapWrite v) s = .next (if s.creel.pwrCap.toNat = v.toNat % 512 then s2 else s2.message 1) := by
  have hin : ¬ (v.toNat % 512 < 60 ∨ 360 < v.toNat % 512) := by omega
  show Host.Outcome.next (s.pwrcapWrite v) = _
  rw [State.pwrcapWrite, cap_eq]
  exact congrArg Host.Outcome.next (if_neg hin)

theorem exec_pwrcapWrite_bad {s : State} {v : Word} (hout : v.toNat % 512 < 60 ∨ 360 < v.toNat % 512) :
    exec (.pwrcapWrite v) s = .next { s with creel := { s.creel with pwrCapErr := true } } := by
  show Host.Outcome.next (s.pwrcapWrite v) = _
  rw [State.pwrcapWrite, cap_eq]
  exact congrArg Host.Outcome.next (if_pos hout)

/-! ### Temperature -/

/-- A sample of a stack (R387). -/
def StackSampled (s : State) (k temp : Nat) (u : State) : Prop :=
  let hot := decide (85 < temp) || (decide (82 ≤ temp) && s.creel.hbmHot.get false k)
  let s1 : State := { s with creel := { s.creel with
    hbmTemp := s.creel.hbmTemp.set 0 k (BitVec.ofNat 8 (min temp 255)), hbmHot := s.creel.hbmHot.set false k hot } }
  if hot = s.creel.hbmHot.get false k then u = s1 else MessageRaised s1 u 1

theorem stackSampled_stackTemp (s : State) (k temp : Nat) : StackSampled s k temp (s.stackTemp k temp) := by
  have hhot : (if 85 < temp then true else if temp < 82 then false else s.creel.hbmHot.get false k)
      = (decide (85 < temp) || (decide (82 ≤ temp) && s.creel.hbmHot.get false k)) := by
    by_cases h1 : 85 < temp
    · simp [h1]
    · by_cases h2 : temp < 82
      · simp [h1, h2, Nat.not_le.2 h2]
      · simp [h1, h2, Nat.not_lt.1 h2]
  unfold StackSampled State.stackTemp
  dsimp only
  rw [hhot]
  split
  · rfl
  · exact messageRaised_message _ 1

/-- A step of the limit changes no temperature. -/
theorem Reported.dieTemps {s t : State} {r : Rec} (h : Reported s t r) : t.dieTemps = s.dieTemps ∧ t.dieLim = s.dieLim := by
  rw [h.1]
  exact ⟨rfl, rfl⟩

theorem MessageRaised.dieTemps {s t : State} {v : Nat} (h : MessageRaised s t v) : t.dieTemps = s.dieTemps ∧ t.dieLim = s.dieLim := by
  rw [h.1]
  exact ⟨rfl, rfl⟩

theorem LimitApplied.dieTemps {s t : State} (h : LimitApplied s t) : t.dieTemps = s.dieTemps ∧ t.dieLim = s.dieLim := by
  unfold LimitApplied at h
  dsimp only at h
  split at h
  · rw [h]
    exact ⟨rfl, rfl⟩
  · exact h.dieTemps

theorem State.enterLimit_dieTemps (s : State) : s.enterLimit.dieTemps = s.dieTemps ∧ s.enterLimit.dieLim = s.dieLim := by
  obtain ⟨htemps, hlim⟩ := (reported_report s (s.recOf powerSrc 3 0x0320 0 0)).dieTemps
  unfold State.enterLimit
  dsimp only
  rw [← htemps, ← hlim]
  split
  · exact (messageRaised_message _ 1).dieTemps
  · exact (limitApplied_applyLimit _).dieTemps

theorem State.dieSample_spec (s : State) (d temp : Nat) :
    (s.dieSample d temp).dieTemps = s.dieTemps.set 0 d temp
      ∧ (s.dieSample d temp).dieLim = if 105 < temp ∧ s.dieLim = 0 then 1 else s.dieLim := by
  unfold State.dieSample
  dsimp only
  split
  · obtain ⟨htemps, hlim⟩ := State.enterLimit_dieTemps { s with
      dieTemps := s.dieTemps.set 0 d temp
      creel := { s.creel with dieTemp := BitVec.ofNat 8 (min ({ s with dieTemps := s.dieTemps.set 0 d temp } : State).hottest 255) }
      coolSince := if ({ s with dieTemps := s.dieTemps.set 0 d temp } : State).hottest < 100 ∧ s.hottest < 100 then s.coolSince else s.timeNs
      dieLim := 1, limitSince := s.timeNs }
    exact ⟨htemps, hlim⟩
  · exact ⟨rfl, rfl⟩

/-! ### Parking -/

/-- The bits of a bobbin's mask. -/
theorem getLsbD_bobbin {b k : Nat} (hb : b < 8) (hk : k < 8) : ((1#8 <<< b).getLsbD k) = decide (k = b) := by
  interval_cases b <;> interval_cases k <;> rfl

/-- No park and no unpark of bobbin `k` begins. -/
def State.Settled (s : State) (k : Nat) : Prop := s.creel.parkBusy.getLsbD k = true ∨ s.creel.parkReq.getLsbD k = s.creel.parked.getLsbD k

theorem State.parkStart_settled {s : State} {k : Nat} (h : s.Settled k) : s.parkStart k = s := by
  unfold State.parkStart
  exact if_pos (by simpa [State.Settled] using h)

theorem State.foldl_parkStart_settled {s : State} : ∀ {l : List Nat}, (∀ k ∈ l, s.Settled k) → l.foldl State.parkStart s = s
  | [], _ => rfl
  | k :: l, h => by
    rw [List.foldl_cons, State.parkStart_settled (h k List.mem_cons_self)]
    exact State.foldl_parkStart_settled fun j hj => h j (List.mem_cons_of_mem _ hj)

/-- What the start of a park or unpark leaves. -/
def State.parkBegun (s : State) (b : Nat) : State :=
  { s with creel := { s.creel with parkBusy := s.creel.parkBusy ||| (1#8 <<< b) }, parkSince := s.parkSince.set none b none }

theorem State.parkStart_begins {s : State} {b : Nat} (h : ¬ s.Settled b) : s.parkStart b = s.parkBegun b := by
  unfold State.parkStart
  exact if_neg (by simpa [State.Settled] using h)

/-- Where one bobbin alone is to change, its park or unpark begins. -/
theorem State.parkWrite_begins {s : State} {b : Nat} (hb : b < 8) {req : Byte} (hfail : s.creel.bobfail = 0)
    (hoff : ¬ (s.modCreel fun c => { c with parkReq := req }).Settled b)
    (hothers : ∀ k < 8, k ≠ b → (s.modCreel fun c => { c with parkReq := req }).Settled k) :
    s.parkWrite req = (s.modCreel fun c => { c with parkReq := req }).parkBegun b := by
  have hreq : s.parkWrite req = (List.range 8).foldl State.parkStart (s.modCreel fun c => { c with parkReq := req }) := by
    unfold State.parkWrite State.modCreel
    simp [hfail]
  obtain ⟨l, r, hl⟩ := List.append_of_mem (List.mem_range.2 hb)
  have hnodup := List.nodup_range (n := 8)
  have hlt : ∀ k ∈ l ++ b :: r, k < 8 := fun k hk => List.mem_range.1 (hl ▸ hk)
  rw [hl] at hnodup
  obtain ⟨-, hbr, happart⟩ := List.nodup_append.1 hnodup
  rw [hreq, hl, List.foldl_append, List.foldl_cons]
  rw [State.foldl_parkStart_settled fun k hk => hothers k (hlt k (List.mem_append_left _ hk)) (happart k hk b List.mem_cons_self),
    State.parkStart_begins hoff]
  refine State.foldl_parkStart_settled fun k hk => ?_
  have hlt := hlt k (List.mem_append_right _ (List.mem_cons_of_mem _ hk))
  have hne : k ≠ b := fun h => (List.nodup_cons.1 hbr).1 (h ▸ hk)
  refine (hothers k hlt hne).imp (fun h => ?_) id
  show ((_ ||| 1#8 <<< b : Byte).getLsbD k) = true
  rw [BitVec.getLsbD_or, h, Bool.true_or]

theorem parkReq_set {c : Byte} {b k : Nat} (hb : b < 8) (hk : k < 8) : (c ||| 1#8 <<< b).getLsbD k = (c.getLsbD k || decide (k = b)) := by
  rw [BitVec.getLsbD_or, getLsbD_bobbin hb hk]

theorem parkReq_clear {c : Byte} {b k : Nat} (hb : b < 8) (hk : k < 8) : (c &&& ~~~(1#8 <<< b)).getLsbD k = (c.getLsbD k && !decide (k = b)) := by
  rw [BitVec.getLsbD_and, BitVec.getLsbD_not, getLsbD_bobbin hb hk]
  simp [hk]

/-- What a cache holds once some of its lines have been dropped. -/
theorem get_filter_some {α : Type} {m : SMap (Option α)} {f : Nat → Bool} {k : Nat} {x : α}
    (h : SMap.get none (m.filter fun p => f p.1) k = some x) : f k = true := by
  rw [SMap.get_filter] at h
  by_contra hf
  rw [if_neg hf] at h
  cases h

/-- A bobbin whose buffer holds no lines is powered off, and nothing of it stays in TLBs and caches (R119, R385). -/
theorem exec_parkComplete {s : State} {b : Nat} (hb : b < 8) (hempty : s.parkEmpty b = true) (hplb : s.plb.get [] b = [])
    (hreq : s.creel.parkReq.getLsbD b = true) (hsince : (s.parkSince.get none b).all (fun t => decide (s.timeNs ≤ t + 1000000)) = true) :
    exec (.parkComplete b) s = .next (State.message { s.powerDown b with
      plb := s.plb.set [] b []
      creel := { s.creel with parked := s.creel.parked ||| (1#8 <<< b), parkBusy := s.creel.parkBusy &&& ~~~(1#8 <<< b) } } 2) := by
  have hspill : spill (s.otherBobbins b) (s.plb.set [] b []) [] = some (s.plb.set [] b []) := by simp [spill]
  refine congrArg Host.Outcome.next ?_
  unfold State.parkDone
  rw [hempty, hsince, Bool.and_self, if_pos rfl, hplb, hspill]
  refine State.parkStart_settled (.inr ?_)
  show s.creel.parkReq.getLsbD b = (s.creel.parked ||| 1#8 <<< b).getLsbD b
  rw [parkReq_set hb hb, hreq]
  simp

theorem exec_unparkComplete {s : State} {b : Nat} (hb : b < 8) (hbusy : s.creel.parkBusy.getLsbD b = true)
    (hparked : s.creel.parked.getLsbD b = true) (hreq : s.creel.parkReq.getLsbD b = false) :
    exec (.unparkComplete b true) s = .next (State.message { s with
      creel := { s.creel with parkBusy := s.creel.parkBusy &&& ~~~(1#8 <<< b), parked := s.creel.parked &&& ~~~(1#8 <<< b) } } 2) := by
  refine congrArg Host.Outcome.next ((if_pos (by simp [hbusy, hparked])).trans ((if_pos rfl).trans ?_))
  refine State.parkStart_settled (.inr ?_)
  show s.creel.parkReq.getLsbD b = (s.creel.parked &&& ~~~(1#8 <<< b)).getLsbD b
  rw [parkReq_clear hb hb, hreq]
  simp

/-- Settles O46: each event is an update of a few registers, a record, a message, or the limit that follows from them. -/
theorem powerTemperatureAndParking : Obligations.PowerTemperatureAndParking := by
  refine ⟨fun s => ⟨exec_pstateRequest s, exec_pstateTransitionDone, fun v => ?cap, fun avg10us avg1ms => ?power, ?trip,
    fun temp h => ?hot, fun d hd temp => ?die, fun h1 h2 h3 h4 => ?down, fun h1 h2 h3 h4 => ?up, fun k hk temp => ?stack⟩, fun s b hb => ?park⟩
  case cap =>
    intro cap s1
    refine ⟨exec_pwrcapWrite_bad, fun hlow hhigh heq => ?_, fun hlow hhigh hne => ?_⟩
    · rw [exec_pwrcapWrite hlow hhigh, if_pos heq.symm]
      have hcap : BitVec.ofNat 9 (v.toNat % 512) = s.creel.pwrCap := BitVec.eq_of_toNat_eq (by
        rw [BitVec.toNat_ofNat, Nat.mod_eq_of_lt (by omega)]
        exact heq)
      rw [hcap]
    · refine ⟨_, (exec_pwrcapWrite hlow hhigh).trans (congrArg _ (if_neg (Ne.symm hne))), messageRaised_message _ 1⟩
  case power =>
    intro ceiling s1
    refine ⟨fun hover hcalm => ?_, fun hcalm hstill => ?_, fun hcalm hover hlow => ?_⟩
    · refine ⟨_, _, congrArg Host.Outcome.next ((if_pos hover).trans (if_neg (by simp [hcalm]))), reported_report .., limitApplied_applyLimit _⟩
    · have hnone : ¬ (s.overshoot = true ∧ avg1ms ≤ ceiling) := fun ⟨h1, h2⟩ => by
        rcases hstill with h | h
        · simp [h1] at h
        · omega
      exact congrArg Host.Outcome.next ((if_neg (Nat.not_lt.2 hcalm)).trans (if_neg hnone))
    · exact ⟨_, congrArg Host.Outcome.next ((if_neg (Nat.not_lt.2 hcalm)).trans (if_pos ⟨hover, hlow⟩)), limitApplied_applyLimit _⟩
  case trip => exact ⟨_, rfl, uncontained_uncontained ..⟩
  case hot => exact ⟨_, congrArg Host.Outcome.next (if_pos h), uncontained_uncontained ..⟩
  case die =>
    have hexec : exec (.thermalLimit d temp) s = .next (s.dieSample d temp) := congrArg Host.Outcome.next (if_pos hd)
    obtain ⟨htemps, hlim⟩ := s.dieSample_spec d temp
    exact ⟨_, hexec, by rw [htemps, SMap.get_set_same], fun e he => by rw [htemps, SMap.get_set_ne _ _ _ he.symm], hlim⟩
  case down => exact ⟨_, congrArg Host.Outcome.next (if_pos ⟨h1, h2, h3, h4⟩), limitApplied_applyLimit _⟩
  case up => exact ⟨_, congrArg Host.Outcome.next (if_pos ⟨h1, h2, h3, h4⟩), limitApplied_applyLimit _⟩
  case stack =>
    intro hot s1 sampled
    have hsample : sampled (s.stackTemp k temp) := stackSampled_stackTemp s k temp
    refine ⟨⟨_, congrArg Host.Outcome.next (if_pos hk), hsample⟩, fun hwarm => ⟨_, ?_, hsample⟩, fun hcool => ⟨_, _, ?_, hsample, limitApplied_applyLimit _⟩⟩
    · exact congrArg Host.Outcome.next ((if_pos hk).trans (if_neg (Nat.not_lt.2 hwarm)))
    · exact congrArg Host.Outcome.next ((if_pos hk).trans (if_pos hcool))
  case park =>
    intro bit c
    refine ⟨fun hfail hothers => ⟨fun hidle hon => ?_, fun hidle hoff => ?_⟩, fun hempty => ⟨fun hplb hreq hsince => ?_, fun hnone => ?_,
      fun t0 hsome hlate => ?_⟩, fun hbusy hparked => ⟨fun hreq => ?_, ?_⟩⟩
    · refine congrArg Host.Outcome.next (State.parkWrite_begins hb hfail ?_ fun k hk hne => ?_)
      · show ¬ (c.parkBusy.getLsbD b = true ∨ (c.parkReq ||| 1#8 <<< b).getLsbD b = c.parked.getLsbD b)
        simp [parkReq_set hb hb, hidle, hon]
      · show c.parkBusy.getLsbD k = true ∨ (c.parkReq ||| 1#8 <<< b).getLsbD k = c.parked.getLsbD k
        simpa [parkReq_set hb hk, hne] using hothers k hk hne
    · refine congrArg Host.Outcome.next (State.parkWrite_begins hb hfail ?_ fun k hk hne => ?_)
      · show ¬ (c.parkBusy.getLsbD b = true ∨ (c.parkReq &&& ~~~(1#8 <<< b)).getLsbD b = c.parked.getLsbD b)
        simp [parkReq_clear hb hb, hidle, hoff]
      · show c.parkBusy.getLsbD k = true ∨ (c.parkReq &&& ~~~(1#8 <<< b)).getLsbD k = c.parked.getLsbD k
        simpa [parkReq_clear hb hk, hne] using hothers k hk hne
    · refine ⟨s.powerDown b, _, exec_parkComplete hb hempty hplb hreq hsince, rfl, ?_, fun k x hx => ?_, fun k x hx => ?_, messageRaised_message _ 2⟩
      · exact (SMap.get_filter (fun k => k != b) b).trans (if_neg (by simp))
      · simpa using get_filter_some (f := fun k => l1Bobbin k != b) hx
      · simpa using get_filter_some (f := fun k => l2Bobbin k != b) hx
    · refine congrArg Host.Outcome.next ((if_pos hempty).trans ?_)
      rw [hnone]
    · refine ⟨_, congrArg Host.Outcome.next ((if_pos hempty).trans ?_), reported_report _ (s.rec3 0x631 0x0330 (b * 2 ^ 16))⟩
      rw [hsome]
      exact if_pos hlate
    · exact ⟨_, exec_unparkComplete hb hbusy hparked hreq, messageRaised_message _ 2⟩
    · refine ⟨_, _, congrArg Host.Outcome.next ((if_pos (Bool.and_eq_true_iff.2 ⟨hbusy, hparked⟩)).trans (if_neg Bool.false_ne_true)),
        reported_report _ (s.rec3 0x631 0x0331 (b * 2 ^ 16)), messageRaised_message _ 2⟩

end Sys2Proof.Machine
end

section
/-! PROOFS. Links, the life cycle and the Distaff (R391, R467 .. R469, R473). -/

namespace Sys2Proof.Machine

/-! ### What leaves the links as they stand -/

/-- The links are up and down as before. -/
def KeepsLinks (s t : State) : Prop := t.creel.lnkUp = s.creel.lnkUp

theorem KeepsLinks.of_creel {s t : State} (h : t.creel = s.creel) : KeepsLinks s t := congrArg Creel.lnkUp h

theorem KeepsLinks.refl (s : State) : KeepsLinks s s := rfl

theorem KeepsLinks.trans {s t u : State} (h : KeepsLinks s t) (k : KeepsLinks t u) : KeepsLinks s u := Eq.trans k h

theorem KeepsLinks.foldl {α : Type} {f : State → α → State} (hf : ∀ t a, KeepsLinks t (f t a)) (l : List α) (s : State) :
    KeepsLinks s (l.foldl f s) := by
  induction l generalizing s with
  | nil => exact .refl s
  | cons a l ih => exact (hf s a).trans (ih _)

theorem KeepsLinks.ite {s t u : State} {p : Prop} [Decidable p] (ht : KeepsLinks s t) (hu : KeepsLinks s u) :
    KeepsLinks s (if p then t else u) := by
  split
  · exact ht
  · exact hu

theorem KeepsLinks.linkUp {s t : State} (h : KeepsLinks s t) (n : Nat) : t.linkUp n = s.linkUp n := congrArg (SMap.get false · n) h

theorem State.report_creel (s : State) (r : Rec) : (s.report r).creel = s.creel := by
  rw [State.report, State.reportPort_creel, State.reportPort_creel]

theorem keepsLinks_report (s : State) (r : Rec) : KeepsLinks s (s.report r) := .of_creel (s.report_creel r)

theorem keepsLinks_reportAll (s : State) (l : List Rec) : KeepsLinks s (s.reportAll l) := .foldl keepsLinks_report l s

theorem keepsLinks_scrubTier (s : State) (n pa : Nat) : KeepsLinks s (s.scrubTier n pa) := by
  unfold State.scrubTier
  split
  · exact keepsLinks_report (s.setTag pa .poisoned) _
  · exact .refl s

theorem keepsLinks_scrub (s : State) (pa : Nat) : KeepsLinks s (s.scrub pa) := by
  unfold State.scrub
  dsimp only
  split
  · exact keepsLinks_scrubTier ..
  · split
    · exact .refl s
    · split
      · rfl
      · refine KeepsLinks.trans ?_ (keepsLinks_report _ _)
        show (State.creel ((List.range 4).foldl _ _)).lnkUp = _
        rw [setTags_creel]
  · exact .refl s

theorem keepsLinks_physWriteLine (s : State) (src pa : Nat) (l : List Byte) : KeepsLinks s (s.physWriteLine src pa l) := by
  unfold State.physWriteLine
  split
  · exact .refl s
  · exact .refl s
  · exact .refl s
  · refine (keepsLinks_scrub s pa).trans ?_
    dsimp only
    split
    · exact .of_creel (State.putLine_creel ..)
    · exact keepsLinks_report _ _

theorem keepsLinks_physWriteOne (s : State) (src pa : Nat) (l : List Byte) : KeepsLinks s (s.physWriteOne src pa l) := by
  unfold State.physWriteOne
  split
  · exact .refl s
  · exact keepsLinks_physWriteLine s src pa l

theorem keepsLinks_physWriteAux (src : Nat) : ∀ (fuel : Nat) (s : State) (pa : Nat) (l : List Byte),
    KeepsLinks s (State.physWriteAux src fuel s pa l)
  | 0, s, _, _ => .refl s
  | _ + 1, s, _, [] => .refl s
  | fuel + 1, s, pa, _ :: _ => (keepsLinks_physWriteOne s src pa _).trans (keepsLinks_physWriteAux src fuel _ _ _)

theorem keepsLinks_physWrite (s : State) (src pa : Nat) (l : List Byte) : KeepsLinks s (s.physWrite src pa l) :=
  keepsLinks_physWriteAux ..

theorem State.putPageLine_creel (s : State) (x : Xlate) (l : Line) : (s.putPageLine x l).creel = s.creel := by
  unfold State.putPageLine
  dsimp only
  repeat' split
  · rfl
  all_goals exact State.putLine_creel ..

theorem keepsLinks_performStore (s : State) (slot : Nat) (a : LateStore) : KeepsLinks s (s.performStore slot a) :=
  .of_creel (State.putPageLine_creel s a.xlate _)

theorem keepsLinks_performStores (s : State) (slot : Nat) (c : Cl) : KeepsLinks s (s.performStores slot c) := by
  unfold State.performStores
  split
  · exact .refl s
  · exact KeepsLinks.foldl (fun t a => keepsLinks_performStore t slot a) _ s

theorem keepsLinks_performAll (s : State) (slot : Nat) : KeepsLinks s (s.performAll slot) :=
  (((keepsLinks_performStores s slot .C).trans (keepsLinks_performStores _ slot .A)).trans (keepsLinks_performStores _ slot .V)).trans
    (keepsLinks_performStores _ slot .M)

theorem keepsLinks_withdraw (s : State) (slot : Nat) : KeepsLinks s (s.withdraw slot) := rfl
theorem keepsLinks_freeSlot (s : State) (slot : Nat) : KeepsLinks s (s.freeSlot slot) := rfl
theorem keepsLinks_countCancelled (s : State) (n : Nat) : KeepsLinks s (s.countCancelled n) := rfl
theorem keepsLinks_modTask (s : State) (pa : Nat) (f : Task → Task) : KeepsLinks s (s.modTask pa f) := rfl
theorem keepsLinks_tasks (s : State) (l : List Task) : KeepsLinks s { s with tasks := l } := rfl
theorem keepsLinks_modCreel (s : State) {f : Creel → Creel} (hf : ∀ c, (f c).lnkUp = c.lnkUp) : KeepsLinks s (s.modCreel f) := hf s.creel
theorem keepsLinks_setLq (s : State) (q tail head : Nat) : KeepsLinks s (s.setLq q tail head) := by
  unfold State.setLq
  generalize BitVec.ofNat 64 _ = v
  exact keepsLinks_modCreel s fun _ => rfl
theorem keepsLinks_framesUsed (s : State) (l : List Nat) : KeepsLinks s { s with framesUsed := l } := rfl
theorem keepsLinks_modHank (s : State) (task : Nat) (wid : Word) (f : Hank → Hank) : KeepsLinks s (s.modHank task wid f) := rfl
theorem keepsLinks_message (s : State) (v : Nat) : KeepsLinks s (s.message v) := rfl
theorem keepsLinks_modCtx (s : State) (k : Nat) (f : Ctx → Ctx) : KeepsLinks s (s.modCtx k f) := rfl

theorem keepsLinks_dropHeld (s : State) (task : Nat) (wid : Word) : KeepsLinks s (s.dropHeld task wid) := by
  obtain ⟨m, hm, -⟩ := s.dropHeld_spec task wid
  rw [hm]
  rfl

theorem keepsLinks_releaseCharge (s : State) (task : Nat) (wid : Word) : KeepsLinks s (s.releaseCharge task wid) := by
  unfold State.releaseCharge
  refine KeepsLinks.foldl (fun t b => ?_) _ s
  exact KeepsLinks.of_creel rfl

theorem keepsLinks_abortMoves (s : State) (f : PageMove → Bool) : KeepsLinks s (s.abortMoves f) := by
  unfold State.abortMoves
  refine KeepsLinks.trans (t := { s with moves := s.moves.filter fun m => !f m }) rfl (KeepsLinks.foldl (fun t m => ?_) _ _)
  show KeepsLinks t (if t.leafMoving m then t.clearMig 0x600 m.leaf else t)
  exact .ite (keepsLinks_physWrite ..) (.refl t)

theorem keepsLinks_dropHank (s : State) (h : Hank) : KeepsLinks s (s.dropHank h) :=
  (keepsLinks_releaseCharge s h.task h.wid).trans (keepsLinks_abortMoves _ _)

theorem keepsLinks_cancel (s : State) (h : Hank) : KeepsLinks s (s.cancel h) := by
  unfold State.cancel
  dsimp only
  split
  · exact ((keepsLinks_freeSlot s _).trans (keepsLinks_dropHank _ h)).trans (keepsLinks_countCancelled ..)
  · exact (keepsLinks_dropHank s h).trans (keepsLinks_countCancelled ..)

theorem keepsLinks_squash (s : State) (h : Hank) : KeepsLinks s (s.squash h) := by
  have hheld := keepsLinks_dropHeld s h.task h.wid
  unfold State.squash
  dsimp only
  split
  · exact ((hheld.trans (keepsLinks_withdraw ..)).trans (keepsLinks_freeSlot ..)).trans (keepsLinks_dropHank _ h)
  · exact hheld.trans (keepsLinks_dropHank _ h)

theorem keepsLinks_advanceHead (q : Nat) : ∀ (n : Nat) (s : State), KeepsLinks s (s.advanceHead q n)
  | 0, s => .refl s
  | n + 1, s => by
    unfold State.advanceHead
    split
    · next u _ =>
      split
      · exact (((keepsLinks_setLq s q _ _).trans (keepsLinks_tasks _ _)).trans (keepsLinks_tasks _ _)).trans (keepsLinks_advanceHead q n _)
      · exact .refl s
    · exact .refl s

theorem keepsLinks_tidyQueue (s : State) (q : Nat) : KeepsLinks s (s.tidyQueue q) := keepsLinks_advanceHead q _ s

theorem keepsLinks_checkTask (s : State) (pa : Nat) : KeepsLinks s (s.checkTask pa) := by
  unfold State.checkTask
  split
  · exact .refl s
  · split
    · refine KeepsLinks.trans ?_ (keepsLinks_tidyQueue _ _)
      exact (keepsLinks_physWrite ..).trans ((keepsLinks_message ..).trans (keepsLinks_modTask ..))
    · exact .refl s

theorem keepsLinks_failTask (s : State) (pa : Nat) : KeepsLinks s (s.failTask pa) := by
  unfold State.failTask
  split
  · exact .refl s
  · refine KeepsLinks.trans (.ite (.refl s) ?_) (keepsLinks_checkTask _ _)
    refine KeepsLinks.trans (KeepsLinks.trans ?_ (keepsLinks_modTask ..)) (keepsLinks_tidyQueue _ _)
    have hcancelled (n : Nat) (l : List Hank) := (keepsLinks_countCancelled s n).trans (KeepsLinks.foldl keepsLinks_cancel l _)
    exact .ite (hcancelled ..) ((hcancelled ..).trans (KeepsLinks.foldl keepsLinks_squash _ _))

theorem keepsLinks_finishDying (s : State) (slot : Nat) : KeepsLinks s (s.finishDying slot) := by
  unfold State.finishDying
  split
  · refine .ite (KeepsLinks.trans ?_ (keepsLinks_failTask _ _)) (.refl s)
    exact ((keepsLinks_freeSlot s slot).trans (keepsLinks_dropHank _ _)).trans (keepsLinks_reportAll _ _)
  · exact .refl s

theorem keepsLinks_terminate (s : State) (slot : Nat) (r : Rec) : KeepsLinks s (s.terminate slot r) := by
  unfold State.terminate
  split
  · exact .refl s
  · next task wid _ =>
    have hcondemned := ((keepsLinks_performAll s slot).trans (keepsLinks_withdraw _ slot)).trans (keepsLinks_dropHeld _ task wid)
    dsimp only
    split
    · exact .refl s
    · split
      · split
        · exact .refl s
        · exact keepsLinks_modCtx ..
      · refine KeepsLinks.trans ?_ (keepsLinks_finishDying _ slot)
        split
        · refine KeepsLinks.trans ?_ (keepsLinks_modHank ..)
          exact KeepsLinks.trans (hcondemned.trans (keepsLinks_modCtx ..)) (keepsLinks_framesUsed ..)
        · exact hcondemned.trans (keepsLinks_modCtx ..)

end Sys2Proof.Machine
end

section
/-! PROOFS. Resets, class 5 errors, links and the Distaff, event by event (R389 .. R391, R404, R467 .. R469, R473, R474). -/

namespace Sys2Proof.Machine

theorem lcsNext_of_mem {old new : BitVec 2} (h : (old.toNat, new.toNat) ∈ [(0, 1), (0, 3), (1, 2), (1, 3), (2, 3)]) : lcsNext old new = true := by
  simp only [List.mem_cons, Prod.mk.injEq, List.not_mem_nil, or_false] at h
  rcases h with ⟨ho, hn⟩ | ⟨ho, hn⟩ | ⟨ho, hn⟩ | ⟨ho, hn⟩ | ⟨ho, hn⟩ <;> simp [lcsNext, ho, hn]

theorem State.linkUp_setLink (s : State) (port n : Nat) (up : Bool) : (s.setLink port up).linkUp n = if n = port then up else s.linkUp n := by
  refine (SMap.get_set ..).trans ?_
  simp only [eq_comm (a := port)]
  rfl

/-- A replay is counted and the counter saturates (R468). -/
theorem saturated_toNat (v : BitVec 32) : (if v = 0xFFFFFFFF then v else v + 1).toNat = min (2 ^ 32 - 1) (v.toNat + 1) := by
  by_cases h : v = 0xFFFFFFFF
  · subst h
    rfl
  · have hlt : v.toNat ≠ 0xFFFFFFFF := fun e => h (BitVec.eq_of_toNat_eq e)
    have := v.isLt
    have hone : (1 : BitVec 32).toNat = 1 := rfl
    rw [if_neg h, BitVec.toNat_add, hone]
    omega

/-- A replay of a link is counted twice: since reset, and in the second that runs (R467, R468). -/
def State.replayed (s : State) (port : Nat) : State :=
  { s with
    replays := s.replays.set (0, 0) port (s.countReplay port)
    creel := { s.creel with lnkRply := s.creel.lnkRply.modify 0 port fun v => if v = 0xFFFFFFFF then v else v + 1 } }

theorem State.replayed_count (s : State) (port n : Nat) : (s.replayed port).creel.lnkRply.get 0 n =
    if n = port then (if s.creel.lnkRply.get 0 n = 0xFFFFFFFF then s.creel.lnkRply.get 0 n else s.creel.lnkRply.get 0 n + 1)
    else s.creel.lnkRply.get 0 n := 
  SMap.get_modify 0 s.creel.lnkRply port n fun v => if v = 0xFFFFFFFF then v else v + 1

/-- A link that goes down: its record, the accesses in flight, and the reset where no host is left. -/
theorem exec_linkDown {s : State} {port : Nat} (hport : portNumber port = true) (hup : s.linkUp port = true) (inFlight : List Nat) :
    exec (.linkDown port inFlight) s = .next
      (let t := s.setLink port false
       let u := (t.report (t.portRec port 0x0301)).endInFlight inFlight
       if port < 2 ∧ u.hostUp = false then u.uncontained 0x640 0x0303 else u) :=
  congrArg Host.Outcome.next (if_pos (Bool.and_eq_true_iff.2 ⟨hport, hup⟩))

theorem keepsLinks_endInFlight (l : List Nat) (s : State) : KeepsLinks s (s.endInFlight l) :=
  KeepsLinks.foldl (fun t k => keepsLinks_terminate t k _) l s

/-- A port other than the last of the host's that goes down leaves the module running. -/
theorem exec_linkDown_runs {s : State} {port : Nat} (hport : portNumber port = true) (hup : s.linkUp port = true)
    (hother : 2 ≤ port ∨ s.linkUp (1 - port) = true) (inFlight : List Nat) :
    exec (.linkDown port inFlight) s
      = .next (((s.setLink port false).report ((s.setLink port false).portRec port 0x0301)).endInFlight inFlight) := by
  rw [exec_linkDown hport hup]
  refine congrArg Host.Outcome.next (if_neg fun ⟨hlt, hdown⟩ => ?_)
  have hkeeps := (keepsLinks_report (s.setLink port false) ((s.setLink port false).portRec port 0x0301)).trans (keepsLinks_endInFlight inFlight _)
  have hlinks := hkeeps.linkUp (1 - port)
  rw [State.linkUp_setLink, if_neg (by omega), hother.resolve_left (by omega)] at hlinks
  obtain ⟨h0, h1⟩ := Bool.or_eq_false_iff.1 hdown
  obtain rfl | rfl : port = 0 ∨ port = 1 := by omega
  · exact Bool.false_ne_true (h1.symm.trans hlinks)
  · exact Bool.false_ne_true (h0.symm.trans hlinks)

/-- The last of the host's ports that goes down resets the module (R404, R469). -/
theorem exec_linkDown_resets {s : State} {port : Nat} (hport : portNumber port = true) (hup : s.linkUp port = true) (hlt : port < 2)
    (hother : s.linkUp (1 - port) = false) :
    exec (.linkDown port []) s
      = .next (((s.setLink port false).report ((s.setLink port false).portRec port 0x0301)).uncontained 0x640 0x0303) := by
  rw [exec_linkDown hport hup]
  refine congrArg Host.Outcome.next (if_pos ⟨hlt, ?_⟩)
  have hdown (n : Nat) (hn : n < 2) : ((s.setLink port false).report ((s.setLink port false).portRec port 0x0301)).linkUp n = false := by
    rw [(keepsLinks_report ..).linkUp, State.linkUp_setLink]
    split
    · rfl
    · obtain rfl : n = 1 - port := by omega
      exact hother
  exact Bool.or_eq_false_iff.2 ⟨hdown 0 (by omega), hdown 1 (by omega)⟩

theorem exec_distaffRestart {s : State} (h : s.distaffRuns = true) : exec .distaffRestart s = .next s.distaffRestart :=
  congrArg Host.Outcome.next (if_pos h)

theorem exec_distaffRestart_stopped {s : State} (h : s.distaffRuns = false) : exec .distaffRestart s = .next s :=
  congrArg Host.Outcome.next (if_neg (by simp [h]))

/-- The watchdog restarts the Distaff as any restart does. -/
theorem exec_distaffWatchdog {s : State} (h : s.distaffServed + 10000000 ≤ s.timeNs) : exec .distaffWatchdog s = exec .distaffRestart s := by
  cases hruns : s.distaffRuns with
  | true => exact (congrArg Host.Outcome.next (if_pos ⟨hruns, h⟩)).trans (exec_distaffRestart hruns).symm
  | false => exact (congrArg Host.Outcome.next (if_neg (by simp [hruns]))).trans (exec_distaffRestart_stopped hruns).symm

/-- Settles O45: a reset keeps what R389 names, and each event of a link or of the Distaff is a record, with a reset where it is of class
5. -/
theorem resetAndLinks : Obligations.ResetAndLinks := by
  intro s
  refine ⟨⟨_, rfl, moduleReset_resetModule s []⟩, fun new h => ⟨_, ?cycle, moduleReset_resetModule _ []⟩,
    ⟨_, _, rfl, moduleReset_resetModule s [], rfl⟩, fun src cause => ⟨fun h => ⟨_, ?error, uncontained_uncontained ..⟩, fun h => ?noError⟩,
    fun port hport => ⟨?trained, fun hup => ⟨?replay, ?down⟩, ?threshold⟩, ?restart, exec_distaffWatchdog, fun h => ?served,
    fun port hport hup nonce => ?measured⟩
  case cycle => exact congrArg Host.Outcome.next (if_pos (lcsNext_of_mem h))
  case error => exact congrArg Host.Outcome.next (if_pos h)
  case noError => exact congrArg Host.Outcome.next (if_neg (by simp [h]))
  case served => exact congrArg Host.Outcome.next (if_neg fun ⟨_, hlate⟩ => Nat.not_lt.2 hlate h)
  case measured => exact ⟨_, congrArg Host.Outcome.next (if_pos ⟨hport, hup⟩)⟩
  case trained =>
    exact ⟨_, congrArg Host.Outcome.next (if_pos hport), rfl, fun n => State.linkUp_setLink ..⟩
  case replay =>
    refine ⟨s.replayed port, congrArg Host.Outcome.next (if_pos (Bool.and_eq_true_iff.2 ⟨hport, hup⟩)), rfl, fun n hn => ?_, ?_, ?_⟩
    · rw [State.replayed_count, if_neg hn]
    · rw [State.replayed_count, if_pos rfl]
      exact saturated_toNat _
    · exact SMap.get_set_same ..
  case down =>
    intro down
    have hlinks (n : Nat) : (s.setLink port false).linkUp n = if n = port then false else s.linkUp n := State.linkUp_setLink ..
    refine ⟨fun hother => ⟨?_, fun k => ?_⟩, fun hlt hother => ?_⟩
    · exact ⟨_, _, _, exec_linkDown_runs hport hup hother [], rfl, hlinks, reported_report .., rfl⟩
    · exact ⟨_, _, _, exec_linkDown_runs hport hup hother [k], rfl, hlinks, reported_report .., rfl⟩
    · exact ⟨_, _, _, exec_linkDown_resets hport hup hlt hother, rfl, hlinks, reported_report .., uncontained_uncontained ..⟩
  case threshold =>
    intro lim hlim hcount hsince
    exact ⟨_, congrArg Host.Outcome.next (if_pos ⟨hport, hlim, hcount, hsince⟩), reported_report ..⟩
  case restart =>
    intro recent s1
    refine ⟨exec_distaffRestart_stopped, fun hruns hfew => ⟨_, ?_, reported_report s1 (s.rec3 0x632 0x0340 0)⟩,
      fun hruns hmany => ⟨_, _, ?_, reported_report s1 (s.rec3 0x632 0x0340 0), uncontained_uncontained ..⟩⟩
    · exact (exec_distaffRestart hruns).trans (congrArg Host.Outcome.next (if_neg (Nat.not_le.2 hfew)))
    · exact (exec_distaffRestart hruns).trans (congrArg Host.Outcome.next (if_pos hmany))

end Sys2Proof.Machine
end

section
/-! PROOFS. Translations, page requests and lines owned by the host (R423 .. R427, R458). -/

namespace Sys2Proof.Machine

/-! ### Waking -/

theorem Cluster.wakeIf_eq (f : Option WaitFor → Bool) (y : Cluster) :
    y.wakeIf f = if y.run = .waiting ∧ f y.wait = true then { y with run := .running } else y := by
  unfold Cluster.wakeIf Cluster.wake
  by_cases hrun : y.run = .waiting <;> simp [hrun]

/-- The waiters of a condition run again. -/
theorem woken_wakeAll {s t : State} (h : t.ctxs = s.ctxs) (f : Option WaitFor → Bool) : Woken s (t.wakeAll f) f := by
  have hctx (k : Nat) : (t.wakeAll f).ctx k = (s.ctx k).modAll (Cluster.wakeIf f) := by
    rw [State.ctx_wakeAll, State.ctx, h, State.ctx]
  refine ⟨fun k => ?_, fun k j => ?_⟩
  · rw [hctx]
    rfl
  · rw [hctx, Ctx.modAll_eq, Ctx.cl_withClusters, Cluster.wakeIf_eq]

theorem State.waitsOn_eq (s : State) (pasid va size : Nat) :
    s.waitsOn { pasid := pasid, va := va, size := size } = s.waitsIn pasid va size := by
  funext w
  unfold State.waitsOn State.waitsIn HostPage.has
  split <;> simp [Bool.and_assoc]

/-! ### ATS results -/

section
variable (entry : Nat → TlbEntry)

/-- A result put into the TLBs of several bobbins. -/
def putEach (bs : List Nat) (l : List TlbEntry) : List TlbEntry := bs.foldl (fun l b => tlbPut (.bobbin b) (entry b) l) l

theorem mem_tlbPut {u : TlbUnit} {e f : TlbEntry} {l : List TlbEntry} (h : f ∈ tlbPut u e l) : f = { e with unit := u } ∨ f ∈ l := by
  unfold tlbPut at h
  simp only [List.cons_append, List.mem_cons, List.mem_append] at h
  rcases h with h | (h | h) | h
  · exact .inl h
  · exact .inr (List.mem_of_mem_filter (List.mem_of_mem_filter h))
  · exact .inr (List.mem_of_mem_filter (List.mem_of_mem_filter (List.mem_of_mem_take h)))
  · exact .inr (List.mem_of_mem_filter h)

theorem tlbPut_keeps {u : TlbUnit} {e f : TlbEntry} {l : List TlbEntry} (hf : f ∈ l) (hu : f.unit ≠ u) : f ∈ tlbPut u e l :=
  List.mem_append_right _ (List.mem_filter.2 ⟨hf, bne_iff_ne.2 hu⟩)

variable {entry} (hunit : ∀ b, (entry b).unit = .bobbin b)
include hunit

theorem entry_mem_tlbPut (b : Nat) (l : List TlbEntry) : entry b ∈ tlbPut (.bobbin b) (entry b) l := by
  have heq : ({ entry b with unit := .bobbin b } : TlbEntry) = entry b := by rw [← hunit b]
  exact heq ▸ List.mem_cons_self

theorem mem_putEach : ∀ {bs : List Nat} {l : List TlbEntry} {f : TlbEntry}, f ∈ putEach entry bs l → f ∈ l ∨ ∃ b ∈ bs, f = entry b
  | [], _, _, h => .inl h
  | b :: bs, l, f, h => by
    rcases mem_putEach (bs := bs) h with h | ⟨c, hc, hf⟩
    · refine (mem_tlbPut h).elim (fun h => .inr ⟨b, List.mem_cons_self, h.trans ?_⟩) .inl
      rw [← hunit b]
    · exact .inr ⟨c, List.mem_cons_of_mem _ hc, hf⟩

omit hunit in
theorem putEach_keeps : ∀ {bs : List Nat} {l : List TlbEntry} {f : TlbEntry}, f ∈ l → (∀ b ∈ bs, f.unit ≠ .bobbin b) → f ∈ putEach entry bs l
  | [], _, _, h, _ => h
  | b :: bs, _, _, h, hu => putEach_keeps (bs := bs) (tlbPut_keeps h (hu b List.mem_cons_self)) fun c hc => hu c (List.mem_cons_of_mem _ hc)

theorem entry_mem_putEach : ∀ {bs : List Nat} {l : List TlbEntry} {b : Nat}, bs.Nodup → b ∈ bs → entry b ∈ putEach entry bs l
  | c :: bs, l, b, hn, hb => by
    obtain ⟨hc, hn⟩ := List.nodup_cons.1 hn
    rcases List.mem_cons.1 hb with rfl | hb
    · refine putEach_keeps (bs := bs) (entry_mem_tlbPut hunit b l) fun d hd => ?_
      rw [hunit b]
      exact fun h => hc (TlbUnit.bobbin.inj h ▸ hd)
    · exact entry_mem_putEach (bs := bs) hn hb
end

theorem exec_ats {s : State} (hup : s.hostUp = true) {va pa e : Nat} (he : 12 ≤ e) (hva : va % 2 ^ e = 0) (hpa : pa % 2 ^ e = 0)
    (pasid : Nat) (read write : Bool) : exec (.atsTranslationCompletion pasid va (2 ^ e) pa read write) s = .next
      (if read || write then
        if 2 ^ 48 < pa + 2 ^ e then s.denyPage { pasid := pasid, va := va, size := 2 ^ e } 0x0100
        else s.installAts pasid va (2 ^ e) pa read write
      else s.atsAbsent (pageAt pasid va)) := by
  have hsize : 4096 ≤ 2 ^ e := Nat.pow_le_pow_right (n := 2) (by decide) he
  refine congrArg Host.Outcome.next (if_neg ?_)
  simp [hup, Nat.log2_two_pow, hva, hpa, hsize]

/-- What a completion that grants access leaves (R458). -/
theorem installAts_spec (s : State) (pasid va size pa : Nat) (read write : Bool) : ∃ d : Bool,
    let entry (b : Nat) : TlbEntry := atsEntry (.bobbin b) pasid va size pa read write d
    let t := s.installAts pasid va size pa read write
    (∀ b < 8, entry b ∈ t.tlb)
      ∧ (∀ f ∈ t.tlb, (f ∈ s.tlb ∧ ¬ (f.ats = true ∧ f.pasid = pasid ∧ f.va < va + size ∧ va < f.va + f.size)) ∨ ∃ b < 8, f = entry b)
      ∧ t = { s with tlb := t.tlb, pageReqs := t.pageReqs, ctxs := t.ctxs } ∧ Woken s t (s.waitsIn pasid va size) := by
  refine ⟨!write && s.tlb.any fun e => atsIn pasid va size e && !e.w, fun b hb => ?_, fun f hf => ?_, rfl, ?_⟩
  · exact entry_mem_putEach (fun _ => rfl) List.nodup_range (List.mem_range.2 hb)
  · rcases mem_putEach (fun _ => rfl) hf with h | ⟨b, hb, hf⟩
    · obtain ⟨hmem, hout⟩ := List.mem_filter.1 h
      refine .inl ⟨hmem, fun ⟨h1, h2, h3, h4⟩ => ?_⟩
      simp [atsIn, h1, h2, h3, h4] at hout
    · exact .inr ⟨b, List.mem_range.1 hb, hf⟩
  · rw [← State.waitsOn_eq]
    exact woken_wakeAll rfl _

/-! ### Page requests -/

theorem isFor_pageAt (pasid va : Nat) (q : PageReq) : q.isFor (pageAt pasid va) = (q.pasid == pasid && q.va / 4096 == va / 4096) := by
  have hhas : (pageAt pasid va).has q.va = (q.va / 4096 == va / 4096) := by
    have hiff : va / 4096 * 4096 ≤ q.va ∧ q.va < va / 4096 * 4096 + 4096 ↔ q.va / 4096 = va / 4096 := by omega
    rw [Bool.eq_iff_iff, beq_iff_eq, ← hiff, HostPage.has, pageAt, Bool.and_eq_true, decide_eq_true_eq, decide_eq_true_eq]
  unfold PageReq.isFor
  rw [hhas]
  rfl

theorem isFor_iff {pasid va : Nat} {q : PageReq} : q.isFor (pageAt pasid va) = true ↔ q.pasid = pasid ∧ q.va / 4096 = va / 4096 := by
  rw [isFor_pageAt, Bool.and_eq_true, beq_iff_eq, beq_iff_eq]

theorem dropReq_pageAt (s : State) (pasid va : Nat) : s.dropReq (pageAt pasid va)
    = { s with pageReqs := s.pageReqs.filter fun q => !(q.pasid == pasid && q.va / 4096 == va / 4096) } := by
  unfold State.dropReq
  simp only [isFor_pageAt]

theorem sendReqs_sent (now : Nat) (new : PageReq) (hnew : new.sent = false) : ∀ (n : Nat) (l : List PageReq), (∀ q ∈ l, q.sent = true) →
    sendReqs now (n + 1) (l ++ [new]) = l ++ [{ new with sent := true, since := now }]
  | n, [], _ => by
    rw [List.nil_append, sendReqs, if_neg (by simp [hnew]), List.nil_append]
    cases n <;> rfl
  | n, q :: l, h => by
    rw [List.cons_append, sendReqs, if_pos (h q List.mem_cons_self), sendReqs_sent now new hnew n l fun r hr => h r (List.mem_cons_of_mem _ hr)]
    rfl

/-- Sending requests changes neither what they are for nor whether they have been granted. -/
theorem mem_sendReqs {now : Nat} {q : PageReq} : ∀ {n : Nat} {l : List PageReq}, q ∈ sendReqs now n l →
    ∃ r ∈ l, q = { r with sent := q.sent, since := q.since }
  | 0, l, h => ⟨q, by simpa [sendReqs] using h, rfl⟩
  | n + 1, [], h => by simp [sendReqs] at h
  | n + 1, r :: l, h => by
    rw [sendReqs] at h
    split at h
    · rcases List.mem_cons.1 h with rfl | h
      · exact ⟨q, List.mem_cons_self, rfl⟩
      · obtain ⟨r', hr', hq⟩ := mem_sendReqs h
        exact ⟨r', List.mem_cons_of_mem _ hr', hq⟩
    · rcases List.mem_cons.1 h with rfl | h
      · exact ⟨r, List.mem_cons_self, rfl⟩
      · obtain ⟨r', hr', hq⟩ := mem_sendReqs h
        exact ⟨r', List.mem_cons_of_mem _ hr', hq⟩

theorem mem_sendWaiting {s : State} {q : PageReq} (h : q ∈ s.sendWaiting.pageReqs) :
    ∃ r ∈ s.pageReqs, q = { r with sent := q.sent, since := q.since } := by
  unfold State.sendWaiting at h
  split at h
  · exact ⟨q, h, rfl⟩
  · exact mem_sendReqs h

theorem sendWaiting_frame (s : State) : s.sendWaiting = { s with pageReqs := s.sendWaiting.pageReqs } := by
  unfold State.sendWaiting
  split <;> rfl

/-! ### ATS finds no page -/

theorem pageReq_open_of_sent {q : PageReq} (h : q.sent = true) : q.open = !q.granted := by rw [PageReq.open, h, Bool.true_and]

section
variable {s : State} {pasid va : Nat}

/-- A page reported absent that no request stands for: a new request waits, and is sent where it may be (R423). -/
theorem atsAbsent_new (hnew : ∀ q ∈ s.pageReqs, ¬ (q.pasid = pasid ∧ q.va / 4096 = va / 4096)) :
    s.atsAbsent (pageAt pasid va) =
      if s.pageWaited (pageAt pasid va) = false then s
      else if s.priEnable = false ∨ s.priFailed = true then s.denyPage (pageAt pasid va) 0x0101
      else State.sendWaiting { s with pageReqs := s.pageReqs ++
        [{ pasid := pasid, va := va / 4096 * 4096, since := s.timeNs, granted := false, sent := false }] } := by
  have hnone : s.pageReqs.find? (PageReq.isFor (pageAt pasid va)) = none :=
    List.find?_eq_none.2 fun q hq h => hnew q hq (isFor_iff.1 h)
  unfold State.atsAbsent
  dsimp only
  rw [hnone]
  cases s.pageWaited (pageAt pasid va) <;> cases s.priEnable <;> cases s.priFailed <;> rfl

variable {l : List PageReq} {new : PageReq} (hon : s.priEnable = true) (hok : s.priFailed = false)
  (hsent : new.sent = false)
include hon hok hsent

theorem sendWaiting_append : State.sendWaiting { s with pageReqs := l ++ [new] } =
    { s with pageReqs := sendReqs s.timeNs (512 - (l.filter fun q => q.sent && !q.granted).length) (l ++ [new]) } := by
  have hopen : (l ++ [new]).filter PageReq.open = l.filter fun q => q.sent && !q.granted := by
    rw [List.filter_append, show [new].filter PageReq.open = [] by simp [PageReq.open, hsent], List.append_nil]
    rfl
  unfold State.sendWaiting
  dsimp only
  rw [hon, hok, hopen]
  rfl

/-- The request is sent at once where fewer than 512 are outstanding. -/
theorem sendWaiting_sent (hall : ∀ q ∈ l, q.sent = true) (hfew : (l.filter fun q => q.sent && !q.granted).length < 512) :
    State.sendWaiting { s with pageReqs := l ++ [new] } = { s with pageReqs := l ++ [{ new with sent := true, since := s.timeNs }] } := by
  obtain ⟨n, hn⟩ := Nat.exists_eq_succ_of_ne_zero (Nat.sub_ne_zero_of_lt hfew)
  rw [sendWaiting_append hon hok hsent, hn, sendReqs_sent _ _ hsent _ _ hall]

/-- The request waits where 512 are outstanding. -/
theorem sendWaiting_full (hfull : 512 ≤ (l.filter fun q => q.sent && !q.granted).length) :
    State.sendWaiting { s with pageReqs := l ++ [new] } = { s with pageReqs := l ++ [new] } := by
  rw [sendWaiting_append hon hok hsent, Nat.sub_eq_zero_of_le hfull, sendReqs]
end

/-! ### Answers of the host -/

section
variable {s : State} {pasid va : Nat}

theorem exec_priResponse (hup : s.hostUp = true) (hopen : ∃ q ∈ s.pageReqs, (q.pasid = pasid ∧ q.va / 4096 = va / 4096)
    ∧ q.granted = false ∧ q.sent = true) (code : BitVec 2) : exec (.priResponse pasid va code) s = .next
      (let p := pageAt pasid va
      if code = 0 then
        if s.pageWaited p then
          State.wakePage (State.sendWaiting
            { s with pageReqs := s.pageReqs.map fun r => if r.isFor p then { r with granted := true } else r }) p
        else (s.dropReq p).sendWaiting
      else if code = 1 then (s.dropReq p).sendWaiting.denyPage p 0x0110
      else State.denyPage { s.dropReq p with priFailed := true } p 0x0111) := by
  obtain ⟨q, hq, hours, hgranted, hsent⟩ := hopen
  have hany : s.pageReqs.any (fun r => r.isFor (pageAt pasid va) && r.open) = true :=
    List.any_eq_true.2 ⟨q, hq, by rw [isFor_iff.2 hours, pageReq_open_of_sent hsent, hgranted]; rfl⟩
  exact congrArg Host.Outcome.next ((if_pos hup).trans (if_pos hany))

theorem sendWaiting_with (s : State) (l : List PageReq) : ∃ l', State.sendWaiting { s with pageReqs := l } = { s with pageReqs := l' }
    ∧ ∀ q ∈ l', ∃ r ∈ l, q = { r with sent := q.sent, since := q.since } :=
  ⟨_, sendWaiting_frame _, fun _ hq => mem_sendWaiting (s := { s with pageReqs := l }) hq⟩

/-- The requests of the page are granted. -/
theorem priResponse_success_spec (s : State) (pasid va : Nat) :
    let p := pageAt pasid va
    let t := State.wakePage (State.sendWaiting
      { s with pageReqs := s.pageReqs.map fun r => if r.isFor p then { r with granted := true } else r }) p
    t = { s with pageReqs := t.pageReqs, ctxs := t.ctxs }
      ∧ (∀ q ∈ t.pageReqs, (q.pasid = pasid ∧ q.va / 4096 = va / 4096) → q.granted = true)
      ∧ Woken s t (s.waitsIn pasid (va / 4096 * 4096) 4096) := by
  intro p
  obtain ⟨l, hl, hmem⟩ := sendWaiting_with s (s.pageReqs.map fun r => if r.isFor p then { r with granted := true } else r)
  rw [hl]
  refine ⟨rfl, fun q hq hours => ?_, ?_⟩
  · obtain ⟨r, hr, hqr⟩ := hmem q hq
    obtain ⟨r', -, rfl⟩ := List.mem_map.1 hr
    rw [hqr] at hours ⊢
    by_cases hfor : r'.isFor p = true
    · rw [if_pos hfor]
    · rw [if_neg hfor] at hours
      exact absurd (isFor_iff.2 hours) hfor
  · rw [← State.waitsOn_eq]
    exact woken_wakeAll rfl (s.waitsOn p)

theorem tmoNs_eq (s : State) : s.tmoNs = s.creel.pricfg.toNat % 65536 * 1000000 := by
  unfold State.tmoNs
  rw [BitVec.extractLsb'_toNat]
  rfl

theorem exec_pageRequestTimeout_none (h : s.creel.pricfg.toNat % 65536 = 0) : exec (.pageRequestTimeout pasid va) s = .next s :=
  congrArg Host.Outcome.next (if_neg fun ⟨hne, _⟩ => hne (by rw [tmoNs_eq, h, Nat.zero_mul]))

theorem exec_pageRequestTimeout (h : 0 < s.creel.pricfg.toNat % 65536) (hover : ∃ q ∈ s.pageReqs,
    (q.pasid = pasid ∧ q.va / 4096 = va / 4096) ∧ q.granted = false ∧ q.sent = true
      ∧ q.since + s.creel.pricfg.toNat % 65536 * 1000000 ≤ s.timeNs) :
    exec (.pageRequestTimeout pasid va) s = .next ((s.dropReq (pageAt pasid va)).sendWaiting.denyPage (pageAt pasid va) 0x0111) := by
  obtain ⟨q, hq, hours, hgranted, hsent, hold⟩ := hover
  refine congrArg Host.Outcome.next (if_pos ⟨?_, List.any_eq_true.2 ⟨q, hq, ?_⟩⟩)
  · rw [tmoNs_eq]
    omega
  · rw [isFor_iff.2 hours, pageReq_open_of_sent hsent, hgranted, tmoNs_eq]
    simpa using hold

theorem exec_atsInvalidate (hup : s.hostUp = true) (hn : s.NoStores) (size : Nat) :
    ∃ t : State, exec (.atsInvalidate pasid va size) s = .next t ∧ t = { s with tlb := t.tlb, hanks := t.hanks }
      ∧ t.tlb = s.tlb.filter fun f => !(f.ats && f.pasid == pasid && decide (f.va < va + size) && decide (va < f.va + f.size)) := by
  refine ⟨_, congrArg Host.Outcome.next (if_neg (by rw [hup]; exact Bool.false_ne_true)), ?_, ?_⟩
  · rw [State.performWhere_none hn]
    rfl
  · rw [State.performWhere_none hn]
    rfl

theorem exec_priEnableWrite {port : Nat} (hp : port < 2) (hlink : s.linkUp port = true) (on : Bool) :
    exec (.priEnableWrite port on) s =
      .next (State.sendWaiting { s with priEnable := on, priFailed := s.priFailed && !(on && !s.priEnable) }) := by
  refine congrArg Host.Outcome.next (if_neg ?_)
  rw [hlink]
  simpa using hp

/-! ### Walks -/

theorem exec_pageWalk_none {asd : Nat} (h : s.waiters (waitsMig asd va) = []) : exec (.pageWalk asd va) s = .next s := by
  refine congrArg Host.Outcome.next ?_
  unfold State.pageWalk
  rw [h]
  rfl

theorem exec_pageWalk_one {asd slot : Nat} {c : Cl} {x : Xlate} (h : s.waiters (waitsMig asd va) = [(slot, c)])
    (hwalk : s.prewalk (unitOf slot) asd (BitVec.ofNat 64 va) = s)
    (hx : s.xlate (unitOf slot) asd (s.ctx slot).provisional .read (BitVec.ofNat 64 va) = .ok x) :
    exec (.pageWalk asd va) s = .next ((s.useXlate x).modCtx slot fun y => y.modCl c Cluster.wake) := by
  refine congrArg Host.Outcome.next ?_
  unfold State.pageWalk
  rw [h, List.foldl_cons, List.foldl_nil, State.walkFor]
  dsimp only
  rw [hwalk, hx]
end

/-! ### Lines owned by the host -/

/-- A recall leaves no copy of the line. -/
theorem get_recalled {m : SMap (Option CacheLine)} {line k : Nat} {x : CacheLine}
    (h : SMap.get none (m.filter fun p => !holdsLine line p.2) k = some x) : x.line ≠ line := by
  rcases SMap.get_eq_or_mem none (m.filter fun p => !holdsLine line p.2) k with hnone | ⟨j, hmem⟩
  · rw [h] at hnone
    cases hnone
  · rw [h] at hmem
    simpa [holdsLine] using (List.mem_filter.1 hmem).2

theorem exec_hostOwnership {s : State} {line : Nat} (hup : s.hostUp = true) (hn : s.NoStores) (hready : s.creel.ready = true)
    (hreg : s.region (line * 128) = .hbm) (hheld : s.physHeld (line * 128) = false) : ∃ t : State,
      exec (.hostOwnership line) s = .next t
        ∧ t = { s with hostOwned := s.hostOwned.set false line true, l1 := t.l1, l2 := t.l2 }
        ∧ ∀ k x, (t.l1.get none k = some x ∨ t.l2.get none k = some x) → x.line ≠ line := by
  refine ⟨_, congrArg Host.Outcome.next (if_pos (by rw [hup, hready, hreg, hheld]; rfl)), ?_, fun k x hx => ?_⟩
  · rw [State.performWhere_none hn]
    rfl
  · rw [State.performWhere_none hn] at hx
    exact hx.elim get_recalled get_recalled

/-- No write waits for the line. -/
theorem flushPhys_none {s : State} {line : Nat} (h : ∀ w ∈ s.physWaits, w.2.1 / 128 ≠ line) : s.flushPhys (line * 128) = s := by
  have hmine : s.physWaits.filter (fun w => w.2.1 / 128 == line * 128 / 128) = [] :=
    List.filter_eq_nil_iff.2 fun w hw => by simpa using h w hw
  have hrest : s.physWaits.filter (fun w => w.2.1 / 128 != line * 128 / 128) = s.physWaits :=
    List.filter_eq_self.2 fun w hw => by simpa using h w hw
  unfold State.flushPhys
  rw [hmine, hrest]
  rfl

theorem exec_backInvalidationResponse {s : State} {line : Nat} (hup : s.hostUp = true) (howned : s.hostOwned.get false line = true)
    {data : List Byte} (hdata : data = [] ∨ data.length = 128) : exec (.backInvalidationResponse line data) s = .next
      (((if data.isEmpty || s.protectedAt (line * 128) then s.takeBack line
        else (((s.takeBack line).physWriteLine s.hostSrc (line * 128) data).recall line).wakeLine (line * 128)).flushPhys
          (line * 128)).wakeAll (waitsHost line)) := by
  refine congrArg Host.Outcome.next (if_pos ?_)
  rcases hdata with rfl | hlen
  · simp [hup, howned]
  · simp [hup, howned, hlen]

/-- A line that comes back clean. -/
theorem backInvalidationResponse_clean {s : State} {line : Nat} (hup : s.hostUp = true) (howned : s.hostOwned.get false line = true)
    (hnone : ∀ w ∈ s.physWaits, w.2.1 / 128 ≠ line) : ∃ t : State, exec (.backInvalidationResponse line []) s = .next t
      ∧ t = { s with hostOwned := s.hostOwned.set false line false, snoops := s.snoops.set 0 line 0, ctxs := t.ctxs }
      ∧ Woken s t (waitsHost line) := by
  refine ⟨_, exec_backInvalidationResponse hup howned (.inl rfl), ?_⟩
  rw [List.isEmpty_nil, Bool.true_or, if_pos rfl, flushPhys_none (s := s.takeBack line) hnone]
  exact ⟨rfl, woken_wakeAll rfl _⟩

theorem State.putLine_physWaits (s : State) (pa : Nat) (l : Line) : (s.putLine pa l).physWaits = s.physWaits := by
  unfold State.putLine State.clearPm
  dsimp only
  split <;> rfl

theorem State.report_physWaits (s : State) (r : Rec) : (s.report r).physWaits = s.physWaits :=
  (congrArg State.physWaits (reported_report s r).1 :)

theorem State.scrub_physWaits (s : State) (pa : Nat) : (s.scrub pa).physWaits = s.physWaits := by
  unfold State.scrub State.scrubTier
  dsimp only
  split
  · split
    · exact State.report_physWaits ..
    · rfl
  · split
    · rfl
    · split
      · rfl
      · exact State.report_physWaits ..
  · rfl

theorem State.physWriteLine_physWaits (s : State) (src pa : Nat) (data : List Byte) :
    (s.physWriteLine src pa data).physWaits = s.physWaits := by
  unfold State.physWriteLine
  dsimp only
  split
  case h_4 =>
    split
    · exact (State.putLine_physWaits ..).trans (State.scrub_physWaits ..)
    · exact (State.report_physWaits ..).trans (State.scrub_physWaits ..)
  all_goals rfl

theorem State.scrub_hbm {s : State} {pa : Nat} (hreg : s.region pa = .hbm) (he : (s.blockAt pa).errors ≤ 19) :
    ∃ c, s.scrub pa = { s with creel := c } := by
  unfold State.scrub
  rw [hreg]
  dsimp only
  rw [if_pos he]
  split <;> exact ⟨_, rfl⟩

/-- A whole line is stored even over a POISON line. -/
theorem Line.storePhys_whole (l : Line) {data : List Byte} (h : data.length = 128) : ∃ m, l.storePhys 0 data = some m := by
  unfold Line.storePhys
  split
  case h_3 => exact ⟨_, if_pos (by rw [h]; rfl)⟩
  all_goals exact ⟨_, rfl⟩

/-- A whole line of HBM4 takes the bytes. -/
theorem byteAt_physWriteLine_whole {s : State} {line : Nat} {data : List Byte} (hreg : s.region (line * 128) = .hbm)
    (he : (s.blockAt (line * 128)).errors ≤ 19) (hlen : data.length = 128) (src a : Nat) :
    (s.physWriteLine src (line * 128) data).byteAt a =
      if line * 128 ≤ a ∧ a < line * 128 + 128 then data.getD (a - line * 128) 0 else s.byteAt a := by
  obtain ⟨c, hc⟩ := State.scrub_hbm hreg he
  obtain ⟨m, hm⟩ := Line.storePhys_whole (s.lineAt (line * 128)) hlen
  have hline : s.physWriteLine src (line * 128) data = State.putLine { s with creel := c } (line * 128) m := by
    unfold State.physWriteLine
    rw [hreg]
    dsimp only
    rw [hc, Nat.mul_mod_left, show State.lineAt { s with creel := c } (line * 128) = s.lineAt (line * 128) from rfl, hm]
  rw [hline, State.byteAt_putLine, Nat.mul_div_cancel _ (by decide)]
  by_cases hsame : a / 128 = line
  · rw [if_pos hsame, if_pos (by omega), Line.storePhys_get hm, if_pos (by omega)]
    congr 1
    omega
  · rw [if_neg hsame, if_neg (by omega)]
    rfl

/-- A line that comes back with the host's bytes. -/
theorem backInvalidationResponse_data {s : State} {line : Nat} (hup : s.hostUp = true) (howned : s.hostOwned.get false line = true)
    (hnone : ∀ w ∈ s.physWaits, w.2.1 / 128 ≠ line) {data : List Byte} (hlen : data.length = 128)
    (hreg : s.region (line * 128) = .hbm) : ∃ t : State, exec (.backInvalidationResponse line data) s = .next t
      ∧ t.hostOwned = s.hostOwned.set false line false
      ∧ ((s.blockAt (line * 128)).errors ≤ 19 → s.protectedAt (line * 128) = false → ∀ a, t.byteAt a =
          if line * 128 ≤ a ∧ a < line * 128 + 128 then data.getD (a - line * 128) 0 else s.byteAt a)
      ∧ (s.protectedAt (line * 128) = true → ∀ a, t.byteAt a = s.byteAt a) := by
  have hdata : data.isEmpty = false := by cases data <;> simp_all
  refine ⟨_, exec_backInvalidationResponse hup howned (.inr hlen), ?_⟩
  rw [hdata, Bool.false_or]
  by_cases hprot : s.protectedAt (line * 128) = true
  · rw [if_pos hprot, flushPhys_none (s := s.takeBack line) hnone]
    exact ⟨rfl, fun _ h => absurd (hprot.symm.trans h) (by decide), fun _ _ => rfl⟩
  · have hagents := sameAgents_physWriteLine (s.takeBack line) s.hostSrc (line * 128) data
    rw [if_neg hprot, flushPhys_none]
    · refine ⟨hagents.2.2.2.2.1, fun he _ a => ?_, fun h => absurd h hprot⟩
      exact byteAt_physWriteLine_whole (s := s.takeBack line) hreg he hlen _ a
    · show ∀ w ∈ ((s.takeBack line).physWriteLine _ _ _).physWaits, _
      rw [State.physWriteLine_physWaits]
      exact hnone

/-! ### The limit of a back invalidation -/

theorem exec_backInvalidationTimeout_early {s : State} {line sent : Nat}
    (h : s.snoopOver line = false ∨ s.snoops.get 0 line ≠ sent + 1) : exec (.backInvalidationTimeout line sent) s = .next s := by
  refine congrArg Host.Outcome.next (if_neg fun hover => ?_)
  rw [Bool.and_eq_true, beq_iff_eq] at hover
  rcases h with h | h
  · exact absurd (h.symm.trans hover.1) (by decide)
  · exact h hover.2

theorem denied_host (pa asd v kind : Nat) : WaitFor.denied (some (.host pa asd v kind)) 0x0113 false 0
    = .fatal 0x0113 (BitVec.ofNat 64 v) (BitVec.ofNat 64 (kind * 2 ^ 16)) := by
  unfold WaitFor.denied
  dsimp only
  rw [if_neg (by decide : ¬ ((0x0113 : BitVec 32) = 0x0101 ∨ (0x0113 : BitVec 32) = 0x0100)), if_neg Bool.false_ne_true, Nat.add_zero,
    Nat.zero_mul, Nat.add_zero]

theorem exec_backInvalidationTimeout_one {s : State} {line sent slot pa asd v kind : Nat} {c : Cl} (hover : s.snoopOver line = true)
    (hsent : s.snoops.get 0 line = sent + 1) (hone : s.waiters (waitsHost line) = [(slot, c)])
    (hwait : ((s.ctx slot).cl c).wait = some (.host pa asd v kind))
    (hsup : ∀ q ∈ s.sup, ¬ (q.2.cl.run = .waiting ∧ waitsHost line q.2.cl.wait = true)) :
    let t := s.haltAt slot c (.fatal 0x0113 (BitVec.ofNat 64 v) (BitVec.ofNat 64 (kind * 2 ^ 16)))
    exec (.backInvalidationTimeout line sent) s = .next (State.denyEngines { t with snoops := t.snoops.set 0 line 0 } (.line line)) := by
  refine congrArg Host.Outcome.next ((if_pos ?_).trans ?_)
  · rw [hover, hsent, beq_self_eq_true]
    rfl
  · have hcores : s.sup.filter (fun p => p.2.cl.run == .waiting && waitsHost line p.2.cl.wait) = [] :=
      List.filter_eq_nil_iff.2 fun q hq => by simpa using hsup q hq
    unfold State.denyLine
    dsimp only
    rw [hone, hcores, List.foldl_cons, List.foldl_nil, List.foldl_nil, hwait, denied_host]

/-- Settles O43: each event in turn, on the states that its clause names. -/
theorem translationsAndPages : Obligations.TranslationsAndPages := by
  unfold Obligations.TranslationsAndPages
  intro s pasid va hup p r atOnce ours dropped
  have hdrop : s.dropReq (pageAt pasid va) = dropped := dropReq_pageAt s pasid va
  refine ⟨fun e pa read write he hva hpa hany => ?_, fun hva hnew => ?_, fun hopen => ?_, fun hn size => exec_atsInvalidate hup hn size,
    fun port on hp hlink => exec_priEnableWrite hp hlink on,
    fun asd => ⟨exec_pageWalk_none, fun slot c x hone hwalk hx => exec_pageWalk_one hone hwalk hx⟩,
    fun line hn hready hreg hheld => exec_hostOwnership hup hn hready hreg hheld,
    fun line howned hnone => ⟨backInvalidationResponse_clean hup howned hnone, fun data hlen hreg =>
      backInvalidationResponse_data hup howned hnone hlen hreg⟩,
    fun line sent => ⟨exec_backInvalidationTimeout_early, fun slot c pa asd v kind hover hsent hone hwait hsup =>
      exec_backInvalidationTimeout_one hover hsent hone hwait hsup⟩⟩
  · have hgrant : (read || write) = true := by rcases hany with rfl | rfl <;> simp
    rw [exec_ats hup he hva hpa, if_pos hgrant]
    refine ⟨fun hin => ?_, fun hout => by rw [if_pos hout]⟩
    rw [if_neg (by omega)]
    obtain ⟨d, hspec⟩ := installAts_spec s pasid va (2 ^ e) pa read write
    exact ⟨_, d, rfl, hspec⟩
  · have habsent : exec (.atsTranslationCompletion pasid va 4096 0 false false) s = .next (s.atsAbsent p) :=
      exec_ats hup (e := 12) (by decide) hva (Nat.zero_mod _) pasid false false
    dsimp only
    rw [habsent, atsAbsent_new hnew]
    refine ⟨fun hidle => by rw [if_pos hidle], fun hwaited hon hok => ?_, fun hwaited hoff => ?_⟩
    · rw [if_neg (by simp [p, hwaited] at *), if_neg (by simp [hon, hok])]
      exact ⟨fun hall hfew => congrArg _ (sendWaiting_sent hon hok rfl hall hfew), fun hfull => congrArg _ (sendWaiting_full hon hok rfl hfull)⟩
    · rw [if_neg (by simp [p, hwaited] at *), if_pos hoff]
  · refine ⟨fun hwaited => ⟨_, (exec_priResponse hup hopen 0).trans ?_, priResponse_success_spec s pasid va⟩, fun hidle => ?_, ?_, ?_,
      exec_pageRequestTimeout_none, fun htmo hover => ?_⟩
    · exact congrArg _ ((if_pos rfl).trans (if_pos hwaited))
    · rw [exec_priResponse hup hopen, ← hdrop]
      exact congrArg _ ((if_pos rfl).trans (if_neg (by rw [hidle]; exact Bool.false_ne_true)))
    · rw [exec_priResponse hup hopen, ← hdrop]
      rfl
    · rw [exec_priResponse hup hopen, ← hdrop]
      rfl
    · rw [exec_pageRequestTimeout htmo hover, hdrop]

end Sys2Proof.Machine
end

section
/-! PROOFS. Hosts, peers and the Distaff act on the module (R375 .. R382, R437, R476). -/

namespace Sys2Proof.Machine

/-! ### One line of HBM4 is rewritten -/

/-- The bytes of one line from `pa` on have been written: nothing else of memory, no tag of another line and no error count of a clean
block changes, and no more of the state than caches and waiting clusters. -/
structure LineWritten (s t : State) (pa : Nat) (data : List Byte) : Prop where
  bytes : BytesBecome s t pa data
  tag : ∀ p, p / 128 ≠ pa / 128 → t.tagAt p = s.tagAt p
  errors : ∀ p, (s.blockAt p).errors = 0 → (t.blockAt p).errors = 0
  frame : t = { s with mem := t.mem, tags := t.tags, blocks := t.blocks, extPoison := t.extPoison, l1 := t.l1, l2 := t.l2, ctxs := t.ctxs }

theorem State.putLine_frame (s : State) (pa : Nat) (l : Line) :
    let t := s.putLine pa l
    t = { s with mem := t.mem, tags := t.tags, blocks := t.blocks, extPoison := t.extPoison, l1 := t.l1, l2 := t.l2, ctxs := t.ctxs } := by
  unfold State.putLine State.clearPm
  dsimp only
  split <;> rfl

/-- A line that is put leaves a block without errors free of them. -/
theorem State.errors_putLine {s : State} {p : Nat} (h : (s.blockAt p).errors = 0) (pa : Nat) (l : Line) :
    ((s.putLine pa l).blockAt p).errors = 0 := by
  have hset (t : State) (b : Block) (ht : (t.blockAt p).errors = 0) (hb : b.errors = 0) : ((t.setBlock pa b).blockAt p).errors = 0 := by
    unfold State.blockAt State.setBlock
    rw [SMap.get_set]
    split
    · exact hb
    · exact ht
  have hone := hset ((State.setTag { s with
    mem := SMap.setRange 0 s.mem (pa / 128 * 128) 128 fun a => l.bytes.get 0 (a - pa / 128 * 128)
    extPoison := s.extPoison.filter fun q => q.1 != pa / 128 } pa l.tag)) { s.blockAt pa with wiped := false, errors := 0 } h rfl
  unfold State.putLine State.clearPm
  dsimp only
  split
  · refine hset _ _ hone ?_
    unfold State.blockAt State.setBlock
    rw [SMap.get_set_same]
  · exact hone

theorem lineWritten_putLine {s : State} {pa : Nat} {l : Line} {data : List Byte} (h : BytesBecome s (s.putLine pa l) pa data) :
    LineWritten s (s.putLine pa l) pa data where
  bytes := h
  tag p hp := by rw [State.tagAt_putLine, if_neg hp]
  errors p hp := State.errors_putLine hp pa l
  frame := s.putLine_frame pa l

namespace LineWritten
variable {s t : State} {pa : Nat} {data : List Byte} (h : LineWritten s t pa data)
include h

theorem recalled (line : Nat) : LineWritten s (t.recall line) pa data :=
  ⟨h.bytes, h.tag, h.errors, (congrArg (State.recall · line) h.frame :)⟩

theorem woken (a : Nat) : LineWritten s (t.wakeLine a) pa data :=
  ⟨h.bytes, h.tag, h.errors, (congrArg (State.wakeLine · a) h.frame :)⟩

theorem protectedAt (a : Nat) : t.protectedAt a = s.protectedAt a := by rw [h.frame]; rfl
theorem ownedByHost (a : Nat) : t.ownedByHost a = s.ownedByHost a := by rw [h.frame]; rfl
theorem physWaits : t.physWaits = s.physWaits := (congrArg State.physWaits h.frame :)
end LineWritten

/-- Two writes, the second where the first ends. -/
theorem BytesBecome.append {s t u : State} {pa : Nat} {c d : List Byte} (h : BytesBecome s t pa c) (k : BytesBecome t u (pa + c.length) d) :
    BytesBecome s u pa (c ++ d) := fun a => by
  rw [k a, h a, List.length_append]
  by_cases hc : pa ≤ a ∧ a < pa + c.length
  · rw [if_neg (by omega), if_pos hc, if_pos (by omega), List.getD_append _ _ _ _ (by omega)]
  · by_cases hd : pa + c.length ≤ a ∧ a < pa + c.length + d.length
    · rw [if_pos hd, if_pos (by omega), List.getD_append_right _ _ _ _ (by omega), Nat.sub_sub]
    · rw [if_neg hd, if_neg hc, if_neg (by omega)]

/-! ### Pieces of a range -/

/-- No write waits for a line of the range. -/
def State.NoneWaits (s : State) (pa n : Nat) : Prop := ∀ w ∈ s.physWaits, w.2.1 / 128 < pa / 128 ∨ pa + n ≤ w.2.1 / 128 * 128

theorem mem_linePieces {p : Nat × Nat} : ∀ {fuel pa n : Nat}, p ∈ linePieces fuel pa n → pa ≤ p.1 ∧ p.1 < pa + n
  | 0, _, _, h => by simp [linePieces] at h
  | _ + 1, _, 0, h => by simp [linePieces] at h
  | fuel + 1, pa, n + 1, h => by
    rw [linePieces] at h
    rcases List.mem_cons.1 h with rfl | h
    · exact ⟨Nat.le_refl _, by dsimp only; omega⟩
    · have := mem_linePieces h
      omega
    · simp

section
variable {s : State} {pa n : Nat} (h : s.Plain pa n)
include h

theorem State.Plain.le_hbmEnd : pa + n ≤ hbmEnd := by
  obtain ⟨hn, h⟩ := h
  have hlt := State.lt_of_region_hbm (h (pa + n - 1) (by omega) (by omega)).1
  unfold hbmEnd
  omega

/-- A part of a plain range is plain. -/
theorem State.Plain.part {a k : Nat} (ha : pa ≤ a) (hk : 0 < k) (hend : a + k ≤ pa + n) : s.Plain a k :=
  ⟨hk, fun b hb hlt => h.2 b (Nat.le_trans ha hb) (by omega)⟩

/-- What lies in the lines after the first stays plain as that is written. -/
theorem State.Plain.rest {t : State} {data : List Byte} (hw : LineWritten s t pa data) {a k : Nat} (ha : pa / 128 < a / 128) (hk : 0 < k)
    (hend : a + k ≤ pa + n) : t.Plain a k := by
  refine ⟨hk, fun b hb hlt => ?_⟩
  obtain ⟨hreg, herr, h3, h4, hprot⟩ := h.2 b (by omega) (by omega)
  rw [hw.tag b (by omega), hw.protectedAt]
  exact ⟨State.region_hbm (State.lt_of_region_hbm hreg), hw.errors b herr, h3, h4, hprot⟩
end

/-- A write of a plain piece within a line. -/
theorem lineWritten_physWriteLine {s : State} {pa : Nat} {data : List Byte} (h : s.Plain pa data.length)
    (hline : pa % 128 + data.length ≤ 128) (src : Nat) : LineWritten s (s.physWriteLine src pa data) pa data := by
  obtain ⟨hreg, herr, h3, h4, -⟩ := h.2 pa (Nat.le_refl _) (Nat.lt_add_of_pos_right h.1)
  have hscrub : s.scrub pa = s := by
    unfold State.scrub
    rw [hreg]
    dsimp only
    rw [if_pos herr]
  obtain ⟨m, hm⟩ := Line.storePhys_some (l := s.lineAt pa) h4 (pa % 128) data
  have hput : s.physWriteLine src pa data = s.putLine pa m := by
    unfold State.physWriteLine
    rw [hreg]
    dsimp only
    rw [hscrub, hm]
  rw [hput]
  refine lineWritten_putLine fun a => ?_
  rw [State.byteAt_putLine]
  split
  · rename_i hsame
    rw [Line.storePhys_get hm, lineAt_byte _ _ _ (Nat.mod_lt _ (by decide)), ← hsame, Nat.div_add_mod',
      show a % 128 - pa % 128 = a - pa by omega]
    exact if_congr (by omega) rfl rfl
  · rw [if_neg (by omega)]

/-- A piece of a write from outside is written, by the host even into a line that it owns (R476). -/
theorem lineWritten_outsideWriteLine {s : State} {src base pa k : Nat} {data : List Byte} (h : s.Plain pa k)
    (hline : pa % 128 + k ≤ 128) (hlen : ((data.drop (pa - base)).take k).length = k) (hw : s.NoneWaits pa k) :
    LineWritten s (s.outsideWriteLine src base data (pa, k)) pa ((data.drop (pa - base)).take k) := by
  obtain ⟨hreg, -, h3, -, hprot⟩ := h.2 pa (Nat.le_refl _) (Nat.lt_add_of_pos_right h.1)
  generalize hd : (data.drop (pa - base)).take k = d at hlen ⊢
  have hwritten := lineWritten_physWriteLine (s := s) (pa := pa) (data := d) (by rwa [hlen]) (by rwa [hlen]) src
  unfold State.outsideWriteLine
  dsimp only
  rw [hprot, if_neg Bool.false_ne_true, hd]
  cases howned : s.ownedByHost pa with
  | true => exact hwritten.woken pa
  | false =>
    have hhome : s.homeOf pa = pa := by rw [State.homeOf, hreg]
    have hne : d ≠ [] := fun h0 => by rw [h0] at hlen; exact absurd hlen (Nat.ne_of_lt h.1)
    have hfree : s.physHeld pa = false := by
      have hnone : s.physWaits.any (fun w => w.2.1 / 128 == pa / 128) = false := List.any_eq_false.2 fun w hmem => by
        have := hw w hmem
        have := h.1
        simp only [beq_iff_eq]
        omega
      rw [State.physHeld, hnone, howned, beq_false_of_ne h3]
      simp
    rw [if_neg Bool.false_ne_true, State.physWrite_line hne (by rw [hhome, hlen]; exact hline), hhome, State.physWriteOne, hfree,
      if_neg Bool.false_ne_true]
    exact (hwritten.recalled _).woken pa

/-- A write from outside stores its bytes, piece by piece. -/
theorem bytesBecome_pieces {src base : Nat} {data : List Byte} (fuel : Nat) : ∀ {pa n : Nat} {s : State}, n < fuel → base ≤ pa →
    pa - base + n = data.length → (0 < n → s.Plain pa n) → s.NoneWaits pa n →
    BytesBecome s ((linePieces fuel pa n).foldl (fun t p => t.outsideWriteLine src base data p) s) pa (data.drop (pa - base)) := by
  induction fuel with
  | zero => exact fun h => absurd h (Nat.not_lt_zero _)
  | succ fuel ih =>
    intro pa n s hfuel hbase hlen hplain hw
    cases n with
    | zero =>
      intro a
      rw [List.drop_of_length_le (by omega), List.length_nil, if_neg (by omega)]
      rfl
    | succ n =>
      have hplain := hplain (Nat.succ_pos n)
      have hpieces : linePieces (fuel + 1) pa (n + 1) = (pa, min (n + 1) (128 - pa % 128))
          :: linePieces fuel (pa + min (n + 1) (128 - pa % 128)) (n + 1 - min (n + 1) (128 - pa % 128)) := rfl
      rw [hpieces, List.foldl_cons]
      generalize hk : min (n + 1) (128 - pa % 128) = k
      have hk0 : 0 < k := by omega
      have htake : ((data.drop (pa - base)).take k).length = k := by rw [List.length_take, List.length_drop]; omega
      have hone := lineWritten_outsideWriteLine (src := src) (hplain.part (Nat.le_refl pa) hk0 (by omega)) (by omega) htake
        (fun w hmem => (hw w hmem).imp id fun h => by omega)
      have hrest := ih (pa := pa + k) (n := n + 1 - k) (s := s.outsideWriteLine src base data (pa, k)) (by omega) (by omega) (by omega)
        (fun h => hplain.rest hone (by omega) h (by omega))
        (fun w hmem => (hw w (hone.physWaits ▸ hmem)).imp (fun h => by omega) fun h => by omega)
      rw [show pa + k - base = pa - base + k by omega, ← List.drop_drop] at hrest
      have h := hone.bytes.append (d := (data.drop (pa - base)).drop k) (by rw [htake]; exact hrest)
      rwa [List.take_append_drop] at h

/-! ### Accesses of hosts and peers -/

theorem bytesAt_eq_map (s : State) (n : Nat) : ∀ pa, s.bytesAt pa n = (List.range n).map fun i => s.byteAt (pa + i) := by
  induction n with
  | zero => exact fun _ => rfl
  | succ n ih =>
    intro pa
    rw [List.range_succ_eq_map, List.map_cons, List.map_map]
    refine congrArg (s.byteAt pa :: ·) ((ih (pa + 1)).trans (List.map_congr_left fun i _ => ?_))
    show s.byteAt _ = s.byteAt _
    congr 1
    omega

section
variable {s : State} {pa n : Nat}

theorem poisonAt_hbm {a : Nat} (h4 : (s.tagAt a).vcls ≠ 4) : s.poisonAt a = false := by
  have hone : (a % 128 + 1 + 127) / 128 = 1 := by omega
  rw [State.poisonAt, State.physClass, hone]
  simp [List.range_succ, h4]

section
variable (h : s.Plain pa n)
include h

theorem State.Plain.poisonAt {a : Nat} (ha : pa ≤ a) (hlt : a < pa + n) : s.poisonAt a = false :=
  poisonAt_hbm (h.2 a ha hlt).2.2.2.1

theorem State.Plain.outsideByte (hready : s.creel.ready = true) {a : Nat} (ha : pa ≤ a) (hlt : a < pa + n) : s.outsideByte a = s.byteAt a := by
  rw [State.outsideByte, hready, (h.2 a ha hlt).2.2.2.2, h.poisonAt ha hlt]
  rfl

theorem State.Plain.notWaits {peer : Bool} (hown : peer = true → ∀ a, pa ≤ a → a < pa + n → s.ownedByHost a = false) :
    s.outsideWaits peer pa n = false := by
  refine List.any_eq_false.2 fun p hp => ?_
  obtain ⟨hle, hlt⟩ := mem_linePieces hp
  have h3 := (h.2 p.1 hle hlt).2.2.1
  cases peer with
  | false => simpa using h3
  | true => simp [h3, hown rfl p.1 hle hlt]

theorem State.Plain.reads (peer : Bool) (src : Nat) :
    (linePieces (n + 1) pa n).foldl (fun t p => t.outsideReadLine peer src p) s = s := by
  suffices hfold : ∀ ps : List (Nat × Nat), (∀ p ∈ ps, pa ≤ p.1 ∧ p.1 < pa + n) →
      ps.foldl (fun t p => t.outsideReadLine peer src p) s = s from hfold _ fun p hp => mem_linePieces hp
  intro ps
  induction ps with
  | nil => exact fun _ => rfl
  | cons p ps ih =>
    intro hin
    obtain ⟨hle, hlt⟩ := hin p List.mem_cons_self
    obtain ⟨hreg, herr, -, -, -⟩ := h.2 p.1 hle hlt
    have hone : s.outsideReadLine peer src p = s := by
      have hscrub : s.scrub p.1 = s := by
        unfold State.scrub
        rw [hreg]
        dsimp only
        rw [if_pos herr]
      unfold State.outsideReadLine
      dsimp only
      rw [hscrub, h.poisonAt hle hlt]
      simp
    rw [List.foldl_cons, hone]
    exact ih fun q hq => hin q (List.mem_cons_of_mem _ hq)

/-- The answer to a read of plain memory. -/
theorem State.Plain.answerOf (hready : s.creel.ready = true) (peer : Bool) : s.answerOf peer pa n =
    { peer := peer, addr := pa, data := s.bytesAt pa n
      tags := if peer && pa % 128 == 0 && n % 128 == 0 then (List.range (n / 128)).flatMap fun i =>
          leBytes 2 (s.tagAt (pa + 128 * i)).desc.toNat ++ leBytes 4 (s.tagAt (pa + 128 * i)).sc.toNat else []
      poison := false } := by
  have hdata : ((List.range n).map fun i => s.outsideByte (pa + i)) = s.bytesAt pa n := by
    rw [bytesAt_eq_map]
    refine List.map_congr_left fun i hi => h.outsideByte hready (Nat.le_add_right ..) ?_
    have := List.mem_range.1 hi
    omega
  have hpoison : (linePieces (n + 1) pa n).any (fun p => s.poisonAt p.1 && !s.protectedAt p.1) = false :=
    List.any_eq_false.2 fun p hp => by rw [h.poisonAt (mem_linePieces hp).1 (mem_linePieces hp).2]; simp
  have htags : (List.range (n / 128)).flatMap (fun i => s.outsideTag (pa + 128 * i)) = (List.range (n / 128)).flatMap fun i =>
      leBytes 2 (s.tagAt (pa + 128 * i)).desc.toNat ++ leBytes 4 (s.tagAt (pa + 128 * i)).sc.toNat := by
    refine List.flatMap_congr fun i hi => ?_
    have := List.mem_range.1 hi
    rw [State.outsideTag, hready, (h.2 (pa + 128 * i) (by omega) (by omega)).2.2.2.2]
    rfl
  rw [State.answerOf, hdata, hpoison, htags, Bool.and_false]

theorem outsideAccess_read (hready : s.creel.ready = true) {peer : Bool}
    (hown : peer = true → ∀ a, pa ≤ a → a < pa + n → s.ownedByHost a = false) (src : Nat) (data : List Byte) :
    s.outsideAccess peer src pa n false data = { s with answers := s.answers ++ [s.answerOf peer pa n] } := by
  have hend := h.le_hbmEnd
  unfold State.outsideAccess
  dsimp only
  rw [if_neg (by simpa using hend), hready, h.notWaits hown, h.reads]
  rfl

theorem outsideAccess_write (hready : s.creel.ready = true) {peer : Bool}
    (hown : peer = true → ∀ a, pa ≤ a → a < pa + n → s.ownedByHost a = false) {data : List Byte} (hlen : data.length = n)
    (hw : s.NoneWaits pa n) (src : Nat) : BytesBecome s (s.outsideAccess peer src pa n true data) pa data := by
  have hend := h.le_hbmEnd
  have hpieces := bytesBecome_pieces (src := src) (base := pa) (data := data) (n + 1) (Nat.lt_succ_self n) (Nat.le_refl pa)
    (by omega) (fun _ => h) hw
  unfold State.outsideAccess
  dsimp only
  rw [if_neg (by simpa using hend), hready, h.notWaits hown, hlen]
  simpa using hpieces
end

/-- While READY is 0 reads give zeros and writes are dropped (R389). -/
theorem answerOf_notReady (hready : s.creel.ready = false) (peer : Bool) : s.answerOf peer pa n =
    { peer := peer, addr := pa, data := List.replicate n 0
      tags := if peer && pa % 128 == 0 && n % 128 == 0 then (List.range (n / 128)).flatMap fun _ => List.replicate 6 0 else []
      poison := false } := by
  have hdata : ((List.range n).map fun i => s.outsideByte (pa + i)) = List.replicate n 0 := by
    have hzero : (fun i => s.outsideByte (pa + i)) = fun _ => 0 := by
      funext i
      rw [State.outsideByte, hready]
      rfl
    rw [hzero, List.map_const', List.length_range]
  have htag : (fun i => s.outsideTag (pa + 128 * i)) = fun _ => List.replicate 6 0 := by
    funext i
    rw [State.outsideTag, hready]
    rfl
  rw [State.answerOf, hdata, hready, Bool.false_and, htag]

theorem outsideAccess_notReady (hready : s.creel.ready = false) (hend : pa + n ≤ 0x006000000000) (peer : Bool) (src : Nat) (write : Bool)
    (data : List Byte) : s.outsideAccess peer src pa n write data =
      if write then s else { s with answers := s.answers ++ [s.answerOf peer pa n] } := by
  unfold State.outsideAccess
  dsimp only
  rw [decide_eq_false (Nat.not_lt.2 hend : ¬ hbmEnd < pa + n), if_neg Bool.false_ne_true, hready]
  rfl
end

/-! ### Tagged blocks (R381) -/

/-- The tag of line `i` of a block, of the 6 bytes that came with it. -/
def tagIn (tags : List Byte) (i : Nat) : LineTag :=
  { desc := BitVec.ofNat 16 (natIn tags (6 * i) 2), sc := BitVec.ofNat 32 (natIn tags (6 * i + 2) 4) }

theorem natIn_take_drop (l : List Byte) {a k i n : Nat} (h : i + n ≤ k) : natIn ((l.drop a).take k) i n = natIn l (a + i) n := by
  unfold natIn
  refine congrArg leNat (List.map_congr_left fun j hj => ?_)
  have hj := List.mem_range.1 hj
  unfold byteIn
  rw [List.getD_eq_getElem?_getD, List.getD_eq_getElem?_getD, List.getElem?_take_of_lt (by omega), List.getElem?_drop, Nat.add_assoc]

/-- A whole line takes its bytes and its tag. -/
theorem taggedLine_spec {s : State} {pa : Nat} {data tag : List Byte} (hreg : s.region pa = .hbm) (herr : (s.blockAt pa).errors = 0)
    (hprot : s.protectedAt pa = false) (hpa : pa % 128 = 0) (hlen : data.length = 128) :
    LineWritten s (s.taggedLine pa data tag) pa data ∧ (s.taggedLine pa data tag).tagAt pa =
      { desc := BitVec.ofNat 16 (natIn tag 0 2), sc := BitVec.ofNat 32 (natIn tag 2 4) } := by
  have hscrub : s.scrub pa = s := by
    unfold State.scrub
    rw [hreg]
    dsimp only
    rw [if_pos herr]
  unfold State.taggedLine
  dsimp only
  rw [hprot, if_neg Bool.false_ne_true, hscrub]
  constructor
  · refine ((lineWritten_putLine fun a => ?_).recalled _).woken pa
    rw [State.byteAt_putLine]
    split
    · rw [SMap.get_setList, if_pos (by omega), if_pos (by omega)]
      congr 1
      omega
    · rw [if_neg (by omega)]
  · show State.tagAt (s.putLine pa _) pa = _
    rw [State.tagAt_putLine, if_pos rfl]

/-- The state after the first `m` lines of a block. -/
structure TaggedLines (s t : State) (pa : Nat) (data tags : List Byte) (m : Nat) : Prop where
  bytes : BytesBecome s t pa (data.take (128 * m))
  tag : ∀ p, t.tagAt p = if pa / 128 ≤ p / 128 ∧ p / 128 < pa / 128 + m then tagIn tags (p / 128 - pa / 128) else s.tagAt p
  errors : ∀ p, (s.blockAt p).errors = 0 → (t.blockAt p).errors = 0
  protects : ∀ p, t.protectedAt p = s.protectedAt p

theorem taggedLines {s : State} {pa : Nat} {data tags : List Byte} (h : s.Plain pa data.length) (hpa : pa % 128 = 0) : ∀ m,
    128 * m ≤ data.length → TaggedLines s ((List.range m).foldl (fun t i =>
      t.taggedLine (pa + 128 * i) ((data.drop (128 * i)).take 128) ((tags.drop (6 * i)).take 6)) s) pa data tags m := by
  intro m
  induction m with
  | zero =>
    intro _
    refine ⟨fun a => ?_, fun p => (if_neg (by omega)).symm, fun _ h => h, fun _ => rfl⟩
    rw [Nat.mul_zero, List.take_zero, List.length_nil, if_neg (by omega)]
    rfl
  | succ m ih =>
    intro hm
    have ih := ih (by omega)
    rw [List.range_succ, List.foldl_append, List.foldl_cons, List.foldl_nil]
    generalize (List.range m).foldl (fun t i =>
      t.taggedLine (pa + 128 * i) ((data.drop (128 * i)).take 128) ((tags.drop (6 * i)).take 6)) s = t at ih ⊢
    obtain ⟨hreg, herr, -, -, hprot⟩ := h.2 (pa + 128 * m) (by omega) (by omega)
    have hlen : ((data.drop (128 * m)).take 128).length = 128 := by rw [List.length_take, List.length_drop]; omega
    obtain ⟨hone, htag⟩ := taggedLine_spec (s := t) (tag := (tags.drop (6 * m)).take 6)
      (State.region_hbm (State.lt_of_region_hbm hreg)) (ih.errors _ herr) ((ih.protects _).trans hprot) (by omega) hlen
    refine ⟨?_, fun p => ?_, fun p hp => hone.errors p (ih.errors p hp), fun p => (hone.protectedAt p).trans (ih.protects p)⟩
    · have htake : (data.take (128 * m)).length = 128 * m := by rw [List.length_take]; omega
      have hbytes := ih.bytes.append (d := (data.drop (128 * m)).take 128) (by rw [htake]; exact hone.bytes)
      rwa [← List.take_add, ← Nat.mul_succ] at hbytes
    · by_cases hp : p / 128 = pa / 128 + m
      · rw [if_pos (by omega), show p / 128 - pa / 128 = m by omega, tagIn]
        have hat (u : State) : u.tagAt p = u.tagAt (pa + 128 * m) := congrArg (SMap.get LineTag.wiped u.tags) (by omega)
        rw [hat, htag]
        rw [natIn_take_drop _ (by decide), natIn_take_drop _ (by decide)]
        rfl
      · rw [hone.tag p (by omega), ih.tag p]
        exact if_congr (by omega) rfl rfl

/-- A block whose lines arrive with their tags. -/
theorem taggedBlock_spec {s : State} {pa len : Nat} {data tags : List Byte} (hready : s.creel.ready = true) (h : s.Plain pa len)
    (hown : ∀ a, pa ≤ a → a < pa + len → s.ownedByHost a = false) (hok : taggedOk pa len data tags = true) :
    BytesBecome s (s.taggedBlock pa data tags) pa data ∧ ∀ p, (s.taggedBlock pa data tags).tagAt p =
      if pa / 128 ≤ p / 128 ∧ p / 128 < (pa + len) / 128 then tagIn tags (p / 128 - pa / 128) else s.tagAt p := by
  simp only [taggedOk, Bool.and_eq_true, beq_iff_eq, decide_eq_true_eq] at hok
  obtain ⟨⟨⟨⟨hpa, hlines⟩, hlen⟩, -⟩, -⟩ := hok
  subst hlen
  have hend := h.le_hbmEnd
  have hspec := taggedLines (tags := tags) h hpa (data.length / 128) (by omega)
  unfold State.taggedBlock
  rw [hready, h.notWaits fun _ => hown, decide_eq_false (Nat.not_lt.2 hend)]
  constructor
  · have hbytes := hspec.bytes
    rwa [List.take_of_length_le (by omega)] at hbytes
  · intro p
    refine (hspec.tag p).trans (if_congr ?_ rfl rfl)
    omega

/-! ### Accesses through a port -/

section
variable {s : State} {port pa len : Nat}

theorem exec_hostMemAccess (hport : port < 2) (hlink : s.linkUp port = true) (hlen : 0 < len) (write : Bool) (data : List Byte) :
    exec (.hostMemAccess ⟨port, pa⟩ len write data) s = .next (s.outsideAccess false (0x640 + port) pa len write data) :=
  congrArg Host.Outcome.next (if_pos ⟨hport, hlink, Nat.ne_of_gt hlen⟩)

theorem exec_peerAccess {peer : Nat} (hport : port < 16) (hlink : s.linkUp (32 + port) = true) (hpeer : peer < 512) (hlen : 0 < len)
    (write : Bool) (data tags : List Byte) : exec (.peerAccess peer ⟨port, pa⟩ len write data tags) s = .next
      (if tags = [] then s.outsideAccess true (0x660 + port) pa len write data
      else if write && taggedOk pa len data tags then s.taggedBlock pa data tags
      else s) := by
  refine congrArg Host.Outcome.next (if_neg ?_)
  rw [hlink]
  simp only [Bool.true_eq_false, false_or, not_or]
  omega

theorem taggedBlock_notReady (hready : s.creel.ready = false) (data tags : List Byte) : s.taggedBlock pa data tags = s := by
  unfold State.taggedBlock
  rw [hready]
  rfl

/-- What a peer is told of the tags of whole lines (R381). -/
theorem tagsOf_eq (f : Nat → List Byte) : (if true && pa % 128 == 0 && len % 128 == 0 then (List.range (len / 128)).flatMap f else [])
    = if pa % 128 = 0 ∧ len % 128 = 0 then (List.range (len / 128)).flatMap f else [] :=
  if_congr (by simp) rfl rfl
end

/-! ### The host window and the registers (R375 .. R377) -/

section
variable {s : State} {port : Nat}

theorem State.portUp_true (hport : port < 2) (hlink : s.linkUp port = true) : s.portUp port = true := by
  rw [State.portUp, hlink, decide_eq_true hport]
  rfl

theorem exec_lportPost (hup : s.portUp port = true) {n : Nat} (hn : n < 64) (v : Word) :
    exec (.lportPost port n v) s = .next (s.lport n v) :=
  congrArg Host.Outcome.next (if_pos (by rw [hup, decide_eq_true hn]; rfl))

theorem lport_eq (s : State) (n : Nat) (v : Word) : s.lport n v =
    if s.creel.ready = true ∧ s.lqEnabled n = true ∧ s.lqCount n + v.toNat % 65536 ≤ s.lqSize n then
      s.setLq n (s.lqTail n + v.toNat % 65536) (s.lqHead n)
    else s.modCreel fun c => { c with lperr := c.lperr ||| (1#64 <<< n) } := by
  have hcnt : (v.extractLsb' 0 16).toNat = v.toNat % 65536 := by rw [BitVec.extractLsb'_toNat]; rfl
  unfold State.lport
  dsimp only
  rw [hcnt]
  exact if_congr (by simp [and_assoc]) rfl rfl

theorem exec_hostRecodePort (hup : s.portUp port = true) {l : List Byte} (hl : l.length = 32) : exec (.hostRecodePort port l) s =
    .next ((s.submitRecode l true).1.modCreel fun c => { c with hrcstat := BitVec.ofNat 2 (s.submitRecode l true).2 }) :=
  congrArg Host.Outcome.next (if_pos (by rw [hup, hl]; rfl))

theorem exec_hostDecryptionPort (hup : s.portUp port = true) {l : List Byte} (hl : l.length = 64) : exec (.hostDecryptionPort port l) s =
    .next ((s.submitDecrypt l).1.modCreel fun c => { c with dcstat := BitVec.ofNat 2 (s.submitDecrypt l).2 }) :=
  congrArg Host.Outcome.next (if_pos (by rw [hup, hl]; rfl))

/-- The judgement of a decryption record (R382). -/
theorem submitDecrypt_eq (s : State) (l : List Byte) [Decidable (s.decryptBad l)] : s.submitDecrypt l =
    if s.decryptBad l then (s, 2)
    else if 16 ≤ s.decJobs.length then (s, 1)
    else ({ s with decJobs := s.decJobs ++
      [{ src := natIn l 0 8, dst := natIn l 8 8, len := natIn l 16 4, key := natIn l 20 1, iv := (l.drop 24).take 12
         tag := (l.drop 40).take 16, cmpl := natIn l 56 8 }] }, 0) := by
  unfold State.submitDecrypt
  dsimp only
  refine if_congr ?_ rfl rfl
  simp only [State.decryptBad, State.inRange, Bool.or_eq_true, bne_iff_ne, beq_iff_eq, decide_eq_true_eq, Bool.not_eq_true',
    List.any_eq_false, Bool.and_eq_true, not_exists, not_and, Option.isNone_iff_eq_none, or_assoc, Prod.forall]

theorem unmask_eq (p : Port) (v : Nat) : p.unmask v =
    if p.pending.get false v = true then
      { p with unmasked := p.unmasked.set false v true, sent := p.sent ++ [v], pending := p.pending.set false v false }
    else { p with unmasked := p.unmasked.set false v true } := rfl

theorem exec_msixUnmask (hup : s.portUp port = true) {v : Nat} (hv : v < 72) :
    exec (.msixUnmask port v) s = .next (s.modPort port fun p => p.unmask v) :=
  congrArg Host.Outcome.next (if_pos (by rw [hup, decide_eq_true hv]; rfl))

theorem exec_registerWrite_host (hup : s.portUp port = true) (off : Nat) (v : Word) :
    exec (.registerWrite (.hostPort port) off 8 v) s = .next (s.barWrite port off v) :=
  congrArg Host.Outcome.next ((if_neg (by decide)).trans (if_pos hup))

theorem exec_registerWrite_size (w : Writer) (off : Nat) {size : Nat} (h : size ≠ 8) (v : Word) :
    exec (.registerWrite w off size v) s = .next s :=
  congrArg Host.Outcome.next (if_pos h)
end

/-! ### Registers of the Distaff and of supervisor cores (R391, R437) -/

section
variable {s : State} {n : Nat} (hn : n < 8) (w : Writer) (v : Word)
include hn

theorem creelWrite_svvec : s.creelWrite w (0x10800 + 8 * n) v =
    if isDistaff w then s.modCreel fun c => { c with svvec := c.svvec.set 0 n (v &&& 0x000FFFFFFFFFFFFD) } else s := by
  interval_cases n <;> rfl

theorem creelWrite_svring : s.creelWrite w (0x10840 + 8 * n) v =
    if isDistaff w then s.modCreel fun c => { c with svring := c.svring.set 0 n (v &&& 0x000FFFFFFFFFE000) } else s := by
  interval_cases n <;> rfl
end

theorem exec_registerWrite_distaff (s : State) (off : Nat) (v : Word) : exec (.registerWrite .distaff off 8 v) s =
    .next (if s.distaffRuns then s.creelWrite .distaff off v else s) :=
  congrArg Host.Outcome.next (if_neg (by decide))

theorem exec_registerWrite_supervisor (s : State) (k off : Nat) (v : Word) : exec (.registerWrite (.supervisor k) off 8 v) s =
    .next (s.creelWrite (.supervisor k) off v) :=
  congrArg Host.Outcome.next (if_neg (by decide))

theorem exec_expqSubmit {s : State} {k : Nat} (hk : k < 32) (v : Word) : exec (.expqSubmit k v) s = .next (s.submitExport v) :=
  congrArg Host.Outcome.next (if_pos hk)

/-- The judgement of an EXPQ record whose line holds no bit error (R437). -/
theorem submitExport_eq {s : State} {v : Word} (hclean : s.CleanAt (s.homeOf ((v.extractLsb' 6 46).toNat * 64))) :
    let base := s.homeOf ((v.extractLsb' 6 46).toNat * 64)
    let l := s.bytesAt base 64
    ∀ [Decidable (exportBad l ∨ s.physClass base 64 4 = true)], s.submitExport v =
      if exportBad l ∨ s.physClass base 64 4 = true then { s with creel := { s.creel with expqStat := 2 } }
      else if 16 ≤ s.expJobs.length then { s with creel := { s.creel with expqStat := 1 } }
      else { s with
        expJobs := s.expJobs ++ [{ asd := natIn l 0 8, va := natIn l 8 8, dst := natIn l 16 8, pages := natIn l 24 4
                                   tagged := (natIn l 28 1).testBit 0, cmpl := natIn l 32 8 }]
        creel := { s.creel with expqStat := 0 } } := by
  intro base l _
  unfold State.submitExport
  dsimp only
  rw [State.scrub_clean s _ hclean.1 hclean.2, Nat.testBit_zero]
  refine if_congr ?_ rfl rfl
  rw [or_comm (a := exportBad l)]
  simp only [exportBad, Bool.or_eq_true, bne_iff_ne, beq_iff_eq, decide_eq_true_eq, or_assoc]
  rfl

/-! ### Decryption (R382) -/

theorem exec_decryptionJobComplete {s : State} {j : DecJob} {js : List DecJob} (h : s.decJobs = j :: js) : exec .decryptionJobComplete s = .next
    (match s.plaintext j with
      | some p => ((State.physWrite { s with decJobs := js } 0x500 j.dst p).setBytes (hostBase + j.cmpl) (leBytes 8 1 ++ leBytes 8 0)).message 4
      | none => (State.setBytes { s with decJobs := js } (hostBase + j.cmpl) (leBytes 8 2 ++ leBytes 8 0)).message 4) := by
  refine congrArg Host.Outcome.next ?_
  unfold State.decryptDone
  rw [h]
  dsimp only
  cases s.plaintext j <;> rfl

/-- Settles O44: each event in turn, on the states that its clause names. -/
theorem hostsAndPeers : Obligations.HostsAndPeers := by
  classical
  unfold Obligations.HostsAndPeers
  intro s
  refine ⟨fun port peer pa len data => ⟨fun hport hlink => ⟨fun hready hplain => ?host, fun hready hlen hend => ?hostOff⟩,
      fun hport hlink hpeer => ⟨fun hready hplain hown => ?peer, fun hready hlen hend => ?peerOff⟩⟩,
    fun port hport hlink => ?window, fun v => ⟨fun n hn => ?distaff, fun k hk hclean => ?submit⟩, fun j js hjobs => ?decrypt,
    fun n k hn hlcs => congrArg Host.Outcome.next (if_pos ⟨hn, hlcs⟩)⟩
  case host =>
    have hlen := hplain.1
    refine ⟨?_, fun hdata hw => ⟨_, exec_hostMemAccess hport hlink hlen true data,
      outsideAccess_write hplain hready (fun h => absurd h Bool.false_ne_true) hdata hw _⟩⟩
    dsimp only
    rw [exec_hostMemAccess hport hlink hlen, outsideAccess_read hplain hready (fun h => absurd h Bool.false_ne_true), hplain.answerOf hready]
    rfl
  case hostOff =>
    dsimp only
    rw [exec_hostMemAccess hport hlink hlen, exec_hostMemAccess hport hlink hlen, outsideAccess_notReady hready hend,
      outsideAccess_notReady hready hend, answerOf_notReady hready]
    exact ⟨rfl, rfl⟩
  case peer =>
    have hlen := hplain.1
    refine ⟨?_, fun hdata hw => ⟨_, exec_peerAccess hport hlink hpeer hlen true data [],
      outsideAccess_write hplain hready (fun _ => hown) hdata hw _⟩, fun tags hok => ?_⟩
    · dsimp only
      rw [exec_peerAccess hport hlink hpeer hlen, if_pos rfl, outsideAccess_read hplain hready (fun _ => hown), hplain.answerOf hready, tagsOf_eq]
    · have htags : tags ≠ [] := fun h => by
        simp [taggedOk, h] at hok
        omega
      refine ⟨_, (exec_peerAccess hport hlink hpeer hlen true data tags).trans ?_, taggedBlock_spec hready hplain hown hok⟩
      rw [if_neg htags, hok]
      rfl
  case peerOff =>
    refine ⟨?_, fun tags => ?_⟩
    · dsimp only
      rw [exec_peerAccess hport hlink hpeer hlen, if_pos rfl, outsideAccess_notReady hready hend, answerOf_notReady hready, tagsOf_eq]
      rfl
    · dsimp only
      rw [exec_peerAccess hport hlink hpeer hlen, outsideAccess_notReady hready hend, taggedBlock_notReady hready]
      simp
  case window =>
    have hup := State.portUp_true hport hlink
    refine ⟨fun n hn v => ⟨fun hready hq hroom => ?_, fun hfail => ?_⟩, fun l hl => ⟨_, _, recodeJudged_submitRecode s l true,
        exec_hostRecodePort hup hl⟩, fun l hl => ?_, fun v => ⟨?_, ?_, fun off size hsize => exec_registerWrite_size _ off hsize v⟩,
      fun v hv => exec_msixUnmask hup hv⟩
    · rw [exec_lportPost hup hn, lport_eq, if_pos ⟨hready, hq, hroom⟩]
    · rw [exec_lportPost hup hn, lport_eq, if_neg]
      rintro ⟨hready, hq, hroom⟩
      rw [hready, hq] at hfail
      simp only [Bool.true_eq_false, false_or] at hfail
      omega
    · dsimp only
      rw [exec_hostDecryptionPort hup hl, submitDecrypt_eq]
      refine ⟨fun hbad => ?_, fun hok hfull => ?_, fun hok hroom => ?_⟩
      · rw [if_pos hbad]
        rfl
      · rw [if_neg hok, if_pos hfull]
        rfl
      · rw [if_neg hok, if_neg (Nat.not_le.2 hroom)]
        rfl
    · rw [exec_registerWrite_host hup]
      rfl
    · rw [exec_registerWrite_host hup]
      rfl
  case distaff =>
    refine ⟨fun hruns => ?_, fun hstops => ?_, fun k => ?_⟩
    · rw [exec_registerWrite_distaff, exec_registerWrite_distaff, hruns, creelWrite_svvec hn, creelWrite_svring hn]
      exact ⟨rfl, rfl⟩
    · rw [exec_registerWrite_distaff, exec_registerWrite_distaff, hstops]
      exact ⟨rfl, rfl⟩
    · rw [exec_registerWrite_supervisor, exec_registerWrite_supervisor, creelWrite_svvec hn, creelWrite_svring hn]
      exact ⟨rfl, rfl⟩
  case submit =>
    dsimp only
    rw [exec_expqSubmit hk, submitExport_eq hclean]
    refine ⟨fun hbad => ?_, fun hok hdata hfull => ?_, fun hok hdata hroom => ?_⟩
    · rw [if_pos hbad]
    · rw [if_neg (not_or.2 ⟨hok, hdata⟩), if_pos hfull]
    · rw [if_neg (not_or.2 ⟨hok, hdata⟩), if_neg (Nat.not_le.2 hroom)]
  case decrypt =>
    rw [exec_decryptionJobComplete hjobs]
    exact ⟨fun p hp => by rw [hp], fun hnone => by rw [hnone]⟩

end Sys2Proof.Machine
end

section
/-! PROOFS. Traps and faults are taken as supervisor events (R357, R395, R401, R409 .. R413). -/

namespace Sys2Proof.Machine

/-! ### Stores of a context -/

theorem State.performAll_slot {s : State} {slot : Nat} (h : ∀ j, ((s.ctx slot).cl j).stores = []) : s.performAll slot = s := by
  have hnone : ∀ c, s.performStores slot c = s := fun c => by unfold State.performStores; rw [h c]; rfl
  simp only [State.performAll, hnone]

theorem Cluster.advance_stores (x : Cluster) (len : Nat) : (x.advance len).stores = x.stores := by
  unfold Cluster.advance
  dsimp only
  split
  · rfl
  · split
    · rfl
    · split <;> rfl

theorem Cluster.retire_stores (x : Cluster) (len : Nat) : (x.retire len).stores = x.stores := by
  unfold Cluster.retire
  split
  · unfold Cluster.toMember
    dsimp only
    split
    · rfl
    · exact Cluster.advance_stores ..
  · exact Cluster.advance_stores ..

theorem Cluster.leaveConvoy_stores (x : Cluster) : x.leaveConvoy.stores = x.stores := by
  unfold Cluster.leaveConvoy
  split <;> rfl

/-! ### The record in the event ring -/

/-- A record has 64 bytes (R395). -/
theorem Rec.length_bytes (r : Rec) (last : Nat) : (r.bytes last).length = 64 := by
  simp [Rec.bytes, leBytes_length]

/-- A record written into a free place of the ring (R401, R476). -/
theorem physWrite_record {s : State} {pa : Nat} {data : List Byte} (hreg : s.region pa = .hbm) (hpa : pa % 64 = 0) (hlen : data.length = 64)
    (hfree : s.Free pa) (src : Nat) : ∃ t : State, s.physWrite src pa data = t.wakeLine pa ∧ SameAgents s t ∧ BytesStored s t pa data := by
  have hhome : s.homeOf pa = pa := by rw [State.homeOf, hreg]
  have hne : data ≠ [] := fun h => by simp [h] at hlen
  have hline : pa % 128 + data.length ≤ 128 := by omega
  refine ⟨(s.physWriteLine src pa data).recall (pa / 128), ?_, sameAgents_physWriteLine s src pa data, fun hf => ?_⟩
  · rw [State.physWrite_line hne (by rwa [hhome]), hhome, State.physWriteOne, hfree.1, if_neg Bool.false_ne_true]
  · exact State.byteAt_physWriteLine hf (by rw [hreg]; exact PRegion.noConfusion) (by rw [hreg]; exact PRegion.noConfusion) hline src

section
variable {s : State} {slot : Nat} {c : Cl} (hc : s.cur = .cluster slot c)
include hc

/-- The cluster stands where it stood, outside its convoy, and waits for nothing (R413). -/
def State.stopped (s : State) : State := s.modMe fun y => { y.leaveConvoy with run := .running, wait := none }

theorem State.stopped_eq : s.stopped = s.modCtx slot fun x => x.modCl c fun y => { y.leaveConvoy with run := .running, wait := none } :=
  State.modMe_of_cluster hc _

theorem State.ctx_stopped (k : Nat) : s.stopped.ctx k = if k = slot then
    (s.ctx slot).modCl c fun y => { y.leaveConvoy with run := .running, wait := none } else s.ctx k := by
  rw [State.stopped_eq hc]
  split
  · rename_i h
    rw [h, State.ctx_modCtx_same]
  · exact State.ctx_modCtx_ne s _ (Ne.symm ‹_›)

theorem State.cl_stopped (k : Nat) (j : Cl) : (s.stopped.ctx k).cl j =
    if k = slot ∧ j = c then { s.me.leaveConvoy with run := .running, wait := none } else (s.ctx k).cl j := by
  rw [State.ctx_stopped hc, State.me_of_cluster hc]
  by_cases hk : k = slot
  · subst hk
    rw [if_pos rfl]
    by_cases hj : j = c
    · rw [hj, Ctx.cl_modCl_same, if_pos ⟨rfl, rfl⟩]
    · rw [Ctx.cl_modCl_ne _ _ (Ne.symm hj), if_neg fun h => hj h.2]
  · rw [if_neg hk, if_neg fun h => hk h.1]

theorem State.stores_stopped (h : ∀ j, ((s.ctx slot).cl j).stores = []) (j : Cl) : ((s.stopped.ctx slot).cl j).stores = [] := by
  rw [State.cl_stopped hc]
  split
  · exact (Cluster.leaveConvoy_stores _).trans (State.me_of_cluster hc ▸ h c)
  · exact h j

/-- An update of a cluster leaves the rest of its context. -/
theorem State.event_stopped (k : Nat) : (s.stopped.ctx k).event = (s.ctx k).event := by
  rw [State.ctx_stopped hc]
  split
  · rename_i h
    rw [h]
    cases c <;> rfl
  · rfl

variable (hevent : s.myCtx.event = none) (hstores : ∀ j, ((s.ctx slot).cl j).stores = [])
include hevent hstores

/-- An event of a cluster, where the context holds none and has no store outstanding (R401). -/
theorem takeEvent_stopped (r : Rec) : s.stopped.takeEvent slot r .cluster =
    if (s.creel.svvec.get 0 (bobbinOf slot)).getLsbD 0 = true then
      (s.stopped.physWrite slot (s.eventSlot slot) (r.bytes 0)).modCtx slot fun x =>
        { x with event := some { record := r, source := .cluster, core := none, takenAt := 0 } }
    else s.stopped.terminate slot (r.terminated s.timeNs) := by
  have hnone : (s.stopped.ctx slot).event = none := by
    rw [State.event_stopped hc, ← State.myCtx_of_cluster hc, hevent]
  unfold State.takeEvent
  rw [State.performAll_slot (State.stores_stopped hc hstores)]
  dsimp only
  rw [hnone]
  dsimp only
  rw [State.stopped_eq hc]
  rfl

/-- The event is taken where nothing holds its line back. -/
theorem eventTaken_takeEvent (hreg : s.region (s.eventSlot slot) = .hbm) (halign : s.eventSlot slot % 64 = 0)
    (hfree : s.Free (s.eventSlot slot)) (hen : (s.creel.svvec.get 0 (bobbinOf slot)).getLsbD 0 = true) (r : Rec) :
    EventTaken s (s.stopped.takeEvent slot r .cluster) slot c r := by
  have hframe := State.stopped_eq hc
  obtain ⟨t, ht, hagents, hbytes⟩ := physWrite_record (s := s.stopped) (pa := s.eventSlot slot) (data := r.bytes 0)
    (by rw [hframe]; exact hreg) halign (Rec.length_bytes r 0) (by rw [hframe]; exact hfree) slot
  have hctx (k : Nat) : (t.wakeLine (s.eventSlot slot)).ctx k = (s.stopped.ctx k).withClusters fun j =>
      Cluster.afterWrite ((s.stopped.ctx k).cl j) (s.eventSlot slot) := by
    unfold State.wakeLine
    rw [State.ctx_wakeAll, Ctx.modAll_eq, hagents.ctx]
    simp only [Cluster.wakeIf_onLine]
  have hcl (k : Nat) (j : Cl) : ((t.wakeLine (s.eventSlot slot)).ctx k).cl j =
      if k = slot ∧ j = c then { s.me.leaveConvoy with run := .running, wait := none }
      else Cluster.afterWrite ((s.ctx k).cl j) (s.eventSlot slot) := by
    rw [hctx, Ctx.cl_withClusters, State.cl_stopped hc]
    split
    · exact if_neg fun h => by cases h.1
    · rfl
  have hrest (k : Nat) : (t.wakeLine (s.eventSlot slot)).ctx k = { s.ctx k with
      c := ((t.wakeLine (s.eventSlot slot)).ctx k).c, a := ((t.wakeLine (s.eventSlot slot)).ctx k).a
      v := ((t.wakeLine (s.eventSlot slot)).ctx k).v, m := ((t.wakeLine (s.eventSlot slot)).ctx k).m } := by
    rw [hctx, State.ctx_stopped hc]
    split
    · rename_i h
      subst h
      cases c <;> rfl
    · rfl
  rw [takeEvent_stopped hc hevent hstores, if_pos hen, ht]
  generalize hu : t.wakeLine (s.eventSlot slot) = u at hcl hrest
  refine ⟨?_, ?_, fun hf a => ?_, fun k => ?_, fun k j => ?_⟩
  · subst hu
    exact hagents.cur.trans (congrArg State.cur hframe :)
  · unfold State.mayIssue
    rw [State.ctx_modCtx_same]
    simp
  · subst hu
    refine (hbytes (by rw [hframe]; exact hfree) a).trans ?_
    rw [hframe]
    rfl
  · by_cases hk : k = slot
    · subst hk
      rw [State.ctx_modCtx_same, if_pos rfl, hrest k]
    · rw [State.ctx_modCtx_ne _ _ (Ne.symm hk), if_neg hk, hrest k]
  · rw [← hcl k j]
    by_cases hk : k = slot
    · subst hk
      rw [State.ctx_modCtx_same]
      cases j <;> rfl
    · rw [State.ctx_modCtx_ne _ _ (Ne.symm hk)]
end

/-! ### Traps and faults -/

section
variable {s : State} {slot : Nat} {c : Cl} (hc : s.cur = .cluster slot c)
include hc

theorem infoLow_eq : s.infoLow = c.code + (s.me.convoy.elim 0 fun v => (v.next + 1) * 4) + (if s.me.reel.isSome then 32 else 0) := by
  have hcl : s.cl = c := by rw [State.cl, hc]
  unfold State.infoLow
  dsimp only
  rw [hcl]
  cases s.me.convoy <;> rfl

theorem halt_trap_cluster (cause : BitVec 32) (addr info : Word) : s.halt (.trap cause addr info) =
    s.stopped.takeEvent slot (s.ctxRec slot 1 cause s.me.pc addr (info ||| BitVec.ofNat 64 s.infoLow)) .cluster := by
  unfold State.halt
  rw [hc]
  rfl

theorem halt_fault_cluster (cause : BitVec 32) (addr info : Word) : s.halt (.fault cause addr info) =
    s.stopped.takeEvent slot (s.ctxRec slot 2 cause s.me.pc addr (info ||| BitVec.ofNat 64 c.code)) .cluster := by
  unfold State.halt
  rw [hc]
  rfl
end

theorem ctxRec_some {s : State} {slot task : Nat} {wid : Word} (h : (s.ctx slot).hank = some (task, wid)) (cls : Nat) (cause : BitVec 32)
    (pc addr info : Word) : s.ctxRec slot cls cause pc addr info =
      { ts := s.timeNs, src := slot, cls := cls, cause := cause, task := task, hwid := wid, pc := pc, addr := addr, info := info } := by
  rw [State.ctxRec, h]

/-- Settles O40: `takeEvent` on a context without event and without stores, by the bit EN. -/
theorem eventsAreTaken : Obligations.EventsAreTaken := by
  unfold Obligations.EventsAreTaken
  intro s slot c task wid hc hhank hevent hreg halign hfree hstores low rec1
  have hlow : s.infoLow = low := infoLow_eq hc
  have hrec := ctxRec_some (s := s) (slot := slot) (State.myCtx_of_cluster hc ▸ hhank)
  refine ⟨fun hen => ⟨fun cause addr info => ?_, fun cause addr info => ?_, fun g code hg => ?_⟩,
    fun hen => ⟨fun cause addr info => ?_, fun cause addr info => ?_⟩⟩
  · rw [halt_trap_cluster hc, hrec, hlow]
    exact eventTaken_takeEvent hc hevent hstores hreg halign hfree hen _
  · rw [halt_fault_cluster hc, hrec]
    exact eventTaken_takeEvent hc hevent hstores hreg halign hfree hen _
  · have hframe : s.retire 4 = s.modCtx slot fun x => x.modCl c fun y => y.retire 4 := State.modMe_of_cluster hc _
    have hctx : (s.retire 4).ctx slot = (s.ctx slot).modCl c fun y => y.retire 4 := by rw [hframe, State.ctx_modCtx_same]
    have hc' : (s.retire 4).cur = .cluster slot c := (State.cur_modMe ..).trans hc
    have hexec : exec (.trap g code) s = .next ((s.retire 4).halt (.trap (BitVec.ofNat 32 (0x8000 + code.toNat)) 0 0)) := if_pos hg
    refine ⟨_, hexec, ?_⟩
    have hhank' : ((s.retire 4).ctx slot).hank = some (task, wid) := by
      rw [hctx, ← State.myCtx_of_cluster hc, ← hhank]
      cases c <;> rfl
    have hevent' : (s.retire 4).myCtx.event = none := by
      rw [State.myCtx_of_cluster hc', hctx, ← State.myCtx_of_cluster hc, ← hevent]
      cases c <;> rfl
    have hstores' (j : Cl) : (((s.retire 4).ctx slot).cl j).stores = [] := by
      rw [hctx]
      by_cases hj : j = c
      · rw [hj, Ctx.cl_modCl_same, Cluster.retire_stores, hstores]
      · rw [Ctx.cl_modCl_ne _ _ (Ne.symm hj), hstores]
    have hme : (s.retire 4).me = s.me.retire 4 := State.me_modMe ..
    rw [halt_trap_cluster hc', ctxRec_some hhank', show ∀ w : Word, 0 ||| w = w from fun _ => BitVec.zero_or, hme]
    have htaken := eventTaken_takeEvent hc' hevent' hstores' (by rw [hframe]; exact hreg) (by rw [hframe]; exact halign)
      (by rw [hframe]; exact hfree) (by rw [hframe]; exact hen)
      (rec1 1 (BitVec.ofNat 32 (0x8000 + code.toNat)) (s.me.retire 4).pc 0 (BitVec.ofNat 64 (s.retire 4).infoLow))
    rwa [show (s.retire 4).timeNs = s.timeNs by rw [hframe]; rfl]
  · rw [halt_trap_cluster hc, hrec, hlow, takeEvent_stopped hc hevent hstores, hen]
    rfl
  · rw [halt_fault_cluster hc, hrec, takeEvent_stopped hc hevent hstores, hen]
    rfl

end Sys2Proof.Machine
end

section
/-! PROOFS. Gathers: the rows of a load that can be read are read (R265, R301, R328, R421). -/

namespace Sys2Proof.Machine

/-! ### Checks that all pass -/

/-- Accesses that all succeed, as the list of their results. -/
theorem map_eq_ok {α β : Type} {f : α → Except Deny β} {l : List α} {xs : List β} (h : List.Forall₂ (fun a x => f a = .ok x) l xs) :
    l.map f = xs.map .ok := by
  induction h with
  | nil => rfl
  | cons ha _ ih => rw [List.map_cons, List.map_cons, ha, ih]

/-- A list of accesses without a denial. -/
theorem allOk_map {α β : Type} {f : α → Except Deny β} {l : List α} {xs : List β} (h : List.Forall₂ (fun a x => f a = .ok x) l xs) :
    allOk (l.map f) = .ok xs := by
  rw [map_eq_ok h]
  unfold allOk
  simp [List.filterMap_map, worst]

theorem allOk_units {l : List (Except Deny Unit)} (h : ∀ e ∈ l, e = .ok ()) : ∃ r, allOk l = .ok r := by
  have hl : l = (List.replicate l.length ()).map .ok := List.eq_replicate_iff.2 ⟨rfl, h⟩ |>.trans (List.map_replicate ..).symm
  rw [hl]
  exact ⟨_, allOk_map (xs := List.replicate l.length ()) (List.forall₂_same.2 fun _ _ => rfl)⟩

theorem cutInto_map {α β : Type} (f : α → β) : ∀ (ns : List Nat) (l : List α), cutInto ns (l.map f) = (cutInto ns l).map (List.map f)
  | [], _ => rfl
  | n :: ns, l => by rw [cutInto, cutInto, List.map_cons, ← cutInto_map f ns, List.map_take, List.map_drop]

/-- A row whose base is aligned. -/
theorem rowDeny_ok {s : State} {slot : Nat} {base : Word} {p : Option Par} {xs : List Xlate}
    (h : ∀ q f, p = some q → firstFmt (xs.map fun x => (x, s.accessLine slot x)) = some f → q.baseBad f base = false) (k : MemKind) :
    s.rowDeny slot k base p (xs.map .ok) = .ok () := by
  have hlines : ((xs.map Except.ok : List (Except Deny Xlate)).filterMap fun x => x.toOption.map fun x => (x, s.accessLine slot x))
      = xs.map fun x => (x, s.accessLine slot x) := by
    rw [List.filterMap_map]
    exact List.filterMap_eq_map (f := fun x => (x, s.accessLine slot x)) ▸ rfl
  unfold State.rowDeny
  dsimp only
  rw [hlines]
  split
  · rename_i q f hf
    rw [h q f rfl hf]
    rfl
  · rfl

theorem rowsDeny_ok {s : State} {slot : Nat} {rows : List Row} {rs : List (List Spot × Option Par)} {xs : List Xlate}
    (h : s.BasesFit slot rows rs xs) (k : MemKind) :
    ∀ e ∈ (rows.zip ((rs.map Prod.snd).zip (cutInto (rs.map fun r => r.1.length) (xs.map Except.ok)))).map
      (fun p => s.rowDeny slot k p.1.base p.2.1 p.2.2), e = .ok () := by
  intro e he
  rw [cutInto_map, List.zip_map_right, List.zip_map_right, List.map_map] at he
  obtain ⟨p, hp, rfl⟩ := List.mem_map.1 he
  exact rowDeny_ok (h p hp) k

theorem firstTransit_none {ls : List (Xlate × Line)} (h : ∀ p ∈ ls, p.2.tag.cls p.1.typed p.1.par.w ≠ .transit) : firstTransit ls = none :=
  List.findSome?_eq_none_iff.2 fun p hp => if_neg (by simpa using h p hp)

/-! ### Gathering -/

section
variable {s t : State} {slot : Nat} {rows : List Row} {contig : Bool} {xs : List Xlate} {gs : List (Nat × Got)}

/-- Rows that can be read are opened, and leave the state `t`. -/
theorem openRows_go (h : s.GathersRows slot rows contig xs gs t) : ∃ sps : List Spot, sps.length = xs.length
    ∧ Comp.go (openRows slot .read rows contig) s = (.ok (sps.zip xs), t)
    ∧ List.Forall₂ (fun p g => (t.accessLine slot p.2).read p.2.typed p.2.par.w p.2.par.ppol (p.2.va % 128) p.1.nib = .ok g.2
      ∧ g.1 = p.1.i) (sps.zip xs) gs := by
  obtain ⟨rs, hrs, hxs, ht, htransit, hfit, hread⟩ := h
  refine ⟨_, hxs.length_eq, ?_, hread⟩
  unfold openRows
  rw [Comp.go_bind_ok (Comp.go_update ..), Comp.go_bind_ok (Comp.go_get _), allOk_map hrs, Comp.go_bind_ok (Comp.go_ofDeny_ok ..)]
  dsimp only
  rw [Comp.go_bind_ok (Comp.go_update ..), Comp.go_bind_ok (Comp.go_get _)]
  generalize hs2 : State.prewalks (s.prewalks slot ((rows.filter fun r => !r.is.isEmpty).map Row.base)) slot
    ((rs.flatMap Prod.fst).map Spot.va) = s2 at *
  obtain ⟨r1, hr1⟩ := allOk_units (l := ((rs.flatMap Prod.fst).map (s2.spotReach slot .read)).map (fun e => e.map fun _ => ())
    ++ if contig then (rows.zip ((rs.map Prod.snd).zip (cutInto (rs.map fun r => r.1.length)
        ((rs.flatMap Prod.fst).map (s2.spotReach slot .read))))).map fun p => s2.rowDeny slot .read p.1.base p.2.1 p.2.2 else []) (by
    intro e he
    rw [map_eq_ok hxs] at he
    rcases List.mem_append.1 he with he | he
    · obtain ⟨x, hx, rfl⟩ := List.mem_map.1 he
      obtain ⟨y, -, rfl⟩ := List.mem_map.1 hx
      rfl
    · cases contig with
      | false => exact absurd he List.not_mem_nil
      | true => exact rowsDeny_ok (hfit rfl).1 .read e he)
  obtain ⟨r2, hr2⟩ := allOk_units (l := if contig then (rows.zip ((rs.map Prod.snd).zip (cutInto (rs.map fun r => r.1.length)
        (xs.map Except.ok)))).map fun p => t.rowDeny slot .read p.1.base p.2.1 p.2.2 else []) (by
    intro e he
    cases contig with
    | false => exact absurd he List.not_mem_nil
    | true => exact rowsDeny_ok (hfit rfl).2 .read e he)
  rw [hr1, Comp.go_bind_ok (Comp.go_ofDeny_ok ..), allOk_map hxs, Comp.go_bind_ok (Comp.go_ofDeny_ok ..),
    Comp.go_bind_ok (Comp.go_update ..), ← ht, Comp.go_bind_ok (Comp.go_get _), firstTransit_none]
  · dsimp only
    rw [hr2, Comp.go_bind_ok (Comp.go_ofDeny_ok ..), Comp.go_pure]
  · intro p hp
    obtain ⟨x, hx, rfl⟩ := List.mem_map.1 hp
    exact htransit x hx

/-- A gather without POISON returns its elements. -/
theorem gatherRows_go (h : s.GathersRows slot rows contig xs gs t) (hdata : ∀ g ∈ gs, g.2.poison = false) :
    Comp.go (gatherRows slot .read rows contig) s = (.ok { els := gs, zeroed := [], first := xs.head? }, t) := by
  obtain ⟨sps, hlen, hopen, hread⟩ := openRows_go h
  have hgs : allOk ((sps.zip (xs.map fun x => (x, t.accessLine slot x))).map fun p =>
      match p.2.2.read p.2.1.typed p.2.1.par.w p.2.1.par.ppol (p.2.1.va % 128) p.1.nib with
      | .error e => .error (lineDeny .read p.2.1 noLate e)
      | .ok g => .ok (p.1.i, g)) = .ok gs := by
    rw [List.zip_map_right, List.map_map]
    refine allOk_map (hread.imp fun p g hg => ?_)
    obtain ⟨hg, hi⟩ := hg
    dsimp only [Function.comp_apply, Prod.map, id_eq]
    rw [hg, ← hi]
  have hnone : ((gs.zip xs).filter fun p => p.1.2.poison) = [] := List.filter_eq_nil_iff.2 fun p hp => by
    rw [hdata p.1 (List.of_mem_zip hp).1]
    exact Bool.false_ne_true
  unfold gatherRows
  rw [Comp.go_bind_ok hopen]
  dsimp only
  rw [Comp.go_bind_ok (Comp.go_get _), List.map_fst_zip (Nat.le_of_eq hlen), List.map_snd_zip (Nat.le_of_eq hlen.symm)]
  refine (Comp.go_bind_ok ((congrArg (fun r => Comp.go (ofDeny r) t) hgs).trans (Comp.go_ofDeny_ok ..))).trans ?_
  rw [hnone]
  rfl
end

theorem gather_go {s t : State} {slot : Nat} {base : Word} {pl : Places} {contig : Bool} {is : List Nat} {xs : List Xlate}
    {gs : List (Nat × Got)} (h : s.Gathers slot base pl contig is xs gs t) (hdata : ∀ g ∈ gs, g.2.poison = false) :
    Comp.go (gather slot .read base pl contig is) s = (.ok { els := gs, zeroed := [], first := xs.head? }, t) :=
  gatherRows_go h hdata

/-- Without POISON there is nothing to fill in (R429). -/
theorem fillAux_data : ∀ {gs : List (Nat × Got)} (f : Fmt) (b : Nat), (∀ g ∈ gs, g.2.poison = false) → fillAux f b gs = gs
  | [], _, _, _ => rfl
  | (i, g) :: gs, f, b, h => by
    have hg : g.poison = false := h (i, g) List.mem_cons_self
    rw [fillAux, hg, if_neg Bool.false_ne_true, fillAux_data g.fmt g.blk fun q hq => h q (List.mem_cons_of_mem _ hq)]

theorem filled_data {gs : List (Nat × Got)} (h : ∀ g ∈ gs, g.2.poison = false) (zeroed : List Nat) (first : Option Xlate) :
    Gathered.filled { els := gs, zeroed := zeroed, first := first } = gs := by
  unfold Gathered.filled
  split <;> exact fillAux_data _ _ h

/-! ### What a gather keeps -/

/-- Of contexts only what they hold back has changed, and the agents, banks and lanes are the same. -/
structure Observed (s t : State) : Prop where
  ctx : ∀ k, t.ctx k = { s.ctx k with held := (t.ctx k).held }
  cur : t.cur = s.cur
  banks : t.banks = s.banks
  retired : t.retired = s.retired

theorem SameAgents.observed {s t : State} (h : SameAgents s t) : Observed s t where
  ctx k := by rw [h.ctx]
  cur := h.cur
  banks := by obtain ⟨-, -, -, -, -, -, -, -, -, -, -, -, hbanks, -⟩ := h; exact hbanks
  retired := by obtain ⟨-, -, -, -, -, -, -, -, -, -, -, -, -, hretired, -⟩ := h; exact hretired

namespace Observed
variable {s t u : State}

theorem trans (h : Observed s t) (k : Observed t u) : Observed s u where
  ctx j := by rw [k.ctx j, h.ctx j]
  cur := k.cur.trans h.cur
  banks := k.banks.trans h.banks
  retired := k.retired.trans h.retired

theorem foldl {α : Type} {f : State → α → State} (hf : ∀ s a, Observed s (f s a)) : ∀ (l : List α) (s : State), Observed s (l.foldl f s)
  | [], s => (SameAgents.refl s).observed
  | a :: l, s => (hf s a).trans (foldl hf l _)
end Observed

theorem observed_contained (s : State) (slot : Nat) (r : Rec) : Observed s (s.contained slot r) := by
  unfold State.contained
  split
  · refine ⟨fun k => ?_, rfl, rfl, rfl⟩
    by_cases hk : slot = k
    · subst hk
      rw [State.ctx_modCtx_same]
    · rw [State.ctx_modCtx_ne _ _ hk]
  · exact (sameAgents_report s r).observed

theorem observed_prewalks (s : State) (slot : Nat) (vas : List Word) : Observed s (s.prewalks slot vas) :=
  Observed.foldl (fun _ _ => (sameAgents_prewalk ..).observed) vas s

theorem observed_touch (s : State) (xs : List Xlate) : Observed s (s.touch xs) :=
  (Observed.foldl (fun _ _ => (sameAgents_useXlate ..).observed) _ s).trans
    (Observed.foldl (fun _ _ => (sameAgents_scrub ..).observed) _ _)

theorem State.GathersRows.observed {s t : State} {slot : Nat} {rows : List Row} {contig : Bool} {xs : List Xlate} {gs : List (Nat × Got)}
    (h : s.GathersRows slot rows contig xs gs t) : Observed s t := by
  obtain ⟨rs, -, -, ht, -⟩ := h
  rw [ht]
  exact (((observed_prewalks ..).trans (observed_prewalks ..)).trans (observed_touch ..)).trans
    (Observed.foldl (fun _ _ => observed_contained ..) _ _)

namespace Observed
variable {s t : State} (h : Observed s t)
include h

theorem slot : t.slot = s.slot := by rw [State.slot, h.cur, State.slot]
theorem myCtx : t.myCtx = { s.myCtx with held := t.myCtx.held } := by rw [State.myCtx, h.slot, h.ctx]; rfl
theorem isSup : t.isSup = s.isSup := by rw [State.isSup, h.cur, State.isSup]
theorem vl : t.vl = s.vl := by rw [State.vl, h.myCtx]; rfl
theorem vlmax (f : Fmt) : t.vlmax f = s.vlmax f := by
  rw [State.vlmax, State.vlmax, h.myCtx, h.slot, State.laneCount, State.laneCount, State.lanes, State.lanes, h.retired]
theorem vreg (r : RegF) : t.vreg r = s.vreg r := by rw [State.vreg, h.myCtx]; rfl
theorem whole (hw : s.Whole) : t.Whole := by
  unfold State.Whole
  rw [h.myCtx]
  exact hw
end Observed

end Sys2Proof.Machine
end

section
/-! PROOFS. Vector loads, and vector accesses of the scratchpad (R301 .. R303). -/

namespace Sys2Proof.Machine

/-! ### The numbers of the elements that a gather returns -/

theorem rowSpots_numbers {s : State} {slot : Nat} {k : MemKind} {r : Row} {p : List Spot × Option Par}
    (h : s.rowSpots slot k r = .ok p) : p.1.map Spot.i = r.is.map (r.off + ·) := by
  have hspots : ∀ q, s.spots slot k r.base r.pl r.is = .ok q → q.1.map Spot.i = r.is := by
    intro q hq
    unfold State.spots at hq
    split at hq
    · cases hq
      rw [‹r.is = []›]
      rfl
    · cases hq
      rw [List.map_map]
      exact List.map_id _
    all_goals
      cases hpar : s.basePar slot k r.base with
      | error d => rw [hpar] at hq; cases hq
      | ok x =>
        rw [hpar] at hq
        cases hq
        rw [List.map_map]
        exact List.map_id _
  unfold State.rowSpots at h
  cases hq : s.spots slot k r.base r.pl r.is with
  | error d => rw [hq] at h; cases h
  | ok q =>
    rw [hq] at h
    cases h
    rw [List.map_map, ← hspots q hq, List.map_map]
    rfl

theorem rowsSpots_numbers {s : State} {slot : Nat} {k : MemKind} {rows : List Row} {rs : List (List Spot × Option Par)}
    (h : List.Forall₂ (fun r p => s.rowSpots slot k r = .ok p) rows rs) :
    (rs.flatMap Prod.fst).map Spot.i = rows.flatMap fun r => r.is.map (r.off + ·) := by
  induction h with
  | nil => rfl
  | cons hr _ ih => rw [List.flatMap_cons, List.flatMap_cons, List.map_append, ih, rowSpots_numbers hr]

theorem readSpots_numbers {P : Spot × Xlate → Nat × Got → Prop} {ps : List (Spot × Xlate)} {gs : List (Nat × Got)}
    (h : List.Forall₂ (fun p g => P p g ∧ g.1 = p.1.i) ps gs) : gs.map Prod.fst = (ps.map Prod.fst).map Spot.i := by
  induction h with
  | nil => rfl
  | cons hg _ ih => rw [List.map_cons, List.map_cons, List.map_cons, ih, hg.2]

/-- The elements come row by row, in order. -/
theorem State.GathersRows.numbers {s t : State} {slot : Nat} {rows : List Row} {contig : Bool} {xs : List Xlate} {gs : List (Nat × Got)}
    (h : s.GathersRows slot rows contig xs gs t) : gs.map Prod.fst = rows.flatMap fun r => r.is.map (r.off + ·) := by
  obtain ⟨rs, hrs, hxs, -, -, -, hread⟩ := h
  rw [readSpots_numbers hread, List.map_fst_zip (Nat.le_of_eq hxs.length_eq), rowsSpots_numbers hrs]

theorem State.Gathers.numbers {s t : State} {slot : Nat} {base : Word} {pl : Places} {contig : Bool} {is : List Nat} {xs : List Xlate}
    {gs : List (Nat × Got)} (h : s.Gathers slot base pl contig is xs gs t) : gs.map Prod.fst = is := by
  have hnum := State.GathersRows.numbers h
  simpa using hnum

/-- A gather of nothing leaves the state. -/
theorem State.Gathers.nothing {s t : State} {slot : Nat} {base : Word} {pl : Places} {contig : Bool} {xs : List Xlate}
    {gs : List (Nat × Got)} (h : s.Gathers slot base pl contig [] xs gs t) : gs = [] ∧ t = s := by
  have hgs : gs = [] := List.map_eq_nil_iff.1 h.numbers
  obtain ⟨rs, hrs, hxs, ht, -⟩ := h
  have hspots : rs.flatMap Prod.fst = [] := by
    cases hrs with
    | cons hr hrs =>
      cases hrs
      have hnum := rowSpots_numbers hr
      simpa using hnum
  rw [hspots] at hxs ht
  cases hxs
  exact ⟨hgs, ht⟩

/-- The first entry of a number, where no two entries have one. -/
theorem find?_number {l : List (Nat × Got)} (hn : (l.map Prod.fst).Nodup) {p : Nat × Got} (hp : p ∈ l) :
    (l.find? fun q => q.1 == p.1) = some p := by
  induction l with
  | nil => exact absurd hp List.not_mem_nil
  | cons q l ih =>
    obtain ⟨hq, hn⟩ := List.nodup_cons.1 (List.map_cons ▸ hn)
    rcases List.mem_cons.1 hp with rfl | hp
    · exact List.find?_cons_of_pos (beq_self_eq_true _)
    · rw [List.find?_cons_of_neg, ih hn hp]
      intro h
      exact hq (List.mem_map.2 ⟨p, hp, (beq_iff_eq.1 h).symm⟩)

/-! ### What a load puts -/

theorem put_loaded {g : Got} (h : g.poison = false) (f : Fmt) (blk : Nat) : g.put f blk = loadedPut f blk g := by
  unfold Got.put loadedPut
  rw [h, if_neg Bool.false_ne_true]
  exact if_congr (by simp) rfl rfl

theorem loadedPut_live (f : Fmt) (blk : Nat) (g : Got) : (loadedPut f blk g).live = true := by
  unfold loadedPut
  split <;> rfl

theorem mixedNone_uniform {l : List Got} {f : Fmt} (h : ∀ g ∈ l, g.fmt = Fmt.none ↔ f = Fmt.none) : mixedNone l = false := by
  unfold mixedNone
  dsimp only
  by_cases hf : f = Fmt.none
  · rw [Bool.and_eq_false_iff]
    refine .inr (List.any_eq_false.2 fun g hg => ?_)
    simpa using (h g (List.mem_of_mem_filter hg)).2 hf
  · rw [Bool.and_eq_false_iff]
    refine .inl (List.any_eq_false.2 fun g hg => ?_)
    simpa using fun hnone => hf ((h g (List.mem_of_mem_filter hg)).1 hnone)

theorem loadVsum_data {n : Nat} {gs : List (Nat × Got)} (hne : gs ≠ []) (h : ∀ g ∈ gs, g.2.poison = false) :
    loadVsum n (gs.map Prod.snd) = if n ≤ gs.length ∧ ∀ q ∈ gs, q.2.zero = true then vsZero else vsValid := by
  have hpoison : (gs.map Prod.snd).any Got.poison = false := List.any_eq_false.2 fun g hg => by
    obtain ⟨p, hp, rfl⟩ := List.mem_map.1 hg
    rw [h p hp]
    exact Bool.false_ne_true
  unfold loadVsum
  rw [hpoison, if_neg Bool.false_ne_true]
  refine if_congr ?_ rfl rfl
  simp [hne]

/-! ### The checks of a load -/

theorem vmemChecks_load {s : State} {ys : List VSrc} (hfit : s.SourcesFit ys) (hint : ∀ y ∈ ys, y.fmt.isInt = true) :
    Allowed (s.vmemChecks ys [] false) := by
  refine allowed_append.2 ⟨allowed_append.2 ⟨allowed_append.2 ⟨allowed_append.2 ⟨allowed_nil, vlChecks_ok hfit⟩, allowed_nil⟩, ?_⟩,
    countChecks_ok hfit⟩
  intro c hc
  obtain ⟨y, hy, rfl⟩ := List.mem_map.1 hc
  exact hint y hy

namespace Observed
variable {s t : State} (h : Observed s t)
include h

theorem destRoom {d : VField} {pops : List Nat} {f : Fmt} (hroom : s.DestRoom d pops f) : t.DestRoom d pops f := by
  have hqueue (q : Nat) : (t.popAll pops).queue q = (s.popAll pops).queue q := by
    rw [queue_popAll, queue_popAll, State.queue, State.queue, h.myCtx]
    rfl
  unfold State.DestRoom
  rw [h.vl, hqueue]
  exact hroom

theorem keepCheck (d : VField) (z : Bool) (act : Nat → Bool) (f : Fmt) : t.keepCheck d z act f = s.keepCheck d z act f := by
  rw [State.keepCheck, h.vl, h.vreg, State.keepCheck]
end Observed

/-! ### A global load -/

section
variable {s t : State} {slot : Nat} (hc : s.cur = .cluster slot .V) {d a : RegF} {m : VMods} {ix : List VField} {ys : List VSrc}
  {xs : List Xlate} {gs : List (Nat × Got)} (hopen : s.Opens ix [fieldD d m] ys) (hfit : s.SourcesFit ys)
  (hint : ∀ y ∈ ys, y.fmt.isInt = true) (hkept : (fieldD d m).q = true ∨ (s.myCtx.vregs.get .initial d.toNat).missing = [])

/-- The elements that a load reads. -/
def State.loads (s : State) (m : VMods) (ys : List VSrc) (j : Nat) : Bool := s.active m.mask j && (indicesOf ys).has j

theorem loads_filter (s : State) (m : VMods) (ys : List VSrc) :
    (s.actives m.mask).filter (indicesOf ys).has = (List.range s.vl).filter (s.loads m ys) := by
  unfold State.actives
  rw [List.filter_filter]
  exact List.filter_congr fun j _ => Bool.and_comm ..

theorem loads_lt {j : Nat} (h : s.loads m ys j = true) : j < s.vl := by
  unfold State.loads State.active at h
  simp only [Bool.and_eq_true, decide_eq_true_eq] at h
  exact h.1.1.1

theorem contains_loads (s : State) (m : VMods) (ys : List VSrc) (j : Nat) :
    ((List.range s.vl).filter (s.loads m ys)).contains j = s.loads m ys j := by
  rw [Bool.eq_iff_iff, List.contains_iff_mem, List.mem_filter, List.mem_range]
  exact ⟨And.right, fun h => ⟨loads_lt h, h⟩⟩

variable (hgather : s.Gathers slot (s.readS a) (if ix.isEmpty then .positions (indicesOf ys).pos else .indexed (indicesOf ys).pos)
    ix.isEmpty ((List.range s.vl).filter (s.loads m ys)) xs gs t) (hdata : ∀ p ∈ gs, p.2.poison = false)
include hc hopen hfit hint hgather hdata

/-- A load without an active element only pops its index operand. -/
theorem vecLoad_nothing (hnone : ∀ j, s.loads m ys j = false) :
    Comp.go (vecLoad (fieldD d m) m a ix) s = (.ok (), s.popAll (queuesOf ix)) := by
  have hempty : (List.range s.vl).filter (s.loads m ys) = [] := List.filter_eq_nil_iff.2 fun j _ => by
    rw [hnone j]
    exact Bool.false_ne_true
  have hgo := gather_go hgather hdata
  rw [hempty] at hgather hgo
  obtain ⟨rfl, rfl⟩ := hgather.nothing
  unfold vecLoad
  rw [Comp.go_bind_ok (Comp.go_get _), openVec_ok_pre hopen, Comp.go_bind_ok (Comp.go_ofStop_ok ..),
    firstOf_ok (vmemChecks_load hfit hint), Comp.go_bind_ok (Comp.go_ofStop_ok ..)]
  dsimp only
  rw [loads_filter, hempty, State.slot_of_cluster hc, placesFor, Comp.go_bind_ok hgo, Comp.go_bind_ok (Comp.go_get _), filled_data hdata]
  rfl

include hkept

/-- A load of some elements. -/
theorem vecLoad_some {p : Nat × Got} {l : List (Nat × Got)} (hgs : gs = p :: l)
    (hnone : ∀ q ∈ gs, q.2.fmt = Fmt.none ↔ p.2.fmt = Fmt.none) (hvl : s.vl ≤ s.vlmax p.2.fmt)
    (hkeep : (s.keepCheck (fieldD d m) m.z (s.loads m ys) p.2.fmt).1 = true) (hroom : s.DestRoom (fieldD d m) (queuesOf ix) p.2.fmt) :
    ∃ u, Comp.go (vecLoad (fieldD d m) m a ix) s = (.ok (), u) ∧ VecWrittenOn t u (fieldD d m) m.z (s.loads m ys) (queuesOf ix)
      (loadResult s.vl gs p.2.fmt p.2.blk) := by
  have hgo := gather_go hgather hdata
  have hobs := hgather.observed
  have hnum := hgather.numbers
  have hnodup : (gs.map Prod.fst).Nodup := hnum ▸ List.nodup_range.filter _
  have hwhole : s.Whole := hopen.1
  have hput (i : Nat) (hi : s.loads m ys i = true) : ((loadResult s.vl gs p.2.fmt p.2.blk).put i).live = true := by
    have hmem : i ∈ gs.map Prod.fst := hnum ▸ List.mem_filter.2 ⟨List.mem_range.2 (loads_lt hi), hi⟩
    obtain ⟨q, hq, rfl⟩ := List.mem_map.1 hmem
    dsimp only [loadResult]
    rw [find?_number hnodup hq]
    exact (congrArg Put.live (put_loaded (hdata q hq) ..)).trans (loadedPut_live ..)
  obtain ⟨u, hu, hwritten⟩ := writeVecOn_spec t (hobs.whole hwhole) (hobs.isSup.trans (State.isSup_of_cluster hc)) (fieldD d m) m.z
    (s.loads m ys) (queuesOf ix) (loadResult s.vl gs p.2.fmt p.2.blk) (hobs.destRoom hroom) (fun i hi => hobs.vl ▸ loads_lt hi) hput
  refine ⟨u, ?_, hwritten⟩
  have hpart : (!(fieldD d m).q && !(t.myCtx.vregs.get VReg.initial (fieldD d m).n.toNat).missing.isEmpty) = false := by
    rw [hobs.myCtx]
    rcases hkept with hq | hmissing
    · rw [hq]
      rfl
    · rw [show (s.myCtx.vregs.get VReg.initial (fieldD d m).n.toNat).missing = [] from hmissing]
      simp
  have hchecks : Allowed [t.vlCheck p.2.fmt 0, (!mixedNone (gs.map Prod.snd), illegalOperand 0x06 0 1 p.2.fmt.toNat),
      t.keepCheck (fieldD d m) m.z (s.loads m ys) p.2.fmt] := by
    refine allowed_cons.2 ⟨?_, allowed_cons.2 ⟨?_, allowed_cons.2 ⟨?_, allowed_nil⟩⟩⟩
    · refine decide_eq_true ?_
      rw [hobs.vl, hobs.vlmax]
      exact hvl
    · rw [mixedNone_uniform (f := p.2.fmt)]
      · rfl
      · intro g hg
        obtain ⟨q, hq, rfl⟩ := List.mem_map.1 hg
        exact hnone q hq
    · exact (congrArg Prod.fst (hobs.keepCheck ..)).trans hkeep
  unfold vecLoad
  rw [Comp.go_bind_ok (Comp.go_get _), openVec_ok_pre hopen, Comp.go_bind_ok (Comp.go_ofStop_ok ..),
    firstOf_ok (vmemChecks_load hfit hint), Comp.go_bind_ok (Comp.go_ofStop_ok ..)]
  dsimp only
  rw [loads_filter, State.slot_of_cluster hc, placesFor, Comp.go_bind_ok hgo, Comp.go_bind_ok (Comp.go_get _), filled_data hdata]
  simp only [contains_loads, hgs]
  rw [← hgs]
  rw [firstOf_ok hchecks, Comp.go_bind_ok (Comp.go_ofStop_ok ..), hpart, if_neg Bool.false_ne_true, hu,
    Comp.go_bind_ok (Comp.go_ofStop_ok ..), if_neg Bool.false_ne_true]
  rfl
end

/-! ### Global loads (R302) -/

/-- An instruction that means a global load is one. -/
theorem globalLoad {s : State} {slot : Nat} (hc : s.cur = .cluster slot .V) {g : Guard} (hg : s.guardTrue g = true) {i : Instr}
    {d a : RegF} {m : VMods} {len : Nat} {ix : List VField} (hexec : exec i s = run g len (vecLoad (fieldD d m) m a ix) s) :
    GlobalLoad s slot i d a m len ix := by
  intro xs ys gs t hopen hfit hint hkept act hgather hdata
  refine ⟨fun hnone => hexec.trans (run_ok hg (vecLoad_nothing hc hopen hfit hint hgather hdata hnone)),
    fun p l hgs hfmt hvl hkeep hroom => ?_⟩
  obtain ⟨u, hu, hwritten⟩ := vecLoad_some hc hopen hfit hint hkept hgather hdata hgs hfmt hvl hkeep hroom
  have hne : gs ≠ [] := hgs ▸ List.cons_ne_nil p l
  have hnodup : (gs.map Prod.fst).Nodup := hgather.numbers ▸ List.nodup_range.filter _
  refine ⟨u, _, hexec.trans (run_ok hg hu), hwritten, rfl, rfl, rfl, rfl, loadVsum_data hne hdata, fun q hq => ?_⟩
  dsimp only [loadResult]
  rw [find?_number hnodup hq]
  exact put_loaded (hdata q hq) ..

/-! ### Bits of the scratchpad -/

/-- A place of `n` bits at bit `p`: a nibble, or whole bytes, and all in the scratchpad (R107). -/
def SpPlace (n p : Nat) : Prop := (n = 4 ∧ p % 4 = 0 ∨ n ∈ [8, 16, 32, 64] ∧ p % 8 = 0) ∧ p / 8 + max 1 (n / 8) ≤ 2 ^ 23

/-- Two places share no bit. -/
def SpApart (n p q : Nat) : Prop := q + n ≤ p ∨ p + n ≤ q

theorem spKey_inj {slot a b : Nat} (ha : a < 2 ^ 23) (hb : b < 2 ^ 23) : spKey slot a = spKey slot b ↔ a = b := by
  unfold spKey
  omega

theorem spKey_spindle {k slot a b : Nat} (h : spindleOf k ≠ spindleOf slot) : spKey k a ≠ spKey slot b := by
  unfold spKey
  omega

/-- Bytes written into the scratchpad. -/
theorem State.spByte_setSp {s : State} {slot a b : Nat} {l : List Byte} (ha : a + l.length ≤ 2 ^ 23) (hb : b < 2 ^ 23) :
    (s.setSp slot a l).spByte slot b = if a ≤ b ∧ b < a + l.length then l.getD (b - a) 0 else s.spByte slot b := by
  unfold State.spByte State.setSp
  rw [SMap.get_setList]
  by_cases hl : l.length = 0
  · rw [if_neg (by omega), if_neg (by omega)]
  · have hkeys : spKey slot b = spindleOf slot * 2 ^ 23 + b ∧ spKey slot a = spindleOf slot * 2 ^ 23 + a := by
      unfold spKey
      rw [Nat.mod_eq_of_lt hb, Nat.mod_eq_of_lt (by omega)]
      exact ⟨rfl, rfl⟩
    rw [hkeys.1, hkeys.2]
    refine if_congr (by omega) ?_ rfl
    congr 1
    omega

theorem State.spByte_setSp_spindle (s : State) {k slot : Nat} (h : spindleOf k ≠ spindleOf slot) {a : Nat} {l : List Byte}
    (ha : a + l.length ≤ 2 ^ 23) (b : Nat) : (s.setSp slot a l).spByte k b = s.spByte k b := by
  unfold State.spByte State.setSp
  rw [SMap.get_setList, if_neg]
  unfold spKey
  omega

/-- The bytes that a place takes. -/
def State.spNew (s : State) (n p : Nat) (c : Word) : List Byte :=
  if n = 4 then
    let o := (s.spByte s.slot (p / 8)).toNat
    [BitVec.ofNat 8 (if p % 8 = 0 then o / 16 * 16 + c.toNat % 16 else o % 16 + c.toNat % 16 * 16)]
  else leBytes (n / 8) c.toNat

theorem State.spPut_eq (s : State) (n p : Nat) (c : Word) : s.spPut n p c = s.setSp s.slot (p / 8) (s.spNew n p c) := by
  unfold State.spPut State.spNew
  split <;> rfl

theorem State.length_spNew {s : State} {n p : Nat} (h : SpPlace n p) (c : Word) : (s.spNew n p c).length = max 1 (n / 8) := by
  unfold State.spNew
  obtain ⟨⟨rfl, -⟩ | ⟨hn, -⟩, -⟩ := h
  · rfl
  · rw [if_neg (by rintro rfl; simp at hn), leBytes_length]
    simp only [List.mem_cons, List.not_mem_nil, or_false] at hn
    omega

section
variable {s : State} {n p : Nat} (h : SpPlace n p) (c : Word)
include h

/-- No byte outside the place changes. -/
theorem State.spByte_spPut_other {b : Nat} (hb : b < 2 ^ 23) (hout : ¬ (p / 8 ≤ b ∧ b < p / 8 + max 1 (n / 8))) :
    (s.spPut n p c).spByte s.slot b = s.spByte s.slot b := by
  rw [State.spPut_eq, State.spByte_setSp (by rw [State.length_spNew h]; exact h.2) hb, State.length_spNew h, if_neg hout]

theorem State.spByte_spPut_spindle {k : Nat} (hk : spindleOf k ≠ spindleOf s.slot) (b : Nat) :
    (s.spPut n p c).spByte k b = s.spByte k b := by
  rw [State.spPut_eq, State.spByte_setSp_spindle s hk (by rw [State.length_spNew h]; exact h.2)]

/-- Every byte of the place is new. -/
theorem State.spByte_spPut_same {j : Nat} (hj : j < max 1 (n / 8)) :
    (s.spPut n p c).spByte s.slot (p / 8 + j) = (s.spNew n p c).getD j 0 := by
  have hlen := State.length_spNew h c (s := s)
  have hend := h.2
  rw [State.spPut_eq, State.spByte_setSp (by omega) (by omega), if_pos (by omega), Nat.add_sub_cancel_left]
end

/-- A byte in which a nibble has been replaced. -/
theorem nibble_replaced {o v b : Nat} (hv : v < 16) (hb : b = 0 ∨ b = 4) :
    (BitVec.ofNat 8 (if b = 0 then o / 16 * 16 + v else o % 16 + v * 16)).toNat >>> b % 16 = v := by
  rw [BitVec.toNat_ofNat, Nat.shiftRight_eq_div_pow]
  rcases hb with rfl | rfl
  · rw [if_pos rfl]
    omega
  · rw [if_neg (by decide)]
    omega

theorem nibble_other {o v b e : Nat} (hv : v < 16) (hb : b = 0 ∨ b = 4) (he : e = 0 ∨ e = 4) (hne : b ≠ e) :
    (BitVec.ofNat 8 (if b = 0 then o / 16 * 16 + v else o % 16 + v * 16)).toNat >>> e % 16 = o >>> e % 16 := by
  rw [BitVec.toNat_ofNat, Nat.shiftRight_eq_div_pow, Nat.shiftRight_eq_div_pow]
  rcases hb with rfl | rfl
  · obtain rfl := he.resolve_left (Ne.symm hne)
    rw [if_pos rfl]
    omega
  · obtain rfl := he.resolve_right (Ne.symm hne)
    rw [if_neg (by decide)]
    omega

theorem range_map_getD (l : List Byte) : (List.range l.length).map (fun j => l.getD j 0) = l :=
  List.ext_getElem (by simp) fun i h1 h2 => by simp [h2]

theorem State.slot_spPut (s : State) (n p : Nat) (c : Word) : (s.spPut n p c).slot = s.slot := by
  rw [State.spPut_eq]
  rfl

section
variable {s : State} {n p : Nat} (h : SpPlace n p)
include h

/-- The place holds what was put. -/
theorem State.spBits_spPut (c : Word) : (s.spPut n p c).spBits n p = BitVec.ofNat 64 (c.toNat % 2 ^ n) := by
  have hbyte {j : Nat} (hj : j < max 1 (n / 8)) := State.spByte_spPut_same (s := s) h c hj
  unfold State.spBits
  rw [State.slot_spPut]
  obtain ⟨⟨rfl, hp⟩ | ⟨hn, hp⟩, -⟩ := h
  · have hnibble := nibble_replaced (o := (s.spByte s.slot (p / 8)).toNat) (v := c.toNat % 16) (b := p % 8)
      (Nat.mod_lt _ (by decide)) (by omega)
    have h0 := hbyte (j := 0) (by decide)
    rw [Nat.add_zero, State.spNew, if_pos rfl] at h0
    rw [if_pos rfl, h0]
    exact congrArg _ hnibble
  · have hbits : n ≠ 4 ∧ n / 8 = max 1 (n / 8) ∧ 256 ^ (n / 8) = 2 ^ n := by
      simp only [List.mem_cons, List.not_mem_nil, or_false] at hn
      rcases hn with rfl | rfl | rfl | rfl <;> decide
    obtain ⟨hne, hmax, hpow⟩ := hbits
    rw [if_neg hne, List.map_congr_left fun j hj => hbyte (hmax ▸ List.mem_range.1 hj), State.spNew, if_neg hne]
    have hlist := range_map_getD (leBytes (n / 8) c.toNat)
    rw [leBytes_length] at hlist
    rw [hlist, leNat_leBytes, hpow]

/-- Another place keeps its bits. -/
theorem State.spBits_spPut_apart {q : Nat} (hq : SpPlace n q) (hapart : SpApart n p q) (c : Word) :
    (s.spPut n q c).spBits n p = s.spBits n p := by
  unfold State.spBits
  rw [State.slot_spPut]
  unfold SpApart at hapart
  have hpend := h.2
  obtain ⟨⟨rfl, hp⟩ | ⟨hn, hp⟩, -⟩ := h
  · have hq4 : q % 4 = 0 := by
      obtain ⟨⟨-, h4⟩ | ⟨h8, -⟩, -⟩ := hq
      · exact h4
      · simp at h8
    rw [if_pos rfl, if_pos rfl]
    by_cases hsame : p / 8 = q / 8
    · have h0 := State.spByte_spPut_same (s := s) hq c (j := 0) (by decide)
      rw [Nat.add_zero, State.spNew, if_pos rfl] at h0
      rw [hsame, h0]
      exact congrArg _ (nibble_other (Nat.mod_lt _ (by decide)) (by omega) (by omega) (by omega))
    · rw [State.spByte_spPut_other hq c (by omega) (by omega)]
  · have hq8 : q % 8 = 0 := by
      obtain ⟨⟨rfl, -⟩ | ⟨-, h8⟩, -⟩ := hq
      · simp at hn
      · exact h8
    simp only [List.mem_cons, List.not_mem_nil, or_false] at hn
    have hne : n ≠ 4 := by omega
    rw [if_neg hne, if_neg hne]
    refine congrArg (fun l => BitVec.ofNat 64 (leNat l)) (List.map_congr_left fun j hj => ?_)
    have hj := List.mem_range.1 hj
    exact State.spByte_spPut_other hq c (by omega) (by omega)
end

/-! ### Many elements -/

/-- Elements put one after another. -/
def State.spPuts (s : State) (n : Nat) (ps : List (Nat × Nat)) (code : Nat → Word) : State :=
  ps.foldl (fun t p => t.spPut n p.2 (code p.1)) s

section
variable {n : Nat} {code : Nat → Word}

theorem State.slot_spPuts (ps : List (Nat × Nat)) : ∀ s : State, (s.spPuts n ps code).slot = s.slot := by
  induction ps with
  | nil => exact fun _ => rfl
  | cons p ps ih => exact fun s => (ih _).trans (State.slot_spPut ..)

theorem State.spPuts_frame (ps : List (Nat × Nat)) : ∀ s : State, s.spPuts n ps code = { s with spm := (s.spPuts n ps code).spm } := by
  induction ps with
  | nil => exact fun _ => rfl
  | cons p ps ih =>
    intro s
    have hone : s.spPut n p.2 (code p.1) = { s with spm := (s.spPut n p.2 (code p.1)).spm } := by rw [State.spPut_eq]; rfl
    exact (ih (s.spPut n p.2 (code p.1))).trans (congrArg (fun u : State => { u with spm := (s.spPuts n (p :: ps) code).spm }) hone :)

theorem State.spPuts_append (s : State) (ps qs : List (Nat × Nat)) : s.spPuts n (ps ++ qs) code = (s.spPuts n ps code).spPuts n qs code :=
  List.foldl_append

theorem State.spByte_spPuts_spindle (ps : List (Nat × Nat)) : ∀ {s : State} {k : Nat}, (∀ p ∈ ps, SpPlace n p.2) →
    spindleOf k ≠ spindleOf s.slot → ∀ b, (s.spPuts n ps code).spByte k b = s.spByte k b := by
  induction ps with
  | nil => exact fun _ _ _ => rfl
  | cons p ps ih =>
    intro s k hps hk b
    refine (ih (fun q hq => hps q (List.mem_cons_of_mem _ hq)) ?_ b).trans (State.spByte_spPut_spindle (hps p List.mem_cons_self) _ hk b)
    rw [State.slot_spPut]
    exact hk

theorem State.spByte_spPuts_other (ps : List (Nat × Nat)) : ∀ {s : State} {b : Nat}, (∀ p ∈ ps, SpPlace n p.2) → b < 2 ^ 23 →
    (∀ p ∈ ps, ¬ (p.2 / 8 ≤ b ∧ b < p.2 / 8 + max 1 (n / 8))) → (s.spPuts n ps code).spByte s.slot b = s.spByte s.slot b := by
  induction ps with
  | nil => exact fun _ _ _ => rfl
  | cons p ps ih =>
    intro s b hps hb hout
    have hrest := ih (s := s.spPut n p.2 (code p.1)) (fun q hq => hps q (List.mem_cons_of_mem _ hq)) hb
      fun q hq => hout q (List.mem_cons_of_mem _ hq)
    rw [State.slot_spPut] at hrest
    exact hrest.trans (State.spByte_spPut_other (hps p List.mem_cons_self) _ hb (hout p List.mem_cons_self))

theorem State.spBits_spPuts_apart (ps : List (Nat × Nat)) {b : Nat} (h : SpPlace n b) : ∀ {s : State}, (∀ p ∈ ps, SpPlace n p.2) →
    (∀ p ∈ ps, SpApart n b p.2) → (s.spPuts n ps code).spBits n b = s.spBits n b := by
  induction ps with
  | nil => exact fun _ _ => rfl
  | cons p ps ih =>
    intro s hps hapart
    exact (ih (fun q hq => hps q (List.mem_cons_of_mem _ hq)) fun q hq => hapart q (List.mem_cons_of_mem _ hq)).trans
      (State.spBits_spPut_apart h (hps p List.mem_cons_self) (hapart p List.mem_cons_self) _)

/-- An element that no later one overlaps is in its place. -/
theorem State.spBits_spPuts {s : State} {ps : List (Nat × Nat)} (hps : ∀ p ∈ ps, SpPlace n p.2) {j : Nat} {p : Nat × Nat}
    (hj : ps[j]? = some p) (hlast : ∀ (k : Nat) (q : Nat × Nat), j < k → ps[k]? = some q → SpApart n p.2 q.2) :
    (s.spPuts n ps code).spBits n p.2 = BitVec.ofNat 64 ((code p.1).toNat % 2 ^ n) := by
  obtain ⟨hlt, hget⟩ := List.getElem?_eq_some_iff.1 hj
  have hsplit : ps = ps.take j ++ (p :: ps.drop (j + 1)) := by rw [← hget, List.getElem_cons_drop, List.take_append_drop]
  have hp : SpPlace n p.2 := hps p (List.mem_of_getElem? hj)
  rw [hsplit, State.spPuts_append]
  refine (State.spBits_spPuts_apart (ps.drop (j + 1)) hp (fun q hq => hps q (List.mem_of_mem_drop hq)) fun q hq => ?_).trans
    (State.spBits_spPut hp _)
  obtain ⟨k, hk⟩ := List.mem_iff_getElem?.1 hq
  rw [List.getElem?_drop] at hk
  exact hlast _ q (by omega) hk
end

/-! ### Places of the scratchpad -/

theorem firstOf_allowed {l : List (Bool × Stop)} (h : firstOf l = .ok ()) : Allowed l := by
  induction l with
  | nil => exact allowed_nil
  | cons p l ih =>
    obtain ⟨b, x⟩ := p
    cases b with
    | false => cases h
    | true => exact allowed_cons.2 ⟨rfl, ih h⟩

theorem bind_eq_ok {α β : Type} {x : Except Stop α} {f : α → Except Stop β} {b : β} (h : x >>= f = .ok b) : ∃ a, x = .ok a ∧ f a = .ok b := by
  cases x with
  | error e => cases h
  | ok a => exact ⟨a, rfl, h⟩

theorem mapM_forall₂ {α β : Type} {f : α → Except Stop β} : ∀ {l : List α} {m : List β}, l.mapM f = .ok m →
    List.Forall₂ (fun a b => f a = .ok b) l m
  | [], m, h => by cases h; exact .nil
  | a :: l, m, h => by
    rw [List.mapM_cons] at h
    cases ha : f a with
    | error x => rw [ha] at h; cases h
    | ok b =>
      rw [ha] at h
      cases hl : l.mapM f with
      | error x => rw [hl] at h; cases h
      | ok n =>
        rw [hl] at h
        cases h
        exact .cons ha (mapM_forall₂ hl)

theorem width_cases (f : Fmt) : f.width = 4 ∨ f.width ∈ [8, 16, 32, 64] := by
  unfold Fmt.width
  split <;> decide

theorem spElem_place {s : State} {a : Nat} {f : Fmt} {ls : Bool} {ix : Indices} {i b : Nat} (hls : ls = true → f.width ≠ 4)
    (h : s.spElem a f ls ix i = .ok b) : f.width = 4 ∧ b % 4 = 0 ∨ f.width ∈ [8, 16, 32, 64] ∧ b % 8 = 0 := by
  have hwidth : f.width = 4 ∨ f.width ∈ [8, 16, 32, 64] := width_cases f
  unfold State.spElem at h
  dsimp only at h
  split at h
  · cases h
  · split at h
    · split at h
      · cases h
      · split at h
        · cases h
        · cases h
          exact .inr ⟨hwidth.resolve_left (hls ‹_›), Nat.mul_mod_right ..⟩
    · cases h
      rcases hwidth with h4 | hn
      · refine .inl ⟨h4, ?_⟩
        rw [h4]
        omega
      · refine .inr ⟨hn, ?_⟩
        have h8 : f.width % 8 = 0 := by
          simp only [List.mem_cons, List.not_mem_nil, or_false] at hn
          omega
        rw [Nat.add_mod, Nat.mul_mod_right, Nat.mul_mod, h8]
        rfl

/-- Elements with their places, in order. -/
theorem placed_elements {s : State} {a : Nat} {f : Fmt} {ls : Bool} {ix : Indices} {is : List Nat} {ps : List (Nat × Nat)}
    (h : List.Forall₂ (fun i p => (s.spElem a f ls ix i).map (fun b => (i, b)) = .ok p) is ps) :
    ps.map Prod.fst = is ∧ ∀ p ∈ ps, s.spElem a f ls ix p.1 = .ok p.2 := by
  induction h with
  | nil => exact ⟨rfl, fun _ h => absurd h List.not_mem_nil⟩
  | @cons i p is ps hp _ ih =>
    cases hi : s.spElem a f ls ix i with
    | error x => rw [hi] at hp; cases hp
    | ok b =>
      rw [hi] at hp
      cases hp
      exact ⟨congrArg _ ih.1, List.forall_mem_cons.2 ⟨hi, ih.2⟩⟩

/-- The places of a scratchpad access, in the order of the elements. -/
theorem spPlaces_places {s : State} {a : Nat} {f : Fmt} {ls contig : Bool} {ix : Indices} {is : List Nat} {ps : List (Nat × Nat)}
    (hls : ls = true → f.width ≠ 4) (h : s.spPlaces a f ls contig ix is = .ok ps) :
    ps.map Prod.fst = is ∧ ∀ p ∈ ps, SpPlace f.width p.2 := by
  unfold State.spPlaces at h
  obtain ⟨_, -, h⟩ := bind_eq_ok h
  obtain ⟨qs, hqs, h⟩ := bind_eq_ok h
  obtain ⟨_, hbanks, h⟩ := bind_eq_ok h
  obtain ⟨_, -, h⟩ := bind_eq_ok h
  cases h
  have hqs := mapM_forall₂ hqs
  have hbanks := firstOf_allowed hbanks
  have helem := placed_elements hqs
  refine ⟨helem.1, fun p hp => ⟨spElem_place hls (helem.2 p hp), ?_⟩⟩
  obtain ⟨k, hk⟩ := List.mem_iff_getElem?.1 hp
  have hzip : (p, k) ∈ ps.zipIdx := List.mem_zipIdx_iff_getElem?.2 hk
  have hlast := hbanks _ (List.mem_flatMap.2 ⟨(p, k), hzip, List.mem_map.2
    ⟨max 1 (f.width / 8) - 1, List.mem_range.2 (by omega), rfl⟩⟩)
  simp only [State.spBank, Bool.and_eq_true, decide_eq_true_eq] at hlast
  omega

/-! ### Scratchpad loads and stores (R303) -/

section
variable {s : State} {d a : RegF} {m : VMods} {ix : List VField} {ls : Bool} {ys : List VSrc} {ps : List (Nat × Nat)}
  (hopen : s.Opens ix [] ys) (hchecks : Allowed (s.vmemChecks ys [((s.vreg d).tag.f, 0)] ls))
  (hplaces : s.spPlaces (s.readS a).toNat (s.vreg d).tag.f ls ix.isEmpty (indicesOf ys)
    ((s.actives m.mask).filter (indicesOf ys).has) = .ok ps)

/-- The elements of a scratchpad load: the places read, and under Z zeros elsewhere. -/
def State.spLoaded (s : State) (d : RegF) (m : VMods) (ys : List VSrc) (ps : List (Nat × Nat)) : SMap Word :=
  let z := if m.z then (List.range s.vl).filter fun i => s.reached i && !((s.actives m.mask).filter (indicesOf ys).has).contains i else []
  ps.foldl (fun e p => e.set 0 p.1 (s.spBits (s.vreg d).tag.f.width p.2)) (z.foldl (fun e i => e.set 0 i 0) (s.vreg d).elems)

include hopen hchecks hplaces

theorem spLoad_ok : spLoad d m a ix ls s = .ok (if s.vl = 0 then s.popAll (queuesOf ix)
    else (s.popAll (queuesOf ix)).setVreg d
      { s.vreg d with elems := s.spLoaded d m ys ps, tag := { (s.vreg d).tag with vsum := vsValid } }) := by
  unfold spLoad
  dsimp only
  rw [openVec_ok_pre hopen]
  show (firstOf _).bind _ = _
  rw [firstOf_ok hchecks]
  show (State.spPlaces ..).bind _ = _
  rw [hplaces]
  show (if s.vl = 0 then _ else _) = _
  split <;> rfl

theorem spStore_ok : spStore d m a ix ls s = .ok ((s.popAll (queuesOf ix)).spPuts (s.vreg d).tag.f.width ps (s.vreg d).code) := by
  unfold spStore
  dsimp only
  rw [openVec_ok_pre hopen]
  show (firstOf _).bind _ = _
  rw [firstOf_ok hchecks]
  show (State.spPlaces ..).bind _ = _
  rw [hplaces]
  rfl
end

/-- Values put at the numbers of a list, no two the same. -/
theorem get_foldl_set {f : Nat × Nat → Word} {ps : List (Nat × Nat)} (hn : (ps.map Prod.fst).Nodup) : ∀ (e : SMap Word) (j : Nat),
    SMap.get 0 (ps.foldl (fun e p => e.set 0 p.1 (f p)) e) j = match ps.find? fun p => p.1 == j with
      | some p => f p
      | none => SMap.get 0 e j := by
  induction ps with
  | nil => exact fun _ _ => rfl
  | cons p ps ih =>
    intro e j
    obtain ⟨hp, hn⟩ := List.nodup_cons.1 (List.map_cons ▸ hn)
    rw [List.foldl_cons, ih hn]
    by_cases hj : p.1 = j
    · have hnone : ps.find? (fun q => q.1 == j) = none := List.find?_eq_none.2 fun q hq h =>
        hp (List.mem_map.2 ⟨q, hq, (beq_iff_eq.1 h).trans hj.symm⟩)
      rw [hnone, List.find?_cons_of_pos (by simpa using hj), hj]
      exact SMap.get_set_same ..
    · rw [List.find?_cons_of_neg (by simpa using hj)]
      cases ps.find? fun q => q.1 == j with
      | some q => rfl
      | none => exact SMap.get_set_ne _ _ _ hj

theorem get_foldl_zero (l : List Nat) : ∀ (e : SMap Word) (j : Nat),
    SMap.get 0 (l.foldl (fun e i => e.set 0 i 0) e) j = if j ∈ l then 0 else SMap.get 0 e j := by
  induction l with
  | nil => exact fun _ _ => (if_neg List.not_mem_nil).symm
  | cons i l ih =>
    intro e j
    rw [List.foldl_cons, ih, SMap.get_set]
    by_cases hij : i = j
    · simp [hij]
    · simp [hij, Ne.symm hij]

/-- A code of a register after a scratchpad load. -/
theorem get_spLoaded {s : State} (hw : s.Whole) {d : RegF} {m : VMods} {ys : List VSrc} {ps : List (Nat × Nat)}
    (hps : ps.map Prod.fst = (s.actives m.mask).filter (indicesOf ys).has) (j : Nat) :
    SMap.get 0 (s.spLoaded d m ys ps) j = match ps.find? fun p => p.1 == j with
      | some p => s.spBits (s.vreg d).tag.f.width p.2
      | none => if m.z = true ∧ j < s.vl ∧ s.reelElem ≤ j then 0 else (s.vreg d).code j := by
  have hnodup : (ps.map Prod.fst).Nodup := hps ▸ (List.nodup_range.filter _).filter _
  have hreached : s.reached j = decide (s.reelElem ≤ j) := by
    unfold State.reached
    rw [hw.1, hw.2]
    simp
  unfold State.spLoaded
  dsimp only
  rw [get_foldl_set (f := fun p => s.spBits (s.vreg d).tag.f.width p.2) hnodup, get_foldl_zero]
  cases hfind : ps.find? fun p => p.1 == j with
  | some p => rfl
  | none =>
    have hout : ((s.actives m.mask).filter (indicesOf ys).has).contains j = false := by
      rw [← hps, Bool.eq_false_iff, Ne, List.contains_iff_mem]
      intro hmem
      obtain ⟨p, hp, hpj⟩ := List.mem_map.1 hmem
      exact List.find?_eq_none.1 hfind p hp (beq_iff_eq.2 hpj)
    refine if_congr ?_ rfl rfl
    cases m.z with
    | false => simp
    | true =>
      rw [if_pos rfl, List.mem_filter, List.mem_range, hout, hreached]
      simp

/-- Elements of four bits are not accessed lane by lane (R303). -/
theorem nibbles_not_ls {s : State} {ys : List VSrc} {f : Fmt} {ls : Bool} (h : Allowed (s.vmemChecks ys [(f, 0)] ls)) :
    ls = true → f.width ≠ 4 := by
  rintro rfl
  have hwidth := h (f.width != 4, illegalOperand 0x04 0 0 f.toNat) (by simp [State.vmemChecks, State.vmemPre])
  simpa using hwidth

/-- An instruction that means a scratchpad load is one. -/
theorem scratchLoad {s : State} {g : Guard} (hg : s.guardTrue g = true) {i : Instr} {d a : RegF} {m : VMods} {len : Nat}
    {ix : List VField} {ls : Bool} (hexec : exec i s = settle g len (spLoad d m a ix ls) s) : ScratchLoad s i d a m len ix ls := by
  intro ys ps hopen hchecks hplaces
  have hls := nibbles_not_ls hchecks
  obtain ⟨hps, -⟩ := spPlaces_places hls hplaces
  obtain ⟨hin, hmy⟩ := onlyQueues_popAll s (queuesOf ix)
  refine ⟨_, hexec.trans (settle_ok hg (spLoad_ok hopen hchecks hplaces)), ?_⟩
  by_cases hvl : s.vl = 0
  · rw [if_pos hvl, if_pos hvl]
    refine ⟨hin, ?_, queue_popAll s _, fun r _ => ?_, ?_⟩
    · rw [hmy]
    · rw [State.vreg, hmy]
      rfl
    · rw [State.vreg, hmy]
      rfl
  · rw [if_neg hvl, if_neg hvl]
    generalize hx : ({ s.vreg d with elems := s.spLoaded d m ys ps, tag := { (s.vreg d).tag with vsum := vsValid } } : Strip) = x
    have hctx : ((s.popAll (queuesOf ix)).setVreg d x).myCtx = { (s.popAll (queuesOf ix)).myCtx with
        vregs := (s.popAll (queuesOf ix)).myCtx.vregs.set .initial d.toNat { strip := x, missing := [] } } := State.myCtx_modMyCtx ..
    have hd : ((s.popAll (queuesOf ix)).setVreg d x).vreg d = x := by
      rw [State.vreg, hctx]
      exact congrArg VReg.strip (SMap.get_set_same ..)
    refine ⟨hin.trans (inContext_modMyCtx ..), ?_, fun q => ?_, fun r hr => ?_, ?_⟩
    · rw [hctx, hmy]
    · rw [State.queue, hctx]
      exact queue_popAll s _ q
    · rw [State.vreg, hctx]
      refine (congrArg VReg.strip (SMap.get_set_ne _ _ _ fun h => hr (BitVec.eq_of_toNat_eq h.symm))).trans ?_
      rw [hmy]
      rfl
    · rw [hd, ← hx]
      exact ⟨rfl, rfl, get_spLoaded hopen.1 hps⟩

/-- An instruction that means a scratchpad store is one. -/
theorem scratchStore {s : State} {slot : Nat} {c : Cl} (hc : s.cur = .cluster slot c) {g : Guard} (hg : s.guardTrue g = true) {i : Instr}
    {d a : RegF} {m : VMods} {len : Nat} {ix : List VField} {ls : Bool} (hexec : exec i s = settle g len (spStore d m a ix ls) s) :
    ScratchStore s slot i d a m len ix ls := by
  intro ys ps hopen hchecks hplaces n
  have hls := nibbles_not_ls hchecks
  obtain ⟨-, hps⟩ := spPlaces_places hls hplaces
  obtain ⟨hin, hmy⟩ := onlyQueues_popAll s (queuesOf ix)
  have hframe := State.spPuts_frame (n := n) (code := (s.vreg d).code) ps (s.popAll (queuesOf ix))
  have hslot : (s.popAll (queuesOf ix)).slot = slot := hin.slot.trans (State.slot_of_cluster hc)
  have hbyte (k b : Nat) : (s.popAll (queuesOf ix)).spByte k b = s.spByte k b := by rw [hin.1]; rfl
  have hctxs : ((s.popAll (queuesOf ix)).spPuts n ps (s.vreg d).code).ctxs = (s.popAll (queuesOf ix)).ctxs :=
    (congrArg State.ctxs hframe :)
  have hmine : ((s.popAll (queuesOf ix)).spPuts n ps (s.vreg d).code).myCtx = (s.popAll (queuesOf ix)).myCtx :=
    (congrArg State.myCtx hframe :)
  refine ⟨_, hexec.trans (settle_ok hg (spStore_ok hopen hchecks hplaces)), ?_, fun k hk => ?_, ?_, fun q => ?_, fun k b hk => ?_,
    fun b hb hout => ?_, fun j p hj hlast => ?_⟩
  · rw [hctxs]
    refine hframe.trans ?_
    rw [hin.1]
  · rw [State.ctx, hctxs]
    exact hin.2 k hk
  · rw [hmine, hmy]
  · rw [State.queue, hmine]
    exact queue_popAll s _ q
  · rw [← hbyte k b]
    exact State.spByte_spPuts_spindle ps hps (by rwa [hslot]) b
  · have hother := State.spByte_spPuts_other (code := (s.vreg d).code) (s := s.popAll (queuesOf ix)) ps hps hb hout
    rw [hslot] at hother
    exact hother.trans (hbyte slot b)
  · exact State.spBits_spPuts hps hj hlast

/-- Settles O24: every form means the load or the store on its fields. -/
theorem vectorLoads : Obligations.VectorLoads := by
  refine ⟨fun s slot g d a b hc hg => ⟨globalLoad hc hg rfl, fun ls => ⟨globalLoad hc hg rfl, fun m =>
      ⟨globalLoad hc hg rfl, globalLoad hc hg rfl⟩⟩⟩,
    fun s slot g d a b hc hg => ⟨scratchLoad hg rfl, scratchStore hc hg rfl, fun ls => ⟨scratchLoad hg rfl, scratchStore hc hg rfl, fun m =>
      ⟨scratchLoad hg rfl, scratchStore hc hg rfl, scratchLoad hg rfl, scratchStore hc hg rfl⟩⟩⟩⟩

end Sys2Proof.Machine
end

section
/-! PROOFS. Tiles and accumulators are loaded (R328, R329, R339). -/

namespace Sys2Proof.Machine

/-! ### The rows that a load reads -/

/-- The numbers of the elements of 64 rows, row by row. -/
def rowNumbers (n : Nat → Nat) : List (List Nat) := (List.range 64).map fun i => (List.range (n i)).map (64 * i + ·)

theorem tileRows_numbers (a b : Word) (n : Nat → Nat) :
    ((tileRows a b n).flatMap fun r => r.is.map (r.off + ·)) = (rowNumbers n).flatten := by
  unfold tileRows rowNumbers
  rw [List.flatMap_map, List.flatMap_def]

theorem cutInto_flatten {α : Type} : ∀ ls : List (List α), cutInto (ls.map List.length) ls.flatten = ls
  | [] => rfl
  | l :: ls => by rw [List.map_cons, List.flatten_cons, cutInto, List.take_left, List.drop_left, cutInto_flatten ls]

theorem mem_cutInto {α : Type} {x : α} : ∀ {ns : List Nat} {l r : List α}, r ∈ cutInto ns l → x ∈ r → x ∈ l
  | [], _, _, hr, _ => absurd hr List.not_mem_nil
  | n :: ns, l, r, hr, hx => by
    rcases List.mem_cons.1 hr with rfl | hr
    · exact List.mem_of_mem_take hx
    · exact List.mem_of_mem_drop (mem_cutInto hr hx)

section
variable {n : Nat → Nat} {gs : List (Nat × Got)} (hnum : gs.map Prod.fst = (rowNumbers n).flatten)
include hnum

/-- Each row is cut out whole. -/
theorem cut_numbers : (cutInto ((List.range 64).map n) gs).map (List.map Prod.fst) = rowNumbers n := by
  have hlens : (List.range 64).map n = (rowNumbers n).map List.length := by
    unfold rowNumbers
    rw [List.map_map]
    exact List.map_congr_left fun i _ => by simp
  rw [← cutInto_map, hnum, hlens, cutInto_flatten]

/-- Element (i, j) has been read, and is the j-th of row i. -/
theorem exists_element {i j : Nat} (hi : i < 64) (hj : j < n i) : ∃ e, (64 * i + j, e) ∈ gs
    ∧ ((cutInto ((List.range 64).map n) (gs.map Prod.snd)).getD i [])[j]? = some e := by
  have hcut := cut_numbers hnum
  generalize hrows : cutInto ((List.range 64).map n) gs = rows at hcut
  have hrow : rows[i]?.map (List.map Prod.fst) = some ((List.range (n i)).map (64 * i + ·)) := by
    rw [← List.getElem?_map, hcut, rowNumbers, List.getElem?_map, List.getElem?_range hi]
    rfl
  cases hri : rows[i]? with
  | none => rw [hri] at hrow; cases hrow
  | some row =>
    rw [hri] at hrow
    have hrow : row.map Prod.fst = (List.range (n i)).map (64 * i + ·) := Option.some.inj hrow
    have helem : row[j]?.map Prod.fst = some (64 * i + j) := by
      rw [← List.getElem?_map, hrow, List.getElem?_map, List.getElem?_range hj]
      rfl
    cases hrj : row[j]? with
    | none => rw [hrj] at helem; cases helem
    | some p =>
      rw [hrj] at helem
      have hp : p = (64 * i + j, p.2) := Prod.ext (Option.some.inj helem) rfl
      refine ⟨p.2, hp ▸ mem_cutInto (hrows ▸ List.mem_of_getElem? hri) (List.mem_of_getElem? hrj), ?_⟩
      rw [cutInto_map, hrows, List.getD_eq_getElem?_getD, List.getElem?_map, hri]
      show (row.map Prod.snd)[j]? = _
      rw [List.getElem?_map, hrj]
      rfl

variable (hn : ∀ i, n i ≤ 64)
include hn

theorem nodup_numbers : (gs.map Prod.fst).Nodup := by
  rw [hnum, rowNumbers, ← List.flatMap_def]
  refine List.nodup_flatMap.2 ⟨fun i _ => List.nodup_range.map fun _ _ h => Nat.add_left_cancel h, ?_⟩
  refine List.nodup_range.imp fun {i k} hne => ?_
  intro x hx hy
  obtain ⟨j, hj, rfl⟩ := List.mem_map.1 hx
  obtain ⟨l, hl, hjl⟩ := List.mem_map.1 hy
  have hj := List.mem_range.1 hj
  have hl := List.mem_range.1 hl
  have := hn i
  have := hn k
  omega

theorem unique_element {k : Nat} {e f : Got} (he : (k, e) ∈ gs) (hf : (k, f) ∈ gs) : e = f := by
  have hone := find?_number (nodup_numbers hnum hn) he
  have htwo := find?_number (nodup_numbers hnum hn) hf
  exact congrArg Prod.snd (Option.some.inj (hone.symm.trans htwo))

/-- An element that has been read is in its row. -/
theorem row_of_element {i j : Nat} {e : Got} (hi : i < 64) (hj : j < 64) (he : (64 * i + j, e) ∈ gs) :
    j < n i ∧ ((cutInto ((List.range 64).map n) (gs.map Prod.snd)).getD i [])[j]? = some e := by
  have hmem : 64 * i + j ∈ (rowNumbers n).flatten := hnum ▸ List.mem_map_of_mem he
  obtain ⟨l, hl, hk⟩ := List.mem_flatten.1 hmem
  obtain ⟨k, -, rfl⟩ := List.mem_map.1 hl
  obtain ⟨w, hw, hkw⟩ := List.mem_map.1 hk
  have hw := List.mem_range.1 hw
  have := hn k
  obtain ⟨rfl, rfl⟩ : k = i ∧ w = j := by omega
  obtain ⟨f, hf, hrow⟩ := exists_element hnum hi hw
  exact ⟨hw, unique_element hnum hn he hf ▸ hrow⟩
end

theorem rowReads_le (vq : List Bool) (i : Nat) : rowReads vq i ≤ 64 := by
  unfold rowReads
  split <;> decide

theorem rowReads_vq {vq : List Bool} {i : Nat} (h : vq.getD i false = true) : rowReads vq i = 8 := if_pos h

theorem rowReads_elements {vq : List Bool} {i : Nat} (h : vq.getD i false = false) : rowReads vq i = 64 :=
  if_neg (by rw [h]; exact Bool.false_ne_true)

/-! ### The elements of a tile by place -/

section
variable {vq : List Bool} {f : Fmt} {gs : List (Nat × Got)} (hnum : gs.map Prod.fst = (rowNumbers (rowReads vq)).flatten) (hf : f ≠ Fmt.vq2)
include hnum hf

/-- A weight of an index of a row that begins in a VQ2 line. -/
theorem tileElems_weight {i j w : Nat} {e : Got} (hi : i < 64) (hj : j < 8) (hw : w < 8) (hvq : vq.getD i false = true)
    (he : (64 * i + j, e) ∈ gs) : tileElems vq f gs (64 * i + (8 * j + w)) = some (e, some w) := by
  obtain ⟨-, hrow⟩ := row_of_element hnum (rowReads_le vq) hi (by omega) he
  unfold tileElems
  dsimp only
  rw [beq_false_of_ne hf, if_neg Bool.false_ne_true, show (64 * i + (8 * j + w)) / 64 = i by omega,
    show (64 * i + (8 * j + w)) % 64 / 8 = j by omega, show (64 * i + (8 * j + w)) % 8 = w by omega, hvq, if_pos rfl, hrow]
  rfl

/-- An element of another row. -/
theorem tileElems_element {i j : Nat} {e : Got} (hi : i < 64) (hj : j < 64) (hvq : vq.getD i false = false)
    (he : (64 * i + j, e) ∈ gs) : tileElems vq f gs (64 * i + j) = some (e, none) := by
  obtain ⟨-, hrow⟩ := row_of_element hnum (rowReads_le vq) hi hj he
  unfold tileElems
  dsimp only
  rw [beq_false_of_ne hf, if_neg Bool.false_ne_true, show (64 * i + j) / 64 = i by omega, show (64 * i + j) % 64 = j by omega, hvq,
    if_neg Bool.false_ne_true, hrow]
  rfl

/-- Every place of a tile has an element. -/
theorem tileElems_isSome {k : Nat} (hk : k < 4096) : (tileElems vq f gs k).isSome = true := by
  have hi : k / 64 < 64 := by omega
  cases hvq : vq.getD (k / 64) false with
  | true =>
    obtain ⟨e, he, -⟩ := exists_element hnum (j := k % 64 / 8) hi (by rw [rowReads_vq hvq]; omega)
    have h := tileElems_weight hnum hf hi (by omega) (Nat.mod_lt k (by decide : 0 < 8)) hvq he
    rw [show 64 * (k / 64) + (8 * (k % 64 / 8) + k % 8) = k by omega] at h
    rw [h]
    rfl
  | false =>
    obtain ⟨e, he, -⟩ := exists_element hnum (j := k % 64) hi (by rw [rowReads_elements hvq]; omega)
    have h := tileElems_element hnum hf hi (Nat.mod_lt k (by decide)) hvq he
    rw [Nat.div_add_mod] at h
    rw [h]
    rfl
end

/-! ### What a tile takes -/

theorem tilePut_live (g : Got) (cb : Nat → BitVec 32) (f : Fmt) (w : Option Nat) : (g.tilePut cb f w).live = true := by
  unfold Got.tilePut
  split
  · rfl
  · split <;> rfl

theorem tilePut_weight {g : Got} (hdata : g.poison = false) {f : Fmt} (hg : g.fmt = Fmt.vq2) (hf : f ≠ Fmt.vq2) (cb : Nat → BitVec 32) (w : Nat) :
    g.tilePut cb f (some w) = .value (weightOf cb g w) := by
  unfold Got.tilePut Got.weight
  rw [hdata, if_neg Bool.false_ne_true, hg, beq_false_of_ne (Ne.symm hf), if_neg Bool.false_ne_true]
  rfl

theorem tilePut_element {g : Got} (hdata : g.poison = false) (f : Fmt) (cb : Nat → BitVec 32) :
    putCode f .rne (g.tilePut cb f none) = loadedCode f g := by
  unfold Got.tilePut Got.weight loadedCode loadedPut
  rw [hdata, if_neg Bool.false_ne_true]
  exact congrArg _ (if_congr (by simp) rfl rfl)

namespace Observed
variable {s t : State} (h : Observed s t)
include h

theorem tile (d : RegF) : t.tile d = s.tile d := by rw [State.tile, h.myCtx]; rfl
theorem codebook : t.myCtx.codebook = s.myCtx.codebook := by rw [h.myCtx]; rfl
theorem room {d : RegF} {need : Nat} (hroom : s.Room d need) : t.Room d need := by
  unfold State.Room
  rw [h.tile, h.myCtx]
  exact hroom
end Observed

theorem noteGathered_nil (s : State) (els : List (Nat × Got)) (first : Option Xlate) :
    s.noteGathered { els := els, zeroed := [], first := first } = s := rfl

/-- The tile that a load writes, by its elements. -/
theorem tileWritten_loadTile {t : State} (hs : t.isSup = false) {d : RegF} {f : Fmt} {at' : Nat → Option (Got × Option Nat)} {p : Tile → Prop}
    (hroom : t.Room d (denseNeed f))
    (hp : ∀ x : Tile, x.kind = .dense → x.rank = 0 → x.fmt = f → (f.isScaled = false → ∀ k < 4096, x.strip.code k =
      putCode f .rne ((at' k).elim .supplied fun g => g.1.tilePut t.myCtx.codebook f g.2)) → p x) :
    TileWritten t (t.loadTile d f at') d (denseNeed f) p := by
  refine tileWritten_dense hs d _ hroom fun x hkind hrank hfmt helems _ => hp x hkind hrank hfmt fun hscaled k hk => ?_
  have hsize : tileSize f = 4096 := if_neg fun h => by
    rw [beq_iff_eq] at h
    rw [h] at hscaled
    exact absurd hscaled (by decide)
  rw [Tile.strip, Strip.code, helems, hsize]
  refine formTile_get hscaled 0 .rne rfl hk ?_ 0
  cases at' k with
  | none => rfl
  | some g => exact tilePut_live ..

theorem noneCheck_ok {f : Fmt} {els : List (Nat × Got)} (hf : f ≠ Fmt.none) (h : ∀ q ∈ els, q.2.fmt ≠ Fmt.none) : (noneCheck f els).1 = true := by
  unfold noneCheck
  rw [Bool.and_eq_true, bne_iff_ne, List.all_eq_true]
  exact ⟨hf, fun q hq => by rw [Bool.or_eq_true, bne_iff_ne]; exact .inr (h q hq)⟩

section
variable {s t : State} {slot : Nat} (hc : s.cur = .cluster slot .M) {d a b : RegF} {xs : List Xlate} {p : Nat × Got} {gs : List (Nat × Got)}
  (hdata : ∀ q ∈ p :: gs, q.2.poison = false)
include hc hdata

/-- MLD, dense. -/
theorem denseLoad_go
    (hgather : s.GathersRows slot (tileRows (s.readS a) (s.readS b) (rowReads (s.vq2Rows slot (s.readS a) (s.readS b)))) true xs (p :: gs) t)
    (hroom : s.Room d (denseNeed p.2.fmt)) (hfmt : ∀ q ∈ p :: gs, q.2.fmt ≠ Fmt.none)
    (hvq : p.2.fmt = Fmt.vq2 → recoded p.2.fmt (tileSize p.2.fmt) (fun k =>
      (tileElems (s.vq2Rows slot (s.readS a) (s.readS b)) p.2.fmt (p :: gs) k).map Prod.fst) = false) :
    Comp.go (denseLoad d a b) s = (.ok (), t.loadTile d p.2.fmt (tileElems (s.vq2Rows slot (s.readS a) (s.readS b)) p.2.fmt (p :: gs))) := by
  have hchecks : Allowed [vq2Check p.2.fmt (tileSize p.2.fmt) fun k =>
        (tileElems (s.vq2Rows slot (s.readS a) (s.readS b)) p.2.fmt (p :: gs) k).map Prod.fst,
      noneCheck p.2.fmt (p :: gs), t.fitCheck d (denseNeed p.2.fmt)] := by
    refine allowed_cons.2 ⟨?_, allowed_cons.2 ⟨noneCheck_ok (hfmt p List.mem_cons_self) hfmt, (hgather.observed.room hroom).fits⟩⟩
    show (p.2.fmt != Fmt.vq2 || !recoded _ _ _) = true
    by_cases hf : p.2.fmt = Fmt.vq2
    · rw [hvq hf]
      simp
    · rw [bne_iff_ne.2 hf]
      rfl
  unfold denseLoad
  rw [Comp.go_bind_ok (Comp.go_get _), firstOf_ok (boundChecks_ok (l := [(d, 0)]) (by simpa using hroom.1)),
    Comp.go_bind_ok (Comp.go_ofStop_ok ..)]
  dsimp only
  rw [State.slot_of_cluster hc, Comp.go_bind_ok (gatherRows_go hgather hdata), Comp.go_bind_ok (Comp.go_get _), filled_data hdata]
  dsimp only [List.headD_cons]
  rw [firstOf_ok hchecks, Comp.go_bind_ok (Comp.go_ofStop_ok ..)]
  rfl

/-- The tile holds the rows. -/
theorem tileWritten_dense_rows
    (hgather : s.GathersRows slot (tileRows (s.readS a) (s.readS b) (rowReads (s.vq2Rows slot (s.readS a) (s.readS b)))) true xs (p :: gs) t)
    (hroom : s.Room d (denseNeed p.2.fmt)) :
    TileWritten t (t.loadTile d p.2.fmt (tileElems (s.vq2Rows slot (s.readS a) (s.readS b)) p.2.fmt (p :: gs))) d (denseNeed p.2.fmt)
      (fun x => x.HoldsRows s.myCtx.codebook p.2.fmt (s.vq2Rows slot (s.readS a) (s.readS b)) (p :: gs)) := by
  have hobs := hgather.observed
  have hnum := hgather.numbers.trans (tileRows_numbers ..)
  refine tileWritten_loadTile (hobs.isSup.trans (State.isSup_of_cluster hc)) (hobs.room hroom) fun x hkind hrank hfmt hcode =>
    ⟨hkind, hrank, hfmt, fun hscaled i hi j e he => ?_⟩
  have hcode := hcode hscaled
  have hf : p.2.fmt ≠ Fmt.vq2 := fun h => by
    rw [h] at hscaled
    exact absurd hscaled (by decide)
  have hsize : rowSize p.2.fmt = 64 := if_neg (by simpa using hf)
  split
  · rename_i hvq
    intro hefmt hj w hw
    rw [hcode _ (by omega), tileElems_weight hnum hf hi hj hw hvq.1 he]
    dsimp only [Option.elim]
    rw [tilePut_weight (hdata _ he) hefmt hf, hobs.codebook]
    rfl
  · rename_i hvq
    rw [hsize]
    intro hj
    have hrow : (s.vq2Rows slot (s.readS a) (s.readS b)).getD i false = false := Bool.eq_false_iff.2 fun h => hvq ⟨h, hf⟩
    rw [hcode _ (by omega), tileElems_element hnum hf hi hj hrow he]
    exact tilePut_element (hdata _ he) ..
end

/-! ### Sparse tiles (R329) -/

/-- A quiet read leaves the state and nothing to note. -/
theorem ctxRead_quiet {s : State} {slot : Nat} {va : Word} {n : Nat} {x : Xlate} {v : Nat} (h : s.Reads slot .read va n x v false)
    (hq : s.Quiet slot x) : Comp.go (ctxRead slot .read va n) s = (.ok (v, []), s) := by
  rw [ctxRead_go h, h.1.accessed_quiet hq, State.noteOutside_elsewhere _ _ _ _ _ _ (by rw [hq.2.2.2.2.2, Bool.and_false])]
  rfl

/-- The metadata of the rows from `i` on. -/
theorem loadMeta_go {s : State} {slot : Nat} {c : Word} {n : Nat} {ms : List Nat}
    (h : ∀ i < 64, ∃ x, s.Reads slot .read (c + BitVec.ofNat 64 (n * i)) n x (ms.getD i 0) false ∧ s.Quiet slot x) (k : Nat) :
    ∀ i, i + k ≤ 64 → Comp.go (loadMeta slot c n k i) s = (.ok ((List.range' i k).map fun j => (ms.getD j 0, [])), s) := by
  induction k with
  | zero => exact fun _ _ => rfl
  | succ k ih =>
    intro i hi
    obtain ⟨x, hx, hq⟩ := h i (by omega)
    rw [loadMeta, Comp.go_bind_ok (ctxRead_quiet hx hq), Comp.go_bind_ok (ih (i + 1) (by omega)), List.range'_succ, List.map_cons]
    rfl

theorem range_map_getD_zero {ms : List Nat} (h : ms.length = 64) : (List.range' 0 64).map (fun j => ms.getD j 0) = ms := by
  rw [← List.range_eq_range', ← h]
  exact List.ext_getElem (by simp) fun i h1 h2 => by simp [h2]

/-- What lands at a place of a sparse tile (R329). -/
def sparseElem (wide : Bool) (ms : List Nat) (gs : List (Nat × Got)) (k : Nat) : Option (Got × Option Nat) :=
  ((sparseSource wide (ms.getD (k / 64) 0) (k % 64)).bind fun j =>
    (gs.find? fun p => p.1 == 64 * (k / 64) + j).map Prod.snd).map fun g => (g, none)

section
variable {s t : State} {slot : Nat} (hc : s.cur = .cluster slot .M) {d a b rc : RegF} {xs : List Xlate} {p : Nat × Got}
  {gs : List (Nat × Got)} (hdata : ∀ q ∈ p :: gs, q.2.poison = false)
  (hgather : s.GathersRows slot (tileRows (s.readS a) (s.readS b) fun _ => 32) true xs (p :: gs) t)
  (hroom : s.Room d (denseNeed p.2.fmt)) {wide : Bool} {ms : List Nat}
include hc hdata hgather hroom

theorem sparseLoad_go (hms : t.ReadsMeta slot (s.readS rc) (if wide then 16 else 8) ms) (hgood : badMeta wide ms = none)
    (hfmt : ∀ q ∈ p :: gs, q.2.fmt ≠ Fmt.none ∧ q.2.fmt ≠ Fmt.vq2) :
    Comp.go (sparseLoad d a b rc wide) s = (.ok (), t.loadTile d p.2.fmt (sparseElem wide ms (p :: gs))) := by
  obtain ⟨hlen, hms⟩ := hms
  have hfst : ((List.range' 0 64).map fun j => (ms.getD j 0, ([] : List (Word × Nat)))).map Prod.fst = ms := by
    rw [List.map_map]
    exact range_map_getD_zero hlen
  have hsnd : ((List.range' 0 64).map fun j => (ms.getD j 0, ([] : List (Word × Nat)))).flatMap Prod.snd = [] := by
    simp [List.flatMap_def]
  have hchecks : Allowed [(!(p :: gs).any fun q => q.2.fmt == Fmt.vq2, illegalOperand 0x04 0 1 Fmt.vq2.toNat), noneCheck p.2.fmt (p :: gs),
      t.fitCheck d (denseNeed p.2.fmt)] := by
    refine allowed_cons.2 ⟨?_, allowed_cons.2 ⟨noneCheck_ok (hfmt p List.mem_cons_self).1 fun q hq => (hfmt q hq).1,
      (hgather.observed.room hroom).fits⟩⟩
    have hany : ((p :: gs).any fun q => q.2.fmt == Fmt.vq2) = false := List.any_eq_false.2 fun q hq => by
      rw [beq_false_of_ne (hfmt q hq).2]
      exact Bool.false_ne_true
    rw [hany]
    rfl
  unfold sparseLoad
  rw [Comp.go_bind_ok (Comp.go_get _), firstOf_ok (boundChecks_ok (l := [(d, 0)]) (by simpa using hroom.1)),
    Comp.go_bind_ok (Comp.go_ofStop_ok ..)]
  rw [State.slot_of_cluster hc, Comp.go_bind_ok (gatherRows_go hgather hdata),
    Comp.go_bind_ok (loadMeta_go hms 64 0 (by decide))]
  dsimp only
  rw [Comp.go_bind_ok (Comp.go_get _), filled_data hdata]
  dsimp only [List.headD_cons]
  rw [firstOf_ok hchecks, Comp.go_bind_ok (Comp.go_ofStop_ok ..), hfst, hgood]
  dsimp only
  rw [Comp.go_bind_ok (Comp.go_set ..), hsnd]
  rfl

/-- The tile holds at each place what its metadata names. -/
theorem tileWritten_sparse :
    TileWritten t (t.loadTile d p.2.fmt (sparseElem wide ms (p :: gs))) d (denseNeed p.2.fmt) (fun x =>
      x.kind = .dense ∧ x.rank = 0 ∧ x.fmt = p.2.fmt ∧ (Fmt.isScaled p.2.fmt = false → ∀ i < 64, ∀ j < 64,
        match sparseSource wide (ms.getD i 0) j with
        | none => x.strip.code (64 * i + j) = 0
        | some k => ∀ e, (64 * i + k, e) ∈ p :: gs → x.strip.code (64 * i + j) = loadedCode p.2.fmt e)) := by
  have hobs := hgather.observed
  have hnum := hgather.numbers.trans (tileRows_numbers ..)
  refine tileWritten_loadTile (hobs.isSup.trans (State.isSup_of_cluster hc)) (hobs.room hroom) fun x hkind hrank hfmt hcode =>
    ⟨hkind, hrank, hfmt, fun hscaled i hi j hj => ?_⟩
  have hcode := hcode hscaled (64 * i + j) (by omega)
  unfold sparseElem at hcode
  rw [show (64 * i + j) / 64 = i by omega, show (64 * i + j) % 64 = j by omega] at hcode
  cases hsource : sparseSource wide (ms.getD i 0) j with
  | none =>
    rw [hsource] at hcode
    exact hcode
  | some k =>
    intro e he
    rw [hsource] at hcode
    dsimp only [Option.bind_some] at hcode
    rw [find?_number (nodup_numbers hnum fun _ => by decide) he] at hcode
    exact hcode.trans (tilePut_element (hdata _ he) ..)
end

/-! ### Accumulators (R339) -/

/-- The values of converted elements. -/
theorem gotsF32_value (cb : Nat → BitVec 32) (l : List (Got × Option Nat)) :
    (gotsF32 cb l).go.1 = l.map fun g => if g.1.poison then 0 else (rn (g.1.weight cb g.2)).1 := by
  have hsteady (g : Got × Option Nat) :
      (if g.1.poison then (pure 0 : Flagged F32) else Flagged.of (rn (g.1.weight cb g.2))).Steady := .ite (.pure _) (.of _)
  unfold gotsF32
  rw [Flagged.go_bind _ fun _ => .mapM hsteady l, Flagged.go_mapM hsteady]
  refine List.map_congr_left fun g _ => ?_
  split <;> rfl

theorem filterMap_total {α β : Type} {f : α → Option β} {g : α → β} {l : List α} (h : ∀ a ∈ l, f a = some (g a)) :
    l.filterMap f = l.map g := by
  induction l with
  | nil => rfl
  | cons a l ih => rw [List.filterMap_cons, h a List.mem_cons_self, List.map_cons, ih fun b hb => h b (List.mem_cons_of_mem _ hb)]

/-- The words that an accumulator takes. -/
def accWords (cb : Nat → BitVec 32) (vq : List Bool) (f : Fmt) (gs : List (Nat × Got)) : List (BitVec 32) × Flags :=
  if f.isReal then (gotsF32 cb ((List.range 4096).filterMap (tileElems vq Fmt.fp32 gs))).go
  else (gs.map fun q => BitVec.ofInt 32 (decodeElem q.2.fmt q.2.code 0x7F).toInt, 0)

/-- The integer that an element of an integer format is. -/
theorem ofInt_decode {f : Fmt} (hf : f.isReal = false) (c : Word) : (match decodeElem f c 0x7F with
    | .fin s m e => BitVec.ofInt 32 ((if s then -1 else 1) * (m <<< e.toNat : Nat))
    | _ => 0) = BitVec.ofInt 32 (decodeElem f c 0x7F).toInt := by
  have hint : ∃ n : Int, decodeElem f c 0x7F = Val.ofInt n := by
    have hkind : f.isScaled = false ∧ f.isFloat = false ∧ (f == Fmt.vq2) = false := by revert hf; revert f; decide
    obtain ⟨hscaled, hfloat, hvq⟩ := hkind
    unfold decodeElem
    rw [hscaled, if_neg Bool.false_ne_true]
    unfold Fmt.own
    rw [hfloat, hvq, if_neg Bool.false_ne_true, if_neg Bool.false_ne_true]
    split <;> exact ⟨_, rfl⟩
  obtain ⟨n, hn⟩ := hint
  rw [hn]
  rfl

section
variable {s t : State} {slot : Nat} (hc : s.cur = .cluster slot .M) {d a b : RegF} {xs : List Xlate} {p : Nat × Got} {gs : List (Nat × Got)}
  (hdata : ∀ q ∈ p :: gs, q.2.poison = false)
  (hgather : s.GathersRows slot (tileRows (s.readS a) (s.readS b) (rowReads (s.vq2Rows slot (s.readS a) (s.readS b)))) true xs (p :: gs) t)
  (hfmt : ∀ q ∈ p :: gs, q.2.fmt ≠ Fmt.none ∧ Fmt.isReal q.2.fmt = Fmt.isReal p.2.fmt)
include hc hdata hgather hfmt

theorem accLoad_go : Comp.go (accLoad d a b) s = (.ok (),
    let r := accWords t.myCtx.codebook (s.vq2Rows slot (s.readS a) (s.readS b)) p.2.fmt (p :: gs)
    (t.setAcc d (.put (if Fmt.isReal p.2.fmt then .fp32 else .i32) r.1)).orFlags r.2) := by
  have hnone : ((p :: gs).find? fun q => !q.2.poison && (q.2.fmt == Fmt.none || q.2.fmt.isReal != p.2.fmt.isReal)) = none :=
    List.find?_eq_none.2 fun q hq => by
      obtain ⟨hne, hreal⟩ := hfmt q hq
      simp [hne, hreal]
  unfold accLoad
  rw [Comp.go_bind_ok (Comp.go_get _)]
  dsimp only
  rw [State.slot_of_cluster hc, Comp.go_bind_ok (gatherRows_go hgather hdata), Comp.go_bind_ok (Comp.go_get _), filled_data hdata]
  dsimp only [List.headD_cons]
  rw [hnone]
  dsimp only
  unfold accWords
  by_cases hreal : Fmt.isReal p.2.fmt = true
  · rw [if_pos hreal, if_pos hreal]
    exact congrArg (fun c => Comp.go c t) (if_pos hreal)
  · have hwords : ((p :: gs).map Prod.snd).map (fun g => if g.poison then 0 else (match decodeElem g.fmt g.code 0x7F with
        | .fin s m e => BitVec.ofInt 32 ((if s then -1 else 1) * (m <<< e.toNat : Nat))
        | _ => 0)) = (p :: gs).map fun q => BitVec.ofInt 32 (decodeElem q.2.fmt q.2.code 0x7F).toInt := by
      rw [List.map_map]
      refine List.map_congr_left fun q hq => ?_
      dsimp only [Function.comp_apply]
      rw [hdata q hq, if_neg Bool.false_ne_true]
      exact ofInt_decode ((hfmt q hq).2.trans (Bool.eq_false_iff.2 hreal)) _
    rw [if_neg hreal, if_neg hreal]
    refine (congrArg (fun c => Comp.go c t) (if_neg hreal)).trans ?_
    have hzero (w : List (BitVec 32)) : (t.setAcc d (.put .i32 w)).orFlags 0 = t.setAcc d (.put .i32 w) := by
      rw [State.setAcc, State.orFlags_modMyCtx (hgather.observed.isSup.trans (State.isSup_of_cluster hc))]
      simp
    dsimp only
    rw [hzero]
    exact congrArg (fun w => (Except.ok (), t.setAcc d (.put .i32 w))) hwords
end

/-- A word of an accumulator of FP32, by the element at its place. -/
theorem accWords_real {cb : Nat → BitVec 32} {vq : List Bool} {f : Fmt} (hf : f.isReal = true) {gs : List (Nat × Got)}
    (hnum : gs.map Prod.fst = (rowNumbers (rowReads vq)).flatten) {k : Nat} (hk : k < 4096)
    {g : Got} {w : Option Nat} (helem : tileElems vq Fmt.fp32 gs k = some (g, w)) (hg : g.poison = false) :
    (accWords cb vq f gs).1.getD k 0 = (rn (g.weight cb w)).1 := by
  have hsome (j : Nat) (hj : j ∈ List.range 4096) :
      tileElems vq Fmt.fp32 gs j = some ((tileElems vq Fmt.fp32 gs j).getD (Got.poisoned, none)) := by
    obtain ⟨e, he⟩ := Option.isSome_iff_exists.1 (tileElems_isSome (f := Fmt.fp32) hnum (by decide) (List.mem_range.1 hj))
    rw [he]
    rfl
  unfold accWords
  rw [if_pos hf, gotsF32_value, filterMap_total hsome, List.map_map, List.getD_eq_getElem?_getD, List.getElem?_map, List.getElem?_range hk]
  dsimp only [Option.map_some, Option.getD_some, Function.comp_apply]
  rw [helem]
  exact if_neg (by rw [Option.getD_some, hg]; exact Bool.false_ne_true)

theorem rowNumbers_whole {n : Nat → Nat} (h : ∀ i < 64, n i = 64) : (rowNumbers n).flatten = List.range 4096 := by
  have hall : ∀ m ≤ 64, ((List.range m).map fun i => (List.range (n i)).map (64 * i + ·)).flatten = List.range (64 * m) := by
    intro m
    induction m with
    | zero => exact fun _ => rfl
    | succ m ih =>
      intro hm
      rw [List.range_succ, List.map_append, List.flatten_append, ih (by omega), List.map_cons, List.map_nil, List.flatten_cons,
        List.flatten_nil, List.append_nil, h m (by omega), ← List.range_add, Nat.mul_succ]
  exact hall 64 (Nat.le_refl _)

/-- A word of an accumulator of I32. -/
theorem accWords_int {cb : Nat → BitVec 32} {vq : List Bool} {f : Fmt} (hf : f.isReal = false) {gs : List (Nat × Got)}
    (hnum : gs.map Prod.fst = List.range 4096) {k : Nat} {e : Got} (he : (k, e) ∈ gs) :
    (accWords cb vq f gs).1.getD k 0 = BitVec.ofInt 32 (decodeElem e.fmt e.code 0x7F).toInt := by
  obtain ⟨i, hi⟩ := List.mem_iff_getElem?.1 he
  have hki : (List.range 4096)[i]? = some k := by rw [← hnum, List.getElem?_map, hi]; rfl
  obtain ⟨hlt, hik⟩ := List.getElem?_eq_some_iff.1 hki
  rw [List.getElem_range] at hik
  subst hik
  unfold accWords
  rw [hf, if_neg Bool.false_ne_true, List.getD_eq_getElem?_getD, List.getElem?_map, hi]
  rfl

/-- Settles O31: the rows are gathered, and the tile or accumulator takes them place by place. -/
theorem matrixLoads : Obligations.MatrixLoads := by
  unfold Obligations.MatrixLoads
  intro s slot g d a b rc xs p gs t hc hg hdata rows f cb vq
  refine ⟨fun i hi hgather hroom hfmt hvq => ?dense, fun mode ms hmode hgather hms hgood hroom hfmt => ?sparse, fun hgather hfmt => ?acc⟩
  case dense =>
    have hgo := denseLoad_go hc hdata hgather hroom hfmt hvq
    refine ⟨_, ?_, tileWritten_dense_rows hc hdata hgather hroom⟩
    simp only [List.mem_cons, List.not_mem_nil, or_false] at hi
    rcases hi with rfl | rfl
    · exact run_ok hg hgo
    · exact run_ok hg hgo
  case sparse =>
    refine ⟨_, run_ok hg ?_, tileWritten_sparse hc hdata hgather hroom (wide := mode == 2) (ms := ms)⟩
    rw [beq_false_of_ne hmode, if_neg Bool.false_ne_true]
    exact sparseLoad_go hc hdata hgather hroom hms hgood hfmt
  case acc =>
    have hobs := hgather.observed
    have hnum := hgather.numbers.trans (tileRows_numbers ..)
    have hcb : t.myCtx.codebook = cb := hobs.codebook
    refine ⟨_, fun e => (accWords t.myCtx.codebook vq f (p :: gs)).1.getD e 0, run_ok hg (accLoad_go hc hdata hgather hfmt),
      accWritten_put (hobs.isSup.trans (State.isSup_of_cluster hc)) _ _ fun _ _ => rfl, fun hreal i hi j e he => ?_, fun hint hrows k e he => ?_⟩
    · split
      · rename_i hrow
        intro hefmt hj w hw
        refine (accWords_real hreal hnum (by omega) (tileElems_weight hnum (by decide) hi hj hw hrow he) (hdata _ he)).trans ?_
        rw [Got.weight, hefmt, hcb]
        rfl
      · rename_i hrow
        intro hj
        exact accWords_real hreal hnum (by omega)
          (tileElems_element hnum (by decide) hi hj (Bool.eq_false_iff.2 hrow) he) (hdata _ he)
    · exact accWords_int hint (hnum.trans (rowNumbers_whole fun i hi => rowReads_elements (hrows i hi))) he

end Sys2Proof.Machine
end
